-- ==== Sys2Proof/Word.lean ====
section
/-!
DEFINITION. The word types of the Iclys F9620 (spec/00_scope.md R6): a general register and a global
address hold 64 bits, memory is a sequence of bytes.
-/
namespace Sys2Proof

/-- A 64-bit general register, system register or global address (R14). -/
abbrev Word := BitVec 64

/-- One byte of memory. -/
abbrev Byte := BitVec 8

/-- The 64 bytes of an instruction line, byte 0 first (R59). -/
abbrev Line := List Byte

/-- A sparse table: pairs of key and value with rising keys; an unlisted key holds the default its
reader names. Plain data (no function), so states can be compared. -/
abbrev SMap (α : Type) := List (Nat × α)

end Sys2Proof
end

