-- ==== Sys2Proof/Syntax.lean ====
section
/-!
DEFINITION. The instructions and machine events of spec/opcode_table.json, one constructor per row.
Field widths follow spec/03_lines_and_encodings.md R61 and R73 and the chapter of each major.
-/
namespace Sys2Proof

/-- A 5-bit field naming a general register g0 to g31 (R73). -/
abbrev GReg := BitVec 5
/-- A vector register v0 to v15 (R73). -/
abbrev VReg := BitVec 4
/-- A mask register m0 to m7 (R73). -/
abbrev MReg := BitVec 3
/-- An accumulator tile acc0 to acc15 (R16). -/
abbrev AReg := BitVec 4

/-- Scope codes 000 to 110 (R132). -/
inductive Scope where
  | lane | core | oct | die | pkg | pod | sys
  deriving DecidableEq, Repr

/-- Order codes (R133). -/
inductive Order where
  | relaxed | acq | rel | ar
  deriving DecidableEq, Repr

/-- Access sizes (R135). -/
inductive Size where
  | b | h | w | d
  deriving DecidableEq, Repr

/-- Nullify code N of a control transfer (R100). -/
inductive Nullify where
  | plain | nt | nn
  deriving DecidableEq, Repr

/-- Scalar floating-point types (R97). -/
inductive FType where
  | f32 | f16 | bf
  deriving DecidableEq, Repr

/-- FCVT format codes 0x0 to 0x9 (R99). -/
inductive CvtFmt where
  | i64 | n64 | i32 | n32 | f32 | f16 | bf | e5 | e4 | e2
  deriving DecidableEq, Repr

/-- Rounding modes of FCVT and VCVT (R41). -/
inductive CvtMode where
  | ne | rz | sr
  deriving DecidableEq, Repr

/-- Element types of the vector unit (R191). -/
inductive EType where
  | b | h | w | f32 | bf | f16 | e4 | e5 | e2
  deriving DecidableEq, Repr

/-- Reduction operators of XSENDR and COLL (R157, R177). -/
inductive RedOp where
  | add | min | max
  deriving DecidableEq, Repr

/-- Reduction types of XSENDR and COLL (R157, R177). -/
inductive RedType where
  | w | f32 | bf
  deriving DecidableEq, Repr

/-- Formats of a matrix multiply (R212). -/
inductive MmaFmt where
  | bf | f16 | e4 | e5 | e2 | i8
  deriving DecidableEq, Repr

/-- MLDB sizes (R215). -/
inductive LatchSize where
  | full | half | quarter
  deriving DecidableEq, Repr

/-- Mirror modes (R215). -/
inductive Mirror where
  | off | on | force
  deriving DecidableEq, Repr

/-- PREF levels (R143). -/
inductive PrefLevel where
  | l1 | sl
  deriving DecidableEq, Repr

/-- Page types (R77, R337). -/
inductive PageType where
  | normal | wcomb | device | strong
  deriving DecidableEq, Repr

/-- A run of pages that OBJCREATE asks for: how many, their type, whether they have no frame yet, and their backing
(R337: 0 HBM, 1 host, 2 counter window). -/
structure PageRun where
  count  : Nat
  ty     : PageType
  absent : Bool
  back   : Nat
  deriving DecidableEq, Repr

/-- A Ductus instance: a scope from OCT to POD and its number (octet of the module, die, 0, 0) (R278). -/
structure Inst where
  scope : Scope
  idx   : Nat
  deriving DecidableEq, Repr

/-- A token ring: `die` is none for the two module rings, `k` the ring number of R294 (0-7 die, 8-9 module). -/
structure RingId where
  die : Nat
  k   : Nat
  deriving DecidableEq, Repr

/-- A node record as the host writes it, in the fields of R312. -/
structure NodeRec where
  entry    : Word := 0
  lcore0   : Nat := 0
  lcores   : Nat := 0
  litems   : Word := 0
  larg     : Word := 0
  cid      : Nat := 0
  level    : Nat := 0
  pinned   : Bool := false
  priv     : Bool := false
  nopreempt : Bool := false
  carea    : Word := 0
  status   : Word := 0
  est      : Nat := 0
  xlen     : Nat := 0
  deadline : Word := 0
  unitsOct : Nat := 0
  unitsDie : Nat := 0
  unitsPkg : Nat := 0
  unitsPod : Nat := 0
  ringsDie : Nat := 0
  ringsMod : Nat := 0
  xb       : Bool := false
  wells    : Nat := 0
  rslot    : Nat := 0
  ring     : Bool := false
  pstep    : Nat := 0
  evecl    : Word := 0
  count    : Nat := 0
  thresh   : Nat := 0
  succ     : List (Nat × Nat) := []
  deriving DecidableEq, Repr

/-- The header fields of a Uager command that its effect reads (R399), and the connection it arrives on. -/
structure Hdr where
  conn : Nat := 0
  ver  : Nat := 0
  tag  : Nat := 0
  cid  : Nat := 0
  /-- LEN, STATUS and the zero field of the header. -/
  len  : Nat := 0
  status : Nat := 0
  zero : Nat := 0
  deriving DecidableEq, Repr

/-- What SNAPSHOT names for a snapshot's lines (R354): the frames of its pool, 0 for none named, and their place on the host. -/
structure SnapRoom where
  frames : Nat
  dest   : Word
  deriving DecidableEq, Repr

/-- A request as it reaches a home slice (R342). -/
inductive SliceOp where
  | read | write (data : List (BitVec 8)) | prefetch
  deriving DecidableEq, Repr

/-- What a soft error may strike (R374, R278). Vector registers have the numbers 0 to 31, mask registers those from 32 on; the
queues are 0 vector, 1 matrix and 2 engine commands, with the place of the entry. -/
inductive ErrTarget where
  | tcm (core : Nat) (la : Nat) | well (octet w : Nat) (off : Nat) | slice (addr : Word)
  | hbm (die frameAddr : Nat) | greg (core ctx reg : Nat) | vreg (core reg : Nat) | queue (core which place : Nat)
  | pcq (core ctx : Nat) | latch (core : Nat) (off : Nat) | acc (octet tile elem : Nat)
  | tag (octet w tile : Nat) | legit (inst : Inst) | genr (inst : Inst) | cnt (inst : Inst) (unit : Nat)
  | ringx (ring : RingId) (node : Nat) | l1data (core : Nat) (addr : Word) | l1tag (core : Nat) (addr : Word) | obb (core obj : Nat)
  | sliceTag (addr : Word) | ownerTag (addr : Word) | gateway (die port : Nat) (addr : Word) | repairMap
  | pinTable (addr : Word) | translation (die slice obj pg : Nat) | polyTable (core : Nat)
  deriving DecidableEq, Repr

/-- A link, named for the timeouts of R389: between two routers of a die, between two dies, or an
Ethernet port with the module at its other end. The end named last is the one that has fallen silent. -/
inductive LinkId where
  | router (die a b : Nat) | dieLink (a b : Nat) | eth (die peer : Nat)
  deriving DecidableEq, Repr

/-- A machine event that is due (R279, R289 and the rows of the opcode table that no word encodes): the same
rows, in the same order, as the event constructors of `Instr`. The state keeps lists of these. -/
inductive Event where
  -- machine events: traps and waits (R126, R125, R120, R109, R121, R117)
  | trapEntry (c k : Nat) (cause addr : Word) | alarm (c : Nat) | wfeTimeoutEvent (c k : Nat)
  | wfeComplete (c k : Nat) | hjoinComplete (c : Nat) | parkWake (c : Nat) | waitStComplete (c k : Nat)
  | fdutyWindowApply (c : Nat) | dividerChangeComplete (c : Nat)
  -- memory (R343, R234, R230, R342, R239, R338, R386)
  | pageFaultReply (obj pg : Nat) (resolved : Bool) | coalescingBufferDrain (c : Nat)
  | loopbackAccess (c k : Nat) | sliceRequest (c cid : Nat) (addr : Word) (size : Nat) (op : SliceOp)
  | sliceFillBurst (c cid : Nat) (addr : Word) | obbFill (c obj : Nat) | frameTest (die stack frame : Nat) (pass : Bool)
  -- wells and exchange (R149, R150, R153, R158 to R162)
  | giveIndivisibleStep (c k : Nat) | wwaitComplete (c k : Nat) | wunmapComplete (c k : Nat)
  | xbarRelease (i : Inst) | xsendBeats (c k : Nat) | xrecvWindow (c k : Nat) | exchangePayloadLanding
  | xsendrCombine (i : Inst) | xendRelease (i : Inst)
  -- messages (R165, R167, R168)
  | messageArrival (dst : Nat) (eth : Bool) (src : Word) (data : List (BitVec 8))
  | qsendBoundExpiry (c k : Nat) | qrecvComplete (c k : Nat)
  -- Ductus (R285, R172, R306, R174, R287)
  | arrivalMessage (i : Inst) (u m : Nat) | barrierRelease (i : Inst) (u : Nat) | barrierTimeout (c k : Nat)
  | tokwGrant (c k : Nat) | tokenHoldTimeout (r : RingId) (c : Nat) | tokenRingRound (r : RingId)
  -- engines (R179 to R181, R407)
  | cpyComplete (c : Nat) | cpywComplete (c k : Nat) | timedCommandStart (c : Nat) (copy : Bool) (id : Nat)
  | collChunk (i : Inst) | collMemberTimeout (i : Inst) | collwComplete (c k : Nat) | podChunkTimeout
  -- vector and matrix queues (R183, R210, R272, R217, R220)
  | vectorQueueStart (c : Nat) | vectorQueueComplete (c : Nat) | matrixDispatch (oct : Nat) (res : Nat)
  | matrixCommandComplete (c : Nat) | mringLanding (c : Nat) | mringTimeout (c : Nat) | mwaitComplete (c : Nat)
  -- audits and pokes (R289, R290, R296)
  | ductusRound (i : Inst) | auditVerdict (i : Inst) | copyUpdate (i : Inst)
  | dpokeCnt (i : Inst) (u : Nat) (v : BitVec 32) | dpokeF (i : Inst) (u c : Nat) (v : BitVec 32)
  | dpokeXv (r : RingId) (c : Nat) (v : BitVec 32) | dpokeStep (i : Inst) (c : Nat) (v : BitVec 32)
  | dpokeDist (i : Inst) (c : Nat) (v : BitVec 32) | dpokeGen (i : Inst) (v : BitVec 32)
  -- register writes with effects (R294, R44, R16, R115)
  | tokkWrite (c k : Nat) (v : Word) | srseedWrite (c k : Nat) (v : Word) | accmapWrite (c k : Nat) (v : Word)
  | registerWrite (c k : Nat) (reg : Nat) (v : Word)
  -- scheduler (R321, R313, R314, R320, R322, R326 to R328, R334)
  | dispatchPass | wakeMessage (c n : Nat) | launchStart (c : Nat)
  | counterWindowStore (cid n : Nat) (v : Word) | counterWindowAmoadd (c k cid n : Nat) (rd : GReg) (v : Word)
  | counterWindowLoad (c k cid n : Nat) (rd : GReg)
  | ageExpiry (n : Nat) | pdelayExpiry (n : Nat) | preemptMessage (n : Nat) | switchOut (c : Nat)
  | xmaxlenExpiry (n : Nat) | resume (n : Nat)
  -- translation (R345, R347, R355)
  | pageMigration (obj pg stack frame : Nat) | migrationSwitch (obj pg : Nat)
  | domainSplit (die d e : Nat) (slots : BitVec 16) | splitWalk (die d set : Nat) | snapshotDrain (obj : Nat)
  -- governor (R358, R362, R366 to R368)
  | rampSlotBoundary | pounceLevelDecay (oct : Nat) | budgetControllerPass | powerSwitchOff (c : Nat)
  | droopEvent (die row : Nat) | prethrottleEnd (die row : Nat)
  -- reliability (R380, R388 to R390)
  | deviceLevelFault (cid kind : Nat) (addr : Word) (core : Nat) (ecause : Word)
  | patrolScrub (t : ErrTarget) | linkRecalibration (l : LinkId) | hbmRecalibration (die stack : Nat) | telemetry
  | linkTimeout (l : LinkId) | routerTimeout (die r : Nat) | dieTimeout (die : Nat) | moduleTimeout (m : Nat)
  | routeRecomputation (die : Nat)
  -- the host and start-up (R400, R403, R408 to R412)
  | attach (h : Hdr) (vmin vmax : Nat) (feat : BitVec 32) (modno pods : Nat) | attest (h : Hdr) (nonce : BitVec 256)
  | fwload (h : Hdr) (chunk : List (BitVec 8)) (last : Bool) (sigOk : Bool) | start (h : Hdr) (cold : Bool)
  | startStageComplete (ok : Bool) | startTimeout | powerOn (imageOk : Bool)
  | cidres (h : Hdr) | cidevict (h : Hdr) | cidcfg (h : Hdr) (weight quota : Nat)
  | nodewrite (h : Hdr) (n : Nat) (r : List Word) | nodeready (h : Hdr) (ns : List Nat) | nodefree (h : Hdr) (n : Nat)
  | nodeadd (h : Hdr) (n inc : Nat)
  | objcreate (h : Hdr) (obj die dom : Nat) (priv : Bool) (owncore owncid : Nat) (runs : List PageRun)
  | objresize (h : Hdr) (obj size : Nat) | objdelete (h : Hdr) (obj : Nat)
  | memwrite (h : Hdr) (addr : Word) (data : List (BitVec 8)) | memread (h : Hdr) (addr : Word) (n : Nat)
  | snapshot (h : Hdr) (obj : Nat) (t : Word) (room : SnapRoom) | regwrite (h : Hdr) (reg : Nat) (v : Word)
  | statread (h : Hdr) (reg core : Nat) | doorbell (h : Hdr) (core : Nat)
  -- a command whose operation or payload is none of these (R399, R400)
  | otherCommand (h : Hdr) (op : Nat)
  | dieThrottle (die : Nat) | dieTrip (die : Nat)
  -- errors (R374, R368, R389)
  | softError (t : ErrTarget) (mask : BitVec 64) | prethrottleStart (die row : Nat) | linkFailureNamed (l : LinkId)
  deriving DecidableEq, Repr

/-- The instructions (majors 0x00 to 0x38) and the machine events of the opcode table. Register
arguments stand in the order of the fields a, b, c, d; an event names the core, context, octet or
die it concerns. -/
inductive Instr where
  -- majors 0x00 to 0x07 (R89)
  | add2 (a b : GReg) | sub2 (a b : GReg) | and2 (a b : GReg) | or2 (a b : GReg)
  | xor2 (a b : GReg) | mov (a b : GReg) | shl2 (a b : GReg) | shrl2 (a b : GReg)
  -- major 0x08 (R90)
  | add (a b c : GReg) | sub (a b c : GReg) | and (a b c : GReg) | or (a b c : GReg)
  | xor (a b c : GReg) | andn (a b c : GReg) | orn (a b c : GReg) | shl (a b c : GReg)
  | shrl (a b c : GReg) | shra (a b c : GReg) | rot (a b c : GReg) | addw (a b c : GReg)
  | subw (a b c : GReg) | mul (a b c : GReg) | mulh (a b c : GReg) | mulhn (a b c : GReg)
  | div (a b c : GReg) | divn (a b c : GReg) | rem (a b c : GReg) | remn (a b c : GReg)
  | min (a b c : GReg) | max (a b c : GReg) | minn (a b c : GReg) | maxn (a b c : GReg)
  | seq (a b c : GReg) | sne (a b c : GReg) | slt (a b c : GReg) | sltn (a b c : GReg)
  | sle (a b c : GReg) | slen (a b c : GReg) | csel (a b c : GReg)
  -- major 0x09 (R91)
  | addi (a b : GReg) (imm : BitVec 24) | andi (a b : GReg) (imm : BitVec 24)
  | ori (a b : GReg) (imm : BitVec 24) | xori (a b : GReg) (imm : BitVec 24)
  | shli (a b : GReg) (imm : BitVec 24) | shrli (a b : GReg) (imm : BitVec 24)
  | shrai (a b : GReg) (imm : BitVec 24)
  -- major 0x0A (R92)
  | movi (a : GReg) (imm : BitVec 48)
  -- major 0x0B (R93)
  | not (a b : GReg) | clz (a b : GReg) | ctz (a b : GReg) | popc (a b : GReg)
  | sextB (a b : GReg) | sextH (a b : GReg) | sextW (a b : GReg)
  | zextB (a b : GReg) | zextH (a b : GReg) | zextW (a b : GReg)
  -- major 0x0C (R94); `len1` is the field len - 1
  | bfx (a b : GReg) (pos len1 : BitVec 6) | bfxS (a b : GReg) (pos len1 : BitVec 6)
  | bfi (a b : GReg) (pos len1 : BitVec 6)
  -- major 0x0D (R95)
  | obj (a b c : GReg) | objId (a b : GReg) | objOff (a b : GReg)
  | lea (a b c : GReg) (s : BitVec 2) (imm : BitVec 23)
  -- major 0x0E (R97)
  | fadd (t : FType) (a b c : GReg) | fsub (t : FType) (a b c : GReg) | fmul (t : FType) (a b c : GReg)
  | fmin (t : FType) (a b c : GReg) | fmax (t : FType) (a b c : GReg) | fseq (t : FType) (a b c : GReg)
  | fslt (t : FType) (a b c : GReg) | fsle (t : FType) (a b c : GReg)
  | fabs (t : FType) (a b : GReg) | fneg (t : FType) (a b : GReg) | fclass (t : FType) (a b : GReg)
  -- major 0x0F (R98, R99)
  | ffma (t : FType) (a b c d : GReg)
  | fcvt (dst src : CvtFmt) (mode : CvtMode) (a b : GReg)
  -- control transfers (R101 to R105, R176)
  | b (n : Nullify) (disp : BitVec 16)
  | beq (n : Nullify) (a b : GReg) (disp : BitVec 22) | bne (n : Nullify) (a b : GReg) (disp : BitVec 22)
  | blt (n : Nullify) (a b : GReg) (disp : BitVec 22) | bge (n : Nullify) (a b : GReg) (disp : BitVec 22)
  | bltn (n : Nullify) (a b : GReg) (disp : BitVec 22) | bgen (n : Nullify) (a b : GReg) (disp : BitVec 22)
  | bz (n : Nullify) (a : GReg) (disp : BitVec 16) | bnz (n : Nullify) (a : GReg) (disp : BitVec 16)
  | jal (n : Nullify) (a : GReg) (disp : BitVec 25)
  | jr (n : Nullify) (a : GReg)
  -- helpers (R107 to R110)
  | hstart (a b c : GReg) | hjoin (a b : GReg) | hexit (a : GReg)
  -- system (R112)
  | trap (code : BitVec 11) | eret (n : Nullify)
  | rdsys (a : GReg) (reg : BitVec 11) | wrsys (reg : BitVec 11) (c : GReg)
  | ifence | park | wfe (a : GReg)
  | injectAcc (a c : GReg) (bit : BitVec 6) (dbl : Bool) | injectLoc (a c : GReg) (bit : BitVec 6) (dbl : Bool)
  | injectSlice (a c : GReg) (bit : BitVec 6) (dbl : Bool) | injectDec (a : GReg) (bit : BitVec 6) (dbl : Bool)
  | rdid (a : GReg) | rdidPod (a : GReg) | rdidCtx (a : GReg) | rdidPos (a : GReg)
  | rdstep (a : GReg) | waitSt (a c : GReg) (n : BitVec 11) | rdcyc (a : GReg)
  -- global and local memory (R135, R139)
  | ld (s : Size) (o : Order) (sc : Scope) (a b : GReg) (imm : BitVec 19)
  | ldn (s : Size) (o : Order) (sc : Scope) (a b : GReg) (imm : BitVec 19)
  | st (s : Size) (o : Order) (sc : Scope) (a b : GReg) (imm : BitVec 19)
  | ldl (s : Size) (a b : GReg) (imm : BitVec 13) | ldln (s : Size) (a b : GReg) (imm : BitVec 13)
  | stl (s : Size) (a b : GReg) (imm : BitVec 13)
  -- atomics (R140, R141); `dw` is the size bit, 1 for .D
  | amoadd (dw : Bool) (o : Order) (sc : Scope) (a b c : GReg) (imm : BitVec 17)
  | amoand (dw : Bool) (o : Order) (sc : Scope) (a b c : GReg) (imm : BitVec 17)
  | amoor (dw : Bool) (o : Order) (sc : Scope) (a b c : GReg) (imm : BitVec 17)
  | amoxor (dw : Bool) (o : Order) (sc : Scope) (a b c : GReg) (imm : BitVec 17)
  | amomin (dw : Bool) (o : Order) (sc : Scope) (a b c : GReg) (imm : BitVec 17)
  | amomax (dw : Bool) (o : Order) (sc : Scope) (a b c : GReg) (imm : BitVec 17)
  | amominn (dw : Bool) (o : Order) (sc : Scope) (a b c : GReg) (imm : BitVec 17)
  | amomaxn (dw : Bool) (o : Order) (sc : Scope) (a b c : GReg) (imm : BitVec 17)
  | amoswap (dw : Bool) (o : Order) (sc : Scope) (a b c : GReg) (imm : BitVec 17)
  | amocas (dw : Bool) (o : Order) (sc : Scope) (a b c : GReg) (imm : BitVec 17)
  | famoadd (o : Order) (sc : Scope) (a b c : GReg) (imm : BitVec 17)
  -- fences and cache operations (R143)
  | fence (sc : Scope) | fenceAcq (sc : Scope) | fenceRel (sc : Scope) | lbfence
  | pref (lvl : PrefLevel) (b : GReg) | cwb (b : GReg) | cinv (b : GReg) | cwbinv (b : GReg)
  | pinl (a b : GReg) | unpinl (b : GReg)
  -- wells (R148)
  | give (s : BitVec 3) (b : GReg) (t : BitVec 3) | wstat (a : GReg) (s : BitVec 3) | wwait (s : BitVec 3)
  | wmap (a : GReg) (s : BitVec 3) (b : GReg) | wunmap (a : GReg) (s : BitVec 3)
  | expect (s : BitVec 3) (b : GReg) | tagrd (a : GReg) (s : BitVec 3) (b : GReg)
  -- exchange (R157)
  | xbar (sc : Scope) (a : GReg) | xsend (n : BitVec 14) (b c : GReg)
  | xsendr (op : RedOp) (ty : RedType) (n : BitVec 14) (c : GReg) | xrecv (n : BitVec 14) (b : GReg)
  | xend (sc : Scope) (a : GReg)
  -- queued messages (R164); `len1` is the length in words minus 1
  | qsend (sc : Scope) (len1 : BitVec 5) (a b c : GReg) | qrecv (a c : GReg) | qpoll (a : GReg)
  -- Ductus (R169, R176)
  | bar (sc : Scope) (a : GReg) (u : BitVec 5) | bara (sc : Scope) (a : GReg) (u : BitVec 5)
  | barw (sc : Scope) (a : GReg) (u : BitVec 5)
  | tokw (sc : Scope) (a : GReg) (k : BitVec 5) | tokp (sc : Scope) (a : GReg) (k : BitVec 5)
  | wit (sc : Scope) (a : GReg) | witTok (sc : Scope) (a : GReg) (k : BitVec 4)
  | dstat (sc : Scope) (a : GReg) (sel : BitVec 5)
  | bil (n : Nullify) (sc : Scope) (tok : Option (BitVec 4)) (a : GReg) (disp : BitVec 19)
  -- engines (R177); `at?` is the step offset of a timed start
  | cpy (atn : Option (BitVec 16)) (a b c : GReg) | cpyw (a : GReg)
  | coll (op : RedOp) (ty : RedType) (sc : Scope) (atn : Option (BitVec 16)) (a b c : GReg) | collw (a : GReg)
  -- lanes (R187)
  | vclaim (a : GReg) (n8 : BitVec 4) | vyield | vlen (a : GReg)
  -- vector arithmetic, major 0x30 (R193)
  | vadd (t : EType) (a b c : VReg) (k : MReg) | vsub (t : EType) (a b c : VReg) (k : MReg)
  | vmul (t : EType) (a b c : VReg) (k : MReg) | vmin (t : EType) (a b c : VReg) (k : MReg)
  | vmax (t : EType) (a b c : VReg) (k : MReg) | vand (t : EType) (a b c : VReg) (k : MReg)
  | vor (t : EType) (a b c : VReg) (k : MReg) | vxor (t : EType) (a b c : VReg) (k : MReg)
  | vshl (t : EType) (a b c : VReg) (k : MReg) | vshrl (t : EType) (a b c : VReg) (k : MReg)
  | vshra (t : EType) (a b c : VReg) (k : MReg) | vabs (t : EType) (a b : VReg) (k : MReg)
  | vneg (t : EType) (a b : VReg) (k : MReg)
  -- major 0x31 (R194)
  | vfma (t : EType) (a b c d : VReg) (k : MReg)
  | vcvt (dst src : EType) (mode : CvtMode) (p : BitVec 3) (a b : VReg) (d : VReg) (k : MReg)
  | vseq (t : EType) (a : MReg) (b c : VReg) (k : MReg) | vslt (t : EType) (a : MReg) (b c : VReg) (k : MReg)
  | vsle (t : EType) (a : MReg) (b c : VReg) (k : MReg)
  | vsel (a b c : VReg) (d : MReg) | vbcast (t : EType) (a : VReg) (b : GReg) (k : MReg)
  | vext (a : GReg) (b : VReg) (c : GReg) | vperm (a b c : VReg) (k : MReg)
  -- vector memory, major 0x32 (R199)
  | vld (a : VReg) (b : GReg) (imm : BitVec 19) (k : MReg) | vst (a : VReg) (b : GReg) (imm : BitVec 19) (k : MReg)
  | vldl (a : VReg) (b : GReg) (imm : BitVec 19) (k : MReg) | vstl (a : VReg) (b : GReg) (imm : BitVec 19) (k : MReg)
  | vlds (z : Size) (a : VReg) (b c : GReg) (imm : BitVec 19) (k : MReg)
  | vgath (z : Size) (a : VReg) (b : GReg) (c : VReg) (imm : BitVec 19) (k : MReg)
  | vscat (z : Size) (a : VReg) (b : GReg) (c : VReg) (imm : BitVec 19) (k : MReg)
  -- reductions, major 0x33 (R203)
  | vredadd (t : EType) (a : GReg) (b : VReg) (k : MReg) | vredmax (t : EType) (a : GReg) (b : VReg) (k : MReg)
  | vredmin (t : EType) (a : GReg) (b : VReg) (k : MReg)
  | vmaxi (t : EType) (a : GReg) (b : VReg) (c : GReg) (k : MReg)
  | vmini (t : EType) (a : GReg) (b : VReg) (c : GReg) (k : MReg)
  -- masks, major 0x34 (R205)
  | mand (a b c : MReg) | mor (a b c : MReg) | mxor (a b c : MReg) | mnot (a b : MReg)
  | mpopc (a : GReg) (b : MReg) | mfirst (a : GReg) (b : MReg) | mset (a : MReg) (b : GReg)
  | mmov (a b : MReg) | mmovG (a : GReg) (b : MReg)
  -- polynomial unit, major 0x36 (R206)
  | ppld (b : GReg) | ppsel (s : BitVec 4) | ppev (t : FType) (a b : VReg) (k : MReg)
  -- matrix, majors 0x37 and 0x38 (R212, R215)
  | mma (f : MmaFmt) (atn : Option (BitVec 16)) (a : AReg) (b c : GReg)
  | mzero (a : AReg) | mldb (z : LatchSize) (b : GReg) | mring (atn : Option (BitVec 7)) | mchk (a : AReg)
  | mst (bf : Bool) (a : AReg) (b : GReg) | mmir (m : Mirror) | mwait (a : GReg) | mqstat (a : GReg)
  -- machine events: traps and waits (R126, R125, R120, R109, R121, R117)
  | trapEntry (c k : Nat) (cause addr : Word) | alarm (c : Nat) | wfeTimeoutEvent (c k : Nat)
  | wfeComplete (c k : Nat) | hjoinComplete (c : Nat) | parkWake (c : Nat) | waitStComplete (c k : Nat)
  | fdutyWindowApply (c : Nat) | dividerChangeComplete (c : Nat)
  -- memory (R343, R234, R230, R342, R239, R338, R386)
  | pageFaultReply (obj pg : Nat) (resolved : Bool) | coalescingBufferDrain (c : Nat)
  | loopbackAccess (c k : Nat) | sliceRequest (c cid : Nat) (addr : Word) (size : Nat) (op : SliceOp)
  | sliceFillBurst (c cid : Nat) (addr : Word) | obbFill (c obj : Nat) | frameTest (die stack frame : Nat) (pass : Bool)
  -- wells and exchange (R149, R150, R153, R158 to R162)
  | giveIndivisibleStep (c k : Nat) | wwaitComplete (c k : Nat) | wunmapComplete (c k : Nat)
  | xbarRelease (i : Inst) | xsendBeats (c k : Nat) | xrecvWindow (c k : Nat) | exchangePayloadLanding
  | xsendrCombine (i : Inst) | xendRelease (i : Inst)
  -- messages (R165, R167, R168)
  | messageArrival (dst : Nat) (eth : Bool) (src : Word) (data : List (BitVec 8))
  | qsendBoundExpiry (c k : Nat) | qrecvComplete (c k : Nat)
  -- Ductus (R285, R172, R306, R174, R287)
  | arrivalMessage (i : Inst) (u m : Nat) | barrierRelease (i : Inst) (u : Nat) | barrierTimeout (c k : Nat)
  | tokwGrant (c k : Nat) | tokenHoldTimeout (r : RingId) (c : Nat) | tokenRingRound (r : RingId)
  -- engines (R179 to R181, R407)
  | cpyComplete (c : Nat) | cpywComplete (c k : Nat) | timedCommandStart (c : Nat) (copy : Bool) (id : Nat)
  | collChunk (i : Inst) | collMemberTimeout (i : Inst) | collwComplete (c k : Nat) | podChunkTimeout
  -- vector and matrix queues (R183, R210, R272, R217, R220)
  | vectorQueueStart (c : Nat) | vectorQueueComplete (c : Nat) | matrixDispatch (oct : Nat) (res : Nat)
  | matrixCommandComplete (c : Nat) | mringLanding (c : Nat) | mringTimeout (c : Nat) | mwaitComplete (c : Nat)
  -- audits and pokes (R289, R290, R296)
  | ductusRound (i : Inst) | auditVerdict (i : Inst) | copyUpdate (i : Inst)
  | dpokeCnt (i : Inst) (u : Nat) (v : BitVec 32) | dpokeF (i : Inst) (u c : Nat) (v : BitVec 32)
  | dpokeXv (r : RingId) (c : Nat) (v : BitVec 32) | dpokeStep (i : Inst) (c : Nat) (v : BitVec 32)
  | dpokeDist (i : Inst) (c : Nat) (v : BitVec 32) | dpokeGen (i : Inst) (v : BitVec 32)
  -- register writes with effects (R294, R44, R16, R115)
  | tokkWrite (c k : Nat) (v : Word) | srseedWrite (c k : Nat) (v : Word) | accmapWrite (c k : Nat) (v : Word)
  | registerWrite (c k : Nat) (reg : Nat) (v : Word)
  -- scheduler (R321, R313, R314, R320, R322, R326 to R328, R334)
  | dispatchPass | wakeMessage (c n : Nat) | launchStart (c : Nat)
  | counterWindowStore (cid n : Nat) (v : Word) | counterWindowAmoadd (c k cid n : Nat) (rd : GReg) (v : Word)
  | counterWindowLoad (c k cid n : Nat) (rd : GReg)
  | ageExpiry (n : Nat) | pdelayExpiry (n : Nat) | preemptMessage (n : Nat) | switchOut (c : Nat)
  | xmaxlenExpiry (n : Nat) | resume (n : Nat)
  -- translation (R345, R347, R355)
  | pageMigration (obj pg stack frame : Nat) | migrationSwitch (obj pg : Nat)
  | domainSplit (die d e : Nat) (slots : BitVec 16) | splitWalk (die d set : Nat) | snapshotDrain (obj : Nat)
  -- governor (R358, R362, R366 to R368)
  | rampSlotBoundary | pounceLevelDecay (oct : Nat) | budgetControllerPass | powerSwitchOff (c : Nat)
  | droopEvent (die row : Nat) | prethrottleEnd (die row : Nat)
  -- reliability (R380, R388 to R390)
  | deviceLevelFault (cid kind : Nat) (addr : Word) (core : Nat) (ecause : Word)
  | patrolScrub (t : ErrTarget) | linkRecalibration (l : LinkId) | hbmRecalibration (die stack : Nat) | telemetry
  | linkTimeout (l : LinkId) | routerTimeout (die r : Nat) | dieTimeout (die : Nat) | moduleTimeout (m : Nat)
  | routeRecomputation (die : Nat)
  -- the host and start-up (R400, R403, R408 to R412)
  | attach (h : Hdr) (vmin vmax : Nat) (feat : BitVec 32) (modno pods : Nat) | attest (h : Hdr) (nonce : BitVec 256)
  | fwload (h : Hdr) (chunk : List (BitVec 8)) (last : Bool) (sigOk : Bool) | start (h : Hdr) (cold : Bool)
  | startStageComplete (ok : Bool) | startTimeout | powerOn (imageOk : Bool)
  | cidres (h : Hdr) | cidevict (h : Hdr) | cidcfg (h : Hdr) (weight quota : Nat)
  | nodewrite (h : Hdr) (n : Nat) (r : List Word) | nodeready (h : Hdr) (ns : List Nat) | nodefree (h : Hdr) (n : Nat)
  | nodeadd (h : Hdr) (n inc : Nat)
  | objcreate (h : Hdr) (obj die dom : Nat) (priv : Bool) (owncore owncid : Nat) (runs : List PageRun)
  | objresize (h : Hdr) (obj size : Nat) | objdelete (h : Hdr) (obj : Nat)
  | memwrite (h : Hdr) (addr : Word) (data : List (BitVec 8)) | memread (h : Hdr) (addr : Word) (n : Nat)
  | snapshot (h : Hdr) (obj : Nat) (t : Word) (room : SnapRoom) | regwrite (h : Hdr) (reg : Nat) (v : Word)
  | statread (h : Hdr) (reg core : Nat) | doorbell (h : Hdr) (core : Nat)
  | dieThrottle (die : Nat) | dieTrip (die : Nat)
  -- errors (R374, R368, R389)
  | softError (t : ErrTarget) (mask : BitVec 64) | prethrottleStart (die row : Nat) | linkFailureNamed (l : LinkId)
  deriving DecidableEq, Repr

end Sys2Proof
end

