-- ==== Sys2Proof/WellFormed.lean ====
section
/-!
DEFINITION. Operand limits of the instructions, each from the rule of its major: a term outside them is an
encoding its chapter calls reserved or illegal (R8, R88).
-/
namespace Sys2Proof

/-- A relaxed form carries scope LANE and an ordered one a scope from CORE to SYS (R133). -/
def orderScopeOk (o : Order) (sc : Scope) : Bool :=
  match o with
  | .relaxed => sc == .lane
  | _ => sc != .lane

/-- Integer formats of FCVT (R99). -/
def CvtFmt.isInt : CvtFmt → Bool
  | .i64 | .n64 | .i32 | .n32 => true
  | _ => false

/-- Destinations that .SR offers (R41, R99). -/
def CvtFmt.srOk : CvtFmt → Bool
  | .f16 | .bf | .e5 | .e4 | .e2 => true
  | _ => false

/-- The legal format pairs and modes of FCVT (R99). -/
def fcvtOk (dst src : CvtFmt) (m : CvtMode) : Bool :=
  dst != src && !(dst.isInt && src.isInt) && (m != .rz || (!src.isInt && dst.isInt)) && (m != .sr || dst.srOk)

/-- Integer element types (R191). -/
def EType.isInt : EType → Bool
  | .b | .h | .w => true
  | _ => false

/-- Sub-elements in a 32-bit element (R191). -/
def EType.n : EType → Nat
  | .b => 4 | .h => 2 | .w => 1 | .f32 => 1 | .bf => 2 | .f16 => 2 | .e4 => 4 | .e5 => 4 | .e2 => 8

/-- The legal type pairs, parts and modes of VCVT (R196). -/
def vcvtOk (dst src : EType) (m : CvtMode) (p : BitVec 3) (d : VReg) : Bool :=
  dst != src && p.toNat * min src.n dst.n < max src.n dst.n
    && (m != .rz || (!src.isInt && dst.isInt))
    && (m != .sr || dst == .bf || dst == .f16 || dst == .e4 || dst == .e5 || dst == .e2)
    && (d == 0 || dst == .e2)

/-- Barrier units of a scope (R169). -/
def unitsOf : Scope → Nat
  | .oct => 8 | .die => 16 | .pkg => 16 | .pod => 4
  | _ => 0

/-- Token rings of a scope (R169). -/
def ringsOf : Scope → Nat
  | .die => 8 | .pkg => 2
  | _ => 0

/-- OCT, DIE, PKG and POD (R169, R176, R177). -/
def Scope.ductus (sc : Scope) : Bool := unitsOf sc != 0
/-- OCT, DIE and PKG, the scopes of an exchange phase (R157). -/
def Scope.exch : Scope → Bool
  | .oct | .die | .pkg => true
  | _ => false

/-- Bits an INJECT target admits (R122): .DBL flips bit and bit + 1. -/
def injectOk (width : Nat) (bit : BitVec 6) (dbl : Bool) : Bool := bit.toNat + dbl.toNat < width

/-- The operand limits of an instruction; machine events have none. -/
def Instr.wf (i : Instr) : Bool :=
  match i with
  | .shli _ _ imm | .shrli _ _ imm | .shrai _ _ imm => imm.toNat < 64
  | .bfx _ _ pos len1 | .bfxS _ _ pos len1 | .bfi _ _ pos len1 => pos.toNat + len1.toNat < 64
  | .fcvt dst src m _ _ => fcvtOk dst src m
  | .ld _ o sc _ _ _ => (o == .relaxed || o == .acq) && orderScopeOk o sc
  | .ldn s o sc _ _ _ => s != .d && (o == .relaxed || o == .acq) && orderScopeOk o sc
  | .st _ o sc _ _ _ => (o == .relaxed || o == .rel) && orderScopeOk o sc
  | .ldln s _ _ _ => s != .d
  | .amoadd _ o sc _ _ _ _ | .amoand _ o sc _ _ _ _ | .amoor _ o sc _ _ _ _ | .amoxor _ o sc _ _ _ _
  | .amomin _ o sc _ _ _ _ | .amomax _ o sc _ _ _ _ | .amominn _ o sc _ _ _ _ | .amomaxn _ o sc _ _ _ _
  | .amoswap _ o sc _ _ _ _ | .amocas _ o sc _ _ _ _ | .famoadd o sc _ _ _ _ => orderScopeOk o sc
  | .fence sc | .fenceAcq sc | .fenceRel sc => sc != .lane
  | .injectAcc _ _ bit dbl => injectOk 32 bit dbl
  | .injectLoc _ _ bit dbl | .injectSlice _ _ bit dbl => injectOk 64 bit dbl
  | .injectDec _ bit dbl => injectOk 16 bit dbl
  | .xbar sc _ | .xend sc _ => sc.exch
  | .qsend sc _ _ _ _ => sc == .die || sc == .pkg || sc == .pod
  | .bar sc _ u | .bara sc _ u | .barw sc _ u => u.toNat < unitsOf sc
  | .tokw sc _ k | .tokp sc _ k => k.toNat < ringsOf sc
  | .wit sc _ => sc.ductus
  | .witTok sc _ k => k.toNat < ringsOf sc
  | .dstat sc _ sel => sc.ductus && sel.toNat < 9
  | .bil _ sc tok _ _ =>
    match tok with
    | none => sc.ductus
    | some k => k.toNat < ringsOf sc
  | .coll _ _ sc _ _ _ _ => sc.ductus
  | .vclaim _ n8 => n8.toNat ≤ 8
  | .vand t _ _ _ _ | .vor t _ _ _ _ | .vxor t _ _ _ _ | .vshl t _ _ _ _ | .vshrl t _ _ _ _ | .vshra t _ _ _ _ =>
    t.isInt
  | .vcvt dst src m p _ _ d _ => vcvtOk dst src m p d
  | .vseq t _ _ _ _ | .vslt t _ _ _ _ | .vsle t _ _ _ _ => t == .w || t == .f32
  | .vbcast t _ _ _ => t.isInt
  | .vlds z _ _ _ _ _ | .vgath z _ _ _ _ _ | .vscat z _ _ _ _ _ => z != .d
  | .vredadd t _ _ _ | .vredmax t _ _ _ | .vredmin t _ _ _ => t == .w || t == .f32
  | .vmaxi t _ _ _ _ | .vmini t _ _ _ _ => t == .w || t == .f32 || t == .bf || t == .f16
  | .ppsel s => s.toNat ≤ 8
  | .mma f _ _ _ c => f == .e2 || c == 0
  | _ => true

end Sys2Proof
end

