-- ==== Sys2Proof/Decode.lean ====
section
/-!
DEFINITION. The decoder and encoder, written from the encoding tables of spec/03 (R61, R72), spec/05,
spec/06 and spec/07. An instruction is its 16-bit head and its tail read as one little-endian value
(R61). A head and tail decode to an instruction only when re-encoding that instruction gives the same
head and tail back: a nonzero must-be-zero field is thereby refused (R8).
-/
namespace Sys2Proof

/-- Why a head and tail are no instruction; each is the ILLEGAL trap of R8. -/
inductive DecodeError where
  | reservedMajor      -- a major the opcode map reserves (R72)
  | reservedFunction   -- a function, scope, order, type or mode code no table lists
  | mustBeZero         -- a must-be-zero field that is not zero
  | illegalOperand     -- an operand value or combination an instruction's rule calls illegal
  deriving DecidableEq, Repr

/-- Bits [lo+len-1 : lo] of a value (R6). -/
def fld (x lo len : Nat) : BitVec len := BitVec.ofNat len (x / 2 ^ lo)

/-- Tail length in bytes of a major: T0, T1, T2 or T3 (R61, R72); a reserved major counts as T0 (R63). -/
def tailLen (major : Nat) : Nat :=
  match major with
  | 0x08 => 2 | 0x09 => 4 | 0x0A => 6 | 0x0B => 2 | 0x0C => 4 | 0x0D => 4 | 0x0E => 2 | 0x0F => 4
  | 0x10 => 4 | 0x11 => 4 | 0x12 => 2 | 0x13 => 2 | 0x14 => 4 | 0x15 => 2 | 0x16 => 2 | 0x17 => 4
  | 0x18 => 4 | 0x19 => 6 | 0x20 => 2 | 0x21 => 4 | 0x22 => 2 | 0x23 => 4 | 0x25 => 2 | 0x26 => 4
  | 0x27 => 2 | 0x28 => 2 | 0x30 => 2 | 0x31 => 4 | 0x32 => 4 | 0x33 => 2 | 0x34 => 2 | 0x35 => 2
  | 0x36 => 2 | 0x37 => 4 | 0x38 => 2
  | _ => 0

/-- Majors 0x1A-0x1F, 0x29-0x2F and 0x39-0x3F are reserved (R72). -/
def reservedMajor (major : Nat) : Bool :=
  (0x1A ≤ major && major ≤ 0x1F) || (0x29 ≤ major && major ≤ 0x2F) || 0x39 ≤ major

/-- Scope codes (R132). -/
def Scope.code : Scope → Nat
  | .lane => 0 | .core => 1 | .oct => 2 | .die => 3 | .pkg => 4 | .pod => 5 | .sys => 6
/-- Scope codes (R132). -/
def Scope.ofCode : Nat → Option Scope
  | 0 => some .lane | 1 => some .core | 2 => some .oct | 3 => some .die | 4 => some .pkg | 5 => some .pod | 6 => some .sys | _ => none

/-- Order codes (R133). -/
def Order.code : Order → Nat
  | .relaxed => 0 | .acq => 1 | .rel => 2 | .ar => 3
/-- Order codes (R133). -/
def Order.ofCode : Nat → Option Order
  | 0 => some .relaxed | 1 => some .acq | 2 => some .rel | 3 => some .ar | _ => none

/-- Size codes (R135, R139). -/
def Size.code : Size → Nat
  | .b => 0 | .h => 1 | .w => 2 | .d => 3
/-- Size codes (R135, R139). -/
def Size.ofCode : Nat → Option Size
  | 0 => some .b | 1 => some .h | 2 => some .w | 3 => some .d | _ => none

/-- Nullify codes (R100). -/
def Nullify.code : Nullify → Nat
  | .plain => 0 | .nt => 1 | .nn => 2
/-- Nullify codes (R100). -/
def Nullify.ofCode : Nat → Option Nullify
  | 0 => some .plain | 1 => some .nt | 2 => some .nn | _ => none

/-- Scalar floating types (R97). -/
def FType.code : FType → Nat
  | .f32 => 0 | .f16 => 1 | .bf => 2
/-- Scalar floating types (R97). -/
def FType.ofCode : Nat → Option FType
  | 0 => some .f32 | 1 => some .f16 | 2 => some .bf | _ => none

/-- FCVT formats (R99). -/
def CvtFmt.code : CvtFmt → Nat
  | .i64 => 0 | .n64 => 1 | .i32 => 2 | .n32 => 3 | .f32 => 4 | .f16 => 5 | .bf => 6 | .e5 => 7 | .e4 => 8 | .e2 => 9
/-- FCVT formats (R99). -/
def CvtFmt.ofCode : Nat → Option CvtFmt
  | 0 => some .i64 | 1 => some .n64 | 2 => some .i32 | 3 => some .n32 | 4 => some .f32 | 5 => some .f16 | 6 => some .bf | 7 => some .e5 | 8 => some .e4 | 9 => some .e2 | _ => none

/-- Conversion modes (R98, R194). -/
def CvtMode.code : CvtMode → Nat
  | .ne => 0 | .rz => 1 | .sr => 2
/-- Conversion modes (R98, R194). -/
def CvtMode.ofCode : Nat → Option CvtMode
  | 0 => some .ne | 1 => some .rz | 2 => some .sr | _ => none

/-- Element types (R191). -/
def EType.code : EType → Nat
  | .b => 0 | .h => 1 | .w => 2 | .f32 => 3 | .bf => 4 | .f16 => 5 | .e4 => 6 | .e5 => 7 | .e2 => 8
/-- Element types (R191). -/
def EType.ofCode : Nat → Option EType
  | 0 => some .b | 1 => some .h | 2 => some .w | 3 => some .f32 | 4 => some .bf | 5 => some .f16 | 6 => some .e4 | 7 => some .e5 | 8 => some .e2 | _ => none

/-- Reduction operators (R157, R177). -/
def RedOp.code : RedOp → Nat
  | .add => 0 | .min => 1 | .max => 2
/-- Reduction operators (R157, R177). -/
def RedOp.ofCode : Nat → Option RedOp
  | 0 => some .add | 1 => some .min | 2 => some .max | _ => none

/-- Reduction types (R157, R177). -/
def RedType.code : RedType → Nat
  | .w => 0 | .f32 => 1 | .bf => 2
/-- Reduction types (R157, R177). -/
def RedType.ofCode : Nat → Option RedType
  | 0 => some .w | 1 => some .f32 | 2 => some .bf | _ => none

/-- Matrix formats (R212). -/
def MmaFmt.code : MmaFmt → Nat
  | .bf => 0 | .f16 => 1 | .e4 => 2 | .e5 => 3 | .e2 => 4 | .i8 => 5
/-- Matrix formats (R212). -/
def MmaFmt.ofCode : Nat → Option MmaFmt
  | 0 => some .bf | 1 => some .f16 | 2 => some .e4 | 3 => some .e5 | 4 => some .e2 | 5 => some .i8 | _ => none

/-- MLDB sizes (R215). -/
def LatchSize.code : LatchSize → Nat
  | .full => 0 | .half => 1 | .quarter => 2
/-- MLDB sizes (R215). -/
def LatchSize.ofCode : Nat → Option LatchSize
  | 0 => some .full | 1 => some .half | 2 => some .quarter | _ => none

/-- Mirror modes (R215). -/
def Mirror.code : Mirror → Nat
  | .off => 0 | .on => 1 | .force => 2
/-- Mirror modes (R215). -/
def Mirror.ofCode : Nat → Option Mirror
  | 0 => some .off | 1 => some .on | 2 => some .force | _ => none

/-- PREF levels (R143). -/
def PrefLevel.code : PrefLevel → Nat
  | .l1 => 0 | .sl => 1
/-- PREF levels (R143). -/
def PrefLevel.ofCode : Nat → Option PrefLevel
  | 0 => some .l1 | 1 => some .sl | _ => none

/-- PPEV types: 00 .F32, 01 .BF, 10 .F16 (R206). -/
def FType.ppCode : FType → Nat | .f32 => 0 | .bf => 1 | .f16 => 2
/-- PPEV types (R206). -/
def FType.ofPpCode : Nat → Option FType | 0 => some .f32 | 1 => some .bf | 2 => some .f16 | _ => none

/-- A head and its tail (R61). -/
structure Enc where
  head : Nat
  tail : Nat
  deriving DecidableEq, Repr

/-- A head of a major with fields a and b, with its tail. -/
def en (major a b t : Nat) : Option Enc := some ⟨major * 1024 + a * 32 + b, t⟩


/-- The head and tail of an instruction (R61 and the table of its major); a machine event has none. -/
def encode (i : Instr) : Option Enc :=
  match i with
  | .add2 a b => en 0x0 a.toNat b.toNat (0)
  | .sub2 a b => en 0x1 a.toNat b.toNat (0)
  | .and2 a b => en 0x2 a.toNat b.toNat (0)
  | .or2 a b => en 0x3 a.toNat b.toNat (0)
  | .xor2 a b => en 0x4 a.toNat b.toNat (0)
  | .mov a b => en 0x5 a.toNat b.toNat (0)
  | .shl2 a b => en 0x6 a.toNat b.toNat (0)
  | .shrl2 a b => en 0x7 a.toNat b.toNat (0)
  | .add a b c => en 0x8 a.toNat b.toNat (c.toNat * 2048 + 0)
  | .sub a b c => en 0x8 a.toNat b.toNat (c.toNat * 2048 + 1)
  | .and a b c => en 0x8 a.toNat b.toNat (c.toNat * 2048 + 2)
  | .or a b c => en 0x8 a.toNat b.toNat (c.toNat * 2048 + 3)
  | .xor a b c => en 0x8 a.toNat b.toNat (c.toNat * 2048 + 4)
  | .andn a b c => en 0x8 a.toNat b.toNat (c.toNat * 2048 + 5)
  | .orn a b c => en 0x8 a.toNat b.toNat (c.toNat * 2048 + 6)
  | .shl a b c => en 0x8 a.toNat b.toNat (c.toNat * 2048 + 7)
  | .shrl a b c => en 0x8 a.toNat b.toNat (c.toNat * 2048 + 8)
  | .shra a b c => en 0x8 a.toNat b.toNat (c.toNat * 2048 + 9)
  | .rot a b c => en 0x8 a.toNat b.toNat (c.toNat * 2048 + 10)
  | .addw a b c => en 0x8 a.toNat b.toNat (c.toNat * 2048 + 11)
  | .subw a b c => en 0x8 a.toNat b.toNat (c.toNat * 2048 + 12)
  | .mul a b c => en 0x8 a.toNat b.toNat (c.toNat * 2048 + 16)
  | .mulh a b c => en 0x8 a.toNat b.toNat (c.toNat * 2048 + 17)
  | .mulhn a b c => en 0x8 a.toNat b.toNat (c.toNat * 2048 + 18)
  | .div a b c => en 0x8 a.toNat b.toNat (c.toNat * 2048 + 20)
  | .divn a b c => en 0x8 a.toNat b.toNat (c.toNat * 2048 + 21)
  | .rem a b c => en 0x8 a.toNat b.toNat (c.toNat * 2048 + 22)
  | .remn a b c => en 0x8 a.toNat b.toNat (c.toNat * 2048 + 23)
  | .min a b c => en 0x8 a.toNat b.toNat (c.toNat * 2048 + 24)
  | .max a b c => en 0x8 a.toNat b.toNat (c.toNat * 2048 + 25)
  | .minn a b c => en 0x8 a.toNat b.toNat (c.toNat * 2048 + 26)
  | .maxn a b c => en 0x8 a.toNat b.toNat (c.toNat * 2048 + 27)
  | .seq a b c => en 0x8 a.toNat b.toNat (c.toNat * 2048 + 32)
  | .sne a b c => en 0x8 a.toNat b.toNat (c.toNat * 2048 + 33)
  | .slt a b c => en 0x8 a.toNat b.toNat (c.toNat * 2048 + 34)
  | .sltn a b c => en 0x8 a.toNat b.toNat (c.toNat * 2048 + 35)
  | .sle a b c => en 0x8 a.toNat b.toNat (c.toNat * 2048 + 36)
  | .slen a b c => en 0x8 a.toNat b.toNat (c.toNat * 2048 + 37)
  | .csel a b c => en 0x8 a.toNat b.toNat (c.toNat * 2048 + 40)
  | .addi a b imm => en 0x9 a.toNat b.toNat (0 + imm.toNat)
  | .andi a b imm => en 0x9 a.toNat b.toNat (16777216 + imm.toNat)
  | .ori a b imm => en 0x9 a.toNat b.toNat (33554432 + imm.toNat)
  | .xori a b imm => en 0x9 a.toNat b.toNat (50331648 + imm.toNat)
  | .shli a b imm => en 0x9 a.toNat b.toNat (67108864 + imm.toNat)
  | .shrli a b imm => en 0x9 a.toNat b.toNat (83886080 + imm.toNat)
  | .shrai a b imm => en 0x9 a.toNat b.toNat (100663296 + imm.toNat)
  | .movi a imm => en 0xa a.toNat 0 (imm.toNat)
  | .not a b => en 0xb a.toNat b.toNat (0)
  | .clz a b => en 0xb a.toNat b.toNat (1)
  | .ctz a b => en 0xb a.toNat b.toNat (2)
  | .popc a b => en 0xb a.toNat b.toNat (3)
  | .sextB a b => en 0xb a.toNat b.toNat (16)
  | .sextH a b => en 0xb a.toNat b.toNat (17)
  | .sextW a b => en 0xb a.toNat b.toNat (18)
  | .zextB a b => en 0xb a.toNat b.toNat (24)
  | .zextH a b => en 0xb a.toNat b.toNat (25)
  | .zextW a b => en 0xb a.toNat b.toNat (26)
  | .bfx a b pos len1 => en 0xc a.toNat b.toNat (0 + pos.toNat * 64 + len1.toNat)
  | .bfxS a b pos len1 => en 0xc a.toNat b.toNat (33554432 + pos.toNat * 64 + len1.toNat)
  | .bfi a b pos len1 => en 0xc a.toNat b.toNat (67108864 + pos.toNat * 64 + len1.toNat)
  | .obj a b c => en 0xd a.toNat b.toNat (c.toNat * 134217728)
  | .objId a b => en 0xd a.toNat b.toNat (33554432)
  | .objOff a b => en 0xd a.toNat b.toNat (67108864)
  | .lea a b c s imm => en 0xd a.toNat b.toNat (c.toNat * 134217728 + 100663296 + s.toNat * 8388608 + imm.toNat)
  | .fadd y a b c => en 0xe a.toNat b.toNat (c.toNat * 2048 + y.code * 256 + 0)
  | .fsub y a b c => en 0xe a.toNat b.toNat (c.toNat * 2048 + y.code * 256 + 1)
  | .fmul y a b c => en 0xe a.toNat b.toNat (c.toNat * 2048 + y.code * 256 + 2)
  | .fmin y a b c => en 0xe a.toNat b.toNat (c.toNat * 2048 + y.code * 256 + 3)
  | .fmax y a b c => en 0xe a.toNat b.toNat (c.toNat * 2048 + y.code * 256 + 4)
  | .fseq y a b c => en 0xe a.toNat b.toNat (c.toNat * 2048 + y.code * 256 + 5)
  | .fslt y a b c => en 0xe a.toNat b.toNat (c.toNat * 2048 + y.code * 256 + 6)
  | .fsle y a b c => en 0xe a.toNat b.toNat (c.toNat * 2048 + y.code * 256 + 7)
  | .fabs y a b => en 0xe a.toNat b.toNat (y.code * 256 + 8)
  | .fneg y a b => en 0xe a.toNat b.toNat (y.code * 256 + 9)
  | .fclass y a b => en 0xe a.toNat b.toNat (y.code * 256 + 10)
  | .ffma y a b c d => en 0xf a.toNat b.toNat (c.toNat * 134217728 + d.toNat * 4194304 + y.code * 524288)
  | .fcvt x y m a b => en 0xf a.toNat b.toNat (65536 + x.code * 4096 + y.code * 256 + m.code * 64)
  | .b n d => en 0x20 0 n.code (d.toNat)
  | .beq n a b d => en 0x21 a.toNat b.toNat (0 + n.code * 4194304 + d.toNat)
  | .bne n a b d => en 0x21 a.toNat b.toNat (16777216 + n.code * 4194304 + d.toNat)
  | .blt n a b d => en 0x21 a.toNat b.toNat (33554432 + n.code * 4194304 + d.toNat)
  | .bge n a b d => en 0x21 a.toNat b.toNat (50331648 + n.code * 4194304 + d.toNat)
  | .bltn n a b d => en 0x21 a.toNat b.toNat (67108864 + n.code * 4194304 + d.toNat)
  | .bgen n a b d => en 0x21 a.toNat b.toNat (83886080 + n.code * 4194304 + d.toNat)
  | .bz n a d => en 0x22 a.toNat n.code (d.toNat)
  | .bnz n a d => en 0x22 a.toNat (4 + n.code) (d.toNat)
  | .jal n a d => en 0x23 a.toNat 0 (n.code * 33554432 + d.toNat)
  | .jr n a => en 0x24 a.toNat n.code (0)
  | .hstart a b c => en 0x27 a.toNat b.toNat (c.toNat * 2048 + 0)
  | .hjoin a b => en 0x27 a.toNat b.toNat (1)
  | .hexit a => en 0x27 a.toNat 0 (2)
  | .trap x => en 0x28 0 0x00 (x.toNat)
  | .eret n => en 0x28 0 0x01 (n.code)
  | .rdsys a r => en 0x28 a.toNat 0x02 (r.toNat)
  | .wrsys r c => en 0x28 0 0x03 (c.toNat * 2048 + r.toNat)
  | .ifence  => en 0x28 0 0x04 (0)
  | .park  => en 0x28 0 0x05 (0)
  | .wfe a => en 0x28 a.toNat 0x06 (0)
  | .injectAcc a c x y => en 0x28 a.toNat 0x07 (c.toNat * 2048 + x.toNat * 32 + y.toNat * 16 + 0)
  | .injectLoc a c x y => en 0x28 a.toNat 0x07 (c.toNat * 2048 + x.toNat * 32 + y.toNat * 16 + 1)
  | .injectSlice a c x y => en 0x28 a.toNat 0x07 (c.toNat * 2048 + x.toNat * 32 + y.toNat * 16 + 2)
  | .injectDec a x y => en 0x28 a.toNat 0x07 (x.toNat * 32 + y.toNat * 16 + 3)
  | .rdid a => en 0x28 a.toNat 0x08 (0)
  | .rdidPod a => en 0x28 a.toNat 0x08 (1)
  | .rdidCtx a => en 0x28 a.toNat 0x08 (2)
  | .rdidPos a => en 0x28 a.toNat 0x08 (3)
  | .rdstep a => en 0x28 a.toNat 0x09 (0)
  | .waitSt a c x => en 0x28 a.toNat 0x0A (c.toNat * 2048 + x.toNat)
  | .rdcyc a => en 0x28 a.toNat 0x0B (0)
  | .ld z o w a b imm => en 0x10 a.toNat b.toNat (z.code * 33554432 + 0 + o.code * 4194304 + w.code * 524288 + imm.toNat)
  | .ldn z o w a b imm => en 0x10 a.toNat b.toNat (z.code * 33554432 + 16777216 + o.code * 4194304 + w.code * 524288 + imm.toNat)
  | .st z o w a b imm => en 0x11 a.toNat b.toNat (z.code * 33554432 + 0 + o.code * 4194304 + w.code * 524288 + imm.toNat)
  | .ldl z a b imm => en 0x12 a.toNat b.toNat (z.code * 16384 + 0 + imm.toNat)
  | .ldln z a b imm => en 0x12 a.toNat b.toNat (z.code * 16384 + 8192 + imm.toNat)
  | .stl z a b imm => en 0x13 a.toNat b.toNat (z.code * 16384 + imm.toNat)
  | .amoadd z o w a b c imm => en 0x14 a.toNat b.toNat (c.toNat * 134217728 + 0 + z.toNat * 4194304 + o.code * 1048576 + w.code * 131072 + imm.toNat)
  | .amoand z o w a b c imm => en 0x14 a.toNat b.toNat (c.toNat * 134217728 + 8388608 + z.toNat * 4194304 + o.code * 1048576 + w.code * 131072 + imm.toNat)
  | .amoor z o w a b c imm => en 0x14 a.toNat b.toNat (c.toNat * 134217728 + 16777216 + z.toNat * 4194304 + o.code * 1048576 + w.code * 131072 + imm.toNat)
  | .amoxor z o w a b c imm => en 0x14 a.toNat b.toNat (c.toNat * 134217728 + 25165824 + z.toNat * 4194304 + o.code * 1048576 + w.code * 131072 + imm.toNat)
  | .amomin z o w a b c imm => en 0x14 a.toNat b.toNat (c.toNat * 134217728 + 33554432 + z.toNat * 4194304 + o.code * 1048576 + w.code * 131072 + imm.toNat)
  | .amomax z o w a b c imm => en 0x14 a.toNat b.toNat (c.toNat * 134217728 + 41943040 + z.toNat * 4194304 + o.code * 1048576 + w.code * 131072 + imm.toNat)
  | .amominn z o w a b c imm => en 0x14 a.toNat b.toNat (c.toNat * 134217728 + 50331648 + z.toNat * 4194304 + o.code * 1048576 + w.code * 131072 + imm.toNat)
  | .amomaxn z o w a b c imm => en 0x14 a.toNat b.toNat (c.toNat * 134217728 + 58720256 + z.toNat * 4194304 + o.code * 1048576 + w.code * 131072 + imm.toNat)
  | .amoswap z o w a b c imm => en 0x14 a.toNat b.toNat (c.toNat * 134217728 + 67108864 + z.toNat * 4194304 + o.code * 1048576 + w.code * 131072 + imm.toNat)
  | .amocas z o w a b c imm => en 0x14 a.toNat b.toNat (c.toNat * 134217728 + 75497472 + z.toNat * 4194304 + o.code * 1048576 + w.code * 131072 + imm.toNat)
  | .famoadd o w a b c imm => en 0x14 a.toNat b.toNat (c.toNat * 134217728 + 83886080 + o.code * 1048576 + w.code * 131072 + imm.toNat)
  | .fence w => en 0x15 0 0 (0 + w.code * 4)
  | .fenceAcq w => en 0x15 0 0 (32 + w.code * 4)
  | .fenceRel w => en 0x15 0 0 (64 + w.code * 4)
  | .lbfence  => en 0x15 0 0 (128)
  | .pref l b => en 0x15 0 b.toNat (256 + l.code * 32)
  | .cwb b => en 0x15 0 b.toNat (384)
  | .cinv b => en 0x15 0 b.toNat (512)
  | .cwbinv b => en 0x15 0 b.toNat (640)
  | .pinl a b => en 0x15 a.toNat b.toNat (768)
  | .unpinl b => en 0x15 0 b.toNat (896)
  | .give s b x => en 0x16 0 b.toNat (0 + s.toNat * 16 + x.toNat * 2)
  | .wstat a s => en 0x16 a.toNat 0 (128 + s.toNat * 16)
  | .wwait s => en 0x16 0 0 (256 + s.toNat * 16)
  | .wmap a s b => en 0x16 a.toNat b.toNat (384 + s.toNat * 16)
  | .wunmap a s => en 0x16 a.toNat 0 (512 + s.toNat * 16)
  | .expect s b => en 0x16 0 b.toNat (640 + s.toNat * 16)
  | .tagrd a s b => en 0x16 a.toNat b.toNat (768 + s.toNat * 16)
  | .xbar w a => en 0x17 a.toNat 0 (0 + w.code * 2097152)
  | .xsend x b c => en 0x17 0 b.toNat (c.toNat * 134217728 + 16777216 + x.toNat)
  | .xsendr p y x c => en 0x17 0 0 (c.toNat * 134217728 + 33554432 + p.code * 524288 + y.code * 131072 + x.toNat)
  | .xrecv x b => en 0x17 0 b.toNat (50331648 + x.toNat)
  | .xend w a => en 0x17 a.toNat 0 (67108864 + w.code * 2097152)
  | .qsend w x a b c => en 0x18 a.toNat b.toNat (c.toNat * 134217728 + 0 + w.code * 4194304 + x.toNat * 65536)
  | .qrecv a c => en 0x18 a.toNat 0 (c.toNat * 134217728 + 33554432)
  | .qpoll a => en 0x18 a.toNat 0 (67108864)
  | .bar w a u => en 0x25 a.toNat 0 (0 + w.code * 32 + u.toNat)
  | .bara w a u => en 0x25 a.toNat 0 (256 + w.code * 32 + u.toNat)
  | .barw w a u => en 0x25 a.toNat 0 (512 + w.code * 32 + u.toNat)
  | .tokw w a u => en 0x25 a.toNat 0 (768 + w.code * 32 + u.toNat)
  | .tokp w a u => en 0x25 a.toNat 0 (1024 + w.code * 32 + u.toNat)
  | .wit w a => en 0x25 a.toNat 0 (1280 + w.code * 32)
  | .witTok w a k => en 0x25 a.toNat 0 (1280 + w.code * 32 + 16 + k.toNat)
  | .dstat w a u => en 0x25 a.toNat 0 (1536 + w.code * 32 + u.toNat)
  | .bil n w k a d => en 0x26 a.toNat n.code (w.code * 16777216 + (match k with | none => 0 | some k => 8388608 + k.toNat * 524288) + d.toNat)
  | .cpy x a b c => en 0x19 a.toNat b.toNat (c.toNat * 8796093022208 + 0 + (match x with | none => 0 | some x => 549755813888 + x.toNat * 65536))
  | .cpyw a => en 0x19 a.toNat 0 (1099511627776)
  | .coll p y w x a b c => en 0x19 a.toNat b.toNat (c.toNat * 8796093022208 + 2199023255552 + (match x with | none => 0 | some x => 549755813888 + x.toNat * 65536) + w.code * 68719476736 + p.code * 17179869184 + y.code * 4294967296)
  | .collw a => en 0x19 a.toNat 0 (3298534883328)
  | .vclaim a x => en 0x35 a.toNat 0 (0 + x.toNat)
  | .vyield  => en 0x35 0 0 (256)
  | .vlen a => en 0x35 a.toNat 0 (512)
  | .vadd y a b c k => en 0x30 a.toNat b.toNat (c.toNat * 2048 + 0 + y.code * 8 + k.toNat)
  | .vsub y a b c k => en 0x30 a.toNat b.toNat (c.toNat * 2048 + 128 + y.code * 8 + k.toNat)
  | .vmul y a b c k => en 0x30 a.toNat b.toNat (c.toNat * 2048 + 256 + y.code * 8 + k.toNat)
  | .vmin y a b c k => en 0x30 a.toNat b.toNat (c.toNat * 2048 + 384 + y.code * 8 + k.toNat)
  | .vmax y a b c k => en 0x30 a.toNat b.toNat (c.toNat * 2048 + 512 + y.code * 8 + k.toNat)
  | .vand y a b c k => en 0x30 a.toNat b.toNat (c.toNat * 2048 + 640 + y.code * 8 + k.toNat)
  | .vor y a b c k => en 0x30 a.toNat b.toNat (c.toNat * 2048 + 768 + y.code * 8 + k.toNat)
  | .vxor y a b c k => en 0x30 a.toNat b.toNat (c.toNat * 2048 + 896 + y.code * 8 + k.toNat)
  | .vshl y a b c k => en 0x30 a.toNat b.toNat (c.toNat * 2048 + 1024 + y.code * 8 + k.toNat)
  | .vshrl y a b c k => en 0x30 a.toNat b.toNat (c.toNat * 2048 + 1152 + y.code * 8 + k.toNat)
  | .vshra y a b c k => en 0x30 a.toNat b.toNat (c.toNat * 2048 + 1280 + y.code * 8 + k.toNat)
  | .vabs y a b k => en 0x30 a.toNat b.toNat (1408 + y.code * 8 + k.toNat)
  | .vneg y a b k => en 0x30 a.toNat b.toNat (1536 + y.code * 8 + k.toNat)
  | .vfma y a b c d k => en 0x31 a.toNat b.toNat (c.toNat * 134217728 + d.toNat * 4194304 + 0 + y.code * 16384 + k.toNat * 4)
  | .vcvt y s m p a b d k => en 0x31 a.toNat b.toNat (d.toNat * 4194304 + 262144 + y.code * 16384 + s.code * 1024 + m.code * 256 + p.toNat * 32 + k.toNat * 4)
  | .vseq y a b c k => en 0x31 a.toNat b.toNat (c.toNat * 134217728 + 524288 + y.code * 16384 + k.toNat * 4)
  | .vslt y a b c k => en 0x31 a.toNat b.toNat (c.toNat * 134217728 + 786432 + y.code * 16384 + k.toNat * 4)
  | .vsle y a b c k => en 0x31 a.toNat b.toNat (c.toNat * 134217728 + 1048576 + y.code * 16384 + k.toNat * 4)
  | .vsel a b c d => en 0x31 a.toNat b.toNat (c.toNat * 134217728 + d.toNat * 4194304 + 1310720)
  | .vbcast y a b k => en 0x31 a.toNat b.toNat (1572864 + y.code * 16384 + k.toNat * 4)
  | .vext a b c => en 0x31 a.toNat b.toNat (c.toNat * 134217728 + 1835008)
  | .vperm a b c k => en 0x31 a.toNat b.toNat (c.toNat * 134217728 + 2097152 + k.toNat * 4)
  | .vld a b imm k => en 0x32 a.toNat b.toNat (0 + 8388608 + k.toNat * 524288 + imm.toNat)
  | .vst a b imm k => en 0x32 a.toNat b.toNat (16777216 + 8388608 + k.toNat * 524288 + imm.toNat)
  | .vldl a b imm k => en 0x32 a.toNat b.toNat (33554432 + 8388608 + k.toNat * 524288 + imm.toNat)
  | .vstl a b imm k => en 0x32 a.toNat b.toNat (50331648 + 8388608 + k.toNat * 524288 + imm.toNat)
  | .vlds z a b c imm k => en 0x32 a.toNat b.toNat (c.toNat * 134217728 + 67108864 + z.code * 4194304 + k.toNat * 524288 + imm.toNat)
  | .vgath z a b c imm k => en 0x32 a.toNat b.toNat (c.toNat * 134217728 + 83886080 + z.code * 4194304 + k.toNat * 524288 + imm.toNat)
  | .vscat z a b c imm k => en 0x32 a.toNat b.toNat (c.toNat * 134217728 + 100663296 + z.code * 4194304 + k.toNat * 524288 + imm.toNat)
  | .vredadd y a b k => en 0x33 a.toNat b.toNat (0 + y.code * 16 + k.toNat * 2)
  | .vredmax y a b k => en 0x33 a.toNat b.toNat (256 + y.code * 16 + k.toNat * 2)
  | .vredmin y a b k => en 0x33 a.toNat b.toNat (512 + y.code * 16 + k.toNat * 2)
  | .vmaxi y a b c k => en 0x33 a.toNat b.toNat (c.toNat * 2048 + 768 + y.code * 16 + k.toNat * 2)
  | .vmini y a b c k => en 0x33 a.toNat b.toNat (c.toNat * 2048 + 1024 + y.code * 16 + k.toNat * 2)
  | .mand a b c => en 0x34 a.toNat b.toNat (c.toNat * 2048 + 0)
  | .mor a b c => en 0x34 a.toNat b.toNat (c.toNat * 2048 + 1)
  | .mxor a b c => en 0x34 a.toNat b.toNat (c.toNat * 2048 + 2)
  | .mnot a b => en 0x34 a.toNat b.toNat (3)
  | .mpopc a b => en 0x34 a.toNat b.toNat (4)
  | .mfirst a b => en 0x34 a.toNat b.toNat (5)
  | .mset a b => en 0x34 a.toNat b.toNat (6)
  | .mmov a b => en 0x34 a.toNat b.toNat (7)
  | .mmovG a b => en 0x34 a.toNat b.toNat (8)
  | .ppld b => en 0x36 0 b.toNat (0)
  | .ppsel x => en 0x36 0 0 (256 + x.toNat * 16)
  | .ppev y a b k => en 0x36 a.toNat b.toNat (512 + y.ppCode * 64 + k.toNat * 8)
  | .mma f x a b c => en 0x37 a.toNat b.toNat (c.toNat * 134217728 + f.code * 16777216 + (match x with | none => 0 | some x => 8388608 + x.toNat * 128))
  | .mzero a => en 0x38 a.toNat 0 (0)
  | .mldb z b => en 0x38 0 b.toNat (256 + z.code * 64)
  | .mring x => en 0x38 0 0 (512 + (match x with | none => 0 | some x => 128 + x.toNat))
  | .mchk a => en 0x38 a.toNat 0 (768)
  | .mst x a b => en 0x38 a.toNat b.toNat (1024 + x.toNat * 128)
  | .mmir m => en 0x38 0 0 (1280 + m.code)
  | .mwait a => en 0x38 a.toNat 0 (1536)
  | .mqstat a => en 0x38 a.toNat 0 (1792)
  | _ => none

/-- Function codes of major 0x00; none for a reserved code. -/
def dec00 (h _t : Nat) : Option Instr :=
  some (.add2 (fld h 5 5) (fld h 0 5))

/-- Function codes of major 0x01; none for a reserved code. -/
def dec01 (h _t : Nat) : Option Instr :=
  some (.sub2 (fld h 5 5) (fld h 0 5))

/-- Function codes of major 0x02; none for a reserved code. -/
def dec02 (h _t : Nat) : Option Instr :=
  some (.and2 (fld h 5 5) (fld h 0 5))

/-- Function codes of major 0x03; none for a reserved code. -/
def dec03 (h _t : Nat) : Option Instr :=
  some (.or2 (fld h 5 5) (fld h 0 5))

/-- Function codes of major 0x04; none for a reserved code. -/
def dec04 (h _t : Nat) : Option Instr :=
  some (.xor2 (fld h 5 5) (fld h 0 5))

/-- Function codes of major 0x05; none for a reserved code. -/
def dec05 (h _t : Nat) : Option Instr :=
  some (.mov (fld h 5 5) (fld h 0 5))

/-- Function codes of major 0x06; none for a reserved code. -/
def dec06 (h _t : Nat) : Option Instr :=
  some (.shl2 (fld h 5 5) (fld h 0 5))

/-- Function codes of major 0x07; none for a reserved code. -/
def dec07 (h _t : Nat) : Option Instr :=
  some (.shrl2 (fld h 5 5) (fld h 0 5))

/-- Function codes of major 0x08; none for a reserved code. -/
def dec08 (h t : Nat) : Option Instr :=
  match t % 2048 with
  | 0x0 => some (.add (fld h 5 5) (fld h 0 5) (fld t 11 5))
  | 0x1 => some (.sub (fld h 5 5) (fld h 0 5) (fld t 11 5))
  | 0x2 => some (.and (fld h 5 5) (fld h 0 5) (fld t 11 5))
  | 0x3 => some (.or (fld h 5 5) (fld h 0 5) (fld t 11 5))
  | 0x4 => some (.xor (fld h 5 5) (fld h 0 5) (fld t 11 5))
  | 0x5 => some (.andn (fld h 5 5) (fld h 0 5) (fld t 11 5))
  | 0x6 => some (.orn (fld h 5 5) (fld h 0 5) (fld t 11 5))
  | 0x7 => some (.shl (fld h 5 5) (fld h 0 5) (fld t 11 5))
  | 0x8 => some (.shrl (fld h 5 5) (fld h 0 5) (fld t 11 5))
  | 0x9 => some (.shra (fld h 5 5) (fld h 0 5) (fld t 11 5))
  | 0xa => some (.rot (fld h 5 5) (fld h 0 5) (fld t 11 5))
  | 0xb => some (.addw (fld h 5 5) (fld h 0 5) (fld t 11 5))
  | 0xc => some (.subw (fld h 5 5) (fld h 0 5) (fld t 11 5))
  | 0x10 => some (.mul (fld h 5 5) (fld h 0 5) (fld t 11 5))
  | 0x11 => some (.mulh (fld h 5 5) (fld h 0 5) (fld t 11 5))
  | 0x12 => some (.mulhn (fld h 5 5) (fld h 0 5) (fld t 11 5))
  | 0x14 => some (.div (fld h 5 5) (fld h 0 5) (fld t 11 5))
  | 0x15 => some (.divn (fld h 5 5) (fld h 0 5) (fld t 11 5))
  | 0x16 => some (.rem (fld h 5 5) (fld h 0 5) (fld t 11 5))
  | 0x17 => some (.remn (fld h 5 5) (fld h 0 5) (fld t 11 5))
  | 0x18 => some (.min (fld h 5 5) (fld h 0 5) (fld t 11 5))
  | 0x19 => some (.max (fld h 5 5) (fld h 0 5) (fld t 11 5))
  | 0x1a => some (.minn (fld h 5 5) (fld h 0 5) (fld t 11 5))
  | 0x1b => some (.maxn (fld h 5 5) (fld h 0 5) (fld t 11 5))
  | 0x20 => some (.seq (fld h 5 5) (fld h 0 5) (fld t 11 5))
  | 0x21 => some (.sne (fld h 5 5) (fld h 0 5) (fld t 11 5))
  | 0x22 => some (.slt (fld h 5 5) (fld h 0 5) (fld t 11 5))
  | 0x23 => some (.sltn (fld h 5 5) (fld h 0 5) (fld t 11 5))
  | 0x24 => some (.sle (fld h 5 5) (fld h 0 5) (fld t 11 5))
  | 0x25 => some (.slen (fld h 5 5) (fld h 0 5) (fld t 11 5))
  | 0x28 => some (.csel (fld h 5 5) (fld h 0 5) (fld t 11 5))
  | _ => none

/-- Function codes of major 0x09; none for a reserved code. -/
def dec09 (h t : Nat) : Option Instr :=
  match t / 2 ^ 24 % 8 with
  | 0x0 => some (.addi (fld h 5 5) (fld h 0 5) (fld t 0 24))
  | 0x1 => some (.andi (fld h 5 5) (fld h 0 5) (fld t 0 24))
  | 0x2 => some (.ori (fld h 5 5) (fld h 0 5) (fld t 0 24))
  | 0x3 => some (.xori (fld h 5 5) (fld h 0 5) (fld t 0 24))
  | 0x4 => some (.shli (fld h 5 5) (fld h 0 5) (fld t 0 24))
  | 0x5 => some (.shrli (fld h 5 5) (fld h 0 5) (fld t 0 24))
  | 0x6 => some (.shrai (fld h 5 5) (fld h 0 5) (fld t 0 24))
  | _ => none

/-- Function codes of major 0x0a; none for a reserved code. -/
def dec0A (h t : Nat) : Option Instr :=
  some (.movi (fld h 5 5) (fld t 0 48))

/-- Function codes of major 0x0b; none for a reserved code. -/
def dec0B (h t : Nat) : Option Instr :=
  match t % 2048 with
  | 0x0 => some (.not (fld h 5 5) (fld h 0 5))
  | 0x1 => some (.clz (fld h 5 5) (fld h 0 5))
  | 0x2 => some (.ctz (fld h 5 5) (fld h 0 5))
  | 0x3 => some (.popc (fld h 5 5) (fld h 0 5))
  | 0x10 => some (.sextB (fld h 5 5) (fld h 0 5))
  | 0x11 => some (.sextH (fld h 5 5) (fld h 0 5))
  | 0x12 => some (.sextW (fld h 5 5) (fld h 0 5))
  | 0x18 => some (.zextB (fld h 5 5) (fld h 0 5))
  | 0x19 => some (.zextH (fld h 5 5) (fld h 0 5))
  | 0x1a => some (.zextW (fld h 5 5) (fld h 0 5))
  | _ => none

/-- Function codes of major 0x0c; none for a reserved code. -/
def dec0C (h t : Nat) : Option Instr :=
  match t / 2 ^ 25 % 4 with
  | 0x0 => some (.bfx (fld h 5 5) (fld h 0 5) (fld t 6 6) (fld t 0 6))
  | 0x1 => some (.bfxS (fld h 5 5) (fld h 0 5) (fld t 6 6) (fld t 0 6))
  | 0x2 => some (.bfi (fld h 5 5) (fld h 0 5) (fld t 6 6) (fld t 0 6))
  | _ => none

/-- Function codes of major 0x0d; none for a reserved code. -/
def dec0D (h t : Nat) : Option Instr :=
  match t / 2 ^ 25 % 4 with
  | 0x0 => some (.obj (fld h 5 5) (fld h 0 5) (fld t 27 5))
  | 0x1 => some (.objId (fld h 5 5) (fld h 0 5))
  | 0x2 => some (.objOff (fld h 5 5) (fld h 0 5))
  | 0x3 => some (.lea (fld h 5 5) (fld h 0 5) (fld t 27 5) (fld t 23 2) (fld t 0 23))
  | _ => none

/-- Function codes of major 0x0e; none for a reserved code. -/
def dec0E (h t : Nat) : Option Instr :=
  match t % 256 with
  | 0x0 => (FType.ofCode (t / 256 % 8)).bind fun y => some (.fadd y (fld h 5 5) (fld h 0 5) (fld t 11 5))
  | 0x1 => (FType.ofCode (t / 256 % 8)).bind fun y => some (.fsub y (fld h 5 5) (fld h 0 5) (fld t 11 5))
  | 0x2 => (FType.ofCode (t / 256 % 8)).bind fun y => some (.fmul y (fld h 5 5) (fld h 0 5) (fld t 11 5))
  | 0x3 => (FType.ofCode (t / 256 % 8)).bind fun y => some (.fmin y (fld h 5 5) (fld h 0 5) (fld t 11 5))
  | 0x4 => (FType.ofCode (t / 256 % 8)).bind fun y => some (.fmax y (fld h 5 5) (fld h 0 5) (fld t 11 5))
  | 0x5 => (FType.ofCode (t / 256 % 8)).bind fun y => some (.fseq y (fld h 5 5) (fld h 0 5) (fld t 11 5))
  | 0x6 => (FType.ofCode (t / 256 % 8)).bind fun y => some (.fslt y (fld h 5 5) (fld h 0 5) (fld t 11 5))
  | 0x7 => (FType.ofCode (t / 256 % 8)).bind fun y => some (.fsle y (fld h 5 5) (fld h 0 5) (fld t 11 5))
  | 0x8 => (FType.ofCode (t / 256 % 8)).bind fun y => some (.fabs y (fld h 5 5) (fld h 0 5))
  | 0x9 => (FType.ofCode (t / 256 % 8)).bind fun y => some (.fneg y (fld h 5 5) (fld h 0 5))
  | 0xa => (FType.ofCode (t / 256 % 8)).bind fun y => some (.fclass y (fld h 5 5) (fld h 0 5))
  | _ => none

/-- Function codes of major 0x0f; none for a reserved code. -/
def dec0F (h t : Nat) : Option Instr :=
  match t / 2 ^ 16 % 8 with
  | 0x0 => (FType.ofCode (t / 2 ^ 19 % 8)).bind fun y => some (.ffma y (fld h 5 5) (fld h 0 5) (fld t 27 5) (fld t 22 5))
  | 0x1 => (CvtFmt.ofCode (t / 2 ^ 12 % 16)).bind fun x => (CvtFmt.ofCode (t / 256 % 16)).bind fun y => (CvtMode.ofCode (t / 64 % 4)).bind fun m => some (.fcvt x y m (fld h 5 5) (fld h 0 5))
  | _ => none

/-- Function codes of major 0x10; none for a reserved code. -/
def dec10 (h t : Nat) : Option Instr :=
  match t / 2 ^ 24 % 2 with
  | 0x0 => (Size.ofCode (t / 2 ^ 25 % 4)).bind fun z => (Order.ofCode (t / 2 ^ 22 % 4)).bind fun o => (Scope.ofCode (t / 2 ^ 19 % 8)).bind fun w => some (.ld z o w (fld h 5 5) (fld h 0 5) (fld t 0 19))
  | 0x1 => (Size.ofCode (t / 2 ^ 25 % 4)).bind fun z => (Order.ofCode (t / 2 ^ 22 % 4)).bind fun o => (Scope.ofCode (t / 2 ^ 19 % 8)).bind fun w => some (.ldn z o w (fld h 5 5) (fld h 0 5) (fld t 0 19))
  | _ => none

/-- Function codes of major 0x11; none for a reserved code. -/
def dec11 (h t : Nat) : Option Instr :=
  (Size.ofCode (t / 2 ^ 25 % 4)).bind fun z => (Order.ofCode (t / 2 ^ 22 % 4)).bind fun o => (Scope.ofCode (t / 2 ^ 19 % 8)).bind fun w => some (.st z o w (fld h 5 5) (fld h 0 5) (fld t 0 19))

/-- Function codes of major 0x12; none for a reserved code. -/
def dec12 (h t : Nat) : Option Instr :=
  match t / 2 ^ 13 % 2 with
  | 0x0 => (Size.ofCode (t / 2 ^ 14 % 4)).bind fun z => some (.ldl z (fld h 5 5) (fld h 0 5) (fld t 0 13))
  | 0x1 => (Size.ofCode (t / 2 ^ 14 % 4)).bind fun z => some (.ldln z (fld h 5 5) (fld h 0 5) (fld t 0 13))
  | _ => none

/-- Function codes of major 0x13; none for a reserved code. -/
def dec13 (h t : Nat) : Option Instr :=
  (Size.ofCode (t / 2 ^ 14 % 4)).bind fun z => some (.stl z (fld h 5 5) (fld h 0 5) (fld t 0 13))

/-- Function codes of major 0x14; none for a reserved code. -/
def dec14 (h t : Nat) : Option Instr :=
  match t / 2 ^ 23 % 16 with
  | 0x0 => (Order.ofCode (t / 2 ^ 20 % 4)).bind fun o => (Scope.ofCode (t / 2 ^ 17 % 8)).bind fun w => some (.amoadd (t / 2 ^ 22 % 2 == 1) o w (fld h 5 5) (fld h 0 5) (fld t 27 5) (fld t 0 17))
  | 0x1 => (Order.ofCode (t / 2 ^ 20 % 4)).bind fun o => (Scope.ofCode (t / 2 ^ 17 % 8)).bind fun w => some (.amoand (t / 2 ^ 22 % 2 == 1) o w (fld h 5 5) (fld h 0 5) (fld t 27 5) (fld t 0 17))
  | 0x2 => (Order.ofCode (t / 2 ^ 20 % 4)).bind fun o => (Scope.ofCode (t / 2 ^ 17 % 8)).bind fun w => some (.amoor (t / 2 ^ 22 % 2 == 1) o w (fld h 5 5) (fld h 0 5) (fld t 27 5) (fld t 0 17))
  | 0x3 => (Order.ofCode (t / 2 ^ 20 % 4)).bind fun o => (Scope.ofCode (t / 2 ^ 17 % 8)).bind fun w => some (.amoxor (t / 2 ^ 22 % 2 == 1) o w (fld h 5 5) (fld h 0 5) (fld t 27 5) (fld t 0 17))
  | 0x4 => (Order.ofCode (t / 2 ^ 20 % 4)).bind fun o => (Scope.ofCode (t / 2 ^ 17 % 8)).bind fun w => some (.amomin (t / 2 ^ 22 % 2 == 1) o w (fld h 5 5) (fld h 0 5) (fld t 27 5) (fld t 0 17))
  | 0x5 => (Order.ofCode (t / 2 ^ 20 % 4)).bind fun o => (Scope.ofCode (t / 2 ^ 17 % 8)).bind fun w => some (.amomax (t / 2 ^ 22 % 2 == 1) o w (fld h 5 5) (fld h 0 5) (fld t 27 5) (fld t 0 17))
  | 0x6 => (Order.ofCode (t / 2 ^ 20 % 4)).bind fun o => (Scope.ofCode (t / 2 ^ 17 % 8)).bind fun w => some (.amominn (t / 2 ^ 22 % 2 == 1) o w (fld h 5 5) (fld h 0 5) (fld t 27 5) (fld t 0 17))
  | 0x7 => (Order.ofCode (t / 2 ^ 20 % 4)).bind fun o => (Scope.ofCode (t / 2 ^ 17 % 8)).bind fun w => some (.amomaxn (t / 2 ^ 22 % 2 == 1) o w (fld h 5 5) (fld h 0 5) (fld t 27 5) (fld t 0 17))
  | 0x8 => (Order.ofCode (t / 2 ^ 20 % 4)).bind fun o => (Scope.ofCode (t / 2 ^ 17 % 8)).bind fun w => some (.amoswap (t / 2 ^ 22 % 2 == 1) o w (fld h 5 5) (fld h 0 5) (fld t 27 5) (fld t 0 17))
  | 0x9 => (Order.ofCode (t / 2 ^ 20 % 4)).bind fun o => (Scope.ofCode (t / 2 ^ 17 % 8)).bind fun w => some (.amocas (t / 2 ^ 22 % 2 == 1) o w (fld h 5 5) (fld h 0 5) (fld t 27 5) (fld t 0 17))
  | 0xa => (Order.ofCode (t / 2 ^ 20 % 4)).bind fun o => (Scope.ofCode (t / 2 ^ 17 % 8)).bind fun w => some (.famoadd o w (fld h 5 5) (fld h 0 5) (fld t 27 5) (fld t 0 17))
  | _ => none

/-- Function codes of major 0x15; none for a reserved code. -/
def dec15 (h t : Nat) : Option Instr :=
  match t / 128 % 16 with
  | 0x0 => match t / 32 % 4 with
    | 0x0 => (Scope.ofCode (t / 4 % 8)).bind fun w => some (.fence w)
    | 0x1 => (Scope.ofCode (t / 4 % 8)).bind fun w => some (.fenceAcq w)
    | 0x2 => (Scope.ofCode (t / 4 % 8)).bind fun w => some (.fenceRel w)
    | _ => none
  | 0x1 => some (.lbfence)
  | 0x2 => (PrefLevel.ofCode (t / 32 % 4)).bind fun l => some (.pref l (fld h 0 5))
  | 0x3 => some (.cwb (fld h 0 5))
  | 0x4 => some (.cinv (fld h 0 5))
  | 0x5 => some (.cwbinv (fld h 0 5))
  | 0x6 => some (.pinl (fld h 5 5) (fld h 0 5))
  | 0x7 => some (.unpinl (fld h 0 5))
  | _ => none

/-- Function codes of major 0x16; none for a reserved code. -/
def dec16 (h t : Nat) : Option Instr :=
  match t / 128 % 16 with
  | 0x0 => some (.give (fld t 4 3) (fld h 0 5) (fld t 1 3))
  | 0x1 => some (.wstat (fld h 5 5) (fld t 4 3))
  | 0x2 => some (.wwait (fld t 4 3))
  | 0x3 => some (.wmap (fld h 5 5) (fld t 4 3) (fld h 0 5))
  | 0x4 => some (.wunmap (fld h 5 5) (fld t 4 3))
  | 0x5 => some (.expect (fld t 4 3) (fld h 0 5))
  | 0x6 => some (.tagrd (fld h 5 5) (fld t 4 3) (fld h 0 5))
  | _ => none

/-- Function codes of major 0x17; none for a reserved code. -/
def dec17 (h t : Nat) : Option Instr :=
  match t / 2 ^ 24 % 8 with
  | 0x0 => (Scope.ofCode (t / 2 ^ 21 % 8)).bind fun w => some (.xbar w (fld h 5 5))
  | 0x1 => some (.xsend (fld t 0 14) (fld h 0 5) (fld t 27 5))
  | 0x2 => (RedOp.ofCode (t / 2 ^ 19 % 4)).bind fun p => (RedType.ofCode (t / 2 ^ 17 % 4)).bind fun y => some (.xsendr p y (fld t 0 14) (fld t 27 5))
  | 0x3 => some (.xrecv (fld t 0 14) (fld h 0 5))
  | 0x4 => (Scope.ofCode (t / 2 ^ 21 % 8)).bind fun w => some (.xend w (fld h 5 5))
  | _ => none

/-- Function codes of major 0x18; none for a reserved code. -/
def dec18 (h t : Nat) : Option Instr :=
  match t / 2 ^ 25 % 4 with
  | 0x0 => (Scope.ofCode (t / 2 ^ 22 % 8)).bind fun w => some (.qsend w (fld t 16 5) (fld h 5 5) (fld h 0 5) (fld t 27 5))
  | 0x1 => some (.qrecv (fld h 5 5) (fld t 27 5))
  | 0x2 => some (.qpoll (fld h 5 5))
  | _ => none

/-- Function codes of major 0x19; none for a reserved code. -/
def dec19 (h t : Nat) : Option Instr :=
  match t / 2 ^ 40 % 8 with
  | 0x0 => some (.cpy (if t / 2 ^ 39 % 2 = 1 then some (fld t 16 16) else none) (fld h 5 5) (fld h 0 5) (fld t 43 5))
  | 0x1 => some (.cpyw (fld h 5 5))
  | 0x2 => (RedOp.ofCode (t / 2 ^ 34 % 4)).bind fun p => (RedType.ofCode (t / 2 ^ 32 % 4)).bind fun y => (Scope.ofCode (t / 2 ^ 36 % 8)).bind fun w => some (.coll p y w (if t / 2 ^ 39 % 2 = 1 then some (fld t 16 16) else none) (fld h 5 5) (fld h 0 5) (fld t 43 5))
  | 0x3 => some (.collw (fld h 5 5))
  | _ => none

/-- Function codes of major 0x20; none for a reserved code. -/
def dec20 (h t : Nat) : Option Instr :=
  (Nullify.ofCode (h % 4)).bind fun n => some (.b n (fld t 0 16))

/-- Function codes of major 0x21; none for a reserved code. -/
def dec21 (h t : Nat) : Option Instr :=
  match t / 2 ^ 24 % 8 with
  | 0x0 => (Nullify.ofCode (t / 2 ^ 22 % 4)).bind fun n => some (.beq n (fld h 5 5) (fld h 0 5) (fld t 0 22))
  | 0x1 => (Nullify.ofCode (t / 2 ^ 22 % 4)).bind fun n => some (.bne n (fld h 5 5) (fld h 0 5) (fld t 0 22))
  | 0x2 => (Nullify.ofCode (t / 2 ^ 22 % 4)).bind fun n => some (.blt n (fld h 5 5) (fld h 0 5) (fld t 0 22))
  | 0x3 => (Nullify.ofCode (t / 2 ^ 22 % 4)).bind fun n => some (.bge n (fld h 5 5) (fld h 0 5) (fld t 0 22))
  | 0x4 => (Nullify.ofCode (t / 2 ^ 22 % 4)).bind fun n => some (.bltn n (fld h 5 5) (fld h 0 5) (fld t 0 22))
  | 0x5 => (Nullify.ofCode (t / 2 ^ 22 % 4)).bind fun n => some (.bgen n (fld h 5 5) (fld h 0 5) (fld t 0 22))
  | _ => none

/-- Function codes of major 0x22; none for a reserved code. -/
def dec22 (h t : Nat) : Option Instr :=
  match h / 4 % 2 with
  | 0x0 => (Nullify.ofCode (h % 4)).bind fun n => some (.bz n (fld h 5 5) (fld t 0 16))
  | 0x1 => (Nullify.ofCode (h % 4)).bind fun n => some (.bnz n (fld h 5 5) (fld t 0 16))
  | _ => none

/-- Function codes of major 0x23; none for a reserved code. -/
def dec23 (h t : Nat) : Option Instr :=
  (Nullify.ofCode (t / 2 ^ 25 % 4)).bind fun n => some (.jal n (fld h 5 5) (fld t 0 25))

/-- Function codes of major 0x24; none for a reserved code. -/
def dec24 (h _t : Nat) : Option Instr :=
  (Nullify.ofCode (h % 4)).bind fun n => some (.jr n (fld h 5 5))

/-- Function codes of major 0x25; none for a reserved code. -/
def dec25 (h t : Nat) : Option Instr :=
  match t / 256 % 8 with
  | 0x0 => (Scope.ofCode (t / 32 % 8)).bind fun w => some (.bar w (fld h 5 5) (fld t 0 5))
  | 0x1 => (Scope.ofCode (t / 32 % 8)).bind fun w => some (.bara w (fld h 5 5) (fld t 0 5))
  | 0x2 => (Scope.ofCode (t / 32 % 8)).bind fun w => some (.barw w (fld h 5 5) (fld t 0 5))
  | 0x3 => (Scope.ofCode (t / 32 % 8)).bind fun w => some (.tokw w (fld h 5 5) (fld t 0 5))
  | 0x4 => (Scope.ofCode (t / 32 % 8)).bind fun w => some (.tokp w (fld h 5 5) (fld t 0 5))
  | 0x5 => match t / 16 % 2 with
    | 0x0 => (Scope.ofCode (t / 32 % 8)).bind fun w => some (.wit w (fld h 5 5))
    | 0x1 => (Scope.ofCode (t / 32 % 8)).bind fun w => some (.witTok w (fld h 5 5) (fld t 0 4))
    | _ => none
  | 0x6 => (Scope.ofCode (t / 32 % 8)).bind fun w => some (.dstat w (fld h 5 5) (fld t 0 5))
  | _ => none

/-- Function codes of major 0x26; none for a reserved code. -/
def dec26 (h t : Nat) : Option Instr :=
  (Nullify.ofCode (h % 4)).bind fun n => (Scope.ofCode (t / 2 ^ 24 % 8)).bind fun w => some (.bil n w (if t / 2 ^ 23 % 2 = 1 then some (fld t 19 4) else none) (fld h 5 5) (fld t 0 19))

/-- Function codes of major 0x27; none for a reserved code. -/
def dec27 (h t : Nat) : Option Instr :=
  match t % 2048 with
  | 0x0 => some (.hstart (fld h 5 5) (fld h 0 5) (fld t 11 5))
  | 0x1 => some (.hjoin (fld h 5 5) (fld h 0 5))
  | 0x2 => some (.hexit (fld h 5 5))
  | _ => none

/-- Function codes of major 0x28; none for a reserved code. -/
def dec28 (h t : Nat) : Option Instr :=
  match h % 32 with
  | 0x0 => some (.trap (fld t 0 11))
  | 0x1 => (Nullify.ofCode (t % 4)).bind fun n => some (.eret n)
  | 0x2 => some (.rdsys (fld h 5 5) (fld t 0 11))
  | 0x3 => some (.wrsys (fld t 0 11) (fld t 11 5))
  | 0x4 => some (.ifence)
  | 0x5 => some (.park)
  | 0x6 => some (.wfe (fld h 5 5))
  | 0x7 => match t % 16 with
    | 0x0 => some (.injectAcc (fld h 5 5) (fld t 11 5) (fld t 5 6) (t / 16 % 2 == 1))
    | 0x1 => some (.injectLoc (fld h 5 5) (fld t 11 5) (fld t 5 6) (t / 16 % 2 == 1))
    | 0x2 => some (.injectSlice (fld h 5 5) (fld t 11 5) (fld t 5 6) (t / 16 % 2 == 1))
    | 0x3 => some (.injectDec (fld h 5 5) (fld t 5 6) (t / 16 % 2 == 1))
    | _ => none
  | 0x8 => match t % 2048 with
    | 0x0 => some (.rdid (fld h 5 5))
    | 0x1 => some (.rdidPod (fld h 5 5))
    | 0x2 => some (.rdidCtx (fld h 5 5))
    | 0x3 => some (.rdidPos (fld h 5 5))
    | _ => none
  | 0x9 => some (.rdstep (fld h 5 5))
  | 0xa => some (.waitSt (fld h 5 5) (fld t 11 5) (fld t 0 11))
  | 0xb => some (.rdcyc (fld h 5 5))
  | _ => none

/-- Function codes of major 0x30; none for a reserved code. -/
def dec30 (h t : Nat) : Option Instr :=
  match t / 128 % 16 with
  | 0x0 => (EType.ofCode (t / 8 % 16)).bind fun y => some (.vadd y (fld h 5 4) (fld h 0 4) (fld t 11 4) (fld t 0 3))
  | 0x1 => (EType.ofCode (t / 8 % 16)).bind fun y => some (.vsub y (fld h 5 4) (fld h 0 4) (fld t 11 4) (fld t 0 3))
  | 0x2 => (EType.ofCode (t / 8 % 16)).bind fun y => some (.vmul y (fld h 5 4) (fld h 0 4) (fld t 11 4) (fld t 0 3))
  | 0x3 => (EType.ofCode (t / 8 % 16)).bind fun y => some (.vmin y (fld h 5 4) (fld h 0 4) (fld t 11 4) (fld t 0 3))
  | 0x4 => (EType.ofCode (t / 8 % 16)).bind fun y => some (.vmax y (fld h 5 4) (fld h 0 4) (fld t 11 4) (fld t 0 3))
  | 0x5 => (EType.ofCode (t / 8 % 16)).bind fun y => some (.vand y (fld h 5 4) (fld h 0 4) (fld t 11 4) (fld t 0 3))
  | 0x6 => (EType.ofCode (t / 8 % 16)).bind fun y => some (.vor y (fld h 5 4) (fld h 0 4) (fld t 11 4) (fld t 0 3))
  | 0x7 => (EType.ofCode (t / 8 % 16)).bind fun y => some (.vxor y (fld h 5 4) (fld h 0 4) (fld t 11 4) (fld t 0 3))
  | 0x8 => (EType.ofCode (t / 8 % 16)).bind fun y => some (.vshl y (fld h 5 4) (fld h 0 4) (fld t 11 4) (fld t 0 3))
  | 0x9 => (EType.ofCode (t / 8 % 16)).bind fun y => some (.vshrl y (fld h 5 4) (fld h 0 4) (fld t 11 4) (fld t 0 3))
  | 0xa => (EType.ofCode (t / 8 % 16)).bind fun y => some (.vshra y (fld h 5 4) (fld h 0 4) (fld t 11 4) (fld t 0 3))
  | 0xb => (EType.ofCode (t / 8 % 16)).bind fun y => some (.vabs y (fld h 5 4) (fld h 0 4) (fld t 0 3))
  | 0xc => (EType.ofCode (t / 8 % 16)).bind fun y => some (.vneg y (fld h 5 4) (fld h 0 4) (fld t 0 3))
  | _ => none

/-- Function codes of major 0x31; none for a reserved code. -/
def dec31 (h t : Nat) : Option Instr :=
  match t / 2 ^ 18 % 16 with
  | 0x0 => (EType.ofCode (t / 2 ^ 14 % 16)).bind fun y => some (.vfma y (fld h 5 4) (fld h 0 4) (fld t 27 4) (fld t 22 4) (fld t 2 3))
  | 0x1 => (EType.ofCode (t / 2 ^ 14 % 16)).bind fun y => (EType.ofCode (t / 2 ^ 10 % 16)).bind fun s => (CvtMode.ofCode (t / 2 ^ 8 % 4)).bind fun m => some (.vcvt y s m (fld t 5 3) (fld h 5 4) (fld h 0 4) (fld t 22 4) (fld t 2 3))
  | 0x2 => (EType.ofCode (t / 2 ^ 14 % 16)).bind fun y => some (.vseq y (fld h 5 3) (fld h 0 4) (fld t 27 4) (fld t 2 3))
  | 0x3 => (EType.ofCode (t / 2 ^ 14 % 16)).bind fun y => some (.vslt y (fld h 5 3) (fld h 0 4) (fld t 27 4) (fld t 2 3))
  | 0x4 => (EType.ofCode (t / 2 ^ 14 % 16)).bind fun y => some (.vsle y (fld h 5 3) (fld h 0 4) (fld t 27 4) (fld t 2 3))
  | 0x5 => some (.vsel (fld h 5 4) (fld h 0 4) (fld t 27 4) (fld t 22 3))
  | 0x6 => (EType.ofCode (t / 2 ^ 14 % 16)).bind fun y => some (.vbcast y (fld h 5 4) (fld h 0 5) (fld t 2 3))
  | 0x7 => some (.vext (fld h 5 5) (fld h 0 4) (fld t 27 5))
  | 0x8 => some (.vperm (fld h 5 4) (fld h 0 4) (fld t 27 4) (fld t 2 3))
  | _ => none

/-- Function codes of major 0x32; none for a reserved code. -/
def dec32 (h t : Nat) : Option Instr :=
  match t / 2 ^ 24 % 8 with
  | 0x0 => some (.vld (fld h 5 4) (fld h 0 5) (fld t 0 19) (fld t 19 3))
  | 0x1 => some (.vst (fld h 5 4) (fld h 0 5) (fld t 0 19) (fld t 19 3))
  | 0x2 => some (.vldl (fld h 5 4) (fld h 0 5) (fld t 0 19) (fld t 19 3))
  | 0x3 => some (.vstl (fld h 5 4) (fld h 0 5) (fld t 0 19) (fld t 19 3))
  | 0x4 => (Size.ofCode (t / 2 ^ 22 % 4)).bind fun z => some (.vlds z (fld h 5 4) (fld h 0 5) (fld t 27 5) (fld t 0 19) (fld t 19 3))
  | 0x5 => (Size.ofCode (t / 2 ^ 22 % 4)).bind fun z => some (.vgath z (fld h 5 4) (fld h 0 5) (fld t 27 4) (fld t 0 19) (fld t 19 3))
  | 0x6 => (Size.ofCode (t / 2 ^ 22 % 4)).bind fun z => some (.vscat z (fld h 5 4) (fld h 0 5) (fld t 27 4) (fld t 0 19) (fld t 19 3))
  | _ => none

/-- Function codes of major 0x33; none for a reserved code. -/
def dec33 (h t : Nat) : Option Instr :=
  match t / 256 % 8 with
  | 0x0 => (EType.ofCode (t / 16 % 16)).bind fun y => some (.vredadd y (fld h 5 5) (fld h 0 4) (fld t 1 3))
  | 0x1 => (EType.ofCode (t / 16 % 16)).bind fun y => some (.vredmax y (fld h 5 5) (fld h 0 4) (fld t 1 3))
  | 0x2 => (EType.ofCode (t / 16 % 16)).bind fun y => some (.vredmin y (fld h 5 5) (fld h 0 4) (fld t 1 3))
  | 0x3 => (EType.ofCode (t / 16 % 16)).bind fun y => some (.vmaxi y (fld h 5 5) (fld h 0 4) (fld t 11 5) (fld t 1 3))
  | 0x4 => (EType.ofCode (t / 16 % 16)).bind fun y => some (.vmini y (fld h 5 5) (fld h 0 4) (fld t 11 5) (fld t 1 3))
  | _ => none

/-- Function codes of major 0x34; none for a reserved code. -/
def dec34 (h t : Nat) : Option Instr :=
  match t % 2048 with
  | 0x0 => some (.mand (fld h 5 3) (fld h 0 3) (fld t 11 3))
  | 0x1 => some (.mor (fld h 5 3) (fld h 0 3) (fld t 11 3))
  | 0x2 => some (.mxor (fld h 5 3) (fld h 0 3) (fld t 11 3))
  | 0x3 => some (.mnot (fld h 5 3) (fld h 0 3))
  | 0x4 => some (.mpopc (fld h 5 5) (fld h 0 3))
  | 0x5 => some (.mfirst (fld h 5 5) (fld h 0 3))
  | 0x6 => some (.mset (fld h 5 3) (fld h 0 5))
  | 0x7 => some (.mmov (fld h 5 3) (fld h 0 3))
  | 0x8 => some (.mmovG (fld h 5 5) (fld h 0 3))
  | _ => none

/-- Function codes of major 0x35; none for a reserved code. -/
def dec35 (h t : Nat) : Option Instr :=
  match t / 256 % 8 with
  | 0x0 => some (.vclaim (fld h 5 5) (fld t 0 4))
  | 0x1 => some (.vyield)
  | 0x2 => some (.vlen (fld h 5 5))
  | _ => none

/-- Function codes of major 0x36; none for a reserved code. -/
def dec36 (h t : Nat) : Option Instr :=
  match t / 256 % 8 with
  | 0x0 => some (.ppld (fld h 0 5))
  | 0x1 => some (.ppsel (fld t 4 4))
  | 0x2 => (FType.ofPpCode (t / 64 % 4)).bind fun y => some (.ppev y (fld h 5 4) (fld h 0 4) (fld t 3 3))
  | _ => none

/-- Function codes of major 0x37; none for a reserved code. -/
def dec37 (h t : Nat) : Option Instr :=
  (MmaFmt.ofCode (t / 2 ^ 24 % 8)).bind fun f => some (.mma f (if t / 2 ^ 23 % 2 = 1 then some (fld t 7 16) else none) (fld h 5 4) (fld h 0 5) (fld t 27 5))

/-- Function codes of major 0x38; none for a reserved code. -/
def dec38 (h t : Nat) : Option Instr :=
  match t / 256 % 8 with
  | 0x0 => some (.mzero (fld h 5 4))
  | 0x1 => (LatchSize.ofCode (t / 64 % 4)).bind fun z => some (.mldb z (fld h 0 5))
  | 0x2 => some (.mring (if t / 128 % 2 = 1 then some (fld t 0 7) else none))
  | 0x3 => some (.mchk (fld h 5 4))
  | 0x4 => some (.mst (t / 128 % 2 == 1) (fld h 5 4) (fld h 0 5))
  | 0x5 => (Mirror.ofCode (t % 4)).bind fun m => some (.mmir m)
  | 0x6 => some (.mwait (fld h 5 5))
  | 0x7 => some (.mqstat (fld h 5 5))
  | _ => none

/-- The instruction a head and tail name, must-be-zero fields not yet looked at. -/
def rawDecode (h t : Nat) : Option Instr :=
  match h / 1024 with
  | 0x0 => dec00 h t
  | 0x1 => dec01 h t
  | 0x2 => dec02 h t
  | 0x3 => dec03 h t
  | 0x4 => dec04 h t
  | 0x5 => dec05 h t
  | 0x6 => dec06 h t
  | 0x7 => dec07 h t
  | 0x8 => dec08 h t
  | 0x9 => dec09 h t
  | 0xa => dec0A h t
  | 0xb => dec0B h t
  | 0xc => dec0C h t
  | 0xd => dec0D h t
  | 0xe => dec0E h t
  | 0xf => dec0F h t
  | 0x10 => dec10 h t
  | 0x11 => dec11 h t
  | 0x12 => dec12 h t
  | 0x13 => dec13 h t
  | 0x14 => dec14 h t
  | 0x15 => dec15 h t
  | 0x16 => dec16 h t
  | 0x17 => dec17 h t
  | 0x18 => dec18 h t
  | 0x19 => dec19 h t
  | 0x20 => dec20 h t
  | 0x21 => dec21 h t
  | 0x22 => dec22 h t
  | 0x23 => dec23 h t
  | 0x24 => dec24 h t
  | 0x25 => dec25 h t
  | 0x26 => dec26 h t
  | 0x27 => dec27 h t
  | 0x28 => dec28 h t
  | 0x30 => dec30 h t
  | 0x31 => dec31 h t
  | 0x32 => dec32 h t
  | 0x33 => dec33 h t
  | 0x34 => dec34 h t
  | 0x35 => dec35 h t
  | 0x36 => dec36 h t
  | 0x37 => dec37 h t
  | 0x38 => dec38 h t
  | _ => none

/-- Decode a head and tail; total, and every refusal is named (R8, R88). -/
def decode (h t : Nat) : Except DecodeError Instr :=
  if reservedMajor (h / 1024) then .error .reservedMajor
  else match rawDecode h t with
    | none => .error .reservedFunction
    | some i =>
      if encode i ≠ some ⟨h, t⟩ then .error .mustBeZero
      else if i.wf then .ok i
      else .error .illegalOperand

/-! ### Lines (R59 to R63) -/

/-- A little-endian value: the first byte holds bits [7:0] (R6). -/
def leNat (bs : List Byte) : Nat := bs.foldr (fun b acc => b.toNat + 256 * acc) 0

/-- The `n` little-endian bytes of a value (R6). -/
def leBytes : Nat → Nat → List Byte
  | 0, _ => []
  | n + 1, v => BitVec.ofNat 8 v :: leBytes n (v / 256)

/-- Bytes `lo` to `lo + n - 1` of a line, little-endian (R6). -/
def lineBytes (l : Line) (lo n : Nat) : Nat := leNat ((l.drop lo).take n)

/-- Head `k` of a line: bytes 2k and 2k + 1 (R59). -/
def lineHead (l : Line) (k : Nat) : Nat := lineBytes l (2 * k) 2

/-- The control word, bytes 62 and 63 (R60). -/
def lineCtl (l : Line) : Nat := lineBytes l 62 2
/-- H, the head count (R60). -/
def lineH (l : Line) : Nat := lineCtl l % 32
/-- TGT: a taken control transfer may enter the line (R60). -/
def lineTgt (l : Line) : Bool := lineCtl l / 32 % 2 == 1
/-- SIGEN: the checker compares the signature at line exit (R60). -/
def lineSigen (l : Line) : Bool := lineCtl l / 64 % 2 == 1
/-- The stored signature, bytes 60 and 61 (R59). -/
def lineSig (l : Line) : Nat := lineBytes l 60 2

/-- S(k): the sum of the tail lengths of heads 0 to k - 1 (R62). -/
def lineS (l : Line) : Nat → Nat
  | 0 => 0
  | k + 1 => lineS l k + tailLen (lineHead l k / 1024)

/-- The tail of head k occupies bytes 60 - S(k + 1) to 59 - S(k) (R62). -/
def lineTail (l : Line) (k : Nat) : Nat :=
  lineBytes l (60 - lineS l (k + 1)) (tailLen (lineHead l k / 1024))

/-- The control transfers: majors 0x20 to 0x24 and 0x26, and ERET of major 0x28 (R66). -/
def isTransferHead (h : Nat) : Bool :=
  let m := h / 1024
  (0x20 ≤ m && m ≤ 0x24) || m == 0x26 || (m == 0x28 && h % 32 == 1)

/-- A line is well formed (R63). -/
def lineOk (l : Line) : Bool :=
  let H := lineH l
  let T := lineS l H
  1 ≤ H && H ≤ 30 && 2 * H + T ≤ 60 && lineCtl l / 128 == 0
    && ((l.drop (2 * H)).take (60 - T - 2 * H)).all (fun b => b == 0)
    && (List.range (H - 3)).all (fun k => !isTransferHead (lineHead l k))

/-- The decode words of a head and its tail: the head, then the tail's halfwords from bits [15:0] upward (R68). -/
def decodeWords (h t : Nat) : List (BitVec 16) :=
  BitVec.ofNat 16 h ::
    (List.range (tailLen (h / 1024) / 2)).map (fun j => BitVec.ofNat 16 (t / 2 ^ (16 * j)))

/-- The decode words of head k of a line. -/
def lineWords (l : Line) (k : Nat) : List (BitVec 16) := decodeWords (lineHead l k) (lineTail l k)

/-- One bit of the CRC of R69. -/
def crcBit (crc : BitVec 16) (b : Bool) : BitVec 16 :=
  let shifted := crc <<< 1
  if (crc.getLsbD 15) ^^ b then shifted ^^^ 0x1021#16 else shifted

/-- One decode word fed to the CRC, most significant bit first (R69). -/
def crcWord (crc w : BitVec 16) : BitVec 16 :=
  (List.range 16).foldl (fun c j => crcBit c (w.getLsbD (15 - j))) crc

/-- The partial signature after more decode words (R68, R69). -/
def sigFrom (p : BitVec 16) (ws : List (BitVec 16)) : BitVec 16 := ws.foldl crcWord p

/-- Sig over a whole line (R69). -/
def sig (ws : List (BitVec 16)) : BitVec 16 := sigFrom 0xFFFF#16 ws

/-- A line built from heads with their tails (R59, R62): heads from the front, the tail of head 0
ending at byte 59 and each later tail directly below; then the signature and the control word. -/
def mkLine (es : List Enc) (tgt sigen : Bool) : Line :=
  let heads := es.flatMap (fun e => leBytes 2 e.head)
  let tails := es.reverse.flatMap (fun e => leBytes (tailLen (e.head / 1024)) e.tail)
  let crc := (sig (es.flatMap (fun e => decodeWords e.head e.tail))).toNat
  heads ++ List.replicate (60 - tails.length - heads.length) 0 ++ tails ++ leBytes 2 (if sigen then crc else 0)
    ++ leBytes 2 (es.length + tgt.toNat * 32 + sigen.toNat * 64)

/-- A line of one instruction at head 0, with TGT set and no signature check. -/
def oneLine (h t : Nat) : Line := mkLine [⟨h, t⟩] true false

/-- Decode head k of a line. -/
def lineDecode (l : Line) (k : Nat) : Except DecodeError Instr := decode (lineHead l k) (lineTail l k)

/-- The head and tail of an instruction word numbered as spec/opcode_table.json numbers it: the head
stands above the tail (its 16 topmost bits), as the table's match values show (major in the top bits). -/
def tableSplit (nbits w : Nat) : Enc := ⟨w / 2 ^ (nbits - 16) % 2 ^ 16, w % 2 ^ (nbits - 16)⟩

/-- The instruction the decoder reads from a word of spec/opcode_table.json. The word is laid into a line
and read back from there, as the fetch does. -/
def decodeTableWord (nbits w : Nat) : Option Instr :=
  let e := tableSplit nbits w
  match lineDecode (oneLine e.head e.tail) 0 with
  | .ok i => some i
  | .error _ => none

end Sys2Proof
end

