-- ==== Sys2Proof/Config.lean ====
section
/-!
DEFINITION. What the manual leaves to the implementation, the firmware, the runtime or chance: constants
without a body, so that nothing can be proved about their value. Each is named in notes/assumptions.
-/
namespace Sys2Proof.Config

/-- Cycles within the 64 of R234 after which a coalescing entry drains: raw value, by a fresh counter. -/
opaque drainRaw : Nat → Nat
/-- First-level replacement within a set, which never affects results (R232): raw way, by a fresh counter. -/
opaque l1Victim : Nat → Nat
/-- Which neighbour a faithful built-in set delivers: set, type code, operand bits (R55). -/
opaque ppUp : Nat → Nat → BitVec 32 → Bool
/-- Steps from dispatch until the wake has reached every core and zeroing is done, by launch sequence (R313, R315). -/
opaque wakeLatency : Nat → Nat
/-- Which FREE well the runtime maps: octet, and how many are free (R314). -/
opaque wellPick : Nat → Nat → Nat
/-- The runtime's default handler line (R314, R414). -/
opaque defaultHandler : Word
/-- Root node of a tree of an instance (R281): scope code, instance, generation of its edge sets, tree. -/
opaque treeRoot : Nat → Nat → Nat → Nat → Nat
/-- Whether a node stands next to the root of a tree (R281): scope code, instance, generation, tree, node. -/
opaque treeMid : Nat → Nat → Nat → Nat → Nat → Bool
/-- The node next to the root that an outer node hangs from: raw number (R281): as above. -/
opaque treeUp : Nat → Nat → Nat → Nat → Nat → Nat
/-- Whether two clock nodes are joined by a control link beyond the trees' edges (R283). -/
opaque linked : Nat → Nat → Nat → Nat → Bool
/-- Which router that is joined to both the route tables lead a pair of routers through, raw (R265): die, the two. -/
opaque routeMid : Nat → Nat → Nat → Nat
/-- The router of a die at which its link to another die ends, raw (R392). -/
opaque linkRouter : Nat → Nat → Nat
/-- What another module of the pod answers to an offered message (R167), by a fresh counter: 0 taken, 1 refused, 2 no ring. -/
opaque podAnswer : Nat → Nat
/-- Whether the other modules of a pod return a COLL chunk's partials in time (R407), by a fresh counter. -/
opaque podChunk : Nat → Bool
/-- A byte of a chunk combined with the other modules' contributions (R407): by a fresh counter and its place. -/
opaque podByte : Nat → Nat → BitVec 8
/-- Measured row power in units of 10 mW (R359), raw. -/
opaque rowPower : Nat
/-- The governor's estimate of module power in W at a slot, which no rule derives from activity (R358). -/
opaque powerEstimate : Nat → Nat
/-- The fixed part of the estimate in W that the budget controllers subtract, at a slot (R366). -/
opaque fixedPower : Nat → Nat
/-- The duty, raw, to which the controllers lower a die at 105 degrees, by a fresh counter (R413). -/
opaque throttleDuty : Nat → Nat
/-- A PINNED launch's own share of that estimate at a slot (R365): node, slot. -/
opaque launchEstimate : Nat → Nat → Nat
/-- The fall of module power in W that the governor forecasts for a slot (R363). -/
opaque forecastFall : Nat → Nat
/-- Power of a half that pounces, and of a core's logic as its switch turns on, in sixteenths of 10 mW, raw (R360, R363,
R367). -/
opaque pouncePower : Nat
opaque switchPower : Nat
/-- Whether the two halves of a mirrored multiply agree, by a fresh counter (R219). -/
opaque mirrorAgrees : Nat → Bool
/-- Whether a die link's training at a start succeeds, by a fresh counter, and the range that its partner then carries: MIN,
MAX, FEAT (R403, R406). -/
opaque linkTrains : Nat → Bool
opaque linkPartner : Nat → Nat × Nat × BitVec 32
/-- Which of a matrix and an engine command of a core, both timed and running at once in one local memory, loses a sub-bank
to the other in a step, by a fresh counter, raw (R272): 1 the matrix command, 2 the engine's, else neither. -/
opaque bankLoss : Nat → Nat
/-- The frame, of the free ones of a stack, that the firmware takes: raw number, by a fresh counter (R336). -/
opaque framePick : Nat → Nat
/-- Steps the fault service takes to reply, by a fresh counter: there is no bound (R343). -/
opaque faultDelay : Nat → Nat
/-- Whether the fault service resolves a fault, by a fresh counter (R343). -/
opaque faultResolves : Nat → Bool
/-- A byte of a tile's check lanes in the context area, whose form is the hardware's own (R330): core, tile, place. -/
opaque laneByte : Nat → Nat → Nat → BitVec 8
/-- Whether a returned frame passes its write-and-read test (R386): die, stack, frame. -/
opaque frameGood : Nat → Nat → Nat → Bool
/-- The global address at which the firmware keeps an object's extent list (R336): identifier, fresh counter. -/
opaque extList : Nat → Nat → BitVec 64
/-- Whether a route to a die in another row and column begins along the row (R240): die generation, die, home die. -/
opaque rowFirst : Nat → Nat → Nat → Bool
/-- A byte read from a page backed by the host over Ethernet (R337), by a fresh counter. -/
opaque hostByte : Nat → BitVec 8
/-- The object identifier the firmware gives a created object when the host names none, by a fresh counter. -/
opaque objectPick : Nat → Nat
/-- The module's serial number (R412). -/
opaque serial : BitVec 128
/-- The fused minimum security version, and the security version of an image, given as a number (R411, R412). -/
opaque fusedVersion : BitVec 32
opaque imageVersion : Nat → BitVec 32
/-- SHA-512 digests of the firmware image and of the repair map (R412): which, and what is hashed. -/
opaque digest : Nat → Nat → BitVec 512
/-- The Ed25519 signature of a report by the module's identity key (R412): report bytes as a number. -/
opaque signature : Nat → BitVec 512
/-- The certificate of the identity key (R412). -/
opaque certificate : List (BitVec 8)
/-- The version and features that a pod has for its collective format (0) and its control protocol (1), as a module that
joins it finds them (R404): which, module number, pod size. -/
opaque podFound : Nat → Nat → Nat → Nat × BitVec 32
/-- DUCTCFG of the module at the root of a pod's tree where the host has given it other values than this one, as a module
that joins finds it (R295): module number, pod size. -/
opaque podRootCfg : Nat → Nat → Option (BitVec 64)
/-- Progress of the scrub pass in 65,536ths, raw, by a fresh counter (R388, R393). -/
opaque scrubPass : Nat → Nat
/-- Whether a router of a die carries an HBM port (R392): die, router. -/
opaque carriesHbm : Nat → Nat → Bool
/-- Contents of a telemetry record (R388, R400), by a fresh counter. -/
opaque telemetry : Nat → BitVec 64
/-- Bytes that an INJECT or soft error of three or more bits leaves a SECDED word with are judged
uncorrectable or wrongly corrected (R374 states only one and two): by word address, the mask. -/
opaque tripleIsDetected : Nat → BitVec 64 → Bool
/-- What the self-test of a cold start finds failing on a die, by a fresh counter: slice ways, as slice, set and way, and
routers (R387, R390, R408). -/
opaque badWays : Nat → Nat → List (Nat × Nat × Nat)
opaque badRouters : Nat → Nat → List Nat

end Sys2Proof.Config
end

