-- ==== Sys2Proof/Machine/Map.lean ====
section
/-!
DEFINITION. Sparse tables and the byte memories made of them. A table lists (key, value) pairs with rising
keys; a memory lists no byte equal to what an unlisted address reads as, which is 0 (R408 stage 6).
-/
namespace Sys2Proof.Machine

/-- The value under a key, or the default. -/
def sget {α : Type} (d : α) : SMap α → Nat → α
  | [], _ => d
  | (k, v) :: r, i => if i = k then v else sget d r i

/-- The table with a value under a key, keys kept rising. -/
def sput {α : Type} : SMap α → Nat → α → SMap α
  | [], i, x => [(i, x)]
  | (k, v) :: r, i, x =>
    if i < k then (i, x) :: (k, v) :: r
    else if i = k then (i, x) :: r
    else (k, v) :: sput r i x

/-- The table without a key. -/
def sdel {α : Type} (m : SMap α) (i : Nat) : SMap α := m.filter (fun e => e.1 != i)

/-- A write that lists no default: writing the default removes the entry. -/
def sputD {α : Type} [DecidableEq α] (d : α) (m : SMap α) (i : Nat) (x : α) : SMap α :=
  if x = d then sdel m i else sput m i x

/-- Change the value under a key. -/
def smod {α : Type} (d : α) (m : SMap α) (i : Nat) (f : α → α) : SMap α := sput m i (f (sget d m i))

/-- Change every listed value. -/
def sall {α : Type} (m : SMap α) (f : α → α) : SMap α := m.map (fun e => (e.1, f e.2))

/-- A byte memory. -/
abbrev Memory := List (Nat × BitVec 8)

/-- What an unlisted address reads as: zero, which start-up writes into every SRAM and HBM word (R408). -/
def Memory.blank : Byte := 0

/-- One byte. -/
def Memory.read (m : Memory) (a : Nat) : Byte := sget Memory.blank m a
/-- Store one byte. -/
def Memory.write (m : Memory) (a : Nat) (b : Byte) : Memory := sputD Memory.blank m a b

/-- `n` bytes from an address, lowest first. -/
def Memory.readN (m : Memory) (a : Nat) : Nat → List Byte
  | 0 => []
  | n + 1 => m.read a :: Memory.readN m (a + 1) n

/-- Store bytes at rising addresses. -/
def Memory.writeN (m : Memory) (a : Nat) : List Byte → Memory
  | [] => m
  | b :: bs => Memory.writeN (m.write a b) (a + 1) bs

/-- Keys rise strictly from a bound. -/
def risingFrom {α : Type} : Nat → SMap α → Bool
  | _, [] => true
  | lo, (k, _) :: r => decide (lo ≤ k) && risingFrom (k + 1) r

/-- The canonical form: keys strictly rising and no entry that reads as an unlisted address does. -/
def Memory.wf (m : Memory) : Bool := risingFrom 0 m && m.all (fun e => e.2 != Memory.blank)

end Sys2Proof.Machine
end

