-- ==== Sys2Proof/Machine/Numbers.lean ====
section
/-!
DEFINITION. Number formats and exact arithmetic (spec/02_numbers.md): every result is the exact
mathematical value followed by at most one rounding. A finite value is a signed multiple of a power of two.
-/
namespace Sys2Proof.Machine

/-- A value of a floating-point format: NaN, an infinity, or (-1)^neg * m * 2^e; m = 0 is a signed zero (R33). -/
inductive FVal where
  | nan
  | inf (neg : Bool)
  | fin (neg : Bool) (m : Nat) (e : Int)
  deriving DecidableEq, Repr

/-- The floating-point formats of R33. -/
inductive Fmt where
  | f32 | f16 | bf | e5 | e4 | e2
  deriving DecidableEq, Repr

/-- Width of the fraction field m (R33). -/
def Fmt.mbits : Fmt → Nat | .f32 => 23 | .f16 => 10 | .bf => 7 | .e5 => 2 | .e4 => 3 | .e2 => 1
/-- Width of the exponent field e (R33). -/
def Fmt.ebits : Fmt → Nat | .f32 => 8 | .f16 => 5 | .bf => 8 | .e5 => 5 | .e4 => 4 | .e2 => 2
/-- Exponent bias (R33). -/
def Fmt.bias : Fmt → Nat | .f32 => 127 | .f16 => 15 | .bf => 127 | .e5 => 15 | .e4 => 7 | .e2 => 1
/-- Width of a code of the format (R33). -/
def Fmt.width (F : Fmt) : Nat := 1 + F.ebits + F.mbits
/-- The sign bit's weight. -/
def Fmt.signBit (F : Fmt) : Nat := 2 ^ (F.ebits + F.mbits)

/-- The canonical NaN (R39); a code of E2M1 has none and takes code 0 (R42). -/
def Fmt.nanCode : Fmt → Nat
  | .f32 => 0x7FC00000 | .f16 => 0x7E00 | .bf => 0x7FC0 | .e5 => 0x7E | .e4 => 0x7F | .e2 => 0

/-- The magnitude code delivered for an overflow or an infinity (R42). -/
def Fmt.ovfCode (F : Fmt) : Nat :=
  match F with
  | .e4 => 0x7E
  | .e2 => 7
  | _ => (2 ^ F.ebits - 1) * 2 ^ F.mbits

/-- The smallest exponent of a format's unit: the weight of the last fraction bit of a subnormal. -/
def Fmt.qmin (F : Fmt) : Int := 1 - (F.bias : Int) - F.mbits

/-- Dec (R58): the value of a code, subnormal BF16 read as a zero of its sign (R33, R38). -/
def dec (F : Fmt) (code : Nat) : FVal :=
  let M := 2 ^ F.mbits
  let neg := code / F.signBit % 2 == 1
  let e := code / M % 2 ^ F.ebits
  let m := code % M
  let top := 2 ^ F.ebits - 1
  if F != .e2 && e == top && (F != .e4 || m == 7) then
    if F != .e4 && m == 0 then .inf neg else .nan
  else if e == 0 then
    if F == .bf then .fin neg 0 0 else .fin neg m F.qmin
  else .fin neg (M + m) (e - 1 + F.qmin)

/-- Rounding of a discarded remainder: nearest even, toward zero, upward in magnitude, or by a draw (R41, R43). -/
inductive Rnd where
  | ne | rz | up
  | sr (draw : BitVec 32)
  deriving DecidableEq, Repr

/-- Whether the truncated magnitude `n` with remainder `r` of `2^k` moves to the next magnitude. -/
def roundsUp (mode : Rnd) (n r k : Nat) : Bool :=
  match mode with
  | .rz => false
  | .up => r != 0
  | .ne => 2 * r > 2 ^ k || (2 * r == 2 ^ k && n % 2 == 1)
  | .sr draw => draw.toNat * 2 ^ k < r * 2 ^ 32

/-- `m * 2^e` as a multiple of `2^q`, rounded (R41). -/
def scaleTo (mode : Rnd) (m : Nat) (e q : Int) : Nat :=
  if q ≤ e then m * 2 ^ (e - q).toNat
  else
    let k := (q - e).toNat
    let n := m / 2 ^ k
    n + (roundsUp mode n (m % 2 ^ k) k).toNat

/-- The magnitude code of `m * 2^e` in a format with unbounded exponent range. -/
def magCode (F : Fmt) (mode : Rnd) (m : Nat) (e : Int) : Nat :=
  if m = 0 then 0
  else
    let q := max F.qmin (e + Nat.log2 m - F.mbits)
    (q - F.qmin).toNat * 2 ^ F.mbits + scaleTo mode m e q

/-- Enc (R58): one rounding, then the overflow rule of R42 and the flushing of R38; a NaN is canonical (R39). -/
def enc (F : Fmt) (x : FVal) (mode : Rnd) : Nat :=
  match x with
  | .nan => F.nanCode
  | .inf neg => neg.toNat * F.signBit + F.ovfCode
  | .fin neg m e =>
    let c := magCode F mode m e
    let c := if c ≥ F.ovfCode then F.ovfCode else c
    let c := if F == .bf && c < 2 ^ F.mbits then 0 else c
    neg.toNat * F.signBit + c

/-- Whether rounding to FP32 overflows (R214's condition on v). -/
def overflows32 (x : FVal) : Bool :=
  match x with
  | .fin _ m e => magCode .f32 .ne m e ≥ Fmt.ovfCode .f32
  | _ => false

/-- RoundFP32 (R58): Enc(FP32, x, nearest even) taken as its value. -/
def roundFP32 (x : FVal) : FVal := dec .f32 (enc .f32 x .ne)

/-- Is the value a NaN? -/
def FVal.isNaN : FVal → Bool | .nan => true | _ => false
/-- Is the value finite? -/
def FVal.isFin : FVal → Bool | .fin .. => true | _ => false
/-- The sign. -/
def FVal.sign : FVal → Bool | .nan => false | .inf n => n | .fin n _ _ => n
/-- Negation. -/
def FVal.negate : FVal → FVal | .nan => .nan | .inf n => .inf (!n) | .fin n m e => .fin (!n) m e
/-- Absolute value. -/
def FVal.abs : FVal → FVal | .nan => .nan | .inf _ => .inf false | .fin _ m e => .fin false m e

/-- A signed integer times `2^e` as an Int at the exponent `q`, exact when `q ≤ e`. -/
def scaled (neg : Bool) (m : Nat) (e q : Int) : Int :=
  let v : Int := (m * 2 ^ (e - q).toNat : Nat)
  if neg then -v else v

/-- Exact sum; a sum of zeros of equal sign keeps that sign and every other zero sum is +0 (R46). -/
def fAdd (x y : FVal) : FVal :=
  match x, y with
  | .nan, _ | _, .nan => .nan
  | .inf a, .inf b => if a == b then .inf a else .nan
  | .inf a, _ => .inf a
  | _, .inf b => .inf b
  | .fin a m e, .fin b n f =>
    let q := min e f
    let s := scaled a m e q + scaled b n f q
    if s = 0 then .fin (a && b) 0 q else .fin (s < 0) s.natAbs q

/-- Exact product; 0 times an infinity is NaN (R52). -/
def fMul (x y : FVal) : FVal :=
  match x, y with
  | .nan, _ | _, .nan => .nan
  | .inf a, .inf b => .inf (a ^^ b)
  | .inf a, .fin b n _ => if n = 0 then .nan else .inf (a ^^ b)
  | .fin a m _, .inf b => if m = 0 then .nan else .inf (a ^^ b)
  | .fin a m e, .fin b n f => .fin (a ^^ b) (m * n) (e + f)

/-- Exact sum of a list, from its first member (R51, R204: -0 only when every member is -0). -/
def fSum : List FVal → FVal
  | [] => .fin false 0 0
  | x :: xs => xs.foldl fAdd x

/-- Strictly less, on values that are not NaN; zeros are equal (R47). -/
def fLt (x y : FVal) : Bool :=
  match x, y with
  | .nan, _ | _, .nan => false
  | .inf a, .inf b => a && !b
  | .inf a, .fin .. => a
  | .fin .., .inf b => !b
  | .fin a m e, .fin b n f => let q := min e f; scaled a m e q < scaled b n f q

/-- Equal, false when either is NaN; zeros are equal (R47). -/
def fEq (x y : FVal) : Bool := !x.isNaN && !y.isNaN && !fLt x y && !fLt y x
/-- Less or equal, false when either is NaN (R47). -/
def fLe (x y : FVal) : Bool := fLt x y || fEq x y

/-- FMIN (R47): NaN if either is; -0 ranks below +0. -/
def fMin (x y : FVal) : FVal :=
  if x.isNaN || y.isNaN then .nan
  else if fLt y x || (fEq x y && y.sign) then y else x
/-- FMAX (R47): NaN if either is; +0 ranks above -0. -/
def fMax (x y : FVal) : FVal :=
  if x.isNaN || y.isNaN then .nan
  else if fLt x y || (fEq x y && x.sign) then y else x

/-- The value of a signed integer. -/
def FVal.ofInt (i : Int) : FVal := .fin (i < 0) i.natAbs 0

/-- Sat (R58). -/
def sat (x lo hi : Int) : Int := if x < lo then lo else if hi < x then hi else x

/-- A float rounded to an integer by the mode and saturated; infinities by sign, NaN gives 0 (R42, R99). -/
def toIntSat (x : FVal) (mode : Rnd) (lo hi : Int) : Int :=
  match x with
  | .nan => 0
  | .inf neg => if neg then lo else hi
  | .fin neg m e =>
    let n : Int := scaleTo mode m e 0
    sat (if neg then -n else n) lo hi

/-- The value of an E3M5 block scale; code 0xFF is poison, a NaN here (R35). -/
def decE3M5 (code : Nat) : FVal :=
  let e := code / 32 % 8
  let m := code % 32
  if code % 256 == 0xFF then .nan
  else if e == 0 then .fin false m (-7) else .fin false (32 + m) ((e : Int) - 8)

/-- Quiet(x) (R58): the quiet bit set, payload kept; E4M3 NaNs are unchanged. -/
def quietCode (F : Fmt) (code : Nat) : Nat :=
  match F with
  | .e4 | .e2 => code
  | _ => let q := 2 ^ (F.mbits - 1); if code / q % 2 == 1 then code else code + q

/-- Which of two codes MaxIdx ranks strictly better (R50). -/
def ranks (x y : FVal) (maxDir : Bool) : Bool :=
  match x, y with
  | .fin a 0 _, .fin b 0 _ => if a == b then false else if maxDir then !a else a
  | _, _ => if maxDir then fLt y x else fLt x y

/-- SrNext (R44): the next state, which is also the draw. -/
def srStep (s : BitVec 32) : BitVec 32 :=
  let s := s ^^^ (s <<< 13)
  let s := s ^^^ (s >>> 17)
  s ^^^ (s <<< 5)

/-- A generator state after a write of SEED (R44). -/
def srSeed (seed : BitVec 32) (i : Nat) : BitVec 32 :=
  let s := seed ^^^ BitVec.ofNat 32 ((i + 1) * 0x9E3779B9)
  if s = 0 then 1 else s

/-- A result converted into an E2M1 element with its E3M5 scale of 1.0 (R99); a NaN poisons the scale. -/
def e2Image (x : FVal) (mode : Rnd) : Nat :=
  if x.isNaN then 0xFF0 else 0x600 + enc .e2 x mode

/-! ### Integers -/

/-- Sext(x, w) (R58). -/
def sext (x w : Nat) : Word := (BitVec.ofNat w x).signExtend 64
/-- Zext(x, w) (R58). -/
def zext (x w : Nat) : Word := (BitVec.ofNat w x).setWidth 64

/-- DivT on signed values with the corners of R32, for width w. -/
def divS (w : Nat) (a b : Int) : BitVec w :=
  if b = 0 then BitVec.allOnes w else BitVec.ofInt w (a.tdiv b)
/-- RemT on signed values (R32): the dividend when the divisor is 0. -/
def remS (w : Nat) (a b : Int) : BitVec w :=
  if b = 0 then BitVec.ofInt w a else BitVec.ofInt w (a.tmod b)
/-- DivT on unsigned values (R32): all ones when the divisor is 0. -/
def divU (w a b : Nat) : BitVec w :=
  if b = 0 then BitVec.allOnes w else BitVec.ofNat w (a / b)
/-- RemT on unsigned values (R32). -/
def remU (w a b : Nat) : BitVec w :=
  if b = 0 then BitVec.ofNat w a else BitVec.ofNat w (a % b)

/-- Shl(x, n, w) (R48): 0 for an amount at or above the width. -/
def shlW {w : Nat} (x : BitVec w) (n : Nat) : BitVec w := if w ≤ n then 0 else x <<< n
/-- Shrl(x, n, w) (R48). -/
def shrlW {w : Nat} (x : BitVec w) (n : Nat) : BitVec w := if w ≤ n then 0 else x >>> n
/-- Shra(x, n, w) (R48): copies of the sign bit for an amount at or above the width. -/
def shraW {w : Nat} (x : BitVec w) (n : Nat) : BitVec w :=
  if w ≤ n then (if x.msb then BitVec.allOnes w else 0) else x.sshiftRight n

/-- Leading zero bits; 64 for 0 (R93). -/
def clz64 (x : Word) : Nat := if x = 0 then 64 else 63 - Nat.log2 x.toNat
/-- Trailing zero bits; 64 for 0 (R93): the leading zeros of the lowest set bit, from the other end. -/
def ctz64 (x : Word) : Nat := if x = 0 then 64 else Nat.log2 (x &&& (0 - x)).toNat
/-- popcount (R58). -/
def popcount {w : Nat} (x : BitVec w) : Nat := (List.range w).countP (fun i => x.getLsbD i)

end Sys2Proof.Machine
end

