-- ==== Sys2Proof/Machine/State.lean ====
section
/-!
DEFINITION. The state of one Iclys F9620 module as plain data: contexts, cores, octets, dies, Ductus,
memory, objects, scheduler, governor and host side, and the state after a cold start (R7, R408).
Tables list only what differs from what an unlisted key holds.
-/
namespace Sys2Proof.Machine

/-- No step of this machine ends in a fault: every fault of the manual enters a handler (R126), ends a job
(R380) or is recorded, and each of these is a next state. -/
inductive Fault where
  deriving DecidableEq, Repr

/-- Why a step has no meaning. -/
inductive Refusal where
  /-- An arm of exec that gives its row no meaning yet raises it; safe, since nothing follows from a refusal. -/
  | notModelled (mnemonic : String)
  deriving DecidableEq, Repr

/-! ### Contexts -/

/-- The line read for a queue entry (R67): not formed (R127), not readable with the cause of R123's FETCH
row, or the 64 bytes read. -/
inductive LineRead where
  | unformed
  | bad (detail : Nat)
  | ok (l : Line)
  deriving DecidableEq, Repr

/-- One entry of the PC queue (R17): the head's address, its annul bit, whether it entered as the target of
a transfer or as the entry line of a context (TGT is read, R65), and the line read for it. -/
structure QEnt where
  addr   : Word := 0
  annul  : Bool := false
  target : Bool := false
  line   : LineRead := .unformed
  deriving DecidableEq, Repr

/-- The states of R11; context 0 is LIVE while the core runs a launch, else IDLE. -/
inductive CtxState where
  | idle | live | waiting | exited
  deriving DecidableEq, Repr

/-- A hardware context (R10). -/
structure Ctx where
  st     : CtxState := .idle
  g      : SMap Word := []
  /-- Registers whose stored word an error has struck that no read has met, and whether it is uncorrectable (R375, R377). -/
  hurt   : SMap Bool := []
  q0     : QEnt := {}
  q1     : QEnt := {}
  q2     : QEnt := {}
  p      : BitVec 16 := 0xFFFF
  cstat  : Word := 1
  epcq0  : Word := 0
  epcq1  : Word := 0
  epcq2  : Word := 0
  esig   : Word := 0
  ecause : Word := 0
  eaddr  : Word := 0
  /-- Which of the saved entries are targets whose TGT is still to be read (R65, R124; log 70). -/
  marks  : BitVec 3 := 0
  srseed : BitVec 32 := 0
  sr     : SMap (BitVec 32) := []
  arrived : Bool := false
  latch  : BitVec 7 := 0
  status : Word := 0
  /-- The instruction at Q0 in which the context waits (R13: not ready). -/
  wait   : Option Instr := none
  /-- Model step at which the wait began (timeouts of R172, R120, R167). -/
  since  : Nat := 0
  /-- What the wait carries: a target step, the phase bit at an arrival, a count. -/
  aux    : Word := 0
  /-- The bytes that a waiting QSEND read as it issued (R20, R167). -/
  payload : List Byte := []
  /-- The page whose fault reply the context waits for (R137). -/
  page   : Option (Nat × Nat) := none
  /-- That page was answered unresolved: the fate is taken at the boundary (R137). -/
  pageBad : Bool := false
  /-- The reply was that the word is poisoned (R333, R334): the fate is POISONED. -/
  pagePoison : Bool := false
  /-- The wait is for a line of code (R129). -/
  fetching : Bool := false
  /-- Delay slots an ERET still has to run (R114). -/
  eret   : Nat := 0
  /-- Flips of the next decode word (R122 .DEC). -/
  decFlip : BitVec 16 := 0
  /-- A SIGNATURE fault found at the last line exit: computed, stored, line (R70). -/
  sigFault : Option (BitVec 16 × BitVec 16 × Word) := none
  /-- A trap that follows the last retirement, ECAUSE and EADDR, and waits for its boundary (R160, R88). -/
  trapNext : Option (Word × Word) := none
  /-- CPYs and COLLs issued since the last CPYW and COLLW, and the first failure of each (R179, R181). -/
  cpyCount : Nat := 0
  cpyFail  : Option (Nat × Nat) := none
  collFail : Option Nat := none
  collRedo : Nat := 0
  /-- A timed engine command found not ready: the n of R180, copy or collective. -/
  lateCpy  : Option Nat := none
  lateColl : Option Nat := none
  /-- The CYCLE at which the last result of a register can be read, where that is later than the next one (R88). -/
  due      : SMap Word := []
  /-- The context has retired an instruction or entered a trap since it was chosen to issue (R13). -/
  acted    : Bool := false
  /-- It has reached its boundary, which waits for the vector queue (R186). -/
  awaits   : Bool := false
  /-- A trap after a retirement that a queue fault went ahead of, to be taken once INTRAP is 0 again (R186; log 72). -/
  owedTrap : Option (Word × Word) := none
  deriving DecidableEq, Repr

/-! ### A core's parts -/

/-- An instruction in the vector queue (R183): its VLEN, general operands, remaining element mask, and the
step it completes once started. -/
structure VEntry where
  instr : Instr
  vlen  : Nat
  ops   : List Word
  mask  : Word
  fin   : Option Nat := none
  /-- Head address of the instruction (R185). -/
  pc     : Word := 0
  /-- The elements of a memory form that have been performed (R201). -/
  did    : Word := 0
  /-- What a load read, written to its register as it completes (R185). -/
  buf    : SMap (BitVec 32) := []
  /-- An error has struck the entry, and whether it is uncorrectable (R377). -/
  hurt   : Option Bool := none
  deriving DecidableEq, Repr

/-- A command in the matrix queue (R183, R210): operands, mirror mode, timed start, half held, and once
running the resources and the step it completes. -/
structure MEntry where
  instr  : Instr
  ops    : List Word
  mirror : Mirror
  start  : Option Word := none
  half   : Option Nat := none
  fin    : Option Nat := none
  queued : Nat := 0
  /-- Head address of the command (R185). -/
  pc     : Word := 0
  /-- Both halves run it, under MMIR.FORCE or as a mirror (R219). -/
  mirrored : Bool := false
  /-- The halves disagreed once and compute again (R219). -/
  retry  : Bool := false
  /-- An error has struck the entry, and whether it is uncorrectable (R377). -/
  hurt   : Option Bool := none
  deriving DecidableEq, Repr

/-- An engine command (R178 to R181). -/
structure EngCmd where
  id     : Nat
  /-- The instruction, for the context area (R330). -/
  instr  : Option Instr := none
  ctx    : Nat
  copy   : Bool
  dst    : Word
  src    : Word
  len    : Nat
  op     : RedOp := .add
  ty     : RedType := .w
  scope  : Scope := .oct
  start  : Option Word := none
  n      : Nat := 0
  idx    : Nat := 0
  off    : Nat := 0
  tries  : Nat := 0
  tree   : Nat := 0
  /-- GENs of the path as the chunk's reads found them, and the chunk combined (R300). -/
  gen    : Option (List (BitVec 16)) := none
  data   : List Byte := []
  since  : Nat := 0
  /-- A collective's try of its chunk has been read and combined. -/
  running : Bool := false
  /-- A timed command that has started (R180). -/
  begun  : Bool := false
  page   : Option (Nat × Nat) := none
  /-- A page of the command's ranges whose fault was answered unresolved. -/
  dead   : Option (Nat × Nat) := none
  /-- BANKMAP as the command was checked against it: its local operands keep those wells (R21). -/
  bank   : SMap Word := []
  /-- The private lines of its ranges have been written back and dropped (R233). -/
  flushed : Bool := false
  /-- Bytes of `data` that it has written, and the status that its source gave behind them (R179). -/
  wrote  : Nat := 0
  bad    : Option Nat := none
  /-- The core's own contribution to a chunk of a POD collective, kept until the commit (R407). -/
  kept   : Option (List Byte) := none
  /-- Model step before which it may not go on: it lost a sub-bank to another timed command (R272). -/
  notBefore : Nat := 0
  /-- An error has struck the entry, and whether it is uncorrectable (R377). -/
  hurt   : Option Bool := none
  deriving DecidableEq, Repr

/-- A send of the open phase (R159): `beat` counts those that have left, `done` once the fourth has landed or been lost. -/
structure Xfer where
  ctx  : Nat
  n    : Nat
  dst  : Nat
  src  : Nat
  off  : Nat
  pair : Nat
  beat : Nat := 0
  bad  : Bool := false
  /-- Its receiver has recorded it as unmatched (R160). -/
  unmatched : Bool := false
  done : Bool := false
  deriving DecidableEq, Repr

/-- A receive window of the open phase (R267): `done` once its XRECV has retired. -/
structure Window where
  ctx  : Nat := 0
  n    : Nat
  src  : Nat
  got  : Nat := 0
  done : Bool := false
  deriving DecidableEq, Repr

/-- A member's contribution to a reducing send (R161). -/
structure Contrib where
  ctx  : Nat := 0
  n    : Nat
  op   : RedOp
  ty   : RedType
  src  : Nat
  pair : Nat
  off  : Nat
  data : List Byte := []
  deriving DecidableEq, Repr

/-- The ports that a reducing send of an instance's phase occupies, from its first label to its last (R268). -/
structure Occ where
  inst : Inst
  n    : Nat
  first : Nat
  last : Nat
  /-- It is of the phase that is open or the last one of the instance. -/
  live : Bool := true
  /-- Another transfer has met it: the combination is dropped. -/
  bad  : Bool := false
  deriving DecidableEq, Repr

/-- Stored-bit errors of a memory (R374 to R376): flips the code has not met, by 8-byte word, and poisoned words. -/
structure Ecc where
  flips  : SMap (BitVec 64) := []
  poison : List Nat := []
  deriving DecidableEq, Repr

/-- One first-level line of 32 bytes (R232, R233, R235): `addr` is the global address divided by 32. -/
structure L1Line where
  addr  : Nat
  priv  : Bool
  dirty : Bool := false
  stamp : BitVec 8 := 0
  data  : List Byte
  /-- Errors in its words, and in its tag: whether that one is uncorrectable (R374 to R376). -/
  ecc   : Ecc := {}
  tagHurt : Option Bool := none
  deriving DecidableEq, Repr

/-- One coalescing-buffer entry (R234): a sector with the bytes stored, its context, and the latest step. -/
structure CbEntry where
  ctx    : Nat
  sector : Nat
  bytes  : SMap Byte
  wcomb  : Bool
  due    : Nat
  cid    : Nat
  /-- The entry waits at its home slice for a page-fault reply (R137). -/
  held   : Bool := false
  deriving DecidableEq, Repr

/-- Fetch duty and divider (R28, R367): the values in force, those written and held for a window boundary, and the divider
change in progress with the step in which it completes. -/
structure Fduty where
  duty    : Nat := 16
  div     : Nat := 0
  forced  : Bool := false
  newDuty : Option Nat := none
  newDiv  : Option Nat := none
  divTo   : Nat := 0
  divDue  : Option Nat := none
  deriving DecidableEq, Repr

/-- Vector registers, grant and queue (R15, R183, R188). -/
structure VecUnit where
  v      : SMap (BitVec 32) := []
  m      : SMap Word := []
  vlen   : Nat := 0
  grant  : Nat := 0
  want   : Nat := 0
  queue  : List VEntry := []
  fault  : Option (Word × Word) := none
  table  : SMap (BitVec 32) := []
  segs   : Nat := 0
  set    : Nat := 0
  /-- The table and set as the queue's later instructions will see them are those when they complete. -/
  page   : Option (Nat × Nat) := none
  /-- Registers struck by an error that no read has met, mask registers from 32 on, and the polynomial table (R375, R377). -/
  hurt   : SMap Bool := []
  tableHurt : Option Bool := none
  deriving DecidableEq, Repr

/-- The core's side of the matrix unit (R183, R211, R215 to R221). -/
structure MatUnit where
  accmap : BitVec 16 := 0
  queue  : List MEntry := []
  fault  : Option (Word × Word) := none
  cur    : Memory := []
  curEcc : Ecc := {}
  inc    : Memory := []
  incEcc : Ecc := {}
  full   : Bool := false
  /-- A latch on its way here from the octet before, landing 16 steps after its send (R217). -/
  fly    : Option (Memory × Ecc) := none
  mirror : Mirror := .off
  corr   : BitVec 16 := 0
  retr   : BitVec 16 := 0
  merr   : Word := 0
  deriving DecidableEq, Repr

/-- Local memory of a core and its slots (R19, R30, R153, R166). -/
structure Local where
  tcm     : Memory := []
  ecc     : Ecc := {}
  bank    : SMap Word := []
  expTag  : SMap (BitVec 8) := []
  armed   : BitVec 8 := 0
  checked : SMap (BitVec 16) := []
  head    : Nat := 0
  tail    : Nat := 0
  recs    : Nat := 0
  recHead : Nat := 0
  /-- The scopes of the waiting messages, oldest first: QSEND's own, POD from Ethernet (R246). -/
  recScope : List Scope := []
  qbound  : Word := 4096
  deriving DecidableEq, Repr

/-- The core's side of an exchange phase (R156, R159 to R163, R269). -/
structure XchUnit where
  xtag   : Word := 0
  xfail  : Word := 0
  firstSrc : Nat := 0
  sends  : List Xfer := []
  wins   : List Window := []
  contrib : List Contrib := []
  deriving DecidableEq, Repr

/-- An entry of the object bounds buffer: an object's bounds, owner and place, and no translation (R338). -/
structure Bounds where
  id      : Nat
  size    : Nat
  priv    : Bool
  owncore : Nat
  owncid  : Nat
  die     : Nat
  dom     : Nat
  /-- An error has struck the entry, and whether it is uncorrectable (R377). -/
  hurt    : Option Bool := none
  deriving DecidableEq, Repr

/-- First-level cache, coalescing buffer and object bounds buffer, least recently used first (R232 to R236, R338). -/
structure Cache where
  lines : List L1Line := []
  epoch : Word := 0
  cbuf  : List CbEntry := []
  obb   : List Bounds := []
  deriving DecidableEq, Repr

/-- The launch a core runs (R314, R316). -/
structure Launched where
  node   : Option Nat := none
  lcore0 : Word := 0
  lcores : Word := 0
  litems : Word := 0
  larg   : Word := 0
  lcid   : Word := 0
  /-- CID of the core's previous launch (R314's zeroing). -/
  prev   : Option Nat := none
  /-- A launch taken by the wake, its node and its start step (R313, R315). -/
  next   : Option (Nat × Nat) := none
  /-- Declared or measured RAMP to be taken (R365): ECAUSE. -/
  ramp   : Option Word := none
  /-- A pre-empt message awaits the core's boundary (R326). -/
  preempt : Bool := false
  deriving DecidableEq, Repr

/-- An error struck in the PC queue or the checker of a context, whose next retirement reads them all (R375, R377): the
context, and whether more than one bit flipped. -/
structure Struck where
  ctx : Nat := 0
  dbl : Bool
  deriving DecidableEq, Repr

/-- A core (R10, R22). -/
structure Core where
  /-- Errors in PC queues and checkers that no read has met yet (R375, R377). -/
  struck : List Struck := []
  ctxs   : SMap Ctx := []
  hptr   : Nat := 10
  last   : Option Nat := none
  /-- The core has issued in its present cycle (R13). -/
  issued : Bool := false
  evec   : Word := 0
  evecDefault : Bool := false
  fduty  : Fduty := {}
  cycle  : Word := 0
  /-- Model steps left until the divider's next cycle (R3). -/
  phase  : Nat := 0
  /-- The present cycle began in this step (R28). -/
  began  : Bool := false
  /-- Cycles left of the row's pre-throttle, by the core's own clock (R368). -/
  thr    : Nat := 0
  taskstep : Word := 0
  ipend  : Word := 0
  imask  : Word := 0x20
  ialarm : Word := 0
  toklost : Bool := false
  eccstat : Word := 0
  /-- Model step of the last error counted in ECCSTAT (R379). -/
  eccAt   : Option Nat := none
  parked : Bool := false
  powered : Bool := true
  idleSince : Nat := 0
  engs   : List EngCmd := []
  /-- Statuses of collectives that stopped before this core issued its own (R181). -/
  collOwed : List Nat := []
  vec    : VecUnit := {}
  mat    : MatUnit := {}
  loc    : Local := {}
  xch    : XchUnit := {}
  cache  : Cache := {}
  run    : Launched := {}
  deriving DecidableEq, Repr

/-! ### Octets -/

/-- The state of a well (R228). -/
inductive WellSt where
  | free | owned | shared | incoming
  deriving DecidableEq, Repr

/-- A well of 64 KiB with its sixteen tile tags (R155, R241). -/
structure Well where
  data : Memory := []
  tags : SMap (BitVec 8) := []
  st   : WellSt := .free
  ecc  : Ecc := {}
  /-- Tiles whose tag an error has struck that no read has met, and whether it is uncorrectable (R374 to R376). -/
  tagErr : SMap Bool := []
  deriving DecidableEq, Repr

/-- What a tile holds (R214). -/
inductive TileKind where
  | none | fp | int
  deriving DecidableEq, Repr

/-- An accumulator tile with its check lanes (R214); element (i, j) has key 64 i + j. -/
structure Tile where
  el   : SMap (BitVec 32) := []
  rs   : SMap FVal := []
  cs   : SMap FVal := []
  mr   : SMap (BitVec 32) := []
  mc   : SMap (BitVec 32) := []
  ur   : BitVec 64 := 0
  uc   : BitVec 64 := 0
  q    : Nat := 0
  kind : TileKind := .none
  void : Bool := false
  chk  : Bool := true
  deriving DecidableEq, Repr

/-- An octet (R1, R190, R210, R217, R364). Resources 0 and 1 are the halves, 2 the tile port. -/
structure Octet where
  wells  : SMap Well := []
  vshare : Word := 0x11111111
  mshare : Word := 0x11111111
  cut    : Bool := false
  tiles  : SMap Tile := []
  busy   : SMap (Nat × Nat) := []
  credit : SMap Int := []
  wear   : SMap Nat := []
  pounce : Word := 0
  level  : Nat := 0
  levelAt : Nat := 0
  /-- The halves that pounce at the current level, when idle (R362). -/
  h0     : Bool := false
  h1     : Bool := false
  deriving DecidableEq, Repr

/-! ### Dies and memory -/

/-- A slice line of 256 bytes (R238, R350, R351): `key` is the global address divided by 256. -/
structure SliceLine where
  key   : Nat
  way   : Nat
  valid : BitVec 8 := 0
  dirty : BitVec 8 := 0
  data  : Memory := []
  owner : Option Nat := none
  pins  : List Nat := []
  ecc   : Ecc := {}
  /-- Its tag, or its owner tag, is uncorrectable (R374, R385). -/
  tagBad : Bool := false
  ownBad : Bool := false
  deriving DecidableEq, Repr

/-- A home slice (R238, R349, R387); the sets are keyed 0 to 1,023. -/
structure Slice where
  sets  : SMap (List SliceLine) := []
  plru  : SMap (BitVec 16) := []
  quar  : List (Nat × Nat) := []
  /-- The page entries of the translation cache, object and page, least recently used first (R342). -/
  tlb   : List (Nat × Nat) := []
  sharedHits : Nat := 0
  unowned : Nat := 0
  deriving DecidableEq, Repr

/-- A gateway line (R240, R353). -/
structure GwLine where
  key   : Nat
  way   : Nat
  valid : BitVec 8
  data  : Memory
  deriving DecidableEq, Repr

/-- Who waits for a page: a context, a vector queue, an engine command, a buffered store, a host connection (R343). -/
inductive Waiter where
  | ctx (c k : Nat)
  | vec (c : Nat)
  | eng (c id : Nat)
  | store (c k sector : Nat)
  | host (conn : Nat)
  deriving DecidableEq, Repr

/-- A page that requests wait for at a slice, with its waiters in arrival order: a fault outstanding (R343), or a page on
the move (R345). -/
structure PageFault where
  obj : Nat
  pg  : Nat
  slot : Nat
  moving : Bool := false
  waiters : List Waiter := []
  /-- The reply has come, and these waiters are being served or answered in turn (R343). -/
  answer : Option Bool := none
  deriving DecidableEq, Repr

/-- A page on the move (R345). -/
structure Migration where
  obj : Nat
  pg  : Nat
  stack : Nat
  frame : Nat
  /-- Sectors written back during the copy, for the frame that the page then has: offset in the page, bytes, and which of
  their words are poisoned. -/
  held  : List (Nat × List Byte × List Nat) := []
  deriving DecidableEq, Repr

/-- A voltage row (R367 to R369). -/
structure Row where
  rowpwr : Word := 0
  sig    : BitVec 32 := 0
  table  : List (BitVec 32) := []
  /-- Model step at which the pre-throttle in progress began (R368). -/
  thrAt  : Option Nat := none
  /-- The scheduler asks for the low level (R367). -/
  wantLow : Bool := false
  /-- DUTY as last written for the row's gated cores (R366). -/
  duty   : Nat := 16
  deriving DecidableEq, Repr

/-- A die (R341, R384, R390, R393). -/
structure Die where
  hash    : SMap Word := []
  rasstat : Word := 0
  slices  : SMap Slice := []
  domcids : SMap (List Nat) := []
  /-- The gateway cache of each link port, by the die that the link leads to (R1, R240). -/
  gates   : SMap (List GwLine) := []
  gplru   : SMap (BitVec 16) := []
  faults  : List PageFault := []
  migr    : List Migration := []
  rows    : SMap Row := []
  /-- STEP of each router less the model's step count (R283). -/
  stepOff : SMap Word := []
  deadRouters : List Nat := []
  named   : Bool := false
  /-- XBAR arrivals are held while routes are recomputed (R263, R390). -/
  xhold   : Bool := false
  /-- Computations of its route tables, and the routers that were dead at the last one (R390). -/
  routeGen : Nat := 0
  routeDead : List Nat := []
  /-- Model step at which the scrub pass began (R388). -/
  passAt  : Nat := 0
  splits  : List (Nat × Nat) := []
  /-- Pins, by line and CID, that a moved or quarantined line lost and that are re-made when it is next
  allocated (R348, R387). -/
  pinsLost : List (Nat × Nat) := []
  deriving DecidableEq, Repr

/-- An extent of an object (R337). -/
structure Extent where
  first  : Nat
  count  : Nat
  ty     : PageType
  absent : Bool
  frame  : Nat
  stack  : Nat
  back   : Nat
  deriving DecidableEq, Repr

/-- An object descriptor with its extents (R336). -/
structure Obj where
  size : Nat
  die  : Nat
  dom  : Nat
  priv : Bool := false
  owncore : Nat := 0
  owncid  : Nat := 0
  /-- Global address of the extent list, in a firmware object (log 21). -/
  extlist : Word := 0
  ext  : List Extent
  /-- Pages retired until the host maps them again (R386). -/
  retired : List Nat := []
  deriving DecidableEq, Repr

/-- A snapshot in flight (R354, R355): lines saved and copied by page and line number. -/
structure Snap where
  obj   : Nat
  cid   : Nat
  t     : Nat
  pool  : Nat
  /-- The frames of the pool, as runs, and where the host wants the object (R354). -/
  frames : List (Nat × Nat) := []
  dest  : Word := 0
  used  : List Nat := []
  saved : List Nat := []
  /-- Lines copied, by number: the bytes and how many of their words are uncorrectable (R355, R356). -/
  copies : SMap (List Byte × Nat) := []
  next  : Nat := 0
  sent  : Nat := 0
  copied : Nat := 0
  bad   : Nat := 0
  suspect : Bool := false
  /-- Writes held for a frame of the pool, by who asked and the offset, each counted once in STALLS (R357). -/
  stalled : List (Nat × Nat) := []
  deriving DecidableEq, Repr

/-! ### Ductus -/

/-- A member core's bits at a unit (R285). -/
structure Memb where
  mb     : Bool := false
  f      : Bool := false
  x      : Bool := false
  phase  : Bool := false
  acked  : Bool := false
  missed : Bool := false
  /-- MISSED as it stood at the last sample (R285). -/
  missedS : Bool := false
  deriving DecidableEq, Repr

/-- A barrier unit: cached mask and count, the members' bits, the sample of the last round, and holds (R285, R329). -/
structure DUnit where
  mask  : List Nat := []
  cnt   : Nat := 0
  mem   : SMap Memb := []
  held  : Bool := false
  sCnt  : Nat := 0
  sPop  : Nat := 0
  /-- What the sample found wrong: CNT or MASK (R285). -/
  sBad  : Bool := false
  sMb   : List Nat := []
  released : Bool := false
  deriving DecidableEq, Repr

/-- An instance's Ductus state (R278, R281, R285, R290, R293). Unit 31 is the exchange barrier. -/
structure DInst where
  legit  : Bool := true
  gen    : BitVec 16 := 0
  clean  : Nat := 15
  lost   : BitVec 32 := 0
  layers : BitVec 3 := 7
  cLegit : Bool := true
  cGen   : BitVec 16 := 0
  dist   : SMap Nat := []
  par    : SMap Nat := []
  units  : SMap DUnit := []
  adj    : SMap (BitVec 32) := []
  maxadj : SMap (BitVec 32) := []
  /-- Generation of the edge sets, which a route computation changes (R281, R302). -/
  edges  : Nat := 0
  /-- The judgement of the round being audited, per layer, as sampled at step 0 (R289): the trees, no backward adjustment
  since the last verdict, the barriers. -/
  sTrees : Bool := true
  sClock : Bool := true
  sBars  : Bool := true
  /-- A sample awaits its verdict. -/
  sampled : Bool := false
  /-- LEGIT and GEN at the root at the XBAR release of the open phase, and its step (R162, R299). -/
  xLegit : Bool := true
  xGen   : BitVec 16 := 0
  xAt    : Nat := 0
  /-- The next round is unclean whatever it finds: a changed PODRLEN or PODDCAP, new edge sets (R295, R302). -/
  spoil  : Bool := false
  deriving DecidableEq, Repr

/-- A token ring (R287, R294, R306). -/
structure Ring where
  mb     : List Nat := []
  x      : SMap Nat := []
  tokk   : SMap Word := []
  /-- The value of TOKK that the ring runs under (R294). -/
  run    : Word := 0x0000000400001040
  /-- STEP[31:0] at node 0 as LEGIT was last cleared (R290). -/
  lostStep : BitVec 32 := 0
  pend   : List (Nat × Word) := []
  held   : SMap Nat := []
  legit  : Bool := true
  gen    : BitVec 16 := 0
  clean  : Nat := 15
  cLegit : Bool := true
  cGen   : BitVec 16 := 0
  sClean : Bool := true
  /-- A sample awaits node 0's verdict. -/
  sampled : Bool := false
  /-- The ring of a launch that is switching out or SAVED: its holding node does not change (R329). -/
  frozen : Bool := false
  deriving DecidableEq, Repr

/-! ### The module -/

/-- Scheduler states of a node (R319). -/
inductive NodeSt where
  | free | waiting | ready | running | draining | saved | done | failed
  deriving DecidableEq, Repr

/-- The context area of a core as saved at a switch-out (R330 to R332): the parts of the core that R330
to R334 restore, the wells of its slots, and its tiles. -/
structure Area where
  core  : Core
  /-- By slot. -/
  wells : SMap Well
  tiles : SMap Tile
  /-- The addresses that its replay records wait at, in record order; 0 once the reply is recorded (R333). -/
  recs  : List Word := []
  deriving DecidableEq, Repr

/-- A node of the scheduler (R312, R317, R319, R322). -/
structure Node where
  rec_    : NodeRec := {}
  st      : NodeSt := .free
  counter : Nat := 0
  level   : Nat := 0
  readyAt : Nat := 0
  agedAt  : Nat := 0
  seq     : BitVec 32 := 0
  div     : Nat := 0
  exits   : SMap Word := []
  areas   : SMap Area := []
  out     : List Nat := []
  pdelay  : Bool := false
  viol    : Bool := false
  est     : Option Nat := none
  /-- It had waited 8 times AGE when it was dispatched (R322). -/
  urgent  : Bool := false
  /-- Steps it waited before its present wait (R322). -/
  waited  : Nat := 0
  deriving DecidableEq, Repr

/-- A Uager connection (R398, R403). -/
structure Conn where
  id   : Nat
  ver  : Nat
  feat : BitVec 32
  /-- The command whose bytes wait for a page; later ones of the connection take effect after it (R401). -/
  waits : Option Event := none
  /-- That page was answered unresolved (R343). -/
  bad   : Bool := false
  /-- It waits for no page but for a command accepted earlier on another connection (R401). -/
  behind : Bool := false
  /-- The version of the telemetry that it is sent (R404). -/
  tele  : Nat := 1
  deriving DecidableEq, Repr

/-- What the module sends to the host (R317, R346, R356, R383, R388, R400). -/
inductive HostMsg where
  /-- The header's fields (R399) and the payload: a value where the operation answers one, then bytes. -/
  | reply (conn ver op len tag cid status : Nat) (value : Word) (data : List Byte)
  | completion (words : List Word)
  | fault (words : List Word)
  | migrationFailed (cid obj pg : Nat) (words : List Nat) (retired : Bool)
  /-- A line of a snapshot, or none for an absent page, for its place at the destination that the command named. -/
  | snapLine (obj line : Nat) (dest : Word) (data : Option (List Byte)) (poisoned : Bool)
  | snapDone (obj t sent copied bad : Nat) (suspect truncated : Bool)
  | telemetry (conn ver : Nat) (v : Word)
  /-- A store to a page the host backs (R337). -/
  | store (cid : Nat) (addr : Word) (data : List Byte)
  | attestation (nonce : BitVec 256) (serial : BitVec 128) (fw : BitVec 512) (sec : Word) (uager : Word)
      (repair : BitVec 512) (step : Word) (sig : BitVec 512) (cert : List Byte)
  deriving DecidableEq, Repr

/-- A write of membership bits that waits for its step of the round (R311): units of an instance, or a ring. -/
structure Pend where
  due     : Nat
  inst    : Inst
  unit    : Nat
  ring    : Option RingId := none
  members : List Nat
  set     : Bool
  deriving DecidableEq, Repr

/-- Scheduler and job contexts (R316, R319 to R325, R350, R352). -/
structure Sched where
  nodes    : SMap Node := []
  resident : List Nat := []
  weight   : SMap Nat := []
  quota    : SMap Nat := []
  credit   : SMap Int := []
  seq      : BitVec 32 := 0
  counters : SMap Nat := []
  schedcfg : Word := 0x0000000000A003E8
  xmaxlen  : Word := 65536
  pend     : List Pend := []
  deriving DecidableEq, Repr

/-- Governor and budget (R358 to R369). -/
structure Gov where
  cfg   : Word := 0
  /-- GOVCFG as in effect since the last slot boundary (R359). -/
  eff   : Word := 0
  stat  : Word := 0
  /-- Raises of duty outstanding: row, die, the duty written (R361). -/
  raises : List (Nat × Nat × Nat) := []
  /-- Falls of a hot die's rows outstanding, in the same form (R413). -/
  falls  : List (Nat × Nat × Nat) := []
  /-- The change of the slot now running need not be within RATE: the first slot, an exchange release, a tripped die (R358,
  R363, R413). -/
  loose  : Bool := true
  /-- What each slot that is not over has been drawn on, in sixteenths of 10 mW, by slot number (R360). -/
  used  : SMap Nat := []
  deriving DecidableEq, Repr

/-- Start-up and firmware (R408 to R411). -/
structure Boot where
  /-- The stage running, 1 to 6; 0 when no start has completed or runs; none when the start is complete. -/
  stage  : Option Nat := none
  /-- Model step at which the last start completed. -/
  doneAt : Nat := 0
  cold   : Bool := true
  began  : Nat := 0
  failed : List Nat := []
  /-- The image check of R411 failed: logic off, ROM operations only. -/
  off    : Bool := false
  /-- The image slot in use and the other one (R411), the image that runs (R412), and the chunks of one being loaded. -/
  image  : List Byte := []
  spare  : List Byte := []
  running : List Byte := []
  loading : List Byte := []
  repairBad : Bool := false
  deriving DecidableEq, Repr

/-- One exchange beat (R159, R265), with the label by which it is judged (R262). -/
structure Beat where
  label  : Nat
  sender : Nat
  ctx    : Nat
  dst    : Nat
  k      : Nat
  n      : Nat
  src    : Nat
  off    : Nat
  pair   : Nat
  tag    : BitVec 8
  data   : List Byte
  deriving DecidableEq, Repr

/-- How far a step of the module has come (R227): the exchange has yet to be served, then the engines' accesses, then
the cores issue, then the step is over. -/
inductive Stage where
  | exchange | issue | over
  deriving DecidableEq, Repr

/-- The state of a module. -/
structure State where
  /-- Steps since reset: the model's own clock, from which every STEP is an offset (log 2). -/
  now     : Nat := 0
  /-- Events due now, oldest first, host commands among them (log 6). -/
  agenda  : List Event := []
  /-- Events due at a later step. -/
  timers  : List (Nat × Event) := []
  /-- How far this step has come. -/
  stage   : Stage := .issue
  /-- By sub-bank of local memory: the requester served last, and the step in which it was (R226, R227). -/
  served  : SMap (Nat × Nat) := []
  /-- Contexts, core and number, whose instruction could not go on in this step: they are not ready (R13; log 42). -/
  blocked : List (Nat × Nat) := []
  /-- The core and context whose instruction is executed. -/
  core    : Nat := 0
  ctx     : Nat := 0
  /-- Counter that makes each free value a fresh one. -/
  fresh   : Nat := 0
  cores   : SMap Core := []
  octets  : SMap Octet := []
  dies    : SMap Die := []
  insts   : SMap DInst := []
  rings   : SMap Ring := []
  hbm     : Memory := []
  hbmEcc  : Ecc := {}
  objs    : SMap Obj := []
  /-- Frames retired or under test: (die, stack, frame) packed; those in use are the extents' (R336, R386). -/
  frames  : List Nat := []
  /-- Beats that have left and not yet landed. -/
  beats   : List Beat := []
  /-- Beats that have landed, without their bytes, while a member of an open phase may still send one with their label
  (R262, R266). -/
  past    : List Beat := []
  /-- Windows of reducing sends, kept as long (R268). -/
  occ     : List Occ := []
  sched   : Sched := {}
  gov     : Gov := {}
  boot    : Boot := {}
  ductcfg : Word := 0x02BC620000000000 + 2000
  /-- DUCTCFG of the module at the root of the POD tree, where that is another module and it was told of other values (R295). -/
  podRoot : Option Word := none
  /-- The value whose PODRLEN and PODDCAP the current POD round runs under (R295). -/
  ductEff : Word := 0x02BC620000000000 + 2000
  /-- Changes of DUCTCFG, the newest first: the step, and the value before it (R295). -/
  ductLog : List (Nat × Word) := []
  snaps   : List Snap := []
  /-- SNAPBW, in percent of a home's HBM bandwidth (R355). -/
  snapbw  : Nat := 5
  conns   : List Conn := []
  modno   : Nat := 0
  podsize : Nat := 0
  /-- The module's coarse POD count less the microseconds counted since reset (R280, R296). -/
  podOff  : Word := 0
  /-- The same for the count of the other modules of the pod (R284). -/
  podBase : Word := 0
  attached : Bool := false
  /-- Version and features in use (R403, R404): of the pod's collective format, of its control protocol, and of each die link
  that negotiated other ones at its training, by 16 times its lower die and the higher. -/
  collFmt : Nat × BitVec 32 := (2, 3)
  podCtl  : Nat × BitVec 32 := (1, 0)
  linkFmt : SMap (Nat × BitVec 32) := []
  /-- The pod's collective or control range cannot be met: the module is refused membership (R405). -/
  refused : Bool := false
  pendingLinks : List LinkId := []
  /-- Links named LINK, which no route and no edge set uses (R389, R406). -/
  deadLinks : List LinkId := []
  /-- Modules of the pod named MODULE (R389). -/
  deadMods : List Nat := []
  outbox  : List HostMsg := []
  deriving DecidableEq, Repr

/-- GOVCFG after a start (R359): BUDGET 15,000, PFLOOR 2,000, ROWP as measured at cold start (1 to 4,095,
a free value), DECAY 1, RATE 400. -/
def govReset : Word :=
  (15000#64 <<< 48) ||| (2000#64 <<< 32) ||| (BitVec.ofNat 64 (1 + Config.rowPower % 4095) <<< 20) ||| (1#64 <<< 18) ||| 400#64

/-- The machine right after a completed cold start, before any launch (R7, R302, R408). -/
def State.reset : State := { gov := { cfg := govReset, eff := govReset } }

end Sys2Proof.Machine
end

