-- ==== Sys2Proof/Machine/Access.lean ====
section
/-!
DEFINITION. Reading and changing the parts of the state: contexts, cores, octets, dies, instances and rings,
and the step clock as a core sees it. A part that no table lists is as the cold start left it.
-/
namespace Sys2Proof.Machine

/-- The value under a key, if listed. -/
def sfind {α : Type} : SMap α → Nat → Option α
  | [], _ => none
  | (k, v) :: r, i => if i = k then some v else sfind r i

/-- Put an element into a list in order, before the first that it precedes. -/
def insertBy {α : Type} (le : α → α → Bool) (x : α) : List α → List α
  | [] => [x]
  | y :: r => if le x y then x :: y :: r else y :: insertBy le x r

/-- A list in order; equals keep their places. -/
def sortBy {α : Type} (le : α → α → Bool) (xs : List α) : List α := xs.foldr (insertBy le) []

/-- Apply a change once for each number of a list, in order. -/
def each {α β : Type} (xs : List α) (s : β) (f : β → α → β) : β := xs.foldl f s

/-- Bits hi..lo of a word as a number. -/
def bits {w : Nat} (x : BitVec w) (hi lo : Nat) : Nat := x.toNat / 2 ^ lo % 2 ^ (hi + 1 - lo)

/-- A word with bits hi..lo replaced. -/
def setBits (x : Word) (hi lo v : Nat) : Word :=
  let m : Word := BitVec.ofNat 64 (2 ^ (hi + 1) - 2 ^ lo)
  (x &&& ~~~m) ||| (BitVec.ofNat 64 (v % 2 ^ (hi + 1 - lo) * 2 ^ lo))

/-- A 64-bit word of a number. -/
abbrev w64 (n : Nat) : Word := BitVec.ofNat 64 n

/-! ### Numbering (R1, R2) -/

/-- Logical cores of a module. -/
def coreCount : Nat := 30720
/-- Die of a logical core (R2). -/
def dieOf (c : Nat) : Nat := c / 1920
/-- Octet of the module a core lies in, 0 to 3,839. -/
def octOf (c : Nat) : Nat := c / 8
/-- Octet position (R2). -/
def posOf (c : Nat) : Nat := c % 8
/-- Logical octet of its die, which numbers its router (R2; log 9). -/
def routerOf (c : Nat) : Nat := c / 8 % 240
/-- The eight cores of an octet of the module. -/
def octCores (o : Nat) : List Nat := (List.range 8).map (8 * o + ·)
/-- Voltage row of a core on its die: row of logical octet o is o / 2 (R315). -/
def rowOf (c : Nat) : Nat := c / 16 % 120

/-! ### Cores and contexts -/

/-- The context a launch has not touched: PRIV 1 and its own number in CSTAT (R23). -/
def Ctx.reset (k : Nat) : Ctx := { cstat := 1#64 ||| w64 (k * 256) }

/-- A core without a launch since the start: its clock ran until the power switch took its logic off (R26, R367). -/
def Core.reset (now doneAt : Nat) : Core :=
  { cycle := w64 (min (now - doneAt) 7000), powered := decide (now - doneAt < 7000), idleSince := doneAt }

/-- A context of a core. -/
def Core.ctxAt (c : Core) (k : Nat) : Ctx := sget (Ctx.reset k) c.ctxs k
/-- Change a context of a core. -/
def Core.modCtx (c : Core) (k : Nat) (f : Ctx → Ctx) : Core := { c with ctxs := sput c.ctxs k (f (c.ctxAt k)) }

/-- A core. -/
def State.coreAt (s : State) (c : Nat) : Core := sget (Core.reset s.now s.boot.doneAt) s.cores c
/-- Change a core. -/
def State.modCore (s : State) (c : Nat) (f : Core → Core) : State :=
  { s with cores := sput s.cores c (f (s.coreAt c)) }
/-- A context. -/
def State.ctxAt (s : State) (c k : Nat) : Ctx := (s.coreAt c).ctxAt k
/-- Change a context. -/
def State.modCtx (s : State) (c k : Nat) (f : Ctx → Ctx) : State := s.modCore c (fun x => x.modCtx k f)

/-- The issuing core. -/
def State.here (s : State) : Core := s.coreAt s.core
/-- Change the issuing core. -/
def State.modHere (s : State) (f : Core → Core) : State := s.modCore s.core f
/-- The issuing context. -/
def State.me (s : State) : Ctx := s.ctxAt s.core s.ctx
/-- Change the issuing context. -/
def State.modMe (s : State) (f : Ctx → Ctx) : State := s.modCtx s.core s.ctx f
/-- The state as an instruction of another core and context sees it. -/
def State.at_ (s : State) (c k : Nat) : State := { s with core := c, ctx := k }

/-- A general register: g0 reads as zero (R14). -/
def Ctx.reg (x : Ctx) (r : GReg) : Word := if r = 0 then 0 else sget 0 x.g r.toNat
/-- A context with a general register written; a write to g0 is discarded (R14). -/
def Ctx.setReg (x : Ctx) (r : GReg) (v : Word) : Ctx :=
  if r = 0 then x else { x with g := sput x.g r.toNat v, hurt := sdel x.hurt r.toNat }
/-- A general register of the issuing context. -/
def State.g (s : State) (r : GReg) : Word := s.me.reg r
/-- Write a general register of the issuing context. -/
def State.setG (s : State) (r : GReg) (v : Word) : State := s.modMe (fun x => x.setReg r v)

/-- A fresh number for a free value. -/
def State.tick1 (s : State) : State := { s with fresh := s.fresh + 1 }

/-- Put an event at the end of the agenda (log 6). -/
def State.push (s : State) (i : Event) : State := { s with agenda := s.agenda ++ [i] }
/-- Put an event at the front of the agenda. -/
def State.pushFront (s : State) (i : Event) : State := { s with agenda := i :: s.agenda }
/-- Have an event become due in some steps. -/
def State.after (s : State) (n : Nat) (i : Event) : State := { s with timers := s.timers ++ [(s.now + n, i)] }
/-- Send a message to the host. -/
def State.tell (s : State) (m : HostMsg) : State := { s with outbox := s.outbox ++ [m] }

/-! ### Octets, dies, instances, rings -/

/-- An octet of the module. -/
def State.oct (s : State) (o : Nat) : Octet := sget {} s.octets o
/-- Change an octet. -/
def State.modOct (s : State) (o : Nat) (f : Octet → Octet) : State := { s with octets := smod {} s.octets o f }
/-- A well of an octet. -/
def Octet.well (o : Octet) (w : Nat) : Well := sget {} o.wells w
/-- Change a well. -/
def Octet.modWell (o : Octet) (w : Nat) (f : Well → Well) : Octet := { o with wells := smod {} o.wells w f }
/-- A tile of an octet. -/
def Octet.tile (o : Octet) (t : Nat) : Tile := sget {} o.tiles t
/-- Change a tile. -/
def Octet.modTile (o : Octet) (t : Nat) (f : Tile → Tile) : Octet := { o with tiles := smod {} o.tiles t f }

/-- A die. -/
def State.die (s : State) (d : Nat) : Die := sget {} s.dies d
/-- Change a die. -/
def State.modDie (s : State) (d : Nat) (f : Die → Die) : State := { s with dies := smod {} s.dies d f }
/-- Whether a core is a hole: its octet's router is dead, or its die (R392). -/
def State.isHole (s : State) (c : Nat) : Bool := (s.die (dieOf c)).deadRouters.contains (routerOf c) || (s.die (dieOf c)).named
/-- A die's route tables leave out what is dead now (R390). -/
def Die.routed (d : Die) : Die := { d with routeGen := d.routeGen + 1, routeDead := d.deadRouters }
/-- A voltage row of a die. -/
def Die.row (d : Die) (r : Nat) : Row := sget {} d.rows r
/-- Change a voltage row. -/
def State.modRow (s : State) (d r : Nat) (f : Row → Row) : State :=
  s.modDie d (fun x => { x with rows := smod {} x.rows r f })
/-- HASHMASKd of a die: BASE d and all members for d up to 14, else 0 (R341). -/
def Die.mask (x : Die) (d : Nat) : Word := sget (if d ≤ 14 then w64 (d * 65536 + 0xFFFF) else 0) x.hash d

/-- STEP of a router of a die (R283). -/
def State.stepAt (s : State) (d r : Nat) : Word := w64 s.now + sget 0 (s.die d).stepOff r
/-- STEP as a core reads it: its router's (R25, R283). -/
def State.stepOf (s : State) (c : Nat) : Word := s.stepAt (dieOf c) (routerOf c)

end Sys2Proof.Machine

namespace Sys2Proof

/-- The number a scope goes under as a key. -/
def Scope.num : Scope → Nat
  | .lane => 0 | .core => 1 | .oct => 2 | .die => 3 | .pkg => 4 | .pod => 5 | .sys => 6
/-- Key of an instance in the table of instances. -/
def Inst.key (i : Inst) : Nat := i.scope.num * 4096 + i.idx
/-- Key of a ring in the table of rings. -/
def RingId.key (r : RingId) : Nat := r.die * 16 + r.k
end Sys2Proof

namespace Sys2Proof.Machine

/-- The instance of a scope that holds a core (R132, R278). -/
def instOf (sc : Scope) (c : Nat) : Inst :=
  ⟨sc, match sc with | .oct => octOf c | .die => dieOf c | _ => 0⟩
/-- Ring k of a scope as a core names it: a die's 0 to 7, the module's 8 and 9 (R169, R294). -/
def ringOf (sc : Scope) (c k : Nat) : RingId := if sc = .die then ⟨dieOf c, k⟩ else ⟨0, 8 + k % 2⟩

/-- Whether an instance holds a core. -/
def holds (i : Inst) (c : Nat) : Bool := i == instOf i.scope c

/-- The Ductus state of an instance. -/
def State.inst (s : State) (i : Inst) : DInst := sget {} s.insts i.key
/-- Change an instance's Ductus state. -/
def State.modInst (s : State) (i : Inst) (f : DInst → DInst) : State := { s with insts := smod {} s.insts i.key f }
/-- A barrier unit of an instance; unit 31 is its exchange barrier (R285). -/
def DInst.unit (d : DInst) (u : Nat) : DUnit := sget {} d.units u
/-- Change a barrier unit. -/
def State.modUnit (s : State) (i : Inst) (u : Nat) (f : DUnit → DUnit) : State :=
  s.modInst i (fun d => { d with units := smod {} d.units u f })
/-- A core's bits at a unit. -/
def DUnit.memb (u : DUnit) (c : Nat) : Memb := sget {} u.mem c
/-- Change a core's bits at a unit. -/
def DUnit.modMemb (u : DUnit) (c : Nat) (f : Memb → Memb) : DUnit := { u with mem := smod {} u.mem c f }
/-- Members by their own MB bits, which are the truth (R285). -/
def DUnit.members (u : DUnit) : List Nat := (u.mem.filter (fun e => e.2.mb)).map (·.1)
/-- A token ring. -/
def State.ring (s : State) (r : RingId) : Ring := sget {} s.rings r.key
/-- Change a token ring. -/
def State.modRing (s : State) (r : RingId) (f : Ring → Ring) : State := { s with rings := smod {} s.rings r.key f }
/-- A node of the scheduler. -/
def State.node (s : State) (n : Nat) : Node := sget {} s.sched.nodes n
/-- Change a node. -/
def State.modNode (s : State) (n : Nat) (f : Node → Node) : State :=
  { s with sched := { s.sched with nodes := smod {} s.sched.nodes n f } }
/-- Change the scheduler. -/
def State.modSched (s : State) (f : Sched → Sched) : State := { s with sched := f s.sched }

/-- Job context of the launch a core runs. -/
def Core.cid (c : Core) : Nat := bits c.run.lcid 9 0
/-- Job context of the issuing core's launch. -/
def State.cid (s : State) : Nat := s.here.cid
/-- The record of the launch a core runs; the all-zero record when it runs none. -/
def State.recOf (s : State) (c : Nat) : NodeRec :=
  match (s.coreAt c).run.node with
  | some n => (s.node n).rec_
  | none => {}

end Sys2Proof.Machine
end

