-- ==== Sys2Proof/Machine/Ecc.lean ====
section
/-!
DEFINITION. Error-correcting codes over 8-byte words (spec/19 R374 to R376), fault records (R383) and the
error counts of a core (R379). A memory keeps its bytes as written; flips are what has since struck a word.
-/
namespace Sys2Proof.Machine

/-- A memory after an access: what it holds, the words found bad (their first byte's address), and the errors counted. -/
structure EccOut where
  mem  : Memory
  ecc  : Ecc
  bad  : List Nat := []
  /-- Of those, the words found uncorrectable by this access. -/
  found : List Nat := []
  corr : Nat := 0
  unc  : Nat := 0
  deriving DecidableEq, Repr

/-- Meet the errors of one word: one flip is corrected, two make the word poisoned (R375, R376); of three or
more the manual states no verdict, which is a free value: poisoned, or taken for a correction of other bits. -/
def eccWord (o : EccOut) (w : Nat) : EccOut :=
  if o.ecc.poison.contains w then { o with bad := o.bad ++ [8 * w] }
  else match sfind o.ecc.flips w with
    | none => o
    | some f =>
      let e : Ecc := { o.ecc with flips := sdel o.ecc.flips w }
      if popcount f ≤ 1 then { o with ecc := e, corr := o.corr + popcount f }
      else if popcount f = 2 || Config.tripleIsDetected w f then
        { o with ecc := { e with poison := o.ecc.poison ++ [w] }, bad := o.bad ++ [8 * w], found := o.found ++ [8 * w], unc := o.unc + 1 }
      else
        let v := leNat (o.mem.readN (8 * w) 8) ^^^ f.toNat
        { o with ecc := e, corr := o.corr + 1, mem := o.mem.writeN (8 * w) (leBytes 8 v) }

/-- The words that n bytes from an address touch. -/
def wordsOf (a n : Nat) : List Nat := (List.range ((a + n + 7) / 8 - a / 8)).map (a / 8 + ·)

/-- Read n bytes: the words they lie in are checked (R375, R376). -/
def eccRead (m : Memory) (e : Ecc) (a n : Nat) : EccOut := each (wordsOf a n) { mem := m, ecc := e } eccWord

/-- Write bytes: a whole word is replaced, poison and all; a part of a word meets the word's errors first and
leaves poison standing (R376). `unc` counts words found uncorrectable by a partial store. -/
def eccWrite (m : Memory) (e : Ecc) (a : Nat) (bs : List Byte) : EccOut :=
  let o := each (wordsOf a bs.length) { mem := m, ecc := e } (fun o w =>
    if a ≤ 8 * w && 8 * w + 8 ≤ a + bs.length then
      { o with ecc := { flips := sdel o.ecc.flips w, poison := o.ecc.poison.filter (· != w) } }
    else eccWord o w)
  { o with mem := o.mem.writeN a bs }

/-- Flip stored bits of the word at an address without touching its check bits (R122). -/
def eccFlip (e : Ecc) (a : Nat) (f : BitVec 64) : Ecc :=
  if e.poison.contains (a / 8) then e
  else
    let g := sget 0 e.flips (a / 8) ^^^ f
    { e with flips := if g = 0 then sdel e.flips (a / 8) else sput e.flips (a / 8) g }

/-- A core's counts of corrected and uncorrectable errors; errors of one step leave the largest source (R379). -/
def Core.countEcc (c : Core) (now corr unc src : Nat) : Core :=
  if corr + unc = 0 then c
  else
    let e := c.eccstat
    let last := if c.eccAt = some now then max (bits e 23 16) src else src
    let e := setBits e 47 32 (bits e 47 32 + corr)
    let e := setBits e 63 48 (bits e 63 48 + unc)
    { c with eccstat := setBits e 23 16 last, eccAt := some now }

/-- Bytes as a memory from address 0. -/
def bytesMem (bs : List Byte) : Memory := ((List.range bs.length).zip bs).filter (fun e => e.2 != Memory.blank)

/-- A read meets errors of a core's own storage, each given as whether it is uncorrectable (R375, R377): they are counted
under a source of LASTSRC, but those of the OBB and the polynomial table, which have none (0); a single bit is corrected, and
more are a device-level fault of the job context the core runs. Also whether there was one of those. -/
def State.suffer (s : State) (c src : Nat) (errs : List Bool) : State × Bool :=
  if errs.isEmpty then (s, false)
  else
    let s := if src = 0 then s else s.modCore c (fun x => errs.foldl (fun x d => x.countEcc s.now (!d).toNat d.toNat src) x)
    if errs.any id && (s.coreAt c).run.node.isSome then (s.push (.deviceLevelFault (s.coreAt c).cid 2 0 c 0), true) else (s, false)

/-- The errors of the entries of a table whose keys a read touches. -/
def hurtOf (m : SMap Bool) (rs : List Nat) : List Bool := (m.filter (fun e => rs.contains e.1)).map (·.2)
/-- One more error strikes an entry: two flips of one word are uncorrectable. -/
def hurtMore (old : Option Bool) (dbl : Bool) : Option Bool := some (dbl || old.isSome)

/-- Send the host a fault record (R383); STEP is that of the core named, or of the module's first core. Word 2 of a
record of kind 13 is the slice, set and way that `core` packs (R396). -/
def State.faultRecord (s : State) (kind cid : Nat) (addr : Word) (core : Nat) (ecause : Word) : State :=
  let st := if kind = 13 then s.stepOf (core % 32768 * 8) else if core < coreCount then s.stepOf core else s.stepAt 0 0
  s.tell (.fault [w64 (kind + cid * 256 + st.toNat % 2 ^ 32 * 2 ^ 32), addr,
    w64 (if kind = 13 || core < coreCount then core else 0x7FFF), ecause])

end Sys2Proof.Machine
end

