-- ==== Sys2Proof/Machine/Network.lean ====
section
/-!
DEFINITION. The networks that carry traffic: the routers of a die, the die links of the module, and the routes over them
(spec/00 R1; spec/11 R265; spec/19 R390, R391; spec/21 R406). R1 gives 242 routers in 22 groups of 11 over GF(11) with 17
ports each and at most two hops; the graph with these numbers is presumed (log 72).
-/
namespace Sys2Proof.Machine

/-! ### The routers of a die (R1; log 72) -/

/-- Differences in GF(11) by which routers of one group are joined: of the groups 0 to 10, and of the groups 11 to 21. -/
def groupSteps (upper : Bool) : List Nat := if upper then [1, 2, 3, 8, 9, 10] else [1, 4, 5, 6, 7, 10]

/-- Whether two routers of a die are joined: router 11 g + y is place y of group g. Within a group by their difference; a
place y of group x and a place c of group 11 + m by y = m x + c in GF(11). -/
def netLinked (a b : Nat) : Bool :=
  let (g, y) := (min a b / 11, min a b % 11)
  let (h, c) := (max a b / 11, max a b % 11)
  if g = h then (groupSteps (decide (11 ≤ g))).contains (c - y)
  else decide (g < 11) && decide (11 ≤ h) && y == ((h - 11) * g + c) % 11

/-- Whether a router's link carries traffic: it has not been named LINK (R389, R406). -/
def State.netOk (s : State) (die a b : Nat) : Bool :=
  netLinked a b && !s.deadLinks.contains (.router die a b) && !s.deadLinks.contains (.router die b a)

/-- The router through which the route tables lead a pair that is not joined: one of those joined to both (R265). -/
def midRouter (die a b : Nat) : Nat :=
  let l := (List.range 242).filter (fun m => netLinked a m && netLinked m b)
  l.getD (Config.routeMid die a b % l.length) a

/-- The first three-hop path through live routers, the lowest-numbered ones (R390). -/
def State.detour (s : State) (die a b : Nat) : Option (List Nat) :=
  let live (m : Nat) : Bool := !(s.die die).routeDead.contains m
  (List.range 242).findSome? (fun m =>
    if !live m || !s.netOk die a m then none
    else ((List.range 242).find? (fun n => n != a && live n && s.netOk die m n && s.netOk die n b)).map (fun n => [m, n, b]))

/-- The routers on the path from one router of a die to another, as the route tables stand: one hop, two, or three where
the shorter path's router is dead or its link has failed; none where there is none (R265, R390, R406). -/
def State.route (s : State) (die a b : Nat) : Option (List Nat) :=
  let m := midRouter die a b
  if a = b then some []
  else if s.netOk die a b then some [b]
  else if !netLinked a b && !(s.die die).routeDead.contains m && s.netOk die a m && s.netOk die m b then some [m, b]
  else s.detour die a b

/-- Whether every two live routers of a die have a path (R390). -/
def State.dieConnects (s : State) (die : Nat) : Bool :=
  let live := (List.range 242).filter (fun r => !(s.die die).deadRouters.contains r)
  live.all (fun a => live.all (fun b => (s.route die a b).isSome))

/-! ### Die links (R1, R240, R265, R406) -/

/-- Two dies of the 4×4 array that a die link joins: each die has links to its full row and column (R1, R283). -/
def dieLinked (u v : Nat) : Bool := u != v && (u / 4 == v / 4 || u % 4 == v % 4)
/-- The die links of a module (R1). -/
def dieLinks : List (Nat × Nat) :=
  (List.range 16).flatMap (fun a => ((List.range 16).filter (fun b => decide (a < b) && dieLinked a b)).map (fun b => (a, b)))
/-- Whether a die link carries traffic: it has not been named LINK (R389, R406). -/
def State.linkOk (s : State) (u v : Nat) : Bool :=
  dieLinked u v && !s.deadLinks.contains (.dieLink u v) && !s.deadLinks.contains (.dieLink v u)

/-- The die to which the first hop of the route to another die leads: that die, or one that joins the two. The six links of
a die lead along its row and its column (R1, R240; log 10); a failed link is on no route (R406). -/
def State.hop (s : State) (d e : Nat) : Nat :=
  let corner := if Config.rowFirst (s.die d).routeGen d e then d / 4 * 4 + e % 4 else e / 4 * 4 + d % 4
  if s.linkOk d e then e
  else ((corner :: List.range 16).find? (fun w => s.linkOk d w && s.linkOk w e)).getD corner

/-- The router of a die that carries the port of its link to another (R392). -/
def linkRouter (d e : Nat) : Nat := Config.linkRouter d e % 242
/-- Whether a router of a die carries an HBM or die-link port (R392). -/
def carriesPort (d r : Nat) : Bool :=
  (List.range 16).any (fun e => dieLinked d e && linkRouter d e == r) || Config.carriesHbm d r

/-! ### Ports (R265) -/

/-- The ports of the hops of a path on a die from a router, each with its channels per direction: port numbers from
100,000, one for each direction of a link. -/
def netPorts (die a : Nat) : List Nat → List (Nat × Nat)
  | [] => []
  | b :: r => (100000 + (die * 242 + a) * 242 + b, 8) :: netPorts die b r

/-- The ports on the path between two octets' routers: three segments at most, joined by die links, whose port numbers
start from 2,000,000 (R265, R391). -/
def State.pathPorts (s : State) (o r : Nat) : List (Nat × Nat) :=
  let seg (d a b : Nat) : List (Nat × Nat) := netPorts d a ((s.route d a b).getD [])
  let link (d e : Nat) : Nat × Nat := (2000000 + d * 16 + e, 64)
  let (d, a) := (o / 240, o % 240)
  let (e, b) := (r / 240, r % 240)
  let w := s.hop d e
  if d = e then seg d a b
  else if w = e then seg d a (linkRouter d e) ++ [link d e] ++ seg e (linkRouter e d) b
  else seg d a (linkRouter d w) ++ [link d w] ++ seg w (linkRouter w d) (linkRouter w e) ++ [link w e] ++ seg e (linkRouter e w) b

end Sys2Proof.Machine
end

