-- ==== Sys2Proof/Machine/Home.lean ====
section
/-!
DEFINITION. Objects, translation at the home slices, slice lines with pins and owner tags, HBM, snapshots'
copies and gateway caches (spec/17, spec/09 R238 to R240, spec/19 R384 to R387).
-/
namespace Sys2Proof.Machine

/-- Object identifier of a global address (R229). -/
def idOf (a : Word) : Nat := a.toNat / 2 ^ 40
/-- Offset of a global address (R229). -/
def offOf (a : Word) : Nat := a.toNat % 2 ^ 40
/-- The global address of an object and offset (R229). -/
def addrOf (id off : Nat) : Word := w64 (id * 2 ^ 40 + off)
/-- The mesh alias object (R229). -/
def aliasId : Nat := 0xFFFFF0

/-- An object of the table. -/
def State.obj (s : State) (id : Nat) : Option Obj := sfind s.objs id
/-- The extent that maps a page (R337). -/
def Obj.extent (o : Obj) (pg : Nat) : Option Extent :=
  o.ext.find? (fun e => decide (e.first ≤ pg) && decide (pg < e.first + e.count))
/-- The extent list with one page's mapping changed (R343, R386). -/
def Obj.mapPage (o : Obj) (pg : Nat) (f : Extent → Extent) : Obj :=
  { o with ext := o.ext.flatMap (fun e =>
      if e.first ≤ pg && pg < e.first + e.count then
        (if e.first < pg then [{ e with count := pg - e.first }] else [])
        ++ [f { e with first := pg, count := 1, frame := e.frame + (pg - e.first) }]
        ++ (if pg + 1 < e.first + e.count then
              [{ e with first := pg + 1, count := e.first + e.count - (pg + 1), frame := e.frame + (pg + 1 - e.first) }]
            else [])
      else [e]) }

/-- The most extents of a list (R336). -/
def extMax : Nat := 4095
/-- An object with one page's mapping changed, if its extent list can hold that (R336, R337). -/
def Obj.remap (o : Obj) (pg : Nat) (f : Extent → Extent) : Option Obj :=
  if (o.mapPage pg f).ext.length ≤ extMax then some (o.mapPage pg f) else none

/-- Number of a frame among the module's frames. -/
def frameKey (die stack frame : Nat) : Nat := (die * 2 + stack) * 2 ^ 20 + frame

/-- The slot of a domain that is home to a page: the m-th set bit of MEMBERS (R340). -/
def homeSlot (mask : Word) (id pg : Nat) : Nat :=
  let h := (id * 0x9E3779B1 % 2 ^ 32) ^^^ (pg * 0x85EBCA6B % 2 ^ 32)
  let members := (List.range 16).filter (fun i => mask.getLsbD i)
  let m := h / 65536 * members.length / 65536
  members.getD m 0

/-- A line of an object at its home. -/
structure Home where
  id   : Nat
  obj  : Obj
  ext  : Extent
  pg   : Nat
  die  : Nat
  slot : Nat
  key  : Nat
  set  : Nat
  /-- First byte of the line in the module's HBM. -/
  hbm  : Nat
  deriving DecidableEq, Repr

/-- The home of an offset of an object (R340); none beyond the object. -/
def State.homeOf (s : State) (id off : Nat) : Option Home := do
  let o ← s.obj id
  let pg := off / 65536
  if o.size ≤ pg then none
  else
    let e ← o.extent pg
    let mask := (s.die o.die).mask o.dom
    some { id := id, obj := o, ext := e, pg := pg, die := o.die,
           slot := 16 * bits mask 19 16 + homeSlot mask id pg,
           key := (id * 2 ^ 40 + off) / 256, set := (off / 256 % 1024) ^^^ (id % 1024),
           hbm := frameKey o.die e.stack (e.frame + (pg - e.first)) * 65536 + off % 65536 / 256 * 256 }

/-- A slice of a die. -/
def Die.slice (d : Die) (o : Nat) : Slice := sget {} d.slices o
/-- Change a slice. -/
def State.modSlice (s : State) (d o : Nat) (f : Slice → Slice) : State :=
  s.modDie d (fun x => { x with slices := smod {} x.slices o f })
/-- The lines of a set. -/
def Slice.lines (sl : Slice) (set : Nat) : List SliceLine := sget [] sl.sets set
/-- A resident line. -/
def Slice.find (sl : Slice) (set key : Nat) : Option SliceLine := (sl.lines set).find? (fun l => l.key == key)
/-- Put a line into its way. -/
def Slice.put (sl : Slice) (set : Nat) (l : SliceLine) : Slice :=
  { sl with sets := sput sl.sets set ((sl.lines set).filter (fun x => x.way != l.way) ++ [l]) }
/-- Drop a line. -/
def Slice.drop (sl : Slice) (set key : Nat) : Slice :=
  { sl with sets := sput sl.sets set ((sl.lines set).filter (fun x => x.key != key)) }

/-! ### Replacement (R349) -/

/-- Touch: point the tree away from the way just used. -/
def plruTouch (t : BitVec 16) (w : Nat) : BitVec 16 :=
  each [0, 1, 2, 3] t (fun t i =>
    let k := (16 + w) / 2 ^ i
    let bit : BitVec 16 := 1#16 <<< (k / 2)
    if k % 2 = 0 then t ||| bit else t &&& ~~~bit)

/-- Victim: follow the tree, turning from a subtree that holds no eligible way. -/
def plruVictim (t : BitVec 16) (ok : Nat → Bool) : Nat :=
  each [8, 4, 2, 1] 1 (fun k span =>
    let c := 2 * k + (t.getLsbD k).toNat
    let has := (List.range span).any (fun i => ok (c * span - 16 + i))
    if has then c else 4 * k + 1 - c) - 16

/-- The way a set allocates: the lowest invalid one that is not quarantined, else the victim; none when all are
pinned or quarantined, and the request bypasses the cache (R349, R387). -/
def Slice.way (sl : Slice) (set : Nat) : Option Nat :=
  let ls := sl.lines set
  let usable (w : Nat) : Bool := !sl.quar.contains (set, w)
  let used (w : Nat) : Bool := ls.any (fun l => l.way == w)
  let pinned (w : Nat) : Bool := ls.any (fun l => l.way == w && !l.pins.isEmpty)
  match (List.range 16).find? (fun w => usable w && !used w) with
  | some w => some w
  | none =>
    if (List.range 16).any (fun w => usable w && !pinned w) then
      some (plruVictim (sget 0 sl.plru set) (fun w => usable w && !pinned w))
    else none

/-- Whether a set has a way that is neither pinned nor quarantined (R349). -/
def Slice.anyEligible (sl : Slice) (set : Nat) : Bool :=
  (List.range 16).any (fun w => !sl.quar.contains (set, w) && !(sl.lines set).any (fun l => l.way == w && !l.pins.isEmpty))

/-- A way is used (R349). -/
def State.touch (s : State) (h : Home) (w : Nat) : State :=
  s.modSlice h.die h.slot (fun sl => { sl with plru := sput sl.plru h.set (plruTouch (sget 0 sl.plru h.set) w) })

/-! ### Counters, DOMCIDS, records -/

/-- The counters of R352 by number: 0 FILLS, 1 HITS, 2 WBACKS, 3 BYPASS, 4 RFILLS, 5 PINS, 6 PINDROP, 7 STALLS. -/
def State.charge (s : State) (cid n : Nat) : State :=
  s.modSched (fun x => { x with counters := smod 0 x.counters (cid * 8 + n) (fun v => (v + 1) % 2 ^ 48) })

/-- A request of a CID is accepted at a slice of a domain (R384). -/
def State.noteCid (s : State) (h : Home) (cid : Nat) : State :=
  s.modDie h.die (fun d =>
    let l := sget [] d.domcids h.obj.dom
    if l.contains cid then d else { d with domcids := sput d.domcids h.obj.dom (l ++ [cid]) })

/-- Events of a device-level fault are due now (R380); kinds 5, 6 and 8 end the CID for good (R381, R392). -/
def State.failCid (s : State) (cid kind : Nat) (addr : Word) (core : Nat) : State := s.push (.deviceLevelFault cid kind addr core 0)

/-! ### Who asks (R240, R396)

A request carries the core that made it, or, for the host and the firmware, the die it enters from. -/

/-- A requester that is no core, on a die. -/
def outsider (die : Nat) : Nat := coreCount + die
/-- A context of a core as a requester. -/
def asker (c k : Nat) : Nat := c + k * 2 ^ 20
/-- Die of a requester. -/
def askerDie (w : Nat) : Nat := if w % 2 ^ 20 < coreCount then dieOf (w % 2 ^ 20) else w % 2 ^ 20 - coreCount
/-- The core of a requester as a fault record names it. -/
def askerCore (w : Nat) : Nat := min (w % 2 ^ 20) coreCount

/-! ### Leaving a line, retiring a page, quarantine -/

/-- PINS counts pins held now (R352): one fewer. -/
def State.unpinCount (s : State) (cid : Nat) : State :=
  s.modSched (fun x => { x with counters := smod 0 x.counters (cid * 8 + 5) (fun v => v - 1) })
/-- The lines of a die that a test picks go without write-back, and their pins with them (R339, R352, R386). -/
def State.dropLines (s : State) (die : Nat) (p : SliceLine → Bool) : State :=
  let gone := (s.die die).slices.flatMap (fun sl => sl.2.sets.flatMap (fun e => (e.2.filter p).flatMap (·.pins)))
  each gone (s.modDie die (fun d => { d with slices := sall d.slices (fun sl =>
    { sl with sets := sall sl.sets (fun ls => ls.filter (fun l => !p l)) }) })) (fun s c => s.unpinCount c)
/-- Every slice line of a page is invalidated without write-back (R339, R386). -/
def State.dropPage (s : State) (die id pg : Nat) : State :=
  (s.dropLines die (fun l => l.key / 256 == id * 2 ^ 24 + pg)).modDie die (fun d => { d with
    slices := sall d.slices (fun sl => { sl with tlb := sl.tlb.filter (· != (id, pg)) }) })

/-- Retire a page: its lines go, its extent becomes ABSENT, its frame is tested before it is free again (R386). -/
def State.retirePage (s : State) (id pg : Nat) : State :=
  match s.obj id with
  | none => s
  | some o =>
    match o.extent pg with
    | none => s
    | some e =>
      let f := e.frame + (pg - e.first)
      let s := s.dropPage o.die id pg
      -- a list that cannot be split further loses the whole extent (log 21)
      let gone := (o.remap pg (fun x => { x with absent := true })).getD
        { o with ext := o.ext.map (fun x => if x = e then { x with absent := true } else x) }
      let o' := { gone with retired := o.retired ++ [pg] }
      { s with objs := sput s.objs id o', frames := s.frames ++ [frameKey o.die e.stack f] }.push (.frameTest o.die e.stack f (Config.frameGood o.die e.stack f))

/-- Remove a slice from its domain: MEMBERS loses the slot, GEN advances, the live members rehome their lines,
the dirty lines are lost and every CID of DOMCIDS is terminated (R387, R392). Its quarantined ways stay in the repair map,
and the pins of its lines are re-made where those are allocated next. -/
def State.removeSlice (s : State) (die slot kind : Nat) (addr : Word) (core : Nat) : State :=
  let d := s.die die
  let doms := (List.range 32).filter (fun e =>
    decide (bits (d.mask e) 19 16 = slot / 16) && (d.mask e).getLsbD (slot % 16))
  each doms s (fun s e =>
    let m := (s.die die).mask e
    let cids := sget [] (s.die die).domcids e
    let m' := setBits (m &&& ~~~(1#64 <<< (slot % 16))) 39 32 (bits m 39 32 + 1) ||| (1#64 <<< 20)
    let s := s.modDie die (fun d =>
      let sl : Slice := sget {} d.slices slot
      { d with
        hash := sput d.hash e m', slices := sput d.slices slot { quar := sl.quar }, splits := d.splits ++ [(e, e)]
        pinsLost := d.pinsLost ++ sl.sets.flatMap (fun x => x.2.flatMap (fun l => l.pins.map (fun c => (l.key, c)))) })
    let s := each (List.range 1024) s (fun s k => s.after (4 * k) (.splitWalk die e k))
    each cids s (fun s c => s.failCid c kind addr core))

/-- A way of a set is quarantined, and counted in QWAYS (R387, R393), with its record (R383, R396); above 64 the slice
leaves its domain, for the word found uncorrectable, `addr`, by the request of `core`. -/
def State.quarantine (s : State) (h : Home) (l : SliceLine) (cid : Nat) (addr : Word) (core : Nat) : State :=
  let s := s.modSlice h.die h.slot (fun sl => { sl.drop h.set l.key with quar := sl.quar ++ [(h.set, l.way)] })
  let s := s.modDie h.die (fun d => { d with
    rasstat := setBits d.rasstat 63 48 (bits d.rasstat 63 48 + 1),
    pinsLost := d.pinsLost ++ l.pins.map (fun c => (l.key, c)) })
  let s := s.failCid cid 13 (w64 (l.key * 256)) (h.die * 240 + h.slot + h.set * 2 ^ 16 + l.way * 2 ^ 28)
  if ((s.die h.die).slice h.slot).quar.length > 64 then s.removeSlice h.die h.slot 6 addr core else s

/-- The CID that a line's owner tag names; none while the tag itself is uncorrectable (R351, R385). -/
def SliceLine.named (l : SliceLine) : Option Nat := if l.ownBad then none else l.owner
/-- Whether a read of a line finds its tag or its owner tag uncorrectable (R385). -/
def SliceLine.tagged (l : SliceLine) : Bool := l.tagBad || l.ownBad

/-- A slice finds an uncorrectable word in a line, or its tag so (R385): the first of `found`, met by a request of `w` (R396). -/
def State.badLine (s : State) (h : Home) (l : SliceLine) (found : List Nat) (w : Nat) : State :=
  let a := w64 (l.key * 256 + found.headD 0)
  if l.dirty = 0 then s.quarantine h l 0 a (askerCore w)
  else
    let s := match l.named with
      | some c => s.failCid c 5 a (askerCore w)
      | none => each (sget [] (s.die h.die).domcids h.obj.dom) s (fun s c => s.failCid c 6 a (askerCore w))
    (s.quarantine h l (l.named.getD 0) a (askerCore w)).retirePage h.id h.pg

/-- Whether an uncorrectable word of a line terminates a CID (R385). -/
def State.dooms (s : State) (h : Home) (l : SliceLine) (cid : Nat) : Bool :=
  l.dirty != 0 && (match l.named with
    | some c => c == cid
    | none => (sget [] (s.die h.die).domcids h.obj.dom).contains cid)

/-! ### HBM -/

/-- Read HBM; an uncorrectable word is rewritten with the poison code (R376). -/
def State.hbmRead (s : State) (a n : Nat) : State × EccOut :=
  let o := eccRead s.hbm s.hbmEcc a n
  ({ s with hbm := o.mem, hbmEcc := o.ecc }, o)

/-- Write HBM. -/
def State.hbmWrite (s : State) (a : Nat) (bs : List Byte) : State × EccOut :=
  let o := eccWrite s.hbm s.hbmEcc a bs
  ({ s with hbm := o.mem, hbmEcc := o.ecc }, o)

/-- Poison words of HBM as a slice line carried them there. -/
def State.hbmPoison (s : State) (ws : List Nat) : State :=
  { s with hbmEcc := { s.hbmEcc with poison := s.hbmEcc.poison ++ ws.filter (fun w => !s.hbmEcc.poison.contains w) } }

/-- Bytes lo..hi of a sector list: sector j covers bytes 32j to 32j + 31 of its line. -/
def sectorsOf (o n : Nat) : List Nat := (List.range 8).filter (fun j => decide (o < 32 * j + 32) && decide (32 * j < o + n))

/-- A sector that is written back: into its frame, with the words that are poisoned; while its page is on the move it is
held for the frame that the page then has (R345). -/
def State.sectorBack (s : State) (h : Home) (j : Nat) (bs : List Byte) (poison : List Nat) : State :=
  let mine (m : Migration) : Bool := m.obj == h.id && m.pg == h.pg
  if (s.die h.die).migr.any mine then
    s.modDie h.die (fun d => { d with migr := d.migr.map (fun m =>
      if mine m then { m with held := m.held ++ [(h.hbm % 65536 + 32 * j, bs, poison)] } else m) })
  else ((s.hbmWrite (h.hbm + 32 * j) bs).1).hbmPoison (poison.map ((h.hbm + 32 * j) / 8 + ·))

/-- Write a line's dirty sectors back to HBM; the line becomes clean (R238, R351). An uncorrectable word met on
the way has the fate of R385. -/
def State.writeBack (s : State) (h : Home) (l : SliceLine) : State :=
  if l.dirty = 0 then s
  else
    let dirty := (List.range 8).filter (fun j => l.dirty.getLsbD j)
    let o := each dirty ({ mem := l.data, ecc := l.ecc } : EccOut) (fun o j => each (wordsOf (32 * j) 32) o eccWord)
    if o.unc > 0 || l.tagged then s.badLine h l o.found coreCount
    else
      let s := each dirty s (fun s j =>
        s.sectorBack h j (o.mem.readN (32 * j) 32)
          ((o.ecc.poison.filter (fun w => decide (4 * j ≤ w) && decide (w < 4 * j + 4))).map (· - 4 * j)))
      let s := s.modSlice h.die h.slot (fun sl => sl.put h.set { l with dirty := 0, data := o.mem, ecc := o.ecc })
      match l.owner with
      | some c => s.charge c 2
      | none => s.modSlice h.die h.slot (fun sl => { sl with unowned := (sl.unowned + 1) % 2 ^ 48 })

/-- Write a line back and invalidate it. -/
def State.evict (s : State) (h : Home) (l : SliceLine) : State :=
  match s.homeOf (l.key / 2 ^ 32) (l.key % 2 ^ 32 * 256) with
  | none => s.modSlice h.die h.slot (fun sl => sl.drop h.set l.key)
  | some v =>
    let s := s.writeBack { v with die := h.die, slot := h.slot, set := h.set } l
    s.modSlice h.die h.slot (fun sl => sl.drop h.set l.key)

/-- While a domain splits, a miss at the new home first has the old home write the line back (R348). -/
def State.pullOld (s : State) (h : Home) : State :=
  if !((s.die h.die).mask h.obj.dom).getLsbD 20 then s
  else each ((s.die h.die).slices.map (·.1)) s (fun s o =>
    if o = h.slot then s
    else match ((s.die h.die).slice o).find h.set h.key with
      | none => s
      | some l =>
        let s := s.modDie h.die (fun d => { d with pinsLost := d.pinsLost ++ l.pins.map (fun c => (l.key, c)) })
        s.evict { h with slot := o } l)

/-! ### Filling and allocating -/

/-- Pins a CID holds at a slice, and all of them (R350). -/
def Slice.pinsBy (sl : Slice) (cid : Nat) : Nat :=
  (sl.sets.map (fun e => (e.2.map (fun l => l.pins.count cid)).sum)).sum
/-- All pins of a slice's table. -/
def Slice.pinsAll (sl : Slice) : Nat := (sl.sets.map (fun e => (e.2.map (fun l => l.pins.length)).sum)).sum
/-- PINQUOTA of a CID (R350). -/
def State.quota (s : State) (cid : Nat) : Nat := sget 64 s.sched.quota cid

/-- Pins that the line lost are re-made when it is allocated, or dropped and counted: also where the set has no way for it
(R348, R387). -/
def State.remakePins (s : State) (h : Home) : State :=
  let lost := (s.die h.die).pinsLost.filter (fun p => p.1 == h.key)
  let s := s.modDie h.die (fun d => { d with pinsLost := d.pinsLost.filter (fun p => p.1 != h.key) })
  each lost s (fun s p =>
    let sl := (s.die h.die).slice h.slot
    match sl.find h.set h.key with
    | none => (s.charge p.2 6).unpinCount p.2
    | some l =>
      if sl.pinsBy p.2 < s.quota p.2 && sl.pinsAll < 2048 then
        s.modSlice h.die h.slot (fun sl => sl.put h.set { l with pins := l.pins ++ [p.2] })
      else (s.charge p.2 6).unpinCount p.2)

/-- Fill the sectors of a line that are not valid, by one burst (R238, R239); poisoned words stay poisoned. -/
def State.fillLine (s : State) (h : Home) (l : SliceLine) (sectors : List Nat) : State × SliceLine :=
  each (sectors.filter (fun j => !l.valid.getLsbD j)) (s, l) (fun (s, l) j =>
    let (s, o) := s.hbmRead (h.hbm + 32 * j) 32
    (s, { l with valid := l.valid ||| (1#8 <<< j),
                 data := l.data.writeN (32 * j) (o.mem.readN (h.hbm + 32 * j) 32),
                 ecc := { l.ecc with poison := l.ecc.poison ++ o.bad.map (fun a => (a - h.hbm) / 8) } }))

/-- Free a way of a set, evicting a victim; the way of one found uncorrectable as it was written back is quarantined,
and another is taken (R349, R385, R387). None when the set must be bypassed. -/
def State.freeWay (s : State) (h : Home) : Nat → State × Option Nat
  | 0 => (s, none)
  | n + 1 =>
    match ((s.die h.die).slice h.slot).way h.set with
    | none => (s, none)
    | some w =>
      let s := match (((s.die h.die).slice h.slot).lines h.set).find? (fun l => l.way == w) with
        | some v => s.evict h v
        | none => s
      if ((s.die h.die).slice h.slot).quar.contains (h.set, w) then s.freeWay h n else (s, some w)

/-- Allocate a line in a set; none when the set must be bypassed (R349). -/
def State.allocLine (s : State) (h : Home) (cid : Nat) : State × Option SliceLine :=
  match s.freeWay h 16 with
  | (s, none) => (s.remakePins h, none)
  | (s, some w) =>
    let l : SliceLine := { key := h.key, way := w, owner := some cid }
    let s := s.modSlice h.die h.slot (fun sl => sl.put h.set l)
    let s := s.remakePins h
    (s, some ((((s.die h.die).slice h.slot).find h.set h.key).getD l))

/-- Store a line as changed. -/
def State.putLine (s : State) (h : Home) (l : SliceLine) : State := s.modSlice h.die h.slot (fun sl => sl.put h.set l)

/-! ### Requests at a home (R342) -/

/-- What a home answers. -/
inductive Ans where
  | ok (bs : List Byte)
  /-- An uncorrectable or poisoned word (R376). -/
  | poison
  /-- The page is not resident, or is on the move: the requester waits for a reply (R343, R345). -/
  | absent
  /-- No such page any more (R342). -/
  | object
  /-- Held: a snapshot needs a free frame (R357). -/
  | held
  /-- Not taken yet: 256 page faults are open (R343), or earlier stores of the context are not accepted, or the cache or
  buffer has no room. -/
  | stall
  deriving DecidableEq, Repr

/-- A request begins to wait for a page, behind those that wait already (R343, R345). -/
def State.joinPage (s : State) (id pg : Nat) (w : Waiter) : State :=
  match s.obj id with
  | none => s
  | some o => s.modDie o.die (fun d => { d with faults := d.faults.map (fun f =>
      if f.obj = id ∧ f.pg = pg ∧ f.answer = none ∧ !f.waiters.contains w then { f with waiters := f.waiters ++ [w] } else f) })

/-- Open a page fault at the die's fault service, or join it; a slice holds 256 (R343). Requests for a page on the move
are held without one (R345). -/
def State.openFault (s : State) (h : Home) : State × Ans :=
  let fs := (s.die h.die).faults
  if fs.any (fun f => f.obj == h.id && f.pg == h.pg && f.answer.isNone) then (s, .absent)
  else if h.ext.absent && decide (256 ≤ (fs.filter (fun f => f.slot == h.slot && !f.moving && f.answer.isNone)).length) then (s, .stall)
  else
    let s := s.modDie h.die (fun d => { d with faults := d.faults ++ [{ obj := h.id, pg := h.pg, slot := h.slot, moving := !h.ext.absent }] })
    -- a retired page is answered unresolved until the host maps it again (R386)
    (if !h.ext.absent then s
     else if h.obj.retired.contains h.pg then s.push (.pageFaultReply h.id h.pg false)
     else s.tick1.after (1 + Config.faultDelay s.fresh) (.pageFaultReply h.id h.pg (Config.faultResolves s.fresh)), .absent)

/-- Whether a miss must wait: the page is ABSENT or MIGRATING. -/
def State.mustWait (s : State) (h : Home) : Bool :=
  h.ext.absent || (s.die h.die).migr.any (fun m => m.obj == h.id && m.pg == h.pg)

/-- A slice translates a page: its translation cache keeps 512 entries (R342). -/
def State.translate (s : State) (h : Home) : State :=
  s.modSlice h.die h.slot (fun sl =>
    let l := sl.tlb.filter (· != (h.id, h.pg)) ++ [(h.id, h.pg)]
    { sl with tlb := l.drop (l.length - 512) })

/-- Line number within the object. -/
def Home.lineNo (h : Home) : Nat := h.key % 2 ^ 32

/-- What write-backs of a line hold for the new frame of a page on the move: place in the line, bytes, poisoned words (R345). -/
def State.heldBack (s : State) (h : Home) : List (Nat × List Byte × List Nat) :=
  (((s.die h.die).migr.filter (fun m => m.obj == h.id && m.pg == h.pg)).flatMap (·.held)).filterMap (fun e =>
    if e.1 / 256 = h.hbm % 65536 / 256 then some (e.1 % 256, e.2) else none)
/-- Bytes of a line with others put in their places. -/
def putAt (bs : List Byte) (l : List (Nat × List Byte × List Nat)) : List Byte :=
  l.foldl (fun bs e => bs.take e.1 ++ e.2.1 ++ bs.drop (e.1 + e.2.1.length)) bs
/-- The 256 bytes a home holds for a line now. -/
def State.lineNow (s : State) (h : Home) : List Byte :=
  let base := putAt (s.hbm.readN h.hbm 256) (s.heldBack h)
  match ((s.die h.die).slice h.slot).find h.set h.key with
  | none => base
  | some l => (List.range 256).map (fun i => if l.valid.getLsbD (i / 32) then l.data.read i else base.getD i 0)

/-- A line as a snapshot copies it: the bytes with single errors corrected, and how many of its words are uncorrectable
(R355, R356). A clean line found uncorrectable is fetched again from HBM (R385). -/
def State.lineCopy (s : State) (h : Home) : List Byte × Nat :=
  let q := eccRead s.hbm s.hbmEcc h.hbm 256
  let held := s.heldBack h
  let base := putAt (q.mem.readN h.hbm 256) held
  -- the words that are bad where the line is stored, by their place in it
  let worse := (q.bad.map (· - h.hbm)).filter (fun a => !held.any (fun e => decide (e.1 ≤ a) && decide (a < e.1 + e.2.1.length)))
    ++ held.flatMap (fun e => e.2.2.map (fun w => e.1 + 8 * w))
  match ((s.die h.die).slice h.slot).find h.set h.key with
  | none => (base, worse.length)
  | some l =>
    let o := eccRead l.data l.ecc 0 256
    let spoilt := l.dirty == 0 && (decide (0 < o.unc) || l.tagged)
    let valid (i : Nat) : Bool := l.valid.getLsbD (i / 32) && !spoilt
    ((List.range 256).map (fun i => if valid i then o.mem.read i else base.getD i 0),
      (o.bad.filter valid).length + (worse.filter (fun a => !valid a)).length)

/-- Before a write is accepted: a snapshot at or past its step copies the line first (R355); none when the
write is held for a frame (R357). -/
def State.snapBefore (s : State) (h : Home) : Option State :=
  match s.snaps.find? (fun n => n.obj == h.id) with
  | none => some s
  | some n =>
    if (s.stepAt h.die h.slot).toNat < n.t || n.saved.contains h.lineNo || n.next > h.lineNo then some s
    else
      let fresh := !n.used.contains h.pg
      if fresh && n.used.length ≥ n.pool then none
      else
        let n' := { n with saved := n.saved ++ [h.lineNo], copies := sput n.copies h.lineNo (s.lineCopy h),
                           copied := n.copied + 1, used := if fresh then n.used ++ [h.pg] else n.used }
        some { s with snaps := s.snaps.map (fun x => if x.obj = h.id then n' else x) }

/-- A write of an object is held for a frame of the snapshot's pool: counted in STALLS as it begins to wait (R357). -/
def State.stallAt (s : State) (obj : Nat) (key : Nat × Nat) (cid : Nat) : State :=
  if s.snaps.any (fun n => n.obj == obj && n.stalled.contains key) then s
  else { s.charge cid 7 with snaps := s.snaps.map (fun n => if n.obj = obj then { n with stalled := n.stalled ++ [key] } else n) }
/-- A held write is accepted. -/
def State.unstall (s : State) (obj : Nat) (key : Nat × Nat) : State :=
  { s with snaps := s.snaps.map (fun n => if n.obj = obj then { n with stalled := n.stalled.filter (· != key) } else n) }
/-- The writes that began to wait on the way to t, where t itself is not taken. -/
def State.keepStalls (s t : State) (cid : Nat) : State :=
  each t.snaps s (fun s n => each n.stalled s (fun s k => s.stallAt n.obj k cid))

/-- Host-backed pages: what the host answers is a free value (R337; log 12). -/
def hostRead (s : State) (n : Nat) : State × Ans :=
  each (List.range n) (s, .ok []) (fun (s, r) _ =>
    (s.tick1, match r with | .ok bs => .ok (bs ++ [Config.hostByte s.fresh]) | x => x))

/-- Read bytes of one line at their home (R238, R342, R385). `off` to `off + n` lies in one line. -/
def State.homeRead (s : State) (w id off n cid : Nat) : State × Ans :=
  match s.homeOf id off with
  | none => (s, .object)
  | some h =>
    let s := s.noteCid h cid
    -- a die named dead answers nothing (R389)
    if (s.die h.die).named then (s, .stall)
    else if h.ext.back ≠ 0 then
      if h.ext.absent then s.openFault h
      else if h.ext.back = 1 then hostRead (s.translate h) n
      else (s, .object)
    else if h.ext.ty = .device then
      if s.mustWait h then s.openFault h
      else
        let s := s.translate h
        let a := h.hbm + off % 256
        let (s, o) := s.hbmRead a n
        (s, if o.bad.isEmpty then .ok (o.mem.readN a n) else .poison)
    else
      let need := sectorsOf (off % 256) n
      let sl := (s.die h.die).slice h.slot
      let serve (s : State) (l : SliceLine) : State × Ans :=
        let o := eccRead l.data l.ecc (off % 256) n
        if o.unc > 0 || l.tagged then
          let doomed := s.dooms h l cid
          let s := s.badLine h l o.found w
          if l.dirty = 0 then
            -- refetched from HBM (R385)
            let (s, q) := s.hbmRead (h.hbm + off % 256) n
            (s, if q.bad.isEmpty then .ok (q.mem.readN (h.hbm + off % 256) n) else .poison)
          else
            -- a request of a terminated CID is discarded; its core is about to stop (R385)
            (s, if doomed then .stall
                else if need.any (fun j => l.dirty.getLsbD j) then .poison else .ok (l.data.readN (off % 256) n))
        else
          let s := (s.putLine h { l with data := o.mem, ecc := o.ecc }).touch h l.way
          (s, if o.bad.isEmpty then .ok (o.mem.readN (off % 256) n) else .poison)
      match sl.find h.set h.key with
      | some l =>
        if need.all (fun j => l.valid.getLsbD j) then
          let s := if l.owner = some cid then s.charge cid 1
                   else s.modSlice h.die h.slot (fun sl => { sl with sharedHits := (sl.sharedHits + 1) % 2 ^ 48 })
          serve s l
        else if s.mustWait h then s.openFault h
        else
          let (s, l) := (s.translate h).fillLine h l (List.range 8)
          serve (s.charge cid 0) l
      | none =>
        if s.mustWait h then s.openFault h
        else
          let s := (s.translate h).pullOld h
          match s.allocLine h cid with
          | (s, none) =>
            let (s, o) := s.hbmRead (h.hbm + off % 256) n
            (s.charge cid 3, if o.bad.isEmpty then .ok (o.mem.readN (h.hbm + off % 256) n) else .poison)
          | (s, some l) =>
            let (s, l) := s.fillLine h l (List.range 8)
            serve (s.charge cid 0) l

/-- The home of a core's store or atomic has become unreachable: a device-level fault of its job context (R378). -/
def State.lostHome (s : State) (w cid : Nat) (a : Word) : State :=
  if askerCore w < coreCount then s.failCid cid 9 a (askerCore w) else s
/-- A store met a word its home found uncorrectable: the host is told (R378). -/
def State.storeLost (s : State) (n cid : Nat) (a : Word) (w : Nat) : State :=
  if n = 0 then s else s.faultRecord 11 cid a (askerCore w) 0

/-- A line with runs of bytes of sector j written, its tag as R351 has it, and the words found uncorrectable as they
were merged. -/
def SliceLine.accept (l : SliceLine) (cid j : Nat) (rs : List (Nat × List Byte)) : SliceLine × List Nat :=
  let o := each rs ({ mem := l.data, ecc := l.ecc } : EccOut) (fun o r =>
    let q := eccWrite o.mem o.ecc (r.1 % 256) r.2
    { q with unc := o.unc + q.unc, found := o.found ++ q.found })
  let owner := if l.dirty = 0 then some cid else if l.owner = some cid then l.owner else none
  ({ l with data := o.mem, ecc := o.ecc, owner := owner, valid := l.valid ||| (1#8 <<< j), dirty := l.dirty ||| (1#8 <<< j) }, o.found)

/-- Write runs of bytes of one sector at their home (R238, R342, R351, R355). -/
def State.homeWrite (s : State) (w id off : Nat) (rs : List (Nat × List Byte)) (cid : Nat) : State × Ans :=
  match s.homeOf id off with
  | none => (s, .object)
  | some h =>
    let s := s.noteCid h cid
    -- no home takes the store: its job context takes a device-level fault (R378)
    if (s.die h.die).named then (s.lostHome w cid (addrOf id off), .stall)
    else if h.ext.back ≠ 0 then
      if h.ext.absent then s.openFault h
      else if h.ext.back = 1 then (each rs (s.translate h) (fun s r => s.tell (.store cid (addrOf id r.1) r.2)), .ok [])
      else (s, .object)
    else
      let toHbm (s : State) : State :=
        each rs s (fun s r =>
          let (s, o) := s.hbmWrite (h.hbm + r.1 % 256) r.2
          s.storeLost o.unc cid (addrOf id r.1) w)
      let j := off % 256 / 32
      let full := (rs.map (fun r => r.2.length)).sum = 32
      let sl := (s.die h.die).slice h.slot
      let resident := sl.find h.set h.key
      if s.mustWait h && (h.ext.ty = .device || (match resident with
          | some l => !(l.valid.getLsbD j) && !full
          | none => true)) then s.openFault h
      else match s.snapBefore h with
        | none => (s.stallAt id (w, off) cid, .held)
        | some t =>
          let copied := t.snaps != s.snaps
          let s := t.unstall id (w, off)
          let take (s : State) (resident : Option SliceLine) : State × Ans :=
            let fill (s : State) (l : SliceLine) : State × SliceLine :=
              if full || l.valid.getLsbD j then (s, l)
              else let (s, l) := s.fillLine h l [j]; (s.charge cid 0, l)
            let lost (s : State) (bad : List Nat) : State :=
              s.storeLost bad.length cid (addrOf id ((rs.map (·.1)).headD off)) w
            let keep (s : State) (l : SliceLine) : State × Ans :=
              let p := l.accept cid j rs
              (lost ((s.putLine h p.1).touch h l.way) p.2, .ok [])
            let accept (s : State) (l : SliceLine) : State × Ans :=
              let (s, l) := fill s l
              let bad := (l.accept cid j rs).2
              if bad.isEmpty && !l.tagged then keep s l
              else
                -- the merge has read an uncorrectable word of the slice (R378, R385)
                let doomed := s.dooms h l cid
                let s := s.badLine h l bad w
                if l.dirty ≠ 0 then (if doomed then s else s.storeLost 1 cid (addrOf id ((rs.map (·.1)).headD off)) w, .ok [])
                else match s.allocLine h cid with
                  | (s, none) => (toHbm (s.charge cid 3), .ok [])
                  | (s, some l) =>
                    let (s, l) := fill s l
                    keep s l
            match resident with
            | some l => accept s l
            | none =>
              let s := (s.translate h).pullOld h
              match s.allocLine h cid with
              | (s, none) => (toHbm (s.charge cid 3), .ok [])
              | (s, some l) => accept s l
          if h.ext.ty = .device then (toHbm (s.translate h), .ok [])
          else match resident with
            | some l =>
              let o := eccRead l.data l.ecc 0 256
              if copied && (decide (0 < o.unc) || l.tagged) then
                -- the snapshot's copy has read an uncorrectable word of the slice (R385)
                let doomed := s.dooms h l cid
                let s := s.badLine h l o.found w
                if l.dirty ≠ 0 then (if doomed then s else s.storeLost 1 cid (addrOf id off) w, .ok []) else take s none
              else take s resident
            | none => take s none

/-- Pin a line at its home (R147, R349, R350); the answer's byte is the result. A page that the host backs has no slice line to
pin, so the answer is 0 (log 72). -/
def State.homePin (s : State) (id off cid : Nat) : State × Ans :=
  match s.homeOf id off with
  | none => (s, .object)
  | some h =>
    if h.ext.ty = .device then (s, .ok [0])
    else if h.ext.back ≠ 0 then (if h.ext.absent then s.openFault h else (s, .ok [0]))
    else
      let s := s.noteCid h cid
      let pin (s : State) (l : SliceLine) : State × Ans :=
        let sl := (s.die h.die).slice h.slot
        if l.pins.contains cid then (s.touch h l.way, .ok [1])
        else if !sl.anyEligible h.set || sl.pinsBy cid ≥ s.quota cid || sl.pinsAll ≥ 2048 then (s.touch h l.way, .ok [0])
        else (((s.putLine h { l with pins := l.pins ++ [cid] }).touch h l.way).charge cid 5, .ok [1])
      match ((s.die h.die).slice h.slot).find h.set h.key with
      | some l => pin s l
      | none =>
        if s.mustWait h then s.openFault h
        else
          let s := (s.translate h).pullOld h
          match s.allocLine h cid with
          | (s, none) => (s, .ok [0])
          | (s, some l) =>
            let (s, l) := s.fillLine h l (List.range 8)
            pin ((s.putLine h l).charge cid 0) l


/-- Remove a CID's pin of a line (R147), or the one that the line lost and that is still to be re-made (R348). -/
def State.homeUnpin (s : State) (id off cid : Nat) : State :=
  match s.homeOf id off with
  | none => s
  | some h =>
    let s := s.noteCid h cid
    let lost := (s.die h.die).pinsLost
    if lost.contains (h.key, cid) then
      (s.modDie h.die (fun d => { d with pinsLost := d.pinsLost.filter (· != (h.key, cid)) })).unpinCount cid
    else match ((s.die h.die).slice h.slot).find h.set h.key with
    | none => s
    | some l =>
      if l.pins.contains cid then (s.putLine h { l with pins := l.pins.filter (· != cid) }).unpinCount cid else s

/-- Every pin of a CID is released (R350). -/
def State.releasePins (s : State) (cid : Nat) : State :=
  let clean (sl : Slice) : Slice :=
    { sl with sets := sall sl.sets (fun ls => ls.map (fun l => { l with pins := l.pins.filter (· != cid) })) }
  let s := { s with dies := sall s.dies (fun d =>
    { d with slices := sall d.slices clean, pinsLost := d.pinsLost.filter (fun p => p.2 != cid) }) }
  s.modSched (fun x => { x with counters := sput x.counters (cid * 8 + 5) 0 })

/-! ### Gateway caches (R240, R353) -/

/-- The lines of a die's gateway cache at a port. -/
def Die.gate (d : Die) (port : Nat) : List GwLine := sget [] d.gates port
/-- Set of a gateway line. -/
def gwSet (id off : Nat) : Nat := (off / 256 % 2048) ^^^ (id % 2048)
/-- Set of a gateway line's key. -/
def gwSetOfKey (k : Nat) : Nat := gwSet (k / 2 ^ 32) (k % 2 ^ 32 * 256)
/-- Change the gateway lines of a die. -/
def State.modGate (s : State) (d home : Nat) (f : List GwLine → List GwLine) : State :=
  s.modDie d (fun x => { x with gates := smod [] x.gates home f })
/-- A gateway way is used. -/
def State.gwTouch (s : State) (d home set w : Nat) : State :=
  s.modDie d (fun x => { x with gplru := smod 0 x.gplru (home * 2048 + set) (fun t => plruTouch t w) })

/-- Keep sectors that a home returned. -/
def State.gwKeep (s : State) (d home id off : Nat) (bs : List Byte) : State :=
  let key := (id * 2 ^ 40 + off) / 256
  let set := gwSet id off
  let g := (s.die d).gate home
  let js := sectorsOf (off % 256) bs.length
  let mask : BitVec 8 := js.foldl (fun m j => m ||| (1#8 <<< j)) 0
  let old := g.find? (fun l => l.key == key)
  let w := match old with
    | some l => l.way
    | none =>
      let ls := g.filter (fun l => gwSetOfKey l.key == set)
      match (List.range 16).find? (fun w => !ls.any (fun l => l.way == w)) with
      | some w => w
      | none => plruVictim (sget 0 (s.die d).gplru (home * 2048 + set)) (fun _ => true)
  let l : GwLine := old.getD { key := key, way := w, valid := 0, data := [] }
  let l := { l with valid := l.valid ||| mask, data := l.data.writeN (off % 256) bs }
  let s := s.modGate d home (fun g => g.filter (fun x => !(x.key == key || (gwSetOfKey x.key == set && x.way == w))) ++ [l])
  s.gwTouch d home set w

/-- Whether an offset lies in a DEVICE or STRONG page: each access of one is performed at its home (R237, R252). -/
def Obj.uncached (o : Obj) (off : Nat) : Bool :=
  match o.extent (off / 65536) with
  | some e => e.ty == .device || e.ty == .strong
  | none => false

/-- Read whole sectors of a line from a core of a die: at the home slice, or through the gateway (R240). -/
def State.dieRead (s : State) (w id off n cid : Nat) : State × Ans :=
  let d := askerDie w
  match s.obj id with
  | none => (s, .object)
  | some o =>
    if o.die = d then s.homeRead w id off n cid
    else if o.uncached off then s.homeRead w id off n cid
    else
      let p := s.hop d o.die
      let g := (s.die d).gate p
      let key := (id * 2 ^ 40 + off) / 256
      match g.find? (fun l => l.key == key && (sectorsOf (off % 256) n).all (fun j => l.valid.getLsbD j)) with
      | some l => (s.gwTouch d p (gwSet id off) l.way, .ok (l.data.readN (off % 256) n))
      | none =>
        match s.homeRead w id off n cid with
        | (s, .ok bs) =>
          (if off % 32 = 0 && n % 32 = 0 then (s.gwKeep d p id off bs).charge cid 4 else s, .ok bs)
        | r => r

/-- Writes pass through to the home slice and update the sectors the gateway holds (R240). -/
def State.dieWrite (s : State) (w id off : Nat) (rs : List (Nat × List Byte)) (cid : Nat) : State × Ans :=
  let d := askerDie w
  match s.homeWrite w id off rs cid with
  | (s, .ok bs) =>
    match s.obj id with
    | none => (s, .ok bs)
    | some o =>
      let key := (id * 2 ^ 40 + off) / 256
      (if o.die = d then s
       else s.modGate d (s.hop d o.die) (fun g => g.map (fun l =>
         if l.key = key && l.valid.getLsbD (off % 256 / 32) then
           { l with data := rs.foldl (fun m r => m.writeN (r.1 % 256) r.2) l.data } else l)), .ok bs)
  | r => r

/-- BYPASS of a CID as another state has it: an atomic is one request, served by one bypass (R352). -/
def State.bypassAs (s t : State) (cid : Nat) : State :=
  let k := cid * 8 + 3
  if sget 0 s.sched.counters k = sget 0 t.sched.counters k then s
  else s.modSched (fun x => { x with counters := sput x.counters k (sget 0 t.sched.counters k) })

/-- An atomic's read and write at the home, indivisible; the gateway drops its copy of the line (R141, R240). Where the home
has become unreachable it has the fate of a store (R378). -/
def State.dieAtomic (s : State) (w id off n cid : Nat) (f : List Byte → Option (List Byte)) : State × Ans :=
  let d := askerDie w
  let dead := match s.obj id with | some o => (s.die o.die).named | none => false
  if dead then (s.lostHome w cid (addrOf id off), .stall)
  else match s.homeRead w id off n cid with
  | (s1, .ok old) =>
    let drop (s : State) : State := match s.obj id with
      | none => s
      | some o => s.modGate d (s.hop d o.die) (fun g => g.filter (fun l => l.key != (id * 2 ^ 40 + off) / 256))
    match f old with
    | none => (drop s1, .ok old)
    | some new =>
      match s1.homeWrite w id off [(off, new)] cid with
      | (s2, .ok _) => (drop (s2.bypassAs s1 cid), .ok old)
      | r => r
  | r => r

/-- Poison the word of a global address where it stands (R376). -/
def State.poisonAt (s : State) (a : Word) : State :=
  match (s.homeOf (idOf a) (offOf a)).filter (fun h => h.ext.back == 0) with
  | none => s
  | some h =>
    let w := offOf a % 256 / 8
    match ((s.die h.die).slice h.slot).find h.set h.key with
    | some l => if l.valid.getLsbD (w / 4) then s.putLine h { l with ecc := { l.ecc with poison := l.ecc.poison ++ [w] } } else s.hbmPoison [h.hbm / 8 + w]
    | none => s.hbmPoison [h.hbm / 8 + w]

/-- Every gateway line of a die is dropped at a PKG, POD or SYS acquire: none has been refreshed since the
epoch that this acquire begins (R136, R240; log 10). -/
def State.gwPrune (s : State) (d : Nat) : State := s.modDie d (fun x => { x with gates := [] })

end Sys2Proof.Machine
end

