-- ==== Sys2Proof/Machine/Cache.lean ====
section
/-!
DEFINITION. The first-level cache with its epochs, the coalescing buffer, and the global accesses a core makes
through them (spec/09 R232 to R237, spec/06 R136 to R138, R141, R146).
-/
namespace Sys2Proof.Machine

/-! ### First-level lines -/

/-- Set of a line (R232). -/
def l1Set (id off : Nat) : Nat := (off / 32 % 4096) ^^^ (id % 4096)
/-- Set of a line named by its global address over 32. -/
def l1SetOf (a : Nat) : Nat := l1Set (a / 2 ^ 35) (a % 2 ^ 35 * 32)

/-- A line that may be used: private, or filled in the current epoch (R235). -/
def Core.l1Find (x : Core) (sector : Nat) : Option L1Line :=
  x.cache.lines.find? (fun l => l.addr == sector && (l.priv || l.stamp.toNat == x.cache.epoch.toNat % 256))

/-- Change a core's cache. -/
def State.modCache (s : State) (c : Nat) (f : Cache → Cache) : State := s.modCore c (fun x => { x with cache := f x.cache })

/-- Read n bytes at a place of a line: errors in its words are met (R375, R376, R379). The line as it then stands, and
whether none of the words is uncorrectable. -/
def State.l1Read (s : State) (c : Nat) (l : L1Line) (at_ n : Nat) : State × L1Line × Bool :=
  if l.ecc = {} then (s, l, true)
  else
    let o := eccRead (bytesMem l.data) l.ecc at_ n
    let l' := { l with data := o.mem.readN 0 32, ecc := o.ecc }
    let s := s.modCache c (fun x => { x with lines := x.lines.map (fun y => if y.addr = l.addr then l' else y) })
    (s.modCore c (fun x => x.countEcc s.now o.corr o.unc 2), l', o.bad.isEmpty)

/-- Drop a line. -/
def State.l1Drop (s : State) (c sector : Nat) : State :=
  s.modCache c (fun x => { x with lines := x.lines.filter (fun l => l.addr != sector) })

/-- Contiguous runs of a byte table. -/
def runsOf : SMap Byte → List (Nat × List Byte)
  | [] => []
  | (a, b) :: r =>
    match runsOf r with
    | (a', bs) :: rs => if a + 1 = a' then (a, b :: bs) :: rs else (a, [b]) :: (a', bs) :: rs
    | [] => [(a, [b])]

/-- Write a dirty private line back to its home slice; it becomes clean (R233). Its poisoned words are poisoned there
(R376). -/
def State.l1WriteBack (s : State) (c : Nat) (l : L1Line) : State × Ans :=
  if !l.dirty then (s, .ok [])
  else
    let (s, l, _) := s.l1Read c l 0 32
    let id := l.addr / 2 ^ 35
    let off := l.addr % 2 ^ 35 * 32
    let cid := match s.obj id with | some o => o.owncid | none => 0
    match s.dieWrite c id off [(off, l.data)] cid with
    | (s, .ok _) =>
      let s := each l.ecc.poison s (fun s w => s.poisonAt (w64 (l.addr * 32 + 8 * w)))
      (s.modCache c (fun x => { x with lines := x.lines.map (fun y => if y.addr = l.addr then { y with dirty := false } else y) }), .ok [])
    | r => r

/-- A lookup of a set reads its tags, and meets the errors in them (R375, R376, R379): a single bit is corrected; a line
whose tag is uncorrectable goes, and what it alone held is poisoned at its home (log 38). -/
def State.l1Tags (s : State) (c sector : Nat) : State :=
  let hit := (s.coreAt c).cache.lines.filter (fun l => l.tagHurt.isSome && l1SetOf l.addr == l1SetOf sector)
  each hit s (fun s l =>
    let bad := l.tagHurt == some true
    let s := s.modCache c (fun x => { x with lines := x.lines.map (fun y => if y.addr = l.addr then { y with tagHurt := none } else y) })
    let s := s.modCore c (fun x => x.countEcc s.now (!bad).toNat bad.toNat 3)
    if !bad then s
    else if !l.dirty then s.l1Drop c l.addr
    else each (List.range 4) ((s.l1WriteBack c l).1.l1Drop c l.addr) (fun s w => s.poisonAt (w64 (l.addr * 32 + 8 * w))))

/-- Put a line into the cache; a full set first gives up a line, whose choice never affects results (R232). False when
the line to be given up is dirty and its home does not take it yet: nothing has been put (R233). -/
def State.l1Put (s : State) (c : Nat) (l : L1Line) : State × Bool :=
  let add (s : State) : State := s.modCache c (fun x => { x with lines := x.lines ++ [l] })
  let s := s.l1Drop c l.addr
  let same := (s.coreAt c).cache.lines.filter (fun x => l1SetOf x.addr == l1SetOf l.addr)
  if same.length < 12 then (add s, true)
  else match same[Config.l1Victim s.fresh % same.length]? with
    | none => (s, false)
    | some v =>
      match s.tick1.l1WriteBack c v with
      | (s, .ok _) => (add (s.l1Drop c v.addr), true)
      -- the object is gone, or its die is dead: the line's bytes are lost (R378, R389)
      | (s, .object) => (add (s.l1Drop c v.addr), true)
      | (s, _) => (s, false)

/-- EPOCH advances by 1; at a wrap of its low byte every non-private line goes (R235). -/
def State.advanceEpoch (s : State) (c : Nat) : State :=
  s.modCache c (fun x =>
    let e := x.epoch + 1
    { x with epoch := e, lines := if e.toNat % 256 = 0 then x.lines.filter (·.priv) else x.lines })

/-! ### The coalescing buffer (R234) -/

/-- Remove an entry. -/
def State.bufDrop (s : State) (c : Nat) (e : CbEntry) : State :=
  s.modCache c (fun x => { x with cbuf := x.cbuf.filter (fun y => !(y.ctx == e.ctx && y.sector == e.sector)) })
/-- Mark an entry held at its home. -/
def State.bufHold (s : State) (c : Nat) (e : CbEntry) : State :=
  s.modCache c (fun x => { x with cbuf := x.cbuf.map (fun y =>
    if y.ctx = e.ctx ∧ y.sector = e.sector then { y with held := true } else y) })

/-- Every run of bytes of an entry that no home took is reported lost (R137, R378). -/
def State.lostEntry (s : State) (c : Nat) (e : CbEntry) : State :=
  each (runsOf e.bytes) s (fun s r => s.storeLost 1 e.cid (w64 (e.sector * 32 + r.1)) c)

/-- Drain one entry to its home: true when it was accepted or discarded (R137, R234, R378). -/
def State.bufDrain (s : State) (c : Nat) (e : CbEntry) : State × Bool :=
  let id := e.sector / 2 ^ 35
  let off := e.sector % 2 ^ 35 * 32
  let rs := (runsOf e.bytes).map (fun r => (off + r.1, r.2))
  let dead := match s.obj id with | some o => (s.die o.die).named | none => false
  if dead then ((s.bufDrop c e).failCid e.cid 9 (addrOf id off) c, true)
  else match s.dieWrite (asker c e.ctx) id off rs e.cid with
    | (s, .ok _) =>
      let merge (l : L1Line) : L1Line :=
        if l.addr = e.sector && !l.priv then { l with data := (List.range 32).map (fun i => sget (l.data.getD i 0) e.bytes i) } else l
      ((s.bufDrop c e).modCache c (fun x => { x with lines := x.lines.map merge }), true)
    | (s, .held) => (s.bufHold c e, false)
    | (s, .stall) => (s, false)
    | (s, .object) => ((s.bufDrop c e).lostEntry c e, true)
    | (s, .absent) => ((s.bufHold c e).joinPage id (off / 65536) (.store c e.ctx e.sector), false)
    | (s, _) => (s.bufHold c e, false)

/-- Drain entries in the order they were first filled; true when none is left. -/
def State.bufDrainAll (s : State) (c : Nat) (p : CbEntry → Bool) : State × Bool :=
  each ((s.coreAt c).cache.cbuf.filter p) (s, true) (fun (s, ok) e =>
    let (s, b) := s.bufDrain c e
    (s, ok && b))

/-- The entries of a context, with the older ones of the others that drain before them; WCOMB entries keep no order (R234,
R237). -/
def withOlder (k : Nat) : List CbEntry → List CbEntry
  | [] => []
  | e :: r => (if e.ctx = k ∨ (!e.wcomb && r.any (fun f => f.ctx == k && !f.wcomb)) = true then [e] else []) ++ withOlder k r

/-- Drain every entry of a context, behind the older ones of the core; true when none of the context's is left (R234: at
a release, an atomic, an access that must be in order). -/
def State.bufDrainCtx (s : State) (c k : Nat) : State × Bool :=
  each (withOlder k (s.coreAt c).cache.cbuf) (s, true) (fun (s, ok) e =>
    let (s, b) := s.bufDrain c e
    (s, ok && (b || e.ctx != k)))

/-- The bytes a context has buffered for a sector. -/
def Core.buffered (x : Core) (k sector : Nat) : SMap Byte :=
  match x.cache.cbuf.find? (fun e => e.ctx == k && e.sector == sector) with
  | some e => e.bytes
  | none => []

/-- A write-through store enters the buffer (R234, R237); with no entry free it waits until one drains, the oldest first. -/
def State.bufStore (s : State) (c k sector off : Nat) (bs : List Byte) (wcomb : Bool) (cid : Nat) : State × Ans :=
  let x := s.coreAt c
  let add (m : SMap Byte) : SMap Byte := each ((List.range bs.length).zip bs) m (fun m (i, b) => sput m (off + i) b)
  if x.cache.cbuf.any (fun e => e.ctx == k && e.sector == sector) then
    (s.modCache c (fun y => { y with cbuf := y.cbuf.map (fun e =>
      if e.ctx = k ∧ e.sector = sector then { e with bytes := add e.bytes, cid := cid } else e) }), .ok [])
  else
    let enter (s : State) : State × Ans :=
      let due := s.now + 1 + Config.drainRaw s.fresh % 64
      (s.tick1.modCache c (fun y => { y with cbuf := y.cbuf ++
        [{ ctx := k, sector := sector, bytes := add [], wcomb := wcomb, due := due, cid := cid }] }), .ok [])
    if x.cache.cbuf.length < 16 then enter s
    else match x.cache.cbuf.find? (fun e => !e.held) with
      | none => (s, .stall)
      | some e => match s.bufDrain c e with
        | (s, true) => enter s
        | (s, false) => (s, .stall)

/-! ### Checks of a global address (R137 items 1 to 3, R146, R229, R233) -/

/-- A cause of R123: code, the detail of ECAUSE[63:16], and EADDR. -/
structure Cause where
  code   : Nat
  detail : Nat := 0
  addr   : Word := 0
  deriving DecidableEq, Repr

/-- The bounds of an object of the table. -/
def Obj.bounds (o : Obj) (id : Nat) : Bounds :=
  { id := id, size := o.size, priv := o.priv, owncore := o.owncore, owncid := o.owncid, die := o.die, dom := o.dom }
/-- What a core checks an access against: its OBB entry, filled from the object table where it misses (R338). -/
def State.bounds (s : State) (c id : Nat) : Option Bounds :=
  ((s.coreAt c).cache.obb.find? (fun e => e.id == id)).orElse (fun _ => (s.obj id).map (fun o => o.bounds id))
/-- An access uses the OBB entry of its object, and meets an error in it (R377); 64 are kept, the least recently used goes
first (R338). -/
def State.obbUse (s : State) (c id : Nat) : State :=
  match s.bounds c id with
  | none => s
  | some e => ((s.suffer c 0 e.hurt.toList).1).modCache c (fun x =>
      let l := x.obb.filter (fun y => y.id != id) ++ [{ e with hurt := none }]
      { x with obb := l.drop (l.length - 64) })

/-- Null object, reserved identifiers, bounds and ownership of n bytes (R229). -/
def State.checkObject (s : State) (c cid : Nat) (a : Word) (n : Nat) : Option Cause :=
  let bad : Option Cause := some { code := 0x09, addr := a }
  let id := idOf a
  if id = aliasId then (if offOf a + n ≤ coreCount * 2 ^ 20 && !s.isHole (offOf a / 2 ^ 20) then none else bad)
  else if id = 0 ∨ aliasId < id then bad
  else match s.bounds c id with
    | none => bad
    | some o =>
      if o.size * 65536 < offOf a + n then bad
      else if o.priv && (o.owncore != c || o.owncid != cid) then bad
      else none

/-- The checks of R137 items 1 to 3, in their order. -/
def State.checkGlobal (s : State) (c cid : Nat) (a : Word) (n : Nat) : Option Cause :=
  if a.toNat % n ≠ 0 then some { code := 0x06, addr := a } else s.checkObject c cid a n

/-- Type of a page and whether the first-level cache writes it back: a NORMAL page of a private object (R233, R237). -/
def State.pageType (s : State) (id off : Nat) : PageType × Bool :=
  match s.obj id with
  | none => (.normal, false)
  | some o =>
    match o.extent (off / 65536) with
    | none => (.normal, false)
    | some e => (e.ty, o.priv && e.ty == .normal)

/-! ### Accesses of a context -/

/-- Overlay buffered bytes on bytes read at an offset of a sector. -/
def overlay (buf : SMap Byte) (at_ : Nat) (bs : List Byte) : List Byte :=
  ((List.range bs.length).zip bs).map (fun (i, b) => sget b buf (at_ + i))

/-- Load n bytes, which lie in one sector (R135, R233 to R237). -/
def State.gLoad (s : State) (c k : Nat) (a : Word) (n cid : Nat) : State × Ans :=
  let id := idOf a
  let off := offOf a
  let sector := a.toNat / 32
  let s := (s.obbUse c id).l1Tags c sector
  let (ty, wb) := s.pageType id off
  if ty = .device || ty = .strong then
    match s.bufDrainCtx c k with
    | (s, false) => (s, .stall)
    | (s, true) => s.dieRead (asker c k) id off n cid
  else
    let buf := (s.coreAt c).buffered k sector
    match (s.coreAt c).l1Find sector with
    | some l =>
      match s.l1Read c l (off % 32) n with
      | (s, l, true) => (s, .ok (overlay buf (off % 32) ((l.data.drop (off % 32)).take n)))
      | (s, _, false) => (s, .poison)
    | none =>
      match s.dieRead c id (off / 32 * 32) 32 cid with
      | (s, .ok bs) =>
        let s := (s.l1Put c { addr := sector, priv := wb, data := bs, stamp := (s.coreAt c).cache.epoch.setWidth 8 }).1
        (s, .ok (overlay buf (off % 32) ((bs.drop (off % 32)).take n)))
      | (s, .poison) =>
        -- the sector is passed on poisoned and not kept; the access meets only its own words (R376)
        match s.dieRead c id off n cid with
        | (s, .ok bs) => (s, .ok (overlay buf (off % 32) bs))
        -- the error just found has retired the page: the request is answered POISONED (R385)
        | (_, .absent) => (s, .poison)
        | r => r
      | r => r

/-- Store bytes, which lie in one sector (R135, R233 to R237). -/
def State.gStore (s : State) (c k : Nat) (a : Word) (bs : List Byte) (cid : Nat) : State × Ans :=
  let id := idOf a
  let off := offOf a
  let sector := a.toNat / 32
  let s := (s.obbUse c id).l1Tags c sector
  let (ty, wb) := s.pageType id off
  if ty = .device || ty = .strong then
    match s.bufDrainCtx c k with
    | (s, false) => (s, .stall)
    | (s, true) => s.dieWrite (asker c k) id off [(off, bs)] cid
  else if wb then
    let write (l : L1Line) : L1Line :=
      { l with dirty := true, ecc := (eccWrite (bytesMem l.data) l.ecc (off % 32) bs).ecc, data := overlay (each ((List.range bs.length).zip bs) [] (fun m (i, b) => sput m (off % 32 + i) b)) 0 l.data }
    match (s.coreAt c).l1Find sector with
    | some l =>
      -- the words that the store fills in part are read first (R376)
      let s := if l.ecc = {} ∨ bs.length = 8 then s else (s.l1Read c l (off % 32) bs.length).1
      (s.modCache c (fun x => { x with lines := x.lines.map (fun y => if y.addr = l.addr then write y else y) }), .ok [])
    | none =>
      match s.dieRead c id (off / 32 * 32) 32 cid with
      | (s, .ok old) =>
        let r := s.l1Put c (write { addr := sector, priv := true, data := old })
        (r.1, if r.2 then .ok [] else .stall)
      | (s, .poison) => s.dieWrite c id off [(off, bs)] cid
      | r => r
  else s.bufStore c k sector (off % 32) bs (ty == .wcomb) cid

/-- The line of an atomic or engine access leaves the first-level cache, written back if dirty (R141, R233). -/
def State.l1Flush (s : State) (c sector : Nat) : State × Ans :=
  match (s.coreAt c).cache.lines.find? (fun l => l.addr == sector) with
  | none => (s, .ok [])
  | some l =>
    match s.l1WriteBack c l with
    | (s, .ok _) => (s.l1Drop c sector, .ok [])
    | r => r

/-- An atomic at the home slice, after the context's buffered stores (R141, R142, R234). -/
def State.gAtomic (s : State) (c k : Nat) (a : Word) (n cid : Nat) (f : List Byte → Option (List Byte)) : State × Ans :=
  let s := (s.obbUse c (idOf a)).l1Tags c (a.toNat / 32)
  match s.bufDrainCtx c k with
  | (s, false) => (s, .stall)
  | (s, true) =>
    match s.l1Flush c (a.toNat / 32) with
    | (s, .ok _) => s.dieAtomic (asker c k) (idOf a) (offOf a) n cid f
    | r => r

/-- A read that fills no first-level line: engines, the host, instruction fetch (R232, R233). -/
def State.rawRead (s : State) (w : Nat) (a : Word) (n cid : Nat) : State × Ans := s.dieRead w (idOf a) (offOf a) n cid
/-- A write that fills no first-level line. -/
def State.rawWrite (s : State) (w : Nat) (a : Word) (bs : List Byte) (cid : Nat) : State × Ans :=
  s.dieWrite w (idOf a) (offOf a) [(offOf a, bs)] cid

/-! ### Acquire and release actions (R136) -/

/-- The acquire action of a core at a scope. -/
def State.acquire (s : State) (c : Nat) (sc : Scope) : State :=
  match sc with
  | .lane | .core => s
  | .oct | .die => s.advanceEpoch c
  | .pkg | .pod | .sys => (s.advanceEpoch c).gwPrune (dieOf c)

/-- Vector instructions of global memory that are still in the queue (R202). -/
def Core.vecPending (x : Core) : Bool :=
  x.vec.queue.any (fun e => match e.instr with
    | .vld .. | .vst .. | .vlds .. | .vgath .. | .vscat .. => true
    | _ => false)

/-- The buffered WCOMB stores of a context are accepted, as its next ordered access or FENCE needs (R138, R237, R253). -/
def State.combDrain (s : State) (c k : Nat) : State × Bool := s.bufDrainAll c (fun e => e.ctx == k && e.wcomb)

end Sys2Proof.Machine
end

