-- ==== Sys2Proof/Machine/Flags.lean ====
section
/-!
DEFINITION. The machine's status bits. Arithmetic sets none (R40): what other machines keep as flags are here
CSTAT (R23), the event latch (R120) and the interrupt bits IPEND (R125).
-/
namespace Sys2Proof.Machine

/-! ### CSTAT (R23) -/

/-- PRIV. -/
def Ctx.priv (x : Ctx) : Bool := x.cstat.getLsbD 0
/-- IE. -/
def Ctx.ie (x : Ctx) : Bool := x.cstat.getLsbD 1
/-- INTRAP. -/
def Ctx.intrap (x : Ctx) : Bool := x.cstat.getLsbD 2
/-- PPRIV. -/
def Ctx.ppriv (x : Ctx) : Bool := x.cstat.getLsbD 3
/-- PIE. -/
def Ctx.pie (x : Ctx) : Bool := x.cstat.getLsbD 4

/-- CSTAT of a context from its fields; every other bit reads zero (R23). -/
def mkCstat (k : Nat) (priv ie intrap ppriv pie : Bool) : Word :=
  w64 (priv.toNat + 2 * ie.toNat + 4 * intrap.toNat + 8 * ppriv.toNat + 16 * pie.toNat + 256 * (k % 16))

/-- CTX, the context's number. -/
def Ctx.num (x : Ctx) : Nat := bits x.cstat 11 8

/-- CSTAT at trap entry: PIE and PPRIV take IE and PRIV, which become 0 and 1; INTRAP is set (R126). -/
def cstatEntry (x : Ctx) : Word := mkCstat x.num true false true x.priv x.ie
/-- CSTAT at the return: IE and PRIV come back from PIE and PPRIV, INTRAP clears (R114). -/
def cstatReturn (x : Ctx) : Word := mkCstat x.num x.ppriv x.pie false x.ppriv x.pie
/-- CSTAT after a write of its PRIV-access fields PIE, PPRIV and IE; the others are RO or RZ (R7, R23). -/
def cstatWrite (x : Ctx) (v : Word) : Word :=
  mkCstat x.num x.priv (v.getLsbD 1) x.intrap (v.getLsbD 3) (v.getLsbD 4)

/-! ### Events and interrupts (R120, R125) -/

/-- Set an event bit in the latch of every LIVE context; bits 3 and 4 only in context 0's (R120). -/
def Core.latchEvent (x : Core) (b : Nat) : Core :=
  let set (k : Nat) (y : Ctx) : Ctx :=
    if y.st = .live ∧ (k = 0 ∨ (b ≠ 3 ∧ b ≠ 4)) then { y with latch := y.latch ||| (1#7 <<< b) } else y
  { x with ctxs := x.ctxs.map (fun e => (e.1, set e.1 e.2)) }

/-- A source raises its IPEND bit while its IMASK bit is 1 (R125). Event bit 4 is set as a bit is raised, and not again while
IPEND stays nonzero after a WFE has taken the latch (R120; log 71). -/
def Core.raiseIrq (x : Core) (b : Nat) : Core :=
  if x.imask.getLsbD b && b != 4 then { x with ipend := x.ipend ||| (1#64 <<< b) }.latchEvent 4 else x

/-- An event of R120 that is also an interrupt source of R125: WELL, MSG, BARRIER, HELPER. -/
def State.event (s : State) (c b : Nat) : State := s.modCore c (fun x => (x.latchEvent b).raiseIrq b)

/-- A launch wake or a doorbell ends a PARK: recorded in the parked context (R121). -/
def State.unpark (s : State) (c : Nat) : State :=
  s.modCore c (fun x => if x.parked then x.modCtx 0 (fun y => { y with aux := 1 }) else x)

/-- The number of the lowest set bit of IPEND (R125). -/
def lowestIrq (p : Word) : Nat := ctz64 p

/-- An interrupt that context 0 may take: IPEND is not 0, IE = 1 and INTRAP = 0 (R124 item 2). -/
def State.irqDue (s : State) (c : Nat) : Bool :=
  let x := s.coreAt c
  let y := x.ctxAt 0
  x.ipend != 0 && y.ie && !y.intrap

end Sys2Proof.Machine
end

