-- ==== Sys2Proof/Machine/Local.lean ====
section
/-!
DEFINITION. The local address space of a core: BANKMAP, the checks of R19, the tag checks of R155, and reads and
writes of TCM and wells with their codes (spec/01 R19 to R21, R30; spec/06 R152 to R155; spec/19 R376, R379).
-/
namespace Sys2Proof.Machine

/-! ### BANKMAP (R30) -/

/-- A BANKMAP entry of its fields. -/
def mkBank (st mode well : Nat) : Word := w64 (0x8000 + st * 0x2000 + mode * 0x800 + well % 32)
/-- The entry of a slot. -/
def Core.bankmap (x : Core) (s : Nat) : Word := sget 0 x.loc.bank s
/-- V. -/
def bankV (b : Word) : Bool := b.getLsbD 15
/-- ST: 0 OWNED, 1 SHARED, 2 INCOMING. -/
def bankSt (b : Word) : Nat := bits b 14 13
/-- MODE: 0 plain, 1 front, 2 back, 3 receive ring. -/
def bankMode (b : Word) : Nat := bits b 12 11
/-- WELL. -/
def bankWell (b : Word) : Nat := bits b 4 0
/-- Base local address of a slot. -/
def slotBase (s : Nat) : Nat := 0x40000 + s * 0x10000

/-- Write a tile's tag; an error that struck the old one is gone (R155, R374). -/
def Well.setTag (v : Well) (tile : Nat) (tag : BitVec 8) : Well := { v with tags := sputD 0 v.tags tile tag, tagErr := sdel v.tagErr tile }

/-- Set a slot's entry. -/
def State.setBank (s : State) (c slot : Nat) (v : Word) : State :=
  s.modCore c (fun x => { x with loc := { x.loc with bank := if v = 0 then sdel x.loc.bank slot else sput x.loc.bank slot v } })
/-- Change a core's local part. -/
def State.modLoc (s : State) (c : Nat) (f : Local → Local) : State := s.modCore c (fun x => { x with loc := f x.loc })
/-- A well of a core's octet. -/
def State.well (s : State) (c w : Nat) : Well := (s.oct (octOf c)).well w
/-- Change a well of a core's octet. -/
def State.modWell (s : State) (c w : Nat) (f : Well → Well) : State := s.modOct (octOf c) (fun o => o.modWell w f)
/-- Disarm a slot's EXPECT (R149, R152). -/
def State.disarm (s : State) (c slot : Nat) : State :=
  s.modLoc c (fun l => { l with armed := l.armed &&& ~~~(1#8 <<< slot) })
/-- Disarm it, with expected tag 0 and every tile unchecked (R152, R153). -/
def State.resetExpect (s : State) (c slot : Nat) : State :=
  (s.disarm c slot).modLoc c (fun l => { l with expTag := sdel l.expTag slot, checked := sdel l.checked slot })
/-- The slot in receive-ring mode, if any (R152). -/
def Core.ringSlot (x : Core) : Option Nat := (List.range 8).find? (fun s => bankV (x.bankmap s) && bankMode (x.bankmap s) == 3)

/-! ### Checks (R19, R155) -/

/-- The fault of the byte at a local address, by the table of R19. -/
def Core.byteFault (x : Core) (la : Nat) : Option Nat :=
  if la < 0x30000 then none
  else if la < 0x40000 ∨ 0xC0000 ≤ la then some 0x07
  else
    let b := x.bankmap (la / 0x10000 - 4)
    if bankV b && bankSt b != 2 then none else some 0x08

/-- The pieces of n bytes that lie in one 64 KiB piece of local memory each: start and length. -/
def localPieces (la n : Nat) : List (Nat × Nat) :=
  (List.range ((la + n + 0xFFFF) / 0x10000 - la / 0x10000)).map (fun i =>
    let lo := max la ((la / 0x10000 + i) * 0x10000)
    let hi := min (la + n) ((la / 0x10000 + i + 1) * 0x10000)
    (lo, hi - lo))

/-- Checks 2 and 3 of R19: an address of 2^20 or more, then the lowest byte that faults. -/
def Core.checkRegion (x : Core) (la n : Nat) : Option Cause :=
  if 2 ^ 20 ≤ la then some { code := 0x07, addr := w64 la }
  else (localPieces la n).findSome? (fun p =>
    (x.byteFault p.1).map (fun code => { code := code, addr := w64 p.1 }))

/-- Check 4 of R19: a store into a slot in receive-ring mode. -/
def Core.checkRing (x : Core) (la n : Nat) : Option Cause :=
  (localPieces la n).findSome? (fun p =>
    if 0x40000 ≤ p.1 ∧ p.1 < 0xC0000 ∧ bankMode (x.bankmap (p.1 / 0x10000 - 4)) = 3 then
      some { code := 0x08, addr := w64 p.1 }
    else none)

/-- The tiles a read touches: slot, tile, first byte of the read in it (R155). -/
def tilesOf (la n : Nat) : List (Nat × Nat × Nat) :=
  ((List.range ((la + n + 0xFFF) / 0x1000 - la / 0x1000)).map (fun i =>
    let t := la / 0x1000 + i
    (t / 16 - 4, t % 16, max la (t * 0x1000)))).filter (fun e => decide (0x40000 ≤ e.2.2) && decide (e.2.2 < 0xC0000))

/-- Check 5 of R19: the tag checks of a read (R155), in increasing address. -/
def State.checkTags (s : State) (c la n : Nat) : Option Cause :=
  let x := s.coreAt c
  (tilesOf la n).findSome? (fun (slot, t, a) =>
    let tag := sget 0 (s.well c (bankWell (x.bankmap slot))).tags t
    if tag = 0xFF then some { code := 0x10, addr := w64 a }
    else if x.loc.armed.getLsbD slot && !(sget 0 x.loc.checked slot).getLsbD t && tag != sget 0 x.loc.expTag slot then
      some { code := 0x0C, addr := w64 a }
    else none)

/-- Every issue check of a local access of n bytes in units of `unit` (R19). -/
def State.checkLocal (s : State) (c la n unit : Nat) (store : Bool) : Option Cause :=
  let x := s.coreAt c
  if la % unit ≠ 0 then some { code := 0x06, addr := w64 la }
  else (x.checkRegion la n).orElse (fun _ =>
    if store then x.checkRing la n else s.checkTags c la n)

/-- What n bytes that come to a core by its loop-back port meet: a hole has no local memory (R392), then the checks of the
core itself (R230). -/
def State.portFault (s : State) (c la n : Nat) (store : Bool) : Option Cause :=
  if s.isHole c then some { code := 0x09 }
  else ((s.coreAt c).checkRegion la n).orElse (fun _ => if store then (s.coreAt c).checkRing la n else none)

/-- A read of tiles meets the errors in their tags, counted as a well's: a single bit is corrected, and a tag that was
uncorrectable has become the poisoned one (R155, R374 to R376, R379; log 73). -/
def State.meetTags (s : State) (c la n : Nat) : State :=
  each (tilesOf la n) s (fun s (slot, t, _) =>
    let b := (s.coreAt c).bankmap slot
    match sfind (s.well c (bankWell b)).tagErr t with
    | none => s
    | some dbl =>
      if !bankV b then s
      else (s.modWell c (bankWell b) (fun v => { v with tagErr := sdel v.tagErr t })).modCore c (fun x => x.countEcc s.now (!dbl).toNat dbl.toNat 8))

/-- Mark the tiles of a read that passed its checks (R155). -/
def State.markTiles (s : State) (c la n : Nat) : State :=
  each (tilesOf la n) s (fun s (slot, t, _) =>
    s.modLoc c (fun l =>
      if l.armed.getLsbD slot then { l with checked := smod 0 l.checked slot (fun m => m ||| (1#16 <<< t)) } else l))

/-! ### Reads and writes -/

/-- A local read by a BANKMAP: the state with errors met, the bytes, and the first bad word's local address (R375, R376). -/
def State.localReadBy (s : State) (bm : Nat → Word) (c la n : Nat) : State × List Byte × Option Nat :=
  each (localPieces la n) (s, [], none) (fun (s, bs, bad) (a, n) =>
    if a < 0x30000 then
      let l := (s.coreAt c).loc
      let o := eccRead l.tcm l.ecc a n
      let s := s.modCore c (fun x => { x with loc := { x.loc with tcm := o.mem, ecc := o.ecc } }.countEcc s.now o.corr o.unc 1)
      (s, bs ++ o.mem.readN a n, bad.orElse (fun _ => o.bad.head?))
    else
      let w := bankWell (bm (a / 0x10000 - 4))
      let v := s.well c w
      let o := eccRead v.data v.ecc (a % 0x10000) n
      let s := s.modWell c w (fun v => { v with data := o.mem, ecc := o.ecc })
      let s := s.modCore c (fun x => x.countEcc s.now o.corr o.unc 8)
      (s, bs ++ o.mem.readN (a % 0x10000) n, bad.orElse (fun _ => o.bad.head?.map (· + a / 0x10000 * 0x10000))))

/-- A local read by the core's BANKMAP as it stands. -/
def State.localRead (s : State) (c la n : Nat) : State × List Byte × Option Nat := s.localReadBy (s.coreAt c).bankmap c la n

/-- The mesh-alias address of a local address of a core (R145, R230). -/
def aliasAddr (c la : Nat) : Word := w64 (aliasId * 2 ^ 40 + c * 2 ^ 20 + la)

/-- A local write by a BANKMAP; a partial store that merges into an uncorrectable word is accepted and told (R376). -/
def State.localWriteBy (s : State) (bm : Nat → Word) (c la : Nat) (bs : List Byte) (cid : Nat) : State :=
  (each (localPieces la bs.length) s (fun s (a, n) =>
    let part := (bs.drop (a - la)).take n
    if a < 0x30000 then
      let l := (s.coreAt c).loc
      let o := eccWrite l.tcm l.ecc a part
      let s := s.modCore c (fun x => { x with loc := { x.loc with tcm := o.mem, ecc := o.ecc } }.countEcc s.now o.corr o.unc 1)
      s.storeLost o.unc cid (aliasAddr c (a / 8 * 8)) c
    else
      let w := bankWell (bm (a / 0x10000 - 4))
      let v := s.well c w
      let o := eccWrite v.data v.ecc (a % 0x10000) part
      let s := s.modWell c w (fun v => { v with data := o.mem, ecc := o.ecc })
      let s := s.modCore c (fun x => x.countEcc s.now o.corr o.unc 8)
      s.storeLost o.unc cid (aliasAddr c (a / 8 * 8)) c))

/-- A local write by the core's BANKMAP as it stands. -/
def State.localWrite (s : State) (c la : Nat) (bs : List Byte) (cid : Nat) : State := s.localWriteBy (s.coreAt c).bankmap c la bs cid

/-! ### Sub-banks (R226, R227)

Requesters of a well, in rotation: the cores of the octet 0 to 7, the matrix tile port 8, the copy engine 9, the exchange
receive port 10, the loop-back ports 11 to 18. -/

/-- The sub-banks that n bytes at a local address of a core use. -/
def State.subBanks (s : State) (c la n : Nat) : List Nat :=
  (localPieces la n).flatMap (fun (a, n) =>
    let place := if a < 0x40000 then c else 32768 + octOf c * 32 + bankWell ((s.coreAt c).bankmap (a / 0x10000 - 4))
    ((List.range (min 8 ((a % 4 + n + 3) / 4))).map (fun i => place * 8 + (a / 4 + i) % 8)))

/-- Sub-banks have served a requester in a step. -/
def State.serveAt (s : State) (step : Nat) (l : List (Nat × Nat)) : State :=
  { s with served := l.foldl (fun m e => if (sfind m e.1).any (fun v => decide (step < v.2)) then m else sput m e.1 (e.2, step)) s.served }
/-- Sub-banks have served a requester in this step. -/
def State.serve (s : State) (l : List (Nat × Nat)) : State := s.serveAt s.now l
/-- The sub-banks of a local range of a core, each with a requester. -/
def State.banksFor (s : State) (c req : Nat) (r : Nat × Nat) : List (Nat × Nat) := (s.subBanks c r.1 r.2).map (fun b => (b, req))
/-- Whether a sub-bank has served a request in this step: any other waits for the next one (R227). -/
def State.bankTaken (s : State) (l : List (Nat × Nat)) : Bool :=
  l.any (fun e => match sfind s.served e.1 with | some v => v.2 == s.now | none => false)
/-- The place of a requester in the rotation of a sub-bank, after the requester served last (R227). -/
def State.rotation (s : State) (bank req : Nat) : Nat := (req + 18 - ((sfind s.served bank).map (·.1)).getD 18) % 19

end Sys2Proof.Machine
end

