-- ==== Sys2Proof/Machine/Ranges.lean ====
section
/-!
DEFINITION. What the queued commands of a core touch: the local ranges of its vector, matrix and engine commands and
transfers, and which of them a release or a fence waits for (spec/07 R183, R184, R222; spec/06 R136, R145, R149, R178).
-/
namespace Sys2Proof.Machine

/-! ### Sizes of matrix operands (R211, R215, R216) -/

/-- Bytes of an A or B tile of a format. -/
def mmaBytes (f : MmaFmt) : Nat := match f with | .bf | .f16 => 8192 | .e4 | .e5 | .i8 => 4096 | .e2 => 2048
/-- Bytes that an MLDB copies. -/
def latchBytes (z : LatchSize) : Nat := match z with | .full => 8192 | .half => 4096 | .quarter => 2048
/-- Bytes that an MST writes. -/
def mstBytes (bf : Bool) : Nat := if bf then 8192 else 16384

/-! ### Local ranges -/

/-- Word n of a command's operands. -/
def opAt (ops : List Word) (n : Nat) : Word := ops.getD n 0

/-- Local address of element i of a contiguous local form (R200). -/
def elemLA (b : Word) (imm : BitVec 19) (i : Nat) : Nat := (b + imm.signExtend 64 + w64 (4 * i)).toNat

/-- Elements below a VLEN whose bit is set. -/
def activeOf (vlen : Nat) (mask : Word) : List Nat := (List.range vlen).filter (fun i => mask.getLsbD i)

/-! ### Elements in memory (R134, R200) -/

/-- Element i of a vector register. -/
def Core.ve (x : Core) (r : VReg) (i : Nat) : BitVec 32 := sget 0 x.vec.v (64 * r.toNat + i)
/-- Bytes of a size field (R135). -/
def sizeBytes (z : Size) : Nat := match z with | .b => 1 | .h => 2 | .w => 4 | .d => 8

/-- EA of a base and a signed offset: the object of the base is kept, the offset wraps within 40 bits (R134). -/
def eaOf (b off : Word) : Word := (b &&& w64 (2 ^ 64 - 2 ^ 40)) ||| ((b + off) &&& w64 (2 ^ 40 - 1))

/-- A vector memory form: bytes of an element, a store or a load, and the address of element i, global or local. -/
structure VMem where
  z     : Nat
  store : Bool
  local_ : Bool
  reg   : VReg
  addr  : Nat → Word

/-- The form of an instruction with its operands, on a core. -/
def vmemOf (x : Core) (i : Instr) (ops : List Word) : Option VMem :=
  let b := opAt ops 0
  match i with
  | .vld a _ imm _ => some ⟨4, false, false, a, fun j => eaOf b (imm.signExtend 64 + w64 (4 * j))⟩
  | .vst a _ imm _ => some ⟨4, true, false, a, fun j => eaOf b (imm.signExtend 64 + w64 (4 * j))⟩
  | .vldl a _ imm _ => some ⟨4, false, true, a, fun j => w64 (elemLA b imm j)⟩
  | .vstl a _ imm _ => some ⟨4, true, true, a, fun j => w64 (elemLA b imm j)⟩
  | .vlds z a _ _ imm _ => some ⟨sizeBytes z, false, false, a, fun j => eaOf b (imm.signExtend 64 + w64 j * opAt ops 1)⟩
  | .vgath z a _ c imm _ => some ⟨sizeBytes z, false, false, a, fun j => eaOf b (imm.signExtend 64 + (x.ve c j).setWidth 64)⟩
  | .vscat z a _ c imm _ => some ⟨sizeBytes z, true, false, a, fun j => eaOf b (imm.signExtend 64 + (x.ve c j).setWidth 64)⟩
  | _ => none

/-- The local ranges, first byte and length, that an instruction with its operands names. -/
def rangesOf (i : Instr) (ops : List Word) (vlen : Nat) (mask : Word) : List (Nat × Nat) :=
  match i with
  | .vldl _ _ imm _ | .vstl _ _ imm _ => (activeOf vlen mask).map (fun j => (elemLA (opAt ops 0) imm j, 4))
  | .ppld _ => [((opAt ops 0).toNat, 1296)]
  | .mma f _ _ _ _ => ((opAt ops 0).toNat, mmaBytes f) :: (if f = .e2 then [(bits (opAt ops 1) 63 32, 1024)] else [])
  | .mldb z _ => [((opAt ops 0).toNat, latchBytes z)]
  | .mst bf _ _ => [((opAt ops 0).toNat, mstBytes bf)]
  | _ => []

/-- Ranges of a vector instruction in the queue. -/
def VEntry.ranges (e : VEntry) : List (Nat × Nat) := rangesOf e.instr e.ops e.vlen e.mask
/-- Ranges of a matrix command in the queue. -/
def MEntry.ranges (e : MEntry) : List (Nat × Nat) := rangesOf e.instr e.ops 0 0
/-- Local ranges of an engine command of core c: an operand whose object field is 0, or that names the core's own local
memory by its alias (R178, R182). -/
def EngCmd.ranges (c : Nat) (e : EngCmd) : List (Nat × Nat) :=
  ([e.dst, e.src].filter (fun a => idOf a == 0 || (idOf a == aliasId && offOf a / 2 ^ 20 == c))).map (fun a => (a.toNat % 2 ^ 20, e.len))

/-- Overlap judged in aligned 32-byte sectors (R184). -/
def overlap32 (a b : Nat × Nat) : Bool :=
  a.2 != 0 && b.2 != 0 && decide (a.1 / 32 ≤ (b.1 + b.2 - 1) / 32) && decide (b.1 / 32 ≤ (a.1 + a.2 - 1) / 32)

/-- Ranges of the vector queue. -/
def Core.vecRanges (x : Core) : List (Nat × Nat) := x.vec.queue.flatMap (·.ranges)
/-- Ranges of the matrix queue. -/
def Core.matRanges (x : Core) : List (Nat × Nat) := x.mat.queue.flatMap (·.ranges)

/-- Whether a range lies in a slot in part. -/
def inSlot (slot : Nat) (r : Nat × Nat) : Bool :=
  decide (r.1 < slotBase slot + 0x10000) && decide (slotBase slot < r.1 + r.2)

/-- Whether another timed command of a core runs in a local memory that the ranges given lie in too (R272). -/
def State.timedBeside (s : State) (c : Nat) (rs : List (Nat × Nat)) (self : Option Nat) : Bool :=
  let x := s.coreAt c
  let bank (a : Nat) : Nat := if a < 0x40000 then 0 else a / 0x10000
  let mats := match x.mat.queue with
    | e :: _ => if e.start.isSome && e.fin.isSome then e.ranges else []
    | [] => []
  let engs := (x.engs.filter (fun e => e.begun && e.start.isSome && some e.id != self)).flatMap (·.ranges c)
  (mats ++ engs).any (fun p => p.2 != 0 && rs.any (fun q => q.2 != 0 && bank p.1 == bank q.1))

/-- Whether a core is on its way out: what has not started is saved and stays queued (R186, R328). -/
def Core.leaving (x : Core) : Bool := x.run.preempt && !x.xch.xtag.getLsbD 8

/-! ### What an ordered access waits for (R136, R144, R145, R202) -/

/-- Whether a range reaches a slot. -/
def inWell (r : Nat × Nat) : Bool := decide (0x40000 < r.1 + r.2)
/-- Whether a range reaches a slot of the core that is mapped to a SHARED well. -/
def Core.inShared (x : Core) (r : Nat × Nat) : Bool :=
  (List.range 8).any (fun k => bankV (x.bankmap k) && bankSt (x.bankmap k) == 1 && inSlot k r)
/-- Whether a queued command writes local memory. -/
def storesLocal (i : Instr) : Bool := match i with | .vstl .. | .mst .. => true | _ => false
/-- Whether a release waits for a queued command: at CORE scope for every local access, at a wider one for stores to a
well and for accesses to a SHARED one (R136). -/
def Core.releaseWaits (x : Core) (core : Bool) (i : Instr) (rs : List (Nat × Nat)) : Bool :=
  rs.any (fun r => core || x.inShared r || (storesLocal i && inWell r))
/-- Whether the local accesses of queued commands keep a release of any context of the core from going on (R136). -/
def Core.queueHolds (x : Core) (core : Bool) : Bool :=
  x.vec.queue.any (fun e => x.releaseWaits core e.instr e.ranges)
    || x.mat.queue.any (fun e => x.releaseWaits core e.instr e.ranges)

/-- Whether an accepted access to local memory, under either of its names, is still to be performed: in the vector or
matrix queue or an engine (R145). -/
def Core.localPending (x : Core) : Bool :=
  !x.vecRanges.isEmpty || !x.matRanges.isEmpty
    || x.vec.queue.any (fun e => idOf (opAt e.ops 0) == aliasId)
    || x.engs.any (fun e => [e.dst, e.src].any (fun a => idOf a == 0 || idOf a == aliasId))

/-- Whether a queued command, an engine command or a transfer of the core touches a slot (R149, R222). -/
def Core.slotBusy (x : Core) (c slot : Nat) : Bool :=
  (x.vecRanges ++ x.matRanges ++ x.engs.flatMap (EngCmd.ranges c) ++ (x.xch.sends.filter (fun (e : Xfer) => !e.done)).map (fun (e : Xfer) => (e.src, 256))
    ++ x.xch.contrib.map (fun (e : Contrib) => (e.src, 256))).any (inSlot slot)

end Sys2Proof.Machine
end

