-- ==== Sys2Proof/Machine/Ops.lean ====
section
/-!
DEFINITION. The operations that instructions share: line fetch and the PC queue (R17, R64 to R68, R127), retirement
with nullification and the signature check (R68, R70), taking an exception and returning from it (R114, R126, R128,
R414), device-level faults (R380) and waiting.
-/
namespace Sys2Proof.Machine

/-! ### Lines and the PC queue -/

/-- Line address of a head. -/
def lineOf (a : Word) : Word := a &&& ~~~(63#64)
/-- Head index of a head address (R64). -/
def headIdx (a : Word) : Nat := bits a 5 1

/-- Read a line of the mesh alias: the local memory of the core it names (R230). -/
def State.fetchAlias (s : State) (t la : Nat) : State × LineRead :=
  match s.portFault t la 64 false with
  | some _ => (s, .bad 2)
  | none =>
    let r := s.localRead t la 64
    (r.1, if r.2.2.isSome then .bad 4 else .ok r.2.1)

/-- 32 bytes of a line read at its home, with the stores of its own core that the first-level cache and a context's
buffered stores still hold (R67; log 13). -/
def Core.patch (x : Core) (k sector : Nat) (bs : List Byte) : List Byte :=
  let base := match x.cache.lines.find? (fun l => l.addr == sector && l.dirty) with
    | some l => l.data
    | none => bs
  overlay (x.buffered k sector) 0 base

/-- What a home's answer to the read of a line means (R123's FETCH row). -/
def Core.lineAns (x : Core) (k sector : Nat) (r : Ans) : LineRead :=
  match r with
  | .ok bs => .ok (x.patch k sector (bs.take 32) ++ x.patch k (sector + 1) ((bs.drop 32).take 32))
  | .poison => .bad 4
  | .object => .bad 2
  | _ => .bad 3

/-- Read a line of an object at the home of its page. -/
def State.fetchHome (s : State) (c k : Nat) (la : Word) : State × LineRead :=
  let r := (s.obbUse c (idOf la)).rawRead c la 64 (s.coreAt c).cid
  (r.1, (s.coreAt c).lineAns k (la.toNat / 32) r.2)

/-- Read a line for a context (R67, R119, R129). -/
def State.fetch (s : State) (c k : Nat) (la : Word) : State × LineRead :=
  if idOf la = 0 then (s, .bad 1)
  else if (s.checkObject c (s.coreAt c).cid la 64).isSome then (s.obbUse c (idOf la), .bad 2)
  else if idOf la = aliasId then s.fetchAlias (offOf la / 2 ^ 20) (offOf la % 2 ^ 20)
  else s.fetchHome c k la

/-- succ (R64): the next head of the line read, or head 0 of the next line; an entry behind a line that cannot be
read is unformed (R127). Heads of one line share its read (R67). -/
def State.formSucc (s : State) (c k : Nat) (e : QEnt) : State × QEnt :=
  match e.line with
  | .ok l =>
    if headIdx e.addr + 1 < lineH l then (s, { addr := e.addr + 2, line := e.line })
    else
      let a := lineOf e.addr + 64
      let (s, r) := s.fetch c k a
      (s, { addr := a, line := r })
  | _ => (s, {})

/-- The entry of a transfer's target, or of a context's entry line: TGT is read when it issues (R18, R65). -/
def State.formTarget (s : State) (c k : Nat) (t : Word) : State × QEnt :=
  let (s, r) := s.fetch c k (lineOf t)
  (s, { addr := t, target := true, line := r })

/-- A context's queue, partial signature and nothing else, set to begin at a line (R18, R126). -/
def State.beginAt (s : State) (c k : Nat) (a : Word) (tgt : Bool) : State :=
  let (s, q0) := s.formTarget c k a
  let (s, q1) := s.formSucc c k q0
  let (s, q2) := s.formSucc c k q1
  s.modCtx c k (fun x => { x with q0 := { q0 with target := tgt }, q1 := q1, q2 := q2, p := 0xFFFF })

/-- The head and tail of a queue entry as decoded; INJECT.DEC flips bits of the head (R68, R122). -/
def Ctx.shown (x : Ctx) : Enc :=
  match x.q0.line with
  | .ok l => ⟨lineHead l (headIdx x.q0.addr) ^^^ x.decFlip.toNat, lineTail l (headIdx x.q0.addr)⟩
  | _ => ⟨0, 0⟩

/-- The instruction at Q0 as decoded, if it is one. -/
def Ctx.decoded (x : Ctx) : Option Instr := match decode x.shown.head x.shown.tail with | .ok i => some i | .error _ => none

/-- The partial signature after the head at Q0 has passed decode (R68). -/
def Ctx.sigAfter (x : Ctx) : BitVec 16 :=
  match x.q0.line with
  | .ok l =>
    match lineWords l (headIdx x.q0.addr) with
    | w :: ws => sigFrom x.p ((w ^^^ x.decFlip) :: ws)
    | [] => x.p
  | _ => x.p

/-- The decode words of the heads after the one at Q0: they pass as shadow heads at a line exit (R68). -/
def shadowWords (l : Line) (k : Nat) : List (BitVec 16) :=
  (List.range (lineH l - (k + 1))).flatMap (fun j => lineWords l (k + 1 + j))

/-- Flip bits of the first of some decode words (R122). -/
def flipFirst (f : BitVec 16) : List (BitVec 16) → List (BitVec 16)
  | [] => []
  | w :: ws => (w ^^^ f) :: ws

/-- What Q0 leaves behind as it moves: P, the mismatch found, and the flips that no decode word has met. -/
structure Moved where
  p     : BitVec 16
  fault : Option (BitVec 16 × BitVec 16 × Word)
  flip  : BitVec 16

/-- Q0 moves to another entry: at a line exit the shadow heads enter P, P is compared when SIGEN is 1, and a fresh
P begins (R68, R70), at whatever head the queue enters the line (log 72). Flips ordered for the next decode word strike
the first shadow head (R122). -/
def sigMove (q : QEnt) (p : BitVec 16) (next : QEnt) (flip : BitVec 16) : Moved :=
  match q.line with
  | .ok l =>
    let k := headIdx q.addr
    if next.addr = q.addr + 2 ∧ k + 1 < lineH l then ⟨p, none, flip⟩
    else
      let ws := shadowWords l k
      let p := sigFrom p (flipFirst flip ws)
      let stored := BitVec.ofNat 16 (lineSig l)
      ⟨0xFFFF, if lineSigen l && p != stored then some (p, stored, lineOf q.addr) else none, if ws.isEmpty then flip else 0⟩
  | _ => ⟨0xFFFF, none, flip⟩

/-- The annul bit that a transfer gives both of its delay slots (R17, R100). -/
def nullifies (taken : Bool) (n : Nullify) : Bool :=
  match n with
  | .plain => false
  | .nt => taken
  | .nn => !taken

/-- An EPCQ value of an entry: its address, with the annul bit in bit 0; 0 for an unformed entry (R24, R127). Bit 0 of a
target of JR or HSTART that has one is not kept: EPCQ0 shows the annul bit there (log 72). -/
def QEnt.save (e : QEnt) : Word :=
  match e.line with
  | .unformed => 0
  | _ => (e.addr &&& ~~~(1#64)) ||| w64 e.annul.toNat

/-- An entry restored from an EPCQ value, behind the entry before it (R114, R127, R130); `t` when it is a target whose
TGT is still to be read (log 70). -/
def State.restoreEnt (s : State) (c k : Nat) (v : Word) (before : Option QEnt) (t : Bool) : State × QEnt :=
  let a := v &&& ~~~(1#64)
  match before with
  | some b =>
    if a = 0 then s.formSucc c k b
    else if a = b.addr + 2 ∧ lineOf a = lineOf b.addr then (s, { addr := a, annul := v.getLsbD 0, target := t, line := b.line })
    else
      let (s, r) := s.fetch c k (lineOf a)
      (s, { addr := a, annul := v.getLsbD 0, target := t, line := r })
  | none =>
    let (s, r) := s.fetch c k (lineOf a)
    (s, { addr := a, annul := v.getLsbD 0, target := t, line := r })

/-- The three entries restored (R114). -/
def State.restoreQueue (s : State) (c k : Nat) (v0 v1 v2 : Word) (m : BitVec 3) : State × QEnt × QEnt × QEnt :=
  let (s, q0) := s.restoreEnt c k v0 none (m.getLsbD 0)
  let (s, q1) := s.restoreEnt c k v1 (some q0) (m.getLsbD 1)
  let (s, q2) := s.restoreEnt c k v2 (some q1) (m.getLsbD 2)
  (s, q0, q1, q2)

/-- What a context's retirement clears: the wait, and what it carried. -/
def Ctx.settle (x : Ctx) : Ctx := 
  { x with wait := none, page := none, pageBad := false, pagePoison := false, fetching := false, aux := 0, decFlip := 0, payload := [],
           acted := true, awaits := false }

/-- The context after the return of R114: queue, P, ARRIVED and CSTAT from the saved registers. P is ESIG.CRC at every
head, head 0 included, where R68 alone would start it at 0xFFFF (log 71). -/
def Ctx.returned (x : Ctx) (q0 q1 q2 : QEnt) : Ctx :=
  { x.settle with q0 := q0, q1 := q1, q2 := q2, p := x.esig.setWidth 16, arrived := x.esig.getLsbD 17,
                  cstat := cstatReturn x, eret := 0 }

/-- The return of R114 in the issuing context, as its second delay slot retires or as a handler returns at once. -/
def State.returnNow (s : State) : State :=
  let x := s.me
  let (s, q0, q1, q2) := s.restoreQueue s.core s.ctx x.epcq0 x.epcq1 x.epcq2 x.marks
  s.modMe (fun x => x.returned q0 q1 q2)

/-- Retirement of the instruction at Q0 (R17): `taken` when it is a transfer that transferred, with its target; `flip`
holds the bits that an INJECT.DEC orders flipped in the next decode word (R122). -/
def State.retireWith (s : State) (taken : Bool) (target : Option Word) (n : Nullify) (flip : BitVec 16 := 0) : State :=
  let c := s.core
  let k := s.ctx
  let x := s.me
  let nul := !x.q0.annul && nullifies taken n
  if x.eret = 1 then
    -- the second delay slot of an ERET: the line being left is checked first (R114)
    let (s, q0, q1, q2) := s.restoreQueue c k x.epcq0 x.epcq1 x.epcq2 x.marks
    let m := sigMove x.q0 x.sigAfter q0 flip
    s.modMe (fun x => { x.returned q0 q1 q2 with sigFault := m.fault, decFlip := m.flip })
  else
    let q0 := { x.q1 with annul := x.q1.annul || nul }
    let q1 := { x.q2 with annul := x.q2.annul || nul }
    let m := sigMove x.q0 x.sigAfter q0 flip
    let (s, q2) := match target with
      | some t => s.formTarget c k t
      | none => s.formSucc c k x.q2
    s.modMe (fun x => { x.settle with
      q0 := q0, q1 := q1, q2 := q2, p := m.p, sigFault := m.fault, decFlip := m.flip, eret := x.eret - 1 })

/-- Retirement of an instruction that does not transfer. -/
def State.retire (s : State) : State := s.retireWith false none .plain

/-- Retirement of a control transfer (R17, R100). -/
def State.transfer (s : State) (taken : Bool) (target : Word) (n : Nullify) : State :=
  s.retireWith taken (if taken then some target else none) n

/-- Write a result and retire. -/
def State.result (s : State) (a : GReg) (v : Word) : State := (s.setG a v).retire

/-! ### Latencies (R88) -/

/-- Whether the last result of a register cannot be read yet at a CYCLE; no latency is longer than 36 cycles (R88). -/
def Ctx.late (x : Ctx) (cycle : Word) (r : Nat) : Bool :=
  match sfind x.due r with
  | some t => decide (0 < (t - cycle).toNat ∧ (t - cycle).toNat ≤ 36)
  | none => false
/-- Whether every result of a context can be read (R88). -/
def Ctx.allRead (x : Ctx) (cycle : Word) : Bool := !(List.range 32).any (x.late cycle)
/-- Write a result that can be read n cycles after this one, and retire (R88). -/
def State.resultIn (s : State) (n : Nat) (a : GReg) (v : Word) : State :=
  let t := s.here.cycle + w64 n
  (s.modMe (fun x => if a = 0 then x else { x with due := sput x.due a.toNat t })).result a v
/-- Cycles of a division by the significant bits of its dividend (R88). -/
def divCycles (x : Nat) : Nat := min 36 (4 + ((if x = 0 then 0 else Nat.log2 x + 1) + 1) / 2)

/-! ### Taking an exception (R123 to R128, R414) -/

/-- ECAUSE of a cause (R24, R123). -/
def Cause.word (z : Cause) : Word := w64 (z.code + z.detail * 65536)

/-- SIGEN of the line of Q0, 0 when it cannot be read (R126). -/
def Ctx.sigen (x : Ctx) : Bool := match x.q0.line with | .ok l => lineSigen l | _ => false

/-- The queue entries that are targets not entered yet; one at Q0 whose CONTROL fault is the cause has been (R65, R124;
log 70). -/
def Ctx.unread (x : Ctx) (z : Cause) : BitVec 3 :=
  BitVec.ofNat 3 ((x.q0.target && z.code != 0x04).toNat + x.q1.target.toNat * 2 + x.q2.target.toNat * 4)

/-- The save registers, ARRIVED and CSTAT as trap entry leaves them (R126). A return that an ERET with INTRAP = 0 has begun
is given up (log 72). -/
def Ctx.saved (x : Ctx) (z : Cause) : Ctx :=
  { x.settle with
    epcq0 := x.q0.save, epcq1 := x.q1.save, epcq2 := x.q2.save,
    esig := w64 (x.p.toNat + x.sigen.toNat * 65536 + x.arrived.toNat * 131072), arrived := false,
    ecause := z.word, eaddr := z.addr, marks := x.unread z, cstat := cstatEntry x, eret := 0, sigFault := none, trapNext := none }

/-- A device-level fault of the launch a core runs is due (R380). -/
def State.failLaunch (s : State) (c kind : Nat) (addr ecause : Word) : State :=
  s.pushFront (.deviceLevelFault (s.coreAt c).cid kind addr c ecause)

/-- Trap entry in the issuing context (R126). At the runtime's default handler an interrupt returns at once, and a
synchronous cause makes the launch's job context take a device-level fault (R414). -/
def State.trapEntry (s : State) (z : Cause) : State :=
  let s := s.modMe (fun x => x.saved z)
  if s.here.evecDefault then
    if z.code = 0x30 then s.returnNow
    else s.failLaunch s.core (if z.code = 0x11 then 4 else 14) z.addr z.word
  else s.beginAt s.core s.ctx (lineOf s.here.evec) false

/-- What context 0 had asked of the open phase and waits for the step of is asked again after the interrupt (R159). -/
def XchUnit.withdraw (x : XchUnit) : XchUnit :=
  { x with
    sends := x.sends.filter (fun e => !(e.ctx == 0 && e.beat == 0 && !e.done))
    wins := x.wins.filter (fun w => !(w.ctx == 0 && !w.done))
    contrib := x.contrib.filter (fun e => !(e.ctx == 0 && e.data.isEmpty)) }

/-- Context 0 takes the interrupt of an IPEND bit, which is pending no longer (R125, R225). -/
def State.takeBit (s : State) (b : Nat) : State :=
  (s.modHere (fun x => { x with ipend := x.ipend &&& ~~~(1#64 <<< b), xch := x.xch.withdraw })).trapEntry { code := 0x30, detail := b }

/-- Whether context 0 owes a queue fault it may take now (R185). -/
def Core.queueFaulted (x : Core) (intrap : Bool) : Bool := x.vec.fault.isSome || (x.mat.fault.isSome && !intrap)

/-- A helper that has become EXITED: its PC queue is discarded (R11). -/
def Ctx.ended (x : Ctx) (status : Word) : Ctx :=
  { x.settle with st := .exited, status := status, q0 := {}, q1 := {}, q2 := {}, eret := 0, sigFault := none, trapNext := none }

/-- A helper stops for good with an exit status (R11, R110, R128): event bit 3 follows (R120). -/
def State.exitHelper (s : State) (c k : Nat) (status : Word) : State := (s.modCtx c k (fun x => x.ended status)).event c 3

/-- Whether the launch of the issuing core is draining (R326, R327). -/
def State.drainsHere (s : State) : Bool := match s.here.run.node with | some n => (s.node n).st == .draining | none => false
/-- A double trap: the save registers stay, and the context stops (R128); the record names the ECAUSE that stands (R383). A
launch that drains fails by a helper's too (R335). -/
def State.doubleTrap (s : State) (z : Cause) : State :=
  if s.ctx = 0 then s.failLaunch s.core 3 z.addr s.me.ecause
  else
    let t := s.exitHelper s.core s.ctx (w64 (2 ^ 63 + 0xFF))
    if s.drainsHere then t.failLaunch s.core 3 z.addr s.me.ecause else t

/-- A boundary waits until every instruction issued before it has written its result (R88); the vector queue is part of
issue at a trap entry of context 0, which waits until it is empty (R186). -/
def State.boundaryReady (s : State) : Bool := s.me.allRead s.here.cycle && (s.ctx != 0 || s.here.vec.queue.isEmpty)

/-- Raise a synchronous cause of the instruction at Q0: it has no effect and stands in EPCQ0 (R126). While the boundary
is not ready the instruction waits, and reaches issue again (R88, R186). -/
def State.raise (s : State) (z : Cause) : State :=
  if !s.boundaryReady then s
  else if s.me.intrap then s.doubleTrap z
  else s.trapEntry z

/-- Raise a cause after retirement, unless the line exit it made takes SIGNATURE first (R113, R124); it waits for its
boundary (R88, R186). -/
def State.raiseAfter (s : State) (z : Cause) : State :=
  if s.me.sigFault.isSome then s
  else if s.boundaryReady then s.raise z
  else s.modMe (fun x => { x with trapNext := some (z.word, z.addr) })

/-- The cause of an undefined or forbidden encoding at Q0: its head and tail in DETAIL (R8, R123). -/
def Ctx.illegal (x : Ctx) : Cause :=
  { code := 0x01, detail := x.shown.head % 65536 + x.shown.tail % 2 ^ 32 * 65536 }
/-- Take the precise ILLEGAL trap. -/
def State.illegal (s : State) : State := s.raise s.me.illegal

/-! ### Waiting -/

/-- The issuing context waits in an instruction, and is not ready meanwhile (R13). -/
def State.hold (s : State) (i : Instr) (aux : Word) : State :=
  s.modMe (fun x => { x with wait := some i, since := s.now, aux := aux })

/-- The issuing context waits for the fault reply of the page of an address; a helper becomes WAITING (R11, R137, R343). -/
def State.pageWait (s : State) (a : Word) : State :=
  let c := s.core
  let k := s.ctx
  let id := idOf a
  let pg := offOf a / 65536
  (s.modMe (fun x => { x with page := some (id, pg), aux := a, st := if k = 0 then x.st else .waiting })).joinPage id pg (.ctx c k)

/-- Go on with what a home answered to an access at an address, or take its fate (R137). -/
def State.onAns (s : State) (r : Ans) (a : Word) (f : State → List Byte → State) : State :=
  match r with
  | .ok bs => f s bs
  | .poison => s.raise { code := 0x0B, addr := a }
  | .absent => s.pageWait a
  | .object => s.raise { code := 0x09, addr := a }
  | .stall | .held => s

/-- The release action of a context at a scope: its buffered stores are accepted, and what queued commands have still to
perform in local memory, where all contexts of a core share one order (R20, R243), and for context 0 in global memory;
false while some are not (R136, R202, R234). -/
def State.release (s : State) (c k : Nat) (sc : Scope) : State × Bool :=
  let (s, ok) := s.bufDrainCtx c k
  (s, ok && !((k == 0 && (s.coreAt c).vecPending) || (s.coreAt c).queueHolds (sc == .core)))

/-- Go on after the release action of the issuing context at a scope, or wait until its stores are accepted (R136). -/
def State.onRelease (s : State) (sc : Scope) (f : State → State) : State :=
  match s.release s.core s.ctx sc with
  | (s, true) => f s
  | (s, false) => s

/-- Raise the first failing check, or go on. -/
def State.checked (s : State) (z : Option Cause) (f : State → State) : State :=
  match z with
  | some z => s.raise z
  | none => f s

end Sys2Proof.Machine
end

