-- ==== Sys2Proof/Machine/Trees.lean ====
section
/-!
DEFINITION. The graphs of Ductus and the rounds counted on them: edge sets with their roots, control links, and the clock on
which each node counts (spec/12 R278, R280, R281, R283, R284, R295). The firmware's choices are free values; a choice that
breaks the rules it is bound by is not taken (log 9).
-/
namespace Sys2Proof.Machine

/-! ### DUCTCFG in force (R295) -/

/-- Round length of an instance in steps (R280). -/
def State.roundLen (s : State) (sc : Scope) : Nat :=
  match sc with | .oct | .die => 16 | .pkg => 48 | _ => bits s.ductEff 63 48
/-- D_cap (R281). -/
def State.dcap (s : State) (sc : Scope) : Nat := match sc with | .pod => bits s.ductEff 47 44 | _ => 3
/-- The value of DUCTCFG that a round runs under that began some steps ago: a change is in force from the next round on
(R295). The log of changes has the newest first. -/
def State.ductSince (s : State) (pos : Nat) : Word :=
  s.ductLog.foldr (fun e (v : Option Word) => if s.now ≤ e.1 + pos then some (v.getD e.2) else none) none |>.getD s.ductcfg

/-! ### Nodes (R278) -/

/-- Whether a failed chunk of a POD collective is done again on the other tree: bit 1 of the collective format (R404, R407). -/
def State.podRedo (s : State) : Bool := s.collFmt.2.getLsbD 1

/-- The value of DUCTCFG whose PODRLEN and PODDCAP govern the next POD round: that of the module at the root of the POD
instance's primary tree (R295). -/
def State.podCfg (s : State) (rootHere : Bool) : Word :=
  match s.podRoot with
  | some w => if rootHere then s.ductcfg else setBits s.ductcfg 63 44 (bits w 63 44)
  | none => s.ductcfg

/-- Nodes of an instance (R278). -/
def State.nodeCount (s : State) (sc : Scope) : Nat :=
  match sc with | .oct => 8 | .die => 242 | .pkg => 16 | _ => if s.refused then 1 else max 1 s.podsize
/-- The node of a core in its instance. -/
def State.nodeIn (s : State) (sc : Scope) (c : Nat) : Nat :=
  match sc with | .oct => posOf c | .die => routerOf c | .pkg => dieOf c | _ => s.modno
/-- Whether the edge sets leave out a part of an instance: a router that was dead as the die's routes were last computed, a
die or a module that has been named (R389, R390). -/
def State.nodeDead (s : State) (i : Inst) (v : Nat) : Bool :=
  match i.scope with
  | .die => (s.die i.idx).routeDead.contains v
  | .pkg => (s.die v).named
  | .pod => s.deadMods.contains v
  | _ => false
/-- The nodes of an instance that have not been named dead, in order. -/
def State.nodes (s : State) (i : Inst) : List Nat := (List.range (s.nodeCount i.scope)).filter (fun v => !s.nodeDead i v)

/-! ### Edge sets (R281; log 9) -/

/-- An edge, its lower node first. -/
def edge (u v : Nat) : Nat × Nat := (min u v, max u v)
/-- Whether an edge set may use the edge of two nodes: a die link at PKG scope, and no link named LINK (R1, R389). -/
def State.carries (s : State) (i : Inst) (u v : Nat) : Bool :=
  u != v && (match i.scope with
    | .die => !s.deadLinks.contains (.router i.idx u v) && !s.deadLinks.contains (.router i.idx v u)
    | .pkg => s.linkOk u v
    | _ => true)

/-- The root that the firmware has computed for tree t (0 primary, 1 alternate). -/
def State.draftRoot (s : State) (i : Inst) (t : Nat) : Nat :=
  (s.nodes i).getD (Config.treeRoot i.scope.num i.idx (s.inst i).edges t % (s.nodes i).length) 0
/-- The parent that it has computed: the root, or for an outer node one of the nodes next to the root. -/
def State.draftUp (s : State) (i : Inst) (t v : Nat) : Nat :=
  let r := s.draftRoot i t
  let g := (s.inst i).edges
  let ms := (s.nodes i).filter (fun u => u != r && Config.treeMid i.scope.num i.idx g t u)
  if v = r ∨ ms.contains v ∨ ms = [] then r
  else ms.getD (Config.treeUp i.scope.num i.idx g t v % ms.length) r
/-- The edges that it has computed for a tree. -/
def State.draftEdges (s : State) (i : Inst) (t : Nat) : List (Nat × Nat) :=
  ((s.nodes i).filter (· != s.draftRoot i t)).map (fun v => edge v (s.draftUp i t v))
/-- Whether no router of a die has more edges in the two sets than it has ports (R1). -/
def State.portsOk (s : State) (i : Inst) : Bool :=
  let es := s.draftEdges i 0 ++ s.draftEdges i 1
  i.scope != .die || (s.nodes i).all (fun v => decide ((es.filter (fun e => e.1 == v || e.2 == v)).length ≤ 17))
/-- Whether the two sets are as R281 bids: of edges that may be used, within a router's ports, and edge-disjoint but at PKG
scope, where no two sets within 2 edges of their roots are (log 9). Fewer than four nodes have no two disjoint sets. -/
def State.draftOk (s : State) (i : Inst) : Bool :=
  [0, 1].all (fun t => (s.draftEdges i t).all (fun e => s.carries i e.1 e.2)) && s.portsOk i
    && (i.scope == .pkg || decide ((s.nodes i).length < 4) || (s.draftEdges i 0).all (fun e => !(s.draftEdges i 1).contains e))

/-- A parent that keeps a node within 2 of a root by usable edges: the root, else the first node that joins the two. -/
def State.hang (s : State) (i : Inst) (ok : Nat → Nat → Bool) (r v : Nat) : Nat :=
  if ok r v then r else ((s.nodes i).find? (fun u => ok r u && ok u v)).getD r
/-- Root of the plain sets: the first node, and but at PKG scope the second for the alternate tree. -/
def State.plainRoot (s : State) (i : Inst) (t : Nat) : Nat := (s.nodes i).getD (if i.scope = .pkg then 0 else t) 0
/-- Parent in the plain primary set, which leaves the edge of the two roots free. -/
def State.plainUp0 (s : State) (i : Inst) (v : Nat) : Nat :=
  let a := s.plainRoot i 0
  s.hang i (fun x y => s.carries i x y && (i.scope == .pkg || edge x y != edge a (s.plainRoot i 1))) a v
/-- The sixteen routers next to the root in a plain set of a die, those of the two sets apart. -/
def State.plainMids (s : State) (i : Inst) (t : Nat) : List Nat :=
  let a := s.plainRoot i 0
  let b := s.plainRoot i 1
  let next (r : Nat) (used : List Nat) : List Nat :=
    ((s.nodes i).filter (fun v => v != a && v != b && !used.contains v && s.carries i r v)).take 16
  if t = 0 then next a [] else next b (next a [])
/-- Parent in a plain set of a die, which gives no router more than 17 edges of the two: each other router hangs from one of
those sixteen in turn, and no two of different sets hang from each other. -/
def State.dieUp (s : State) (i : Inst) (t v : Nat) : Nat :=
  let r := s.plainRoot i t
  let ms := s.plainMids i t
  if v = r ∨ ms.contains v then r
  else
    let k := match (s.plainMids i (1 - t)).findIdx? (· == v) with | some j => j + t | none => v
    (((List.range 16).map (fun j => ms.getD ((k + j) % ms.length) r)).find? (fun u => s.carries i u v)).getD r
/-- Parent in a pair of sets that keeps the rules: the alternate one uses no edge of the primary. -/
def State.plainUp (s : State) (i : Inst) (t v : Nat) : Nat :=
  if i.scope = .die then s.dieUp i t v
  else if t = 0 ∨ i.scope = .pkg then s.plainUp0 i v
  else
    let a := s.plainRoot i 0
    s.hang i (fun x y => s.carries i x y && !((x != a && s.plainUp0 i x == y) || (y != a && s.plainUp0 i y == x))) (s.plainRoot i 1) v

/-- Root of tree t (0 primary, 1 alternate). -/
def State.rootOf (s : State) (i : Inst) (t : Nat) : Nat := if s.draftOk i then s.draftRoot i t else s.plainRoot i t
/-- Parent in the edge set; the root's is the root itself. -/
def State.parentOf (s : State) (i : Inst) (t v : Nat) : Nat :=
  if s.draftOk i then s.draftUp i t v else if v = s.rootOf i t then v else s.plainUp i t v
/-- True distance from the root. -/
def State.trueDist (s : State) (i : Inst) (t v : Nat) : Nat :=
  if v = s.rootOf i t then 0 else if s.parentOf i t v = s.rootOf i t then 1 else 2
/-- Neighbours in the edge set. -/
def State.neighbours (s : State) (i : Inst) (t v : Nat) : List Nat :=
  (s.nodes i).filter (fun u =>
    u != v && ((u != s.rootOf i t && s.parentOf i t u == v) || (v != s.rootOf i t && s.parentOf i t v == u)))

/-! ### Control links (R283, R284) -/

/-- Whether the firmware's links, the trees' edges among them, join two nodes. -/
def State.joined (s : State) (i : Inst) (u v : Nat) : Bool :=
  u != v && ((s.neighbours i 0 v).contains u || (s.neighbours i 1 v).contains u
    || Config.linked i.scope.num i.idx u v || Config.linked i.scope.num i.idx v u)
/-- Nodes joined to a clock node by control links: a die's row and column at PKG scope, the routers that its router is linked
to at DIE scope, the modules it exchanges control messages with at POD scope. -/
def State.clockLinks (s : State) (i : Inst) (v : Nat) : List Nat :=
  (s.nodes i).filter (fun u => match i.scope with
    | .pkg => s.linkOk u v
    | .die => s.netOk i.idx u v
    | _ => s.joined i u v)

/-! ### Rounds (R280) -/

/-- POD time (R280): 700 times the coarse count, and the steps since it last advanced. -/
def State.podTime (s : State) : Word := (w64 (s.now / 700) + s.podOff) * 700 + w64 (s.now % 700)
/-- The clock on which a node counts rounds: its router's STEP, its die's, or POD time (R280). -/
def State.nodeStep (s : State) (i : Inst) (v : Nat) : Word :=
  match i.scope with
  | .oct => s.stepAt (i.idx / 240) (i.idx % 240)
  | .die => s.stepAt i.idx v
  | .pkg => s.stepAt v 0
  | _ => s.podTime
/-- Whether the nodes of an instance may count from different STEPs. -/
def State.uneven (s : State) (i : Inst) : Bool :=
  match i.scope with
  | .die => !(s.die i.idx).stepOff.isEmpty
  | .pkg => s.dies.any (fun d => !d.2.stepOff.isEmpty)
  | _ => false
/-- The clock of the root of an instance's primary tree, by which its rounds are counted. -/
def State.rootStep (s : State) (i : Inst) : Word := s.nodeStep i (if s.uneven i then s.rootOf i 0 else 0)
/-- Step of the round of an instance at its root, and its length. -/
def State.roundPos (s : State) (i : Inst) : Nat × Nat :=
  let n := max 1 (s.roundLen i.scope)
  ((s.rootStep i).toNat % n, n)
/-- The nodes whose own round begins now (R280). -/
def State.dueNodes (s : State) (i : Inst) : List Nat :=
  if s.uneven i then (s.nodes i).filter (fun v => (s.nodeStep i v).toNat % max 1 (s.roundLen i.scope) == 0) else s.nodes i

/-- C, the confirmation count, as an instance's round has it (R290, R295). -/
def State.confirm (s : State) (i : Inst) : Nat := bits (s.ductSince (s.roundPos i).1) 43 40
/-- Scope timeout of waits at an instance in steps: TIMEOUT is in microseconds of 700 steps (R172, R295). -/
def State.timeout (s : State) (i : Inst) : Nat := bits (s.ductSince (s.roundPos i).1) 31 0 * 700

/-! ### Ring rounds (R280, R294) -/

/-- TOKK at its reset (R294). -/
def tokkReset : Word := w64 (65536 * 2 ^ 18 + 4 * 2 ^ 10 + 64)
/-- A core's copy of TOKK. -/
def Ring.tokkOf (r : Ring) (c : Nat) : Word := sget tokkReset r.tokk c
/-- The value the ring runs under: node 0's copy as the last ring round found it (R294). -/
def Ring.tokk0 (r : Ring) : Word := r.run
/-- RRND of a TOKK value. -/
def tokkRrnd (v : Word) : Nat := bits v 17 10
/-- Steps of a ring's round gone by, on the STEP of a member (R280). -/
def State.memberPos (s : State) (r : Ring) (c : Nat) : Nat := (s.stepOf c).toNat % (16 * tokkRrnd r.tokk0)
/-- Steps of a ring's round gone by at its node 0, by which its rounds are counted (R280). -/
def State.ringPos (s : State) (id : RingId) : Nat :=
  let r := s.ring id
  match r.mb with
  | c :: _ => s.memberPos r c
  | [] => 1
/-- The members whose own round begins now (R280). -/
def State.dueMembers (s : State) (r : Ring) : List Nat := r.mb.filter (fun c => s.memberPos r c == 0)
/-- C as a ring's round has it. -/
def State.confirmRing (s : State) (id : RingId) : Nat := bits (s.ductSince (s.ringPos id)) 43 40

end Sys2Proof.Machine
end

