-- ==== Sys2Proof/Machine/Operands.lean ====
section
/-!
DEFINITION. Operand forms: effective and local addresses (R134, R139), displacements (R65), sizes, and the register
images of numbers (R96).
-/
namespace Sys2Proof.Machine

/-- The outcome of a meaning. -/
abbrev Result := Host.Outcome State Fault Refusal

/-- The target of a displacement, which counts lines from the line of the transfer's head (R65, R100). -/
def State.lineTarget {w : Nat} (s : State) (disp : BitVec w) : Word := lineOf s.me.q0.addr + (disp.signExtend 64) * 64

/-- Extend a loaded value (R135): LDN and LDLN with zeros, LD and LDL with the sign. -/
def extendLoad (zero : Bool) (n : Nat) (bs : List Byte) : Word := if zero then zext (leNat bs) (8 * n) else sext (leNat bs) (8 * n)

/-! ### Register images (R96) -/

/-- The format of a scalar type (R97). -/
def fmtOf (t : FType) : Fmt := match t with | .f32 => .f32 | .f16 => .f16 | .bf => .bf
/-- The value of a register's image: bits above it are ignored. -/
def fval (t : FType) (x : Word) : FVal := dec (fmtOf t) (x.toNat % 2 ^ (fmtOf t).width)
/-- The image of a value, rounded to nearest even; the rest of the register is zero. -/
def fimg (t : FType) (v : FVal) : Word := w64 (enc (fmtOf t) v .ne)
/-- 1 for true, 0 for false. -/
def b2w (b : Bool) : Word := if b then 1 else 0

/-- The format of a floating conversion code (R99). -/
def cvtFmtOf (f : CvtFmt) : Fmt :=
  match f with | .f16 => .f16 | .bf => .bf | .e5 => .e5 | .e4 => .e4 | .e2 => .e2 | _ => .f32

/-- The value of a register in a conversion's source format (R96). -/
def cvtVal (f : CvtFmt) (x : Word) : FVal :=
  match f with
  | .i64 => .ofInt x.toInt
  | .n64 => .ofInt x.toNat
  | .i32 => .ofInt (x.setWidth 32).toInt
  | .n32 => .ofInt (x.setWidth 32).toNat
  | .e2 => fMul (dec .e2 (bits x 3 0)) (decE3M5 (bits x 11 4))
  | f => dec (cvtFmtOf f) (x.toNat % 2 ^ (cvtFmtOf f).width)

/-- The image of a value in a conversion's destination format (R99). -/
def cvtImg (f : CvtFmt) (v : FVal) (m : Rnd) : Word :=
  match f with
  | .i64 => BitVec.ofInt 64 (toIntSat v m (-2 ^ 63) (2 ^ 63 - 1))
  | .n64 => BitVec.ofInt 64 (toIntSat v m 0 (2 ^ 64 - 1))
  | .i32 => BitVec.ofInt 64 (toIntSat v m (-2 ^ 31) (2 ^ 31 - 1))
  | .n32 => BitVec.ofInt 64 (toIntSat v m 0 (2 ^ 32 - 1))
  | .e2 => w64 (e2Image v m)
  | f => w64 (enc (cvtFmtOf f) v m)

/-- The state of the generator of an element position; every one follows the last seed until it is drawn from (R44). -/
def Ctx.gen (x : Ctx) (i : Nat) : BitVec 32 := sget (srSeed x.srseed i) x.sr i
/-- SrNext(i) in the issuing context: the draw is the new state (R44). -/
def State.srDraw (s : State) (i : Nat) : State × BitVec 32 :=
  let d := srStep (s.me.gen i)
  (s.modMe (fun x => { x with sr := sput x.sr i d }), d)

/-- The class of a code, one hot (R97). -/
def fclass (F : Fmt) (code : Nat) : Word :=
  let quiet := code / 2 ^ (F.mbits - 1) % 2 == 1
  match dec F code with
  | .nan => if quiet then 1 <<< 9 else 1 <<< 8
  | .inf n => if n then 1 else 1 <<< 7
  | .fin n m _ =>
    if m = 0 then (if n then 1 <<< 3 else 1 <<< 4)
    else if m < 2 ^ F.mbits then (if n then 1 <<< 2 else 1 <<< 5)
    else (if n then 1 <<< 1 else 1 <<< 6)

end Sys2Proof.Machine
end

