-- ==== Sys2Proof/Machine/Launch.lean ====
section
/-!
DEFINITION. The parts of a core's launch that instructions and events share: lane grants (R189), wells and slots
(R152, R153, R228), membership of units and rings (R311), the end of a part and of a launch (R317), and the
device-level fault (R380, R381).
-/
namespace Sys2Proof.Machine

/-! ### Lane grants (R188 to R190) -/

/-- VSHARE's weight of a position (R190). -/
def weightOf (share : Word) (q : Nat) : Nat := bits share (4 * q + 3) (4 * q)

/-- One group handed out by Redeal, if any: wants and grants are by position (R189). -/
def dealOne (P : List Nat) (w want : Nat → Nat) (g : SMap Nat) : Option Nat :=
  let c := P.filter (fun q => decide (sget 0 g q < want q))
  let cw := c.filter (fun q => decide (0 < w q))
  let best (l : List Nat) (better : Nat → Nat → Bool) : Option Nat :=
    l.foldl (fun b q => match b with | none => some q | some r => if better q r then some q else some r) none
  if cw.isEmpty then best c (fun q r => decide (sget 0 g q < sget 0 g r))
  else best cw (fun q r => decide ((sget 0 g q + 1) * w r < (sget 0 g r + 1) * w q))

/-- Deal a pool of groups. -/
def dealAll (P : List Nat) (w want : Nat → Nat) : Nat → SMap Nat → SMap Nat
  | 0, g => g
  | pool + 1, g =>
    match dealOne P w want g with
    | none => g
    | some q => dealAll P w want pool (sput g q (sget 0 g q + 1))

/-- Redeal(P) in an octet (R189). -/
def State.redeal (s : State) (o : Nat) (P : List Nat) : State :=
  let core (q : Nat) : Core := s.coreAt (8 * o + q)
  let others := (List.range 8).filter (fun q => !P.contains q)
  let pool := 16 - (others.map (fun q => (core q).vec.grant)).sum
  let g := dealAll P (weightOf (s.oct o).vshare) (fun q => (core q).vec.want) pool []
  each P s (fun s q => s.modCore (8 * o + q) (fun x =>
    { x with vec := { x.vec with grant := sget 0 g q, vlen := 8 * sget 0 g q } }))

/-- Re-deal the released members of a barrier, octet by octet (R189). -/
def State.redealMembers (s : State) (ms : List Nat) : State :=
  each ((ms.map octOf).eraseDups) s (fun s o => s.redeal o ((ms.filter (fun c => octOf c == o)).map posOf))

/-! ### Pounce (R362) -/

/-- Whether a half runs a command in a step. -/
def Octet.halfBusy (o : Octet) (now h : Nat) : Bool := match sfind o.busy h with | some (_, t) => decide (now < t) | none => false
/-- Whether a half runs pounce in a step: it pounces at the level and is idle (R362). -/
def Octet.pouncing (o : Octet) (now h : Nat) : Bool := (if h = 0 then o.h0 else o.h1) && !o.halfBusy now h
/-- The half with the lower wear count, H0 on a tie (R210, R373). -/
def Octet.fresher (o : Octet) : Nat := if sget 0 o.wear 1 < sget 0 o.wear 0 then 1 else 0
/-- Enter a pounce level: both halves at 2, the less worn at 1, none at 0. -/
def Octet.setLevel (o : Octet) (now l : Nat) : Octet :=
  let h := o.fresher
  { o with level := l, levelAt := now, h0 := decide (2 ≤ l) || (l == 1 && h == 0), h1 := decide (2 ≤ l) || (l == 1 && h == 1) }
/-- Whether an octet runs a PINNED launch. -/
def State.octPinned (s : State) (o : Nat) : Bool := (octCores o).any (fun c => (s.recOf c).pinned)
/-- Whether an octet may pounce for the governor's forecast: no PINNED launch runs there, and its die has not tripped
(R363, R413). -/
def State.mayPounce (s : State) (o : Nat) : Bool := !s.octPinned o && !(s.die (o / 240)).named
/-- Whether the estimate stands below PFLOOR (R362). -/
def State.belowFloor (s : State) : Bool := decide (bits s.gov.stat 63 48 < bits s.gov.eff 47 32)
/-- A release raises the level of its members' octets that ran a matrix command in the last 700 steps (R362). -/
def State.pounceAt (s : State) (ms : List Nat) : State :=
  if s.belowFloor then s
  else each ((ms.map octOf).eraseDups) s (fun s o =>
    if ([0, 1].any (fun h => (s.oct o).halfBusy (s.now - 700) h)) && s.mayPounce o then s.modOct o (fun x => x.setLevel s.now 2) else s)

/-! ### Slots and wells (R152, R153, R228) -/

/-- Whether a core other than `c` of the octet maps a well. -/
def State.mappedElsewhere (s : State) (c w : Nat) : Bool :=
  (octCores (octOf c)).any (fun d => d != c && (List.range 8).any (fun sl =>
    let b := (s.coreAt d).bankmap sl
    bankV b && bankWell b == w))

/-- A slot is mapped to a well; every tag and the slot's EXPECT are cleared, and a ring is emptied (R152, R165). -/
def State.mapSlot (s : State) (c slot w mode : Nat) (shared : Bool) : State :=
  let s := s.setBank c slot (mkBank (if shared then 1 else 0) mode w)
  let s := s.modWell c w (fun v => { v with st := if shared then .shared else .owned, tags := [], tagErr := [] })
  let s := s.resetExpect c slot
  if mode = 3 then s.modLoc c (fun l => { l with head := 0, tail := 0, recs := 0, recHead := 0, recScope := [] }) else s

/-- A slot is unmapped; the well is FREE when no other core maps it (R153). -/
def State.unmapSlot (s : State) (c slot : Nat) : State :=
  let b := (s.coreAt c).bankmap slot
  let s := s.resetExpect c slot
  if !bankV b then s
  else
    let s := s.setBank c slot 0
    if s.mappedElsewhere c (bankWell b) then s else s.modWell c (bankWell b) (fun v => { v with st := .free })

/-- The FREE well of an octet that the runtime or a resumption takes (R314, R334; log 11). -/
def State.pickWell (s : State) (c : Nat) : Option Nat :=
  let free := (List.range 32).filter (fun w => (s.well c w).st == .free)
  if free.isEmpty then none else free[Config.wellPick (octOf c) free.length % free.length]?

/-! ### Membership of units and rings (R311) -/

/-- The position in its round, and the round's length, that a write of membership bits goes by: its instance's, or that
of a ring as its node 0 counts it, the first member asked for where it has none (R280, R294). -/
def State.pendPos (s : State) (p : Pend) : Nat × Nat :=
  match p.ring with
  | none => let n := max 1 (s.roundLen p.inst.scope); ((s.rootStep p.inst).toNat % n, n)
  | some id =>
    let r := s.ring id
    let c := (r.mb.head?.orElse (fun _ => p.members.head?)).getD 0
    let n := max 1 (16 * tokkRrnd (r.tokkOf c))
    ((s.stepOf c).toNat % n, n)
/-- Whether a write of membership bits may be made now: between step 8 and step 15 of the round, of 16 (R311). -/
def State.quiet (s : State) (p : Pend) : Bool :=
  let (at_, n) := s.pendPos p
  decide (8 * n ≤ 16 * at_) && decide (16 * at_ ≤ 15 * n)
/-- The next step in which it may be made. -/
def State.quietStep (s : State) (p : Pend) : Nat :=
  let (at_, n) := s.pendPos p
  let next := (at_ + 1) % n
  s.now + 1 + (if 8 * n ≤ 16 * next ∧ 16 * next ≤ 15 * n then 0 else (n + (n + 1) / 2 - next) % n)

/-- Ask for membership bits to be set or cleared (R311). -/
def State.ask (s : State) (p : Pend) : State :=
  s.modSched (fun x => { x with pend := x.pend ++ [{ p with due := s.quietStep p }] })
/-- Ask for membership bits of a unit to be set or cleared. -/
def State.askUnit (s : State) (i : Inst) (u : Nat) (ms : List Nat) (set : Bool) : State :=
  s.ask { due := 0, inst := i, unit := u, members := ms, set := set }
/-- Ask for membership bits of a ring to be set or cleared. -/
def State.askRing (s : State) (r : RingId) (ms : List Nat) (set : Bool) : State :=
  s.ask { due := 0, inst := if r.k < 8 then ⟨.die, r.die⟩ else ⟨.pkg, 0⟩, unit := 0, ring := some r, members := ms, set := set }

/-- The write itself: MB and the unit's cached MASK in one step; a release also clears F, X and ACKED and writes no
phase and no CNT; an allocation writes nothing else (R311). -/
def State.writePend (s : State) (p : Pend) : State :=
  match p.ring with
  | some r => s.modRing r (fun x =>
      { x with mb := if p.set then sortBy (fun a b => decide (a ≤ b)) (x.mb ++ p.members).eraseDups else x.mb.filter (fun c => !p.members.contains c),
               pend := if p.set then x.pend else x.pend.filter (fun e => !p.members.contains e.1),
               held := if p.set then x.held else x.held.filter (fun e => !p.members.contains e.1)
               frozen := p.set && x.frozen })
  | none => s.modUnit p.inst p.unit (fun u =>
      let u := each p.members u (fun u c => u.modMemb c (fun m =>
        if p.set then { m with mb := true } else { m with mb := false, f := false, x := false, acked := false }))
      { u with mask := u.members, held := if p.set then u.held else false })

/-- The instances of a scope that a range of cores spans. -/
def instsOf (sc : Scope) (ms : List Nat) : List Inst := (ms.map (instOf sc)).eraseDups

/-- The units, exchange barriers and rings a record asks for, with their members (R311, R312). -/
def nodeUnits (r : NodeRec) : List (Inst × Nat × List Nat) :=
  let ms := (List.range r.lcores).map (r.lcore0 + ·)
  let scopes : List (Scope × Nat × Nat) := [(.oct, r.unitsOct, 8), (.die, r.unitsDie, 16), (.pkg, r.unitsPkg, 16), (.pod, r.unitsPod, 4)]
  scopes.flatMap (fun (sc, m, n) =>
    (instsOf sc ms).flatMap (fun i =>
      ((List.range n).filter (fun u => m / 2 ^ u % 2 == 1)).map (fun u => (i, u, ms.filter (holds i)))))
  ++ (if r.xb then [Scope.oct, .die, .pkg].flatMap (fun sc => (instsOf sc ms).map (fun i => (i, 31, ms.filter (holds i)))) else [])
/-- The rings a record asks for. -/
def nodeRings (r : NodeRec) : List (RingId × List Nat) :=
  let ms := (List.range r.lcores).map (r.lcore0 + ·)
  ((List.range 8).filter (fun k => r.ringsDie / 2 ^ k % 2 == 1)).flatMap (fun k =>
    (instsOf .die ms).map (fun i => ((⟨i.idx, k⟩ : RingId), ms.filter (holds i))))
  ++ ((List.range 2).filter (fun k => r.ringsMod / 2 ^ k % 2 == 1)).map (fun k => ((⟨0, 8 + k⟩ : RingId), ms))

/-- The units and rings of a node are released (R311). -/
def State.releaseUnits (s : State) (n : Nat) : State :=
  let r := (s.node n).rec_
  let s := each (nodeUnits r) s (fun s (i, u, ms) => s.askUnit i u ms false)
  each (nodeRings r) s (fun s (r, ms) => s.askRing r ms false)

/-! ### The end of a part and of a launch (R317) -/

/-- A core runs no launch: its contexts are IDLE, its queues and engines empty, its lane groups back in the pool without
a re-dealing (log 14). -/
def State.idleCore (s : State) (c : Nat) : State :=
  s.modCore c (fun x => { x with
    ctxs := x.ctxs.map (fun e => (e.1, { e.2.settle with st := .idle, q0 := {}, q1 := {}, q2 := {}, eret := 0, sigFault := none, trapNext := none })),
    parked := false, engs := [], collOwed := [], idleSince := s.now,
    vec := { x.vec with grant := 0, want := 0, vlen := 0, queue := [], fault := none, page := none },
    mat := { x.mat with queue := [], fault := none },
    fduty := { x.fduty with forced := false },
    xch := { x.xch with sends := [], wins := [], contrib := [] },
    run := { x.run with node := none, prev := some x.cid, ramp := none, preempt := false } })

/-- Every slot of a core is unmapped (R314, R328 item 6, R380 item 4). -/
def State.unmapAll (s : State) (c : Nat) : State := each (List.range 8) s (fun s slot => s.unmapSlot c slot)

/-- The core is free: slots unmapped, ACCMAP 0 (R328 item 6, R380 item 4). -/
def State.freeCore (s : State) (c : Nat) : State :=
  ((s.unmapAll c).idleCore c).modCore c (fun x => { x with mat := { x.mat with accmap := 0 } })

/-- Whether a CID has a launch that is running or saved. -/
def State.cidBusy (s : State) (cid : Nat) : Bool :=
  s.sched.nodes.any (fun e => e.2.rec_.cid == cid && (e.2.st == .running || e.2.st == .draining || e.2.st == .saved))

/-- A counter gains an increment, saturating at 65,535; a WAITING node at its threshold becomes READY (R317, R319). -/
def State.addCounter (s : State) (n inc : Nat) : State :=
  s.modNode n (fun x =>
    let v := min 65535 (x.counter + inc)
    let ready := x.st == .waiting && decide (x.rec_.thresh ≤ v)
    { x with counter := v, st := if ready then .ready else x.st,
             readyAt := if ready then s.now else x.readyAt, agedAt := if ready then s.now else x.agedAt })

/-- Every core has exited: the node is DONE, its successors' counters gain, the host is told (R317). -/
def State.nodeDone (s : State) (n : Nat) : State :=
  let x := s.node n
  let r := x.rec_
  let s := s.modNode n (fun x => { x with st := .done })
  let s := s.releaseUnits n
  let s := each r.succ s (fun s (m, inc) => s.addCounter m inc)
  let st (c : Nat) : Word := sget 0 x.exits c
  let bad := (List.range r.lcores).find? (fun i => st (r.lcore0 + i) != 0)
  let s := s.tell (.completion [w64 (n + r.lcores % 65536 * 65536 + x.seq.toNat * 2 ^ 32), st r.lcore0,
    x.exits.foldl (fun a e => a ||| e.2) 0,
    w64 (match bad with | some i => r.lcore0 + i | none => 0x7FFF),
    match bad with | some i => st (r.lcore0 + i) | none => 0])
  if s.cidBusy r.cid then s else s.releasePins r.cid

/-- A node every core of which has exited or is switched out: DONE, or SAVED with its units held (R317, R319, R326). -/
def State.drainCheck (s : State) (n : Nat) : State :=
  let x := s.node n
  if x.exits.length + x.out.length < x.rec_.lcores then s
  else if x.out = [] then s.nodeDone n
  else s.modNode n (fun x => { x with st := .saved, readyAt := s.now, agedAt := s.now, level := x.rec_.level, urgent := false })

/-- A core's part ends with a status (R110, R317). Its slots and tiles stay as they are until its next launch starts, as
the worked run of spec/15 shows. -/
def State.endPart (s : State) (c : Nat) (status : Word) : State :=
  match (s.coreAt c).run.node with
  | none => s.idleCore c
  | some n =>
    let s := s.idleCore c
    (s.modNode n (fun x => { x with exits := sput x.exits c status })).drainCheck n

/-- A node becomes FAILED and its units are released; its successors' counters are not incremented (R380). -/
def State.nodeFail (s : State) (n : Nat) : State :=
  (s.modNode n (fun x => { x with st := .failed, out := [], areas := [] })).releaseUnits n

/-! ### Device-level faults (R380, R381) -/

/-- Whether a fault kind ends the CID for good: uncorrectable slice lines, and the slice of a dead router, whose
events carry the record's kind with bit 7 set (R382, R392). -/
def terminates (kind : Nat) : Bool := kind == 5 || kind == 6 || kind ≥ 128

/-- Every core that runs a launch of the CID stops, its queues, buffered stores and engine commands are discarded and
the core is free; accesses already accepted stand (R380 items 1 to 4). -/
def State.stopCores (s : State) (cid : Nat) : State :=
  let cs := (s.cores.filter (fun e => e.2.run.node.isSome && e.2.cid == cid)).map (·.1)
  each cs s (fun s c =>
    let s := s.freeCore c
    s.modCache c (fun x => { x with cbuf := [] }))

/-- Every RUNNING, DRAINING or SAVED node of the CID becomes FAILED (R380 item 5). -/
def State.failNodes (s : State) (cid : Nat) : State :=
  let ns := (s.sched.nodes.filter (fun e => e.2.rec_.cid == cid &&
    (e.2.st == .running || e.2.st == .draining || e.2.st == .saved))).map (·.1)
  each ns s (fun s n => s.nodeFail n)

/-- Every other node of the CID becomes FAILED too (R381); those hold no units. -/
def State.failOthers (s : State) (cid : Nat) : State :=
  s.modSched (fun x => { x with nodes := sall x.nodes (fun n =>
    if n.rec_.cid = cid ∧ n.st ≠ .free then { n with st := .failed } else n) })

/-- The further steps of a termination (R381). -/
def State.terminate (s : State) (cid : Nat) : State :=
  let s := (s.failOthers cid).releasePins cid
  let s := { s with dies := sall s.dies (fun d => { d with domcids := sall d.domcids (fun l => l.filter (· != cid)) }) }
  s.modSched (fun x => { x with resident := x.resident.filter (· != cid) })

/-- A device-level fault of a job context, and its record to the host (R380 to R383). Kind 13 strikes no context: only
the record of a quarantined way goes out, behind the one of the fault that it follows (R396). -/
def State.deviceFault (s : State) (cid kind : Nat) (addr : Word) (core : Nat) (ecause : Word) : State :=
  if kind = 13 then s.faultRecord kind cid addr core ecause
  else
  let s := (s.stopCores cid).failNodes cid
  let s := if terminates kind then s.terminate cid else s
  let s := if s.cidBusy cid then s else s.releasePins cid
  s.faultRecord (kind % 128) cid addr core ecause

end Sys2Proof.Machine
end

