-- ==== Sys2Proof/Machine/Control.lean ====
section
/-!
DEFINITION. Control transfers and helper contexts, majors 0x20 to 0x24 and 0x27 (spec/05 R100 to R111). BIL, the
transfer of major 0x26, stands with the Ductus instructions.
-/
namespace Sys2Proof.Machine

/-! ### Lines that cannot be read (R127, R129) -/

/-- An entry formed from the one before it if it is unformed; its annul bit stands (R100, R127). -/
def State.formAgain (s : State) (before e : QEnt) : State × QEnt :=
  match e.line with
  | .unformed =>
    let (s, q) := s.formSucc s.core s.ctx before
    (s, { q with annul := e.annul })
  | _ => (s, e)

/-- Form the entries that are unformed again from the entries before them (R127). -/
def State.reform (s : State) : State :=
  let x := s.me
  let (s, q1) := s.formAgain x.q0 x.q1
  let (s, q2) := s.formAgain q1 x.q2
  s.modMe (fun x => { x with q1 := q1, q2 := q2 })

/-- Whether requests wait at a slice for the page of an address: a page fault is open, or the page is on the move. -/
def State.waitOpen (s : State) (a : Word) : Bool :=
  match s.obj (idOf a) with
  | some o => (s.die o.die).faults.any (fun f => f.obj == idOf a && f.pg == offOf a / 65536)
  | none => false

/-- One read of a line for every queue entry of that line that has none: the entries of a line share it (R67). -/
def Ctx.putLine (x : Ctx) (a : Word) (r : LineRead) : Ctx :=
  let put (e : QEnt) : QEnt := if e.line = .bad 3 ∧ lineOf e.addr = a then { e with line := r } else e
  { x with q0 := put x.q0, q1 := put x.q1, q2 := put x.q2 }

/-- The fate of an entry whose line cannot be read: FETCH with the line's cause, or, for a page that has no frame
yet, a wait for the reply and another read (R123, R129; log 13). A read that its slice has not taken is made again
(R343). -/
def State.fetchFate (s : State) (e : QEnt) : State :=
  let a := lineOf e.addr
  match e.line with
  | .bad 3 =>
    match s.fetch s.core s.ctx a with
    | (s, .bad 3) =>
      if s.waitOpen a then
        let st := s.me.st
        (s.pageWait a).modMe (fun x => { x with st := st, fetching := true })
      else s
    | (s, r) => (s.modMe (fun x => x.putLine a r)).reform
  | .bad n => s.raise { code := 0x05, detail := n, addr := a }
  | _ => s

/-! ### Transfers (R100 to R105) -/

/-- A transfer of the issuing context; in a delay slot of ERET it is illegal (R114). -/
def State.jump (s : State) (taken : Bool) (target : Word) (n : Nullify) : State :=
  if s.me.eret ≠ 0 then s.illegal else s.transfer taken target n

/-- B (R101): always taken. -/
def execB (n : Nullify) (disp : BitVec 16) (s : State) : Result := .next (s.jump true (s.lineTarget disp) n)
/-- BEQ (R102): taken when a = b. -/
def execBeq (n : Nullify) (a b : GReg) (disp : BitVec 22) (s : State) : Result :=
  .next (s.jump (s.g a == s.g b) (s.lineTarget disp) n)
/-- BNE (R102): taken when a differs from b. -/
def execBne (n : Nullify) (a b : GReg) (disp : BitVec 22) (s : State) : Result :=
  .next (s.jump (s.g a != s.g b) (s.lineTarget disp) n)
/-- BLT (R102): taken when S(a) < S(b). -/
def execBlt (n : Nullify) (a b : GReg) (disp : BitVec 22) (s : State) : Result :=
  .next (s.jump (decide ((s.g a).toInt < (s.g b).toInt)) (s.lineTarget disp) n)
/-- BGE (R102): taken when S(a) >= S(b). -/
def execBge (n : Nullify) (a b : GReg) (disp : BitVec 22) (s : State) : Result :=
  .next (s.jump (decide ((s.g a).toInt ≥ (s.g b).toInt)) (s.lineTarget disp) n)
/-- BLTN (R102): taken when N(a) < N(b). -/
def execBltn (n : Nullify) (a b : GReg) (disp : BitVec 22) (s : State) : Result :=
  .next (s.jump (decide ((s.g a).toNat < (s.g b).toNat)) (s.lineTarget disp) n)
/-- BGEN (R102): taken when N(a) >= N(b). -/
def execBgen (n : Nullify) (a b : GReg) (disp : BitVec 22) (s : State) : Result :=
  .next (s.jump (decide ((s.g a).toNat ≥ (s.g b).toNat)) (s.lineTarget disp) n)
/-- BZ (R103): taken when a = 0. -/
def execBz (n : Nullify) (a : GReg) (disp : BitVec 16) (s : State) : Result :=
  .next (s.jump (s.g a == 0) (s.lineTarget disp) n)
/-- BNZ (R103): taken when a is not 0. -/
def execBnz (n : Nullify) (a : GReg) (disp : BitVec 16) (s : State) : Result :=
  .next (s.jump (s.g a != 0) (s.lineTarget disp) n)

/-- The link of JAL: the line after the line of its second delay slot (R104). -/
def Ctx.link (x : Ctx) : Word := lineOf x.q2.addr + 64

/-- JAL (R104): the link is written as it retires; when its second delay slot cannot be formed it takes the FETCH
fault itself, before it issues. -/
def execJal (n : Nullify) (a : GReg) (disp : BitVec 25) (s : State) : Result :=
  .next (
    if s.me.eret ≠ 0 then s.illegal
    else match s.me.q2.line with
      | .unformed => s.fetchFate s.me.q1
      | _ => (s.setG a s.me.link).transfer true (s.lineTarget disp) n)

/-- JR (R105): always taken, to the value of a at issue. -/
def execJr (n : Nullify) (a : GReg) (s : State) : Result := .next (s.jump true (s.g a) n)

/-! ### Helpers (R107 to R111) -/

/-- A helper's registers as HSTART leaves them: g3 to g10 and PRIV of context 0, the other trap bits 0 (R108). -/
def startedHelper (k : Nat) (from0 y : Ctx) : Ctx :=
  { y.settle with
    st := .live, cstat := mkCstat k from0.priv false false false false, eret := 0, sigFault := none, trapNext := none,
    hurt := y.hurt.filter (fun (h : Nat × Bool) => decide (h.1 < 3 ∨ 10 < h.1))
    g := each (List.range 8) y.g (fun g i => sput g (3 + i) (sget 0 from0.g (3 + i))) }

/-- HSTART (R108): starts helper b at the line in c; a release at CORE scope (R111). -/
def execHstart (a b c : GReg) (s : State) : Result :=
  .next (
    if s.ctx ≠ 0 then s.illegal
    else
      let k := (s.g b).toNat
      if k < 1 ∨ 10 < k then s.result a 2
      else if (s.ctxAt s.core k).st ≠ .idle then s.result a 1
      else s.onRelease .core (fun s =>
        let from0 := s.me
        let line := s.g c
        let s := s.modCtx s.core k (startedHelper k from0)
        ((s.beginAt s.core k line true).result a 0)))

/-- The part of HJOIN that collects an EXITED helper (R109). -/
def State.collect (s : State) (a : GReg) (k : Nat) : State :=
  let v := (s.ctxAt s.core k).status
  (s.modCtx s.core k (fun y => { y with st := .idle })).result a v

/-- HJOIN (R109): collects helper b, waiting until it is EXITED. -/
def execHjoin (a b : GReg) (s : State) : Result :=
  .next (
    if s.ctx ≠ 0 then s.illegal
    else
      let k := (s.g b).toNat
      if k < 1 ∨ 10 < k then s.result a (w64 (2 ^ 64 - 2))
      else match (s.ctxAt s.core k).st with
        | .idle => s.result a (w64 (2 ^ 64 - 1))
        | .exited => s.collect a k
        | _ => s.hold (.hjoin a b) 0)

/-- Whether every helper of a core is IDLE. -/
def Core.helpersIdle (x : Core) : Bool := (List.range 10).all (fun i => (x.ctxAt (i + 1)).st == .idle)
/-- Whether a core has work of its own still in flight: its queues and engines (log 14). -/
def Core.quiet (x : Core) : Bool := x.vec.queue.isEmpty && x.mat.queue.isEmpty && x.engs.isEmpty

/-- Where the status word of a core's part is stored, if anywhere (R317). -/
def State.statusAddr (s : State) : Option Word :=
  let r := s.recOf s.core
  if s.here.run.node.isSome && r.status != 0 then some (r.status + w64 (8 * (s.core - r.lcore0))) else none

/-- HEXIT (R110): a helper becomes EXITED with status a; in context 0 the core's part of the launch ends, its status
stored first (R317). A release at CORE scope (R111). The queue is discarded with no check of the line's signature
(R17, R68; log 71). -/
def execHexit (a : GReg) (s : State) : Result :=
  .next (
    if s.ctx ≠ 0 then s.onRelease .core (fun s => s.exitHelper s.core s.ctx (s.g a))
    else if !s.here.helpersIdle then s.illegal
    else if !s.here.quiet then s
    else s.onRelease .core (fun s =>
      match s.statusAddr with
      | none => s.endPart s.core (s.g a)
      | some p =>
        let (s, r) := s.rawWrite s.core p (leBytes 8 (s.g a).toNat) s.cid
        s.onAns r p (fun s _ => s.endPart s.core (s.g a))))

end Sys2Proof.Machine
end

