-- ==== Sys2Proof/Machine/DuctusOps.lean ====
section
/-!
DEFINITION. What instructions and rounds read of Ductus: trees, witness words, status blocks and ring registers
(spec/12 R281, R290 to R295; spec/06 R170, R175). An unlisted value is the converged one (log 2).
-/
namespace Sys2Proof.Machine

/-! ### Bounds (R291) -/

/-- CBOUND in rounds (R291). -/
def State.cbRounds (s : State) (i : Inst) : Nat :=
  s.dcap i.scope + 1 + (if i.scope = .pod then s.dcap i.scope else 2) + 2 + s.confirm i
/-- CBOUND in steps (R291). -/
def State.cbSteps (s : State) (i : Inst) : Nat :=
  let die := s.cbRounds (if i.scope = .oct then i else ⟨.die, if i.scope = .die then i.idx else 0⟩) * 16
  let pkg := s.cbRounds ⟨.pkg, 0⟩ * 48 + die
  match i.scope with
  | .pkg => pkg
  | .pod => s.cbRounds ⟨.pod, 0⟩ * s.roundLen .pod + pkg
  | _ => die

/-! ### Trees (R281) -/

/-- Key of a node of a tree in the tables of distances and parents. -/
def treeKey (t v : Nat) : Nat := t * 65536 + v
/-- d of a node. -/
def State.distOf (s : State) (i : Inst) (t v : Nat) : Nat := sget (s.trueDist i t v) (s.inst i).dist (treeKey t v)
/-- p of a node. -/
def State.parOf (s : State) (i : Inst) (t v : Nat) : Nat := sget (s.parentOf i t v) (s.inst i).par (treeKey t v)

/-! ### Witness words (R170) -/

/-- A witness word. -/
def witnessWord (step : Word) (legit : Bool) (gen : BitVec 16) : Word :=
  w64 (step.toNat % 2 ^ 32 * 2 ^ 32 + legit.toNat * 65536 + gen.toNat)
/-- The witness of an instance, from a member's copies. -/
def State.witnessOf (s : State) (c : Nat) (i : Inst) : Word := witnessWord (s.stepOf c) (s.inst i).cLegit (s.inst i).cGen
/-- The witness of a ring. -/
def State.ringWitness (s : State) (c : Nat) (r : RingId) : Word := witnessWord (s.stepOf c) (s.ring r).cLegit (s.ring r).cGen

/-- The TOKEN_LOST value (R170). -/
def tokenLost : Word := w64 (2 ^ 64 - 1)

/-- Complete an instruction of major 0x25 that writes a witness: while TOKLOST is set it writes TOKEN_LOST in its
place and clears the flag (R170). -/
def State.witness (s : State) (a : GReg) (w : Word) : State :=
  if s.here.toklost then ((s.modHere (fun x => { x with toklost := false })).result a tokenLost) else s.result a w

/-! ### Rings (R287, R294) -/

/-- Node number of a member. -/
def Ring.idx (r : Ring) (c : Nat) : Nat := r.mb.idxOf c
/-- The value x of a node. -/
def Ring.xv (r : Ring) (c : Nat) : Nat := sget 0 r.x c
/-- The node before a member on the ring. -/
def Ring.before (r : Ring) (c : Nat) : Nat :=
  let i := r.idx c
  r.mb.getD (if i = 0 then r.mb.length - 1 else i - 1) c
/-- Whether a node holds the token (R287). -/
def Ring.hasToken (r : Ring) (c : Nat) : Bool :=
  if r.idx c = 0 then r.xv c == r.xv (r.before c) else r.xv c != r.xv (r.before c)
/-- A TOKK value as stored: HOLD and RRND at least 1, K between n and 256 (R294). -/
def tokkClamp (n : Nat) (v : Word) : Word :=
  w64 (max 1 (bits v 41 18) * 2 ^ 18 + max 1 (bits v 17 10) * 2 ^ 10 + min 256 (max n (bits v 8 0)))

/-- TOKSTATk as a core reads it (R294). -/
def State.tokstat (s : State) (c k : Nat) : Word :=
  let id : RingId := if k < 8 then ⟨dieOf c, k⟩ else ⟨0, k⟩
  let r := s.ring id
  let lost := (s.coreAt c).toklost.toNat * 2 ^ 14
  if !r.mb.contains c then w64 lost
  else
    let n := r.mb.length
    w64 ((2 * n - 1 + s.confirmRing id) % 65536 * 2 ^ 48 + r.cGen.toNat * 2 ^ 32 + r.cLegit.toNat * 2 ^ 24
      + (sfind r.held c).isSome.toNat * 2 ^ 23 + (r.hasToken c).toNat * 2 ^ 22 + n % 128 * 2 ^ 15 + lost
      + r.idx c % 64 * 2 ^ 8 + r.xv c % 256)

/-- TOKKk as a core reads it. -/
def State.tokk (s : State) (c k : Nat) : Word := (s.ring (if k < 8 then ⟨dieOf c, k⟩ else ⟨0, k⟩)).tokkOf c

/-- LEGIT as a core reads it: its own instances and the rings it is a member of (R292). -/
def State.legitReg (s : State) (c : Nat) : Word :=
  let ins := ([Scope.oct, .die, .pkg, .pod].zip (List.range 4)).map (fun (sc, b) => (s.inst (instOf sc c)).cLegit.toNat * 2 ^ b)
  let rings := (List.range 10).map (fun k =>
    let r := s.ring (if k < 8 then ⟨dieOf c, k⟩ else ⟨0, k⟩)
    (r.mb.contains c && r.cLegit).toNat * 2 ^ (4 + k))
  w64 (ins.sum + rings.sum)
/-- GEN as a core reads it (R292). -/
def State.genReg (s : State) (c : Nat) : Word :=
  let g (sc : Scope) : Nat := (s.inst (instOf sc c)).cGen.toNat
  w64 (g .oct + g .die * 2 ^ 16 + g .pkg * 2 ^ 32 + g .pod * 2 ^ 48)

/-! ### Status blocks (R293) -/

/-- A bit per unit of a scope, from a core's bits. -/
def State.unitBits (s : State) (i : Inst) (c : Nat) (f : Memb → Bool) : Nat :=
  ((List.range (unitsOf i.scope)).map (fun u => (f (((s.inst i).unit u).memb c)).toNat * 2 ^ u)).sum

/-- Word sel of the status block of a core's instance; none for a selector it does not define. -/
def State.dstat (s : State) (sc : Scope) (c sel : Nat) : Option Word :=
  let i := instOf sc c
  let d := s.inst i
  let node := s.nodeIn sc c
  -- the clock is the die's at OCT scope (R278)
  let clock : Inst := if sc = .oct then instOf .die c else i
  let clockNode := if sc = .oct then routerOf c else node
  let dist (t : Nat) : Word := w64 (s.rootOf i t % 65536 * 2 ^ 32 + s.parOf i t node % 65536 * 2 ^ 16 + s.distOf i t node % 16)
  match sel with
  | 0 => some (w64 (d.lost.toNat * 2 ^ 32 + d.clean % 16 * 2 ^ 28 + d.layers.toNat * 2 ^ 24 + d.cLegit.toNat * 2 ^ 16 + d.cGen.toNat))
  | 1 => some (w64 (s.cbSteps i % 2 ^ 32 * 2 ^ 32 + s.cbRounds i % 65536))
  | 2 => some (w64 (s.roundLen sc * 2 ^ 24 + s.confirm i * 2 ^ 20 + s.dcap sc * 2 ^ 16))
  | 3 => some (w64 (s.timeout i / 700))
  | 4 => some (dist 0)
  | 5 => some (dist 1)
  | 6 => some (w64 ((sget 0 (s.inst clock).maxadj clockNode).toNat * 2 ^ 32 + (sget 0 (s.inst clock).adj clockNode).toNat))
  | 7 => some (w64 (s.unitBits i c (·.phase) * 2 ^ 48 + s.unitBits i c (·.x) * 2 ^ 32 + s.unitBits i c (·.f) * 2 ^ 16 + s.unitBits i c (·.mb)))
  | 8 =>
    let x := ((s.inst i).unit 31).memb c
    some (w64 ((if sc = .pod then 0 else x.phase.toNat * 2 ^ 19 + x.f.toNat * 2 ^ 18 + x.mb.toNat * 2 ^ 17 + x.missed.toNat * 2 ^ 16)
      + s.unitBits i c (·.missed)))
  | _ => none

end Sys2Proof.Machine
end

