-- ==== Sys2Proof/Machine/Duty.lean ====
section
/-!
DEFINITION. Fetch duty and the divider: FORCED, held values and divider changes (spec/01 R28; spec/11 R274; spec/18 R367).
-/
namespace Sys2Proof.Machine

/-- The divider that the core runs at, or is on its way to. -/
def Fduty.goal (f : Fduty) : Nat := if f.divDue.isSome then f.divTo else f.div
/-- FDUTY as last written: DUTY and DIV (R28, R331). -/
def Fduty.written (f : Fduty) : Nat × Nat := (f.newDuty.getD f.duty, f.newDiv.getD f.goal)
/-- A change to a divider begins, and completes in 64 steps (R28, R367). -/
def Fduty.change (f : Fduty) (d now : Nat) : Fduty :=
  if d = f.div then { f with divDue := none } else { f with divTo := d, divDue := some (now + 64) }

/-- FORCED is set: DUTY is 16 and a divider other than ÷1 begins its 64-step change to ÷1; what was last written is held
(R28, R274). -/
def Fduty.force (f : Fduty) (now : Nat) : Fduty :=
  if f.forced then f
  else { f with forced := true, newDuty := some f.written.1, newDiv := some f.written.2, duty := 16 }.change 0 now

/-- The scheduler writes DIV: a change that completes in 64 steps, or a value held under FORCED (R28). -/
def Fduty.writeDiv (f : Fduty) (d now : Nat) : Fduty :=
  if f.forced then { f with newDiv := some d } else { f with newDiv := none }.change d now

/-- Whether the core runs at ÷1 under FORCED, as XBAR's release needs (R158). -/
def Fduty.ready (f : Fduty) : Bool := f.forced && f.div == 0

/-- A divider change completes (R28, R367). The change to ÷1 that FORCED began runs on where FORCED clears before it
completes (log 72). -/
def Fduty.divComplete (f : Fduty) : Fduty := { f with div := f.goal, divDue := none }

/-- A window boundary: the last DUTY written takes effect, and a held DIV begins its change, in place of one in progress
(R28). -/
def Fduty.window (f : Fduty) (now : Nat) : Fduty :=
  if f.forced then f
  else
    let f := { f with duty := f.newDuty.getD f.duty, newDuty := none }
    match f.newDiv with
    | some d => { f with newDiv := none }.change d now
    | none => f

/-- Change a core's fetch duty. -/
def State.modDuty (s : State) (c : Nat) (f : Fduty → Fduty) : State := s.modCore c (fun x => { x with fduty := f x.fduty })

/-- Set FORCED in a core (R274). -/
def State.force (s : State) (c : Nat) : State := s.modDuty c (fun f => f.force s.now)

/-- Whether a timed command of the core has issued and not started (R180, R213). -/
def Core.timedPending (x : Core) : Bool :=
  x.engs.any (fun (e : EngCmd) => e.start.isSome && !e.begun)
    || x.mat.queue.any (fun (e : MEntry) => e.start.isSome && e.fin.isNone)

/-- Whether an XBAR arrival of the core awaits its release. -/
def State.xbarWaits (s : State) (c : Nat) : Bool :=
  [Scope.oct, .die, .pkg].any (fun sc => (((s.inst (instOf sc c)).unit 31).memb c).f)

/-- FORCED clears when no open phase, XBAR arrival or timed command of the core holds it (R274); the values held take
effect from the next window boundary (R28). -/
def State.unforce (s : State) (c : Nat) : State :=
  let x := s.coreAt c
  if x.xch.xtag.getLsbD 8 || x.timedPending || s.xbarWaits c then s
  else s.modDuty c (fun f => { f with forced := false })

/-- FDUTY_WINDOW_APPLY (R28): a window boundary of the core. -/
def execFdutyWindowApply (c : Nat) (s : State) : Host.Outcome State Fault Refusal := .next (s.modDuty c (fun f => f.window s.now))
/-- DIVIDER_CHANGE_COMPLETE (R28, R367). -/
def execDividerChangeComplete (c : Nat) (s : State) : Host.Outcome State Fault Refusal := .next (s.modDuty c Fduty.divComplete)

end Sys2Proof.Machine
end

