-- ==== Sys2Proof/Machine/Ductus.lean ====
section
/-!
DEFINITION. Barriers, token rings and witnesses, majors 0x25 and 0x26 (spec/06 R169 to R176), the unit at the root
(spec/12 R285), and the events that end their waits.
-/
namespace Sys2Proof.Machine

/-! ### Arrivals and releases (R171, R285) -/

/-- A core's bits at a unit. -/
def State.membAt (s : State) (i : Inst) (u c : Nat) : Memb := ((s.inst i).unit u).memb c
/-- Change a core's bits at a unit. -/
def State.modMembAt (s : State) (i : Inst) (u c : Nat) (f : Memb → Memb) : State := s.modUnit i u (fun x => x.modMemb c f)

/-- Arrive (R171): the state and how many releases the arrival awaits; 0 when F and X are both set and it is not made. -/
def State.arrive (s : State) (i : Inst) (u c : Nat) : State × Nat :=
  let m := s.membAt i u c
  if !m.f then ((s.modMembAt i u c (fun m => { m with f := true })).push (.arrivalMessage i u c), 1)
  else if !m.x then (s.modMembAt i u c (fun m => { m with x := true }), 2)
  else (s, 0)

/-- The unit and scope on whose release an instruction waits; unit 31 is the exchange barrier. -/
def barrierOf (i : Instr) : Option (Scope × Nat) :=
  match i with
  | .bar sc _ u | .bara sc _ u | .barw sc _ u => some (sc, u.toNat)
  | .xbar sc _ | .xend sc _ => some (sc, 31)
  | _ => none

/-- Whether a context of a core waits on a unit. -/
def Ctx.waitsOn (x : Ctx) (c : Nat) (i : Inst) (u : Nat) : Bool :=
  match x.wait.bind barrierOf with
  | some (sc, v) => v == u && instOf sc c == i
  | none => false

/-- The number of contexts of a core (R10). -/
def ctxCount : Nat := 11

/-- Complete BAR, which clears ARRIVED, or BARW, which does not: an acquire, and the witness (R170 to R172). -/
def State.barrierDone (s : State) (sc : Scope) (a : GReg) (bar : Bool) : State :=
  let s := s.acquire s.core sc
  (s.modMe (fun x => { x with arrived := x.arrived && !bar })).witness a (s.witnessOf s.core (instOf sc s.core))

/-- Make the arrival of a BAR, or wait until X = 0 (R171). -/
def State.barArrive (s : State) (sc : Scope) (a : GReg) (u : BitVec 5) : State :=
  let (s, n) := s.arrive (instOf sc s.core) u.toNat s.core
  let s := s.hold (.bar sc a u) (w64 n)
  if n = 0 then s else s.modMe (fun x => { x with arrived := true })

/-- Make the arrival of a BARA and complete, or wait until X = 0. -/
def State.baraArrive (s : State) (sc : Scope) (a : GReg) (u : BitVec 5) : State :=
  let (s, n) := s.arrive (instOf sc s.core) u.toNat s.core
  if n = 0 then s.hold (.bara sc a u) 0 else s.witness a (s.witnessOf s.core (instOf sc s.core))

/-- The cause of an arrival by a core outside the unit (R172). -/
def nonmember : Cause := { code := 0x0F }

/-- Code of a wait that ends when F = 0, as BARW waits. -/
def untilClear : Word := 3

/-- BAR (R171): arrives, waits for the release of its phase, then a := witness. With ARRIVED = 1 it makes no arrival (R172). -/
def execBar (sc : Scope) (a : GReg) (u : BitVec 5) (s : State) : Result :=
  .next (
    let i := instOf sc s.core
    if s.me.arrived then
      if (s.membAt i u.toNat s.core).f then s.hold (.bar sc a u) untilClear else s.barrierDone sc a true
    else if !(s.membAt i u.toNat s.core).mb then s.raise nonmember
    else s.onRelease sc (fun s => s.barArrive sc a u))

/-- BARA (R171): arrives and completes at once with a := witness. -/
def execBara (sc : Scope) (a : GReg) (u : BitVec 5) (s : State) : Result :=
  .next (
    if !(s.membAt (instOf sc s.core) u.toNat s.core).mb then s.raise nonmember
    else s.onRelease sc (fun s => s.baraArrive sc a u))

/-- BARW (R171): waits until F = 0, then a := witness. It makes no arrival, so it has no non-member fate (log 17). -/
def execBarw (sc : Scope) (a : GReg) (u : BitVec 5) (s : State) : Result :=
  .next (
    if (s.membAt (instOf sc s.core) u.toNat s.core).f then s.hold (.barw sc a u) untilClear
    else s.barrierDone sc a false)

/-- A context that waits on a unit as a release passes it (R171): `aux` counts the releases it awaits. -/
def State.barrierWake (s : State) (c k : Nat) (i : Inst) (u : Nat) : State :=
  let s := s.at_ c k
  if !s.me.waitsOn c i u then s
  else
    let clear := !(s.membAt i u c).f
    match s.me.wait with
    | some (.bar sc a v) =>
      if s.me.aux = 1 then s.barrierDone sc a true
      else if s.me.aux = 2 then s.modMe (fun x => { x with aux := 1 })
      else if s.me.aux = 0 then s.barArrive sc a v
      else if clear then s.barrierDone sc a true else s
    | some (.bara sc a v) => s.baraArrive sc a v
    | some (.barw sc a _) => if clear then s.barrierDone sc a false else s
    | _ => s

/-- The flags of a release (R171, R285): MISSED gathers, F := X, the phase flips, ACKED clears, and a member whose new
F is 1 sends its arrival again; event bit 2 and IPEND bit 2 (R120, R125); lanes are re-dealt among the members (R189). -/
def State.releaseFlags (s : State) (i : Inst) (u : Nat) : State :=
  let ms := ((s.inst i).unit u).members
  let s := s.modUnit i u (fun x => { x with cnt := 0, released := true })
  let s := each ms s (fun s c =>
    let again := (s.membAt i u c).x
    let s := s.modMembAt i u c (fun m =>
      { m with missed := m.missed || (m.mb && !m.f), f := m.x, x := false, phase := !m.phase, acked := false })
    (if again then s.push (.arrivalMessage i u c) else s).event c 2)
  (s.redealMembers ms).pounceAt ms

/-- Whether the unit at the root releases: MASK is not empty and CNT has reached its size, and no hold stands (R285, R329). -/
def DUnit.due (u : DUnit) : Bool := !u.mask.isEmpty && decide (u.mask.length ≤ u.cnt) && !u.held

/-- Cores and contexts of a list of cores, in order. -/
def ctxsOf (ms : List Nat) : List (Nat × Nat) := ms.flatMap (fun c => (List.range ctxCount).map (fun k => (c, k)))

/-- BARRIER_RELEASE (R285, R171): the unit releases every member. -/
def execBarrierRelease (i : Inst) (u : Nat) (s : State) : Result :=
  .next (
    if !((s.inst i).unit u).due then s
    else
      let ms := ((s.inst i).unit u).members
      each (ctxsOf ms) (s.releaseFlags i u) (fun s e => s.barrierWake e.1 e.2 i u))

/-- The event of a due unit: a barrier unit's release, or that of the exchange barrier by whether a phase is open. -/
def State.releaseEvent (s : State) (i : Inst) (u : Nat) : Event :=
  if u ≠ 31 then .barrierRelease i u
  else if ((s.inst i).unit 31).members.any (fun c => (s.coreAt c).xch.xtag.getLsbD 8) then .xendRelease i
  else .xbarRelease i

/-- ARRIVAL_MESSAGE (R285): CNT gains 1 and the member is acknowledged; a unit that is then due releases. -/
def execArrivalMessage (i : Inst) (u m : Nat) (s : State) : Result :=
  .next (
    let s := s.modUnit i u (fun x => { x.modMemb m (fun y => { y with acked := true }) with cnt := x.cnt + 1 })
    if ((s.inst i).unit u).due then s.push (s.releaseEvent i u) else s)

/-- BARRIER_TIMEOUT (R172): the wait ends in BARRIER with the number of members whose F is 0 and the lowest of them. -/
def execBarrierTimeout (c k : Nat) (s : State) : Result :=
  .next (
    let s := s.at_ c k
    match s.me.wait.bind barrierOf with
    | none => s
    | some (sc, u) =>
      let x := (s.inst (instOf sc c)).unit u
      let missing := x.members.filter (fun m => !(x.memb m).f)
      s.raise { code := 0x0E, detail := missing.length % 65536 + missing.headD 0 * 65536 })

/-! ### Token rings (R174) -/

/-- Complete a TOKW whose node holds the token: a hold begins unless one stands; an acquire at the ring's scope. -/
def State.tokenTake (s : State) (sc : Scope) (a : GReg) (r : RingId) : State :=
  let c := s.core
  let s := s.modRing r (fun x => if (sfind x.held c).isSome then x else { x with held := sput x.held c s.now })
  (s.acquire c sc).witness a (s.ringWitness c r)

/-- Whether a TOKW of a member would complete: it holds, or its node has the token while LEGIT is 1 (R174, R298). -/
def Ring.grants (x : Ring) (c : Nat) : Bool := (sfind x.held c).isSome || (x.hasToken c && x.cLegit)

/-- TOKW as it stands: a hold already held or a token under LEGIT completes it, else it waits (R174, R298). -/
def State.tokw (s : State) (sc : Scope) (a : GReg) (k : BitVec 5) : State :=
  let r := ringOf sc s.core k.toNat
  let x := s.ring r
  if !x.mb.contains s.core then s.raise nonmember
  else if x.grants s.core then s.tokenTake sc a r
  else s.hold (.tokw sc a k) 0

/-- TOKW (R174): waits for the token of ring k, begins a hold, a := witness. -/
def execTokw (sc : Scope) (a : GReg) (k : BitVec 5) (s : State) : Result := .next (s.tokw sc a k)

/-- TOKW_GRANT (R174): the waiting TOKW looks at its node again. -/
def execTokwGrant (c k : Nat) (s : State) : Result :=
  .next (
    let s := s.at_ c k
    match s.me.wait with
    | some (.tokw sc a r) => s.tokw sc a r
    | _ => s)

/-- TOKP (R174): a release; ends a hold, so that the node moves at the next ring round; a := witness. -/
def execTokp (sc : Scope) (a : GReg) (k : BitVec 5) (s : State) : Result :=
  .next (
    let r := ringOf sc s.core k.toNat
    if !(s.ring r).mb.contains s.core then s.raise nonmember
    else s.onRelease sc (fun s =>
      (s.modRing r (fun x => { x with held := sdel x.held s.core })).witness a (s.ringWitness s.core r)))

/-! ### Witnesses and status (R175) -/

/-- WIT (R175): a := the instance's witness now. -/
def execWit (sc : Scope) (a : GReg) (s : State) : Result :=
  .next (s.witness a (s.witnessOf s.core (instOf sc s.core)))

/-- WIT.TOK (R175): a := ring k's witness now, for a member. -/
def execWitTok (sc : Scope) (a : GReg) (k : BitVec 4) (s : State) : Result :=
  .next (
    let r := ringOf sc s.core k.toNat
    if !(s.ring r).mb.contains s.core then s.raise nonmember
    else s.witness a (s.ringWitness s.core r))

/-- DSTAT (R175, R293): a := word sel of the status block; a selector that it does not define is illegal. -/
def execDstat (sc : Scope) (a : GReg) (sel : BitVec 5) (s : State) : Result :=
  .next (match s.dstat sc s.core sel.toNat with
    | some v => s.result a v
    | none => s.illegal)

/-! ### BIL (R176) -/

/-- The condition of BIL on a saved witness. -/
def bilTaken (legit : Bool) (gen : BitVec 16) (w : Word) : Bool :=
  !legit || gen != w.setWidth 16 || !w.getLsbD 16 || bits w 31 17 != 0

/-- BIL (R176): a transfer taken unless the witness in a still holds; of a ring only for its members. -/
def execBil (n : Nullify) (sc : Scope) (tok : Option (BitVec 4)) (a : GReg) (disp : BitVec 19) (s : State) : Result :=
  .next (match tok with
    | none =>
      let d := s.inst (instOf sc s.core)
      s.jump (bilTaken d.cLegit d.cGen (s.g a)) (s.lineTarget disp) n
    | some k =>
      let r := s.ring (ringOf sc s.core k.toNat)
      if !r.mb.contains s.core then s.raise nonmember
      else s.jump (bilTaken r.cLegit r.cGen (s.g a)) (s.lineTarget disp) n)

end Sys2Proof.Machine
end

