-- ==== Sys2Proof/Machine/Memory.lean ====
section
/-!
DEFINITION. Global and local loads and stores and atomics, majors 0x10 to 0x14 (spec/06 R134 to R142), the mesh
alias they may name (spec/09 R230) and the counter window (spec/16 R320).
-/
namespace Sys2Proof.Machine

/-- The operators of major 0x14 (R140). -/
inductive AmoOp where
  | add | and_ | or_ | xor_ | min_ | max_ | minn | maxn | swap | cas | fadd
  deriving DecidableEq, Repr

/-- What a scalar global access does. -/
inductive AccKind where
  | load (zero : Bool) | store | amo (op : AmoOp)
  deriving DecidableEq, Repr

/-- A scalar global access: kind, bytes, order and scope, registers, immediate. -/
structure GAcc where
  kind : AccKind
  n    : Nat
  o    : Order
  sc   : Scope
  a    : GReg
  b    : GReg
  c    : GReg
  imm  : Word
  deriving DecidableEq, Repr

/-- Bytes of an atomic's size bit (R140). -/
def amoBytes (dw : Bool) : Nat := if dw then 8 else 4

/-- The access that an instruction makes, if it is one of majors 0x10, 0x11 and 0x14. -/
def accOf (i : Instr) : Option GAcc :=
  match i with
  | .ld z o sc a b imm => some ⟨.load false, sizeBytes z, o, sc, a, b, 0, imm.signExtend 64⟩
  | .ldn z o sc a b imm => some ⟨.load true, sizeBytes z, o, sc, a, b, 0, imm.signExtend 64⟩
  | .st z o sc a b imm => some ⟨.store, sizeBytes z, o, sc, a, b, 0, imm.signExtend 64⟩
  | .amoadd d o sc a b c imm => some ⟨.amo .add, amoBytes d, o, sc, a, b, c, imm.signExtend 64⟩
  | .amoand d o sc a b c imm => some ⟨.amo .and_, amoBytes d, o, sc, a, b, c, imm.signExtend 64⟩
  | .amoor d o sc a b c imm => some ⟨.amo .or_, amoBytes d, o, sc, a, b, c, imm.signExtend 64⟩
  | .amoxor d o sc a b c imm => some ⟨.amo .xor_, amoBytes d, o, sc, a, b, c, imm.signExtend 64⟩
  | .amomin d o sc a b c imm => some ⟨.amo .min_, amoBytes d, o, sc, a, b, c, imm.signExtend 64⟩
  | .amomax d o sc a b c imm => some ⟨.amo .max_, amoBytes d, o, sc, a, b, c, imm.signExtend 64⟩
  | .amominn d o sc a b c imm => some ⟨.amo .minn, amoBytes d, o, sc, a, b, c, imm.signExtend 64⟩
  | .amomaxn d o sc a b c imm => some ⟨.amo .maxn, amoBytes d, o, sc, a, b, c, imm.signExtend 64⟩
  | .amoswap d o sc a b c imm => some ⟨.amo .swap, amoBytes d, o, sc, a, b, c, imm.signExtend 64⟩
  | .amocas d o sc a b c imm => some ⟨.amo .cas, amoBytes d, o, sc, a, b, c, imm.signExtend 64⟩
  | .famoadd o sc a b c imm => some ⟨.amo .fadd, 4, o, sc, a, b, c, imm.signExtend 64⟩
  | _ => none

/-! ### The operation of an atomic (R141) -/

/-- The new value, of width 8z, from the old one, x and the register a; none when nothing is to be written. -/
def amoNew (op : AmoOp) (w : Nat) (old x a : Nat) : Option Nat :=
  let so := (BitVec.ofNat w old).toInt
  let sx := (BitVec.ofNat w x).toInt
  match op with
  | .add => some ((old + x) % 2 ^ w)
  | .and_ => some (old &&& x)
  | .or_ => some (old ||| x)
  | .xor_ => some (old ^^^ x)
  | .min_ => some (if sx < so then x else old)
  | .max_ => some (if so < sx then x else old)
  | .minn => some (min old x)
  | .maxn => some (max old x)
  | .swap => some x
  | .cas => if old = a then some x else none
  | .fadd => some (enc .f32 (fAdd (dec .f32 old) (dec .f32 x)) .ne)

/-- The value an atomic returns: zero-extended for MINN, MAXN and FAMOADD, else sign-extended. -/
def amoImage (op : AmoOp) (w old : Nat) : Word :=
  match op with
  | .minn | .maxn | .fadd => zext old w
  | _ => sext old w

/-- The bytes to be written, from the bytes read (R141). -/
def amoBytesNew (op : AmoOp) (x a : Word) (old : List Byte) : Option (List Byte) :=
  let n := old.length
  (amoNew op (8 * n) (leNat old) (x.toNat % 2 ^ (8 * n)) (a.toNat % 2 ^ (8 * n))).map (leBytes n)

/-! ### Order (R133, R136) -/

/-- Does the order field ask for an acquire? -/
def Order.acq? (o : Order) : Bool := match o with | .acq | .ar => true | _ => false
/-- Does the order field ask for a release? -/
def Order.rel? (o : Order) : Bool := match o with | .rel | .ar => true | _ => false

/-- The acquire action of an access that carries one. -/
def State.acqIf (s : State) (o : Order) (sc : Scope) : State := if Order.acq? o then s.acquire s.core sc else s
/-- Go on after the release action of an access that carries one. -/
def State.relIf (s : State) (o : Order) (sc : Scope) (f : State → State) : State := if Order.rel? o then s.onRelease sc f else f s

/-- Complete an access with the bytes it read. -/
def State.doneAcc (s : State) (m : GAcc) (bs : List Byte) : State :=
  match m.kind with
  | .load zero => (s.acqIf m.o m.sc).result m.a (extendLoad zero m.n bs)
  | .store => s.retire
  | .amo op => (s.acqIf m.o m.sc).result m.a (amoImage op (8 * m.n) (leNat bs))

/-! ### The counter window (R320) -/

/-- The CID whose counter window backs a page, if one does: BACK is 2, and OWNCID names the CID (R320, R337; log 16). -/
def State.windowOf (s : State) (a : Word) : Option Nat := do
  let o ← s.obj (idOf a)
  let e ← o.extent (offOf a / 65536)
  if e.back = 2 then some o.owncid else none

/-- An access of the counter window: 8 bytes, and no atomic but AMOADD; it is accepted in the window's order. -/
def State.windowAccess (s : State) (i : Instr) (m : GAcc) (a : Word) (cid : Nat) : State :=
  if m.n ≠ 8 then s.raise { code := 0x06, addr := a }
  else
    let n := offOf a / 8
    match m.kind with
    | .load _ => (s.hold i 0).push (.counterWindowLoad s.core s.ctx cid n m.a)
    | .store => s.retire.push (.counterWindowStore cid n (s.g m.a))
    | .amo .add => (s.hold i 0).push (.counterWindowAmoadd s.core s.ctx cid n m.a (s.g m.c))
    | .amo _ => s.raise { code := 0x09, addr := a }

/-! ### Accesses -/

/-- Go on once the context's buffered stores that an access may not pass are accepted: WCOMB stores at an ordered one (R138,
R253), every entry at an atomic (R234). -/
def State.drainFor (s : State) (m : GAcc) (f : State → State) : State :=
  let r := match m.kind with
    | .amo _ => s.bufDrainCtx s.core s.ctx
    | _ => if m.o = Order.relaxed then (s, true) else s.combDrain s.core s.ctx
  if r.2 then f r.1 else r.1

/-- The access itself, after its checks and its release's wait. -/
def State.performAcc (s : State) (i : Instr) (m : GAcc) (a : Word) : State :=
  match s.windowOf a with
  | some cid => s.windowAccess i m a cid
  | none =>
    if idOf a = aliasId then (s.hold i 0).push (.loopbackAccess s.core s.ctx)
    else
      let q := match m.kind with
        | .load _ => s.gLoad s.core s.ctx a m.n s.cid
        | .store => s.gStore s.core s.ctx a (leBytes m.n (s.g m.a).toNat) s.cid
        | .amo op => s.gAtomic s.core s.ctx a m.n s.cid (amoBytesNew op (s.g m.c) (s.g m.a))
      q.1.onAns q.2 a (fun s bs => s.doneAcc m bs)

/-- The bytes that the remaining elements of a queued vector instruction access in global memory. -/
def Core.elemsAt (x : Core) (e : VEntry) : List (Nat × Nat) :=
  match vmemOf x e.instr e.ops with
  | some m => if m.local_ then [] else (activeOf e.vlen (e.mask &&& ~~~e.did)).map (fun j => ((m.addr j).toNat, m.z))
  | none => []

/-- Whether an access of context 0 must wait for a queued vector instruction: they touch the same bytes, which keep program
order (R202), or the access is to a DEVICE or STRONG page, which waits for the earlier ones (R138, R237, R252). -/
def State.behindVector (s : State) (a n : Nat) : Bool :=
  let ty := (s.pageType (a / 2 ^ 40) (a % 2 ^ 40)).1
  s.ctx == 0 && ((s.here.vecPending && (ty == .device || ty == .strong))
    || s.here.vec.queue.any (fun e => (s.here.elemsAt e).any (fun p => decide (p.1 < a + n) && decide (a < p.1 + p.2))))

/-- A scalar global access of the issuing context (R134 to R142). -/
def State.globalAccess (s : State) (i : Instr) : State :=
  match accOf i with
  | none => s
  | some m =>
    let a := eaOf (s.g m.b) m.imm
    (s.obbUse s.core (idOf a)).checked (s.checkGlobal s.core s.cid a m.n) (fun s =>
      if s.behindVector a.toNat m.n then s
      else s.relIf m.o m.sc (fun s => s.drainFor m (fun s => s.performAcc i m a)))

/-- LD (R135): a := Sext of the bytes at EA. -/
def execLd (z : Size) (o : Order) (sc : Scope) (a b : GReg) (imm : BitVec 19) (s : State) : Result :=
  .next (s.globalAccess (.ld z o sc a b imm))
/-- LDN (R135): a := Zext of the bytes at EA. -/
def execLdn (z : Size) (o : Order) (sc : Scope) (a b : GReg) (imm : BitVec 19) (s : State) : Result :=
  .next (s.globalAccess (.ldn z o sc a b imm))
/-- ST (R135): the bytes at EA := the low bytes of a. -/
def execSt (z : Size) (o : Order) (sc : Scope) (a b : GReg) (imm : BitVec 19) (s : State) : Result :=
  .next (s.globalAccess (.st z o sc a b imm))

/-! ### Atomics (R141) -/

/-- AMOADD (R141): new := Wrap(old + x, w). -/
def execAmoadd (dw : Bool) (o : Order) (sc : Scope) (a b c : GReg) (imm : BitVec 17) (s : State) : Result :=
  .next (s.globalAccess (.amoadd dw o sc a b c imm))
/-- AMOAND (R141): new := old and x. -/
def execAmoand (dw : Bool) (o : Order) (sc : Scope) (a b c : GReg) (imm : BitVec 17) (s : State) : Result :=
  .next (s.globalAccess (.amoand dw o sc a b c imm))
/-- AMOOR (R141): new := old or x. -/
def execAmoor (dw : Bool) (o : Order) (sc : Scope) (a b c : GReg) (imm : BitVec 17) (s : State) : Result :=
  .next (s.globalAccess (.amoor dw o sc a b c imm))
/-- AMOXOR (R141): new := old xor x. -/
def execAmoxor (dw : Bool) (o : Order) (sc : Scope) (a b c : GReg) (imm : BitVec 17) (s : State) : Result :=
  .next (s.globalAccess (.amoxor dw o sc a b c imm))
/-- AMOMIN (R141): the smaller as signed w-bit values. -/
def execAmomin (dw : Bool) (o : Order) (sc : Scope) (a b c : GReg) (imm : BitVec 17) (s : State) : Result :=
  .next (s.globalAccess (.amomin dw o sc a b c imm))
/-- AMOMAX (R141): the larger as signed w-bit values. -/
def execAmomax (dw : Bool) (o : Order) (sc : Scope) (a b c : GReg) (imm : BitVec 17) (s : State) : Result :=
  .next (s.globalAccess (.amomax dw o sc a b c imm))
/-- AMOMINN (R141): the smaller as unsigned values. -/
def execAmominn (dw : Bool) (o : Order) (sc : Scope) (a b c : GReg) (imm : BitVec 17) (s : State) : Result :=
  .next (s.globalAccess (.amominn dw o sc a b c imm))
/-- AMOMAXN (R141): the larger as unsigned values. -/
def execAmomaxn (dw : Bool) (o : Order) (sc : Scope) (a b c : GReg) (imm : BitVec 17) (s : State) : Result :=
  .next (s.globalAccess (.amomaxn dw o sc a b c imm))
/-- AMOSWAP (R141): new := x. -/
def execAmoswap (dw : Bool) (o : Order) (sc : Scope) (a b c : GReg) (imm : BitVec 17) (s : State) : Result :=
  .next (s.globalAccess (.amoswap dw o sc a b c imm))
/-- AMOCAS (R141): new := x if old equals the low bits of a at issue; else nothing is written. -/
def execAmocas (dw : Bool) (o : Order) (sc : Scope) (a b c : GReg) (imm : BitVec 17) (s : State) : Result :=
  .next (s.globalAccess (.amocas dw o sc a b c imm))
/-- FAMOADD.F32 (R141): new := Enc(FP32, Dec(old) + Dec(x), nearest even). -/
def execFamoadd (o : Order) (sc : Scope) (a b c : GReg) (imm : BitVec 17) (s : State) : Result :=
  .next (s.globalAccess (.famoadd o sc a b c imm))

/-! ### Local loads and stores (R139) -/

/-- LA of a base register and a signed immediate. -/
def State.localAddr (s : State) (b : GReg) (imm : BitVec 13) : Nat := (s.g b + imm.signExtend 64).toNat

/-- LDL and LDLN: the checks of R19, then the read; an uncorrectable word is POISONED at the address. -/
def State.localLoad (s : State) (a b : GReg) (imm : BitVec 13) (n : Nat) (zero : Bool) : State :=
  let la := s.localAddr b imm
  s.checked (s.checkLocal s.core la n n false) (fun s =>
    let (s, bs, bad) := s.localRead s.core la n
    match bad with
    | some _ => s.raise { code := 0x0B, addr := w64 la }
    | none => (s.markTiles s.core la n).result a (extendLoad zero n bs))

/-- LDL (R139): a := Sext of the bytes at LA. -/
def execLdl (z : Size) (a b : GReg) (imm : BitVec 13) (s : State) : Result := .next (s.localLoad a b imm (sizeBytes z) false)
/-- LDLN (R139): a := Zext of the bytes at LA. -/
def execLdln (z : Size) (a b : GReg) (imm : BitVec 13) (s : State) : Result := .next (s.localLoad a b imm (sizeBytes z) true)
/-- STL (R139): the bytes at LA := the low bytes of a. -/
def execStl (z : Size) (a b : GReg) (imm : BitVec 13) (s : State) : Result :=
  .next (
    let la := s.localAddr b imm
    let n := sizeBytes z
    s.checked (s.checkLocal s.core la n n true) (fun s =>
      (s.localWrite s.core la (leBytes n (s.g a).toNat) s.cid).retire))

/-! ### The loop-back port (R230) -/

/-- LOOPBACK_ACCESS (R230): the target core's port checks the access as the target's own of that size, by its BANKMAP
as it stands, and performs or refuses it; tags are neither compared nor written. The waiting context then goes on. -/
def execLoopbackAccess (c k : Nat) (s : State) : Result :=
  .next (
    let s := s.at_ c k
    match s.me.wait.bind accOf with
    | none => s
    | some m =>
      let a := eaOf (s.g m.b) m.imm
      let t := offOf a / 2 ^ 20
      let la := offOf a % 2 ^ 20
      let bad := s.portFault t la m.n (match m.kind with | .load _ => false | _ => true)
      let s := s.modMe (fun y => { y with wait := none })
      match bad with
      | some z => s.raise { z with addr := a }
      | none =>
        match m.kind with
        | .store => (s.localWrite t la (leBytes m.n (s.g m.a).toNat) s.cid).doneAcc m []
        | .load _ =>
          let (s, bs, bad) := s.localRead t la m.n
          if bad.isSome then s.raise { code := 0x0B, addr := a } else s.doneAcc m bs
        | .amo op =>
          let (s, bs, bad) := s.localRead t la m.n
          if bad.isSome then s.raise { code := 0x0B, addr := a }
          else
            let s := match amoBytesNew op (s.g m.c) (s.g m.a) bs with
              | some new => s.localWrite t la new s.cid
              | none => s
            s.doneAcc m bs)

/-! ### The counter window's answers (R320) -/

/-- Code of a node's state as the window shows it. -/
def nodeStCode (x : NodeSt) : Nat :=
  match x with
  | .free => 0 | .waiting => 1 | .ready => 2 | .running => 3 | .draining => 4 | .saved => 5 | .done => 6 | .failed => 7

/-- Whether node n is a node of the window's CID. -/
def State.ownNode (s : State) (cid n : Nat) : Bool := (s.node n).st != .free && (s.node n).rec_.cid == cid

/-- COUNTER_WINDOW_STORE (R320): the counter gains Sat(v, 0, 65,535); of another CID's node it is ignored. -/
def execCounterWindowStore (cid n : Nat) (v : Word) (s : State) : Result :=
  .next (if s.ownNode cid n then s.addCounter n (min 65535 v.toNat) else s)

/-- Complete the access that a context waits in with a value. -/
def State.windowDone (s : State) (c k : Nat) (rd : GReg) (v : Word) : State :=
  let s := s.at_ c k
  match s.me.wait.bind accOf with
  | none => s
  | some m => (s.acqIf m.o m.sc).result rd v

/-- COUNTER_WINDOW_AMOADD (R320): adds in the same way and returns the old counter. -/
def execCounterWindowAmoadd (c k cid n : Nat) (rd : GReg) (v : Word) (s : State) : Result :=
  .next (
    let own := s.ownNode cid n
    let old := if own then (s.node n).counter else 0
    let s := if own then s.addCounter n (min 65535 v.toNat) else s
    s.windowDone c k rd (w64 old))

/-- COUNTER_WINDOW_LOAD (R320): the counter in [15:0] and the node's state in [18:16]; 0 for another CID's node. -/
def execCounterWindowLoad (c k cid n : Nat) (rd : GReg) (s : State) : Result :=
  .next (s.windowDone c k rd
    (if s.ownNode cid n then w64 ((s.node n).counter % 65536 + nodeStCode (s.node n).st * 65536) else 0))

end Sys2Proof.Machine
end

