-- ==== Sys2Proof/Machine/Queues.lean ====
section
/-!
DEFINITION. Which waits an interrupt or a switch may break off (spec/05 R109, R117, R121, R130; spec/06 R159).
-/
namespace Sys2Proof.Machine

/-! ### Waits -/

/-- Whether an interrupt or a context switch may find a context waiting in an instruction and save it as Q0 (R109, R130):
not while an access is on its way (R230), not once a message has issued (R88). -/
def interruptible (i : Instr) : Bool :=
  match i with
  | .qsend .. => false
  | i => (accOf i).isNone

/-- Whether a context is at a boundary or may be stopped where it waits. -/
def Ctx.mayStop (x : Ctx) : Bool := match x.wait with | some i => interruptible i | none => true

end Sys2Proof.Machine
end

