-- ==== Sys2Proof/Machine/SysRegs.lean ====
section
/-!
DEFINITION. The map of system registers (R22 and the register tables of every chapter): which exist, which are
privileged, what a read returns and what a write does (R7, R115).
-/
namespace Sys2Proof.Machine

/-- Access of a register: a privileged one has a PRIV field; one whose fields are all RO or RZ ignores writes (R7, R115). -/
inductive SysAcc where
  | priv | open_ | ro
  deriving DecidableEq, Repr

/-- The registers of the map, by number (R22, R45, R118, R125, R156, R166, R190, R217, R221, R236, R269, R292 to R296,
R316, R323, R341, R359, R364, R369, R379, R393). -/
def sysAcc (n : Nat) : Option SysAcc :=
  if n ≤ 0x007 then some .priv
  else if n = 0x008 then some .open_
  else if 0x010 ≤ n ∧ n ≤ 0x019 then
    some (if n = 0x014 ∨ n = 0x018 ∨ n = 0x019 then .priv else if n = 0x017 then .open_ else .ro)
  else if 0x020 ≤ n ∧ n ≤ 0x027 then some .ro
  else if 0x030 ≤ n ∧ n ≤ 0x033 then some (if n ≤ 0x031 then .open_ else .ro)
  else if 0x040 ≤ n ∧ n ≤ 0x044 then some (if n = 0x042 then .ro else .priv)
  else if n = 0x050 ∨ n = 0x058 ∨ n = 0x059 ∨ n = 0x05B then some .ro
  else if n = 0x05A then some .priv
  else if 0x060 ≤ n ∧ n ≤ 0x069 then some .ro
  else if 0x070 ≤ n ∧ n ≤ 0x079 then some .priv
  else if 0x080 ≤ n ∧ n ≤ 0x086 then some (if n = 0x085 then .priv else .ro)
  else if 0x090 ≤ n ∧ n ≤ 0x094 then some .ro
  else if n = 0x0A0 ∨ n = 0x0A1 then some .ro
  else if 0x0C0 ≤ n ∧ n ≤ 0x0DF then some .ro
  else none

/-- Code of a helper state in HSTATE (R29). -/
def ctxStateCode (x : CtxState) : Nat := match x with | .idle => 0 | .live => 1 | .waiting => 2 | .exited => 3
/-- HSTATE: a view of the helpers' states (R29). -/
def Core.hstate (x : Core) : Word := w64 ((List.range 10).map (fun i => ctxStateCode (x.ctxAt (i + 1)).st * 4 ^ (i + 1))).sum
/-- FDUTY: while FORCED is 1, DUTY reads 16 and DIV reads 0 (R28). -/
def Fduty.word (f : Fduty) : Word := if f.forced then w64 (65536 + 16) else w64 (f.div * 256 + f.duty)
/-- RXCTL (R166). -/
def Core.rxctl (x : Core) : Word :=
  w64 (x.loc.tail * 2 ^ 32 + x.loc.head * 2 ^ 16 + x.loc.recs * 16 + (x.loc.recs == 64).toNat * 8 + x.ringSlot.getD 0)
/-- OCTPWR (R364). -/
def Octet.octpwr (o : Octet) (now : Nat) : Word := w64 (o.level % 4 + (o.pouncing now 0).toNat * 4 + (o.pouncing now 1).toNat * 8)

/-- What a read returns in a context of a core. -/
def State.readSys (s : State) (c k n : Nat) : Word :=
  let x := s.coreAt c
  let y := x.ctxAt k
  let o := s.oct (octOf c)
  let d := s.die (dieOf c)
  if n = 0x000 then y.cstat
  else if n = 0x001 then y.epcq0
  else if n = 0x002 then y.epcq1
  else if n = 0x003 then y.epcq2
  else if n = 0x004 then y.esig
  else if n = 0x005 then y.ecause
  else if n = 0x006 then y.eaddr
  else if n = 0x007 then x.evec
  else if n = 0x008 then y.srseed.setWidth 64
  else if n = 0x010 then s.stepOf c
  else if n = 0x011 then w64 x.vec.vlen
  else if n = 0x012 then x.fduty.word
  else if n = 0x013 then x.cycle
  else if n = 0x014 then x.mat.accmap.setWidth 64
  else if n = 0x015 then x.hstate
  else if n = 0x016 then x.taskstep
  else if n = 0x017 then x.ipend
  else if n = 0x018 then x.imask
  else if n = 0x019 then x.ialarm
  else if 0x020 ≤ n ∧ n ≤ 0x027 then x.bankmap (n - 0x020)
  else if n = 0x030 then x.xch.xtag
  else if n = 0x031 then x.loc.qbound
  else if n = 0x032 then x.rxctl
  else if n = 0x033 then x.xch.xfail
  else if n = 0x040 then o.vshare
  else if n = 0x041 then o.mshare
  else if n = 0x042 then w64 (x.vec.queue.length * 256 + 8 * x.vec.want)
  else if n = 0x043 then w64 (routerOf c / 12 * 4096 + routerOf c % 12 * 256 + o.cut.toNat)
  else if n = 0x044 then x.mat.merr
  else if n = 0x050 then x.cache.epoch
  else if n = 0x058 then s.legitReg c
  else if n = 0x059 then s.genReg c
  else if n = 0x05B then s.ductcfg
  else if 0x060 ≤ n ∧ n ≤ 0x069 then s.tokstat c (n - 0x060)
  else if 0x070 ≤ n ∧ n ≤ 0x079 then s.tokk c (n - 0x070)
  else if n = 0x080 then x.run.lcore0
  else if n = 0x081 then x.run.lcores
  else if n = 0x082 then x.run.litems
  else if n = 0x083 then x.run.larg
  else if n = 0x084 then x.run.lcid
  else if n = 0x085 then s.sched.xmaxlen
  else if n = 0x086 then s.sched.schedcfg
  else if n = 0x090 then s.gov.cfg
  else if n = 0x091 then s.gov.stat
  else if n = 0x092 then o.pounce
  else if n = 0x093 then o.octpwr s.now
  else if n = 0x094 then (d.row (rowOf c)).rowpwr
  else if n = 0x0A0 then x.eccstat
  else if n = 0x0A1 then d.rasstat
  else if 0x0C0 ≤ n ∧ n ≤ 0x0DF then d.mask (n - 0x0C0)
  else 0

/-- ACCMAP bits that other cores of the octet hold (R16). -/
def State.othersTiles (s : State) (c : Nat) : BitVec 16 :=
  ((octCores (octOf c)).filter (· != c)).foldl (fun m d => m ||| (s.coreAt d).mat.accmap) 0

/-- The event a DPOKE write makes at the next step, if any (R296). -/
def dpokeEvent (c : Nat) (v : Word) : Option Event :=
  let value : BitVec 32 := BitVec.ofNat 32 (bits v 63 32)
  let u := bits v 4 0
  let sc : Option Scope := match bits v 18 16 with | 2 => some .oct | 3 => some .die | 4 => some .pkg | 5 => some .pod | _ => none
  match bits v 11 8, sc with
  | 1, some sc => if u < unitsOf sc then some (.dpokeCnt (instOf sc c) u value) else none
  | 2, some sc => if u < unitsOf sc then some (.dpokeF (instOf sc c) u c value) else none
  | 3, _ => if u < 10 then some (.dpokeXv (if u < 8 then ⟨dieOf c, u⟩ else ⟨0, u⟩) c value) else none
  | 4, some sc => some (.dpokeStep (instOf sc c) c value)
  | 5, some sc => some (.dpokeDist (instOf sc c) c value)
  | 6, some sc => some (.dpokeGen (instOf sc c) value)
  | _, _ => none

/-- A write of TOKKk by a member: into its own copy at once, and to every member at the next ring round (R294). -/
def State.writeTokk (s : State) (c k : Nat) (v : Word) : State :=
  let id : RingId := if k < 8 then ⟨dieOf c, k⟩ else ⟨0, k⟩
  let r := s.ring id
  if !r.mb.contains c then s
  else
    let v := tokkClamp r.mb.length v
    s.modRing id (fun r => { r with tokk := sput r.tokk c v, pend := r.pend.filter (fun e => e.1 != c) ++ [(c, v)] })

/-- A write of SRSEED re-seeds every generator of the context (R44, R45). -/
def State.writeSeed (s : State) (c k : Nat) (v : Word) : State :=
  s.modCtx c k (fun y => { y with srseed := v.setWidth 32, sr := [] })

/-- A write that would take ILLEGAL and leave the register unchanged: ACCMAP bits another core of the octet holds
(R16), and TAG 0xFF (R156). -/
def State.badWrite (s : State) (c n : Nat) (v : Word) : Bool :=
  (n == 0x014 && (v.setWidth 16 &&& s.othersTiles c) != 0) || (n == 0x030 && bits v 7 0 == 0xFF)

/-- What a write does in a context of a core; fields that are RO or RZ keep their value (R7, R115). -/
def State.writeSys (s : State) (c k n : Nat) (v : Word) : State :=
  let core (f : Core → Core) : State := s.modCore c f
  let ctx (f : Ctx → Ctx) : State := s.modCtx c k f
  if n = 0x000 then ctx (fun y => { y with cstat := cstatWrite y v })
  else if n = 0x001 then ctx (fun y => { y with epcq0 := v, marks := y.marks &&& 6 })
  else if n = 0x002 then ctx (fun y => { y with epcq1 := v, marks := y.marks &&& 5 })
  else if n = 0x003 then ctx (fun y => { y with epcq2 := v, marks := y.marks &&& 3 })
  else if n = 0x004 then ctx (fun y => { y with esig := v &&& 0x3FFFF })
  else if n = 0x005 then ctx (fun y => { y with ecause := v &&& 0xFFFFFFFFFFFF00FF })
  else if n = 0x006 then ctx (fun y => { y with eaddr := v })
  else if n = 0x007 then core (fun x => { x with evec := lineOf v, evecDefault := x.evecDefault && lineOf v == x.evec })
  else if n = 0x008 then s.writeSeed c k v
  else if n = 0x014 then core (fun x => { x with mat := { x.mat with accmap := v.setWidth 16 } })
  else if n = 0x017 then core (fun x => { x with ipend := x.ipend &&& ~~~v })
  else if n = 0x018 then core (fun x => { x with imask := v &&& 0x7F })
  else if n = 0x019 then core (fun x => { x with ialarm := v })
  else if n = 0x030 then core (fun x => { x with xch := { x.xch with xtag := setBits x.xch.xtag 7 0 v.toNat } })
  else if n = 0x031 then core (fun x => { x with loc := { x.loc with qbound := v &&& 0xFFFFF } })
  else if n = 0x040 then s.modOct (octOf c) (fun o => { o with vshare := v &&& 0xFFFFFFFF })
  else if n = 0x041 then s.modOct (octOf c) (fun o => { o with mshare := v &&& 0xFFFFFFFF })
  else if n = 0x043 then s.modOct (octOf c) (fun o => { o with cut := v.getLsbD 0 })
  else if n = 0x044 then core (fun x => { x with mat := { x.mat with merr := v &&& 0xFFFFFFFFFFFF } })
  else if n = 0x05A then match dpokeEvent c v with | some e => s.after 1 e | none => s
  else if 0x070 ≤ n ∧ n ≤ 0x079 then s.writeTokk c (n - 0x070) v
  else if n = 0x085 then s.modSched (fun x => { x with xmaxlen := v &&& 0xFFFFF })
  else s

end Sys2Proof.Machine
end

