-- ==== Sys2Proof/Machine/System.lean ====
section
/-!
DEFINITION. System instructions, major 0x28 (spec/05 R112 to R122).
-/
namespace Sys2Proof.Machine

/-- Run a privileged function: in an unprivileged context it takes ILLEGAL (R112). -/
def State.privileged (s : State) (f : State → State) : State := if s.me.priv then f s else s.illegal


/-- TRAP (R113): retires, then trap entry with its code in ECAUSE[26:16]. As the second delay slot of an ERET its
retirement makes the return first, and the entry is made from the context returned to (log 71). -/
def execTrap (code : BitVec 11) (s : State) : Result :=
  .next (if s.boundaryReady then s.retire.raiseAfter { code := 0x20, detail := code.toNat } else s)

/-- ERET (R114): a privileged transfer, always taken; the return takes place as its second delay slot retires. -/
def execEret (n : Nullify) (s : State) : Result :=
  .next (s.privileged (fun s =>
    if s.me.eret ≠ 0 then s.illegal
    else (s.retireWith true none n).modMe (fun x => { x with eret := 2, q2 := {} })))

/-- Whether the issuing context may name a register (R7, R22, R115). -/
def State.mayAccess (s : State) (n : Nat) : Bool :=
  match sysAcc n with
  | none => false
  | some .priv => s.me.priv
  | some _ => true

/-- RDSYS (R115): a := the register. -/
def execRdsys (a : GReg) (reg : BitVec 11) (s : State) : Result :=
  .next (if s.mayAccess reg.toNat then s.resultIn 2 a (s.readSys s.core s.ctx reg.toNat) else s.illegal)

/-- WRSYS (R115): the register := c, ignored where every field is RO or RZ. -/
def execWrsys (reg : BitVec 11) (c : GReg) (s : State) : Result :=
  .next (
    if !s.mayAccess reg.toNat || s.badWrite s.core reg.toNat (s.g c) then s.illegal
    else (s.writeSys s.core s.ctx reg.toNat (s.g c)).retire)

/-- Read the entries' lines again, but for heads of one line; an unformed entry is formed once it can be (R119, R127). -/
def State.rereadQueue (s : State) (own : Word) : State :=
  State.reform <| each [0, 1, 2] s (fun s i =>
    let x := s.me
    let e := if i = 0 then x.q0 else if i = 1 then x.q1 else x.q2
    let put (s : State) (r : LineRead) : State := s.modMe (fun x =>
      if i = 0 then { x with q0 := { x.q0 with line := r } }
      else if i = 1 then { x with q1 := { x.q1 with line := r } }
      else { x with q2 := { x.q2 with line := r } })
    if e.line == .unformed || lineOf e.addr == own then s
    else if i = 1 && lineOf e.addr == lineOf x.q0.addr then put s x.q0.line
    else if i = 2 && lineOf e.addr == lineOf x.q1.addr then put s x.q1.line
    else
      let (s, r) := s.fetch s.core s.ctx (lineOf e.addr)
      put s r)

/-- IFENCE (R119): lines already read for later entries, but for IFENCE's own line, are read again. -/
def execIfence (s : State) : Result :=
  .next (
    let own := lineOf s.me.q0.addr
    s.retire.rereadQueue own)

/-- PARK (R121): context 0 with every helper IDLE; it completes at once when IPEND is not 0 and the queues are empty. -/
def execPark (s : State) : Result :=
  .next (s.privileged (fun s =>
    if s.ctx ≠ 0 || !s.here.helpersIdle then s.illegal
    else if s.here.ipend ≠ 0 && s.here.vec.queue.isEmpty && s.here.mat.queue.isEmpty then s.retire
    else (s.modHere (fun x => { x with parked := true })).hold .park 0))

/-- Deliver the latch to a and clear it: the completion of WFE (R120). -/
def State.takeLatch (s : State) (a : GReg) : State :=
  let v := s.me.latch
  (s.modMe (fun x => { x with latch := 0 })).result a (v.setWidth 64)

/-- WFE (R120): completes at once when the latch is not 0, else waits until it is. -/
def execWfe (a : GReg) (s : State) : Result :=
  .next (if s.me.latch ≠ 0 then s.takeLatch a else s.hold (.wfe a) 0)

/-! ### INJECT (R122) -/

/-- The bits an INJECT flips. -/
def injectMask (bit : BitVec 6) (dbl : Bool) : BitVec 64 :=
  (1#64 <<< bit.toNat) ||| (if dbl then 1#64 <<< (bit.toNat + 1) else 0)

/-- Whether stored errors already make a word unreadable. -/
def Ecc.badWord (e : Ecc) (w : Nat) : Bool := e.poison.contains w || popcount (sget 0 e.flips w) > 1

/-- Queue a matrix command (R183). -/
def State.queueMatrix (s : State) (m : MEntry) : State :=
  s.modHere (fun x => { x with mat := { x.mat with queue := x.mat.queue ++ [{ m with queued := s.now }] } })
/-- Whether the matrix queue accepts a command: room for one, and no queue fault waiting (R183, R185). -/
def Core.matRoom (x : Core) : Bool := decide (x.mat.queue.length < 4) && x.mat.fault.isNone

/-- INJECT.ACC: the command enters the matrix queue (R122); the tile must be in ACCMAP. -/
def execInjectAcc (a c : GReg) (bit : BitVec 6) (dbl : Bool) (s : State) : Result :=
  .next (s.privileged (fun s =>
    if s.ctx ≠ 0 || !s.here.mat.accmap.getLsbD (bits (s.g c) 3 0) then s.illegal
    else if !s.here.matRoom then s
    else (s.queueMatrix { instr := .injectAcc a c bit dbl, ops := [s.g c], mirror := .off, pc := s.me.q0.addr }).result a 1))

/-- INJECT.LOC: flips bits of a word of TCM or a mapped well, with the faults of a load (R122). -/
def execInjectLoc (a c : GReg) (bit : BitVec 6) (dbl : Bool) (s : State) : Result :=
  .next (s.privileged (fun s =>
    let la := (s.g c).toNat
    s.checked (s.checkLocal s.core la 8 8 false) (fun s =>
      if la < 0x30000 then
        if s.here.loc.ecc.badWord (la / 8) then s.raise { code := 0x0B, addr := s.g c }
        else (s.modLoc s.core (fun l => { l with ecc := eccFlip l.ecc la (injectMask bit dbl) })).result a 1
      else
        let w := bankWell (s.here.bankmap (la / 0x10000 - 4))
        if (s.well s.core w).ecc.badWord (la % 0x10000 / 8) then s.raise { code := 0x0B, addr := s.g c }
        else (s.modWell s.core w (fun v => { v with ecc := eccFlip v.ecc (la % 0x10000) (injectMask bit dbl) })).result a 1)))

/-- The fault of a load of a word through the mesh alias: the checks of the core it names, then an uncorrectable word
(R230). -/
def State.aliasFault (s : State) (p : Word) : Option Cause :=
  let x := s.coreAt (offOf p / 2 ^ 20)
  let la := offOf p % 2 ^ 20
  match x.checkRegion la 8 with
  | some z => some { z with addr := p }
  | none =>
    if if la < 0x30000 then x.loc.ecc.badWord (la / 8)
       else (s.well (offOf p / 2 ^ 20) (bankWell (x.bankmap (la / 0x10000 - 4)))).ecc.badWord (la % 0x10000 / 8) then
      some { code := 0x0B, addr := p }
    else none

/-- INJECT.SLICE: flips bits of a word in its home slice if its line is resident, changing nothing else (R122, R395), with
the faults of a load. A word whose sector the resident line does not hold counts as not resident (log 71). -/
def execInjectSlice (a c : GReg) (bit : BitVec 6) (dbl : Bool) (s : State) : Result :=
  .next (s.privileged (fun s =>
    let p := s.g c
    (s.obbUse s.core (idOf p)).checked ((s.checkGlobal s.core s.cid p 8).orElse (fun _ =>
        if idOf p = aliasId then s.aliasFault p else none)) (fun s =>
      match s.homeOf (idOf p) (offOf p) with
      | none => s.result a 0
      | some h =>
        let absent (s : State) : State :=
          if s.mustWait h then let (s, r) := s.openFault h; s.onAns r p (fun s _ => s)
          else if h.ext.back == 0 && s.hbmEcc.badWord ((h.hbm + offOf p % 256) / 8) then s.raise { code := 0x0B, addr := p }
          else s.result a 0
        match ((s.die h.die).slice h.slot).find h.set h.key with
        | none => absent s
        | some l =>
          if !l.valid.getLsbD (offOf p % 256 / 32) then absent s
          else if l.ecc.badWord (offOf p % 256 / 8) then s.raise { code := 0x0B, addr := p }
          else (s.putLine h { l with ecc := eccFlip l.ecc (offOf p % 256) (injectMask bit dbl) }).result a 1)))

/-- INJECT.DEC: flips bits of the next decode word of this context (R68, R122). -/
def execInjectDec (a : GReg) (bit : BitVec 6) (dbl : Bool) (s : State) : Result :=
  .next (s.privileged (fun s =>
    (s.setG a 1).retireWith false none .plain ((injectMask bit dbl).setWidth 16)))

/-! ### Identities and time (R116, R117) -/

/-- RDID (R116): the logical core number in the module. -/
def execRdid (a : GReg) (s : State) : Result := .next (s.resultIn 2 a (w64 s.core))
/-- RDID.POD (R116): module number * 30,720 + logical core number. -/
def execRdidPod (a : GReg) (s : State) : Result := .next (s.resultIn 2 a (w64 (s.modno * coreCount + s.core)))
/-- RDID.CTX (R116): the issuing context's number. -/
def execRdidCtx (a : GReg) (s : State) : Result := .next (s.resultIn 2 a (w64 s.ctx))
/-- RDID.POS (R116): the octet position. -/
def execRdidPos (a : GReg) (s : State) : Result := .next (s.resultIn 2 a (w64 (posOf s.core)))
/-- RDSTEP (R116): STEP at issue. -/
def execRdstep (a : GReg) (s : State) : Result := .next (s.resultIn 2 a (s.stepOf s.core))
/-- RDCYC (R116): CYCLE at issue. -/
def execRdcyc (a : GReg) (s : State) : Result := .next (s.resultIn 2 a s.here.cycle)

/-- WAIT.ST (R117): holds the context until STEP reaches TASKSTEP + N(c) + n; a := the lateness. -/
def execWaitSt (a c : GReg) (n : BitVec 11) (s : State) : Result :=
  .next (
    let target := s.here.taskstep + s.g c + n.setWidth 64
    if target.toNat ≤ (s.stepOf s.core).toNat then s.result a (s.stepOf s.core - target)
    else s.hold (.waitSt a c n) target)

end Sys2Proof.Machine
end

