-- ==== Sys2Proof/Machine/Wells.lean ====
section
/-!
DEFINITION. Well operations, major 0x16 (spec/06 R148 to R154), and the events that end their waits.
-/
namespace Sys2Proof.Machine

/-- The fault of a slot that is not attached: EADDR is the slot's base local address (R149, R154). -/
def detached (slot : Nat) : Cause := { code := 0x08, addr := w64 (slotBase slot) }
/-- Whether a BANKMAP entry maps a well that its core may touch. -/
def bankOpen (b : Word) : Bool := bankV b && bankSt b != 2

/-! ### GIVE (R149) -/

/-- Whether both waits of a GIVE have ended: the slot's accesses have completed and the receiver's slot is empty. -/
def State.giveReady (s : State) (slot : Nat) (r t : Nat) : Bool :=
  !s.here.slotBusy s.core slot && !bankV ((s.coreAt r).bankmap t)

/-- The indivisible step: unmapped here, INCOMING there, EXPECT disarmed at both ends, and event bit 0. -/
def State.giveStep (s : State) (slot r t : Nat) : State :=
  let w := bankWell (s.here.bankmap slot)
  let c := s.core
  let s := (s.setBank c slot 0).setBank r t (mkBank 2 0 w)
  let s := s.modWell c w (fun v => { v with st := .incoming })
  (((s.disarm c slot).disarm r t).event r 0).retire

/-- GIVE: its checks, then the indivisible step, or its waits. -/
def State.give (s : State) (slot t : BitVec 3) (b : GReg) : State :=
  let p := (s.g b).toNat
  let k := slot.toNat
  let e := s.here.bankmap k
  if 7 < p || p = posOf s.core || bankMode e ≠ 0 then s.illegal
  else if !bankV e || bankSt e ≠ 0 then s.raise (detached k)
  else
    let r := 8 * octOf s.core + p
    if s.giveReady k r t.toNat then s.giveStep k r t.toNat else s.hold (.give slot b t) 0

/-- GIVE (R149): hands the well of slot s to slot t of the core at octet position b. -/
def execGive (slot : BitVec 3) (b : GReg) (t : BitVec 3) (s : State) : Result := .next (s.give slot t b)

/-- GIVE_INDIVISIBLE_STEP (R149): a waiting GIVE looks again, and takes its step when both waits have ended. -/
def execGiveIndivisibleStep (c k : Nat) (s : State) : Result :=
  .next (
    let s := s.at_ c k
    match s.me.wait with
    | some (.give slot b t) => s.give slot t b
    | _ => s)

/-! ### WSTAT, WWAIT (R150, R151) -/

/-- WSTAT (R151): BANKMAPs in [15:0], the expected tag in [23:16], armed in [24]. -/
def execWstat (a : GReg) (slot : BitVec 3) (s : State) : Result :=
  .next (
    let l := s.here.loc
    s.result a (w64 ((s.here.bankmap slot.toNat).toNat % 65536 + (sget 0 l.expTag slot.toNat).toNat * 65536
      + (l.armed.getLsbD slot.toNat).toNat * 2 ^ 24)))

/-- WWAIT: completes when the slot is mapped; an INCOMING well becomes OWNED, with an acquire at OCT scope. -/
def State.wwait (s : State) (slot : BitVec 3) : State :=
  let k := slot.toNat
  let e := s.here.bankmap k
  if !bankV e then s.hold (.wwait slot) 0
  else if bankSt e ≠ 2 then s.retire
  else
    let w := bankWell e
    let s := s.setBank s.core k (mkBank 0 (bankMode e) w)
    let s := s.modWell s.core w (fun v => { v with st := .owned })
    (s.acquire s.core .oct).retire

/-- WWAIT (R150): waits until slot s is mapped. -/
def execWwait (slot : BitVec 3) (s : State) : Result := .next (s.wwait slot)

/-- WWAIT_COMPLETE (R150): the waiting WWAIT looks at its slot again. -/
def execWwaitComplete (c k : Nat) (s : State) : Result :=
  .next (
    let s := s.at_ c k
    match s.me.wait with
    | some (.wwait slot) => s.wwait slot
    | _ => s)

/-! ### WMAP, WUNMAP (R152, R153) -/

/-- The result code of WMAP (R152). -/
def State.wmapCode (s : State) (slot : Nat) (v : Word) : Nat :=
  let mode := bits v 6 5
  let shared := v.getLsbD 7
  let ringElsewhere := (List.range 8).any (fun k => k != slot && bankV (s.here.bankmap k) && bankMode (s.here.bankmap k) == 3)
  let st := (s.well s.core (bits v 4 0)).st
  if bits v 63 8 ≠ 0 ∨ (mode = 1 ∧ slot % 2 = 1) ∨ (mode = 2 ∧ slot % 2 = 0) ∨ (shared ∧ mode ≠ 0) ∨ (mode = 3 ∧ ringElsewhere) then 3
  else if bankV (s.here.bankmap slot) then 1
  else if st ≠ .free ∧ ¬(st = .shared ∧ shared) then 2
  else 0

/-- WMAP (R152): maps well b[4:0] into slot s. Privileged. -/
def execWmap (a : GReg) (slot : BitVec 3) (b : GReg) (s : State) : Result :=
  .next (s.privileged (fun s =>
    let v := s.g b
    let code := s.wmapCode slot.toNat v
    let s := if code = 0 then s.mapSlot s.core slot.toNat (bits v 4 0) (bits v 6 5) (v.getLsbD 7) else s
    s.result a (w64 code)))

/-- WUNMAP once the slot's accesses have completed. -/
def State.wunmap (s : State) (a : GReg) (slot : BitVec 3) : State :=
  let k := slot.toNat
  if s.here.slotBusy s.core k then s.hold (.wunmap a slot) 0
  else
    let old := s.here.bankmap k
    (s.unmapSlot s.core k).result a (w64 (bits old 15 0))

/-- WUNMAP (R153): unmaps slot s after its accesses in flight; a := the old entry. Privileged. -/
def execWunmap (a : GReg) (slot : BitVec 3) (s : State) : Result := .next (s.privileged (fun s => s.wunmap a slot))

/-- WUNMAP_COMPLETE (R153): the waiting WUNMAP looks again. -/
def execWunmapComplete (c k : Nat) (s : State) : Result :=
  .next (
    let s := s.at_ c k
    match s.me.wait with
    | some (.wunmap a slot) => s.wunmap a slot
    | _ => s)

/-! ### EXPECT, TAGRD (R154) -/

/-- EXPECT (R154): arms slot s with tag b[7:0] and marks every tile of it unchecked. -/
def execExpect (slot : BitVec 3) (b : GReg) (s : State) : Result :=
  .next (
    let k := slot.toNat
    let t := bits (s.g b) 7 0
    if t = 0xFF then s.illegal
    else if !bankOpen (s.here.bankmap k) then s.raise (detached k)
    else (s.modLoc s.core (fun l => { l with
      expTag := sput l.expTag k (BitVec.ofNat 8 t), armed := l.armed ||| (1#8 <<< k), checked := sdel l.checked k })).retire)

/-- TAGRD (R154): a := the tag of tile b[3:0] of slot s's well. -/
def execTagrd (a : GReg) (slot : BitVec 3) (b : GReg) (s : State) : Result :=
  .next (
    let e := s.here.bankmap slot.toNat
    if !bankOpen e then s.raise (detached slot.toNat)
    else s.result a ((sget 0 (s.well s.core (bankWell e)).tags (bits (s.g b) 3 0)).setWidth 64))

end Sys2Proof.Machine
end

