-- ==== Sys2Proof/Machine/Exchange.lean ====
section
/-!
DEFINITION. Exchange phases, major 0x17 (spec/06 R157 to R163; spec/11 R262 to R269): entering, sends, receives,
reducing sends, and the swap at the end.
-/
namespace Sys2Proof.Machine

/-! ### Failures (R160, R269) -/

/-- Record a failed transfer: kind bit, offset and source; the first of the phase is kept (R269). -/
def State.xfailAt (s : State) (c bit n src : Nat) : State :=
  s.modCore c (fun x =>
    let f := x.xch.xfail
    let cnt := bits f 23 16
    let f' := (setBits f 23 16 (min 255 (cnt + 1))) ||| (1#64 <<< bit)
    { x with xch := { x.xch with xfail := if cnt = 0 then setBits f' 45 32 n else f',
                                 firstSrc := if cnt = 0 then src else x.xch.firstSrc } })
/-- Set UNSWAPPED in a receiving core (R163). -/
def State.setUnswapped (s : State) (c : Nat) : State :=
  s.modCore c (fun x => { x with xch := { x.xch with xfail := x.xch.xfail ||| 16 } })

/-- XTAG.OPEN. -/
def Core.xopen (x : Core) : Bool := x.xch.xtag.getLsbD 8
/-- The scope of a code 2 to 6 of a register field (R132). -/
def scopeOf (n : Nat) : Scope := match n with | 0 => .lane | 1 => .core | 2 => .oct | 3 => .die | 4 => .pkg | 5 => .pod | _ => .sys
/-- XTAG.SCOPE. -/
def Core.xscope (x : Core) : Scope := scopeOf (bits x.xch.xtag 11 9)
/-- The instance of a core's open phase. -/
def State.phaseOf (s : State) (c : Nat) : Inst := instOf (s.coreAt c).xscope c
/-- Members of an instance's exchange barrier. -/
def State.xmembers (s : State) (i : Inst) : List Nat := ((s.inst i).unit 31).members

/-! ### XBAR (R158) -/

/-- Arrive at the exchange barrier and wait: FORCED is set at an XBAR's arrival (R274). -/
def State.xArrive (s : State) (i : Instr) (inst : Inst) (bar : Bool) : State :=
  let (s, n) := s.arrive inst 31 s.core
  let s := if bar then s.force s.core else s
  let s := s.hold i (w64 n)
  if n = 0 then s else s.modMe (fun x => { x with arrived := true })

/-- Complete XBAR or XEND: an acquire, and a := the witness of the exchange barrier; TOKLOST is not theirs (R170). -/
def State.xDone (s : State) (sc : Scope) (a : GReg) : State :=
  let s := (s.acquire s.core sc).modMe (fun x => { x with arrived := false })
  s.result a (s.witnessOf s.core (instOf sc s.core))

/-- XBAR (R158): arrives at the exchange barrier of the scope; ILLEGAL while a phase is open. An arrival is held while
the die's routes are recomputed (R263). -/
def execXbar (sc : Scope) (a : GReg) (s : State) : Result :=
  .next (
    let i := instOf sc s.core
    if s.me.arrived then
      if (s.membAt i 31 s.core).f then s.hold (.xbar sc a) untilClear else s.xDone sc a
    else if s.here.xopen then s.illegal
    else if !(s.membAt i 31 s.core).mb then s.raise nonmember
    else if (s.die (dieOf s.core)).xhold then s
    else s.onRelease sc (fun s => s.xArrive (.xbar sc a) i true))

/-- Wake the contexts of the members that wait at the exchange barrier; `fin` completes one whose release this is. -/
def State.xWake (s : State) (i : Inst) (ms : List Nat) (fin : State → State) : State :=
  each (ctxsOf ms) s (fun s e =>
    let s := s.at_ e.1 e.2
    if !s.me.waitsOn e.1 i 31 then s
    else if s.me.aux = 1 then fin s
    else if s.me.aux = 2 then s.modMe (fun x => { x with aux := 1 })
    else if s.me.aux = 0 then s.modMe (fun x => { x with wait := none })
    else if !(s.membAt i 31 e.1).f then fin s else s)

/-- A member's phase opens: TASKSTEP, OPEN and SCOPE, XFAIL cleared (R158, R269). -/
def State.openPhase (s : State) (sc : Scope) (c : Nat) : State :=
  let t := s.stepOf c
  s.modCore c (fun x => { x with
    taskstep := t
    xch := { x.xch with xtag := setBits (x.xch.xtag ||| 0x100) 11 9 sc.num, xfail := 0, firstSrc := 0,
                        sends := [], wins := [], contrib := [] } })

/-- XBAR_RELEASE (R158): waits until every member is FORCED at ÷1, then opens the phase in every member. -/
def execXbarRelease (i : Inst) (s : State) : Result :=
  .next (
    let ms := s.xmembers i
    if !((s.inst i).unit 31).due then s
    else if !ms.all (fun c => (s.coreAt c).fduty.ready) then each ms s (fun s c => s.force c)
    else
      let s := { s.modInst i (fun d => { d with xLegit := d.legit, xGen := d.gen, xAt := s.now }) with
        occ := s.occ.map (fun (o : Occ) => { o with live := o.live && o.inst != i })
        -- the step of load at the release is the one that may be larger than RATE (R363)
        gov := { s.gov with loose := true } }
      let s := each ms (s.releaseFlags i 31) (fun s c => s.openPhase i.scope c)
      s.xWake i ms (fun s => match s.me.wait with | some (.xbar sc a) => s.xDone sc a | _ => s))

/-! ### Sends and receives (R159) -/

/-- The layout of a transfer descriptor. -/
def descOk (v : Word) : Bool := bits v 7 0 == 0 && bits v 27 20 == 0 && bits v 63 38 == 0
/-- First label of a transfer of a core. -/
def Core.label (x : Core) (n : Nat) : Nat := (x.taskstep + w64 n).toNat

/-- The checks of a send, in R159's order; `b` is the destination of an XSEND. -/
def State.sendCheck (s : State) (n : Nat) (b : Option Word) (v : Word) : Option Cause :=
  let src := bits v 19 0
  let i := s.phaseOf s.core
  if !s.here.xopen then some s.me.illegal
  else if !descOk v then some { code := 0x06, addr := w64 src }
  else if (match b with | some d => !(s.xmembers i).contains d.toNat | none => false) then some { code := 0x0C, addr := w64 src }
  else if s.here.label n < (s.stepOf s.core).toNat then some { code := 0x0D }
  else s.checkLocal s.core src 256 64 false

/-- The transfer that a context of a core has under way. -/
def Xfer.of (e : Xfer) (k : Nat) : Bool := e.ctx == k && !e.done

/-- XSEND (R159): holds its context until its four beats have left. -/
def execXsend (n : BitVec 14) (b c : GReg) (s : State) : Result :=
  .next (
    let v := s.g c
    s.checked (s.sendCheck n.toNat (some (s.g b)) v) (fun s =>
      let x : Xfer := { ctx := s.ctx, n := n.toNat, dst := (s.g b).toNat, src := bits v 19 0, off := bits v 35 20, pair := bits v 37 36 }
      ((s.markTiles s.core x.src 256).modHere (fun y => { y with xch := { y.xch with sends := y.xch.sends ++ [x] } })).hold (.xsend n b c) 0))

/-- XSENDR (R161): contributes 256 bytes to the combination at offset n. -/
def execXsendr (op : RedOp) (ty : RedType) (n : BitVec 14) (c : GReg) (s : State) : Result :=
  .next (
    let v := s.g c
    s.checked (s.sendCheck n.toNat none v) (fun s =>
      let x : Contrib := { ctx := s.ctx, n := n.toNat, op := op, ty := ty, src := bits v 19 0, pair := bits v 37 36, off := bits v 35 20 }
      ((s.markTiles s.core x.src 256).modHere (fun y => { y with xch := { y.xch with contrib := y.xch.contrib ++ [x] } })).hold (.xsendr op ty n c) 0))

/-- XRECV (R159): opens the port to core b for the four steps from n. -/
def execXrecv (n : BitVec 14) (b : GReg) (s : State) : Result :=
  .next (
    let i := s.phaseOf s.core
    let z : Option Cause :=
      if !s.here.xopen then some s.me.illegal
      else if !(s.xmembers i).contains (s.g b).toNat then some { code := 0x0C }
      else if s.here.label n.toNat < (s.stepOf s.core).toNat then some { code := 0x0D }
      else none
    s.checked z (fun s =>
      (s.modHere (fun y => { y with xch := { y.xch with wins := y.xch.wins ++ [{ ctx := s.ctx, n := n.toNat, src := (s.g b).toNat }] } })).hold (.xrecv n b) 0))

/-! ### Channels and collisions (R265, R266, R268) -/

/-- The channels a beat uses: a port number and a channel of it (R265). -/
def State.channels (s : State) (b : Beat) : List (Nat × Nat) :=
  let o := octOf b.sender
  let r := octOf b.dst
  (2 * o, posOf b.sender) :: (2 * r + 1, posOf b.dst)
    :: (if o = r then [] else (s.pathPorts o r).map (fun p =>
          (p.1, if p.2 = 64 then 8 * (o % 8) + posOf b.sender else posOf b.sender)))

/-- Last step offset of a reducing send's window beyond n: D_cap is 3 at each of these scopes (R161). -/
def combineSpan (sc : Scope) : Nat := match sc with | .pkg => 80 | _ => 32

/-- The network and die-link ports on the edges of an instance's primary tree, in both directions (R268): none within an
octet, the hops between two routers of a die, the die links of the module. -/
def State.treePorts (s : State) (i : Inst) : List Nat :=
  let on (u v : Nat) : List Nat := match i.scope with
    | .die => (netPorts i.idx u ((s.route i.idx u v).getD [])).map (·.1)
    | .pkg => [2000000 + u * 16 + v]
    | _ => []
  if i.scope = .oct then []
  else ((s.nodes i).filter (· != s.rootOf i 0)).flatMap (fun v => on v (s.parentOf i 0 v) ++ on (s.parentOf i 0 v) v)

/-- Whether a beat uses a port that a reducing send occupies in the step of its label (R268). -/
def State.occMeets (s : State) (b : Beat) (o : Occ) : Bool :=
  decide (o.first ≤ b.label) && decide (b.label ≤ o.last)
    && ((s.xmembers o.inst).any (fun m => octOf m == octOf b.sender || octOf m == octOf b.dst)
      || (s.channels b).any (fun p => (s.treePorts o.inst).contains p.1))
/-- Whether two reducing sends occupy a port in one step (R266, R268). -/
def State.occShare (s : State) (o q : Occ) : Bool :=
  decide (o.first ≤ q.last) && decide (q.first ≤ o.last)
    && ((s.xmembers o.inst).any (fun m => (s.xmembers q.inst).any (fun n => octOf m == octOf n))
      || (s.treePorts o.inst).any (s.treePorts q.inst).contains)

/-- The window of a reducing send is spoilt. -/
def State.spoilOcc (s : State) (p : Occ → Bool) : State :=
  { s with occ := s.occ.map (fun o => if p o then { o with bad := true } else o) }
/-- The window of the open phase that a contribution belongs to. -/
def Occ.of (o : Occ) (i : Inst) (n : Nat) : Bool := o.inst == i && o.n == n && o.live

/-- Whether a beat is one of a transfer of its sender. -/
def Beat.isOf (b : Beat) (e : Xfer) : Bool := e.ctx == b.ctx && e.n == b.n
/-- Whether a payload has lost a beat. -/
def State.spoilt (s : State) (b : Beat) : Bool := (s.coreAt b.sender).xch.sends.any (fun (e : Xfer) => b.isOf e && e.bad)
/-- Change the transfer that a beat belongs to. -/
def State.modXfer (s : State) (b : Beat) (f : Xfer → Xfer) : State :=
  s.modCore b.sender (fun x => { x with xch := { x.xch with sends := x.xch.sends.map (fun e => if b.isOf e then f e else e) } })

/-- A beat of a payload is lost: the sender records one failure for the payload, and its tag will not be written. -/
def State.beatLost (s : State) (b : Beat) (bit : Nat) : State :=
  let s' := s.modXfer b (fun e => { e with bad := true })
  if s.spoilt b then s' else s'.xfailAt b.sender bit b.n b.src

/-- A contribution of a core begins to leave: its phase's reducing send occupies its ports from now on, unless it does so
already. Beats that have come there with a label of its window, and another reducing send that shares a port, collide with
it (R266, R268). A core's second contribution at one offset collides with its first. -/
def State.occupyPorts (s : State) (c : Nat) (e : Contrib) : State :=
  let i := s.phaseOf c
  let lo := (s.coreAt c).label e.n
  let o : Occ := { inst := i, n := e.n, first := lo, last := lo + combineSpan i.scope }
  if s.occ.any (fun q => q.of i e.n) then
    (if (s.coreAt c).xch.contrib.any (fun (f : Contrib) => f.n == e.n && f.ctx != e.ctx && !f.data.isEmpty)
     then s.spoilOcc (fun q => q.of i e.n) else s)
  else
    let beats := s.past.filter (fun b => s.occMeets b o)
    let met := s.occ.filter (s.occShare o)
    let s := s.spoilOcc met.contains
    each beats { s with occ := s.occ ++ [{ o with bad := !beats.isEmpty || !met.isEmpty }] } (fun s b => s.beatLost b 0)

/-- XSEND_BEATS (R159): one beat of 64 bytes leaves in each of the steps n to n + 3, read as the source stands, with the
label of that step (R262). -/
def execXsendBeats (c k : Nat) (s : State) : Result :=
  .next (
    let x := s.coreAt c
    let t := (s.stepOf c).toNat
    match x.xch.sends.find? (fun (e : Xfer) => e.of k) with
    | some e =>
      if e.beat < 4 && x.label e.n + e.beat ≤ t then
        let (s, bs, _) := s.localRead c (e.src + 64 * e.beat) 64
        let b : Beat := { label := x.label e.n + e.beat, sender := c, ctx := k, dst := e.dst, k := e.beat, n := e.n, src := e.src, off := e.off, pair := e.pair,
                          tag := BitVec.ofNat 8 (bits x.xch.xtag 7 0), data := bs }
        { s.modCore c (fun y => { y with xch := { y.xch with
            sends := y.xch.sends.map (fun (f : Xfer) => if f.of k then { f with beat := f.beat + 1 } else f) } }) with
          beats := s.beats ++ [b] }
      else s
    | none =>
      match x.xch.contrib.find? (fun (e : Contrib) => e.ctx == k && decide (e.data.length < 256)) with
      | some e =>
        if x.label e.n + e.data.length / 64 ≤ t then
          let s := if e.data.isEmpty then s.occupyPorts c e else s
          let (s, bs, _) := s.localRead c (e.src + e.data.length) 64
          let e' := { e with data := e.data ++ bs }
          let s := s.modCore c (fun y => { y with xch := { y.xch with contrib := y.xch.contrib.map (fun f => if f = e then e' else f) } })
          if e'.data.length < 256 then s
          else
            let s := s.at_ c k
            match s.me.wait with
            | some (.xsendr ..) => s.retire
            | _ => s
        else s
      | none => s)

/-- A core's pair can be swapped: front and back mapped OWNED in their modes (R163). -/
def Core.swappable (x : Core) (j : Nat) : Bool :=
  let f := x.bankmap (2 * j)
  let b := x.bankmap (2 * j + 1)
  bankV f && bankSt f == 0 && bankMode f == 1 && bankV b && bankSt b == 0 && bankMode b == 2

/-- Write bytes into a core's back well of a pair, by the exchange receive port (R226). -/
def State.backWrite (s : State) (c pair off : Nat) (bs : List Byte) : State :=
  let w := bankWell ((s.coreAt c).bankmap (2 * pair + 1))
  (s.serve (s.banksFor c 10 (slotBase (2 * pair + 1) + off, bs.length))).modWell c w (fun v => let o := eccWrite v.data v.ecc off bs; { v with data := o.mem, ecc := o.ecc })
/-- Write a tile's tag in a core's back well. -/
def State.backTag (s : State) (c pair tile : Nat) (tag : BitVec 8) : State :=
  let w := bankWell ((s.coreAt c).bankmap (2 * pair + 1))
  s.modWell c w (fun v => v.setTag tile tag)

/-- A payload meets no channel open to it: its sender records the failure, and its receiver records one too (R160). -/
def State.unmatched (s : State) (b : Beat) : State :=
  let seen := (s.coreAt b.sender).xch.sends.any (fun (e : Xfer) => b.isOf e && e.unmatched)
  let s := (s.beatLost b 1).modXfer b (fun e => { e with unmatched := true })
  if seen then s else s.xfailAt b.dst 1 b.n 0

/-- Whether the window of a later XRECV overlaps one, by offset and then by issue; `l` holds those issued after it (R267). -/
def Window.overtaken (w : Window) (all l : List Window) : Bool :=
  all.any (fun v => decide (w.n < v.n) && decide (v.n < w.n + 4)) || l.any (fun v => v.n == w.n)

/-- The window of a receiver that is open at a label: the later of two that overlap (R267). -/
def Core.openWindow (x : Core) (t : Nat) : Option Window :=
  (x.xch.wins.filter (fun w => decide (x.label w.n ≤ t) && decide (t < x.label w.n + 4))).foldl
    (fun (b : Option Window) w => match b with | some v => if v.n ≤ w.n then some w else b | none => some w) none

/-- A beat that meets no other reaches its receiver, whose windows are judged by the beat's label (R159, R160, R163, R262). -/
def State.landBeat (s : State) (b : Beat) : State :=
  match (s.coreAt b.dst).openWindow b.label with
  | some w =>
    if w.src = b.sender then
      let s := s.modCore b.dst (fun x => { x with xch := { x.xch with
        wins := x.xch.wins.map (fun v => if v = w then { v with got := v.got + 1 } else v) } })
      if !(s.coreAt b.dst).swappable b.pair then (s.beatLost b 4).setUnswapped b.dst
      else
        let s := s.backWrite b.dst b.pair (b.off + 64 * b.k) b.data
        if b.k = 3 && !s.spoilt b then s.backTag b.dst b.pair (b.off / 4096) b.tag else s
    else s.unmatched b
  | none => s.unmatched b

/-- Whether two beats of different transfers share a channel in the step of one label (R266). -/
def State.collide (s : State) (b d : Beat) : Bool :=
  b.label == d.label && !(d.sender == b.sender && d.ctx == b.ctx && d.n == b.n)
    && (s.channels b).any (fun p => (s.channels d).contains p)

/-- Beats that left earlier, and the windows of reducing sends, are kept while some core in an open phase has not passed
their labels. -/
def State.keepPast (s : State) : State :=
  let ahead (t : Nat) : Bool := s.cores.any (fun e => e.2.xopen && decide ((s.stepOf e.1).toNat ≤ t))
  { s with past := s.past.filter (fun b => ahead b.label), occ := s.occ.filter (fun o => ahead o.last) }

/-- EXCHANGE_PAYLOAD_LANDING (R159, R266 to R268): the beats that have left collide or land, by their labels (R262); one
whose label has come earlier from a core whose STEP is ahead spoils that payload too (log 44). A send whose fourth beat has
left completes. -/
def execExchangePayloadLanding (s : State) : Result :=
  .next (
    let bs := s.beats
    let old := s.past
    let s := { s with beats := [], past := old ++ bs.map (fun b => { b with data := [] }) }
    let s := each bs s (fun s b =>
      let red := s.occ.filter (s.occMeets b)
      let s := s.spoilOcc red.contains
      let met := old.filter (s.collide b)
      let s := each met s (fun s d => s.beatLost d 0)
      if !met.isEmpty || bs.any (s.collide b) || !red.isEmpty then s.beatLost b 0 else s.landBeat b)
    each bs s (fun s b =>
      if b.k ≠ 3 then s
      else
        let s := (s.modXfer b (fun e => { e with done := true })).at_ b.sender b.ctx
        match s.me.wait with
        | some (.xsend ..) => s.retire
        | _ => s))

/-- XRECV_WINDOW (R159, R160, R267): the window's last step has passed; one that received no beats, or that a later one
overlaps, is a failure. A window stands until the phase ends, for beats that carry its labels later (R262). -/
def execXrecvWindow (c k : Nat) (s : State) : Result :=
  .next (
    let s := s.at_ c k
    match s.me.wait with
    | some (.xrecv n _) =>
      let x := s.here
      if (s.stepOf c).toNat < x.label n.toNat + 4 then s
      else
        let mine (w : Window) : Bool := w.ctx == k && w.n == n.toNat && !w.done
        let after := (x.xch.wins.dropWhile (fun w => !mine w)).drop 1
        let empty := match x.xch.wins.find? mine with | some w => w.got == 0 || w.overtaken x.xch.wins after | none => true
        let s := s.modHere (fun y => { y with xch := { y.xch with wins := y.xch.wins.map (fun w => if mine w then { w with done := true } else w) } })
        (if empty then s.xfailAt c 2 n.toNat 0 else s).retire
    | _ => s)

/-! ### Reducing sends (R161) -/

/-- Op on one element of a reduction, by codes (R161). -/
def redElem (op : RedOp) (ty : RedType) (x y : Nat) : Nat :=
  match ty with
  | .w =>
    let a := (BitVec.ofNat 32 x).toInt
    let b := (BitVec.ofNat 32 y).toInt
    match op with
    | .add => (x + y) % 2 ^ 32
    | .min => if b < a then y else x
    | .max => if a < b then y else x
  | t =>
    let F : Fmt := if t = .f32 then .f32 else .bf
    match op with
    | .add => enc F (fAdd (dec F x) (dec F y)) .ne
    | .min => enc F (fMin (dec F x) (dec F y)) .ne
    | .max => enc F (fMax (dec F x) (dec F y)) .ne

/-- Bytes of an element of a reduction. -/
def redWidth (ty : RedType) : Nat := match ty with | .bf => 2 | _ => 4

/-- Op on n elements of two byte strings. -/
def redBytes (op : RedOp) (ty : RedType) : Nat → List Byte → List Byte → List Byte
  | 0, _, _ => []
  | n + 1, xs, ys =>
    let z := redWidth ty
    leBytes z (redElem op ty (leNat (xs.take z)) (leNat (ys.take z))) ++ redBytes op ty n (xs.drop z) (ys.drop z)

/-- Op on two contributions, none being absent. -/
def redOpt (op : RedOp) (ty : RedType) (x y : Option (List Byte)) : Option (List Byte) :=
  match x, y with
  | none, y => y
  | x, none => x
  | some a, some b => some (redBytes op ty (a.length / redWidth ty) a b)

/-- Combine at a node of a tree: its children in increasing number, then the members placed at the node in increasing
core number (R161; log 18). -/
def State.combine (s : State) (i : Inst) (t : Nat) (op : RedOp) (ty : RedType) (ms : List Nat)
    (own : Nat → Option (List Byte)) : Nat → Nat → Option (List Byte)
  | 0, _ => none
  | fuel + 1, v =>
    let kids := (s.nodes i).filter (fun u => u != s.rootOf i t && s.parentOf i t u == v)
    let acc := kids.foldl (fun acc u => redOpt op ty acc (s.combine i t op ty ms own fuel u)) none
    (ms.filter (fun c => s.nodeIn i.scope c == v)).foldl (fun acc c => redOpt op ty acc (own c)) acc

/-- The member at the root of the primary tree, or the lowest (log 18). -/
def State.rootMember (s : State) (i : Inst) (ms : List Nat) : Nat :=
  ((ms.filter (fun c => s.nodeIn i.scope c == s.rootOf i 0)) ++ ms).headD 0

/-- A core's contribution of an offset, if it made one. -/
def State.contribOf (s : State) (n c : Nat) : Option Contrib := (s.coreAt c).xch.contrib.find? (fun e => e.n == n)

/-- XSENDR_COMBINE (R161, R268): the root's result is written into every member's back well with the root's tag; a
member without a contribution, or whose pair cannot be swapped, records a failure. -/
def execXsendrCombine (i : Inst) (s : State) : Result :=
  .next (
    let ms := s.xmembers i
    match s.cores.findSome? (fun (c, x) => x.xch.contrib.find? (fun e =>
        s.phaseOf c == i && decide (x.label e.n + combineSpan i.scope ≤ (s.stepOf c).toNat))) with
    | none => s
    | some e =>
      let bad := s.occ.any (fun o => o.of i e.n && o.bad)
      let root := s.rootMember i ms
      let tag : BitVec 8 := BitVec.ofNat 8 (bits (s.coreAt root).xch.xtag 7 0)
      let lead := (s.contribOf e.n root).getD e
      let sum := s.combine i 0 lead.op lead.ty ms (fun c => (s.contribOf e.n c).map (·.data)) 3 (s.rootOf i 0)
      let s := each ms s (fun s c =>
        let mine := s.contribOf e.n c
        let d := mine.getD lead
        let src := match mine with | some x => x.src | none => 0
        let s := if bad then s.xfailAt c 0 e.n src
          else
            let s := if mine.isNone then s.xfailAt c 3 e.n 0 else s
            if !(s.coreAt c).swappable d.pair then s.xfailAt c 4 e.n src
            else (s.backWrite c d.pair d.off (sum.getD [])).backTag c d.pair (d.off / 4096) tag
        s)
      { s with cores := s.cores.map (fun (c, x) => (c,
          if s.phaseOf c == i then { x with xch := { x.xch with contrib := x.xch.contrib.filter (fun y => y.n != e.n) } } else x)) })

/-! ### XEND (R162) -/

/-- Whether the core's transfers have finished and none of its queued commands touches a slot of an exchange pair (R162, R222). -/
def Core.phaseIdle (x : Core) (c : Nat) : Bool :=
  x.xch.sends.all (·.done) && x.xch.wins.all (·.done) && x.xch.contrib.isEmpty
    && (List.range 8).all (fun k => !((bankMode (x.bankmap k) == 1 || bankMode (x.bankmap k) == 2) && x.slotBusy c k))

/-- Complete XEND: a := witness, then SCHEDULE after retirement when the phase recorded a failure (R160). -/
def State.xendDone (s : State) (sc : Scope) (a : GReg) : State :=
  let x := s.here.xch
  if bits x.xfail 23 16 = 0 then s.xDone sc a
  else (s.xDone sc a).raiseAfter { code := 0x0C, detail := bits x.xfail 45 32 * 65536, addr := w64 x.firstSrc }

/-- XEND (R162): waits for the core's transfers, arrives at the exchange barrier and waits for its release. -/
def execXend (sc : Scope) (a : GReg) (s : State) : Result :=
  .next (
    let i := instOf sc s.core
    if s.me.arrived then
      if (s.membAt i 31 s.core).f then s.hold (.xend sc a) untilClear else s.xendDone sc a
    else if !s.here.xopen || s.here.xscope ≠ sc then s.illegal
    else if !(s.membAt i 31 s.core).mb then s.raise nonmember
    else if !s.here.phaseIdle s.core then s
    else s.onRelease sc (fun s => s.xArrive (.xend sc a) i false))

/-- The swap of one pair, poisoned or not; armed tags stay and the new front well is unchecked (R155, R162). -/
def State.swapPair (s : State) (c j : Nat) (poison : Bool) : State :=
  let x := s.coreAt c
  if !x.swappable j then s
  else
    let f := bankWell (x.bankmap (2 * j))
    let b := bankWell (x.bankmap (2 * j + 1))
    let s := (s.setBank c (2 * j) (mkBank 0 1 b)).setBank c (2 * j + 1) (mkBank 0 2 f)
    let s := s.modLoc c (fun l => { l with checked := sdel l.checked (2 * j) })
    if poison then
      let all : SMap (BitVec 8) := (List.range 16).map (fun t => (t, 0xFF))
      let spoil (v : Well) : Well := { v with tags := all, tagErr := [] }
      (s.modWell c f spoil).modWell c b spoil
    else s

/-- A member's phase closes: the swaps, with event bit 0 where a pair swapped, XTAG, TASKSTEP and FORCED (R120, R125, R162).
XTAG.SCOPE, which R156 gives a meaning only while a phase is open, becomes 0 (log 72). -/
def State.closePhase (s : State) (c : Nat) (poison : Bool) : State :=
  let some_ := [0, 1, 2, 3].any (s.coreAt c).swappable
  let s := each [0, 1, 2, 3] s (fun s j => s.swapPair c j poison)
  let s := if some_ then s.event c 0 else s
  let t := s.stepOf c
  let s := s.modCore c (fun x => { x with
    taskstep := t
    xch := { x.xch with xtag := w64 ((bits x.xch.xtag 7 0 + 1) % 255), sends := [], wins := [] } })
  s.unforce c

/-- XEND_RELEASE (R162, R299): no earlier than two rounds after the XBAR release; the pairs swap in every member,
poisoned when the root's LEGIT or GEN says so. -/
def execXendRelease (i : Inst) (s : State) : Result :=
  .next (
    let d := s.inst i
    let ms := s.xmembers i
    if !(d.unit 31).due || s.now < d.xAt + 2 * s.roundLen i.scope then s
    else
      let poison := !d.xLegit || !d.legit || d.gen != d.xGen
      let s := each ms (s.releaseFlags i 31) (fun s c => s.closePhase c poison)
      let s := s.xWake i ms (fun s => match s.me.wait with | some (.xend sc a) => s.xendDone sc a | _ => s)
      -- the hold of a pre-emption begins for this barrier once the phase has closed (R327, R329)
      let draining (c : Nat) : Bool := match (s.coreAt c).run.node with | some n => (s.node n).st == .draining | none => false
      if ms.any draining then s.modUnit i 31 (fun x => { x with held := true }) else s)

end Sys2Proof.Machine
end

