-- ==== Sys2Proof/Machine/Engines.lean ====
section
/-!
DEFINITION. The copy and collective engines, major 0x19 (spec/06 R177 to R182; spec/12 R300; spec/21 R407).
-/
namespace Sys2Proof.Machine

/-! ### Issue checks (R178) -/

/-- Whether an operand address is local. -/
def isLocal (a : Word) : Bool := idOf a == 0
/-- First failure among the ranges of an operand in local memory; bits [39:20] of its address are zero at every length. -/
def State.engLocal (s : State) (a : Word) (n : Nat) (store : Bool) : Option Cause :=
  if !isLocal a then none
  else if 2 ^ 20 ≤ a.toNat then some { code := 0x07, addr := a }
  else if n = 0 then none
  else s.checkLocal s.core a.toNat n 8 store
/-- First failure of a global operand. -/
def State.engGlobal (s : State) (a : Word) (n : Nat) : Option Cause :=
  if isLocal a then none else s.checkObject s.core s.cid a n

/-- The checks of R178 in order, then that a timed start is not past (R180). Within one item the destination is judged
before the source and both before the length, whose own word is EADDR (log 72). -/
def State.engCheck (s : State) (dst src len : Word) (start : Option Word) : Option Cause :=
  let n := bits len 31 0
  if bits len 63 32 ≠ 0 then some s.me.illegal
  else if dst.toNat % 8 ≠ 0 then some { code := 0x06, addr := dst }
  else if src.toNat % 8 ≠ 0 then some { code := 0x06, addr := src }
  else if n % 8 ≠ 0 then some { code := 0x06, addr := len }
  else (s.engLocal dst n true).orElse (fun _ => (s.engLocal src n false).orElse (fun _ =>
    (s.engGlobal dst n).orElse (fun _ => (s.engGlobal src n).orElse (fun _ =>
      match start with
      | some t => if t.toNat < (s.stepOf s.core).toNat then some { code := 0x0D } else none
      | none => none))))

/-- Commands of one engine of a core, oldest first. -/
def Core.engsOf (x : Core) (copy : Bool) : List EngCmd := x.engs.filter (fun e => e.copy == copy)
/-- The command an engine works at: a timed one that has started, or else its oldest if that is untimed (R180). -/
def Core.engHead (x : Core) (copy : Bool) : Option EngCmd :=
  ((x.engsOf copy).find? (fun e => e.begun)).orElse (fun _ => (x.engsOf copy).head?.filter (fun e => e.start.isNone))
/-- Change a core's engine commands. -/
def State.modEngs (s : State) (c : Nat) (f : List EngCmd → List EngCmd) : State := s.modCore c (fun x => { x with engs := f x.engs })
/-- Change one command. -/
def State.modEng (s : State) (c id : Nat) (f : EngCmd → EngCmd) : State :=
  s.modEngs c (fun l => l.map (fun e => if e.id = id then f e else e))
/-- Remove a command; FORCED clears with the last timed one (R274). -/
def State.dropEng (s : State) (c id : Nat) : State := (s.modEngs c (fun l => l.filter (fun e => e.id != id))).unforce c

/-- Accept a command: the source's tiles are marked, the command enters its engine, a timed one sets FORCED. -/
def State.acceptEng (s : State) (e : EngCmd) : State :=
  let s := if isLocal e.src && e.len != 0 then s.markTiles s.core e.src.toNat e.len else s
  let s := s.modMe (fun x => { x with cpyCount := if e.copy then x.cpyCount + 1 else x.cpyCount })
  if e.len = 0 then s.retire
  else
    -- a collective that has stopped in every member stops here as it is issued (R181)
    match e.copy, s.here.collOwed with
    | false, st :: l => ((s.modHere (fun x => { x with collOwed := l })).modMe (fun x => { x with collFail := some (x.collFail.getD st) })).retire
    | _, _ =>
    let s := s.tick1.modEngs s.core (fun l => l ++ [e])
    (if e.start.isSome then s.force s.core else s).retire

/-- Scope of the release that an engine command's issue is (R246). -/
def engScope (dst src : Word) : Scope := if isLocal dst && isLocal src then .oct else .die

/-- Issue an engine command (R178): a fifth is not ready; its issue is a release. -/
def State.issueEng (s : State) (atn : Option (BitVec 16)) (dst src len : Word) (e : EngCmd) : State :=
  let start := atn.map (fun n => s.here.taskstep + n.setWidth 64)
  if (s.here.engsOf e.copy).length ≥ 4 then s
  else ((s.obbUse s.core (idOf dst)).obbUse s.core (idOf src)).checked (s.engCheck dst src len start) (fun s => s.onRelease (engScope dst src) (fun s =>
    s.acceptEng { e with id := s.fresh, ctx := s.ctx, dst := dst, src := src, len := bits len 31 0, start := start,
                         n := (atn.getD 0).toNat, idx := s.me.cpyCount, since := s.now, bank := s.here.loc.bank }))

/-- CPY (R179): copies c bytes from b to a. -/
def execCpy (atn : Option (BitVec 16)) (a b c : GReg) (s : State) : Result :=
  .next (s.issueEng atn (s.g a) (s.g b) (s.g c) { id := 0, instr := some (.cpy atn a b c), ctx := 0, copy := true, dst := 0, src := 0, len := 0 })

/-- COLL (R181): reduces c bytes at b of every launch member of the instance into a of every member. -/
def execColl (op : RedOp) (ty : RedType) (sc : Scope) (atn : Option (BitVec 16)) (a b c : GReg) (s : State) : Result :=
  .next (s.issueEng atn (s.g a) (s.g b) (s.g c)
    { id := 0, instr := some (.coll op ty sc atn a b c), ctx := 0, copy := false, dst := 0, src := 0, len := 0, op := op, ty := ty, scope := sc })

/-! ### Waits (R179, R181) -/

/-- TIMING at the wait for a timed command that was not ready (R180); it needs an instruction boundary. -/
def State.lateWait (s : State) (n : Nat) (clear : Ctx → Ctx) : State :=
  if s.boundaryReady then (s.modMe clear).raise { code := 0x0D, detail := n } else s.modMe (fun x => { x with wait := none })

/-- CPYW as it stands: waits for every earlier CPY of the context, then writes the status. -/
def State.cpyw (s : State) (a : GReg) : State :=
  if (s.here.engsOf true).any (fun e => e.ctx == s.ctx) then s.hold (.cpyw a) 0
  else match s.me.lateCpy with
    | some n => s.lateWait n (fun x => { x with lateCpy := none })
    | none =>
      let v := match s.me.cpyFail with | some (code, idx) => code + idx % 256 * 256 | none => 0
      ((s.acquire s.core .die).modMe (fun x => { x with cpyCount := 0, cpyFail := none })).result a (w64 v)
/-- CPYW (R179): a := the status of the context's CPYs since the last CPYW. -/
def execCpyw (a : GReg) (s : State) : Result := .next (s.cpyw a)
/-- CPYW_COMPLETE (R179): the waiting CPYW looks again. -/
def execCpywComplete (c k : Nat) (s : State) : Result :=
  .next (
    let s := s.at_ c k
    match s.me.wait with
    | some (.cpyw a) => s.cpyw a
    | _ => s)

/-- COLLW as it stands: waits for the context's COLLs, then writes the first status and the redo count. -/
def State.collw (s : State) (a : GReg) : State :=
  if (s.here.engsOf false).any (fun e => e.ctx == s.ctx) then s.hold (.collw a) 0
  else match s.me.lateColl with
    | some n => s.lateWait n (fun x => { x with lateColl := none })
    | none =>
      let v := s.me.collFail.getD 0 + s.me.collRedo % 2 ^ 32 * 256
      ((s.acquire s.core .pod).modMe (fun x => { x with collFail := none, collRedo := 0 })).result a (w64 v)
/-- COLLW (R181): a := the first status and the redo count of the context's COLLs. -/
def execCollw (a : GReg) (s : State) : Result := .next (s.collw a)
/-- COLLW_COMPLETE (R181): the waiting COLLW looks again. -/
def execCollwComplete (c k : Nat) (s : State) : Result :=
  .next (
    let s := s.at_ c k
    match s.me.wait with
    | some (.collw a) => s.collw a
    | _ => s)

/-! ### Accesses of an engine -/

/-- How far an engine's access got: done, waiting for a page, not taken yet, or failed with a status. -/
inductive EngRes where
  | done | page (obj pg : Nat) | again | fail (status : Nat)
  deriving DecidableEq, Repr

/-- The pieces of n bytes from an address that lie in one 32-byte sector each. -/
def sectorPieces (a n : Nat) : List (Nat × Nat) :=
  (List.range ((a + n + 31) / 32 - a / 32)).map (fun i =>
    let lo := max a ((a / 32 + i) * 32)
    let hi := min (a + n) ((a / 32 + i + 1) * 32)
    (lo, hi - lo))

/-- The accesses of an engine to n bytes: a sector each, or 8 bytes each in a DEVICE or STRONG page (R252). -/
def State.engPieces (s : State) (a n : Nat) : List (Nat × Nat) :=
  (sectorPieces a n).flatMap (fun p =>
    match s.obj (p.1 / 2 ^ 40) with
    | some o =>
      if o.uncached (p.1 % 2 ^ 40) then (List.range (p.2 / 8)).map (fun i => (p.1 + 8 * i, 8)) else [p]
    | none => [p])

/-- What a home's answer means to an engine (R178, R179). -/
def engRes (r : Ans) (a : Word) : EngRes :=
  match r with
  | .ok _ => .done
  | .poison => .fail 0x0B
  | .absent => .page (idOf a) (offOf a / 65536)
  | .object => .fail 0x09
  | .held | .stall => .again

/-- BANKMAP as a command was checked against it. -/
def EngCmd.bankmap (e : EngCmd) (slot : Nat) : Word := sget 0 e.bank slot

/-- Read one piece for an engine command of a core: a local one by the BANKMAP of its check, one of the mesh alias by the
target's as it stands (R21, R230). -/
def State.engRead (s : State) (c cid : Nat) (e : EngCmd) (a : Word) (n : Nat) : State × List Byte × EngRes :=
  let got (r : State × List Byte × Option Nat) : State × List Byte × EngRes := (r.1, r.2.1, if r.2.2.isSome then .fail 0x0B else .done)
  if isLocal a then got ((s.serve (s.banksFor c 9 (a.toNat, n))).localReadBy e.bankmap c a.toNat n)
  else if idOf a = aliasId then
    let t := offOf a / 2 ^ 20
    match s.portFault t (offOf a % 2 ^ 20) n false with
    | some z => (s, [], .fail z.code)
    | none => got ((s.serve (s.banksFor t (11 + posOf t) (offOf a % 2 ^ 20, n))).localRead t (offOf a % 2 ^ 20) n)
  else if e.dead = some (idOf a, offOf a / 65536) then (s, [], .fail 0x0A)
  else match s.l1Flush c (a.toNat / 32) with
    | (s, .ok _) =>
      match s.rawRead c a n cid with
      | (s, .ok bs) => (s, bs, .done)
      | (s, r) => (s, [], engRes r a)
    | (s, r) => (s, [], engRes r a)

/-- Write one piece for an engine command of a core. -/
def State.engWrite (s : State) (c cid : Nat) (e : EngCmd) (a : Word) (bs : List Byte) : State × EngRes :=
  if isLocal a then ((s.serve (s.banksFor c 9 (a.toNat, bs.length))).localWriteBy e.bankmap c a.toNat bs cid, .done)
  else if idOf a = aliasId then
    let t := offOf a / 2 ^ 20
    let la := offOf a % 2 ^ 20
    match s.portFault t la bs.length true with
    | some z => (s, .fail z.code)
    | none => ((s.serve (s.banksFor t (11 + posOf t) (la, bs.length))).localWrite t la bs cid, .done)
  else if e.dead = some (idOf a, offOf a / 65536) then (s, .fail 0x0A)
  else match s.l1Flush c (a.toNat / 32) with
    | (s, .ok _) => let (s, r) := s.rawWrite c a bs cid; (s, engRes r a)
    | (s, r) => (s, engRes r a)

/-- Read a range, up to its first piece that fails. -/
def State.engReadAll (s : State) (c cid : Nat) (e : EngCmd) (a : Word) (n : Nat) : State × List Byte × EngRes :=
  each (s.engPieces a.toNat n) (s, [], .done) (fun (s, bs, r) p =>
    match r with
    | .done => let (s, x, r) := s.engRead c cid e (w64 p.1) p.2; (s, bs ++ x, r)
    | r => (s, bs, r))
/-- Write a range, up to its first piece that fails, and how many bytes were written. -/
def State.engWriteAll (s : State) (c cid : Nat) (e : EngCmd) (a : Word) (bs : List Byte) : State × EngRes × Nat :=
  each (s.engPieces a.toNat bs.length) (s, .done, 0) (fun (s, r, k) p =>
    match r with
    | .done =>
      let (s, r) := s.engWrite c cid e (w64 p.1) ((bs.drop (p.1 - a.toNat)).take p.2)
      (s, r, if r = .done then k + p.2 else k)
    | r => (s, r, k))

/-- Before a command starts, every private line that its global ranges touch is written back and dropped (R233). -/
def State.engFlush (s : State) (c : Nat) (e : EngCmd) : State × EngRes :=
  let hit (l : L1Line) : Bool := l.priv && [e.src, e.dst].any (fun a =>
    !isLocal a && decide (a.toNat / 32 ≤ l.addr) && decide (l.addr * 32 < a.toNat + e.len))
  if e.flushed then (s, .done)
  else
    let (s, r) := each ((s.coreAt c).cache.lines.filter hit) (s, EngRes.done) (fun (s, r) l =>
      match r with
      | .done => let (s, r) := s.l1WriteBack c l; (if engRes r 0 = .done then s.l1Drop c l.addr else s, engRes r (w64 (l.addr * 32)))
      | r => (s, r))
    (if r = .done then s.modEng c e.id (fun e => { e with flushed := true }) else s, r)

/-- An engine waits for a page: the fault is open at its home, and the command goes on where it stood at the reply (log 20). -/
def State.engWaits (s : State) (c id obj pg : Nat) : State :=
  let s := match s.homeOf obj (pg * 65536) with
    | some h => (s.openFault h).1
    | none => s
  (s.modEng c id (fun e => { e with page := some (obj, pg) })).joinPage obj pg (.eng c id)

/-! ### CPY (R179, R180) -/

/-- Record the first failure of a context's copies. -/
def Ctx.cpyFailed (x : Ctx) (status idx : Nat) : Ctx := { x with cpyFail := some (x.cpyFail.getD (status, idx)) }

/-- A copy ends, with the status of a failure if there was one. -/
def State.cpyEnds (s : State) (c : Nat) (e : EngCmd) (v : Option Nat) : State :=
  match v with
  | some v => (s.dropEng c e.id).modCtx c e.ctx (fun x => x.cpyFailed v e.idx)
  | none => s.dropEng c e.id

/-- A copy whose flush is done moves its bytes, read before any is written, from where it stood. -/
def State.cpyMove (s : State) (c : Nat) (e : EngCmd) : State :=
  let cid := (s.coreAt c).cid
  let (s, bs, r) := if e.bad.isSome then (s, [], .done) else s.engReadAll c cid e (e.src + w64 e.data.length) (e.len - e.data.length)
  let data := e.data ++ bs
  let bad := match r with | .fail v => some v | _ => e.bad
  let keep (s : State) (k : Nat) : State := s.modEng c e.id (fun e => { e with data := data, bad := bad, wrote := e.wrote + k })
  match r with
  | .page obj pg => (keep s 0).engWaits c e.id obj pg
  | .again => keep s 0
  | _ =>
    match s.engWriteAll c cid e (e.dst + w64 e.wrote) (data.drop e.wrote) with
    | (s, .page obj pg, k) => (keep s k).engWaits c e.id obj pg
    | (s, .again, k) => keep s k
    | (s, .fail v, _) => s.cpyEnds c e (some v)
    | (s, .done, _) => s.cpyEnds c e bad

/-- An engine reads a command's entry and meets its errors (R375, R377). -/
def State.engMeet (s : State) (c : Nat) (e : EngCmd) : State × Bool :=
  match e.hurt with
  | none => (s, false)
  | some d => (s.modEng c e.id (fun e => { e with hurt := none })).suffer c 6 [d]

/-- CPY_COMPLETE (R179): the copy at the head of the core's engine moves its bytes; it stops at its first failing sector,
and what it wrote stands. -/
def execCpyComplete (c : Nat) (s : State) : Result :=
  .next (match (s.coreAt c).engHead true with
    | none => s
    | some e =>
      if e.page.isSome then s
      else match s.engMeet c e with
      | (s, true) => s
      | (s, false) => match s.engFlush c e with
        | (s, .done) => s.cpyMove c e
        | (s, .page obj pg) => s.engWaits c e.id obj pg
        | (s, .again) => s
        | (s, .fail v) => s.cpyEnds c e (some v))

/-- TIMED_COMMAND_START (R180): at its step a timed command starts, whatever else is still to start; it is dropped, for
TIMING at the next wait, when its engine works at another command, a local operand's slot is not attached, or it loses a
sub-bank to another timed command of the core (R272). -/
def execTimedCommandStart (c : Nat) (copy : Bool) (id : Nat) (s : State) : Result :=
  .next (
    let x := s.coreAt c
    match (x.engsOf copy).find? (fun e => e.id == id) with
    | none => s
    | some e =>
      if e.begun || e.start.isNone then s
      else
        let busy := (x.engHead copy).isSome
          || (match e.start with | some t => decide (t.toNat < (s.stepOf c).toNat) | none => false)
        let closed := ([e.dst, e.src].filter isLocal).any (fun a => (x.checkRegion a.toNat e.len).isSome)
        let beside := s.timedBeside c (e.ranges c) (some id)
        let lost := beside && Config.bankLoss s.fresh % 3 == 2
        let s := if beside then s.tick1 else s
        if busy || closed || lost then
          (s.dropEng c id).modCtx c e.ctx (fun y =>
            if copy then { y with lateCpy := some (y.lateCpy.getD e.n) } else { y with lateColl := some (y.lateColl.getD e.n) })
        else (s.modEng c id (fun e => { e with begun := true, since := s.now, bank := x.loc.bank })).unforce c)

/-! ### COLL (R181, R300) -/

/-- Launch members of an instance: its cores of a node's range, whether they have started, run, or have left. -/
def State.launchMembers (s : State) (i : Inst) (n : Nat) : List Nat :=
  let r := (s.node n).rec_
  ((List.range r.lcores).map (r.lcore0 + ·)).filter (holds i)

/-- The oldest collective of a core, started or not. -/
def Core.collFirst (x : Core) : Option EngCmd := (x.engHead false).orElse (fun _ => (x.engsOf false).head?)
/-- The oldest collective of a core that runs a node. -/
def State.collOf (s : State) (n c : Nat) : Option EngCmd := if (s.coreAt c).run.node = some n then (s.coreAt c).collFirst else none
/-- The command at the head of a member's collective engine, if it is of an instance's scope. -/
def State.collHead (s : State) (i : Inst) (n c : Nat) : Option EngCmd := (s.collOf n c).filter (fun e => e.scope == i.scope)

/-- Nodes with a collective at the head of some member's engine in an instance. -/
def State.collNodes (s : State) (i : Inst) : List Nat :=
  (s.cores.filterMap (fun e => e.2.run.node.filter (fun n => holds i e.1 && (s.collHead i n e.1).isSome))).eraseDups

/-- The instances on a collective's path: its own and the die and module instances beneath it (R181, R407). -/
def pathInsts (i : Inst) (ms : List Nat) : List Inst :=
  match i.scope with
  | .pkg => i :: instsOf .die ms
  | .pod => i :: (instsOf .pkg ms ++ instsOf .die ms)
  | _ => [i]
/-- The GENs of the path, none while an instance is illegitimate. -/
def State.pathGen (s : State) (i : Inst) (ms : List Nat) : Option (List (BitVec 16)) :=
  let l := (pathInsts i ms).map s.inst
  if l.all (fun d => d.legit) then some (l.map (·.gen)) else none

/-- Members that have no collective under way take a status at their next one: the collective has stopped in every member
(R181; log 46). -/
def State.collOwe (s : State) (n : Nat) (ms : List Nat) (status : Nat) : State :=
  each ms s (fun s c =>
    let r := (s.coreAt c).run
    if (r.node = some n ∧ (s.coreAt c).collFirst.isNone) ∨ r.next.map (·.1) = some n then
      s.modCore c (fun x => { x with collOwed := x.collOwed ++ [status] })
    else s)

/-- A collective stops in the members that have joined it, with a status. -/
def State.collStop (s : State) (i : Inst) (n : Nat) (ms : List Nat) (status : Nat) : State :=
  each ms s (fun s c => match s.collHead i n c with
    | none => s
    | some e =>
      let s := s.dropEng c e.id
      if status = 0 then s else s.modCtx c e.ctx (fun x => { x with collFail := some (x.collFail.getD status) }))

/-- Read the members' parts of a chunk. -/
def State.collRead (s : State) (ms : List (Nat × EngCmd)) (cid off n : Nat) : State × SMap (List Byte) × EngRes × Nat :=
  each ms (s, [], .done, 0) (fun (s, m, r, at_) (c, e) =>
    match r with
    | .done =>
      let (s, bs, r) := s.engReadAll c cid e (e.src + w64 off) n
      (s, sput m c bs, r, c)
    | r => (s, m, r, at_))

/-- The private lines of the members' ranges are flushed before their commands start (R233). -/
def State.collFlush (s : State) (ms : List (Nat × EngCmd)) : State × EngRes × Nat :=
  each ms (s, .done, 0) (fun (s, r, at_) (c, e) =>
    match r with
    | .done => let (s, r) := s.engFlush c e; (s, r, c)
    | r => (s, r, at_))

/-- Write a chunk into every member, each byte once. -/
def State.collWrite (s : State) (ms : List (Nat × EngCmd)) (cid off : Nat) (bs : List Byte) : State × EngRes × Nat :=
  each ms (s, .done, 0) (fun (s, r, at_) (c, e) =>
    match r with
    | .done =>
      let (s, r, k) := s.engWriteAll c cid e (e.dst + w64 (off + e.wrote)) (bs.drop e.wrote)
      (s.modEng c e.id (fun e => { e with wrote := e.wrote + k }), r, c)
    | r => (s, r, at_))

/-- Whether a collective of an instance reaches other modules of the pod. -/
def State.foreign (s : State) (i : Inst) : Bool := i.scope == .pod && decide (1 < s.podsize) && !s.refused

/-- A failed try of a chunk: another on the other tree, or status 0xE0 at the sixteenth (R181). In a pod whose collective
format has no redo the first failure stops it (R407). -/
def State.collRetry (s : State) (i : Inst) (n : Nat) (ms : List (Nat × EngCmd)) : State :=
  if s.foreign i && !s.podRedo then s.collStop i n (ms.map (·.1)) 0xE0 else
  let s := each ms s (fun s (c, e) => s.modCtx c e.ctx (fun x => { x with collRedo := x.collRedo + 1 }))
  if ms.any (fun p => p.2.tries + 1 ≥ 16) then s.collStop i n (ms.map (·.1)) 0xE0
  else each ms s (fun s (c, e) => s.modEng c e.id (fun e =>
    { e with tries := e.tries + 1, tree := 1 - e.tree, gen := none, data := [], running := false, since := s.now }))

/-- The command of a member waits for a page, or the collective stops, or is tried again. -/
def State.collMet (s : State) (i : Inst) (n : Nat) (ms : List (Nat × EngCmd)) (r : EngRes) (at_ : Nat) : State :=
  match r with
  | .page obj pg => match ms.find? (fun p => p.1 == at_) with
    | some (c, e) => s.engWaits c e.id obj pg
    | none => s
  | .fail v => s.collStop i n (ms.map (·.1)) v
  | _ => s

/-- The partial of this module combined with what the other modules of the pod contribute on either side of it on the tree,
whose bytes are free values (R407; log 19). -/
def State.podSum (s : State) (op : RedOp) (ty : RedType) (own : List Byte) : State × List Byte :=
  let side (k : Nat) : List Byte := (List.range own.length).map (Config.podByte k)
  (s.tick1.tick1, (redOpt op ty (redOpt op ty (some (side s.fresh)) (some own)) (some (side (s.fresh + 1)))).getD own)

/-- The members' parts of a chunk: read, or, on a redo at POD scope, as they were kept (R407). -/
def State.collParts (s : State) (i : Inst) (ms : List (Nat × EngCmd)) (cid off n : Nat) : State × SMap (List Byte) × EngRes × Nat :=
  if i.scope = .pod ∧ ms.all (fun p => p.2.kept.isSome) = true then (s, ms.map (fun p => (p.1, p.2.kept.getD [])), .done, 0)
  else s.collRead ms cid off n

/-- A try begins: the GENs of the path are noted, the chunk is read from every member and combined (R181, R300). -/
def State.collTry (s : State) (i : Inst) (n : Nat) (ms : List (Nat × EngCmd)) (all : List Nat) (cid : Nat) : State :=
  match ms.head? with
  | none => s
  | some (_, e) =>
    let gen := s.pathGen i all
    match s.collFlush ms with
    | (s, .done, _) =>
      match s.collParts i ms cid e.off (min 4096 (e.len - e.off)) with
      | (s, parts, .done, _) =>
        let own := (s.combine i e.tree e.op e.ty (ms.map (·.1)) (fun c => sfind parts c) 4 (s.rootOf i e.tree)).getD []
        let (s, sum) := if s.foreign i then s.podSum e.op e.ty own else (s, own)
        each ms s (fun s (c, e) => s.modEng c e.id (fun e =>
          { e with gen := gen, data := sum, running := true, since := s.now, kept := if i.scope = .pod then sfind parts c else none }))
      | (s, _, r, c) => s.collMet i n ms r c
    | (s, r, c) => s.collMet i n ms r c

/-- Commit a chunk: written once in every member (R181, R300). -/
def State.collCommit (s : State) (i : Inst) (n : Nat) (ms : List (Nat × EngCmd)) (cid : Nat) : State :=
  match ms.head? with
  | none => s
  | some (_, e) =>
    match s.collWrite ms cid e.off e.data with
    | (s, .done, _) =>
      if e.len ≤ e.off + e.data.length then s.collStop i n (ms.map (·.1)) 0
      else each ms s (fun s (c, e) => s.modEng c e.id (fun e =>
        { e with off := e.off + e.data.length, tries := 0, tree := 0, gen := none, data := [], running := false, since := s.now, wrote := 0, kept := none }))
    | (s, r, c) => s.collMet i n ms r c

/-- Instances of other scopes in which members' oldest collectives wait for a core too (R181). -/
def State.crossed (s : State) (i : Inst) (n : Nat) (all : List Nat) (c : Nat) : List Inst :=
  (all.filterMap (fun d => (s.collOf n d).bind (fun f =>
    if f.scope != i.scope && holds (instOf f.scope d) c then some (instOf f.scope d) else none))).eraseDups

/-- A collective stops with a status in every member of an instance, those to join it among them. -/
def State.collStopAll (s : State) (i : Inst) (n status : Nat) : State :=
  let all := s.launchMembers i n
  (s.collOwe n all status).collStop i n (all.filter (fun c => (s.collHead i n c).isSome)) status

/-- Step one launch's collective of an instance (R181). A try is read and combined under the path's GENs, and commits two
rounds later only if they still stand (R300). -/
def State.collNode (s : State) (i : Inst) (n : Nat) : State :=
  let all := s.launchMembers i n
  let ms := all.filterMap (fun c => (s.collHead i n c).map (fun e => (c, e)))
  match ms.head? with
  | none => s
  | some (c, e) =>
    if ms.any (fun p => p.2.hurt.isSome) then each ms s (fun s p => (s.engMeet p.1 p.2).1)
    else
    let cross := s.crossed i n all c
    if !cross.isEmpty then each (i :: cross) s (fun s j => s.collStopAll j n 0xE1)
    else if !ms.all (fun p => p.2.len == e.len && p.2.op == e.op && p.2.ty == e.ty) then s.collStopAll i n 0xE1
    else if ms.length < all.length then s
    else if ms.any (fun p => (p.2.start.isSome && !p.2.begun) || p.2.page.isSome || decide (s.now < p.2.notBefore)) then s
    else if ms.any (fun p => p.2.wrote != 0) then s.collCommit i n ms (s.coreAt c).cid
    else if !e.running then
      -- a collective that has not started when a member leaves is saved with it (R182)
      (if ms.any (fun p => (s.coreAt p.1).leaving) then s else s.collTry i n ms all (s.coreAt c).cid)
    else if s.now < e.since + 2 * s.roundLen i.scope then s
    else if e.gen = none || s.pathGen i all ≠ e.gen then s.collRetry i n ms
    else if s.foreign i && !Config.podChunk s.fresh then s.tick1
    else s.collCommit i n ms (s.coreAt c).cid

/-- COLL_CHUNK (R181): every collective of the instance takes its next step. -/
def execCollChunk (i : Inst) (s : State) : Result := .next (each (s.collNodes i) s (fun s n => s.collNode i n))

/-- COLL_MEMBER_TIMEOUT (R181): a collective that some member has not issued within the scope timeout stops with 0xE2. -/
def execCollMemberTimeout (i : Inst) (s : State) : Result :=
  .next (each (s.collNodes i) s (fun s n =>
    let all := s.launchMembers i n
    let ms := all.filterMap (s.collHead i n)
    if ms.length < all.length && ms.any (fun e => decide (e.since + s.timeout i ≤ s.now)) then s.collStopAll i n 0xE2 else s))

/-- POD_CHUNK_TIMEOUT (R407): chunks of the POD instance whose commit or partial is overdue start again on the other tree. -/
def execPodChunkTimeout (s : State) : Result :=
  .next (
    let i : Inst := ⟨.pod, 0⟩
    each (s.collNodes i) s (fun s n =>
      let ms := (s.launchMembers i n).filterMap (fun c => (s.collHead i n c).map (fun e => (c, e)))
      if ms.any (fun p => p.2.gen.isSome && decide (p.2.since + 4 * s.roundLen .pod ≤ s.now)) then s.collRetry i n ms else s))

/-- The saved engine commands of a core are queued again: the checks of their issue are made afresh, but for one that was
under way, and one that fails ends with the fate its engine gives it (R180, R182, R334; log 72). -/
def State.requeueEngs (s : State) (c : Nat) : State :=
  let q := (s.coreAt c).engs
  each q (s.modEngs c (fun _ => [])) (fun s e =>
    let e := { e with since := s.now, bank := (s.coreAt c).loc.bank }
    let again := s.modEngs c (fun l => l ++ [e])
    if e.page.isSome then again
    else match (s.at_ c e.ctx).engCheck e.dst e.src (w64 e.len) e.start with
      | none => again
      | some z => s.modCtx c e.ctx (fun x =>
          if z.code = 0x0D then (if e.copy then { x with lateCpy := some (x.lateCpy.getD e.n) } else { x with lateColl := some (x.lateColl.getD e.n) })
          else if e.copy then x.cpyFailed z.code e.idx else { x with collFail := some (x.collFail.getD z.code) }))

end Sys2Proof.Machine
end

