-- ==== Sys2Proof/Machine/Fences.lean ====
section
/-!
DEFINITION. Fences and cache operations, major 0x15 (spec/06 R143 to R147).
-/
namespace Sys2Proof.Machine

/-- Whether reads before a fence are still to be performed: context 0's queued vector accesses, and queued accesses to
local memory, which all contexts of the core share and other agents write (R20, R202, R245). -/
def State.readsPending (s : State) : Bool :=
  (s.ctx == 0 && s.here.vecPending) || !s.here.vecRanges.isEmpty || !s.here.matRanges.isEmpty

/-- FENCE (R144): a release and an acquire at the scope. -/
def execFence (sc : Scope) (s : State) : Result :=
  .next (if s.readsPending then s else s.onRelease sc (fun s => (s.acquire s.core sc).retire))
/-- FENCE.ACQ (R144): only the acquire; the queued reads before it are performed first, and its WCOMB stores are
held no longer (R202, R237). -/
def execFenceAcq (sc : Scope) (s : State) : Result :=
  .next (
    if s.readsPending then s
    else match s.combDrain s.core s.ctx with
      | (s, true) => (s.acquire s.core sc).retire
      | (s, false) => s)
/-- FENCE.REL (R144): only the release. -/
def execFenceRel (sc : Scope) (s : State) : Result := .next (s.onRelease sc (fun s => s.retire))

/-- LBFENCE (R145): waits until what the core's queues and engines still have to do under either name of its local memory
is performed; every other access under either name is performed as it completes. -/
def execLbfence (s : State) : Result := .next (if s.here.localPending then s else s.retire)

/-- The address checks of a cache operation: object, bounds and ownership of the byte named (R146, R233). -/
def State.cacheCheck (s : State) (a : Word) : Option Cause := s.checkObject s.core s.cid a 1

/-- Whether a prefetch of an address does anything: it would not fault and its page is resident (R146). -/
def State.prefetchable (s : State) (a : Word) : Bool :=
  (s.cacheCheck a).isNone && (match s.homeOf (idOf a) (offOf a) with
    | none => false
    | some h => !s.mustWait h && h.ext.ty != .device && h.ext.ty != .strong && h.ext.back == 0)

/-- A prefetch is no demand: a hit on a resident line touches no way (R349). -/
def State.keepTree (t s : State) (a : Word) : State :=
  match s.homeOf (idOf a) (offOf a) with
  | none => t
  | some h =>
    let sl := (s.die h.die).slice h.slot
    match sl.find h.set h.key with
    | some l =>
      if l.valid.getLsbD (offOf a % 256 / 32) then
        t.modSlice h.die h.slot (fun x => { x with plru := sput x.plru h.set (sget 0 sl.plru h.set) })
      else t
    | none => t

/-- Whether the line of an address is not resident and its set has no eligible way: a demand would bypass (R349). -/
def State.bypassed (s : State) (a : Word) : Bool :=
  match s.homeOf (idOf a) (offOf a) with
  | none => false
  | some h => let sl := (s.die h.die).slice h.slot; (sl.find h.set h.key).isNone && !sl.anyEligible h.set

/-- PREF (R146): a hint that fetches the line into the first-level cache or only into its home slice; it never faults
or waits, and whatever it would meet is dropped. -/
def execPref (lvl : PrefLevel) (b : GReg) (s : State) : Result :=
  .next (
    let a := s.g b
    let s := s.obbUse s.core (idOf a)
    if !s.prefetchable a then s.retire
    else match lvl with
      | .l1 =>
        ((s.gLoad s.core s.ctx a 1 s.cid).1.keepTree s a).retire
      | .sl =>
        if s.bypassed a then s.retire
        else ((s.homeRead s.core (idOf a) (offOf a / 32 * 32) 32 s.cid).1.keepTree s a).retire)

/-- Whether the page of an address is on the move (R345). -/
def State.onTheMove (s : State) (a : Word) : Bool :=
  match s.homeOf (idOf a) (offOf a) with
  | some h => !h.ext.absent && s.mustWait h
  | none => false

/-- Write the line of an address back if it is dirty, then go on. A home that does not take it yet, or a page on the move,
makes the operation wait; a page without a frame opens no page fault and leaves the line as it is (R146; log 72). -/
def State.cleanLine (s : State) (a : Word) (f : State → State) : State :=
  match s.here.cache.lines.find? (fun l => l.addr == a.toNat / 32) with
  | none => f s
  | some l =>
    match s.l1WriteBack s.core l with
    | (t, .ok _) => f t
    | (t, .stall) => t
    | (t, .held) => t
    | (_, .absent) => if s.onTheMove a then s else s.retire
    | (t, _) => t.retire

/-- A cache operation, once its address has passed its checks (R146, R338). -/
def State.cacheOp (s : State) (a : Word) (f : State → State) : State := (s.obbUse s.core (idOf a)).checked (s.cacheCheck a) f

/-- CWB (R146): writes the line back if dirty and keeps it. -/
def execCwb (b : GReg) (s : State) : Result :=
  .next (s.cacheOp (s.g b) (fun s => s.cleanLine (s.g b) (fun s => s.retire)))
/-- CINV (R146): invalidates the line without writing it back. -/
def execCinv (b : GReg) (s : State) : Result :=
  .next (s.cacheOp (s.g b) (fun s => (s.l1Drop s.core ((s.g b).toNat / 32)).retire))
/-- CWBINV (R146): writes the line back if dirty, then invalidates it. -/
def execCwbinv (b : GReg) (s : State) : Result :=
  .next (s.cacheOp (s.g b) (fun s =>
    let a := s.g b
    s.cleanLine a (fun s => (s.l1Drop s.core (a.toNat / 32)).retire)))

/-- PINL (R147): pins the slice line of b for the job context; a := 1 when it is pinned, else 0. No line of local memory under
the mesh alias can be pinned: a := 0 there (log 72). -/
def execPinl (a b : GReg) (s : State) : Result :=
  .next (
    let p := s.g b
    s.cacheOp p (fun s =>
      if idOf p = aliasId then s.result a 0
      else
        let q := s.homePin (idOf p) (offOf p / 256 * 256) s.cid
        q.1.onAns q.2 p (fun s bs => s.result a (w64 (leNat bs)))))
/-- UNPINL (R147): removes the job context's pin of the line. -/
def execUnpinl (b : GReg) (s : State) : Result :=
  .next (
    let p := s.g b
    s.cacheOp p (fun s => (s.homeUnpin (idOf p) (offOf p / 256 * 256) s.cid).retire))

end Sys2Proof.Machine
end

