-- ==== Sys2Proof/Machine/Transc.lean ====
section
/-!
DEFINITION. The built-in sets of the polynomial unit (spec/02 R54 to R56). A result is enclosed between integers at a
growing precision until its rounding is decided; where the manual promises only a faithful result, which neighbour is
delivered is a free value.
-/
namespace Sys2Proof.Machine

/-! ### Fixed-point series at precision q: a number v stands for v / 2^q -/

/-- The sum over k < n of 1 / ((2k + 1) b^(2k+1)), every term with sign s^k. -/
def atanSum (q b : Nat) (alt : Bool) : Nat → Nat → Int → Int
  | 0, _, acc => acc
  | n + 1, k, acc =>
    let t : Int := (2 ^ q / ((2 * k + 1) * b ^ (2 * k + 1)) : Nat)
    atanSum q b alt n (k + 1) (if alt && k % 2 == 1 then acc - t else acc + t)

/-- ln 2, as 2 artanh(1/3). -/
def ln2Fix (q : Nat) : Nat := (2 * atanSum q 3 false (q / 3 + 4) 0 0).toNat
/-- Pi, as 16 arctan(1/5) - 4 arctan(1/239). -/
def piFix (q : Nat) : Nat := (16 * atanSum q 5 true (q / 4 + 4) 0 0 - 4 * atanSum q 239 true (q / 15 + 4) 0 0).toNat

/-- The exponential series of a number below 1. -/
def expSum (q y : Nat) : Nat → Nat → Nat → Nat → Nat
  | 0, _, _, acc => acc
  | n + 1, k, t, acc => expSum q y n (k + 1) (t * y / 2 ^ q / (k + 1)) (acc + t)
/-- e^y for y below 1. -/
def expFix (q y : Nat) : Nat := expSum q y (q / 4 + 20) 0 (2 ^ q) 0

/-- The series of sin or cos: each term is the one before times -r^2 / (k (k + 1)). -/
def trigSum (q : Nat) (r2 : Int) : Nat → Nat → Int → Int → Int
  | 0, _, _, acc => acc
  | n + 1, k, t, acc => trigSum q r2 n (k + 2) (-(t * r2 / 2 ^ q / ((k : Int) * (k + 1)))) (acc + t)
/-- sin r for r between 0 and 2 pi. -/
def sinFix (q r : Nat) : Int := trigSum q (r * r / 2 ^ q : Nat) (q / 4 + 30) 2 r 0
/-- cos r for r between 0 and 2 pi. -/
def cosFix (q r : Nat) : Int := trigSum q (r * r / 2 ^ q : Nat) (q / 4 + 30) 1 (2 ^ q) 0

/-- The odd powers z^(2k+1) / (2k + 1) of the logarithm's series. -/
def logSum (q z2 : Nat) : Nat → Nat → Nat → Nat → Nat
  | 0, _, _, acc => acc
  | n + 1, k, t, acc => logSum q z2 n (k + 1) (t * z2 / 2 ^ q) (acc + t / (2 * k + 1))
/-- ln m for m between 1 and 2. -/
def lnFix (q m : Nat) : Nat :=
  let z := (m - 2 ^ q) * 2 ^ q / (m + 2 ^ q)
  2 * logSum q (z * z / 2 ^ q) (q / 3 + 4) 0 z 0

/-- m * 2^e at precision q, rounded down. -/
def fixOf (m : Nat) (e : Int) (q : Nat) : Nat :=
  if 0 ≤ e + q then m * 2 ^ (e + q).toNat else m / 2 ^ (-(e + q)).toNat

/-- e^x at precision q for 0 ≤ x, x given at that precision. -/
def expBig (q x : Nat) : Nat :=
  let l := ln2Fix q
  expFix q (x % l) * 2 ^ (x / l)

/-! ### Enclosures -/

/-- A magnitude strictly between lo / 2^p and hi / 2^p, with its sign. -/
structure Encl where
  neg : Bool
  lo  : Nat
  hi  : Nat
  p   : Nat
  deriving DecidableEq, Repr

/-- The enclosure of a computed magnitude with 64 guard bits, of which at most 40 are in error. -/
def enclose (neg : Bool) (p v : Nat) : Encl := { neg := neg, lo := (v - 2 ^ 40) / 2 ^ 64, hi := (v + 2 ^ 40) / 2 ^ 64 + 1, p := p }
/-- An enclosure of a value known to be below 1. -/
def Encl.below1 (x : Encl) : Encl := { x with lo := min x.lo (2 ^ x.p - 1), hi := min x.hi (2 ^ x.p) }
/-- Just below 1. -/
def nearOne (neg : Bool) (p : Nat) : Encl := { neg := neg, lo := 2 ^ p - 1, hi := 2 ^ p, p := p }
/-- Just above 0, below every format's least magnitude. -/
def nearZero : Encl := { neg := false, lo := 0, hi := 1, p := 400 }

/-- Whether |x| reaches 2^k. -/
def atLeast (m : Nat) (e : Int) (k : Int) : Bool := m != 0 && decide (k ≤ e + Nat.log2 m)

/-- An exact result, or an enclosure at a precision. -/
inductive PpRes where
  | exact (v : FVal)
  | between (x : Encl)
  deriving DecidableEq, Repr

/-- exp2 of (-1)^neg m 2^e. -/
def ppExp2 (neg : Bool) (m : Nat) (e : Int) (p : Nat) : PpRes :=
  let q := p + 64
  if atLeast m e 9 then (if neg then .between nearZero else .exact (.fin false 1 512))
  else
    -- an integer and a fraction of at most 160 bits
    let x := fixOf m e 160
    let whole : Int := if neg then -(((x + 2 ^ 160 - 1) / 2 ^ 160 : Nat) : Int) else ((x / 2 ^ 160 : Nat) : Int)
    let frac := if neg then (2 ^ 160 - x % 2 ^ 160) % 2 ^ 160 else x % 2 ^ 160
    if frac = 0 then .exact (.fin false 1 whole)
    else
      let v := expFix q (frac * ln2Fix q / 2 ^ 160)
      let n := enclose false p v
      .between (if whole < 0 then { n with p := p + whole.natAbs } else { n with lo := n.lo * 2 ^ whole.natAbs, hi := n.hi * 2 ^ whole.natAbs })

/-- log2 of m 2^e. -/
def ppLog2 (m : Nat) (e : Int) (p : Nat) : PpRes :=
  let q := p + 64
  let k := Nat.log2 m
  let ex : Int := e + k
  if m = 2 ^ k then .exact (.ofInt ex)
  else
    let f : Int := (lnFix q (m * 2 ^ q / 2 ^ k) * 2 ^ q / ln2Fix q : Nat)
    let v := ex * 2 ^ q + f
    .between (enclose (v < 0) p v.natAbs)

/-- The reciprocal of (-1)^neg m 2^e. -/
def ppRcp (neg : Bool) (m : Nat) (e : Int) : PpRes :=
  let k := Nat.log2 m
  if m = 2 ^ k then .exact (.fin neg 1 (-(e + k)))
  else
    let v := 2 ^ 400 / m
    .between (if 0 ≤ e then { neg := neg, lo := v, hi := v + 1, p := 400 + e.natAbs }
              else { neg := neg, lo := v * 2 ^ e.natAbs, hi := (v + 1) * 2 ^ e.natAbs, p := 400 })

/-- The reciprocal square root of m 2^e. -/
def ppRsqrt (m : Nat) (e : Int) : PpRes :=
  let (m, e) := if e % 2 = 0 then (m, e) else (2 * m, e - 1)
  let k := Nat.log2 m
  if m = 2 ^ k && k % 2 = 0 then .exact (.fin false 1 (-((e + k) / 2)))
  else
    let v := Nat.sqrt (2 ^ 800 / m)
    let h := e / 2
    .between (if 0 ≤ h then { neg := false, lo := v, hi := v + 1, p := 400 + h.natAbs }
              else { neg := false, lo := v * 2 ^ h.natAbs, hi := (v + 1) * 2 ^ h.natAbs, p := 400 })

/-- tanh of (-1)^neg m 2^e. -/
def ppTanh (neg : Bool) (m : Nat) (e : Int) (p : Nat) : PpRes :=
  let q := p + 64
  if atLeast m e 8 then .between (nearOne neg p)
  else
    let E := expBig q (2 * fixOf m e q)
    .between (enclose neg p ((E - 2 ^ q) * 2 ^ q / (E + 2 ^ q))).below1

/-- sigmoid of (-1)^neg m 2^e. -/
def ppSigmoid (neg : Bool) (m : Nat) (e : Int) (p : Nat) : PpRes :=
  let q := p + 64
  if atLeast m e 9 then .between (if neg then nearZero else nearOne false p)
  else
    let E := expBig q (fixOf m e q)
    let v := if neg then 2 ^ (2 * q) / (E + 2 ^ q) else E * 2 ^ q / (E + 2 ^ q)
    .between (enclose false p v).below1

/-- |x| modulo 2 pi, at precision q: reduced with 160 further bits, more than any argument needs. -/
def ppReduce (m : Nat) (e : Int) (q : Nat) : Nat := fixOf m e (q + 160) % (2 * piFix (q + 160)) / 2 ^ 160

/-- sin of (-1)^neg m 2^e. -/
def ppSin (neg : Bool) (m : Nat) (e : Int) (p : Nat) : PpRes :=
  let q := p + 64
  let v := sinFix q (ppReduce m e q)
  .between (enclose (neg ^^ decide (v < 0)) p v.natAbs).below1
/-- cos of m 2^e. -/
def ppCos (m : Nat) (e : Int) (p : Nat) : PpRes :=
  let q := p + 64
  let v := cosFix q (ppReduce m e q)
  .between (enclose (v < 0) p v.natAbs).below1

/-- A finite non-zero argument of a set 1 to 8, in its domain. -/
def ppFinite (set : Nat) (neg : Bool) (m : Nat) (e : Int) (p : Nat) : PpRes :=
  match set with
  | 1 => ppExp2 neg m e p
  | 2 => ppLog2 m e p
  | 3 => ppRcp neg m e
  | 4 => ppRsqrt m e
  | 5 => ppTanh neg m e p
  | 6 => ppSigmoid neg m e p
  | 7 => ppSin neg m e p
  | _ => ppCos m e p

/-! ### Special arguments (R56) -/

/-- The value 1. -/
def fOne (neg : Bool) : FVal := .fin neg 1 0
/-- A signed zero. -/
def fZero (neg : Bool) : FVal := .fin neg 0 0

/-- The table of R56 for infinities, NaN, zeros and arguments outside the domain; none elsewhere. -/
def ppSpecial (set : Nat) (x : FVal) : Option FVal :=
  match x with
  | .nan => some .nan
  | .inf neg =>
    some (match set with
      | 1 => if neg then fZero false else .inf false
      | 2 => if neg then .nan else .inf false
      | 3 => fZero neg
      | 4 => if neg then .nan else fZero false
      | 5 => fOne neg
      | 6 => if neg then fZero false else fOne false
      | _ => .nan)
  | .fin neg 0 _ =>
    some (match set with
      | 1 => fOne false
      | 2 => .inf true
      | 3 => .inf neg
      | 4 => .inf neg
      | 5 => fZero neg
      | 6 => .fin false 1 (-1)
      | 7 => fZero neg
      | _ => fOne false)
  | .fin neg _ _ => if neg && (set == 2 || set == 4) then some .nan else none

/-! ### Results (R55) -/

/-- Whether a result is promised correctly rounded. -/
def ppExact (set : Nat) (F : Fmt) : Bool := F == .bf || (F == .f16 && set ≤ 4)

/-- A magnitude code delivered: overflow and flushing as Enc has them (R38, R42). -/
def finishCode (F : Fmt) (neg : Bool) (c : Nat) : Nat :=
  let c := if c ≥ F.ovfCode then F.ovfCode else c
  neg.toNat * F.signBit + (if F == .bf && c < 2 ^ F.mbits then 0 else c)

/-- The code of a result at one precision, if its rounding is decided there. -/
def ppTry (set : Nat) (F : Fmt) (up : Bool) (r : PpRes) : Option Nat :=
  match r with
  | .exact (.fin neg m e) =>
    let lo := magCode F .rz m e
    some (finishCode F neg (if ppExact set F then magCode F .ne m e else if magCode F .up m e = lo then lo else lo + up.toNat))
  | .exact v => some (enc F v .ne)
  | .between x =>
    let mode : Rnd := if ppExact set F then .ne else .rz
    let e : Int := -((x.p : Int) + 1)
    let lo := magCode F mode (2 * x.lo + 1) e
    let hi := magCode F mode (2 * x.hi - 1) e
    if lo = hi then some (finishCode F x.neg (if ppExact set F then lo else lo + up.toNat)) else none

/-- A built-in set applied to a value, as a code of the format: the precision grows until the rounding is decided. -/
def ppBuiltin (set : Nat) (F : Fmt) (x : FVal) (up : Bool) : Nat :=
  match ppSpecial set x with
  | some v => enc F v .ne
  | none =>
    match x with
    | .fin neg m e =>
      match [200, 700, 1600].findSome? (fun p => ppTry set F up (ppFinite set neg m e p)) with
      | some c => c
      | none => F.nanCode
    | _ => F.nanCode

/-! ### The user table (R54, R209) -/

/-- The largest segment below n whose breakpoint is at or below x, else segment 0. -/
def ppSegment (bs : Nat → FVal) (x : FVal) : Nat → Nat
  | 0 => 0
  | n + 1 => if fLe (bs n) x then n else ppSegment bs x n

/-- R54 over a table of n segments, whose entry 5 s + j is breakpoint or coefficient j - 1 of segment s. -/
def ppTable (t : Nat → FVal) (n : Nat) (x : FVal) : FVal :=
  let s := ppSegment (fun i => t (5 * i)) x n
  let d := roundFP32 (fAdd x (t (5 * s)).negate)
  let y := roundFP32 (fAdd (fMul (t (5 * s + 4)) d) (t (5 * s + 3)))
  let y := roundFP32 (fAdd (fMul y d) (t (5 * s + 2)))
  roundFP32 (fAdd (fMul y d) (t (5 * s + 1)))

end Sys2Proof.Machine
end

