-- ==== Sys2Proof/Machine/Vector.lean ====
section
/-!
DEFINITION. The vector queue and what its instructions do: lanes, vector arithmetic, masks, reductions and the
polynomial unit, majors 0x30, 0x31 and 0x33 to 0x36 (spec/07 R183 to R209). An instruction is checked and queued as it
issues; its effect is that of its completion in the queue.
-/
namespace Sys2Proof.Machine

/-! ### Elements (R15, R191, R192) -/

/-- Write an element. -/
def Core.setVe (x : Core) (r : VReg) (i : Nat) (v : BitVec 32) : Core :=
  { x with vec := { x.vec with v := sput x.vec.v (64 * r.toNat + i) v } }
/-- A mask register. -/
def Core.mreg (x : Core) (k : MReg) : Word := sget 0 x.vec.m k.toNat
/-- Write a mask register. -/
def Core.setMk (x : Core) (k : MReg) (v : Word) : Core := { x with vec := { x.vec with m := sput x.vec.m k.toNat v } }
/-- The governing mask of a field: code 0 means unmasked (R192). -/
def Core.gov (x : Core) (k : MReg) : Word := if k = 0 then w64 (2 ^ 64 - 1) else x.mreg k

/-- Width of a sub-element. -/
def subW (t : EType) : Nat := 32 / t.n
/-- Sub-element k of an element (R191). -/
def subAt (t : EType) (e : BitVec 32) (k : Nat) : Nat := e.toNat / 2 ^ (subW t * k) % 2 ^ subW t
/-- An element with sub-element k replaced. -/
def setSub (t : EType) (e : BitVec 32) (k v : Nat) : BitVec 32 :=
  let w := subW t
  BitVec.ofNat 32 (e.toNat - subAt t e k * 2 ^ (w * k) + v % 2 ^ w * 2 ^ (w * k))
/-- An element of its sub-elements. -/
def packSub (t : EType) (f : Nat → Nat) : BitVec 32 := each (List.range t.n) 0 (fun e k => setSub t e k (f k))

/-- The floating format of an element type; INT types have none. -/
def efmt (t : EType) : Fmt := match t with | .bf => .bf | .f16 => .f16 | .e4 => .e4 | .e5 => .e5 | .e2 => .e2 | _ => .f32
/-- The signed value of an integer sub-element. -/
def subInt (t : EType) (v : Nat) : Int := (BitVec.ofNat (subW t) v).toInt
/-- The value of a sub-element of any type (R46: an E2M1 value alone). -/
def subVal (t : EType) (v : Nat) : FVal := if t.isInt then .ofInt (subInt t v) else dec (efmt t) v
/-- An integer wrapped to a sub-element. -/
def subWrap (t : EType) (v : Int) : Nat := (BitVec.ofInt (subW t) v).toNat

/-- Write active elements of a register, each computed from the core as it stood before. -/
def Core.mapElems (x : Core) (a : VReg) (is : List Nat) (f : Nat → BitVec 32) : Core := each is x (fun x i => x.setVe a i (f i))

/-! ### The queue (R183) -/

/-- Whether the vector queue accepts an instruction. -/
def Core.vecRoom (x : Core) : Bool := decide (x.vec.queue.length < 8)

/-- Enter the vector queue, with the operands and width of issue; helpers have no vector unit (R10). -/
def State.queueVec (s : State) (i : Instr) (ops : List Word) (mask : Word) : State :=
  if s.ctx ≠ 0 then s.illegal
  else if !s.here.vecRoom then s
  else
    let e : VEntry := { instr := i, vlen := s.here.vec.vlen, ops := ops, mask := mask, pc := s.me.q0.addr }
    (s.modHere (fun x => { x with vec := { x.vec with queue := x.vec.queue ++ [e] } })).retire

/-- Steps that an instruction takes once started (R190). -/
def vecDuration (e : VEntry) : Nat :=
  if e.vlen = 0 then 0
  else match e.instr with
    | .vfma .. | .vcvt .. | .ppev .. => 4
    | .vgath .. | .vscat .. | .vperm .. => 8
    | .vredadd .. | .vredmax .. | .vredmin .. | .vmaxi .. | .vmini .. => 6
    | _ => 1

/-- Record a vector queue fault and empty the queue (R185). -/
def Core.vecFaulted (x : Core) (code sub : Nat) (addr pc : Word) : Core :=
  { x with vec := { x.vec with
    queue := []
    page := none
    fault := some (w64 (code + 2 ^ 16 + sub * 2 ^ 24 + pc.toNat % 2 ^ 32 * 2 ^ 32), addr) } }
/-- The same in a core of the module. -/
def State.vecFault (s : State) (c code sub : Nat) (addr pc : Word) : State := s.modCore c (fun x => x.vecFaulted code sub addr pc)

/-! ### Lane grants, major 0x35 (R187, R188) -/

/-- Groups of the octet that no core holds. -/
def State.freeGroups (s : State) (c : Nat) : Nat := 16 - ((octCores (octOf c)).map (fun q => (s.coreAt q).vec.grant)).sum

/-- VCLAIM (R188): asks for n / 8 groups and takes what is free; a := VLEN. It waits until the queue is empty. -/
def execVclaim (a : GReg) (n8 : BitVec 4) (s : State) : Result :=
  .next (
    if s.ctx ≠ 0 then s.illegal
    else if !s.here.vec.queue.isEmpty then s
    else
      let g := min n8.toNat (s.here.vec.grant + s.freeGroups s.core)
      (s.modHere (fun x => { x with vec := { x.vec with want := n8.toNat, grant := g, vlen := 8 * g } })).result a (w64 (8 * g)))
/-- VYIELD (R188): gives the lanes back and re-deals the octet. It waits until the queue is empty. -/
def execVyield (s : State) : Result :=
  .next (
    if s.ctx ≠ 0 then s.illegal
    else if !s.here.vec.queue.isEmpty then s
    else
      let s := s.modHere (fun x => { x with vec := { x.vec with want := 0, grant := 0, vlen := 0 } })
      (s.redeal (octOf s.core) (List.range 8)).retire)
/-- VLEN (R188): a := VLEN as at issue. -/
def execVlen (a : GReg) (s : State) : Result :=
  .next (if s.ctx ≠ 0 then s.illegal else s.result a (w64 s.here.vec.vlen))

/-! ### Arithmetic on sub-elements (R193, R195) -/

/-- The operations of major 0x30 with two sources. -/
inductive VOp where
  | add | sub | mul | min | max | and_ | or_ | xor_ | shl | shrl | shra
  deriving DecidableEq, Repr

/-- One sub-element result. -/
def vop (op : VOp) (t : EType) (x y : Nat) : Nat :=
  let a := subInt t x
  let b := subInt t y
  let fx := dec (efmt t) x
  let fy := dec (efmt t) y
  let int := t.isInt
  let fp (v : FVal) : Nat := enc (efmt t) v .ne
  match op with
  | .add => if int then subWrap t (a + b) else fp (fAdd fx fy)
  | .sub => if int then subWrap t (a - b) else fp (fAdd fx fy.negate)
  | .mul => if int then subWrap t (a * b) else fp (fMul fx fy)
  | .min => if int then (if b < a then y else x) else fp (fMin fx fy)
  | .max => if int then (if a < b then y else x) else fp (fMax fx fy)
  | .and_ => x &&& y
  | .or_ => x ||| y
  | .xor_ => x ^^^ y
  | .shl => (shlW (BitVec.ofNat (subW t) x) y).toNat
  | .shrl => (shrlW (BitVec.ofNat (subW t) x) y).toNat
  | .shra => (shraW (BitVec.ofNat (subW t) x) y).toNat

/-- |b| or -b: an integer wraps, a float changes only its sign bit (R193). -/
def vsign (abs : Bool) (t : EType) (x : Nat) : Nat :=
  if t.isInt then subWrap t (if abs then (subInt t x).natAbs else -(subInt t x))
  else
    let b := (efmt t).signBit
    if abs then x % b else (x + b) % (2 * b)

/-- b * c + d, with one rounding (R195). -/
def vfma1 (t : EType) (x y z : Nat) : Nat :=
  if t.isInt then subWrap t (subInt t x * subInt t y + subInt t z)
  else enc (efmt t) (fAdd (fMul (dec (efmt t) x) (dec (efmt t) y)) (dec (efmt t) z)) .ne

/-! ### Conversion (R196) -/

/-- Convert one value. -/
def vcvt1 (dst src : EType) (m : Rnd) (x : Nat) : Nat :=
  let v := subVal src x
  if dst.isInt then
    let w := subW dst
    subWrap dst (toIntSat v m (-2 ^ (w - 1)) (2 ^ (w - 1) - 1))
  else if dst = .e2 && v.isNaN then 0
  else enc (efmt dst) v m

/-- Values converted in one element. -/
def cvtCount (dst src : EType) : Nat := min dst.n src.n

/-- Element i of a VCVT: its new value, and whether a NaN went into an E2M1 element. -/
def vcvtElem (dst src : EType) (p : Nat) (old x : BitVec 32) (m : Nat → Rnd) : BitVec 32 × Bool :=
  each (List.range (cvtCount dst src)) (old, false) (fun (o, nan) k =>
    let from_ := if dst.n ≤ src.n then p * dst.n + k else k
    let place := if dst.n ≤ src.n then k else p * src.n + k
    let v := subAt src x from_
    (setSub dst o place (vcvt1 dst src (m k) v), nan || (subVal src v).isNaN))

/-- The draws of a stochastic conversion: n of each element position below VLEN, active or not (R43, R196). -/
def State.vecDraws (s : State) (c vlen n : Nat) : State × SMap (BitVec 32) :=
  each (List.range vlen) (s, []) (fun (s, m) i =>
    each (List.range n) (s, m) (fun (s, m) k =>
      let (s, d) := (s.at_ c 0).srDraw i
      (s, sput m (8 * i + k) d)))

/-- VCVT on a core. -/
def State.doVcvt (s : State) (c : Nat) (e : VEntry) (dst src : EType) (mode : CvtMode) (p : Nat) (a b d : VReg) (k : MReg) : State :=
  let (s, draws) := match mode with
    | .sr => s.vecDraws c e.vlen (cvtCount dst src)
    | _ => (s, [])
  s.modCore c (fun x =>
    each (activeOf e.vlen (x.gov k)) x (fun y i =>
      let m (j : Nat) : Rnd := match mode with | .ne => .ne | .rz => .rz | .sr => .sr (sget 0 draws (8 * i + j))
      let (v, nan) := vcvtElem dst src p (x.ve a i) (x.ve b i) m
      let y := y.setVe a i v
      if dst = .e2 && nan then y.setVe d i ((y.ve d i &&& 0xFFFFFF00) ||| 0xFF) else y))

/-! ### Reductions (R204) -/

/-- The sub-elements of a reduction's elements, each with its index (R204). -/
def redVals (t : EType) (x : Core) (b : VReg) (is : List Nat) : List (Nat × Nat) :=
  is.flatMap (fun i => (List.range t.n).map (fun k => (i * t.n + k, subAt t (x.ve b i) k)))

/-- The image of a reduction's value (R96). -/
def redImage (t : EType) (v : Nat) : Word := if t.isInt then sext v 32 else w64 v

/-- The value of an empty maximum or minimum. -/
def redEmpty (t : EType) (maxDir : Bool) : Nat :=
  if t.isInt then (if maxDir then 2 ^ 31 else 2 ^ 31 - 1) else enc (efmt t) (.inf maxDir) .ne

/-- Sum of a set. -/
def redSum (t : EType) (l : List (Nat × Nat)) : Nat :=
  if t.isInt then subWrap t ((l.map (fun e => subInt t e.2)).sum)
  else enc (efmt t) (fSum (l.map (fun e => dec (efmt t) e.2))) .ne

/-- Largest or smallest of a set, by signed order or R47; of one element alone as of itself twice, so that a NaN is
canonical (R39). -/
def redBest (t : EType) (maxDir : Bool) (l : List (Nat × Nat)) : Nat :=
  match l with
  | [] => redEmpty t maxDir
  | e :: r =>
    let best (b v : Nat) : Nat := vop (if maxDir then .max else .min) t b v
    r.foldl (fun b x => best b x.2) (best e.2 e.2)

/-- A float element as an index reduction delivers it: a BF16 subnormal is read as zero (R38). -/
def selected (t : EType) (v : Nat) : Nat := enc (efmt t) (dec (efmt t) v) .ne

/-- MaxIdx (R50): value and index. -/
def redMaxIdx (t : EType) (maxDir : Bool) (l : List (Nat × Nat)) : Nat × Word :=
  match l with
  | [] => (redEmpty t maxDir, w64 (2 ^ 64 - 1))
  | e :: r =>
    if t.isInt then
      let b := r.foldl (fun b x => if (if maxDir then subInt t b.2 < subInt t x.2 else subInt t x.2 < subInt t b.2) then x else b) e
      (b.2, w64 b.1)
    else match l.find? (fun x => (dec (efmt t) x.2).isNaN) with
      | some x => (quietCode (efmt t) x.2, w64 x.1)
      | none =>
        let b := r.foldl (fun b x => if ranks (dec (efmt t) x.2) (dec (efmt t) b.2) maxDir then x else b) e
        (selected t b.2, w64 b.1)

/-! ### Effects at completion -/

/-- The sub-elements of a three-operand result. -/
def elem3 (t : EType) (f : Nat → Nat → Nat → Nat) (x y z : BitVec 32) : BitVec 32 :=
  packSub t (fun k => f (subAt t x k) (subAt t y k) (subAt t z k))

/-- One comparison result per active element into a mask (R197). -/
def Core.cmpInto (x : Core) (a : MReg) (is : List Nat) (p : Nat → Bool) : Core :=
  x.setMk a (each is (x.mreg a) (fun m i => if p i then m ||| (1#64 <<< i) else m &&& ~~~(1#64 <<< i)))

/-- Bits of a mask below VLEN from a function, the others kept (R205). -/
def Core.maskBelow (x : Core) (a : MReg) (vlen : Nat) (f : Nat → Bool) : Core := x.cmpInto a (List.range vlen) f

/-- Write a general register of context 0. -/
def Core.setG0 (x : Core) (a : GReg) (v : Word) : Core := x.modCtx 0 (fun y => y.setReg a v)

/-- Compare two elements by R47. -/
def elemCmp (t : EType) (int : Int → Int → Bool) (fp : FVal → FVal → Bool) (x y : BitVec 32) : Bool :=
  if t.isInt then int x.toInt y.toInt else fp (dec .f32 x.toNat) (dec .f32 y.toNat)

/-- PPEV on one sub-element: a built-in set, or the user table with the result rounded into T (R209). -/
def ppev1 (v : VecUnit) (t : FType) (x : Nat) : Nat :=
  let F := fmtOf t
  let fx := dec F x
  let code : Nat := match t with | .f32 => 0 | .bf => 1 | .f16 => 2
  if v.set = 0 then
    if v.segs = 0 || fx.isNaN then F.nanCode
    else enc F (ppTable (fun j => dec .f32 (sget 0 v.table j).toNat) v.segs (roundFP32 fx)) .ne
  else ppBuiltin v.set F fx (Config.ppUp v.set code (BitVec.ofNat 32 x))

/-- The element type of a scalar type. -/
def etypeOf (t : FType) : EType := match t with | .f32 => .f32 | .f16 => .f16 | .bf => .bf

/-- The effect of a register instruction of the vector queue on its core, as it completes. -/
def Core.vecEffect (x : Core) (e : VEntry) : Core :=
  let act (k : MReg) : List Nat := activeOf e.vlen (x.gov k)
  let two (op : VOp) (t : EType) (a b c : VReg) (k : MReg) : Core :=
    x.mapElems a (act k) (fun i => elem3 t (fun u v _ => vop op t u v) (x.ve b i) (x.ve c i) 0)
  let one (abs : Bool) (t : EType) (a b : VReg) (k : MReg) : Core :=
    x.mapElems a (act k) (fun i => elem3 t (fun u _ _ => vsign abs t u) (x.ve b i) 0 0)
  let cmp (t : EType) (a : MReg) (b c : VReg) (k : MReg) (int : Int → Int → Bool) (fp : FVal → FVal → Bool) : Core :=
    x.cmpInto a (act k) (fun i => elemCmp t int fp (x.ve b i) (x.ve c i))
  match e.instr with
  | .vadd t a b c k => two .add t a b c k
  | .vsub t a b c k => two .sub t a b c k
  | .vmul t a b c k => two .mul t a b c k
  | .vmin t a b c k => two .min t a b c k
  | .vmax t a b c k => two .max t a b c k
  | .vand t a b c k => two .and_ t a b c k
  | .vor t a b c k => two .or_ t a b c k
  | .vxor t a b c k => two .xor_ t a b c k
  | .vshl t a b c k => two .shl t a b c k
  | .vshrl t a b c k => two .shrl t a b c k
  | .vshra t a b c k => two .shra t a b c k
  | .vabs t a b k => one true t a b k
  | .vneg t a b k => one false t a b k
  | .vfma t a b c d k => x.mapElems a (act k) (fun i => elem3 t (vfma1 t) (x.ve b i) (x.ve c i) (x.ve d i))
  | .vseq t a b c k => cmp t a b c k (fun u v => u == v) fEq
  | .vslt t a b c k => cmp t a b c k (fun u v => decide (u < v)) fLt
  | .vsle t a b c k => cmp t a b c k (fun u v => decide (u ≤ v)) fLe
  | .vsel a b c d => x.mapElems a (act 0) (fun i => if (x.mreg d).getLsbD i then x.ve b i else x.ve c i)
  | .vbcast t a _ k => x.mapElems a (act k) (fun _ => packSub t (fun _ => (opAt e.ops 0).toNat))
  | .vext a b _ =>
    let j := (opAt e.ops 0).toNat
    x.setG0 a (if j < e.vlen then (x.ve b j).setWidth 64 else 0)
  | .vperm a b c k => x.mapElems a (act k) (fun i => let j := (x.ve c i).toNat; if j < e.vlen then x.ve b j else 0)
  | .vredadd t a b k => x.setG0 a (redImage t (redSum t (redVals t x b (act k))))
  | .vredmax t a b k => x.setG0 a (redImage t (redBest t true (redVals t x b (act k))))
  | .vredmin t a b k => x.setG0 a (redImage t (redBest t false (redVals t x b (act k))))
  | .vmaxi t a b c k =>
    let r := redMaxIdx t true (redVals t x b (act k))
    (x.setG0 a (redImage t r.1)).setG0 c r.2
  | .vmini t a b c k =>
    let r := redMaxIdx t false (redVals t x b (act k))
    (x.setG0 a (redImage t r.1)).setG0 c r.2
  | .mand a b c => x.maskBelow a e.vlen (fun i => (x.mreg b).getLsbD i && (x.mreg c).getLsbD i)
  | .mor a b c => x.maskBelow a e.vlen (fun i => (x.mreg b).getLsbD i || (x.mreg c).getLsbD i)
  | .mxor a b c => x.maskBelow a e.vlen (fun i => (x.mreg b).getLsbD i ^^ (x.mreg c).getLsbD i)
  | .mnot a b => x.maskBelow a e.vlen (fun i => !(x.mreg b).getLsbD i)
  | .mpopc a b => x.setG0 a (w64 (activeOf e.vlen (x.mreg b)).length)
  | .mfirst a b => x.setG0 a (w64 ((activeOf e.vlen (x.mreg b)).headD 64))
  | .mset a _ => x.setMk a (opAt e.ops 0)
  | .mmov a b => x.setMk a (x.mreg b)
  | .mmovG a b => x.setG0 a (x.mreg b)
  | .ppsel n => { x with vec := { x.vec with set := n.toNat } }
  | .ppev t a b k => x.mapElems a (act k) (fun i => elem3 (etypeOf t) (fun u _ _ => ppev1 x.vec t u) (x.ve b i) 0 0)
  | _ => x

/-! ### Issue (R183) -/

/-- VADD (R193): b + c, element by element. -/
def execVadd (t : EType) (a b c : VReg) (k : MReg) (s : State) : Result := .next (s.queueVec (.vadd t a b c k) [] 0)
/-- VSUB (R193): b - c. -/
def execVsub (t : EType) (a b c : VReg) (k : MReg) (s : State) : Result := .next (s.queueVec (.vsub t a b c k) [] 0)
/-- VMUL (R193): b * c. -/
def execVmul (t : EType) (a b c : VReg) (k : MReg) (s : State) : Result := .next (s.queueVec (.vmul t a b c k) [] 0)
/-- VMIN (R193): the smaller. -/
def execVmin (t : EType) (a b c : VReg) (k : MReg) (s : State) : Result := .next (s.queueVec (.vmin t a b c k) [] 0)
/-- VMAX (R193): the larger. -/
def execVmax (t : EType) (a b c : VReg) (k : MReg) (s : State) : Result := .next (s.queueVec (.vmax t a b c k) [] 0)
/-- VAND (R193). -/
def execVand (t : EType) (a b c : VReg) (k : MReg) (s : State) : Result := .next (s.queueVec (.vand t a b c k) [] 0)
/-- VOR (R193). -/
def execVor (t : EType) (a b c : VReg) (k : MReg) (s : State) : Result := .next (s.queueVec (.vor t a b c k) [] 0)
/-- VXOR (R193). -/
def execVxor (t : EType) (a b c : VReg) (k : MReg) (s : State) : Result := .next (s.queueVec (.vxor t a b c k) [] 0)
/-- VSHL (R193, R48). -/
def execVshl (t : EType) (a b c : VReg) (k : MReg) (s : State) : Result := .next (s.queueVec (.vshl t a b c k) [] 0)
/-- VSHRL (R193, R48). -/
def execVshrl (t : EType) (a b c : VReg) (k : MReg) (s : State) : Result := .next (s.queueVec (.vshrl t a b c k) [] 0)
/-- VSHRA (R193, R48). -/
def execVshra (t : EType) (a b c : VReg) (k : MReg) (s : State) : Result := .next (s.queueVec (.vshra t a b c k) [] 0)
/-- VABS (R193): |b|. -/
def execVabs (t : EType) (a b : VReg) (k : MReg) (s : State) : Result := .next (s.queueVec (.vabs t a b k) [] 0)
/-- VNEG (R193): -b. -/
def execVneg (t : EType) (a b : VReg) (k : MReg) (s : State) : Result := .next (s.queueVec (.vneg t a b k) [] 0)
/-- VFMA (R195): b * c + d, rounded once. -/
def execVfma (t : EType) (a b c d : VReg) (k : MReg) (s : State) : Result := .next (s.queueVec (.vfma t a b c d k) [] 0)
/-- VCVT (R196): converts part p. -/
def execVcvt (dst src : EType) (mode : CvtMode) (p : BitVec 3) (a b d : VReg) (k : MReg) (s : State) : Result :=
  .next (s.queueVec (.vcvt dst src mode p a b d k) [] 0)
/-- VSEQ (R197): b = c into mask a. -/
def execVseq (t : EType) (a : MReg) (b c : VReg) (k : MReg) (s : State) : Result := .next (s.queueVec (.vseq t a b c k) [] 0)
/-- VSLT (R197): b < c into mask a. -/
def execVslt (t : EType) (a : MReg) (b c : VReg) (k : MReg) (s : State) : Result := .next (s.queueVec (.vslt t a b c k) [] 0)
/-- VSLE (R197): b ≤ c into mask a. -/
def execVsle (t : EType) (a : MReg) (b c : VReg) (k : MReg) (s : State) : Result := .next (s.queueVec (.vsle t a b c k) [] 0)
/-- VSEL (R198): b or c by mask d. -/
def execVsel (a b c : VReg) (d : MReg) (s : State) : Result := .next (s.queueVec (.vsel a b c d) [] 0)
/-- VBCAST (R198): the low bits of general register b in every sub-element. -/
def execVbcast (t : EType) (a : VReg) (b : GReg) (k : MReg) (s : State) : Result := .next (s.queueVec (.vbcast t a b k) [s.g b] 0)
/-- VEXT (R198): a := element c of b, or 0 at or above VLEN. -/
def execVext (a : GReg) (b : VReg) (c : GReg) (s : State) : Result := .next (s.queueVec (.vext a b c) [s.g c] 0)
/-- VPERM (R198): element c[i] of b, or 0 at or above VLEN. -/
def execVperm (a b c : VReg) (k : MReg) (s : State) : Result := .next (s.queueVec (.vperm a b c k) [] 0)
/-- VREDADD (R204): the sum, rounded once. -/
def execVredadd (t : EType) (a : GReg) (b : VReg) (k : MReg) (s : State) : Result := .next (s.queueVec (.vredadd t a b k) [] 0)
/-- VREDMAX (R204): the largest. -/
def execVredmax (t : EType) (a : GReg) (b : VReg) (k : MReg) (s : State) : Result := .next (s.queueVec (.vredmax t a b k) [] 0)
/-- VREDMIN (R204): the smallest. -/
def execVredmin (t : EType) (a : GReg) (b : VReg) (k : MReg) (s : State) : Result := .next (s.queueVec (.vredmin t a b k) [] 0)
/-- VMAXI (R204, R50): the largest, and its index into c. -/
def execVmaxi (t : EType) (a : GReg) (b : VReg) (c : GReg) (k : MReg) (s : State) : Result := .next (s.queueVec (.vmaxi t a b c k) [] 0)
/-- VMINI (R204, R50): the smallest, and its index into c. -/
def execVmini (t : EType) (a : GReg) (b : VReg) (c : GReg) (k : MReg) (s : State) : Result := .next (s.queueVec (.vmini t a b c k) [] 0)
/-- MAND (R205). -/
def execMand (a b c : MReg) (s : State) : Result := .next (s.queueVec (.mand a b c) [] 0)
/-- MOR (R205). -/
def execMor (a b c : MReg) (s : State) : Result := .next (s.queueVec (.mor a b c) [] 0)
/-- MXOR (R205). -/
def execMxor (a b c : MReg) (s : State) : Result := .next (s.queueVec (.mxor a b c) [] 0)
/-- MNOT (R205). -/
def execMnot (a b : MReg) (s : State) : Result := .next (s.queueVec (.mnot a b) [] 0)
/-- MPOPC (R205): set bits below VLEN. -/
def execMpopc (a : GReg) (b : MReg) (s : State) : Result := .next (s.queueVec (.mpopc a b) [] 0)
/-- MFIRST (R205): the lowest set bit below VLEN, or 64. -/
def execMfirst (a : GReg) (b : MReg) (s : State) : Result := .next (s.queueVec (.mfirst a b) [] 0)
/-- MSET (R205): all bits from general register b. -/
def execMset (a : MReg) (b : GReg) (s : State) : Result := .next (s.queueVec (.mset a b) [s.g b] 0)
/-- MMOV (R205). -/
def execMmov (a b : MReg) (s : State) : Result := .next (s.queueVec (.mmov a b) [] 0)
/-- MMOV.G (R205): a general register from a mask. -/
def execMmovG (a : GReg) (b : MReg) (s : State) : Result := .next (s.queueVec (.mmovG a b) [] 0)
/-- PPSEL (R208): chooses the set of later PPEVs. -/
def execPpsel (n : BitVec 4) (s : State) : Result := .next (s.queueVec (.ppsel n) [] 0)
/-- PPEV (R209): the selected set, or the user table, of every sub-element. -/
def execPpev (t : FType) (a b : VReg) (k : MReg) (s : State) : Result := .next (s.queueVec (.ppev t a b k) [] 0)

end Sys2Proof.Machine
end

