-- ==== Sys2Proof/Machine/VectorMem.lean ====
section
/-!
DEFINITION. Vector memory, major 0x32, the table load of the polynomial unit, and the steps of the vector queue
(spec/07 R185, R199 to R202, R207).
-/
namespace Sys2Proof.Machine

/-! ### Elements in memory (R200) -/

/-- The issue check of one element (R201); an element of a counter window is of another size than 8 (R320). -/
def State.vmemCheck (s : State) (m : VMem) (j : Nat) : Option Cause :=
  let a := m.addr j
  if m.local_ then s.checkLocal s.core a.toNat 4 4 m.store
  else (s.checkGlobal s.core s.cid a m.z).orElse (fun _ => if (s.windowOf a).isSome then some { code := 0x06, addr := a } else none)

/-- Queue a vector memory instruction (R199 to R201): every active element is checked, then the tiles of a load are marked. -/
def State.queueVmem (s : State) (i : Instr) (k : MReg) (ops : List Word) : State :=
  if s.ctx ≠ 0 then s.illegal
  else if !s.here.vecRoom then s
  else match vmemOf s.here i ops with
    | none => s
    | some m =>
      let mask := s.here.gov k
      let act := activeOf s.here.vec.vlen mask
      let s := if m.local_ then s else s.obbUse s.core (idOf (opAt ops 0))
      s.checked (act.findSome? (s.vmemCheck m)) (fun s =>
        let s := if m.local_ && !m.store then each act s (fun s j => s.markTiles s.core (m.addr j).toNat 4) else s
        s.queueVec i ops mask)

/-- VLD (R200): loads consecutive words of global memory. -/
def execVld (a : VReg) (b : GReg) (imm : BitVec 19) (k : MReg) (s : State) : Result := .next (s.queueVmem (.vld a b imm k) k [s.g b])
/-- VST (R200). -/
def execVst (a : VReg) (b : GReg) (imm : BitVec 19) (k : MReg) (s : State) : Result := .next (s.queueVmem (.vst a b imm k) k [s.g b])
/-- VLDL (R200): loads consecutive words of local memory. -/
def execVldl (a : VReg) (b : GReg) (imm : BitVec 19) (k : MReg) (s : State) : Result := .next (s.queueVmem (.vldl a b imm k) k [s.g b])
/-- VSTL (R200). -/
def execVstl (a : VReg) (b : GReg) (imm : BitVec 19) (k : MReg) (s : State) : Result := .next (s.queueVmem (.vstl a b imm k) k [s.g b])
/-- VLDS (R200): element i at a stride of S(c). -/
def execVlds (z : Size) (a : VReg) (b c : GReg) (imm : BitVec 19) (k : MReg) (s : State) : Result :=
  .next (s.queueVmem (.vlds z a b c imm k) k [s.g b, s.g c])
/-- VGATH (R200): element i at offset c[i]. -/
def execVgath (z : Size) (a : VReg) (b : GReg) (c : VReg) (imm : BitVec 19) (k : MReg) (s : State) : Result :=
  .next (s.queueVmem (.vgath z a b c imm k) k [s.g b])
/-- VSCAT (R200): element i at offset c[i]. -/
def execVscat (z : Size) (a : VReg) (b : GReg) (c : VReg) (imm : BitVec 19) (k : MReg) (s : State) : Result :=
  .next (s.queueVmem (.vscat z a b c imm k) k [s.g b])

/-! ### Ranges checked as a VLDL or VSTL of them (R201, R207, R213, R216) -/

/-- The pieces of a range that lie in one 4 KiB tile each: the outcome of R201's element checks is one throughout a piece. -/
def tilePieces (la n : Nat) : List (Nat × Nat) :=
  (List.range ((la + n + 0xFFF) / 0x1000 - la / 0x1000)).map (fun i =>
    let lo := max la ((la / 0x1000 + i) * 0x1000)
    let hi := min (la + n) ((la / 0x1000 + i + 1) * 0x1000)
    (lo, hi - lo))
/-- The first failing element of a range checked as a VLDL or VSTL. -/
def State.checkRange (s : State) (la n : Nat) (store : Bool) : Option Cause :=
  if 2 ^ 20 ≤ la then some { code := 0x07, addr := w64 la }
  else (tilePieces la n).findSome? (fun p => s.checkLocal s.core p.1 p.2 4 store)

/-- PPLD (R207): queues the load of a 1,296-byte table image at local address b, a multiple of 16. -/
def execPpld (b : GReg) (s : State) : Result :=
  .next (
    let la := (s.g b).toNat
    if s.ctx ≠ 0 then s.illegal
    else if !s.here.vecRoom then s
    else if la % 16 ≠ 0 then s.raise { code := 0x06, addr := s.g b }
    else s.checked (s.checkRange la 1296 false) (fun s => (s.markTiles s.core la 1296).queueVec (.ppld b) [s.g b] 0))

/-- The table and segment count of an image; a count of 0 or above 64 leaves the table empty (R207). -/
def tableOf (bs : List Byte) : Nat × SMap (BitVec 32) :=
  let n := leNat (bs.take 4)
  if n = 0 ∨ 64 < n then (0, [])
  else (n, (List.range (5 * n)).map (fun j => (j, BitVec.ofNat 32 (leNat ((bs.drop (16 + 4 * j)).take 4)))))

/-! ### Execution (R201, R202) -/

/-- The outcome of one element. -/
inductive VRes where
  | done | got (v : BitVec 32) | page (obj pg : Nat) | again | fault (code sub : Nat) (addr : Word)
  deriving DecidableEq, Repr

/-- What a home's answer means to an element (R201). -/
def vRes (r : Ans) (a : Word) : VRes :=
  match r with
  | .ok _ => .done
  | .poison => .fault 0x0B 0 a
  | .absent => .page (idOf a) (offOf a / 65536)
  | .object => .fault 0x0A 0 a
  | .held | .stall => .again

/-- Whether a vector store must find its page resident (R201): it is not, and neither a line of the slice nor, on a
write-back page, one of the first level takes the bytes without a translation (R233, R342). -/
def State.storeWaits (s : State) (c : Nat) (a : Word) (h : Home) : Bool :=
  s.mustWait h && !((s.pageType h.id (offOf a)).2 && ((s.coreAt c).l1Find (a.toNat / 32)).isSome) &&
    (h.ext.ty = .device || (match ((s.die h.die).slice h.slot).find h.set h.key with
      | some l => !l.valid.getLsbD (offOf a % 256 / 32)
      | none => true))

/-- Perform element j of a form on core c; a load answers the value read, which its instruction writes at the end. -/
def State.vmemElem (s : State) (c cid : Nat) (m : VMem) (j : Nat) : State × VRes :=
  let a := m.addr j
  let load (bs : List Byte) : VRes := .got (BitVec.ofNat 32 (leNat bs))
  let data := leBytes m.z (((s.coreAt c).ve m.reg j).toNat % 2 ^ (8 * m.z))
  let loc (s : State) (t la : Nat) (own : Bool) : State × VRes :=
    if m.store then (s.localWrite t la data cid, .done)
    else
      let (s, bs, bad) := s.localRead t la m.z
      match bad with
      | some w => (s, if own then .fault 0x0B 4 (w64 w) else .fault 0x0B 0 a)
      | none => (s, load bs)
  if m.local_ then loc s c a.toNat true
  else if idOf a = aliasId then
    let t := offOf a / 2 ^ 20
    let la := offOf a % 2 ^ 20
    match s.portFault t la m.z m.store with
    | some z => (s, .fault z.code 0 a)
    | none => loc s t la false
  else if m.store then
    -- a store whose page is not resident holds the queue, where a scalar one would wait in the buffer (R201)
    match (s.homeOf (idOf a) (offOf a)).filter (s.storeWaits c a) with
    | some h => let (s, r) := s.openFault h; (s, vRes r a)
    | none =>
      let (s, r) := s.gStore c 0 a data cid
      (s, vRes r a)
  else match s.gLoad c 0 a m.z cid with
    | (s, .ok bs) => (s, load bs)
    | (s, r) => (s, vRes r a)

/-- Take the entry at the head off the queue. -/
def State.vecPop (s : State) (c : Nat) : State :=
  s.modCore c (fun x => { x with vec := { x.vec with queue := x.vec.queue.tail } })
/-- Keep at the head which elements have been performed, and what its loads read (R201's replay). -/
def State.vecKeep (s : State) (c : Nat) (e : VEntry) : State :=
  s.modCore c (fun x => { x with vec := { x.vec with queue := e :: x.vec.queue.tail } })
/-- Write the elements a load read into its register. -/
def Core.putElems (x : Core) (r : VReg) (buf : SMap (BitVec 32)) : Core := buf.foldl (fun x p => x.setVe r p.1 p.2) x

/-- One element of the head, and what it leaves in the entry. -/
def State.vmemStep (c cid : Nat) (m : VMem) (z : State × VEntry × VRes) (j : Nat) : State × VEntry × VRes :=
  let (s, e, r) := z
  let did (e : VEntry) : VEntry := { e with did := e.did ||| (1#64 <<< j) }
  match r with
  | .done =>
    match s.vmemElem c cid m j with
    | (s, .done) => (s, did e, .done)
    | (s, .got v) => (s, { did e with buf := sput e.buf j v }, .done)
    | (s, r) => (s, e, r)
  | r => (s, e, r)

/-- Perform the remaining elements of the head in increasing index; the queue waits at one whose page has no frame. A load
that fails writes no element (R185). -/
def State.vmemRun (s : State) (c cid : Nat) (e : VEntry) (m : VMem) : State :=
  let (s, e, r) := each (activeOf e.vlen (e.mask &&& ~~~e.did)) (s, e, VRes.done) (State.vmemStep c cid m)
  match r with
  | .done | .got _ => (s.modCore c (fun x => x.putElems m.reg e.buf)).vecPop c
  | .page obj pg => ((s.vecKeep c e).modCore c (fun x => { x with vec := { x.vec with page := some (obj, pg) } })).joinPage obj pg (.vec c)
  | .again => s.vecKeep c e
  | .fault code sub a => s.vecFault c code sub a e.pc

/-- PPLD as it completes (R207). -/
def State.ppldRun (s : State) (c : Nat) (e : VEntry) : State :=
  if e.vlen = 0 then s.vecPop c else
  let (s, bs, bad) := s.localRead c (opAt e.ops 0).toNat 1296
  match bad with
  | some w => s.vecFault c 0x0B 4 (w64 w) e.pc
  | none =>
    let (n, t) := tableOf bs
    (s.modCore c (fun x => { x with vec := { x.vec with segs := n, table := t } })).vecPop c

/-- VECTOR_QUEUE_START (R183, R190): the head starts; with no element it completes in this step. -/
def execVectorQueueStart (c : Nat) (s : State) : Result :=
  .next (match (s.coreAt c).vec.queue with
    | e :: r =>
      if e.fin.isSome then s
      else
        let d := vecDuration e
        let s := s.modCore c (fun x => { x with vec := { x.vec with queue := { e with fin := some (s.now + d) } :: r } })
        if d = 0 then s.pushFront (.vectorQueueComplete c) else s
    | [] => s)

/-- The vector and mask registers that an instruction of the queue reads, mask registers from 32 on. -/
def vecSources (i : Instr) : List Nat :=
  let m (k : MReg) : Nat := 32 + k.toNat
  match i with
  | .vadd _ _ b c k | .vsub _ _ b c k | .vmul _ _ b c k | .vmin _ _ b c k | .vmax _ _ b c k | .vand _ _ b c k | .vor _ _ b c k
  | .vxor _ _ b c k | .vshl _ _ b c k | .vshrl _ _ b c k | .vshra _ _ b c k | .vseq _ _ b c k | .vslt _ _ b c k | .vsle _ _ b c k
  | .vperm _ b c k => [b.toNat, c.toNat, m k]
  | .vabs _ _ b k | .vneg _ _ b k | .ppev _ _ b k | .vredadd _ _ b k | .vredmax _ _ b k | .vredmin _ _ b k => [b.toNat, m k]
  | .vmaxi _ _ b _ k | .vmini _ _ b _ k => [b.toNat, m k]
  | .vfma _ _ b c d k => [b.toNat, c.toNat, d.toNat, m k]
  | .vcvt _ _ _ _ a b d k => [a.toNat, b.toNat, d.toNat, m k]
  | .vsel _ b c d => [b.toNat, c.toNat, m d]
  | .vbcast _ _ _ k | .vld _ _ _ k | .vldl _ _ _ k | .vlds _ _ _ _ _ k => [m k]
  | .vext _ b _ => [b.toNat]
  | .vst a _ _ k | .vstl a _ _ k => [a.toNat, m k]
  | .vgath _ _ _ c _ k => [c.toNat, m k]
  | .vscat _ a _ c _ k => [a.toNat, c.toNat, m k]
  | .mand _ b c | .mor _ b c | .mxor _ b c => [m b, m c]
  | .mnot _ b | .mmov _ b | .mpopc _ b | .mfirst _ b | .mmovG _ b => [m b]
  | _ => []
/-- Those that it writes. -/
def vecTargets (i : Instr) : List Nat :=
  match i with
  | .vadd _ a .. | .vsub _ a .. | .vmul _ a .. | .vmin _ a .. | .vmax _ a .. | .vand _ a .. | .vor _ a .. | .vxor _ a ..
  | .vshl _ a .. | .vshrl _ a .. | .vshra _ a .. | .vabs _ a .. | .vneg _ a .. | .vfma _ a .. | .vsel a .. | .vbcast _ a ..
  | .vperm a .. | .vld a .. | .vldl a .. | .vlds _ a .. | .vgath _ a .. | .ppev _ a .. => [a.toNat]
  | .vcvt _ _ _ _ a _ d _ => [a.toNat, d.toNat]
  | .vseq _ a .. | .vslt _ a .. | .vsle _ a .. | .mand a .. | .mor a .. | .mxor a .. | .mnot a _ | .mset a _ | .mmov a _ => [32 + a.toNat]
  | _ => []

/-- The head of the vector queue as it completes reads its entry, its registers, and for a PPEV the table, and meets their
errors; what it writes is whole again (R375, R377; log 73). Also whether the core's launch is lost. -/
def State.vecMeet (s : State) (c : Nat) (e : VEntry) : State × Bool :=
  let x := (s.coreAt c).vec
  let rs := vecSources e.instr
  let done := rs ++ vecTargets e.instr
  let table := match e.instr with | .ppev .. => true | _ => false
  let fresh := match e.instr with | .ppld _ => true | _ => table
  if x.hurt.isEmpty && x.tableHurt.isNone && e.hurt.isNone then (s, false)
  else
    let (s, a) := s.suffer c 5 (hurtOf x.hurt rs)
    let (s, b) := s.suffer c 6 e.hurt.toList
    let (s, d) := s.suffer c 0 (if table then x.tableHurt.toList else [])
    (s.modCore c (fun y => { y with vec := { y.vec with
      hurt := y.vec.hurt.filter (fun h => !done.contains h.1)
      tableHurt := if fresh then none else y.vec.tableHurt
      queue := match y.vec.queue with | f :: r => { f with hurt := none } :: r | [] => [] } }), a || b || d)

/-- The head of a vector queue completes, if its duration has run and it waits for no page. -/
def State.vecComplete (s : State) (c : Nat) : State :=
    let x := s.coreAt c
    match x.vec.queue with
    | [] => s
    | e :: _ =>
      match e.fin with
      | none => s
      | some t =>
        if s.now < t || x.vec.page.isSome then s
        else
        let (s, lost) := s.vecMeet c e
        if lost then s
        else match vmemOf x e.instr e.ops with
          | some m => s.vmemRun c x.cid e m
          | none =>
            match e.instr with
            | .ppld _ => s.ppldRun c e
            | .vcvt dst src mode p a b d k => (s.doVcvt c e dst src mode p.toNat a b d k).vecPop c
            | _ => (s.modCore c (fun x => x.vecEffect e)).vecPop c

/-- The issue check of a saved vector command that is queued again: its remaining elements, or the table image (R201, R207,
R334). -/
def State.vecCheck (s : State) (e : VEntry) : Option Cause :=
  match vmemOf s.here e.instr e.ops with
  | some m => (activeOf e.vlen e.mask).findSome? (s.vmemCheck m)
  | none => match e.instr with
    | .ppld _ => s.checkRange (opAt e.ops 0).toNat 1296 false
    | _ => none
/-- The saved vector commands of a core are queued again: the first whose checks fail is a queue fault, and it and all behind
it have no effect (R185, R186, R334; log 72). -/
def State.requeueVec (s : State) (c : Nat) : State :=
  let t := s.at_ c 0
  let q := (s.coreAt c).vec.queue
  match q.findSome? (fun e => (t.vecCheck e).map (fun z => (e, z))) with
  | none => s
  | some (e, z) =>
    let ahead := q.takeWhile (fun f => (t.vecCheck f).isNone)
    let page := (s.coreAt c).vec.page
    (s.vecFault c z.code 0 z.addr e.pc).modCore c (fun x => { x with vec := { x.vec with queue := ahead, page := if ahead.isEmpty then none else page } })

/-- VECTOR_QUEUE_COMPLETE (R183, R190): the head has run its duration and takes effect; one behind it that issued with
VLEN = 0 completes in the step it reaches the head. -/
def execVectorQueueComplete (c : Nat) (s : State) : Result :=
  .next (
    let t := s.vecComplete c
    match (t.coreAt c).vec.queue with
    | e :: _ => if e.vlen = 0 && e.fin.isNone && (t.coreAt c).vec.queue.length < (s.coreAt c).vec.queue.length then t.pushFront (.vectorQueueStart c) else t
    | [] => t)

end Sys2Proof.Machine
end

