-- ==== Sys2Proof/Machine/Matrix.lean ====
section
/-!
DEFINITION. The matrix unit, majors 0x37 and 0x38: issue checks, the arbiter of an octet, the commands as they
complete, check lanes, mirror mode and the latch ring (spec/07 R210 to R221; spec/02 R51, R53; spec/11 R272).
-/
namespace Sys2Proof.Machine

/-! ### Issue (R213, R215, R216) -/

/-- Steps of a command once it has started; MCHK's are settled at dispatch (R210). -/
def matDuration (i : Instr) : Nat :=
  match i with
  | .mma .bf .. | .mma .f16 .. => 64
  | .mma .e4 .. | .mma .e5 .. | .mma .i8 .. => 32
  | .mma .e2 .. => 16
  | .mzero _ => 4
  | .mldb .. | .mst .. | .mring _ => 16
  | .mchk _ => 8
  | _ => 1

/-- Whether a command runs on a half; the others use the tile port (R210). -/
def onHalf (i : Instr) : Bool := match i with | .mma .. => true | _ => false

/-- Whether the issuing context may queue a matrix command now: context 0, room in the queue (R10, R183). -/
def State.matReady (s : State) (f : State → State) : State :=
  if s.ctx ≠ 0 then s.illegal else if !s.here.matRoom then s else f s

/-- A tile outside ACCMAP is illegal (R16, R215). -/
def State.mapped (s : State) (a : AReg) (f : State → State) : State :=
  if s.here.mat.accmap.getLsbD a.toNat then f s else s.illegal

/-- The mirror mode, head address and operands with which a command enters the queue, and its retirement. -/
def State.enterMat (s : State) (i : Instr) (ops : List Word) (start : Option Word) (half : Option Nat) : State :=
  let s := s.queueMatrix { instr := i, ops := ops, mirror := s.here.mat.mirror, start := start, half := half, pc := s.me.q0.addr }
  (if start.isSome then s.force s.core else s).retire

/-- ALIGN of an operand that is not a multiple of 256, before the range checks (R213, R216). -/
def State.aligned256 (s : State) (b : Word) (f : State → State) : State :=
  if b.toNat % 256 ≠ 0 then s.raise { code := 0x06, addr := b } else f s

/-- Range of steps a timed command will hold its resource, as seen from now; one that is past holds nothing. -/
def State.timedSpan (s : State) (c : Nat) (e : MEntry) : Option (Nat × Nat) :=
  match e.start, e.fin with
  | some t, none =>
    let st := (s.stepOf c).toNat
    if t.toNat < st then none
    else some (s.now + (t.toNat - st), s.now + (t.toNat - st) + matDuration e.instr)
  | _, _ => none

/-- The resources a timed command holds: the half chosen, both under MMIR.FORCE, or the tile port (R213). -/
def MEntry.holdsRes (e : MEntry) (r : Nat) : Bool :=
  if onHalf e.instr then r != 2 && (e.half == some r || e.half == some 3) else r == 2

/-- Whether a timed command of the octet holds a resource in steps lo to hi - 1. -/
def State.reserved (s : State) (o r lo hi : Nat) : Bool :=
  (octCores o).any (fun c => (s.coreAt c).mat.queue.any (fun e =>
    e.holdsRes r && (match s.timedSpan c e with | some (a, b) => decide (a < hi) && decide (lo < b) | none => false)))


/-- Whether a resource's present run has ended by a step. -/
def State.idleBy (s : State) (o r t : Nat) : Bool :=
  match sfind (s.oct o).busy r with | some (_, u) => decide (u ≤ t) | none => true

/-- Whether a timed command, yet to start or running, holds a resource in steps lo to hi - 1 (R210). -/
def State.timedHolds (s : State) (o r lo hi : Nat) : Bool :=
  s.reserved o r lo hi || (!s.idleBy o r lo && (match sfind (s.oct o).busy r with
    | some (c, _) => (match (s.coreAt c).mat.queue with | e :: _ => e.start.isSome && e.fin.isSome | [] => false)
    | none => false))

/-- Of the halves that pass a test, the one with the lower wear count, H0 on a tie (R210). -/
def State.halfOf (s : State) (o : Nat) (p : Nat → Bool) : Option Nat :=
  match p 0, p 1 with
  | true, true => some (s.oct o).fresher
  | true, false => some 0
  | false, true => some 1
  | false, false => none

/-- The half of a timed multiply, chosen at its issue among those no earlier timed command holds (R210): one whose
present run has ended by its step, if there is one. -/
def State.chooseHalf (s : State) (m : Mirror) (t : Word) (d : Nat) : Option Nat :=
  if m = .force then some 3
  else
    let o := octOf s.core
    let lo := s.now + (t.toNat - (s.stepOf s.core).toNat)
    let open_ (r : Nat) : Bool := !s.timedHolds o r lo (lo + d)
    (s.halfOf o (fun r => open_ r && s.idleBy o r lo)).orElse (fun _ => s.halfOf o open_)

/-- Scale register of MMA.E2: bits [63:52] zero and the array address a multiple of 64 (R213 item 4). The 1,024 bytes are
checked as any local range is: one that straddles two attached slots takes no fault (R37, R213; log 71). -/
def State.scaleCheck (s : State) (f : MmaFmt) (c : Word) : Option Cause :=
  if f ≠ .e2 then none
  else if bits c 63 52 ≠ 0 ∨ bits c 51 32 % 64 ≠ 0 then some { code := 0x06, addr := w64 (bits c 63 32) }
  else s.checkRange (bits c 51 32) 1024 false

/-- TIMING of a start that is past (R213 item 5, R217). -/
def State.pastCheck (s : State) (start : Option Word) : Option Cause :=
  match start with
  | some t => if t.toNat < (s.stepOf s.core).toNat then some { code := 0x0D } else none
  | none => none

/-- MMA (R212, R213): multiplies the A tile at b by the current latch into a tile. -/
def execMma (f : MmaFmt) (atn : Option (BitVec 16)) (a : AReg) (b c : GReg) (s : State) : Result :=
  .next (s.matReady (fun s => s.mapped a (fun s => s.aligned256 (s.g b) (fun s =>
    let la := (s.g b).toNat
    let start := atn.map (fun n => s.here.taskstep + n.setWidth 64)
    s.checked (s.checkRange la (mmaBytes f) false) (fun s =>
      s.checked ((s.scaleCheck f (s.g c)).orElse (fun _ => s.pastCheck start)) (fun s =>
        let s := s.markTiles s.core la (mmaBytes f)
        let s := if f = .e2 then s.markTiles s.core (bits (s.g c) 51 32) 1024 else s
        let i : Instr := .mma f atn a b c
        s.enterMat i [s.g b, s.g c] start (start.bind (fun t => s.chooseHalf s.here.mat.mirror t (matDuration i)))))))))

/-- MZERO (R214, R215). -/
def execMzero (a : AReg) (s : State) : Result :=
  .next (s.matReady (fun s => s.mapped a (fun s => s.enterMat (.mzero a) [] none none)))

/-- MLDB (R216): copies into the current latch. -/
def execMldb (z : LatchSize) (b : GReg) (s : State) : Result :=
  .next (s.matReady (fun s => s.aligned256 (s.g b) (fun s =>
    s.checked (s.checkRange (s.g b).toNat (latchBytes z) false) (fun s =>
      (s.markTiles s.core (s.g b).toNat (latchBytes z)).enterMat (.mldb z b) [s.g b] none none))))

/-- MRING (R217); the offset is 32 times its field (R215). -/
def execMring (atn : Option (BitVec 7)) (s : State) : Result :=
  .next (s.matReady (fun s =>
    let start := atn.map (fun n => s.here.taskstep + n.setWidth 64 * 32)
    s.checked (s.pastCheck start) (fun s => s.enterMat (.mring atn) [] start none)))

/-- MCHK (R218). -/
def execMchk (a : AReg) (s : State) : Result :=
  .next (s.matReady (fun s => s.mapped a (fun s => s.enterMat (.mchk a) [] none none)))

/-- MST (R216): stores a tile row by row. -/
def execMst (bf : Bool) (a : AReg) (b : GReg) (s : State) : Result :=
  .next (s.matReady (fun s => s.mapped a (fun s => s.aligned256 (s.g b) (fun s =>
    s.checked (s.checkRange (s.g b).toNat (mstBytes bf) true) (fun s => s.enterMat (.mst bf a b) [s.g b] none none)))))

/-- MMIR (R219): the mirror mode of later multiplies. -/
def execMmir (m : Mirror) (s : State) : Result :=
  .next (if s.ctx ≠ 0 then s.illegal else (s.modHere (fun x => { x with mat := { x.mat with mirror := m } })).retire)

/-- MWAIT's result: corrections and accepted retries since the last one (R220). -/
def State.mwaitDone (s : State) (a : GReg) : State :=
  let m := s.here.mat
  (s.modHere (fun x => { x with mat := { x.mat with corr := 0, retr := 0 } })).result a (w64 (m.corr.toNat + m.retr.toNat * 65536))

/-- MWAIT (R220): waits until the matrix queue is empty. -/
def execMwait (a : GReg) (s : State) : Result :=
  .next (
    if s.ctx ≠ 0 then s.illegal
    else if s.here.mat.queue.isEmpty then s.mwaitDone a
    else s.hold (.mwait a) 0)

/-- MWAIT_COMPLETE (R220): a queue fault recorded in the wait is taken at the MWAIT instead (R185). -/
def execMwaitComplete (c : Nat) (s : State) : Result :=
  .next (
    let s := s.at_ c 0
    match s.me.wait with
    | some (.mwait a) => if s.here.mat.queue.isEmpty && !s.here.queueFaulted s.me.intrap then s.mwaitDone a else s
    | _ => s)

/-- The code of a mirror mode (R215). -/
def mirrorCode (m : Mirror) : Nat := match m with | .off => 0 | .on => 1 | .force => 2

/-- The word MQSTAT writes (R220). -/
def State.matStatus (s : State) : Word :=
  let m := s.here.mat
  let chk := ((List.range 16).map (fun t =>
    if m.accmap.getLsbD t && ((s.oct (octOf s.core)).tile t).chk then 2 ^ t else 0)).sum
  w64 (chk * 65536 + m.fault.isSome.toNat * 1024 + mirrorCode m.mirror * 256 + m.full.toNat * 128 + m.queue.length)

/-- MQSTAT (R220). -/
def execMqstat (a : GReg) (s : State) : Result := .next (if s.ctx ≠ 0 then s.illegal else s.result a s.matStatus)

/-! ### The multiply (R51, R53, R211, R214) -/

/-- The low and high nibble of each byte, in order (R34). -/
def nibbles (bs : List Byte) : List Nat := bs.flatMap (fun b => [b.toNat % 16, b.toNat / 16])

/-- Element values along K of one row of A or one column of B, without scales (R211). -/
def mmaVals (f : MmaFmt) (row : List Byte) : List FVal :=
  match f with
  | .bf => (List.range 64).map (fun k => dec .bf (leNat ((row.drop (2 * k)).take 2)))
  | .f16 => (List.range 64).map (fun k => dec .f16 (leNat ((row.drop (2 * k)).take 2)))
  | .e4 => row.map (fun b => dec .e4 b.toNat)
  | .e5 => row.map (fun b => dec .e5 b.toNat)
  | .e2 => (nibbles row).map (dec .e2)
  | .i8 => row.map (fun b => .ofInt b.toInt)

/-- The 64 rows of a tile image; under .E2 each element carries its block's scale and the band scale (R36, R37). -/
def mmaRows (f : MmaFmt) (bs scales : List Byte) (band : FVal) : List (List FVal) :=
  let n := mmaBytes f / 64
  (List.range 64).map (fun i =>
    let vs := mmaVals f ((bs.drop (n * i)).take n)
    if f = .e2 then
      let sc := ((scales.drop (8 * i)).take 8).flatMap (fun b => List.replicate 8 (fMul (decE3M5 b.toNat) band))
      List.zipWith fMul vs sc
    else vs)

/-- The exact sum of one group of eight products (R51). -/
def groupSum (a b : List FVal) (g : Nat) : FVal :=
  fSum (List.zipWith fMul ((a.drop (8 * g)).take 8) ((b.drop (8 * g)).take 8))

/-- An exact integer held as a value. -/
def FVal.int (v : FVal) : Int := match v with | .fin n m e => scaled n m e 0 | _ => 0

/-- The element of a tile. -/
def Tile.at (t : Tile) (i j : Nat) : BitVec 32 := sget 0 t.el (64 * i + j)
/-- A magnitude sum with one more magnitude, rounded upward (R214). -/
def upSum (m : BitVec 32) (v : FVal) : BitVec 32 := BitVec.ofNat 32 (enc .f32 (fAdd (dec .f32 m.toNat) v.abs) .up)

/-- One group step at element (i, j): the accumulator, and the check lanes while they are not void (R51, R53, R214). -/
def Tile.step (t : Tile) (int : Bool) (i j : Nat) (G : FVal) : Tile :=
  if int then
    let t := { t with el := sput t.el (64 * i + j) (BitVec.ofInt 32 ((t.at i j).toInt + G.int)) }
    if t.void then t
    else { t with rs := smod (.ofInt 0) t.rs i (fAdd · G), cs := smod (.ofInt 0) t.cs j (fAdd · G) }
  else
    let sum := fAdd (dec .f32 (t.at i j).toNat) G
    let v := enc .f32 sum .ne
    let t := { t with el := sput t.el (64 * i + j) (BitVec.ofNat 32 v) }
    if t.void then t
    else
      let odd := !G.isFin || overflows32 sum
      { t with
        rs := smod (.ofInt 0) t.rs i (fAdd · G)
        cs := smod (.ofInt 0) t.cs j (fAdd · G)
        mr := smod 0 t.mr i (upSum · (dec .f32 v))
        mc := smod 0 t.mc j (upSum · (dec .f32 v))
        ur := if odd then t.ur ||| (1#64 <<< i) else t.ur
        uc := if odd then t.uc ||| (1#64 <<< j) else t.uc }

/-- The kind and the void flag as a multiply meets them: one of the other kind makes the lanes void (R214). -/
def Tile.meet (t : Tile) (int : Bool) : Tile :=
  let k : TileKind := if int then .int else .fp
  match t.kind with
  | .none => { t with kind := k, chk := false }
  | old => { t with void := t.void || old != k, chk := false }

/-- The multiply: eight group steps, each over every row and column (R51, R214). -/
def Tile.multiply (t : Tile) (int : Bool) (as bs : List (List FVal)) : Tile :=
  each (List.range 8) (t.meet int) (fun t g =>
    let t := each (List.range 64) t (fun t i =>
      each (List.range 64) t (fun t j => t.step int i j (groupSum (as.getD i []) (bs.getD j []) g)))
    if t.void then t else { t with q := t.q + 1 })

/-! ### The check (R218) -/

/-- Elements of a row or a column. -/
def Tile.line (t : Tile) (row : Bool) (x : Nat) : List (BitVec 32) :=
  (List.range 64).map (fun y => if row then t.at x y else t.at y x)

/-- The tolerance of a magnitude sum; one that is not finite bounds nothing. -/
def tolerance (m : BitVec 32) (q : Nat) : FVal :=
  fAdd (fMul (dec .f32 m.toNat) (.fin false 1 (-23))) (.fin false (64 * q) (-149))

/-- Whether a row or column is bad. -/
def Tile.badLine (t : Tile) (row : Bool) (x : Nat) : Bool :=
  let sum := sget (.ofInt 0) (if row then t.rs else t.cs) x
  let els := t.line row x
  if t.kind = .int then
    BitVec.ofInt 32 (sum.int - (els.map BitVec.toInt).sum) != 0
  else if (if row then t.ur else t.uc).getLsbD x then false
  else
    let vs := els.map (fun e => dec .f32 e.toNat)
    vs.any (fun v => !v.isFin)
      || fLt (tolerance (sget 0 (if row then t.mr else t.mc) x) t.q) (fAdd sum (fSum vs).negate).abs

/-- The element that a correction writes: the row's sum less its other elements. -/
def Tile.corrected (t : Tile) (i j : Nat) : BitVec 32 :=
  let sum := sget (.ofInt 0) t.rs i
  let others := ((List.range 64).filter (· != j)).map (fun k => t.at i k)
  if t.kind = .int then BitVec.ofInt 32 (sum.int - (others.map BitVec.toInt).sum)
  else BitVec.ofNat 32 (enc .f32 (fAdd sum (fSum (others.map (fun e => dec .f32 e.toNat))).negate) .ne)

/-- What a check finds. -/
inductive Verdict where
  | pass | void | fixed (t : Tile) | failed (tried : Bool)
  deriving DecidableEq, Repr

/-- The judgement of a tile (R218). -/
def Tile.judge (t : Tile) : Verdict :=
  if t.void then .void
  else
    match (List.range 64).filter (t.badLine true), (List.range 64).filter (t.badLine false) with
    | [], [] => .pass
    | [i], [j] =>
      let u := { t with el := sput t.el (64 * i + j) (t.corrected i j) }
      if u.badLine false j then .failed true else .fixed { u with chk := true }
    | _, _ => .failed false

/-- Steps of a command at its start: MCHK takes 12 when it attempts a correction (R210). -/
def State.startDuration (s : State) (c : Nat) (i : Instr) : Nat :=
  match i with
  | .mchk a => (match ((s.oct (octOf c)).tile a.toNat).judge with | .fixed _ | .failed true => 12 | _ => 8)
  | i => matDuration i

/-! ### Queue faults (R185) -/

/-- Record a matrix queue fault; a command already started stays when a later one failed. -/
def State.matFault (s : State) (c code sub : Nat) (addr pc : Word) (keepHead : Bool) : State :=
  (s.modCore c (fun x => { x with mat := { x.mat with
    queue := if keepHead then x.mat.queue.take 1 else []
    fault := some (w64 (code + 2 * 2 ^ 16 + sub * 2 ^ 24 + pc.toNat % 2 ^ 32 * 2 ^ 32), addr) } })).unforce c

/-- The head leaves the queue. -/
def State.matPop (s : State) (c : Nat) : State :=
  s.modCore c (fun x => { x with mat := { x.mat with queue := match x.mat.queue.tail with
    | e :: r => { e with queued := s.now } :: r | [] => [] } })

/-- The issue checks of a queued command, as a resumption makes them again (R186, R213, R215 to R217). -/
def State.matCheck (s : State) (e : MEntry) : Option Cause :=
  let tile := match e.instr with
    | .mma _ _ a _ _ | .mzero a | .mchk a | .mst _ a _ => !s.here.mat.accmap.getLsbD a.toNat
    | .injectAcc .. => !s.here.mat.accmap.getLsbD (bits (opAt e.ops 0) 3 0)
    | _ => false
  let store := match e.instr with | .mst .. => true | _ => false
  if tile then some { code := 0x01 }
  else (e.ranges.findSome? (fun r => s.checkRange r.1 r.2 store)).orElse (fun _ => s.pastCheck e.start)

/-- The saved matrix commands of a core are queued again: each passes its issue checks and has its half chosen afresh, and
the first that fails is a queue fault, behind which none has an effect (R186, R334; log 72). -/
def State.requeueMat (s : State) (c : Nat) : State :=
  let q := (s.coreAt c).mat.queue
  (each q (s.modCore c (fun x => { x with mat := { x.mat with queue := [] } }), true) (fun (s, go) e =>
    if !go then (s, go)
    else match (s.at_ c 0).matCheck e with
      | some z =>
        let before := (s.coreAt c).mat.queue
        ((s.matFault c z.code (if z.code = 0x0D then 6 else 0) z.addr e.pc true).modCore c (fun x => { x with mat := { x.mat with queue := before } }), false)
      | none =>
        let half := e.start.bind (fun t => if onHalf e.instr then (s.at_ c 0).chooseHalf e.mirror t (matDuration e.instr) else none)
        (s.modCore c (fun x => { x with mat := { x.mat with queue := x.mat.queue ++ [{ e with half := half, queued := s.now }] } }), true))).1

/-! ### The arbiter (R210, R213, R219) -/

/-- Whether a resource of an octet is free. -/
def State.resFree (s : State) (o r : Nat) : Bool := match sfind (s.oct o).busy r with | some (_, t) => decide (t ≤ s.now) | none => true
/-- Whether an untimed command of a duration may start on a resource. -/
def State.resOpen (s : State) (o r d : Nat) : Bool := s.resFree o r && !s.reserved o r s.now (s.now + d)

/-- Occupy resources for a duration. -/
def State.occupy (s : State) (o c : Nat) (rs : List Nat) (d : Nat) : State :=
  s.modOct o (fun x => { x with busy := each rs x.busy (fun b r => sput b r (c, s.now + d)) })

/-- The next octet of the ring segment (R217). -/
def State.nextOctet (s : State) (o : Nat) : Nat :=
  let base := o / 12 * 12
  let p := o % 12
  if !(s.oct o).cut then base + (p + 1) % 12
  else
    let k := ((List.range 12).find? (fun k => (s.oct (base + (p + 11 - k) % 12)).cut)).getD 11
    base + (p + 12 - k) % 12
/-- The core at the same position of the next octet. -/
def State.nextRing (s : State) (c : Nat) : Nat := 8 * s.nextOctet (octOf c) + posOf c
/-- Whether a core's incoming latch is empty, and nothing is on its way to it. -/
def Core.latchEmpty (x : Core) : Bool := !x.mat.full && x.mat.fly.isNone

/-- The send of an MRING: the current latch lands 16 steps later (R217). -/
def State.sendLatch (s : State) (c : Nat) : State :=
  let m := (s.coreAt c).mat
  let n := s.nextRing c
  (s.modCore n (fun x => { x with mat := { x.mat with fly := some (m.cur, m.curEcc) } })).after 16 (.mringLanding n)

/-- MRING_LANDING (R217). -/
def execMringLanding (c : Nat) (s : State) : Result :=
  .next (s.modCore c (fun x =>
    match x.mat.fly with
    | some (m, e) => { x with mat := { x.mat with inc := m, incEcc := e, full := true, fly := none } }
    | none => x))

/-- Start the head of a core's queue on resources (R210). -/
def State.startMat (s : State) (c : Nat) (e : MEntry) (rs : List Nat) (mirrored : Bool) : State :=
  let d := s.startDuration c e.instr
  let s := (s.occupy (octOf c) c rs d).modCore c (fun x => { x with mat := { x.mat with queue :=
    { e with fin := some (s.now + d), mirrored := mirrored, half := if rs.length = 2 then some 3 else rs.head? } :: x.mat.queue.tail } })
  let s := match e.instr with | .mring _ => s.sendLatch c | _ => s
  if e.start.isSome then s.unforce c else s

/-- The untimed command at the head of a core's queue that has not started. -/
def Core.untimedHead (x : Core) : Option MEntry :=
  match x.mat.queue with
  | e :: _ => if e.fin.isNone && e.start.isNone && !x.leaving then some e else none
  | [] => none

/-- Whether the other half would stay idle while a multiply runs on one (R219): free, wanted by no ready command and
held by no timed one. -/
def State.mirrorIdle (s : State) (o c h d : Nat) : Bool :=
  s.resOpen o h d && (octCores o).all (fun q => q == c ||
    (match (s.coreAt q).untimedHead with | some e => !onHalf e.instr | none => true))

/-- Start a multiply on a half, mirrored when its mode is .ON and the other half is idle (R219). -/
def State.startMma (s : State) (c : Nat) (e : MEntry) (h : Nat) : State :=
  if e.mirror = .on && s.mirrorIdle (octOf c) c (1 - h) (matDuration e.instr) then s.startMat c e [h, 1 - h] true
  else s.startMat c e [h] false

/-- The timed command running in a core's matrix unit. -/
def Core.timedMat (x : Core) : Option MEntry :=
  match x.mat.queue with | e :: _ => if e.start.isSome && e.fin.isSome then some e else none | [] => none

/-- A step in which a timed matrix command and a timed engine command of a core run in one local memory: where one loses a
sub-bank to the other, it is a step late (R272). -/
def State.bankLosses (s : State) (c : Nat) : State :=
  match (s.coreAt c).timedMat with
  | none => s
  | some e =>
    if !(s.coreAt c).engs.any (fun g => g.begun && g.start.isSome) || !s.timedBeside c e.ranges none then s
    else
      let t := s.tick1
      if Config.bankLoss s.fresh % 3 = 1 then
        (t.modCore c (fun x => { x with mat := { x.mat with queue := match x.mat.queue with
          | h :: r => { h with fin := h.fin.map (· + 1) } :: r | [] => [] } })).modOct (octOf c) (fun o =>
            { o with busy := o.busy.map (fun b => if b.2.1 = c && decide (s.now < b.2.2) then (b.1, c, b.2.2 + 1) else b) })
      else if Config.bankLoss s.fresh % 3 = 2 then
        t.modCore c (fun x => { x with engs := x.engs.map (fun g => if g.begun && g.start.isSome then { g with notBefore := s.now + 2 } else g) })
      else t

/-- A timed multiply starts, on the half chosen for it; where that one is still run by an untimed command, on the other
if it is open (R210, R213; log 71). -/
def State.startHalf (s : State) (c : Nat) (e : MEntry) : Option State :=
  let o := octOf c
  let d := matDuration e.instr
  match e.half with
  | some 3 => if s.resFree o 0 && s.resFree o 1 then some (s.startMat c e [0, 1] true) else none
  | some h =>
    if s.resFree o h then some (s.startMma c e h)
    else if s.resOpen o (1 - h) d then some (s.startMma c e (1 - h)) else none
  | none => (s.halfOf o (s.resFree o)).map (s.startMma c e)

/-- A timed command whose step has come (R213, R217): it starts, or a queue fault is recorded. -/
def State.startTimed (s : State) (c idx : Nat) (e : MEntry) : State :=
  let o := octOf c
  let running := match (s.coreAt c).mat.queue with | h :: _ => h.fin.isSome | [] => false
  let past := match e.start with | some t => decide (t.toNat < (s.stepOf c).toNat) | none => false
  if idx ≠ 0 then s.matFault c 0x0D 6 0 e.pc running
  else if past then s.matFault c 0x0D 6 0 e.pc false
  else match e.instr with
    | .mma .. =>
      (match s.startHalf c e with
        | some t => t
        | none => s.matFault c 0x0D 6 0 e.pc false)
    | _ =>
      if !s.resFree o 2 then s.matFault c 0x0D 6 0 e.pc false
      else if !(s.coreAt (s.nextRing c)).latchEmpty then s.matFault c 0x0C 5 0 e.pc false
      else s.startMat c e [2] false

/-- The first timed command of a core whose step has come, with its place in the queue. -/
def State.timedDue (s : State) (c : Nat) : Option (Nat × MEntry) :=
  let q := if (s.coreAt c).leaving then [] else (s.coreAt c).mat.queue
  ((List.range q.length).zip q).find? (fun p => p.2.fin.isNone &&
    (match p.2.start with | some t => decide (t.toNat ≤ (s.stepOf c).toNat) | none => false))

/-- Whether an untimed command is ready and needs a resource (R210, R217, R219). -/
def State.wants (s : State) (o r c : Nat) : Bool :=
  match (s.coreAt c).untimedHead with
  | none => false
  | some e =>
    let d := s.startDuration c e.instr
    match e.instr with
    | .mma .. =>
      r != 2 && s.resOpen o r d && (e.mirror != .force || s.resOpen o (1 - r) d)
    | .mring _ => r == 2 && s.resOpen o 2 d && (s.coreAt (s.nextRing c)).latchEmpty
    | _ => r == 2 && s.resOpen o 2 d

/-- Weighted round robin over MSHARE among ready positions: the position chosen, and the credits after (R210). -/
def arbitrate (share : Word) (R : List Nat) (credit : Nat → Int) : Option Nat × (Nat → Int) :=
  let w (q : Nat) : Nat := weightOf share q
  let c (q : Nat) : Int := if R.contains q then credit q + w q else 0
  let pick := match R.filter (fun q => decide (0 < w q)) with
    | [] => R.head?
    | q :: qs => some (qs.foldl (fun b q => if c b < c q then q else b) q)
  (pick, fun q => if some q = pick then c q - (R.map w).sum else c q)

/-- MATRIX_DISPATCH (R210): due timed commands first, then one untimed command for the resource if it is free. The arbiter
keeps one credit for the two halves together and another for the tile port (log 72). -/
def execMatrixDispatch (o r : Nat) (s : State) : Result :=
  .next (
    let s := each (octCores o) s (fun s c =>
      match s.timedDue c with
      | some (i, e) => if i ≠ 0 ∨ (onHalf e.instr ↔ r ≠ 2) then s.startTimed c i e else s
      | none => s)
    let R := (List.range 8).filter (fun q => s.wants o r (8 * o + q))
    let key (q : Nat) : Nat := (if r = 2 then 8 else 0) + q
    match arbitrate (s.oct o).mshare R (fun q => sget 0 (s.oct o).credit (key q)) with
    | (none, _) => s
    | (some q, credit) =>
      let s := s.modOct o (fun x => { x with credit := each (List.range 8) x.credit (fun m p => sputD 0 m (key p) (credit p)) })
      let c := 8 * o + q
      match (s.coreAt c).untimedHead with
      | none => s
      | some e =>
        let d := matDuration e.instr
        if r = 2 then s.startMat c e [2] false
        else if e.mirror = .force then s.startMat c e [0, 1] true
        else s.startMma c e (if s.resOpen o (1 - r) d then (s.oct o).fresher else r))

/-! ### Effects (R213 to R219) -/

/-- Raise a field of MERR, which wraps (R221). -/
def bumpMerr (v : Word) (lo : Nat) : Word := setBits v (lo + 15) lo (bits v (lo + 15) lo + 1)
/-- Count a correction (R218). -/
def MatUnit.corrects (m : MatUnit) : MatUnit := { m with merr := bumpMerr m.merr 0, corr := m.corr + 1 }
/-- Count a tile whose mirror agreed at once, or on the retry (R219). -/
def MatUnit.agrees (m : MatUnit) (retry : Bool) : MatUnit :=
  if retry then { m with merr := bumpMerr m.merr 16, retr := m.retr + 1 } else { m with merr := bumpMerr m.merr 32 }
/-- Change the matrix part of a core. -/
def State.modMat (s : State) (c : Nat) (f : MatUnit → MatUnit) : State := s.modCore c (fun x => { x with mat := f x.mat })

/-- Read the leading bytes of a core's current latch; none when a word of it is bad (R185). -/
def State.readLatch (s : State) (c n : Nat) : State × Option (List Byte) :=
  let m := (s.coreAt c).mat
  let o := eccRead m.cur m.curEcc 0 n
  let s := s.modCore c (fun x => { x with mat := { x.mat with cur := o.mem, curEcc := o.ecc } }.countEcc s.now o.corr o.unc 9)
  (s, if o.bad.isEmpty then some (o.mem.readN 0 n) else none)

/-- MMA as it completes: A, the scales and the latch are read, then the tile is updated, once the mirror agrees. -/
def State.mmaRun (s : State) (c : Nat) (e : MEntry) (f : MmaFmt) (a : AReg) : State :=
  let sc := opAt e.ops 1
  let (s, ab, bad) := s.localRead c (opAt e.ops 0).toNat (mmaBytes f)
  let (s, sb, bad2) := if f = .e2 then s.localRead c (bits sc 51 32) 1024 else (s, [], none)
  match bad.orElse (fun _ => bad2) with
  | some w => s.matFault c 0x0B 4 (w64 w) e.pc false
  | none =>
    match s.readLatch c (mmaBytes f) with
    | (s, none) => s.matFault c 0x0B 4 0 e.pc false
    | (s, some lb) =>
      let agree := !e.mirrored || Config.mirrorAgrees s.fresh
      let s := if e.mirrored then s.tick1 else s
      if !agree then
        if e.retry then s.matFault c 0x11 2 0 e.pc false
        else
          let d := matDuration e.instr
          (s.occupy (octOf c) c [0, 1] d).modMat c (fun m =>
            { m with queue := { e with retry := true, fin := some (s.now + d) } :: m.queue.tail })
      else
        let as := mmaRows f ab (sb.take 512) (dec .bf (bits sc 15 0))
        let bs := mmaRows f lb (sb.drop 512) (dec .bf (bits sc 31 16))
        let s := s.modOct (octOf c) (fun o => o.modTile a.toNat (fun t => t.multiply (f == .i8) as bs))
        (if e.mirrored then s.modMat c (fun m => m.agrees e.retry) else s).matPop c

/-- MCHK as it completes (R218). -/
def State.mchkRun (s : State) (c : Nat) (e : MEntry) (a : AReg) : State :=
  let o := octOf c
  match ((s.oct o).tile a.toNat).judge with
  | .pass => (s.modOct o (fun x => x.modTile a.toNat (fun t => { t with chk := true }))).matPop c
  | .fixed t => ((s.modOct o (fun x => x.modTile a.toNat (fun _ => t))).modMat c MatUnit.corrects).matPop c
  | .void => (s.modOct o (fun x => x.modTile a.toNat (fun t => { t with chk := false }))).matFault c 0x11 3 0 e.pc false
  | .failed _ => (s.modOct o (fun x => x.modTile a.toNat (fun t => { t with chk := false }))).matFault c 0x11 1 0 e.pc false

/-- The bytes that an MST writes (R216). -/
def mstImage (bf : Bool) (t : Tile) : List Byte :=
  (List.range 4096).flatMap (fun k =>
    let v := sget 0 t.el k
    if bf then leBytes 2 (enc .bf (dec .f32 v.toNat) .ne) else leBytes 4 v.toNat)

/-- MRING as it completes: its own incoming latch becomes current, or it waits for that to fill (R217). -/
def State.mringRun (s : State) (c : Nat) : State :=
  if (s.coreAt c).mat.full then
    (s.modMat c (fun m => { m with cur := m.inc, curEcc := m.incEcc, inc := [], incEcc := {}, full := false })).matPop c
  else s

/-- MATRIX_COMMAND_COMPLETE (R272): the head has run its duration. -/
def execMatrixCommandComplete (c : Nat) (s : State) : Result :=
  .next (match (s.coreAt c).mat.queue with
    | [] => s
    | e :: _ =>
      match e.fin with
      | none => s
      | some t =>
        if s.now < t then s
        else
        let (s, lost) := s.suffer c 6 e.hurt.toList
        if lost then s
        else match e.instr with
          | .mma f _ a _ _ => s.mmaRun c e f a
          | .mzero a => (s.modOct (octOf c) (fun o => o.modTile a.toNat (fun _ => {}))).matPop c
          | .mldb z _ =>
            (match s.localRead c (opAt e.ops 0).toNat (latchBytes z) with
              | (s, _, some w) => s.matFault c 0x0B 4 (w64 w) e.pc false
              | (s, bs, none) => (s.modMat c (fun m =>
                  let o := eccWrite m.cur m.curEcc 0 bs
                  { m with cur := o.mem, curEcc := o.ecc })).matPop c)
          | .mring _ => s.mringRun c
          | .mchk a => s.mchkRun c e a
          | .mst bf a _ =>
            (s.localWrite c (opAt e.ops 0).toNat (mstImage bf ((s.oct (octOf c)).tile a.toNat)) (s.coreAt c).cid).matPop c
          | .injectAcc _ _ bit dbl =>
            let g := opAt e.ops 0
            (s.modOct (octOf c) (fun o => o.modTile (bits g 3 0) (fun t =>
              { t with el := smod 0 t.el (64 * bits g 9 4 + bits g 15 10) (· ^^^ (injectMask bit dbl).setWidth 32) }))).matPop c
          | _ => s.matPop c)

/-- MRING_TIMEOUT (R217): the incoming latch was not filled in time; a timed MRING allows 16 steps, an untimed one the
timeout of DIE scope. -/
def execMringTimeout (c : Nat) (s : State) : Result :=
  .next (match (s.coreAt c).mat.queue with
    | e :: _ =>
      (match e.instr with
        | .mring _ =>
          if (s.coreAt c).mat.full && e.fin.isSome then s
          else if (match e.start, e.fin with
            | some _, some t => decide (t ≤ s.now)
            | some _, none => false
            | none, _ => decide (e.queued + s.timeout (instOf .oct c) < s.now)) then s.matFault c 0x0D 7 0 e.pc false
          else s
        | _ => s)
    | [] => s)

end Sys2Proof.Machine
end

