-- ==== Sys2Proof/Machine/Pages.lean ====
section
/-!
DEFINITION. Pages and lines away from an access: fault replies, drains of the coalescing buffer, fills, frames,
migration, splits and snapshots (spec/17 R338 to R357; spec/09 R234, R239; spec/19 R386).
-/
namespace Sys2Proof.Machine

/-! ### Frames (R336, R337) -/

/-- Frame intervals of a die in use: the extents of its objects, migration targets, frames retired or under test, and the
pools of snapshots (R354). -/
def State.usedFrames (s : State) (die : Nat) : List (Nat × Nat) :=
  let base := die * 2 ^ 21
  (s.objs.flatMap (fun (_, o) => if o.die = die then
      (o.ext.filter (fun e => !e.absent && e.back == 0)).map (fun e => (frameKey die e.stack e.frame - base, e.count)) else []))
    ++ (s.die die).migr.map (fun m => (frameKey die m.stack m.frame - base, 1))
    ++ (s.frames.filter (fun f => decide (base ≤ f) && decide (f < base + 2 ^ 21))).map (fun f => (f - base, 1))
    ++ s.snaps.flatMap (fun n => match s.obj n.obj with | some o => if o.die = die then n.frames else [] | none => [])

/-- The free runs of frames of a die, none of which crosses from one stack to the other. -/
def State.freeRuns (s : State) (die : Nat) : List (Nat × Nat) :=
  let used := sortBy (fun a b => decide (a.1 ≤ b.1)) ((2 ^ 20, 0) :: (2 ^ 21, 0) :: s.usedFrames die)
  (each used (([] : List (Nat × Nat)), 0) (fun (out, at_) u =>
    (if at_ < u.1 then out ++ [(at_, u.1 - at_)] else out, max at_ (u.1 + u.2)))).1

/-- Take n frames from runs, in order: the runs taken, and how many are still missing. -/
def takeRuns : Nat → List (Nat × Nat) → List (Nat × Nat) × Nat
  | n, [] => ([], n)
  | n, (a, l) :: r =>
    if n = 0 then ([], 0)
    else
      let (t, m) := takeRuns (n - min n l) r
      ((a, min n l) :: t, m)

/-- The frames the firmware takes for n pages, as runs of a die's frame numbers; none when too few are free (log 21). -/
def State.pickFrames (s : State) (die n : Nat) : State × Option (List (Nat × Nat)) :=
  let rs := s.freeRuns die
  let k := Config.framePick s.fresh % max 1 rs.length
  match takeRuns n (rs.drop k ++ rs.take k) with
  | (t, 0) => (s.tick1, some t)
  | _ => (s.tick1, none)

/-! ### Fault replies (R343) -/

/-- Whether an address lies in a page. -/
def inPage (obj pg : Nat) (a : Word) : Bool := idOf a == obj && offOf a / 65536 == pg

/-- The replies to a wait (R333): resolved, unresolved, and the word poisoned. -/
inductive Reply where
  | resolved | unresolved | poisoned
  deriving DecidableEq, Repr

/-- A reply in word 2 of a replay record (R333). -/
def Reply.code (r : Reply) : Nat := match r with | .resolved => 0x00 | .unresolved => 0x0A | .poisoned => 0x0B
/-- The reply of the fault service. -/
def replyOf (ok : Bool) : Reply := if ok then .resolved else .unresolved

/-- A context that waits for a page, as the reply reaches it: a resolved one plays its access again; an unresolved one
ends a helper that is WAITING, and is a fault at its boundary for the others; a poisoned one is a fault (R11, R129, R137,
R334). -/
def Ctx.reply (x : Ctx) (obj pg : Nat) (r : Reply) : Ctx :=
  if x.page ≠ some (obj, pg) then x
  else match r with
    | .resolved => { x with page := none, fetching := false, st := if x.st = .waiting then .live else x.st }
    | .unresolved => if x.st = .waiting then x.ended (w64 (2 ^ 63 + 0x0A)) else { x with pageBad := true }
    | .poisoned => { x with pageBad := true, pagePoison := true, st := if x.st = .waiting then .live else x.st }

/-- The address of the element at which a vector queue waits for a page (R201). -/
def Core.vecWaitsAt (x : Core) (obj pg : Nat) : Word :=
  match x.vec.queue with
  | e :: _ => ((vmemOf x e.instr e.ops).bind (fun m =>
      ((activeOf e.vlen (e.mask &&& ~~~e.did)).map m.addr).find? (inPage obj pg))).getD (addrOf obj (pg * 65536))
  | [] => addrOf obj (pg * 65536)
/-- The address at which an engine command waits for a page (R179). -/
def EngCmd.waitsAt (e : EngCmd) (obj pg : Nat) : Word :=
  ([e.src + w64 e.off, e.dst + w64 e.off].find? (inPage obj pg)).getD (addrOf obj (pg * 65536))

/-- The vector queue whose head element waits for a page (R201). -/
def Core.vecReply (x : Core) (obj pg : Nat) (r : Reply) : Core :=
  if x.vec.page ≠ some (obj, pg) then x
  else match r, x.vec.queue with
    | .resolved, _ => { x with vec := { x.vec with page := none } }
    | r, e :: _ => x.vecFaulted r.code 0 (x.vecWaitsAt obj pg) e.pc
    | _, [] => x

/-- An engine command that waits for a page (R179): a command whose page has no frame stops at it. -/
def EngCmd.reply (e : EngCmd) (obj pg : Nat) (r : Reply) : EngCmd :=
  if e.page = some (obj, pg) then { e with page := none, dead := if r = .unresolved then some (obj, pg) else e.dead } else e

/-- The contexts, vector queue and engines of a core, running or saved, as the reply for each address reaches them (R179,
R344). -/
def Core.reply (x : Core) (obj pg : Nat) (r : Word → Reply) : Core :=
  let x := { x with ctxs := sall x.ctxs (fun y => y.reply obj pg (r y.aux)) }.vecReply obj pg (r (x.vecWaitsAt obj pg))
  { x with engs := x.engs.map (fun e => e.reply obj pg (r (e.waitsAt obj pg))) }

/-- Buffered stores held for a page: a resolved reply accepts them, an unresolved one discards them (R137, R378). -/
def State.storeReply (s : State) (c obj pg : Nat) (ok : Bool) : State :=
  each ((s.coreAt c).cache.cbuf.filter (fun e => e.held && inPage obj pg (w64 (e.sector * 32)))) s (fun s e =>
    if ok then
      s.modCache c (fun y => { y with cbuf := y.cbuf.map (fun f => if f.ctx = e.ctx ∧ f.sector = e.sector then { f with held := false, due := s.now } else f) })
    else (s.bufDrop c e).lostEntry c e)

/-- A waiter of a page is served, its request as a new one, or answered unresolved (R343). -/
def State.serveWaiter (s : State) (obj pg : Nat) (ok : Bool) (w : Waiter) : State :=
  match w with
  | .ctx c k =>
    let x := s.ctxAt c k
    if x.page ≠ some (obj, pg) then s
    else
      let s := s.modCtx c k (fun x => x.reply obj pg (replyOf ok))
      match ok && !x.fetching, x.decoded with
      | true, some i => if (accOf i).isSome then (s.at_ c k).globalAccess i else s
      | _, _ => if (s.ctxAt c k).st = .exited then s.event c 3 else s
  | .vec c =>
    if (s.coreAt c).vec.page ≠ some (obj, pg) then s
    else
      let s := s.modCore c (fun x => x.vecReply obj pg (replyOf ok))
      if ok then s.vecComplete c else s
  | .eng c id => s.modCore c (fun x => { x with engs := x.engs.map (fun e => if e.id = id then e.reply obj pg (replyOf ok) else e) })
  | .store c k sector =>
    match (s.coreAt c).cache.cbuf.find? (fun e => e.held && e.ctx == k && e.sector == sector) with
    | none => s
    | some e =>
      let free := s.modCache c (fun y => { y with cbuf := y.cbuf.map (fun f => if f.ctx = k ∧ f.sector = sector then { f with held := false, due := s.now } else f) })
      if ok then (free.bufDrain c { e with held := false, due := s.now }).1 else (s.bufDrop c e).lostEntry c e
  | .host n => { s with conns := s.conns.map (fun (y : Conn) => if y.id = n ∧ y.waits.isSome then { y with bad := !ok } else y) }

/-- The event by which a waiter is served, where it is not a context's or the buffer's: the host's command, or the next
part of an engine's. -/
def State.serveBy (s : State) (w : Waiter) : Option Event :=
  match w with
  | .host n => (s.conns.find? (fun (y : Conn) => y.id == n)).bind (fun y => y.waits)
  | .eng c id => ((s.coreAt c).engs.find? (fun e => e.id == id)).map (fun e => if e.copy then .cpyComplete c else .collChunk (instOf e.scope c))
  | _ => none

/-- Base of a core's context area (R330). -/
def areaBase (r : NodeRec) (c : Nat) : Word := r.carea + w64 ((c - r.lcore0) * 0x108000)

/-- Whether the word of an address lies poisoned in its frame (R376). -/
def State.poisonedAt (s : State) (a : Word) : Bool :=
  match s.homeOf (idOf a) (offOf a) with
  | some h => h.ext.back == 0 && !h.ext.absent && s.hbmEcc.poison.contains ((h.hbm + offOf a % 256) / 8)
  | none => false
/-- The reply for the access at an address that a saved record describes (R333). -/
def State.replyAt (s : State) (ok : Bool) (a : Word) : Reply := if ok && s.poisonedAt a then .poisoned else replyOf ok

/-- A reply for a SAVED launch is written into word 2 of its replay records (R333, R344); false when a home has not taken
it yet. -/
def State.noteReply (s : State) (obj pg : Nat) (ok : Bool) : State × Bool :=
  each s.sched.nodes (s, true) (fun z (_, n) =>
    each n.areas z (fun z (c, a) =>
      each ((List.range a.recs.length).zip a.recs) z (fun (s, all) (i, r) =>
        if idOf r ≠ obj ∨ offOf r / 65536 ≠ pg then (s, all)
        else match s.rawWrite c (areaBase n.rec_ c + w64 (0x100010 + 32 * i)) (leBytes 8 (s.replyAt ok r).code) n.rec_.cid with
          | (s, .ok _) | (s, .object) => (s, all)
          | (s, _) => (s, false))))

/-- What still waits for a page once its waiters have been served: a context, queue, engine or buffered store that no list
named. -/
def State.wakeRest (s : State) (obj pg : Nat) (ok : Bool) : State :=
  each (s.cores.map (·.1)) s (fun s c =>
    let before := ((s.coreAt c).ctxs.filter (fun e => e.2.st == .exited)).length
    let s := (s.modCore c (fun x => x.reply obj pg (fun _ => replyOf ok))).storeReply c obj pg ok
    if ((s.coreAt c).ctxs.filter (fun e => e.2.st == .exited)).length = before then s else s.event c 3)
/-- The waiters of a page are served in order, or answered unresolved (R343). One that an event serves goes next on the
agenda, and those behind it after that. -/
def State.serveList (s : State) (obj pg : Nat) (ok : Bool) : List Waiter → State
  | [] => s.wakeRest obj pg ok
  | w :: r =>
    let s := s.serveWaiter obj pg ok w
    match s.serveBy w with
    | none => s.serveList obj pg ok r
    | some e =>
      let die := match s.obj obj with | some o => o.die | none => 0
      ((s.modDie die (fun d => { d with faults := d.faults ++ [{ obj := obj, pg := pg, slot := 0, waiters := r, answer := some ok }] })).pushFront
        (.pageFaultReply obj pg ok)).pushFront e

/-- The waiters of a page are served in the order in which they arrived, or answered unresolved (R343); a reply for a
SAVED launch enters its area first, and is tried again until its homes have taken it (R344). -/
def State.wakePage (s : State) (obj pg : Nat) (ok : Bool) : State :=
  match s.noteReply obj pg ok with
  | (s, false) => s.after 1 (.pageFaultReply obj pg ok)
  | (s, true) =>
    let mine (f : PageFault) : Bool := f.obj == obj && f.pg == pg && f.answer.isNone
    let queue := s.dies.flatMap (fun d => (d.2.faults.filter mine).flatMap (·.waiters))
    let s := { s with dies := sall s.dies (fun d => { d with faults := d.faults.filter (fun f => !mine f) }) }
    let reply := s.replyAt ok
    let s := s.modSched (fun x => { x with nodes := sall x.nodes (fun n =>
      { n with areas := sall n.areas (fun a => { a with core := a.core.reply obj pg reply, recs := a.recs.map (fun r => if inPage obj pg r then 0 else r) }) }) })
    s.serveList obj pg ok queue

/-- Waiters of a page whose reply has come and that are still to be served. -/
def State.serving (s : State) (obj pg : Nat) (ok : Bool) : Option (List Waiter) :=
  s.dies.findSome? (fun d => (d.2.faults.find? (fun f => f.obj == obj && f.pg == pg && f.answer == some ok)).map (·.waiters))

/-- PAGE_FAULT_REPLY (R343): resolved, the extent is rewritten, with a frame unless the host backs it (R337), and the
waiters are served in order; unresolved, every waiter is answered so. -/
def execPageFaultReply (obj pg : Nat) (resolved : Bool) (s : State) : Result :=
  .next (match s.serving obj pg resolved, s.obj obj with
    | some l, _ =>
      { s with dies := sall s.dies (fun d => { d with faults := d.faults.filter (fun f =>
        !(f.obj == obj && f.pg == pg && f.answer == some resolved)) }) }.serveList obj pg resolved l
    | none, none => s.wakePage obj pg false
    | none, some o =>
      match o.extent pg with
      | none => s.wakePage obj pg false
      | some e =>
        if !resolved then s.wakePage obj pg false
        else if !e.absent then s.wakePage obj pg true
        else
          let keep (s : State) (o : Obj) : State :=
            { s with objs := sput s.objs obj { o with retired := o.retired.filter (· != pg) } }.wakePage obj pg true
          if e.back ≠ 0 then
            match o.remap pg (fun e => { e with absent := false }) with
            | some o => keep s o
            | none => s.wakePage obj pg false
          else match s.pickFrames o.die 1 with
          | (s, some ((f, _) :: _)) =>
            match o.remap pg (fun e => { e with absent := false, stack := f / 2 ^ 20, frame := f % 2 ^ 20 }) with
            | some o => keep s o
            | none => s.wakePage obj pg false
          | (s, _) => s.wakePage obj pg false)

/-! ### Buffered stores, requests and fills -/

/-- COALESCING_BUFFER_DRAIN (R234): entries whose time has come drain in the order they were filled. -/
def execCoalescingBufferDrain (c : Nat) (s : State) : Result :=
  .next (
    let l := (s.coreAt c).cache.cbuf.filter (fun e => !e.wcomb)
    let upto := ((List.range l.length).zip l).foldl (fun n (i, e) => if e.due ≤ s.now then i + 1 else n) 0
    each ((l.take upto).filter (fun e => !e.held)) s (fun s e => (s.bufDrain c e).1))

/-- SLICE_REQUEST (R342): a request is translated and served at its home, faulted or bypassed. -/
def execSliceRequest (c cid : Nat) (addr : Word) (size : Nat) (op : SliceOp) (s : State) : Result :=
  .next (match op with
    | .read => (s.rawRead c addr size cid).1
    | .write data => (s.rawWrite c addr data cid).1
    | .prefetch => if s.bypassed addr then s else (s.homeRead c (idOf addr) (offOf addr / 32 * 32) 32 cid).1.keepTree s addr)

/-- SLICE_FILL_BURST (R239): one burst fills the line. -/
def execSliceFillBurst (c cid : Nat) (addr : Word) (s : State) : Result :=
  .next (s.homeRead c (idOf addr) (offOf addr / 256 * 256) 256 cid).1

/-- OBB_FILL (R338). -/
def execObbFill (c obj : Nat) (s : State) : Result := .next (if (s.obj obj).isSome then s.obbUse c obj else s)

/-- The errors of HBM without those of a frame whose every word has been written (R376, R386). -/
def Ecc.clearFrame (e : Ecc) (key : Nat) : Ecc :=
  { flips := e.flips.filter (fun x => x.1 / 8192 != key), poison := e.poison.filter (fun w => w / 8192 != key) }

/-- FRAME_TEST (R386): every word of the frame is written and read; a frame that passes is free again, and one that fails is
retired for good. -/
def execFrameTest (die stack frame : Nat) (pass : Bool) (s : State) : Result :=
  .next (
    let k := frameKey die stack frame
    let s := { s with hbmEcc := s.hbmEcc.clearFrame k }
    if pass then { s with frames := s.frames.filter (· != k) } else s)

/-! ### Migration (R345, R346) -/

/-- A memory with n bytes of one place copied to another. -/
def Memory.copyRange (m : Memory) (src dst n : Nat) : Memory :=
  let part := (m.filter (fun e => decide (src ≤ e.1) && decide (e.1 < src + n))).map (fun e => (e.1 - src + dst, e.2))
  part.foldl (fun m e => m.write e.1 e.2) (m.filter (fun e => decide (e.1 < dst) || decide (dst + n ≤ e.1)))

/-- The home slices of an object: the die, and each slot of its domain (R340). -/
def State.homesOf (s : State) (id : Nat) : List (Nat × Nat) :=
  match s.obj id with
  | none => []
  | some o =>
    let m := (s.die o.die).mask o.dom
    ((List.range 16).filter (fun i => m.getLsbD i)).map (fun i => (o.die, 16 * bits m 19 16 + i))
/-- Whether a snapshot drains: its step has come at some home of its object (R354, R355). -/
def State.drains (s : State) (n : Snap) : Bool := (s.homesOf n.obj).any (fun p => decide (n.t ≤ (s.stepAt p.1 p.2).toNat))
/-- Sectors held back during a move are written to the frame that the page now has (R345). -/
def State.releaseHeld (s : State) (m : Migration) (base : Nat) : State :=
  each m.held s (fun s e => ((s.hbmWrite (base + e.1) e.2.1).1).hbmPoison (e.2.2.map ((base + e.1) / 8 + ·)))

/-- PAGE_MIGRATION (R345): the page is marked MIGRATING; a snapshot's drain of it comes first (R356). -/
def execPageMigration (obj pg stack frame : Nat) (s : State) : Result :=
  .next (match s.obj obj with
    | none => s
    | some o =>
      match o.extent pg with
      | none => s
      | some e =>
        if e.absent || e.back ≠ 0 || (o.remap pg id).isNone || (s.die o.die).migr.any (fun m => m.obj == obj && m.pg == pg) then s
        else if s.snaps.any (fun n => n.obj == obj && decide (n.next / 256 ≤ pg) && s.drains n) then
          s.after 256 (.pageMigration obj pg stack frame)
        else (s.modDie o.die (fun d => { d with migr := d.migr ++ [{ obj := obj, pg := pg, stack := stack, frame := frame }] })).after 256 (.migrationSwitch obj pg))

/-- MIGRATION_SWITCH (R345, R346): the page moves to its new frame, or the move is abandoned; held requests go on. -/
def execMigrationSwitch (obj pg : Nat) (s : State) : Result :=
  .next (match s.obj obj with
    | none => s
    | some o =>
      match (s.die o.die).migr.find? (fun m => m.obj == obj && m.pg == pg), o.extent pg with
      | some m, some e =>
        let s := s.modDie o.die (fun d => { d with migr := d.migr.filter (fun x => !(x.obj == obj && x.pg == pg)) })
        let src := frameKey o.die e.stack (e.frame + (pg - e.first)) * 65536
        let dst := frameKey o.die m.stack m.frame * 65536
        let cid := if o.priv then o.owncid else 0
        let (s, r) := s.hbmRead src 65536
        if !r.bad.isEmpty then
          ((s.releaseHeld m src).tell (.migrationFailed cid obj pg (r.bad.map (· - src)) false)).wakePage obj pg true
        else if !Config.frameGood o.die m.stack m.frame then
          ({ s.releaseHeld m src with frames := s.frames ++ [frameKey o.die m.stack m.frame] }.tell (.migrationFailed cid obj pg [] true)).wakePage obj pg true
        else match o.remap pg (fun e => { e with stack := m.stack, frame := m.frame }) with
        | none => (s.releaseHeld m src).wakePage obj pg true
        | some o =>
          let s := { s with
            hbm := s.hbm.copyRange src dst 65536
            hbmEcc := s.hbmEcc.clearFrame (dst / 65536)
            objs := sput s.objs obj o }
          (s.releaseHeld m dst).wakePage obj pg true
      | _, _ => s)

/-! ### Splits (R347, R348) -/

/-- A domain register with its generation advanced, and SPLIT set or clear. -/
def maskNext (m : Word) (split : Bool) : Word := setBits (setBits m 39 32 (bits m 39 32 + 1)) 20 20 split.toNat

/-- DOMAIN_SPLIT (R347): slots of a domain move into an empty one; refused while a snapshot of the domain drains. -/
def execDomainSplit (die d e : Nat) (slots : BitVec 16) (s : State) : Result :=
  .next (
    let x := s.die die
    let md := x.mask d
    let draining := s.snaps.any (fun n => s.drains n && (match s.obj n.obj with | some o => o.die == die && o.dom == d | none => false))
    if draining || bits (x.mask e) 15 0 ≠ 0 || slots = 0 || (slots &&& ~~~(md.setWidth 16)) ≠ 0 || slots = md.setWidth 16 then s
    else
      let md' := maskNext (md &&& ~~~(slots.setWidth 64)) true
      let me' := maskNext (setBits (setBits (x.mask e) 19 16 (bits md 19 16)) 15 0 slots.toNat) true
      let s := s.modDie die (fun x => { x with hash := sput (sput x.hash d md') e me', splits := x.splits ++ [(d, e)] })
      each (List.range 1024) s (fun s k => s.after (4 * k) (.splitWalk die d k)))

/-- SPLIT_WALK (R347): every slice walks a set; a line whose home is now another slice is written back, loses its pins
and goes. With the last set the split ends, and the SPLIT bit of each of its domains clears unless another split of that
domain is under way. -/
def execSplitWalk (die d set : Nat) (s : State) : Result :=
  .next (
    let s := each ((s.die die).slices.map (·.1)) s (fun s o =>
      each (((s.die die).slice o).lines set) s (fun s l =>
        match s.homeOf (l.key / 2 ^ 32) (l.key % 2 ^ 32 * 256) with
        | none => s
        | some h =>
          if h.obj.dom ≠ d ∨ h.slot = o then s
          else
            let s := s.modDie die (fun x => { x with pinsLost := x.pinsLost ++ l.pins.map (fun c => (l.key, c)) })
            s.evict { h with slot := o } l))
    if set ≠ 1023 then s
    else s.modDie die (fun x =>
      match x.splits.find? (fun p => p.1 == d) with
      | none => x
      | some p =>
        let rest := x.splits.erase p
        let done (e : Nat) : Bool := !rest.any (fun q => q.1 == e || q.2 == e)
        { x with hash := ([p.1, p.2].filter done).foldl (fun m e => sput m e (setBits (x.mask e) 20 20 0)) x.hash, splits := rest }))

/-! ### Snapshots (R354 to R357) -/

/-- Change the snapshot of an object. -/
def State.modSnap (s : State) (obj : Nat) (f : Snap → Snap) : State :=
  { s with snaps := s.snaps.map (fun n => if n.obj = obj then f n else n) }

/-- Stores held for a frame of the snapshot's pool go on (R357). -/
def State.unholdSnap (s : State) (obj : Nat) : State :=
  { s with cores := sall s.cores (fun x => { x with cache := { x.cache with cbuf := x.cache.cbuf.map (fun e =>
    if e.held && e.sector / 2 ^ 35 == obj then { e with held := false, due := s.now } else e) } }) }

/-- A snapshot ends with its record to the host; what was held for its pool goes on. -/
def State.endSnap (s : State) (n : Snap) (truncated : Bool) : State :=
  { (s.unholdSnap n.obj) with snaps := s.snaps.filter (fun m => m.obj != n.obj) }.tell
    (.snapDone n.obj n.t n.sent n.copied n.bad n.suspect truncated)

/-- A line as the drain reads it: its bytes, and how many words are uncorrectable (R356, R385). A page without a frame of
its own is read where it is backed (R337; log 12). -/
def State.drainLine (s : State) (h : Home) : State × List Byte × Nat :=
  if h.ext.back ≠ 0 then
    let (s, r) := hostRead s 256
    (s, (match r with | .ok bs => bs | _ => []), 0)
  else
    let r := s.lineCopy h
    let s := (s.hbmRead h.hbm 256).1
    match ((s.die h.die).slice h.slot).find h.set h.key with
    | none => (s, r)
    | some l =>
      let o := eccRead l.data l.ecc 0 256
      (if o.unc > 0 || l.tagged then s.badLine h l o.found coreCount else s.putLine h { l with data := o.mem, ecc := o.ecc }, r)

/-- The place of a line at a snapshot's destination. -/
def Snap.place (n : Snap) (line : Nat) : Word := n.dest + w64 (256 * line)
/-- A page of a snapshot has been sent: its frame returns to the pool, and what was held for one goes on (R355, R357). -/
def State.pageSent (s : State) (obj pg : Nat) : State :=
  (s.modSnap obj (fun n => { n with
    used := n.used.filter (· != pg), copies := n.copies.filter (fun e => e.1 / 256 != pg), saved := n.saved.filter (· / 256 != pg) })).unholdSnap obj

/-- SNAPSHOT_DRAIN (R355): the next line is sent, from its copy or as it stands; an absent page as a marker, behind the lines
of it that were copied while it was there. -/
def execSnapshotDrain (obj : Nat) (s : State) : Result :=
  .next (match s.snaps.find? (fun n => n.obj == obj), s.obj obj with
    | some n, some o =>
      let pg := n.next / 256
      -- whether it is SUSPECT stands 32 steps after T (R354)
      if o.size ≤ pg then (if (s.homesOf n.obj).any (fun p => decide ((s.stepAt p.1 p.2).toNat ≤ n.t + 32)) then s else s.endSnap n false)
      else match s.homeOf obj (n.next * 256) with
        | none => s.endSnap n true
        | some h =>
          if (s.stepAt h.die h.slot).toNat < n.t then s
          else if h.ext.absent then
            let mine := n.copies.filter (fun e => e.1 / 256 == pg)
            let s := each mine s (fun s e => (s.modSnap obj (fun n => { n with sent := n.sent + 1, bad := n.bad + e.2.2 })).tell
              (.snapLine obj e.1 (n.place e.1) (some e.2.1) (e.2.2 != 0)))
            ((s.modSnap obj (fun n => { n with next := (pg + 1) * 256 })).tell (.snapLine obj n.next (n.place n.next) none false)).pageSent obj pg
          else
            let done (s : State) (bs : List Byte) (bad : Nat) : State :=
              (s.modSnap obj (fun n =>
                { n with
                  next := n.next + 1
                  sent := n.sent + 1
                  bad := n.bad + bad
                  copies := sdel n.copies n.next
                  saved := n.saved.filter (· != n.next) })).tell (.snapLine obj n.next (n.place n.next) (some bs) (bad != 0))
            let s := match sfind n.copies n.next with
              | some (bs, bad) => done s bs bad
              | none =>
                let (s, bs, bad) := s.drainLine h
                done s bs bad
            if n.next % 256 = 255 then s.pageSent obj pg else s
    | some n, none => s.endSnap n true
    | none, _ => s)

end Sys2Proof.Machine
end

