-- ==== Sys2Proof/Machine/Area.lean ====
section
/-!
DEFINITION. The context area of a core: its image in memory, what a switch-out saves and a resumption restores
(spec/16 R328 to R334). The hardware restores from `Area`; the image is what other agents read (log 22).
-/
namespace Sys2Proof.Machine

/-! ### The image (R330 to R333) -/

/-- Words as bytes. -/
def wordBytes (ws : List Word) : List Byte := ws.flatMap (fun w => leBytes 8 w.toNat)
/-- The decode words of an instruction, as 8 bytes. -/
def instrBytes (i : Option Instr) : List Byte :=
  match i.bind encode with
  | some e => leBytes 8 (leNat ((decodeWords e.head e.tail).flatMap (fun w => leBytes 2 w.toNat)))
  | none => leBytes 8 0
/-- Pad to a length. -/
def padTo (n : Nat) (bs : List Byte) : List Byte := (bs ++ List.replicate (n - bs.length) 0).take n

/-- Whether a context waits in BAR, XBAR or XEND with its arrival made. -/
def Ctx.inBarrier (x : Ctx) : Bool := x.arrived

/-- EXPECT state of a slot (R331). -/
def Local.expectWord (l : Local) (slot : Nat) : Nat :=
  (sget 0 l.expTag slot).toNat + (l.armed.getLsbD slot).toNat * 256 + (sget 0 l.checked slot).toNat * 65536

/-- The replay records of the waits of a core: contexts, the vector queue, engine commands (R333). A reply that reached
the core before it left is recorded (R344). -/
def Core.replays (x : Core) : List (List Word) :=
  ((List.range ctxCount).filterMap (fun k =>
      let y := x.ctxAt k
      y.page.map (fun _ => [w64 (1 + k * 256), y.aux,
        w64 (if y.pagePoison then Reply.poisoned.code else if y.pageBad then Reply.unresolved.code else 0xFF), 0])))
    ++ (match x.vec.page, x.vec.queue with
        | some p, e :: _ => [[w64 (2 + ((activeOf e.vlen (e.mask &&& ~~~e.did)).headD 0) * 65536), x.vecWaitsAt p.1 p.2, 0xFF, 0]]
        | _, _ => [])
    ++ ((List.range x.engs.length).zip x.engs).filterMap (fun (i, e) =>
        e.page.map (fun p => [w64 (3 + e.ctx * 256 + i * 4096), e.waitsAt p.1 p.2, 0xFF, 0]))

/-- The header (R331). -/
def State.areaHeader (s : State) (c n : Nat) : List Byte :=
  let x := s.coreAt c
  let slots := List.range 8
  let tags (slot : Nat) : List Byte :=
    let b := x.bankmap slot
    (List.range 16).map (fun t => if bankV b then sget 0 (s.well c (bankWell b)).tags t else 0)
  let fault := (x.mat.fault.orElse (fun _ => x.vec.fault)).getD (0, 0)
  let latches (lo hi : Nat) : Word := w64 ((List.range (hi - lo)).map (fun i => (x.ctxAt (lo + i)).latch.toNat * 256 ^ i)).sum
  let waiting := ((List.range ctxCount).filter (fun k => (x.ctxAt k).inBarrier)).length
  let status (sc : Scope) : List Word := [(s.dstat sc c 7).getD 0, (s.dstat sc c 8).getD 0]
  padTo 4096 (
    wordBytes [w64 (x.cid + n * 65536 + (s.node n).seq.toNat * 2 ^ 32), w64 c, x.taskstep,
      w64 (x.fduty.written.1 + x.fduty.written.2 * 256 + 8 * x.vec.grant * 2 ^ 32), x.mat.accmap.setWidth 64, x.evec]
    ++ wordBytes (slots.map x.bankmap) ++ slots.flatMap tags
    ++ wordBytes [x.xch.xtag, x.xch.xfail, x.rxctl, x.loc.qbound, x.hstate,
      w64 (mirrorCode x.mat.mirror + x.vec.set * 16 + x.toklost.toNat * 256 + x.mat.fault.isSome.toNat * 512 + waiting * 4096),
      fault.1, fault.2, latches 0 8, latches 8 11, w64 x.replays.length]
    ++ slots.flatMap (fun k => leBytes 4 (x.loc.expectWord k))
    ++ wordBytes ([x.mat.merr] ++ [Scope.oct, .die, .pkg, .pod].flatMap status ++ [x.ipend, x.imask, x.ialarm]))

/-- A hardware context's block (R332). -/
def Ctx.block (x : Ctx) (k : Nat) : List Byte :=
  padTo 1024 (
    wordBytes ((List.range 32).map (fun r => x.reg (BitVec.ofNat 5 r)))
    ++ wordBytes [x.q0.save, x.q1.save, x.q2.save, w64 (x.p.toNat + x.sigen.toNat * 65536 + x.arrived.toNat * 131072),
      x.cstat, x.epcq0, x.epcq1, x.epcq2, x.esig, x.ecause, x.eaddr, x.srseed.setWidth 64]
    ++ (List.range (if k = 0 then 64 else 1)).flatMap (fun i => leBytes 4 (x.gen i).toNat))

/-- Whether a core of a range in the same launch and octet maps the SHARED well of a slot. -/
def State.sharedBy (s : State) (c : Nat) (b : Word) (p : Nat → Bool) : Bool :=
  bankSt b == 1 && (octCores (octOf c)).any (fun d => p d && (s.coreAt d).run.node == (s.coreAt c).run.node
    && (List.range 8).any (fun k => let e := (s.coreAt d).bankmap k; bankV e && bankWell e == bankWell b))
/-- Whether a lower-numbered core of the launch writes the well (R328 item 5). -/
def State.sharedBelow (s : State) (c : Nat) (b : Word) : Bool := s.sharedBy c b (fun d => decide (d < c))

/-- The governing mask field of an instruction of the vector queue (R192). -/
def maskField (i : Instr) : MReg :=
  match i with
  | .vadd _ _ _ _ k | .vsub _ _ _ _ k | .vmul _ _ _ _ k | .vmin _ _ _ _ k | .vmax _ _ _ _ k | .vand _ _ _ _ k | .vor _ _ _ _ k
  | .vxor _ _ _ _ k | .vshl _ _ _ _ k | .vshrl _ _ _ _ k | .vshra _ _ _ _ k | .vseq _ _ _ _ k | .vslt _ _ _ _ k | .vsle _ _ _ _ k
  | .vperm _ _ _ k | .vabs _ _ _ k | .vneg _ _ _ k | .ppev _ _ _ k | .vredadd _ _ _ k | .vredmax _ _ _ k | .vredmin _ _ _ k
  | .vmaxi _ _ _ _ k | .vmini _ _ _ _ k | .vfma _ _ _ _ _ k | .vcvt _ _ _ _ _ _ _ k | .vbcast _ _ _ k => k
  | _ => 0
/-- The remaining element mask of a queued vector instruction as its saved entry shows it: the elements of a memory form not
yet performed, of another one all those that its mask lets it write (R192, R330). -/
def Core.entryMask (x : Core) (e : VEntry) : Word :=
  match vmemOf x e.instr e.ops with
  | some _ => e.mask &&& ~~~e.did
  | none => x.gov (maskField e.instr) &&& w64 (2 ^ e.vlen - 1)

/-- The pieces of the image, by offset (R330); areas not in use are left as they stood. -/
def State.areaImage (s : State) (c n : Nat) : List (Nat × List Byte) :=
  let x := s.coreAt c
  let o := s.oct (octOf c)
  let numbered {α : Type} (l : List α) : List (Nat × α) := (List.range l.length).zip l
  [(0, s.areaHeader c n)]
  ++ (List.range ctxCount).map (fun k => (0x1000 + 0x400 * k, (x.ctxAt k).block k))
  ++ [(0x3C00, List.replicate 1024 0)]
  ++ (List.range 16).map (fun r => (0x4000 + 0x100 * r, (List.range 64).flatMap (fun i => leBytes 4 (x.ve (BitVec.ofNat 4 r) i).toNat)))
  ++ [(0x5000, wordBytes ((List.range 8).map (fun k => x.mreg (BitVec.ofNat 3 k))))]
  ++ (numbered x.mat.queue).map (fun (i, e) => (0x5040 + 32 * i, padTo 32 (instrBytes (some e.instr) ++ wordBytes e.ops)))
  ++ (numbered x.engs).map (fun (i, e) => (0x50C0 + 32 * i, padTo 32 (instrBytes e.instr ++ wordBytes [e.dst, e.src, w64 e.len])))
  ++ [(0x5200, leBytes 16 x.vec.segs ++ (List.range 320).flatMap (fun j => leBytes 4 (sget 0 x.vec.table j).toNat))]
  ++ (numbered x.vec.queue).map (fun (i, e) => (0x5800 + 32 * i, padTo 32 (instrBytes (some e.instr) ++ wordBytes [opAt e.ops 0, w64 e.vlen, x.entryMask e])))
  ++ [(0x6000, x.mat.cur.readN 0 8192), (0x8000, x.mat.inc.readN 0 8192), (0xA000, x.loc.tcm.readN 0 196608)]
  ++ ((List.range 8).filter (fun k => bankV (x.bankmap k) && !s.sharedBelow c (x.bankmap k))).map (fun k => (0x3A000 + 0x10000 * k, (s.well c (bankWell (x.bankmap k))).data.readN 0 65536))
  ++ ((List.range 16).filter (fun t => x.mat.accmap.getLsbD t)).flatMap (fun t =>
    [(0xBA000 + 0x4000 * t, mstImage false (o.tile t)), (0xFA000 + 0x400 * t, (List.range 1024).map (fun j => Config.laneByte c t j))])
  ++ [(0xFE000, List.replicate 8192 0)]
  ++ (numbered x.replays).map (fun (i, r) => (0x100000 + 32 * i, wordBytes r))

/-- Write bytes to global memory sector by sector; true when every sector was accepted. -/
def State.writeBlock (s : State) (w : Nat) (a : Word) (bs : List Byte) (cid : Nat) : State × Bool :=
  each (sectorPieces a.toNat bs.length) (s, true) (fun (s, ok) p =>
    match s.rawWrite w (w64 p.1) ((bs.drop (p.1 - a.toNat)).take p.2) cid with
    | (s, .ok _) => (s, ok)
    | (s, _) => (s, false))

/-- Write one piece of a core's image, after those before it. -/
def State.writePiece (c : Nat) (base : Word) (t : State × Bool) (p : Nat × List Byte) : State × Bool :=
  let (s, b) := t.1.writeBlock c (base + w64 p.1) p.2 (t.1.coreAt c).cid
  (s, t.2 && b)

/-- Write a core's image; true when all of it was accepted. -/
def State.writeArea (s : State) (c n : Nat) : State × Bool :=
  each (s.areaImage c n) (s, true) (State.writePiece c (areaBase (s.node n).rec_ c))

/-! ### Switch-out (R328) -/

/-- A context as saved: its wait ends, its arrival stands, and the instruction at Q0 waits again on resumption (R130). A
wait for a page keeps its address, which EADDR shows should the page be answered unresolved (R129, R344). -/
def Ctx.parkedOut (x : Ctx) : Ctx :=
  { x with wait := none, aux := if x.page.isSome then x.aux else 0, due := [] }

/-- What a core keeps of itself while SAVED. -/
def Core.savedCopy (x : Core) : Core :=
  { x with
    ctxs := sall x.ctxs Ctx.parkedOut
    parked := false
    vec := { x.vec with queue := x.vec.queue.map (fun e => { e with fin := none, mask := e.mask &&& ~~~e.did, did := 0 }) }
    cache := {} }

/-- Whether a core has reached the point where its area can be written (R327, R328 items 1 to 3): no open phase, every
result written, no context in a wait that cannot be stopped, the vector queue empty or waiting for a page, nothing running
in the matrix unit or engines. A clock stopped under PARK holds no result back (R121). -/
def Core.mayLeave (x : Core) : Bool :=
  !x.xch.xtag.getLsbD 8
    && (List.range ctxCount).all (fun k => (x.ctxAt k).mayStop && (x.ctxAt k).trapNext.isNone && (x.parked || (x.ctxAt k).allRead x.cycle))
    && (x.vec.queue.isEmpty || x.vec.page.isSome)
    && x.mat.queue.all (fun e => e.fin.isNone) && x.mat.fly.isNone
    && x.engs.all (fun e => !e.running && !e.begun)

/-- Whether every core of the launch that shares a well with a lower-numbered one leaves before that one (R328 item 5). -/
def State.lastOfShared (s : State) (c : Nat) : Bool :=
  (List.range 8).all (fun k => let b := (s.coreAt c).bankmap k; !bankV b || !s.sharedBy c b (fun d => decide (c < d)))

/-- Write back and drop every dirty private line of a core (R233, R328 item 4). -/
def State.flushPrivate (s : State) (c : Nat) : State × Bool :=
  each ((s.coreAt c).cache.lines.filter (·.priv)) (s, true) (fun (s, ok) l =>
    match s.l1WriteBack c l with
    | (s, .ok _) => (s.l1Drop c l.addr, ok)
    | (s, _) => (s, false))

/-- The area of a core as it stands. -/
def State.saveArea (s : State) (c : Nat) : Area :=
  let x := s.coreAt c
  { core := x.savedCopy
    wells := ((List.range 8).filter (fun k => bankV (x.bankmap k))).map (fun k => (k, s.well c (bankWell (x.bankmap k))))
    tiles := (s.oct (octOf c)).tiles.filter (fun t => x.mat.accmap.getLsbD t.1)
    recs := x.replays.map (fun r => if opAt r 2 = 0xFF then opAt r 1 else 0) }

/-- What a core's own storage holds is read as its area is written, and the errors in it are met (R375, R377): its PC
queues, registers, queue entries and table. Also whether the launch is lost. -/
def State.meetAll (s : State) (c : Nat) : State × Bool :=
  let x := s.coreAt c
  let (s, a) := s.suffer c 7 (x.struck.map (·.dbl))
  let (s, b) := s.suffer c 4 (x.ctxs.flatMap (fun y => y.2.hurt.map (·.2)))
  let (s, d) := s.suffer c 5 (x.vec.hurt.map (·.2))
  let (s, e) := s.suffer c 6 (x.vec.queue.filterMap (·.hurt) ++ x.mat.queue.filterMap (·.hurt) ++ x.engs.filterMap (·.hurt))
  let (s, f) := s.suffer c 0 x.vec.tableHurt.toList
  (s.modCore c (fun x => { x with
    struck := []
    ctxs := sall x.ctxs (fun y => { y with hurt := [] })
    vec := { x.vec with hurt := [], tableHurt := none, queue := x.vec.queue.map (fun e => { e with hurt := none }) }
    mat := { x.mat with queue := x.mat.queue.map (fun e => { e with hurt := none }) }
    engs := x.engs.map (fun e => { e with hurt := none }) }), a || b || d || e || f)

/-- SWITCH_OUT (R328): a core that may leave drains its buffer, writes its area and is free. -/
def execSwitchOut (c : Nat) (s : State) : Result :=
  .next (match (s.coreAt c).run.node with
    | none => s
    | some n =>
      if !(s.coreAt c).run.preempt || !(s.coreAt c).mayLeave || !s.lastOfShared c then s
      else
        let (s, lost) := s.meetAll c
        if lost then s else
        let (s, drained) := s.bufDrainAll c (fun _ => true)
        if !drained then s
        else match s.flushPrivate c with
          | (s, false) => s
          | (s, true) =>
            match s.writeArea c n with
            | (s, false) => s
            | (s, true) =>
              let a := s.saveArea c
              let s := s.modNode n (fun x => { x with areas := sput x.areas c a, out := x.out ++ [c] })
              (s.freeCore c).drainCheck n)

/-! ### Resumption (R334) -/

/-- Map FREE wells into the saved slots, with the saved state, mode, contents and tags; wells that two cores of the
octet shared become one well again. -/
def State.restoreSlots (s : State) (c : Nat) (a : Area) (known : SMap Nat) : State × SMap Nat :=
  each a.wells (s, known) (fun (s, known) (slot, w) =>
    let b := a.core.bankmap slot
    let old := octOf c * 32 + bankWell b
    let put (s : State) (v : Nat) : State := s.setBank c slot (mkBank (bankSt b) (bankMode b) v)
    match sfind known old with
    | some v => (put s v, known)
    | none =>
      match s.pickWell c with
      | none => (s.setBank c slot 0, known)
      | some v => (put (s.modWell c v (fun _ => w)) v, sput known old v))

/-- Restore a core: everything of the area but what belongs to the core and not to the launch (R334 items 1 to 6). -/
def State.restoreCore (s : State) (c : Nat) (a : Area) (known : SMap Nat) : State × SMap Nat :=
  let s := s.modCore c (fun x => { a.core with
    cycle := x.cycle
    phase := x.phase
    eccstat := x.eccstat
    eccAt := x.eccAt
    powered := true
    idleSince := s.now
    cache := x.cache
    -- DIV is the one that the dispatch wrote (R28); DUTY is the saved one, from the next window boundary
    fduty := { x.fduty with newDuty := some a.core.fduty.written.1 }
    loc := { a.core.loc with bank := [] }
    mat := { a.core.mat with fly := x.mat.fly }
    vec := { a.core.vec with want := a.core.vec.grant, grant := 0 }
    run := { a.core.run with preempt := false, next := none } })
  let (s, known) := s.restoreSlots c a known
  let s := s.modOct (octOf c) (fun o => { o with tiles := a.tiles.foldl (fun m t => sput m t.1 t.2) o.tiles })
  let s := (s.acquire c .sys).redeal (octOf c) [posOf c]
  -- the saved commands are queued again, with their checks (R334 item 4)
  let s := ((s.requeueVec c).requeueMat c).requeueEngs c
  let s := if (s.coreAt c).timedPending then s.force c else s
  -- the lines of the queue entries are read again (R114, R130)
  (each (List.range ctxCount) s (fun s k =>
    let y := s.ctxAt c k
    if y.st = .live ∨ y.st = .waiting then
      let (s, q0, q1, q2) := (s.at_ c k).restoreQueue c k y.q0.save y.q1.save y.q2.save 0
      s.modCtx c k (fun y => { y with
        q0 := { q0 with target := y.q0.target }, q1 := { q1 with target := y.q1.target }, q2 := { q2 with target := y.q2.target } })
    else s), known)

/-- Lift or set the holds of a launch's units, exchange barriers and rings (R329). -/
def State.holdUnits (s : State) (n : Nat) (h : Bool) : State :=
  let r := (s.node n).rec_
  let s := each (nodeUnits r) s (fun s (i, u, ms) =>
    -- the release that ends an open phase is not held (R327)
    if h && u == 31 && ms.any (fun c => (s.coreAt c).xopen && s.phaseOf c == i) then s
    else s.modUnit i u (fun x => { x with held := h }))
  each (nodeRings r) s (fun s (id, _) => s.modRing id (fun x => { x with frozen := h }))

/-- RESUME (R334): a SAVED launch is restored on its cores and continues. -/
def execResume (n : Nat) (s : State) : Result :=
  .next (
    let x := s.node n
    if x.st ≠ .saved then
      { s with cores := sall s.cores (fun y => if y.run.next.map (·.1) = some n then { y with run := { y.run with next := none } } else y) }
    else
      let (s, _) := each x.areas (s, ([] : SMap Nat)) (fun (s, known) (c, a) => s.restoreCore c a known)
      (s.modNode n (fun x => { x with st := .running, out := [], areas := [], est := none })).holdUnits n false)

end Sys2Proof.Machine
end

