-- ==== Sys2Proof/Machine/Audit.lean ====
section
/-!
DEFINITION. The rounds and audits of Ductus, token rounds, and the diagnostic pokes (spec/12 R280 to R296; spec/14 R306).
-/
namespace Sys2Proof.Machine

/-! ### Trees (R281) -/

/-- The least of some numbers. -/
def least (l : List Nat) : Nat := l.foldl min (l.headD 0)
/-- Whether a node satisfies the rule of its tree, with a distance below D_cap. -/
def State.nodeClean (s : State) (i : Inst) (t v : Nat) : Bool :=
  let d := s.distOf i t v
  if v = s.rootOf i t then d == 0
  else
    let ns := s.neighbours i t v
    let m := least (ns.map (s.distOf i t))
    decide (d < s.dcap i.scope) && d == min (s.dcap i.scope) (1 + m)
      && some (s.parOf i t v) == ns.find? (fun u => s.distOf i t u == m)
/-- Whether a tree is clean (R281); where nothing is listed every node holds its true distance, at most 2. -/
def State.treeClean (s : State) (i : Inst) : Bool :=
  ((s.inst i).dist.isEmpty && (s.inst i).par.isEmpty && decide (3 ≤ s.dcap i.scope))
    || [0, 1].all (fun t => (s.nodes i).all (s.nodeClean i t))

/-- Nodes of both trees apply their rule to the values last received, those of the round before (R280, R281). -/
def State.treeRound (s : State) (i : Inst) (due : List Nat) : State :=
  if (s.inst i).dist.isEmpty && (s.inst i).par.isEmpty then s
  else
    let ns := [0, 1].flatMap (fun t => (s.nodes i).map (fun v => (t, v)))
    let new (t v : Nat) : Nat × Nat :=
      if !due.contains v then (s.distOf i t v, s.parOf i t v)
      else if v = s.rootOf i t then (0, v)
      else
        let nb := s.neighbours i t v
        let m := least (nb.map (s.distOf i t))
        (min (s.dcap i.scope) (1 + m), (nb.find? (fun u => s.distOf i t u == m)).getD (s.parOf i t v))
    s.modInst i (fun d =>
      { d with
        dist := each ns [] (fun l (t, v) => sputD (s.trueDist i t v) l (treeKey t v) (new t v).1)
        par := each ns [] (fun l (t, v) => sputD (s.parentOf i t v) l (treeKey t v) (new t v).2) })

/-- New edge sets (R281, R302): every node holds what it held in state `was`, before the parts that the sets leave out were
named, and the next round is unclean. -/
def State.edgesFrom (s was : State) (i : Inst) : State :=
  let old := [0, 1].flatMap (fun t => (s.nodes i).map (fun v => (t, v, was.distOf i t v, was.parOf i t v)))
  let s := s.modInst i (fun d => { d with edges := d.edges + 1, spoil := true })
  s.modInst i (fun d =>
    { d with
      dist := each old [] (fun l (t, v, x, _) => sputD (s.trueDist i t v) l (treeKey t v) x)
      par := each old [] (fun l (t, v, _, p) => sputD (s.parentOf i t v) l (treeKey t v) p) })
/-- The OCT instances of a die. -/
def octsOf (die : Nat) : List Inst := (List.range 240).map (fun r => ⟨.oct, 240 * die + r⟩)
/-- New edge sets of the instances of a die: its own and its octets' (R302). -/
def State.dieEdges (s was : State) (die : Nat) : State := each (⟨.die, die⟩ :: octsOf die) s (fun s i => s.edgesFrom was i)

/-! ### The step clock (R283, R284) -/

/-- STEP of a clock node: a router's of its die, or a die's. -/
def State.clockStep (s : State) (i : Inst) (v : Nat) : Word := if i.scope = .pkg then s.stepAt v 0 else s.stepAt i.idx v
/-- Move STEP of a router by a difference. -/
def State.shiftStep (s : State) (die r : Nat) (by_ : Word) : State :=
  s.modDie die (fun d => { d with stepOff := sputD 0 d.stepOff r (sget 0 d.stepOff r + by_) })
/-- Move STEP of every router of a die alike (R284, R296). -/
def State.shiftDie (s : State) (die : Nat) (by_ : Word) : State := each (List.range 242) s (fun s r => s.shiftStep die r by_)
/-- Count a backward adjustment of a clock node (DSTAT word 6, R293). -/
def State.countAdj (s : State) (i : Inst) (v by_ : Nat) : State :=
  s.modInst i (fun d =>
    { d with adj := smod 0 d.adj v (· + 1)
             maxadj := smod 0 d.maxadj v (fun m => BitVec.ofNat 32 (max m.toNat (min by_ (2 ^ 32 - 1)))) })

/-- A clock round of some nodes (R283): each whose STEP exceeds what a neighbour implies falls back. True when none did. -/
def State.clockRound (s : State) (i : Inst) (due : List Nat) : State × Bool :=
  match i.scope with
  | .die | .pkg =>
    let idle := if i.scope = .pkg then s.dies.all (fun d => d.2.stepOff.isEmpty) else (s.die i.idx).stepOff.isEmpty
    if idle then (s, true)
    else
      let moves := due.filterMap (fun v =>
        let own := (s.clockStep i v).toNat
        let c := ((s.clockLinks i v).map (fun u => (s.clockStep i u).toNat)).foldl min own
        if c < own then some (v, own - c) else none)
      (each moves s (fun s (v, n) =>
        let s := if i.scope = .pkg then s.shiftDie v (0 - w64 n) else s.shiftStep i.idx v (0 - w64 n)
        s.countAdj i v n), moves.isEmpty)
  | .pod =>
    -- the larger of this module's count and the other modules' falls back to the smaller (R284)
    if s.podsize ≤ 1 || s.refused || s.podOff = s.podBase then (s, true)
    else if 0 < (s.podOff - s.podBase).toInt then
      ({ s with podOff := s.podBase }.countAdj i s.modno (s.podOff - s.podBase).toNat, false)
    else ({ s with podBase := s.podOff }, false)
  | _ => (s, true)

/-! ### Barrier units (R285) -/

/-- A unit as the sample of step 0 leaves it. -/
def DUnit.sample (u : DUnit) : DUnit :=
  let pop := (u.members.filter (fun c => (u.memb c).f && (u.memb c).acked)).length
  { u with sCnt := u.cnt, sPop := pop, sBad := u.cnt != pop || u.mask != u.members,
           sMb := u.members, released := false, mem := sall u.mem (fun m => { m with missedS := m.missed && m.mb }) }
/-- Whether a sampled unit is clean. -/
def DUnit.clean (u : DUnit) : Bool := !u.sBad && u.mem.all (fun m => !m.2.missedS)
/-- The overwriting of CNT and MASK at the verdict where the sample found one of them wrong: arrivals acknowledged since
the sample are kept, and the CNT of a unit that has released since is left for the next audit. -/
def DUnit.audit (u : DUnit) : DUnit :=
  if !u.sBad then u
  else { u with cnt := if u.released then u.cnt else u.cnt + u.sPop - u.sCnt, mask := u.sMb }
/-- Counted MISSED bits clear at step 15. -/
def DUnit.clearMissed (u : DUnit) : DUnit :=
  { u with mem := sall u.mem (fun m => { m with missed := m.missed && !m.missedS, missedS := false }) }

/-! ### Rounds and verdicts (R289, R290) -/

/-- An unclean clock of a die is that of its octets' instances too (R278). -/
def State.spreadClock (s : State) (i : Inst) (clean : Bool) : State :=
  if i.scope = .die && !clean then each (octsOf i.idx) s (fun s o => s.modInst o (fun d => { d with sClock := false })) else s

/-- The instances that contain the part at the silent end of a link whose failure is pending (R303, R389). -/
def linkInsts (l : LinkId) : List Inst :=
  match l with
  | .router d _ b => ⟨.die, d⟩ :: (if b < 240 then [⟨.oct, 240 * d + b⟩] else [])
  | .dieLink _ b => ⟨.pkg, 0⟩ :: ⟨.die, b⟩ :: octsOf b
  | .eth _ _ => [⟨.pod, 0⟩]
/-- Whether an instance contains a silent part, with which it stays illegitimate until the part is named and, for a router,
the routes are recomputed without it (R303, R389). -/
def State.silent (s : State) (i : Inst) : Bool :=
  s.pendingLinks.any (fun l => (linkInsts l).contains i) || (i.scope == .die && (s.die i.idx).xhold)

/-- DUCTUS_ROUND (R280, R289): at step 0 of its round every node applies its rules, and at the root's the state of the
instance is sampled. A sample that no verdict has judged, as the root's STEP fell back, counts with it (R297). -/
def execDuctusRound (i : Inst) (s : State) : Result :=
  .next (
    let due := s.dueNodes i
    let root := !s.uneven i || (s.roundPos i).1 == 0
    let trees := s.treeClean i && !(s.inst i).spoil && !s.silent i
    let (s, clock) := (s.treeRound i due).clockRound i due
    let s := (s.spreadClock i clock).modInst i (fun d => { d with sClock := d.sClock && clock })
    if !root then s
    else s.modInst i (fun d =>
      let us := sall d.units DUnit.sample
      { d with units := us, sTrees := trees && (d.sTrees || !d.sampled), sBars := us.all (fun u => u.2.clean) && (d.sBars || !d.sampled)
               spoil := false, sampled := true }))

/-- The verdict on LEGIT, GEN and CLEANRUN (R290). -/
def DInst.judge (d : DInst) (clean : Bool) (c : Nat) (step : Word) : DInst :=
  if clean then
    let run := min 15 (d.clean + 1)
    { d with clean := run, legit := d.legit || decide (c ≤ run) }
  else if d.legit then { d with clean := 0, gen := d.gen + 1, legit := false, lost := step.setWidth 32 }
  else { d with clean := 0 }

/-- AUDIT_VERDICT (R289, R290): at step 7 the root judges the round and overwrites CNT and MASK where needed. -/
def execAuditVerdict (i : Inst) (s : State) : Result :=
  .next (
    let step := s.rootStep i
    let c := s.confirm i
    s.modInst i (fun d =>
      let d := d.judge (d.sTrees && d.sClock && d.sBars) c step
      { d with units := sall d.units DUnit.audit
               sampled := false
               sClock := true
               layers := BitVec.ofNat 3 (d.sBars.toNat * 4 + d.sClock.toNat * 2 + d.sTrees.toNat) }))

/-- COPY_UPDATE (R289): at step 15 every member's copy follows, and counted MISSED bits clear. -/
def execCopyUpdate (i : Inst) (s : State) : Result :=
  .next (s.modInst i (fun d => { d with cLegit := d.legit, cGen := d.gen, units := sall d.units DUnit.clearMissed }))

/-! ### Token rounds (R287, R306) -/

/-- Set the sticky TOKLOST of a member of a ring (R170): in its core, or, for the member of a launch that has left the
core, in what is saved of it (R329). -/
def State.loseToken (s : State) (id : RingId) (c : Nat) : State :=
  let lose (x : Core) : Core := { x with toklost := true }
  match s.sched.nodes.find? (fun e => (sfind e.2.areas c).isSome && (nodeRings e.2.rec_).any (fun r => r.1 == id)) with
  | some (n, _) => s.modNode n (fun x => { x with areas := x.areas.map (fun (d, a) => (d, if d = c then { a with core := lose a.core } else a)) })
  | none => s.modCore c lose

/-- HOLD, RRND and K of a TOKK value (R294). -/
def tokkHold (v : Word) : Nat := bits v 41 18
/-- K. -/
def tokkK (v : Word) : Nat := bits v 8 0

/-- Whether a hold has outlasted its time at a node that holds the token (R287). -/
def Ring.overdue (r : Ring) (now c : Nat) : Bool :=
  match sfind r.held c with
  | some t => r.hasToken c && decide (tokkHold r.tokk0 ≤ now - t)
  | none => false

/-- Writes of TOKK reach every member: node 0's wins, else that of the lowest-numbered writer; the ring runs under node
0's copy from this round on (R294). -/
def Ring.takeWrites (r : Ring) : Ring :=
  let r := match (r.mb.filter (fun c => r.pend.any (fun e => e.1 == c))).head? with
    | none => r
    | some c =>
      let v := ((r.pend.find? (fun (e : Nat × Word) => e.1 == c)).map (fun (e : Nat × Word) => e.2)).getD 0
      { r with tokk := r.mb.foldl (fun t m => sput t m (tokkClamp r.mb.length v)) r.tokk, pend := [] }
  { r with run := (r.mb.head?.map r.tokkOf).getD r.run }

/-- A ring under the value of TOKK that it runs under in a step (R294). -/
def State.ringNow (s : State) (id : RingId) : Ring := if s.ringPos id = 0 then (s.ring id).takeWrites else s.ring id

/-- TOKEN_HOLD_TIMEOUT (R174, R287): the hold ends with TOKLOST, and in this round the node moves as unheld. -/
def execTokenHoldTimeout (r : RingId) (c : Nat) (s : State) : Result :=
  .next (
    if (s.ringNow r).overdue s.now c then (s.modRing r (fun x => { x with held := sdel x.held c })).loseToken r c else s)

/-- The next values of the nodes whose round begins, from the values last received (R280, R287). -/
def Ring.move (r : Ring) (due : List Nat) : SMap Nat :=
  let ke := min 256 (max (tokkK r.tokk0) r.mb.length)
  (r.mb.filter due.contains).foldl (fun x c =>
    let stay := r.frozen || !r.hasToken c || (sfind r.held c).isSome
    let v := if stay then r.xv c else if r.idx c = 0 then (r.xv c + 1) % ke else r.xv (r.before c)
    sputD 0 x c v) r.x

/-- Step 0 of a ring round at some of its nodes: at node 0 the writes of TOKK and the sample; holds whose node lost the
token, and the moves. A sample that no verdict has judged, as node 0's STEP fell back, counts with the new one (R297). -/
def State.ringRound (s : State) (id : RingId) (due : List Nat) : State :=
  let first := s.ringPos id = 0
  let r := s.ringNow id
  let clean := (r.mb.filter r.hasToken).length == 1 && (r.sClean || !r.sampled)
  let lost := (r.held.map (·.1)).filter (fun c => due.contains c && !r.hasToken c)
  let r' := { r with x := r.move due, held := r.held.filter (fun e => !lost.contains e.1)
                     sClean := if first then clean else r.sClean, sampled := first || r.sampled }
  each lost (s.modRing id (fun _ => r')) (fun s c => s.loseToken id c)

/-- Node 0's verdict (R290, R306). -/
def Ring.judge (r : Ring) (c : Nat) (step : Word) : Ring :=
  if r.sClean then
    let run := min 15 (r.clean + 1)
    { r with clean := run, legit := r.legit || decide (c ≤ run) }
  else if r.legit then { r with clean := 0, gen := r.gen + 1, legit := false, lostStep := step.setWidth 32 }
  else { r with clean := 0 }

/-- TOKEN_RING_ROUND (R280, R287, R306): step 0 of the round at the members whose STEP says so; at step 7 * RRND node 0's
verdict and at 15 * RRND the copies. -/
def execTokenRingRound (id : RingId) (s : State) : Result :=
  .next (
    let rr := tokkRrnd (s.ring id).tokk0
    let p := s.ringPos id
    let due := s.dueMembers (s.ring id)
    let s := if due.isEmpty then s else s.ringRound id due
    if p = 7 * rr ∧ (s.ring id).sampled then
      s.modRing id (fun r => { r.judge (s.confirmRing id) (s.stepOf (r.mb.headD 0)) with sampled := false })
    else if p = 15 * rr then s.modRing id (fun r => { r with cLegit := r.legit, cGen := r.gen })
    else s)

/-! ### Pokes (R296) -/

/-- DPOKE_CNT. -/
def execDpokeCnt (i : Inst) (u : Nat) (v : BitVec 32) (s : State) : Result := .next (s.modUnit i u (fun x => { x with cnt := v.toNat }))
/-- DPOKE_F: this core's F of a unit. -/
def execDpokeF (i : Inst) (u c : Nat) (v : BitVec 32) (s : State) : Result :=
  .next (s.modMembAt i u c (fun m => { m with f := v.getLsbD 0 }))
/-- DPOKE_XV: the value of this core's node, if it is a member. -/
def execDpokeXv (r : RingId) (c : Nat) (v : BitVec 32) (s : State) : Result :=
  .next (if (s.ring r).mb.contains c then s.modRing r (fun x => { x with x := sputD 0 x.x c (v.toNat % 256) }) else s)
/-- DPOKE_STEP: STEP[31:0] of this core's clock node. -/
def execDpokeStep (i : Inst) (c : Nat) (v : BitVec 32) (s : State) : Result :=
  .next (
    let low (x : Word) : Word := v.setWidth 64 - (x.setWidth 32).setWidth 64
    match i.scope with
    | .pkg => s.shiftDie (dieOf c) (low (s.stepAt (dieOf c) 0))
    | .pod =>
      let count := w64 (s.now / 700) + s.podOff
      { s with podOff := s.podOff + low count }
    | _ => s.shiftStep (dieOf c) (routerOf c) (low (s.stepOf c)))
/-- DPOKE_DIST: the distance of this core's node of the primary tree. -/
def execDpokeDist (i : Inst) (c : Nat) (v : BitVec 32) (s : State) : Result :=
  .next (
    let n := s.nodeIn i.scope c
    s.modInst i (fun d => { d with dist := sputD (s.trueDist i 0 n) d.dist (treeKey 0 n) (v.toNat % 16) }))
/-- DPOKE_GEN. -/
def execDpokeGen (i : Inst) (v : BitVec 32) (s : State) : Result := .next (s.modInst i (fun d => { d with gen := v.setWidth 16 }))

end Sys2Proof.Machine
end

