-- ==== Sys2Proof/Machine/Float.lean ====
section
/-!
DEFINITION. Scalar floating point, majors 0x0E and 0x0F (spec/05 R96 to R99; spec/02 R38 to R47). Every result is
the exact one rounded once; no flag is set and nothing traps (R40).
-/
namespace Sys2Proof.Machine

/-- FADD (R97): a := Enc(T, Dec(T, b) + Dec(T, c), nearest even). -/
def execFadd (t : FType) (a b c : GReg) (s : State) : Result :=
  .next (s.resultIn 4 a (fimg t (fAdd (fval t (s.g b)) (fval t (s.g c)))))
/-- FSUB (R97): a := Enc(T, Dec(T, b) - Dec(T, c), nearest even). -/
def execFsub (t : FType) (a b c : GReg) (s : State) : Result :=
  .next (s.resultIn 4 a (fimg t (fAdd (fval t (s.g b)) (fval t (s.g c)).negate)))
/-- FMUL (R97): a := Enc(T, Dec(T, b) * Dec(T, c), nearest even). -/
def execFmul (t : FType) (a b c : GReg) (s : State) : Result :=
  .next (s.resultIn 4 a (fimg t (fMul (fval t (s.g b)) (fval t (s.g c)))))
/-- FMIN (R97, R47): a := the smaller by R47. -/
def execFmin (t : FType) (a b c : GReg) (s : State) : Result :=
  .next (s.resultIn 4 a (fimg t (fMin (fval t (s.g b)) (fval t (s.g c)))))
/-- FMAX (R97, R47): a := the larger by R47. -/
def execFmax (t : FType) (a b c : GReg) (s : State) : Result :=
  .next (s.resultIn 4 a (fimg t (fMax (fval t (s.g b)) (fval t (s.g c)))))
/-- FSEQ (R97, R47): a := 1 if b = c by R47, else 0. -/
def execFseq (t : FType) (a b c : GReg) (s : State) : Result :=
  .next (s.resultIn 4 a (b2w (fEq (fval t (s.g b)) (fval t (s.g c)))))
/-- FSLT (R97, R47): a := 1 if b < c by R47, else 0. -/
def execFslt (t : FType) (a b c : GReg) (s : State) : Result :=
  .next (s.resultIn 4 a (b2w (fLt (fval t (s.g b)) (fval t (s.g c)))))
/-- FSLE (R97, R47): a := 1 if b <= c by R47, else 0. -/
def execFsle (t : FType) (a b c : GReg) (s : State) : Result :=
  .next (s.resultIn 4 a (b2w (fLe (fval t (s.g b)) (fval t (s.g c)))))

/-- The code of a register's image. -/
def codeOf (t : FType) (x : Word) : Nat := x.toNat % 2 ^ (fmtOf t).width
/-- A code with its sign bit cleared (R39). -/
def clearSign (F : Fmt) (code : Nat) : Nat := code % F.signBit
/-- A code with its sign bit inverted (R39). -/
def flipSign (F : Fmt) (code : Nat) : Nat := (code + F.signBit) % (2 * F.signBit)

/-- FABS (R97): the image of b with its sign bit cleared. -/
def execFabs (t : FType) (a b : GReg) (s : State) : Result :=
  .next (s.result a (w64 (clearSign (fmtOf t) (codeOf t (s.g b)))))
/-- FNEG (R97): the image of b with its sign bit inverted. -/
def execFneg (t : FType) (a b : GReg) (s : State) : Result :=
  .next (s.result a (w64 (flipSign (fmtOf t) (codeOf t (s.g b)))))
/-- FCLASS (R97): the one-hot class of Dec(T, b). -/
def execFclass (t : FType) (a b : GReg) (s : State) : Result := .next (s.result a (fclass (fmtOf t) (codeOf t (s.g b))))
/-- FFMA (R98): a := Enc(T, Dec(b) * Dec(c) + Dec(d), nearest even), rounded once (R46). -/
def execFfma (t : FType) (a b c d : GReg) (s : State) : Result :=
  .next (s.resultIn 4 a (fimg t (fAdd (fMul (fval t (s.g b)) (fval t (s.g c))) (fval t (s.g d)))))
/-- FCVT (R99): b in the source format, converted in the mode; .SR consumes one draw of position 0 whether or not
the value needs rounding (R43). -/
def execFcvt (dst src : CvtFmt) (mode : CvtMode) (a b : GReg) (s : State) : Result :=
  let v := cvtVal src (s.g b)
  match mode with
  | .ne => .next (s.resultIn 3 a (cvtImg dst v .ne))
  | .rz => .next (s.resultIn 3 a (cvtImg dst v .rz))
  | .sr => .next ((s.srDraw 0).1.resultIn 3 a (cvtImg dst v (.sr (s.srDraw 0).2)))

end Sys2Proof.Machine
end

