-- ==== Sys2Proof/Machine/Sched.lean ====
section
/-!
DEFINITION. The task-graph scheduler: dispatch passes, wakes, launch starts, ageing and pre-emption (spec/16 R311 to
R327), with the ramp slots a start draws on (spec/18 R360).
-/
namespace Sys2Proof

/-- Whether two core ranges meet. -/
def NodeRec.meets (a b : NodeRec) : Bool := decide (a.lcore0 < b.lcore0 + b.lcores) && decide (b.lcore0 < a.lcore0 + a.lcores)
/-- Whether a record's range holds a core. -/
def NodeRec.hasCore (r : NodeRec) (c : Nat) : Bool := decide (r.lcore0 ≤ c) && decide (c < r.lcore0 + r.lcores)
/-- The cores of a record. -/
def NodeRec.cores (r : NodeRec) : List Nat := (List.range r.lcores).map (r.lcore0 + ·)

end Sys2Proof

namespace Sys2Proof.Machine

/-! ### Nodes -/

/-- Steps in n microseconds. -/
def micros (n : Nat) : Nat := 700 * n
/-- AGE and PDELAY of SCHEDCFG (R323). -/
def State.ageOf (s : State) : Nat := micros (bits s.sched.schedcfg 19 0)
/-- PDELAY in steps. -/
def State.pdelayOf (s : State) : Nat := micros (bits s.sched.schedcfg 39 20)

/-- Whether a node competes for dispatch (R319). -/
def Node.waits (x : Node) : Bool := x.st == .ready || x.st == .saved
/-- Whether a waiting node is urgent: it has waited 8 times AGE in all (R322). -/
def State.isUrgent (s : State) (x : Node) : Bool := x.waits && decide (8 * s.ageOf ≤ x.waited + (s.now - x.readyAt))
/-- Whether every core of a range is free: no launch runs there or has been woken, and none is a hole (R313, R392). -/
def State.coresFree (s : State) (r : NodeRec) : Bool :=
  s.cores.all (fun e => !r.hasCore e.1 || (e.2.run.node.isNone && e.2.run.next.isNone))
    && s.dies.all (fun d => (d.2.deadRouters.isEmpty && !d.2.named) || r.cores.all (fun c => dieOf c != d.1 || !s.isHole c))

/-- Whether another urgent node has reserved a core of the range (R322). Of two urgent nodes the one that has waited
longer, and of two equal ones the lower-numbered, is not kept out by the other (log 71). -/
def State.isReserved (s : State) (n : Nat) (r : NodeRec) : Bool :=
  let me := s.node n
  let wait (x : Node) : Nat := x.waited + (s.now - x.readyAt)
  s.sched.nodes.any (fun e => e.1 != n && s.isUrgent e.2 && e.2.rec_.meets r
    && (!s.isUrgent me || decide (wait me < wait e.2) || (wait me == wait e.2 && decide (e.1 < n))))

/-- Whether a unit can be allocated: its instance is legitimate, no member bit or change of it is outstanding, and every
intended member's F and X read 0 (R311). -/
def State.unitOpen (s : State) (i : Inst) (u : Nat) (ms : List Nat) : Bool :=
  let x := (s.inst i).unit u
  (s.inst i).legit && x.members.isEmpty && !s.sched.pend.any (fun p => p.inst == i && p.unit == u && p.ring.isNone)
    && ms.all (fun c => !(x.memb c).f && !(x.memb c).x)
/-- Whether a ring can be allocated: its instance is legitimate, no member holds it, and it has at most 64 members (R278,
R311). -/
def State.ringOpen (s : State) (id : RingId) : Bool :=
  (s.inst (if id.k < 8 then ⟨.die, id.die⟩ else ⟨.pkg, 0⟩)).legit && (s.ring id).mb.isEmpty && (s.ring id).held.isEmpty
    && !s.sched.pend.any (fun p => p.ring == some id)
/-- Whether all a record asks for can be allocated. -/
def State.unitsOpen (s : State) (r : NodeRec) : Bool :=
  (nodeUnits r).all (fun (i, u, ms) => s.unitOpen i u ms) && (nodeRings r).all (fun (id, ms) => decide (ms.length ≤ 64) && s.ringOpen id)

/-- Whether a node is dispatchable (R321). A SAVED one holds its units already. -/
def State.dispatchable (s : State) (n : Nat) : Bool :=
  let x := s.node n
  x.waits && s.sched.resident.contains x.rec_.cid && s.coresFree x.rec_ && !s.isReserved n x.rec_
    && (x.st == .saved || s.unitsOpen x.rec_)

/-! ### Dividers (R324) -/

/-- One round of LS over the listed nodes, from the round before. -/
def lsRound (nodes : SMap Node) (ls : SMap Int) : SMap Int :=
  nodes.filterMap (fun (n, x) =>
    let r := x.rec_
    if r.succ = [] then (if r.deadline = 0 then none else some (n, (r.deadline.toNat : Int) - r.est))
    else match (r.succ.filterMap (fun e => sfind ls e.1)) with
      | [] => none
      | v :: vs => some (n, vs.foldl min v - r.est))
/-- LS of every node that has one. -/
def latestStarts (nodes : SMap Node) : SMap Int := each (List.range nodes.length) [] (fun ls _ => lsRound nodes ls)

/-- DIV's code of a divider (R28). -/
def divCode (k : Nat) : Nat := match k with | 2 => 1 | 3 => 2 | 4 => 3 | 8 => 4 | _ => 0
/-- The divider of a code. -/
def divOf (code : Nat) : Nat := match code with | 1 => 2 | 2 => 3 | 3 => 4 | 4 => 8 | _ => 1

/-- The divider chosen for a node at dispatch (R324). -/
def State.pickDivider (s : State) (n : Nat) : Nat :=
  let r := (s.node n).rec_
  if r.pinned then 1
  else match sfind (latestStarts s.sched.nodes) n with
    | none => 1
    | some l =>
      let slack : Int := l - (s.stepAt 0 0).toNat
      ([8, 4, 3, 2].find? (fun (k : Nat) => decide ((r.est * k : Nat) ≤ slack - 7000))).getD 1

/-! ### Ramp slots (R315, R360) -/

/-- ROWP, 10 mW units. -/
def State.rowp (s : State) : Nat := bits s.gov.eff 31 20
/-- RATE in W. -/
def State.rate (s : State) : Nat := bits s.gov.eff 10 0
/-- The ramp slot of a step of the model's clock, by die 0's STEP. -/
def State.slotAt (s : State) (t : Nat) : Nat := ((s.stepAt 0 0).toNat + (t - s.now)) / 700
/-- First step of a slot on the model's clock. -/
def State.slotStart (s : State) (slot : Nat) : Nat := s.now + (slot * 700 - (s.stepAt 0 0).toNat)
/-- Allowance left in a slot, in sixteenths of 10 mW. -/
def State.slotLeft (s : State) (slot : Nat) : Nat := s.rate * 1600 - sget 0 s.gov.used slot
/-- Rows a slot can still take; one where nothing is drawn takes at least one (R360). -/
def State.slotRows (s : State) (slot : Nat) : Nat :=
  max (s.slotLeft slot / (16 * max 1 s.rowp)) (if sget 0 s.gov.used slot = 0 then 1 else 0)
/-- Draw rows from a slot. -/
def State.drawRows (s : State) (slot n : Nat) : State :=
  { s with gov := { s.gov with used := smod 0 s.gov.used slot (· + 16 * s.rowp * n) } }

/-- A core's power switch turns on, which draws on the slot's allowance as a rise (R360, R367). -/
def State.drawSwitch (s : State) (c : Nat) : State :=
  if (s.coreAt c).powered then s
  else { s with gov := { s.gov with used := smod 0 s.gov.used (s.slotAt s.now) (· + Config.switchPower) } }

/-- Rows of a launch, ranked by row number, then die (R315). -/
def rowsOf (r : NodeRec) : List (Nat × Nat) :=
  sortBy (fun a b => decide (a.1 < b.1) || (a.1 == b.1 && decide (a.2 ≤ b.2))) (r.cores.map (fun c => (rowOf c, dieOf c))).eraseDups

/-- The first slot from one on that can take a row. -/
def State.firstSlot (s : State) (slot : Nat) : Nat :=
  slot + ((List.range (s.gov.used.length + 1)).find? (fun i => decide (0 < s.slotRows (slot + i)))).getD 0

/-- Grant rows slot by slot: how many rows each slot takes, P at most, until all are placed. -/
def State.grantRows (s : State) (P : Nat) : Nat → Nat → Nat → State × List (Nat × Nat)
  | 0, _, _ => (s, [])
  | fuel + 1, slot, left =>
    if left = 0 then (s, [])
    else
      let n := min left (min P (s.slotRows slot))
      let (s, l) := (s.drawRows slot n).grantRows P fuel (slot + 1) (left - n)
      (s, (slot, n) :: l)

/-- The start step of each row of a launch (R315): slot by slot from S0; a PINNED launch starts everywhere at S0. -/
def State.placeRows (s : State) (r : NodeRec) (earliest : Nat) : State × Nat × List ((Nat × Nat) × Nat) :=
  let rows := rowsOf r
  if r.pinned then (s, earliest, rows.map (fun x => (x, earliest)))
  else
    let first := s.slotAt earliest
    let slot := s.firstSlot first
    let s0 := if slot = first then earliest else s.slotStart slot
    let (s, g) := s.grantRows (s.slotRows slot) (rows.length + s.gov.used.length + 1) slot rows.length
    let steps := g.flatMap (fun (sl, n) => List.replicate n (s0 + 700 * (sl - slot)))
    (s, s0, rows.zip steps)

/-! ### Dispatch (R313, R319, R321) -/

/-- Ask for the units and rings of a record (R311). -/
def State.askAll (s : State) (r : NodeRec) : State :=
  let s := each (nodeUnits r) s (fun s (i, u, ms) => s.askUnit i u ms true)
  each (nodeRings r) s (fun s (id, ms) => s.askRing id ms true)

/-- A dispatch chooses the divider of a node, writes it in its cores, and asks for the low voltage of its rows where it is
2 or more (R28, R324). -/
def State.setDivs (s : State) (n : Nat) : State :=
  let r := (s.node n).rec_
  let k := s.pickDivider n
  let s := s.modNode n (fun x => { x with div := divCode k })
  let s := each (rowsOf r) s (fun s (row, die) => s.modRow die row (fun x => { x with wantLow := decide (2 ≤ k) }))
  each r.cores s (fun s c => s.modDuty c (fun f => f.writeDiv (divCode k) s.now))

/-- Dispatch a READY node: its units, its rows and its wake. -/
def State.launch (s : State) (n : Nat) : State :=
  let r := (s.node n).rec_
  let urgent := s.isUrgent (s.node n)
  let seq := s.sched.seq + 1
  let s := s.askAll r
  let ready := (s.sched.pend.map (fun p => p.due)).foldl max s.now
  let (s, s0, starts) := s.placeRows r (max (ready + 1) (s.now + 1 + Config.wakeLatency seq.toNat))
  let s := s.modSched (fun x => { x with seq := seq })
  let s := s.modNode n (fun x =>
    { x with st := .running, seq := seq, urgent := urgent, level := r.level, pdelay := false
             exits := [], out := [], areas := [], viol := false, est := none })
  each r.cores s (fun s c =>
    let t := ((starts.find? (fun e => e.1 == (rowOf c, dieOf c))).map (·.2)).getD s0
    ((s.modCore c (fun x => { x with run := { x.run with next := some (n, t) } })).push (.wakeMessage c n)).after (t - s.now) (.launchStart c))

/-- Dispatch a node: a READY one is launched; a SAVED one resumes, its cores taken from here on (R319, R321). -/
def State.dispatchNode (s : State) (n : Nat) : State :=
  let urgent := s.isUrgent (s.node n)
  let saved := (s.node n).st == .saved
  let s := s.setDivs n
  let s := if saved then
      each (s.node n).out (s.push (.resume n)) (fun s c => (s.drawSwitch c).modCore c (fun x => { x with run := { x.run with next := some (n, s.now) } }))
    else s.launch n
  s.modNode n (fun x => { x with urgent := urgent, pdelay := false, level := x.rec_.level, waited := x.waited + (s.now - x.readyAt) })

/-- Nodes of a CID that wait at a level, oldest first. -/
def State.queueOf (s : State) (cid level : Nat) : List Nat :=
  (sortBy (fun a b => decide (a.2.readyAt < b.2.readyAt) || (a.2.readyAt == b.2.readyAt && decide (a.1 ≤ b.1)))
    (s.sched.nodes.filter (fun e => e.2.waits && e.2.rec_.cid == cid && e.2.level == level))).map (·.1)

/-- One pick at a level (R321): the CID with the largest credit, and its oldest dispatchable node. -/
def State.pickOne (s : State) (level : Nat) (skip : List Nat) : Option (Nat × State) :=
  let cids := sortBy (fun a b => decide (a ≤ b))
    ((s.sched.nodes.filter (fun e => e.2.waits && e.2.level == level)).map (fun e => e.2.rec_.cid)).eraseDups
  let ready := cids.filterMap (fun q => ((s.queueOf q level).find? (fun n => !skip.contains n && s.dispatchable n)).map (fun n => (q, n)))
  match ready with
  | [] => none
  | first :: rest =>
    let w (q : Nat) : Nat := sget 1 s.sched.weight q
    let c (q : Nat) : Int := sget 0 s.sched.credit q + w q
    let best := rest.foldl (fun b e => if c b.1 < c e.1 then e else b) first
    let W : Int := (ready.map (fun e => w e.1)).sum
    let credit := ready.foldl (fun m e => sputD 0 m e.1 (if e.1 = best.1 then c e.1 - W else c e.1)) []
    some (best.2, (s.modSched (fun x => { x with credit := credit })).dispatchNode best.2)

/-- The picks of a level; a node resumed in this pass is not picked again. -/
def State.passLevel (s : State) (level : Nat) : Nat → List Nat → State
  | 0, _ => s
  | fuel + 1, skip =>
    match s.pickOne level skip with
    | none => s
    | some (n, s) => s.passLevel level fuel (n :: skip)

/-- The running launches that a waiting node would have pre-empted (R322): on its cores, and at a numerically higher
level, or not urgent where the node is; NOPREEMPT shields a launch. -/
def State.blockers (s : State) (n : Nat) : List Nat :=
  let x := s.node n
  (s.sched.nodes.filter (fun e => e.1 != n && e.2.st == .running && e.2.rec_.meets x.rec_ && !e.2.rec_.nopreempt
    && (decide (x.level < e.2.level) || (s.isUrgent x && !e.2.urgent)))).map (·.1)

/-- Start the pre-emption timer of every node that waits for one (R322). -/
def State.startTimers (s : State) : State :=
  each (s.sched.nodes.filter (fun e => e.2.waits && !e.2.pdelay && s.sched.resident.contains e.2.rec_.cid)) s (fun s (n, _) =>
    if (s.blockers n).isEmpty then s
    else (s.modNode n (fun x => { x with pdelay := true })).after s.pdelayOf (.pdelayExpiry n))

/-- DISPATCH_PASS (R321). -/
def execDispatchPass (s : State) : Result :=
  .next (
    let s := each (List.range 8) s (fun s level => s.passLevel level s.sched.nodes.length [])
    s.startTimers)

/-! ### Wake and start (R313, R314) -/

/-- A wake on a core: event bit 5, in the context 0 that the launch starts as well, and the power switch on (R313, R367). -/
def Core.wake (x : Core) : Core :=
  { (x.latchEvent 5).modCtx 0 (fun y => { y with latch := y.latch ||| (1#7 <<< 5) }) with powered := true }

/-- WAKE_MESSAGE (R313): the wake, and the end of a PARK. -/
def execWakeMessage (c n : Nat) (s : State) : Result :=
  .next (if (s.node n).rec_.hasCore c then ((s.drawSwitch c).modCore c Core.wake).unpark c else s)

/-- The registers a launch zeroes when the core's previous launch had another CID (R314). -/
def Core.zeroed (x : Core) : Core :=
  { x with
    ctxs := sall x.ctxs (fun y => { y with g := [], hurt := [] })
    vec := { x.vec with v := [], m := [], hurt := [] }
    mat := { x.mat with cur := [], curEcc := {}, inc := [], incEcc := {}, full := false }
    loc := { x.loc with tcm := [], ecc := {} } }

/-- LCID of a launch (R316). -/
def lcidWord (r : NodeRec) (seq : BitVec 32) : Word :=
  w64 (r.cid + r.level * 2 ^ 16 + r.pinned.toNat * 2 ^ 24 + r.priv.toNat * 2 ^ 25 + r.nopreempt.toNat * 2 ^ 26 + seq.toNat * 2 ^ 32)

/-- A context at a launch's start: context 0 LIVE with the record's PRIV, helpers IDLE. -/
def Ctx.launched (x : Ctx) (k : Nat) (priv : Bool) : Ctx :=
  { x.settle with
    st := if k = 0 then .live else .idle
    cstat := if k = 0 then mkCstat 0 priv false false false false else x.cstat
    arrived := false, eret := 0, sigFault := none, q0 := {}, q1 := {}, q2 := {}
    cpyCount := 0, cpyFail := none, collFail := none, collRedo := 0, lateCpy := none, lateColl := none }

/-- The core's own state at the start (R314). A core of a PINNED launch comes to DUTY 16 with it (R365; log 72). -/
def Core.launched (x : Core) (n : Nat) (r : NodeRec) (seq : BitVec 32) (leave : Bool) (step : Word) : Core :=
  let x := if x.run.prev = some r.cid then x else x.zeroed
  { x with
    struck := []
    ctxs := (List.range ctxCount).map (fun k => (k, (x.ctxAt k).launched k r.priv))
    evec := lineOf (if r.evecl = 0 then Config.defaultHandler else r.evecl)
    evecDefault := r.evecl == 0
    taskstep := step, ipend := 0, imask := 0x20, ialarm := 0, parked := false, powered := true
    fduty := { x.fduty with duty := if r.pinned then 16 else x.fduty.duty, newDuty := if r.pinned then none else x.fduty.newDuty }
    vec := { x.vec with vlen := 0, grant := 0, want := 0, queue := [], fault := none, page := none }
    mat := { x.mat with accmap := 0, queue := [], fault := none }
    xch := { x.xch with xtag := 0, xfail := 0, firstSrc := 0, sends := [], wins := [], contrib := [] }
    run := { x.run with node := some n, next := none, preempt := leave, ramp := none
                        lcore0 := w64 r.lcore0, lcores := w64 r.lcores, litems := r.litems, larg := r.larg, lcid := lcidWord r seq } }

/-- The slots of every core of the octet that starts a launch in this step are unmapped (R314). -/
def State.clearSlots (s : State) (c : Nat) : State :=
  let now := (s.coreAt c).run.next.map (·.2)
  each ((octCores (octOf c)).filter (fun d => (s.coreAt d).run.next.map (·.2) == now)) s (fun s d => s.unmapAll d)

/-- Map the slots a record asks for, as WMAP would (R152, R314); a slot for which no well is FREE stays unmapped. -/
def State.mapSlots (s : State) (c : Nat) (r : NodeRec) : State :=
  let s := each (List.range 8) s (fun s slot => s.resetExpect c slot)
  let asked := (List.range 8).filter (fun k => r.wells / 2 ^ k % 2 == 1 && !(r.ring && k == r.rslot))
  let s := each asked s (fun s slot => match s.pickWell c with | some w => s.mapSlot c slot w 0 false | none => s)
  if r.ring then (match s.pickWell c with | some w => s.mapSlot c r.rslot w 3 false | none => s) else s

/-- A PINNED launch has a core in the row: the row stays at DUTY 16, the cores of other launches from their next window
boundary, and the octet's pounce ends (R365; log 72). -/
def State.pinRow (s : State) (c : Nat) : State :=
  let row := rowOf c
  let die := dieOf c
  let mine (e : Nat × Nat × Nat) : Bool := e.1 == row && e.2.1 == die
  let s := s.modRow die row (fun x => { x with duty := 16 })
  let s := { s with gov := { s.gov with raises := s.gov.raises.filter (fun e => !mine e), falls := s.gov.falls.filter (fun e => !mine e) } }
  let s : State := each ((s.cores.filter (fun e => e.1 != c && rowOf e.1 == row && dieOf e.1 == die)).map (·.1)) s (fun s d =>
    if (s.coreAt d).fduty.written.1 = 16 then s else s.modDuty d (fun f => { f with newDuty := some 16 }))
  let o := s.oct (octOf c)
  if o.level = 0 then s else s.modOct (octOf c) (fun o => o.setLevel s.now 0)

/-- LAUNCH_START (R314): the core starts its part of the launch that woke it; a declared step above RATE is a RAMP
before ENTRY issues, counted once for the launch (R365). Of a launch that is being pre-empted it leaves at once (R326). -/
def execLaunchStart (c : Nat) (s : State) : Result :=
  .next (match (s.coreAt c).run.next with
    | none => s
    | some (n, _) =>
      let x := s.node n
      let r := x.rec_
      if x.st ≠ .running ∧ x.st ≠ .draining then s.modCore c (fun y => { y with run := { y.run with next := none } })
      else
        let s := (s.clearSlots c).modCore c (fun y => y.launched n r x.seq (x.st == .draining) (s.stepOf c))
        let s := (s.mapSlots c r).acquire c .sys
        let s := if r.pinned then s.pinRow c else s
        let s := if r.pinned && decide (s.rate < r.pstep) then
            let s := s.modCore c (fun y => { y with run := { y.run with ramp := some (w64 (0x12 + r.pstep * 65536)) } })
            if x.viol then s
            else ({ s with gov := { s.gov with stat := setBits s.gov.stat 15 0 (bits s.gov.stat 15 0 + 1) } }.modNode n (fun y => { y with viol := true }))
          else s
        s.beginAt c 0 (lineOf r.entry) true)

/-! ### Ageing and pre-emption (R322, R326, R327) -/

/-- AGE_EXPIRY (R322). -/
def execAgeExpiry (n : Nat) (s : State) : Result :=
  .next (s.modNode n (fun x => if x.waits then { x with level := x.level - 1, agedAt := s.now } else x))

/-- PREEMPT_MESSAGE (R326): the launch's units are held and its cores switch out; one already free is recorded as such. -/
def execPreemptMessage (n : Nat) (s : State) : Result :=
  .next (
    let x := s.node n
    if x.st ≠ .running || x.rec_.nopreempt then s
    else
      let s := (s.modNode n (fun x => { x with st := .draining })).holdUnits n true
      each x.rec_.cores s (fun s c =>
        let y := s.coreAt c
        if y.run.node = some n then ((s.drawSwitch c).modCore c (fun y => { y with run := { y.run with preempt := true }, powered := true }))
        else s))

/-- PDELAY_EXPIRY (R322): the pre-empt message is sent to the launches that still stand in the way. -/
def execPdelayExpiry (n : Nat) (s : State) : Result :=
  .next (
    let s := s.modNode n (fun x => { x with pdelay := false })
    if !(s.node n).waits then s else each (s.blockers n) s (fun s m => s.push (.preemptMessage m)))

/-- XMAXLEN_EXPIRY (R327): the launch is terminated and its work discarded. -/
def execXmaxlenExpiry (n : Nat) (s : State) : Result :=
  .next (
    if (s.node n).st ≠ .draining then s
    else
      let cs := (s.cores.filter (fun e => e.2.run.node == some n)).map (·.1)
      let s := each cs s (fun s c => (s.freeCore c).modCache c (fun x => { x with cbuf := [] }))
      (s.holdUnits n false).nodeFail n)

end Sys2Proof.Machine
end

