-- ==== Sys2Proof/Machine/Governor.lean ====
section
/-!
DEFINITION. The load-step governor, the budget controllers, pounce, power switches and the droop table
(spec/18 R358 to R370). The estimate of power is a free value at each slot: no rule derives it from activity (R358).
-/
namespace Sys2Proof.Machine

/-! ### Duty (R361, R366) -/

/-- Whether a core's clock runs: powered, and not stopped under PARK, which waits for the queues (R26, R121). -/
def Core.clockRuns (x : Core) : Bool := x.powered && !(x.parked && x.vec.queue.isEmpty && x.mat.queue.isEmpty)

/-- The listed cores of a voltage row. -/
def State.rowListed (s : State) (row die : Nat) : List Nat := (s.cores.filter (fun e => rowOf e.1 == row && dieOf e.1 == die)).map (·.1)
/-- Whether a PINNED launch runs in a row, which then stays at DUTY 16 (R365). -/
def State.rowPinned (s : State) (row die : Nat) : Bool := (s.rowListed row die).any (fun c => (s.recOf c).pinned)
/-- The cores of a voltage row that gating reaches (R365). -/
def State.gated (s : State) (row die : Nat) : List Nat := if s.rowPinned row die then [] else s.rowListed row die
/-- Write a row's DUTY: it takes effect at each core's next window boundary (R28). -/
def State.writeDuty (s : State) (row die d : Nat) : State :=
  each (s.gated row die) (s.modRow die row (fun x => { x with duty := d })) (fun s c => s.modDuty c (fun f => { f with newDuty := some d }))
/-- What is outstanding without a row's part. -/
def withoutRow (row die : Nat) (l : List (Nat × Nat × Nat)) : List (Nat × Nat × Nat) := l.filter (fun e => !(e.1 == row && e.2.1 == die))
/-- A controller's write of a row's DUTY: a fall, or the value that stands, at once, a rise through the slots; it replaces
what is outstanding (R361). A row of a PINNED launch takes none (R365). -/
def State.setDuty (s : State) (row die d : Nat) : State :=
  if s.rowPinned row die then s
  else
    let rest := withoutRow row die s.gov.raises
    let old := ((s.die die).row row).duty
    let s := { s with gov := { s.gov with raises := if old < d then rest ++ [(row, die, d)] else rest, falls := withoutRow row die s.gov.falls } }
    if d ≤ old then s.writeDuty row die d else s

/-- The slot of the step. -/
def State.slotNow (s : State) : Nat := s.slotAt s.now
/-- Serve the raises in increasing row number: each gets as many sixteenths as the slot's allowance can take (R361). -/
def State.serveRaises (s : State) : State :=
  let slot := s.slotNow
  let due := sortBy (fun a b => decide (a.1 < b.1) || (a.1 == b.1 && decide (a.2.1 ≤ b.2.1))) s.gov.raises
  each due s (fun s (row, die, want) =>
    let old := ((s.die die).row row).duty
    let n := min (want - old) (s.slotLeft slot / max 1 s.rowp)
    if n = 0 then s
    else
      let s := { s with gov := { s.gov with
        used := smod 0 s.gov.used slot (· + s.rowp * n)
        raises := if old + n = want then withoutRow row die s.gov.raises else s.gov.raises } }
      s.writeDuty row die (old + n))

/-- Serve the falls of hot dies in increasing row number: in a slot their rows fall by RATE in all (R413). -/
def State.serveFalls (s : State) : State :=
  let due := sortBy (fun a b => decide (a.1 < b.1) || (a.1 == b.1 && decide (a.2.1 ≤ b.2.1))) s.gov.falls
  (each due (s, s.rate * 1600) (fun (s, left) (row, die, want) =>
    let old := ((s.die die).row row).duty
    let n := min (old - want) (left / max 1 s.rowp)
    let s := if old - n ≤ want then { s with gov := { s.gov with falls := withoutRow row die s.gov.falls } } else s
    (if n = 0 then s else s.writeDuty row die (old - n), left - s.rowp * n))).1

/-! ### Slot boundaries (R358, R362, R363, R365) -/

/-- The change of two numbers, and whether it is beyond RATE. -/
def State.beyond (s : State) (a b : Nat) : Bool := decide (s.rate < max a b - min a b)

/-- A measured RAMP in every core of a PINNED launch; it counts once in VIOL (R365). -/
def State.rampAll (s : State) (n change : Nat) : State :=
  let x := s.node n
  let word := w64 (0x12 + change * 65536 + 2 ^ 48)
  let s := each x.rec_.cores s (fun s c =>
    if (s.coreAt c).run.node = some n then s.modCore c (fun y => { y with run := { y.run with ramp := some word } }) else s)
  if x.viol then s
  else ({ s with gov := { s.gov with stat := setBits s.gov.stat 15 0 (bits s.gov.stat 15 0 + 1) } }).modNode n (fun y => { y with viol := true })

/-- The measured check of every running PINNED launch, and whether one faulted (R365). -/
def State.measure (s : State) (slot : Nat) : State × Bool :=
  each (s.sched.nodes.filter (fun e => e.2.st == .running && e.2.rec_.pinned)) (s, false) (fun (s, hit) (n, x) =>
    let v := Config.launchEstimate n slot
    let s := s.modNode n (fun y => { y with est := some v })
    match x.est with
    | some o => if s.beyond o v then (s.rampAll n (max o v - min o v), true) else (s, hit)
    | none => (s, hit))

/-- Pounce begins in one idle half of each octet of a list (R363). -/
def State.pounceIn (s : State) (os : List Nat) : State :=
  each os s (fun s o => if (s.oct o).level < 2 ∧ s.mayPounce o then s.modOct o (fun x => x.setLevel s.now (x.level + 1)) else s)

/-- The idle halves among some octets that do not pounce, least worn first, each by its octet (R363). -/
def State.idleHalves (s : State) (os : List Nat) : List Nat :=
  let half (o h : Nat) : List (Nat × Nat) :=
    let x := s.oct o
    if !s.mayPounce o || x.halfBusy s.now h || x.pouncing s.now h then [] else [(sget 0 x.wear h, o)]
  (sortBy (fun a b => decide (a.1 ≤ b.1)) (os.flatMap (fun o => half o 0 ++ half o 1))).map (·.2)

/-- How many halves must pounce to make up an excess, in sixteenths of 10 mW. -/
def halvesFor (excess : Nat) : Nat := (excess + Config.pouncePower) / (1 + Config.pouncePower)

/-- Octets with a member that waits at an exchange barrier, and the rows whose gated or divided members FORCED will
raise (R363). -/
def State.xbarWait (s : State) : List Nat × List (Nat × Nat) :=
  let is := (s.insts.filter (fun e => (e.2.unit 31).mem.any (fun m => m.2.f))).map (fun e => (e.2.unit 31))
  let low (c : Nat) : Bool := let f := (s.coreAt c).fduty; !f.forced && (f.duty != 16 || f.div != 0)
  (((is.flatMap (fun u => (u.mem.filter (fun m => m.2.f)).map (·.1))).map octOf).eraseDups,
   ((is.flatMap (fun u => u.members.filter low)).map (fun c => (rowOf c, dieOf c))).eraseDups)

/-- The governor's forecasts raise pounce in further idle halves, for a fall beyond RATE and before an exchange release
(R363); below PFLOOR every level is 0 (R362). -/
def State.forecast (s : State) (slot : Nat) : State :=
  if s.belowFloor then { s with octets := sall s.octets (fun o => if o.level = 0 then o else o.setLevel s.now 0) }
  else
    let fall := Config.forecastFall slot * 1600 - s.rate * 1600
    let s := s.pounceIn ((s.idleHalves (List.range 3840)).take (halvesFor fall))
    let (os, rows) := s.xbarWait
    let rise := rows.length * s.rowp * 16 - s.rate * 1600
    if rise = 0 then s else s.pounceIn ((s.idleHalves os).take (min (halvesFor rise) (s.rate * 1600 / (1 + Config.pouncePower))))

/-- The estimate of a slot: free, and within RATE of the slot before, unless a PINNED launch or a release has stepped
beyond it (R358, R363). -/
def State.estimate (s : State) (slot was : Nat) (free : Bool) : Nat :=
  let est := Config.powerEstimate slot % 65536
  if free then est else max (was - s.rate) (min (was + s.rate) est)

/-- RAMP_SLOT_BOUNDARY (R358): GOVCFG takes effect, the estimate is formed, the launches are measured, the forecast is
made and the slot's allowance is granted. -/
def execRampSlotBoundary (s : State) : Result :=
  .next (
    let slot := s.slotNow
    let s := { s with gov := { s.gov with eff := s.gov.cfg, used := s.gov.used.filter (fun e => decide (slot ≤ e.1)) } }
    let was := bits s.gov.stat 63 48
    let (s, hit) := s.measure slot
    let est := s.estimate slot was (s.gov.loose || hit) % 65536
    let crossed := bits s.gov.stat 31 16 + (if s.beyond was est && !hit then 1 else 0)
    let stat := setBits (setBits (setBits s.gov.stat 63 48 est) 47 32 (est + 65536 - was)) 31 16 crossed
    let s := { s with gov := { s.gov with stat := stat, loose := false } }
    (s.forecast slot).serveRaises.serveFalls)

/-- DECAY (R359). -/
def State.decay (s : State) : Nat := bits s.gov.eff 19 18
/-- POUNCE_LEVEL_DECAY (R362): a level that has stood for 700 steps falls by DECAY, which draws on the slot (R360). -/
def execPounceLevelDecay (oct : Nat) (s : State) : Result :=
  .next (
    let o := s.oct oct
    if o.level = 0 ∨ s.now - o.levelAt < 700 then s
    else
      let n := min o.level s.decay
      { s with gov := { s.gov with used := smod 0 s.gov.used s.slotNow (· + n * Config.pouncePower) } }.modOct oct (fun o => o.setLevel s.now (o.level - s.decay)))

/-! ### The budget controllers (R366) -/

/-- 24 divided by a core's divider. -/
def Core.share24 (x : Core) : Nat := 24 / divOf x.fduty.div
/-- The demand of a row in ROWP ÷ 384: its cores with context 0 LIVE that are not parked. -/
def State.demand (s : State) (row die : Nat) : Nat :=
  ((s.cores.filter (fun e => rowOf e.1 == row && dieOf e.1 == die && !e.2.parked && (e.2.ctxAt 0).st == .live)).map (fun e => e.2.share24)).sum
/-- Rows with a listed core, or with something of their own that is listed. -/
def State.rowsListed (s : State) : List (Nat × Nat) :=
  (s.cores.map (fun e => (rowOf e.1, dieOf e.1)) ++ s.dies.flatMap (fun d => d.2.rows.map (fun r => (r.1, d.1)))).eraseDups

/-- BUDGET_CONTROLLER_PASS (R366): each row's share of what the fixed part of the estimate leaves of BUDGET; the raises it
asks for are served from what the slot still allows (R361). -/
def execBudgetControllerPass (s : State) : Result :=
  .next (
    let free := bits s.gov.eff 63 48 - Config.fixedPower s.slotNow
    let rows := s.rowsListed.map (fun (row, die) => (row, die, s.demand row die))
    let all := (rows.map (fun e => e.2.2)).sum
    let duty := min 16 (max 1 (16 * 100 * free * 384 / (max 1 s.rowp * max 1 all)))
    (each rows s (fun s (row, die, dem) => s.setDuty row die (if dem = 0 then 16 else duty))).serveRaises)

/-! ### Power switches and voltage (R367) -/

/-- Whether a core's power switch may turn it off: no launch, no wake outstanding and no LIVE context (R367). -/
def Core.switchable (x : Core) : Bool :=
  x.run.node.isNone && x.run.next.isNone && !x.fduty.forced && x.ctxs.all (fun e => e.2.st != .live)
/-- POWER_SWITCH_OFF (R367): SRAM and registers keep their contents. -/
def execPowerSwitchOff (c : Nat) (s : State) : Result :=
  .next (if (s.coreAt c).switchable && decide (7000 ≤ s.now - (s.coreAt c).idleSince) then s.modCore c (fun x => { x with powered := false }) else s)

/-- Whether a core runs at ÷2 or slower and is not on its way to ÷1 (R367). -/
def Core.slow (x : Core) : Bool := x.fduty.div != 0 && !x.fduty.forced && x.fduty.goal != 0
/-- The sixteen cores of a row. -/
def rowCores (row die : Nat) : List Nat := (List.range 16).map (1920 * die + 16 * row + ·)
/-- LOWV of a row as it should stand (R367, R370). -/
def State.lowNow (s : State) (row die : Nat) : Bool :=
  ((s.die die).row row).wantLow && (rowCores row die).all (fun c => (s.coreAt c).slow)

/-! ### The droop table (R368) -/

/-- The activity of a row in a step: scalar issue, vector groups busy, matrix halves busy, loads waiting. -/
def State.activity (s : State) (row die : Nat) : BitVec 32 :=
  let cs := rowCores row die
  let vec := cs.any (fun c => (s.coreAt c).vec.queue.any (fun e => e.fin.isSome))
  let mat := [0, 1].any (fun o => [0, 1].any (fun h => (s.oct (240 * die + 2 * row + o)).halfBusy s.now h))
  let loads := cs.any (fun c => (s.coreAt c).ctxs.any (fun e => e.2.page.isSome))
  BitVec.ofNat 32 ((cs.any (fun c => (s.coreAt c).issued)).toNat + vec.toNat * 2 + mat.toNat * 4 + loads.toNat * 8)

/-- The row's signature takes a step's activity, and LOWV its value; a match in a pre-throttle still counts as the
entry's latest. -/
def State.rowStep (s : State) (row die : Nat) : State :=
  let v := s.activity row die
  let low := s.lowNow row die
  s.modRow die row (fun x =>
    let sig := x.sig <<< 4 ||| v
    { x with sig := sig, rowpwr := setBits x.rowpwr 0 0 low.toNat
             table := if x.thrAt.isSome && x.table.contains sig then sig :: x.table.filter (· != sig) else x.table })

/-- DROOP_EVENT (R368): the signature is entered in the table, in place of the entry least recently matched. -/
def execDroopEvent (die row : Nat) (s : State) : Result :=
  .next (s.modRow die row (fun x =>
    { x with rowpwr := setBits x.rowpwr 47 32 (bits x.rowpwr 47 32 + 1)
             table := if x.table.contains x.sig then x.table else (x.sig :: x.table).take 32 }))

/-- Whether a row's signature equals an entry and it is not yet pre-throttled. -/
def Row.matched (x : Row) : Bool := x.thrAt.isNone && x.table.contains x.sig
/-- PRETHROTTLE_START (R368): 256 cycles of each core begin; the table keeps the latest match first. -/
def execPrethrottleStart (die row : Nat) (s : State) : Result :=
  .next ((each (s.rowListed row die) s (fun s c => s.modCore c (fun x => { x with thr := 256 }))).modRow die row (fun x =>
    { x with thrAt := some s.now, rowpwr := setBits (setBits x.rowpwr 63 48 (bits x.rowpwr 63 48 + 1)) 1 1 1
             table := if x.table.contains x.sig then x.sig :: x.table.filter (· != x.sig) else x.table }))

/-- Whether a core is pre-throttled: within its own 256 cycles, and not FORCED (R274, R368). -/
def State.throttled (s : State) (c : Nat) : Bool :=
  !(s.coreAt c).fduty.forced && decide (0 < (s.coreAt c).thr)
/-- Whether the 256 cycles of every core of a row have run; a clock that stands still holds the row back no longer. -/
def State.throttleOver (s : State) (row die : Nat) : Bool :=
  ((s.die die).row row).thrAt.isSome && (s.rowListed row die).all (fun c => (s.coreAt c).thr == 0 || !(s.coreAt c).clockRuns)
/-- PRETHROTTLE_END (R368). -/
def execPrethrottleEnd (die row : Nat) (s : State) : Result :=
  .next (s.modRow die row (fun x => { x with thrAt := none, rowpwr := setBits x.rowpwr 1 1 0 }))

/-! ### Temperature (R413) -/

/-- DIE_THROTTLE (R413): the controllers lower the die's duty, to a free value, slot by slot as a fall within RATE. -/
def execDieThrottle (die : Nat) (s : State) : Result :=
  .next (
    let d := 1 + Config.throttleDuty s.fresh % 16
    let rows := s.rowsListed.filter (fun e => e.2 == die && !s.rowPinned e.1 e.2 && decide (d < ((s.die e.2).row e.1).duty))
    each rows s.tick1 (fun s (row, die) => { s with gov := { s.gov with
      raises := withoutRow row die s.gov.raises, falls := withoutRow row die s.gov.falls ++ [(row, die, d)] } }))

end Sys2Proof.Machine
end

