-- ==== Sys2Proof/Machine/Reliability.lean ====
section
/-!
DEFINITION. Faults and repair: device-level faults, background work, named failures and their recovery, die trips, and
soft errors (spec/19 R374 to R393; spec/21 R413).
-/
namespace Sys2Proof.Machine

/-- DEVICE_LEVEL_FAULT (R380, R381). -/
def execDeviceLevelFault (cid kind : Nat) (addr : Word) (core : Nat) (ecause : Word) (s : State) : Result :=
  .next (s.deviceFault cid kind addr core ecause)

/-! ### Background work (R388) -/

/-- Whether a phase is open on a die, so that its background work pauses (R276). -/
def State.phaseOpen (s : State) (die : Nat) : Bool := s.cores.any (fun e => dieOf e.1 == die && e.2.run.node.isSome && e.2.xch.xtag.getLsbD 8)

/-- Steps in 24 hours (R388). -/
def scrubDay : Nat := 60480000000000
/-- Progress of the scrub pass. A pass has ended when the progress falls; SCRUBLATE says whether it took more than 24 hours
(R388, R393). -/
def State.notePass (s : State) (die : Nat) : State :=
  let p := Config.scrubPass s.fresh % 65536
  s.tick1.modDie die (fun d =>
    let r := d.rasstat
    let ended := decide (p < bits r 15 0)
    let late := decide (scrubDay < s.now - d.passAt)
    { d with rasstat := setBits (if ended then setBits r 16 16 late.toNat else r) 15 0 p, passAt := if ended then s.now else d.passAt })

/-- The scrub of a word of a code-protected memory: what its errors leave, and whether one is uncorrectable. -/
def eccScrub (m : Memory) (e : Ecc) (a : Nat) : EccOut := eccRead m e (a / 8 * 8) 8
/-- A scrub of what belongs to a core finds errors, counted in its ECCSTAT (R379), an uncorrectable one told to the host
(R376). -/
def State.scrubbed (s : State) (c src corr unc : Nat) (a : Word) : State :=
  let s := s.modCore c (fun x => x.countEcc s.now corr unc src)
  if unc = 0 then s else s.faultRecord 12 0 a c 0
/-- The global address of a line of a first level, over 32, that lies in some word. -/
def sectorOf (a : Word) : Nat := a.toNat / 32

/-- The die whose background work reads a target (R276, R388): none of a target that has no code. -/
def State.scrubDie (s : State) (t : ErrTarget) : Option Nat :=
  match t with
  | .tcm c _ | .greg c _ _ | .vreg c _ | .queue c _ _ | .pcq c _ | .latch c _ | .l1data c _ | .l1tag c _ | .obb c _ | .polyTable c => some (dieOf c)
  | .well o _ _ | .tag o _ _ => some (o / 240)
  | .slice a | .sliceTag a | .ownerTag a | .pinTable a => (s.homeOf (idOf a) (offOf a)).map (·.die)
  | .gateway d _ _ | .hbm d _ | .translation d _ _ _ => some d
  | _ => none

/-- PATROL_SCRUB (R388): reads a word of an SRAM or of HBM: single bits are corrected, and an uncorrectable word is poisoned
or has the fate of R385; nobody is faulted, but by R377, and the host is told (R376). It pauses while a phase is open on the
die (R276). The errors of a core's own entries are met as by any read (R375, R377). -/
def State.scrub (s : State) (t : ErrTarget) : State :=
  match t with
  | .tcm c la =>
    let o := eccScrub (s.coreAt c).loc.tcm (s.coreAt c).loc.ecc la
    (s.modLoc c (fun l => { l with tcm := o.mem, ecc := o.ecc })).scrubbed c 1 o.corr o.unc (aliasAddr c (la / 8 * 8))
  | .well o w off =>
    let v := (s.oct o).well w
    let r := eccScrub v.data v.ecc off
    let s := s.modOct o (fun x => x.modWell w (fun v => { v with data := r.mem, ecc := r.ecc }))
    -- a well no core maps has no address of its own
    let at_ := (octCores o).findSome? (fun c => ((List.range 8).find? (fun k =>
      let b := (s.coreAt c).bankmap k; bankV b && bankWell b == w)).map (fun k => (c, slotBase k + off / 8 * 8)))
    if r.unc = 0 then s
    else match at_ with
      | some (c, la) => s.faultRecord 12 0 (aliasAddr c la) c 0
      | none => s.faultRecord 12 0 0 coreCount 0
  | .latch c off =>
    let o := eccScrub (s.coreAt c).mat.cur (s.coreAt c).mat.curEcc off
    (s.modCore c (fun x => { x with mat := { x.mat with cur := o.mem, curEcc := o.ecc } })).scrubbed c 9 o.corr o.unc 0
  | .l1data c a =>
    match (s.coreAt c).l1Find (sectorOf a) with
    | none => s
    | some l =>
      let r := s.l1Read c l (a.toNat % 32 / 8 * 8) 8
      if r.2.2 then r.1 else r.1.faultRecord 12 0 a c 0
  | .l1tag c a => s.l1Tags c (sectorOf a)
  | .slice a | .sliceTag a | .ownerTag a =>
    match s.homeOf (idOf a) (offOf a) with
    | none => s
    | some h =>
      match ((s.die h.die).slice h.slot).find h.set h.key with
      | none => s
      | some l =>
        let o := eccRead l.data l.ecc (offOf a % 256 / 8 * 8) 8
        if o.unc > 0 || l.tagged then s.badLine h l o.found coreCount else s.putLine h { l with data := o.mem, ecc := o.ecc }
  | .hbm die fa =>
    let (s, o) := s.hbmRead (die * 2 ^ 37 + fa / 8 * 8) 8
    if o.bad.isEmpty then s else s.faultRecord 12 0 (w64 (die * 2 ^ 37 + fa / 8 * 8)) coreCount 0
  | .tag o w tile => s.modOct o (fun x => x.modWell w (fun v => { v with tagErr := sdel v.tagErr tile }))
  | .pcq c k =>
    let mine := (s.coreAt c).struck.filter (fun e => e.ctx == k)
    ((s.modCore c (fun x => { x with struck := x.struck.filter (fun e => e.ctx != k) })).suffer c 7 (mine.map (·.dbl))).1
  | .greg c k r =>
    ((s.modCtx c k (fun x => { x with hurt := sdel x.hurt r })).suffer c 4 (hurtOf (s.ctxAt c k).hurt [r])).1
  | .vreg c r =>
    ((s.modCore c (fun x => { x with vec := { x.vec with hurt := sdel x.vec.hurt r } })).suffer c 5 (hurtOf (s.coreAt c).vec.hurt [r])).1
  | .polyTable c =>
    ((s.modCore c (fun x => { x with vec := { x.vec with tableHurt := none } })).suffer c 0 (s.coreAt c).vec.tableHurt.toList).1
  | .obb c id => if (s.coreAt c).cache.obb.any (fun e => e.id == id) then s.obbUse c id else s
  | .queue c _ _ =>
    let x := s.coreAt c
    let l := x.vec.queue.filterMap (·.hurt) ++ x.mat.queue.filterMap (·.hurt) ++ x.engs.filterMap (·.hurt)
    ((s.modCore c (fun x => { x with
      vec := { x.vec with queue := x.vec.queue.map (fun e => { e with hurt := none }) }
      mat := { x.mat with queue := x.mat.queue.map (fun e => { e with hurt := none }) }
      engs := x.engs.map (fun e => { e with hurt := none }) })).suffer c 6 l).1
  | _ => s

/-- PATROL_SCRUB (R388). -/
def execPatrolScrub (t : ErrTarget) (s : State) : Result :=
  .next (match s.scrubDie t with
    | none => s
    | some d => if s.phaseOpen d then s else (s.scrub t).notePass d)

/-- The dies at the ends of a link. -/
def linkDies (l : LinkId) : List Nat := match l with | .router d _ _ => [d] | .dieLink a b => [a, b] | .eth d _ => [d]
/-- LINK_RECALIBRATION (R388): the link keeps carrying traffic on a spare lane; it is put off while a phase is open on a die
at its ends (R276). -/
def execLinkRecalibration (l : LinkId) (s : State) : Result :=
  .next (if (linkDies l).any s.phaseOpen then s.after 1 (.linkRecalibration l) else s)
/-- HBM_RECALIBRATION (R388): between bursts, and put off likewise (R276). -/
def execHbmRecalibration (die stack : Nat) (s : State) : Result :=
  .next (if s.phaseOpen die then s.after 1 (.hbmRecalibration die stack) else s)
/-- TELEMETRY (R388, R404): a record to every connection in the version that it is sent, whose contents are free. -/
def execTelemetry (s : State) : Result :=
  .next (each s.conns s (fun s c => s.tick1.tell (.telemetry c.id c.tele (Config.telemetry s.fresh))))

/-! ### Named failures (R389) -/

/-- Steps from a link's own timeout until the part at its silent end would have been named. -/
def linkWait (l : LinkId) : Nat := match l with | .router .. => 14000 - 1400 | .dieLink .. => 140000 - 1400 | .eth .. => 1400000 - 1400
/-- A link as a record's component: the die and the router or link. -/
def linkAddr (l : LinkId) : Word :=
  match l with
  | .router d a b => w64 (d % 256 * 256 + min a b % 256)
  | .dieLink a b => w64 (min a b % 256 * 256 + max a b % 256)
  | .eth d _ => w64 (d % 256 * 256 + 255)

/-- LINK_TIMEOUT (R389): the link stops carrying traffic and its failure is pending; a link named LINK carries none. -/
def execLinkTimeout (l : LinkId) (s : State) : Result :=
  .next (
    if s.pendingLinks.contains l || s.deadLinks.contains l then s
    else ({ s with pendingLinks := s.pendingLinks ++ [l] }).after (linkWait l) (.linkFailureNamed l))

/-- Whether every link of a die has been named LINK (R406). -/
def State.cutOff (s : State) (die : Nat) : Bool :=
  decide (6 ≤ s.deadLinks.length) && (dieLinks.filter (fun l => l.1 == die || l.2 == die)).all (fun l =>
    s.deadLinks.contains (.dieLink l.1 l.2) || s.deadLinks.contains (.dieLink l.2 l.1))

/-- LINK_FAILURE_NAMED (R389): no job context takes a fault; the edge sets are recomputed without the link. A die all of
whose links have failed is named DIE (R406). -/
def execLinkFailureNamed (l : LinkId) (s : State) : Result :=
  .next (
    if !s.pendingLinks.contains l then s
    else
      let i : Inst := match l with | .router d _ _ => ⟨.die, d⟩ | .dieLink .. => ⟨.pkg, 0⟩ | .eth .. => ⟨.pod, 0⟩
      let t := { s with pendingLinks := s.pendingLinks.filter (· != l), deadLinks := s.deadLinks ++ [l] }.faultRecord 7 0 (linkAddr l) coreCount 0
      let ends := match l with | .dieLink a b => [a, b] | _ => []
      each (ends.filter t.cutOff) (t.edgesFrom s i) (fun s d => s.push (.dieTimeout d)))

/-- Job contexts with a launch, running, draining or saved, that a test on its record picks. -/
def State.cidsWith (s : State) (p : NodeRec → Bool) : List Nat :=
  ((s.sched.nodes.filter (fun e => (e.2.st == .running || e.2.st == .draining || e.2.st == .saved) && p e.2.rec_)).map
    (fun e => e.2.rec_.cid)).eraseDups
/-- Fail each of the contexts with a named failure; the record stands even when there is none (R382, R389). -/
def State.nameFailure (s : State) (kind : Nat) (addr : Word) (cids : List Nat) : State :=
  if cids.isEmpty then s.faultRecord kind 0 addr coreCount 0
  else each cids s (fun s c => s.failCid c kind addr coreCount)

/-- A die is named DIE (R389). -/
def State.nameDie (s : State) (die : Nat) : State :=
  if (s.die die).named then s
  else
    let here := s.cidsWith (fun r => r.cores.any (fun c => dieOf c == die))
    let homed := ((s.die die).domcids.flatMap (·.2)) ++ (s.objs.filter (fun e => e.2.die == die && e.2.priv)).map (fun e => e.2.owncid)
    let t := s.modDie die (fun d => { d with named := true })
    let t := { t with pendingLinks := t.pendingLinks.filter (fun l => !(linkDies l).contains die) }
    (t.edgesFrom s ⟨.pkg, 0⟩).nameFailure 9 (w64 (die * 256)) (here ++ homed).eraseDups

/-- ROUTER_TIMEOUT (R389, R392): the octet becomes holes, the slice leaves its domain, timetables placed for the old
routes fail, and new routes are due. -/
def execRouterTimeout (die r : Nat) (s : State) : Result :=
  .next (
    if (s.die die).deadRouters.contains r then s
    else
      let a := w64 (die * 256 + r)
      let s := s.modDie die (fun d =>
        { d with deadRouters := d.deadRouters ++ [r], xhold := true
                 rasstat := setBits d.rasstat 31 24 (bits d.rasstat 31 24 + 1) })
      let s := { s with pendingLinks := s.pendingLinks.filter (fun l => match l with
        | .router d x y => !(d == die && (x == r || y == r)) | _ => true) }
      -- one record for each context: those of the slice's domains are terminated with it (R382, R392)
      let homed := ((List.range 32).filter (fun e => decide (bits ((s.die die).mask e) 19 16 = r / 16) && ((s.die die).mask e).getLsbD (r % 16))).flatMap
        (fun e => sget [] (s.die die).domcids e)
      let cids := (s.cidsWith (fun q => q.cores.any (fun c => dieOf c == die && (routerOf c == r || q.xb)))).filter (fun c => !homed.contains c)
      let s := (if cids.isEmpty && !homed.isEmpty then s else s.nameFailure 8 a cids).removeSlice die r 136 a coreCount
      let s := s.push (.routeRecomputation die)
      if carriesPort die r then s.push (.dieTimeout die) else s)

/-- DIE_TIMEOUT (R389). -/
def execDieTimeout (die : Nat) (s : State) : Result := .next (s.nameDie die)
/-- MODULE_TIMEOUT (R389): another module of the pod is named, with every context that has a launch of POD scope; the pending
failures of Ethernet links that lead to it are absorbed. -/
def execModuleTimeout (m : Nat) (s : State) : Result :=
  .next (
    if s.podsize ≤ m || m = s.modno || s.deadMods.contains m then s
    else
      let t := { s with deadMods := s.deadMods ++ [m], pendingLinks := s.pendingLinks.filter (fun l => match l with | .eth _ p => p != m | _ => true) }
      (t.nameFailure 10 (w64 m) (t.cidsWith (fun r => r.unitsPod != 0))).edgesFrom s ⟨.pod, 0⟩)

/-- ROUTE_RECOMPUTATION (R390): waits until every phase of the die has closed, then writes new tables, which lead around what
is dead, and releases the holds; the edge sets follow. A die that cannot connect every live pair in three hops is named DIE. -/
def execRouteRecomputation (die : Nat) (s : State) : Result :=
  .next (
    if s.phaseOpen die then s.after 1 (.routeRecomputation die)
    else
      let t := s.modDie die (fun d =>
        { d.routed with xhold := false, rasstat := setBits d.rasstat 47 32 (bits d.rasstat 47 32 + 1) })
      let t := t.dieEdges s die
      if t.dieConnects die then t else t.nameDie die)

/-- DIE_TRIP (R413): the die stops at once and is named DIE. -/
def execDieTrip (die : Nat) (s : State) : Result :=
  .next (
    let s := s.nameDie die
    { s with
      cores := each (s.cores.filter (fun e => dieOf e.1 == die)) s.cores (fun m e => sput m e.1 { e.2 with powered := false })
      octets := each (s.octets.filter (fun e => e.1 / 240 == die && e.2.level != 0)) s.octets (fun m e => sput m e.1 (e.2.setLevel s.now 0))
      gov := { s.gov with loose := true } })

/-! ### Soft errors (R374, R377, R379) -/

/-- Another error strikes the entry under a key. -/
def strikeAt (m : SMap Bool) (k : Nat) (mask : BitVec 64) : SMap Bool :=
  if mask = 0 then m else (hurtMore (sfind m k) (popcount mask != 1)).elim m (sput m k)
/-- And an entry that keeps its own mark. -/
def strikeOn (old : Option Bool) (mask : BitVec 64) : Option Bool := if mask = 0 then old else hurtMore old (popcount mask != 1)
/-- An element of a list is changed. -/
def modAt {α : Type} (l : List α) (i : Nat) (f : α → α) : List α := ((List.range l.length).zip l).map (fun e => if e.1 = i then f e.2 else e.2)

/-- A resident slice line is changed where it stands. -/
def State.strikeLine (s : State) (a : Word) (f : SliceLine → SliceLine) : State :=
  match s.homeOf (idOf a) (offOf a) with
  | none => s
  | some h =>
    match ((s.die h.die).slice h.slot).find h.set h.key with
    | none => s
    | some l => s.putLine h (f l)

/-- SOFT_ERROR (R374): stored bits flip. What has a code meets the flips when it is next read (R375 to R377); tiles and
Ductus state have none (R373, R296). -/
def execSoftError (t : ErrTarget) (mask : BitVec 64) (s : State) : Result :=
  .next (match t with
    | .tcm c la => s.modLoc c (fun l => { l with ecc := eccFlip l.ecc la mask })
    | .well o w off => s.modOct o (fun x => x.modWell w (fun v => { v with ecc := eccFlip v.ecc off mask }))
    | .slice a => s.strikeLine a (fun l => { l with ecc := eccFlip l.ecc (offOf a % 256) mask })
    -- a single bit is corrected; of more the next read of the line learns (R385)
    | .sliceTag a => if popcount mask ≤ 1 then s else s.strikeLine a (fun l => { l with tagBad := true })
    | .ownerTag a => if popcount mask ≤ 1 then s else s.strikeLine a (fun l => { l with ownBad := true })
    -- a gateway line is never dirty: it is dropped, and the request goes on to the home (R353)
    | .gateway d p a => if popcount mask ≤ 1 then s else s.modGate d p (fun g => g.filter (fun l => l.key != a.toNat / 256))
    -- the stored repair map fails its check, and the next start is cold (R410)
    | .repairMap => if popcount mask ≤ 1 then s else { s with boot := { s.boot with repairBad := true } }
    | .hbm die fa => { s with hbmEcc := eccFlip s.hbmEcc (die * 2 ^ 37 + fa) mask }
    | .latch c off => s.modCore c (fun x => { x with mat := { x.mat with curEcc := eccFlip x.mat.curEcc off mask } })
    | .greg c k r => if r = 0 then s else s.modCtx c k (fun x => { x with hurt := strikeAt x.hurt r mask })
    | .vreg c r => s.modCore c (fun x => { x with vec := { x.vec with hurt := strikeAt x.vec.hurt r mask } })
    | .queue c which place => s.modCore c (fun x =>
      match which with
      | 0 => { x with vec := { x.vec with queue := modAt x.vec.queue place (fun e => { e with hurt := strikeOn e.hurt mask }) } }
      | 1 => { x with mat := { x.mat with queue := modAt x.mat.queue place (fun e => { e with hurt := strikeOn e.hurt mask }) } }
      | _ => { x with engs := modAt x.engs place (fun e => { e with hurt := strikeOn e.hurt mask }) })
    | .pcq c k => if mask = 0 then s else s.modCore c (fun x => { x with struck := x.struck ++ [{ ctx := k, dbl := popcount mask != 1 }] })
    | .obb c id => s.modCore c (fun x => { x with cache := { x.cache with
        obb := x.cache.obb.map (fun e => if e.id = id then { e with hurt := strikeOn e.hurt mask } else e) } })
    | .polyTable c => s.modCore c (fun x => { x with vec := { x.vec with tableHurt := strikeOn x.vec.tableHurt mask } })
    -- of more bits the line's pins are lost (log 73)
    | .pinTable a => if popcount mask ≤ 1 then s else match s.homeOf (idOf a) (offOf a) with
      | none => s
      | some h => match ((s.die h.die).slice h.slot).find h.set h.key with
        | none => s
        | some l => each l.pins (s.putLine h { l with pins := [] }) (fun s c => (s.charge c 6).unpinCount c)
    -- an entry that is lost is read again from the extent list (R342; log 73)
    | .translation d sl id pg => if popcount mask ≤ 1 then s else s.modSlice d sl (fun x => { x with tlb := x.tlb.filter (· != (id, pg)) })
    | .l1data c a => s.modCore c (fun x => { x with cache := { x.cache with
        lines := x.cache.lines.map (fun l => if l.addr = sectorOf a then { l with ecc := eccFlip l.ecc (a.toNat % 32) mask } else l) } })
    | .l1tag c a => s.modCore c (fun x => { x with cache := { x.cache with
        lines := x.cache.lines.map (fun l => if l.addr = sectorOf a then { l with tagHurt := strikeOn l.tagHurt mask } else l) } })
    | .acc o t e => s.modOct o (fun x => x.modTile t (fun y => { y with el := sput y.el e (sget 0 y.el e ^^^ mask.setWidth 32) }))
    -- the tag of more bits reads as poisoned; the next read counts it (log 73)
    | .tag o w t => s.modOct o (fun x => x.modWell w (fun v =>
        let e := strikeAt v.tagErr t mask
        { v with tagErr := e, tags := if sfind e t = some true then sput v.tags t 0xFF else v.tags }))
    | .legit i => s.modInst i (fun d => { d with legit := d.legit ^^ mask.getLsbD 0 })
    | .genr i => s.modInst i (fun d => { d with gen := d.gen ^^^ mask.setWidth 16 })
    | .cnt i u => s.modUnit i u (fun x => { x with cnt := (x.cnt ^^^ mask.toNat) % 2 ^ 32 })
    | .ringx r n => s.modRing r (fun x => { x with x := sput x.x n ((sget 0 x.x n ^^^ mask.toNat) % 256) }))

end Sys2Proof.Machine
end

