-- ==== Sys2Proof/Machine/HostCmds.lean ====
section
/-!
DEFINITION. The host's commands and the start-up of a module (spec/21 R398 to R412; spec/16 R312, R319, R325;
spec/17 R336, R339, R354).
-/
namespace Sys2Proof

/-- The bits that R312 names in each of the sixteen words of a node record. -/
def NodeRec.named : List Word :=
  [0xFFFFFFFFFFFFFFFF, 0x7FFFFFFF, 0xFFFFFFFFFFFFFFFF, 0xFFFFFFFFFFFFFFFF, 0x070703FF, 0xFFFFFFFFFFFFFFFF, 0xFFFFFFFFFFFFFFFF,
   0x000FFFFFFFFFFFFF, 0xFFFFFFFFFFFFFFFF, 0x007FFFFFFFFFFFFF, 0x0000FFFFFFFF0FFF, 0xFFFFFFFFFFFFFFFF, 0xFFFFFFFF,
   0xFFFF1FFF, 0xFFFF1FFF, 0xFFFF1FFF]

/-- The record of 128 bytes, given as sixteen words; none where a bit that R312 does not name is 1 (R312, R399). -/
def NodeRec.ofWords (ws : List Word) : Option NodeRec :=
  let w (i : Nat) : Word := ws.getD i 0
  let f (i hi lo : Nat) : Nat := (w i).toNat / 2 ^ lo % 2 ^ (hi + 1 - lo)
  if ws.length ≠ 16 ∨ !(ws.zip NodeRec.named).all (fun p => p.1 &&& ~~~p.2 == 0) then none
  else some {
    entry := w 0, lcore0 := f 1 14 0, lcores := f 1 30 16, litems := w 2, larg := w 3
    cid := f 4 9 0, level := f 4 18 16, pinned := (w 4).getLsbD 24, priv := (w 4).getLsbD 25, nopreempt := (w 4).getLsbD 26
    carea := w 5, status := w 6, est := f 7 31 0, xlen := f 7 51 32, deadline := w 8
    unitsOct := f 9 7 0, unitsDie := f 9 23 8, unitsPkg := f 9 39 24, unitsPod := f 9 43 40
    ringsDie := f 9 51 44, ringsMod := f 9 53 52, xb := (w 9).getLsbD 54
    wells := f 10 7 0, rslot := f 10 10 8, ring := (w 10).getLsbD 11, pstep := f 10 47 16
    evecl := w 11, count := f 12 15 0, thresh := f 12 31 16
    succ := ([13, 14, 15].filter (fun i => (w i).getLsbD 12)).map (fun i => (f i 11 0, f i 31 16)) }

/-- Whether a command's header is within its limits (R399). -/
def Hdr.legal (h : Hdr) : Bool := decide (h.len ≤ 4080) && decide (h.cid ≤ 1023) && h.status == 0 && h.zero == 0

/-- Whether every field of a node record is within its limits (R312). -/
def NodeRec.legal (r : NodeRec) : Bool :=
  r.entry.toNat % 64 == 0 && decide (r.lcore0 ≤ 30719) && decide (1 ≤ r.lcores) && decide (r.lcore0 + r.lcores ≤ 30720)
    && decide (1 ≤ r.cid) && decide (r.cid ≤ 1023) && decide (r.level ≤ 7) && r.carea.toNat % 65536 == 0
    && (r.carea != 0 || r.nopreempt) && r.status.toNat % 8 == 0 && decide (r.est < 2 ^ 32) && decide (r.xlen < 2 ^ 20)
    && decide (r.unitsOct < 256) && decide (r.unitsDie < 65536) && decide (r.unitsPkg < 65536) && decide (r.unitsPod < 16)
    && decide (r.ringsDie < 256) && decide (r.ringsMod < 4) && decide (r.wells < 256) && decide (r.rslot < 8)
    && decide (r.pstep < 2 ^ 32) && decide (r.count < 65536) && decide (r.thresh < 65536)
    && decide (r.succ.length ≤ 3) && r.succ.all (fun e => decide (e.1 < 4096) && decide (e.2 < 65536))

end Sys2Proof

namespace Sys2Proof.Machine

/-! ### Answers (R398, R399) -/

/-- OK, BUSY, BADVER, BADFIELD, NOSPACE, NOTRESIDENT and UNKNOWN. -/
def stOk : Nat := 0
def stBusy : Nat := 1
def stBadVer : Nat := 2
def stBadField : Nat := 3
def stNoSpace : Nat := 4
def stNotResident : Nat := 5
def stUnknown : Nat := 6

/-- The connection a command arrives on. -/
def State.conn (s : State) (h : Hdr) : Option Conn := s.conns.find? (fun c => c.id == h.conn)

/-- The operations whose reply begins with a value of 8 bytes: ATTACH, OBJCREATE and STATREAD (log 54). -/
def valued (op st : Nat) : Bool := st == 0 && [0x01, 0x30, 0x41].contains op
/-- One reply of a command: its OP or 0x80, the connection's version, its tag and CID echoed (R399). -/
def State.reply (s : State) (h : Hdr) (op st : Nat) (v : Word) (data : List Byte) : HostMsg :=
  .reply h.conn (match s.conn h with | some c => c.ver | none => h.ver) (op ||| 0x80)
    (data.length + if valued op st then 8 else 0) h.tag h.cid st v data
/-- Send a reply: a message carries at most 4,080 bytes, and more of them follow one another (R399; log 54). -/
def State.answer (s : State) (h : Hdr) (op st : Nat) (v : Word) (data : List Byte) : State :=
  let parts := (List.range (max 1 ((data.length + 4079) / 4080))).map (fun k => (data.drop (4080 * k)).take 4080)
  { s with outbox := s.outbox ++ parts.map (s.reply h op st v) }

/-- A command of a connection begins or ends waiting. -/
def State.setWaits (s : State) (h : Hdr) (e : Option Event) : State :=
  { s with conns := s.conns.map (fun c => if c.id = h.conn then { c with waits := e, bad := false, behind := false } else c) }
/-- The object that a command acts on. -/
def hostObj (e : Event) : Option Nat :=
  match e with
  | .objresize _ o _ | .objdelete _ o | .snapshot _ o _ _ => some o
  | .memwrite _ a _ | .memread _ a _ => some (idOf a)
  | _ => none
/-- Whether a command of another connection that was accepted earlier still waits for a page of the same object (R401). -/
def State.mustFollow (s : State) (h : Hdr) (e : Event) : Bool :=
  (hostObj e).isSome && s.conns.any (fun c => c.id != h.conn && !c.behind && (match c.waits with | some w => hostObj w == hostObj e | none => false))
/-- A command waits until it may follow the others of its object. -/
def State.waitBehind (s : State) (h : Hdr) (e : Event) : State :=
  let s := s.setWaits h (some e)
  { s with conns := s.conns.map (fun (c : Conn) => if c.id = h.conn then { c with behind := true } else c) }.after 1 e

/-- A command in its turn on a connection: after the one of the connection that waits (R401). -/
def State.inTurn (s : State) (c : Conn) (h : Hdr) (e : Event) (f : State → State) : State :=
  if c.waits.isSome && c.waits != some e then s.after 1 e
  else if s.mustFollow h e then s.waitBehind h e
  else f (if c.behind then s.setWaits h none else s)

/-- A command: BADVER on a connection that has not attached or for another version, BUSY until a start completes
unless the boot ROM serves it, BADFIELD for a header beyond its limits, else in its turn its effect (R398 to R401). -/
def State.command (s : State) (h : Hdr) (op : Nat) (rom : Bool) (e : Event) (f : State → State) : State :=
  match s.conn h with
  | none => s.answer h op stBadVer 0 []
  | some c =>
    if c.ver ≠ h.ver then s.answer h op stBadVer 0 []
    else if !rom && (s.boot.stage.isSome || s.boot.off) then s.answer h op stBusy 0 []
    else if !h.legal then s.answer h op stBadField 0 []
    else s.inTurn c h e f
/-- The page of n bytes at an address whose fault reply a request waits for (R343). -/
def State.pageAwaited (s : State) (a : Word) (n : Nat) : Option Nat :=
  let first := offOf a / 65536
  ((List.range ((offOf a + n + 65535) / 65536 - first)).map (first + ·)).find? (fun pg =>
    s.dies.any (fun d => d.2.faults.any (fun f => f.obj == idOf a && f.pg == pg)))
/-- A command on n bytes waits: for the reply of their page, as one of its waiters (R343), or until it is tried again in
the next step. -/
def State.waitPage (s : State) (h : Hdr) (e : Event) (a : Word) (n : Nat) : State :=
  match s.pageAwaited a n with
  | some pg => (s.setWaits h (some e)).joinPage (idOf a) pg (.host h.conn)
  | none => (s.setWaits h (some e)).after 1 e
/-- Whether the page that a connection's command waited for was answered unresolved (R343). -/
def State.pageFailed (s : State) (h : Hdr) : Bool := match s.conn h with | some c => c.bad | none => false

/-- Whether a command's connection has negotiated a feature (R403, R404). -/
def State.feature (s : State) (h : Hdr) (n : Nat) : Bool := match s.conn h with | some c => c.feat.getLsbD n | none => false

/-- A command with a status only. -/
def State.simple (s : State) (h : Hdr) (op : Nat) (e : Event) (f : State → State × Nat) : State :=
  s.command h op false e (fun s => let r := f s; r.1.answer h op r.2 0 [])

/-! ### Attachment and attestation (R402 to R405, R412) -/

/-- The range and features that one end of an interface carries (R403). -/
structure Iface where
  min  : Nat
  max  : Nat
  feat : BitVec 32
  deriving DecidableEq, Repr

/-- What two ends agree on, given the features that each version defines; none where they refuse each other (R403). -/
def negotiate (ours theirs : Iface) (allowed : Nat → BitVec 32) : Option (Nat × BitVec 32) :=
  let v := Min.min ours.max theirs.max
  if v < Max.max ours.min theirs.min then none else some (v, ours.feat &&& theirs.feat &&& allowed v)

/-- The ranges of this generation's firmware (R404). -/
def uagerIface : Iface := { min := 1, max := 3, feat := 0x3F }
def collIface : Iface := { min := 1, max := 2, feat := 3 }
def linkIface : Iface := { min := 1, max := 1, feat := 1 }
def teleIface : Iface := { min := 1, max := 2, feat := 0 }
def podIface : Iface := { min := 1, max := 1, feat := 0 }
/-- The Uager features that a version defines (R404). -/
def allowedFeat (v : Nat) : BitVec 32 := if v = 1 then 0x0F else if v = 2 then 0x1F else 0x3F
/-- The features that a version of the collective format defines: the redo from version 2 on (R404). -/
def collAllowed (v : Nat) : BitVec 32 := if v = 1 then 1 else 3

/-- The pod's format k, as the module finds it, negotiated with what the module carries: a module takes the pod's as found
(R404). -/
def podFormat (k modno pods : Nat) (ours : Iface) (allowed : Nat → BitVec 32) : Option (Nat × BitVec 32) :=
  let f := Config.podFound k modno pods
  negotiate ours { min := f.1, max := f.1, feat := f.2 } allowed
/-- A module takes its place in a pod: the formats of the pod, or it is refused membership (R404, R405), and DUCTCFG of the
module at the root of the POD tree where that was told of other values (R295). -/
def State.joinPod (s : State) (modno pods : Nat) : State :=
  let s := { s with modno := modno, podsize := pods, attached := true, refused := false, deadMods := [],
                       podRoot := if pods ≤ 1 then none else Config.podRootCfg modno pods }
  if pods ≤ 1 then { s with collFmt := State.reset.collFmt, podCtl := State.reset.podCtl }
  else match podFormat 0 modno pods collIface collAllowed, podFormat 1 modno pods podIface (fun _ => 0) with
    | some c, some p => { s with collFmt := c, podCtl := p }
    | _, _ => { s with refused := true }
/-- An ATTACH in its turn (R398, R402 to R405). A module that the pod refuses is told so by a byte in the reply. -/
def State.attach (s : State) (h : Hdr) (vmin vmax : Nat) (feat : BitVec 32) (modno pods : Nat) : State :=
  let closed : State := { s with conns := s.conns.filter (fun c => c.id != h.conn) }
  if (s.conn h).isNone && decide (8 ≤ s.conns.length) then s.answer h 0x01 stNoSpace 0 []
  else match negotiate uagerIface { min := vmin, max := vmax, feat := feat } allowedFeat with
    | none => closed.answer h 0x01 stBadVer 0 []
    | some (v, f) =>
      if !h.legal || pods = 0 || 16384 < pods || pods ≤ modno || (s.attached && (modno != s.modno || pods != s.podsize)) then
        s.answer h 0x01 stBadField 0 []
      else
        let t := if s.attached then closed else closed.joinPod modno pods
        let tele := match negotiate teleIface { min := 1, max := if f.getLsbD 4 then 2 else 1, feat := 0 } (fun _ => 0) with
          | some r => r.1 | none => 1
        { t with conns := t.conns ++ [({ id := h.conn, ver := v, feat := f, tele := tele } : Conn)] }.answer h 0x01 stOk
          (w64 (v + f.toNat * 2 ^ 32)) (if t.refused then [1] else [])

/-- ATTACH (R398, R401 to R405). -/
def execAttach (h : Hdr) (vmin vmax : Nat) (feat : BitVec 32) (modno pods : Nat) (s : State) : Result :=
  .next (match s.conn h with
    | none => s.attach h vmin vmax feat modno pods
    | some c => s.inTurn c h (.attach h vmin vmax feat modno pods) (fun s => s.attach h vmin vmax feat modno pods))

/-- The repair map as it is hashed: die, slice, set and way of each quarantined way, one after another. -/
def State.repairCode (s : State) : Nat :=
  (s.dies.flatMap (fun d => d.2.slices.flatMap (fun sl => sl.2.quar.map (fun q => ((d.1 * 256 + sl.1) * 1024 + q.1) * 16 + q.2)))).foldl
    (fun m q => m * 2 ^ 32 + q + 1) 0

/-- ATTEST (R412): the report of the nonce, signed, with the key's certificate; the repair map only with
feature 5. -/
def execAttest (h : Hdr) (nonce : BitVec 256) (s : State) : Result :=
  .next (s.command h 0x02 true (.attest h nonce) (fun s =>
    let feat : BitVec 32 := match s.conn h with | some c => c.feat | none => 0
    let fw := Config.digest 0 (leNat s.boot.running)
    let sec := w64 ((Config.imageVersion (leNat s.boot.running)).toNat + Config.fusedVersion.toNat * 2 ^ 32)
    let repair : BitVec 512 := if feat.getLsbD 5 then Config.digest 1 s.repairCode else 0
    let uager := w64 (h.ver + feat.toNat * 2 ^ 32)
    let step := s.stepAt 0 0
    let report := nonce.toNat + 2 ^ 256 * (Config.serial.toNat + 2 ^ 128 * (fw.toNat + 2 ^ 512 *
      (sec.toNat + 2 ^ 64 * (uager.toNat + 2 ^ 64 * (repair.toNat + 2 ^ 512 * step.toNat)))))
    (s.answer h 0x02 stOk 0 []).tell
      (.attestation nonce Config.serial fw sec uager repair step (Config.signature report) Config.certificate)))

/-! ### Firmware and start-up (R408 to R411) -/

/-- Whether an image, given the result of its signature check, may run: its security version is not below the fused minimum
(R411). -/
def imageOk (sigOk : Bool) (img : List Byte) : Bool :=
  sigOk && decide (Config.fusedVersion.toNat ≤ (Config.imageVersion (leNat img)).toNat)

/-- FWLOAD (R411): the next chunk of an image, which fills the slot that is not in use; a complete one that fails its check
leaves the old slot in use. -/
def execFwload (h : Hdr) (chunk : List Byte) (last sigOk : Bool) (s : State) : Result :=
  .next (s.command h 0x03 true (.fwload h chunk last sigOk) (fun s =>
    if 4080 < chunk.length then s.answer h 0x03 stBadField 0 []
    else
      let img := s.boot.loading ++ chunk
      let b := if !last then { s.boot with loading := img }
               else if imageOk sigOk img then { s.boot with loading := [], image := img, spare := s.boot.image, off := false }
               else { s.boot with loading := [], spare := img }
      { s with boot := b }.answer h 0x03 stOk 0 []))

/-- Every launch is discarded and every node FAILED; the connections close (R409). -/
def State.discardAll (s : State) : State :=
  let s := each ((s.cores.filter (fun e => e.2.run.node.isSome || e.2.run.next.isSome)).map (·.1)) s (fun s c =>
    (s.freeCore c).modCore c (fun x => { x with run := { x.run with next := none } }))
  let s := each (s.sched.nodes.filter (fun e => e.2.st != .free)) s (fun s (n, x) =>
    if x.st == .running || x.st == .draining || x.st == .saved then s.nodeFail n else s.modNode n (fun x => { x with st := .failed }))
  { s with conns := [], attached := false, refused := false }

/-- Five seconds in steps, and ten minutes. -/
def fiveSeconds : Nat := 3500000000
def tenMinutes : Nat := 420000000000

/-- Whether the next start must be cold (R410). -/
def Boot.mustCold (b : Boot) : Bool :=
  b.repairBad || (match b.failed with | [a, _, c] => decide (c - a ≤ tenMinutes) | _ => false)

/-- START (R401, R408 to R410): the start begins at stage 1. -/
def execStart (h : Hdr) (cold : Bool) (s : State) : Result :=
  .next (match s.conn h with
    | none => s.answer h 0x04 stBadVer 0 []
    | some c =>
      if c.ver ≠ h.ver then s.answer h 0x04 stBadVer 0 []
      else if !h.legal then s.answer h 0x04 stBadField 0 []
      else if s.boot.off || (match s.boot.stage with | some k => k != 0 | none => false) then s.answer h 0x04 stBusy 0 []
      else s.inTurn c h (.start h cold) (fun s =>
        let s := s.answer h 0x04 stOk 0 []
        let b := { s.boot with stage := some 1, cold := cold || s.boot.mustCold, began := s.now }
        ({ s.discardAll with boot := b }).after fiveSeconds .startTimeout))

/-- A start has failed; the times of the last three failed warm starts are kept (R410). -/
def State.startFailed (s : State) : State :=
  { s with boot := { s.boot with
    stage := some 0
    failed := if s.boot.cold then s.boot.failed else (s.boot.failed ++ [s.now]).drop ((s.boot.failed.length + 1) - 3) } }

/-- QWAYS of a die whose slices hold so many quarantined ways (R393). -/
def qways (sls : SMap Slice) : Nat := (sls.map (fun e => e.2.quar.length)).sum

/-- The domain registers of a die on which these positions cannot be replaced by a spare one: no domain has their slices
(R341, R390). -/
def masksWithout (dead : List Nat) : SMap Word :=
  each dead [] (fun m r => sput m (r / 16) (sget (({} : Die).mask (r / 16)) m (r / 16) &&& ~~~(1#64 <<< (r % 16))))

/-- A die after the self-test of a cold start, which found ways and routers that fail: those ways are the quarantined ones,
and a dead router takes a spare position, 240 or 241, if one remains; the octets of any more stay holes (R387, R390, R408;
log 9). -/
def Die.tested (d : Die) (ways : List (Nat × Nat × Nat)) (routers : List Nat) : Die :=
  let dead := d.deadRouters ++ (routers.filter (fun r => decide (r < 242) && !d.deadRouters.contains r)).eraseDups
  let spares := [240, 241].filter (fun r => !dead.contains r)
  let holes := dead.filter (· < 240)
  let bad := (ways.filter (fun e => decide (e.1 < 240) && decide (e.2.1 < 1024) && decide (e.2.2 < 16))).eraseDups
  { d with
    deadRouters := dead.filter (240 ≤ ·) ++ spares.take holes.length ++ holes.drop spares.length
    slices := each bad (sall d.slices (fun sl => { sl with quar := [] })) (fun m e => smod {} m e.1 (fun sl =>
      { sl with quar := sl.quar ++ [e.2], sets := smod [] sl.sets e.2.1 (fun ls => ls.filter (fun l => l.way != e.2.2)) })) }

/-- A die after a cold start: its STEPs stay, its being named by this start, and what the self-test and the route stage
found (R302, R387, R408). -/
def Die.cold (d : Die) (now : Nat) : Die :=
  let sls := (d.slices.filter (fun e => e.2.quar != [])).map (fun e => (e.1, ({ quar := e.2.quar } : Slice)))
  { slices := sls, rasstat := w64 (qways sls * 2 ^ 48), stepOff := d.stepOff, named := d.named, deadRouters := d.deadRouters
    routeGen := d.routeGen, routeDead := d.routeDead, passAt := now
    hash := masksWithout (d.deadRouters.filter (· < 240) ++ (sls.filter (fun e => decide (64 < e.2.quar.length))).map (·.1)) }

/-- DUCTCFG is written: C and TIMEOUT are in force from each instance's next round, and a changed PODRLEN or PODDCAP from
the next POD round, which is unclean (R295). -/
def State.setDuctcfg (s : State) (v : Word) : State :=
  let changed := bits v 63 44 != bits s.ductcfg 63 44
  let s := { s with ductcfg := v, ductLog := (s.now, s.ductcfg) :: s.ductLog.filter (fun e => decide (s.now < e.1 + 70000)) }
  if changed then s.modInst ⟨.pod, 0⟩ (fun d => { d with spoil := true }) else s

/-- A ring after a start: TOKK at its Reset value and no hold; what Reset does not name stays (R294, R302, R409). -/
def Ring.started (r : Ring) : Ring := { r with tokk := [], run := tokkReset, pend := [], held := [] }

/-- Stage 2 of a cold start on every die (R408). -/
def State.selfTest (s : State) : State :=
  each (List.range 16) s.tick1 (fun t d => t.modDie d (fun x => x.tested (Config.badWays s.fresh d) (Config.badRouters s.fresh d)))

/-- The route stage of a start: route tables without what is dead, and new edge sets of every instance within the module
(R302, R406, R408). -/
def State.allEdges (s : State) : State :=
  each (List.range 16) (s.edgesFrom s ⟨.pkg, 0⟩) (fun t d => (t.modDie d (fun x => x.routed)).dieEdges s d)

/-- Governor and scheduler configuration at its Reset values, ROWP as the cold start measured it (R359, R409). -/
def State.confReset (s : State) : State :=
  { s.setDuctcfg State.reset.ductcfg with
    gov := { cfg := govReset, eff := govReset }, snaps := [], beats := [], past := [], occ := [], rings := sall s.rings Ring.started }

/-- A completed cold start (R408): every word zero, the object table empty, registers at their Reset values; no Ductus
state is written (R302). -/
def State.coldDone (s : State) : State :=
  { s.confReset with
    cores := [], octets := [], hbm := [], hbmEcc := {}, objs := [], pendingLinks := []
    dies := sall s.dies (fun d => d.cold s.now)
    sched := { pend := s.sched.pend }
    boot := { s.boot with stage := none, failed := [], repairBad := false, doneAt := s.now } }

/-- A core after a warm start: what counts since the cold start stays (R409). -/
def Core.warm (x : Core) (now : Nat) : Core :=
  { idleSince := now, eccstat := x.eccstat, mat := { merr := x.mat.merr } }
/-- An octet after a warm start (R373, R409). -/
def Octet.warm (o : Octet) : Octet := { wear := o.wear, pounce := o.pounce }
/-- A row after a warm start: its droop table and its counters stay (R368, R409). -/
def Row.warm (r : Row) : Row := { table := r.table, rowpwr := setBits r.rowpwr 31 0 0 }
/-- A die after a warm start: clean lines without pins, tree bits 0, QWAYS from the stored map (R349, R387, R409). -/
def Die.warm (d : Die) : Die :=
  let sls := sall d.slices (fun sl => { sl with plru := [], sets := sall sl.sets (fun ls => ls.map (fun l => { l with pins := [] })) })
  { d with slices := sls, gates := [], gplru := [], faults := [], migr := [], pinsLost := [], rows := sall d.rows Row.warm
           rasstat := setBits d.rasstat 63 48 (qways sls) }

/-- Every dirty slice line is written back, where the slice answers (R409). -/
def State.flushSlices (s : State) : State :=
  each (s.dies.flatMap (fun (n, d) => if d.named then [] else d.slices.flatMap (fun (o, sl) => sl.sets.map (fun e => (n, o, e.1))))) s
    (fun s (n, o, set) => each (((s.die n).slice o).lines set) s (fun s l =>
      match s.homeOf (l.key / 2 ^ 32) (l.key % 2 ^ 32 * 256) with
      | none => s
      | some h => s.writeBack { h with die := n, slot := o, set := set } l))

/-- A completed warm start: no pin is held after it (R352, R409). -/
def State.warmDone (s : State) : State :=
  let s := s.flushSlices.confReset
  { s with
    cores := sall s.cores (fun x => x.warm s.now), octets := sall s.octets Octet.warm, dies := sall s.dies Die.warm
    sched := { s.sched with schedcfg := State.reset.sched.schedcfg, xmaxlen := State.reset.sched.xmaxlen
                            counters := s.sched.counters.filter (fun e => e.1 % 8 != 5) }
    boot := { s.boot with stage := none, doneAt := s.now } }

/-- Link training (R406, R408): a link that fails is named LINK, and a die none of whose links trains is named DIE. The tree
nodes of the package hold what they held (R302). -/
def State.trainLinks (s : State) : State :=
  let was := s
  let s := { s with dies := sall s.dies (fun d => { d with named := false }) }
  let (s, bad) := each dieLinks (s, ([] : List (Nat × Nat))) (fun (s, bad) (a, b) =>
    let t := s.tick1
    let p := Config.linkPartner s.fresh
    let r := negotiate linkIface { min := p.1, max := p.2.1, feat := p.2.2 } (fun _ => 1)
    match (if Config.linkTrains s.fresh then r else none) with
    | some f => ({ t with linkFmt := sputD (1, 1) t.linkFmt (16 * a + b) f }, bad)
    | none => (t.faultRecord 7 0 (linkAddr (.dieLink a b)) coreCount 0, (a, b) :: bad))
  let kept := s.deadLinks.filter (fun l => match l with | .router .. => !s.boot.cold | _ => false)
  let s := { s with deadLinks := kept ++ bad.map (fun (l : Nat × Nat) => LinkId.dieLink l.1 l.2) }
  (each (List.range 16) s (fun s d => if s.cutOff d then s.nameDie d else s)).edgesFrom was ⟨.pkg, 0⟩

/-- The work of a stage before the last (R408, R409): what it does to the state, as it passes. -/
def State.stageWork (s : State) (k : Nat) : State :=
  if k = 1 then { s with boot := { s.boot with running := s.boot.image } }
  else if k = 2 && s.boot.cold then s.selfTest
  else if k = 3 then s.trainLinks
  else if k = 4 then s.allEdges
  else s

/-- START_STAGE_COMPLETE (R408 to R411): a stage has passed or failed. Where the image of stage 1 fails its check, the logic
is off. -/
def execStartStageComplete (ok : Bool) (s : State) : Result :=
  .next (match s.boot.stage with
    | some k =>
      if k = 0 then s
      else if k = 1 && !imageOk ok s.boot.image then
        let t := s.startFailed
        { t with boot := { t.boot with off := true } }
      else if !ok then s.startFailed
      else if k < 6 then let t := s.stageWork k; { t with boot := { t.boot with stage := some (k + 1) } }
      else if s.boot.cold then s.coldDone else s.warmDone
    | none => s)

/-- START_TIMEOUT (R410): the start that began 5 s ago has not completed. -/
def execStartTimeout (s : State) : Result :=
  .next (match s.boot.stage with
    | some k => if k = 0 || s.now - s.boot.began < fiveSeconds then s else s.startFailed
    | none => s)

/-- POWER_ON (R411): the boot ROM checks the image; a die whose check fails keeps its logic off. A cold start goes on
from stage 2 where the check passes. -/
def execPowerOn (sigOk : Bool) (s : State) : Result :=
  .next (
    let ok := imageOk sigOk s.boot.image
    let b := { s.boot with off := !ok, stage := some (if ok then 2 else 0), cold := true, began := s.now, loading := []
                           running := if ok then s.boot.image else [] }
    let s := { s.discardAll with boot := b }
    if ok then s.after fiveSeconds .startTimeout else s)

/-! ### Residency (R321, R325, R350) -/

/-- Whether a CID is one a host may use (R325). -/
def cidLegal (q : Nat) : Bool := decide (1 ≤ q) && decide (q ≤ 1023)

/-- CIDRES (R325). -/
def execCidres (h : Hdr) (s : State) : Result :=
  .next (s.simple h 0x10 (.cidres h) (fun s =>
    if !cidLegal h.cid then (s, stBadField)
    else if s.sched.resident.contains h.cid then (s, stOk)
    else if 64 ≤ s.sched.resident.length then (s, stNoSpace)
    else (s.modSched (fun x => { x with resident := x.resident ++ [h.cid] }), stOk)))

/-- CIDEVICT (R325, R350); of a CID that is not resident NOTRESIDENT (R399; log 71). -/
def execCidevict (h : Hdr) (s : State) : Result :=
  .next (s.simple h 0x11 (.cidevict h) (fun s =>
    if !cidLegal h.cid then (s, stBadField)
    else if !s.sched.resident.contains h.cid then (s, stNotResident)
    else if s.sched.nodes.any (fun e => e.2.rec_.cid == h.cid && (e.2.st == .running || e.2.st == .draining)) then (s, stBusy)
    else ((s.modSched (fun x => { x with resident := x.resident.filter (· != h.cid) })).releasePins h.cid, stOk)))

/-- CIDCFG (R321, R350). -/
def execCidcfg (h : Hdr) (weight quota : Nat) (s : State) : Result :=
  .next (s.simple h 0x12 (.cidcfg h weight quota) (fun s =>
    if !cidLegal h.cid || weight = 0 || 15 < weight || 2048 < quota then (s, stBadField)
    else (s.modSched (fun x => { x with weight := sput x.weight h.cid weight, quota := sput x.quota h.cid quota }), stOk)))

/-! ### Nodes (R312, R319, R327) -/

/-- The die an object lies on. -/
def State.homeDie (s : State) (a : Word) : Nat := match s.obj (idOf a) with | some o => o.die | none => 0

/-- The line that ENTRY names, as the scheduler reads it for its check (R312): from local memory through the mesh alias, else
from its home. -/
def State.entryLine (s : State) (a : Word) (cid : Nat) : State × Ans :=
  if idOf a = aliasId then
    let c := offOf a / 2 ^ 20
    if coreCount ≤ c || (s.portFault c (offOf a % 2 ^ 20) 64 false).isSome then (s, .object)
    else match s.localRead c (offOf a % 2 ^ 20) 64 with
      | (s, bs, none) => (s, .ok bs)
      | (s, _, some _) => (s, .poison)
  else s.rawRead (outsider (s.homeDie a)) a 64 cid

/-- NODEWRITE (R312, R319): a record of sixteen words within its limits, in a FREE node, with no hole in its range (R392),
whose ENTRY is a line with TGT = 1; where that line's page has no frame the command waits for it (R343; log 57). -/
def execNodewrite (h : Hdr) (n : Nat) (ws : List Word) (s : State) : Result :=
  .next (s.command h 0x20 false (.nodewrite h n ws) (fun s =>
    let done (s : State) (st : Nat) : State := (s.setWaits h none).answer h 0x20 st 0 []
    match NodeRec.ofWords ws with
    | none => done s stBadField
    | some r =>
    if 4096 ≤ n || !r.legal || (h.cid ≠ 0 && h.cid ≠ r.cid) || s.sched.xmaxlen.toNat < r.xlen || r.cores.any s.isHole || s.pageFailed h then
      done s stBadField
    else if (s.node n).st ≠ .free then done s stBusy
    else match s.entryLine r.entry r.cid with
    | (s, .ok bs) =>
      if !lineTgt bs then done s stBadField
      else
        let ready := decide (r.thresh ≤ r.count)
        done (s.modNode n (fun _ => { rec_ := r, st := if ready then .ready else .waiting, counter := r.count, level := r.level
                                      readyAt := s.now, agedAt := s.now })) stOk
    | (s, .poison) | (s, .object) => done s stBadField
    | (s, .absent) | (s, .held) | (s, .stall) => s.waitPage h (.nodewrite h n ws) r.entry 64))

/-- Whether a command of a CID may name a node. -/
def State.ownsNode (s : State) (h : Hdr) (n : Nat) : Bool :=
  decide (n < 4096) && (s.node n).st != .free && (h.cid == 0 || (s.node n).rec_.cid == h.cid)

/-- NODEREADY (R318, R319): WAITING nodes become READY. -/
def execNodeready (h : Hdr) (ns : List Nat) (s : State) : Result :=
  .next (s.simple h 0x21 (.nodeready h ns) (fun s =>
    if !ns.all (fun n => s.ownsNode h n) then (s, stBadField)
    else if !ns.all (fun n => (s.node n).st == .waiting || (s.node n).st == .ready) then (s, stBusy)
    else (each ns s (fun s n => s.modNode n (fun x =>
      if x.st = .waiting then { x with st := .ready, readyAt := s.now, agedAt := s.now } else x)), stOk)))

/-- NODEFREE (R319): a DONE or FAILED node; its units were released as it ended (R311). -/
def execNodefree (h : Hdr) (n : Nat) (s : State) : Result :=
  .next (s.simple h 0x22 (.nodefree h n) (fun s =>
    if !s.ownsNode h n then (s, stBadField)
    else if (s.node n).st ≠ .done ∧ (s.node n).st ≠ .failed then (s, stBusy)
    else (s.modNode n (fun _ => {}), stOk)))

/-- NODEADD (R320): adds to a node's counter. -/
def execNodeadd (h : Hdr) (n inc : Nat) (s : State) : Result :=
  .next (s.simple h 0x23 (.nodeadd h n inc) (fun s =>
    if !s.ownsNode h n || 65535 < inc then (s, stBadField) else (s.addCounter n inc, stOk)))

/-! ### Objects (R336, R337, R339) -/

/-- The extents of runs of frames, for pages from a first one on. -/
def extentsOf (first : Nat) (ty : PageType) (back : Nat) : List (Nat × Nat) → List Extent
  | [] => []
  | (f, n) :: r => { first := first, count := n, ty := ty, absent := false, frame := f % 2 ^ 20, stack := f / 2 ^ 20, back := back } :: extentsOf (first + n) ty back r

/-- The extents of new pages; none when the die has too few free frames (R336). -/
def State.newPages (s : State) (die first n : Nat) (ty : PageType) (absent : Bool) (back : Nat) : State × Option (List Extent) :=
  let plain : List Extent := [{ first := first, count := n, ty := ty, absent := absent, frame := 0, stack := 0, back := back }]
  if back ≠ 0 then (s, some plain)
  else match s.pickFrames die n with
    | (s, none) => (s, none)
    | (s, some rs) => (s, some (if absent then plain else extentsOf first ty back rs))

/-- Give an object the pages of its runs, one run after another; none when the die has too few free frames. -/
def State.addRuns (s : State) (id : Nat) (o : Obj) : List PageRun → State × Option Obj
  | [] => (s, some o)
  | r :: rs =>
    match s.newPages o.die o.size r.count r.ty r.absent r.back with
    | (s, none) => (s, none)
    | (s, some ext) =>
      let o := { o with size := o.size + r.count, ext := o.ext ++ ext }
      { s with objs := sput s.objs id o }.addRuns id o rs

/-- Whether the runs of a new object are within the limits of R336 and R337. -/
def runsLegal (rs : List PageRun) : Bool :=
  let n := (rs.map (·.count)).sum
  n != 0 && decide (n ≤ 16777215) && rs.all (fun r => r.count != 0 && decide (r.back < 3))
/-- Pages of the runs that lie in HBM. -/
def hbmPages (rs : List PageRun) : Nat := ((rs.filter (fun r => r.back == 0)).map (·.count)).sum

/-- An identifier that the firmware may give a new object: the first one free from a number on (R336; log 36). -/
def State.freeId (s : State) (n : Nat) : Nat :=
  (((List.range (s.objs.length + 18)).map (fun k => (n + k) % 2 ^ 24)).find? (fun id =>
    id != 0 && decide (id < aliasId) && (s.obj id).isNone)).getD 0

/-- OBJCREATE (R336, R337): identifier 0 in the command lets the firmware choose one. -/
def execObjcreate (h : Hdr) (obj die dom : Nat) (priv : Bool) (owncore owncid : Nat) (runs : List PageRun) (s : State) : Result :=
  .next (s.command h 0x30 false (.objcreate h obj die dom priv owncore owncid runs) (fun s =>
    let id := if obj = 0 then s.freeId (Config.objectPick s.fresh) else obj
    let s := if obj = 0 then s.tick1 else s
    if !runsLegal runs || 16 ≤ die || 32 ≤ dom || coreCount ≤ owncore || 1024 ≤ owncid
        || id = 0 || aliasId ≤ id || (s.obj id).isSome || bits ((s.die die).mask dom) 15 0 = 0 then
      s.answer h 0x30 stBadField 0 []
    else if 1048576 ≤ s.objs.length || (s.pickFrames die (hbmPages runs)).2.isNone then s.answer h 0x30 stNoSpace 0 []
    else
      let o : Obj := { size := 0, die := die, dom := dom, priv := priv, owncore := owncore, owncid := owncid, ext := [] }
      match s.addRuns id o runs with
      | (s, none) => { s with objs := sdel s.objs id }.answer h 0x30 stNoSpace 0 []
      | (s, some o) =>
        if extMax < o.ext.length then { s with objs := sdel s.objs id }.answer h 0x30 stNoSpace 0 []
        else { s.tick1 with objs := sput s.objs id { o with extlist := Config.extList id s.fresh } }.answer h 0x30 stOk (w64 id) []))

/-- An object changes: every OBB entry and gateway line of it is invalidated (R339 item 1). -/
def State.forgetObj (s : State) (id : Nat) : State :=
  { s with
    cores := sall s.cores (fun x => { x with cache := { x.cache with obb := x.cache.obb.filter (fun e => e.id != id) } })
    dies := sall s.dies (fun d => { d with gates := sall d.gates (fun g => g.filter (fun l => l.key / 2 ^ 32 != id)) }) }

/-- The extents of the first pages of an object. -/
def cutExtents (size : Nat) (es : List Extent) : List Extent :=
  (es.filter (fun e => decide (e.first < size))).map (fun e => { e with count := min e.count (size - e.first) })

/-- The pages from one on are cut: their slice lines and translations go without write-back, the object table is changed,
and requests that wait for them play again and take OBJECT (R339, R342). -/
def State.cutPages (s : State) (id : Nat) (o : Obj) (from_ : Nat) (f : State → State) : State :=
  let s := each ((s.snaps.filter (fun n => n.obj == id))) s (fun s n => s.endSnap n true)
  let gone := ((s.die o.die).faults.filter (fun f => f.obj == id && decide (from_ ≤ f.pg))).map (fun f => f.pg)
  let cut (key : Nat) : Bool := key / 2 ^ 32 == id && decide (from_ ≤ key % 2 ^ 32 / 256)
  let lost := (s.die o.die).pinsLost.filter (fun p => cut p.1)
  let s := (s.dropLines o.die (fun l => cut l.key)).modDie o.die (fun d =>
    { d with
      slices := sall d.slices (fun sl => { sl with tlb := sl.tlb.filter (fun p => !(p.1 == id && decide (from_ ≤ p.2))) })
      migr := d.migr.filter (fun m => !(m.obj == id && decide (from_ ≤ m.pg)))
      pinsLost := d.pinsLost.filter (fun p => !cut p.1) })
  let s := each lost s (fun s p => s.unpinCount p.2)
  each gone (f s) (fun s pg => s.wakePage id pg true)

/-- OBJRESIZE (R339). -/
def execObjresize (h : Hdr) (obj size : Nat) (s : State) : Result :=
  .next (s.simple h 0x31 (.objresize h obj size) (fun s =>
    match s.obj obj with
    | none => (s, stBadField)
    | some o =>
      if size = 0 || 16777215 < size then (s, stBadField)
      else if size ≤ o.size then
        let cut (s : State) : State :=
          { s with objs := sput s.objs obj { o with size := size, ext := cutExtents size o.ext, retired := o.retired.filter (· < size) } }
        (if size = o.size then s.forgetObj obj else (s.forgetObj obj).cutPages obj o size cut, stOk)
      else
        let last := o.ext.getLast?
        let ty := (last.map (·.ty)).getD .normal
        match s.newPages o.die o.size (size - o.size) ty false ((last.map (·.back)).getD 0) with
        | (s, none) => (s, stNoSpace)
        | (s, some ext) =>
          if extMax < o.ext.length + ext.length then (s, stNoSpace)
          else ({ s.forgetObj obj with objs := sput s.objs obj { o with size := size, ext := o.ext ++ ext } }, stOk)))

/-- OBJDELETE (R339). -/
def execObjdelete (h : Hdr) (obj : Nat) (s : State) : Result :=
  .next (s.simple h 0x32 (.objdelete h obj) (fun s =>
    match s.obj obj with
    | none => (s, stBadField)
    | some o =>
      ((s.forgetObj obj).cutPages obj o 0 (fun s => { s with objs := sdel s.objs obj }), stOk)))

/-! ### Host bytes (R401) -/

/-- Whether n bytes at an address lie within an object, on no retired page. -/
def State.hostRange (s : State) (a : Word) (n : Nat) : Bool :=
  match s.obj (idOf a) with
  | none => false
  | some o => decide (offOf a + n ≤ o.size * 65536) && o.retired.all (fun p => decide (offOf a + n ≤ p * 65536) || decide (p * 65536 + 65536 ≤ offOf a))
/-- Write bytes to global memory sector by sector, up to the first sector that its home does not take: how many bytes
were accepted. -/
def State.writeSome (s : State) (w : Nat) (a : Word) (bs : List Byte) (cid : Nat) : State × Nat :=
  let (s, n, _) := each (sectorPieces a.toNat bs.length) (s, 0, true) (fun (s, n, go) p =>
    if !go then (s, n, false)
    else match s.rawWrite w (w64 p.1) ((bs.drop (p.1 - a.toNat)).take p.2) cid with
      | (s, .ok _) => (s, n + p.2, true)
      | (s, _) => (s, n, false))
  (s, n)

/-- MEMWRITE (R401): a release at SYS scope; it is answered once every byte is accepted at its home, and BADFIELD where a
page gets no frame (log 12). -/
def execMemwrite (h : Hdr) (addr : Word) (data : List Byte) (s : State) : Result :=
  .next (s.command h 0x33 false (.memwrite h addr data) (fun s =>
    if 4080 < data.length || !s.hostRange addr data.length || s.pageFailed h then (s.setWaits h none).answer h 0x33 stBadField 0 []
    else
      let (s, n) := s.writeSome (outsider (s.homeDie addr)) addr data h.cid
      if n = data.length then (s.setWaits h none).answer h 0x33 stOk 0 []
      else
        -- what has been accepted stands; the rest waits
        s.waitPage h (.memwrite h (addr + w64 n) (data.drop n)) (addr + w64 n) (data.length - n)))

/-- MEMREAD (R401): an acquire at SYS scope; a poisoned word is answered BADFIELD. -/
def execMemread (h : Hdr) (addr : Word) (n : Nat) (s : State) : Result :=
  .next (s.command h 0x34 false (.memread h addr n) (fun s =>
    if (4080 < n && !s.feature h 2) || !s.hostRange addr n || s.pageFailed h then (s.setWaits h none).answer h 0x34 stBadField 0 []
    else
      let (s, r) := each (sectorPieces addr.toNat n) (s, Ans.ok []) (fun (s, r) p =>
        match r with
        | .ok bs =>
          match s.rawRead (outsider (s.homeDie addr)) (w64 p.1) p.2 h.cid with
          | (s, .ok more) => (s, .ok (bs ++ more))
          | r => r
        | r => (s, r))
      match r with
      | .ok bs => (s.setWaits h none).answer h 0x34 stOk 0 bs
      | .poison => (s.setWaits h none).answer h 0x34 stBadField 0 []
      | .object => (s.setWaits h none).answer h 0x34 stBadField 0 []
      | .absent | .held | .stall => s.waitPage h (.memread h addr n) addr n))

/-- SNAPSHOT (R354): the object, T, how many frames the pool takes (64 where the command names none) and the place on the
host; UNKNOWN where the connection has not negotiated snapshots (R403, R404; log 71). -/
def execSnapshot (h : Hdr) (obj : Nat) (t : Word) (room : SnapRoom) (s : State) : Result :=
  .next (s.simple h 0x35 (.snapshot h obj t room) (fun s =>
    let pool := if room.frames = 0 then 64 else room.frames
    if !s.feature h 0 then (s, stUnknown)
    else match s.obj obj with
    | none => (s, stBadField)
    | some o =>
      if s.snaps.any (fun n => n.obj == obj) then (s, stBusy)
      else if 64 ≤ s.snaps.length then (s, stNoSpace)
      else if t.toNat < (s.stepAt o.die 0).toNat + 7000 || 4096 < room.frames then (s, stBadField)
      else match s.pickFrames o.die pool with
      | (s, none) => (s, stNoSpace)
      | (s, some runs) =>
        ({ s with snaps := s.snaps ++ [{ obj := obj, cid := h.cid, t := t.toNat, pool := pool, frames := runs, dest := room.dest }] }, stOk)))

/-! ### Registers and doorbells (R400) -/

/-- A number limited to a range. -/
def clampTo (lo hi v : Nat) : Nat := min hi (max lo v)
/-- GOVCFG as stored (R359). -/
def govStored (v : Word) : Word :=
  setBits (setBits (setBits (setBits v 17 11 0) 31 20 (max 1 (bits v 31 20))) 19 18 (clampTo 1 2 (bits v 19 18))) 10 0 (clampTo 100 1600 (bits v 10 0))
/-- DUCTCFG as stored (R295). -/
def ductStored (v : Word) : Word :=
  setBits (setBits (setBits (setBits (setBits v 39 32 0) 63 48 (clampTo 700 65535 (bits v 63 48))) 47 44 (clampTo 2 15 (bits v 47 44)))
    43 40 (max 1 (bits v 43 40))) 31 0 (max 100 (bits v 31 0))

/-- The host may clear a CID's bit in a DOMCIDS map: it has no object in the domain and no launch (R384). -/
def State.mayForget (s : State) (cid die dom : Nat) : Bool :=
  decide (1 ≤ cid) && decide (die < 16) && !s.cidBusy cid
    && !s.objs.any (fun e => e.2.die == die && e.2.dom == dom && e.2.priv && e.2.owncid == cid)

/-- REGWRITE (R400): GOVCFG, SCHEDCFG, XMAXLEN and DUCTCFG; a changed PODRLEN or PODDCAP takes effect at the next POD
round, which is unclean (R295). Number 0xA10 is SNAPBW (R355); 0x900 + domain clears the bit of the command's CID in that DOMCIDS map of die `v`
(R384; log 56). -/
def execRegwrite (h : Hdr) (reg : Nat) (v : Word) (s : State) : Result :=
  .next (s.simple h 0x40 (.regwrite h reg v) (fun s =>
    if reg = 0x090 then ({ s with gov := { s.gov with cfg := govStored v } }, stOk)
    else if reg = 0x086 then (s.modSched (fun x => { x with schedcfg := v &&& 0xFFFFFFFFFF }), stOk)
    else if reg = 0x085 then (s.modSched (fun x => { x with xmaxlen := v &&& 0xFFFFF }), stOk)
    else if reg = 0x05B then
      (s.setDuctcfg (ductStored v), stOk)
    else if reg = 0xA10 then ({ s with snapbw := clampTo 1 25 v.toNat }, stOk)
    else if 0x900 ≤ reg && reg < 0x920 && s.mayForget h.cid v.toNat (reg - 0x900) then
      (s.modDie v.toNat (fun d => { d with domcids := smod [] d.domcids (reg - 0x900) (fun l => l.filter (· != h.cid)) }), stOk)
    else (s, stBadField)))

/-- The CIDs of a DOMCIDS map as bits. -/
def cidBits (l : List Nat) : Nat := (l.map (fun c => 2 ^ c)).sum

/-- STATREAD (R400): a system register of a core (0x000 to 0x7FF), counter k of the command's CID (0x800 + k, R352), a die's
DOMCIDS map (0x900 + domain, `core` the die; only with feature 3), or a die's SHARED or UNOWNED total (0xA00, 0xA01). -/
def execStatread (h : Hdr) (reg core : Nat) (s : State) : Result :=
  .next (s.command h 0x41 false (.statread h reg core) (fun s =>
    let ok (v : Word) (d : List Byte) : State := s.answer h 0x41 stOk v d
    if reg < 0x800 then
      if core < coreCount && (sysAcc reg).isSome then ok (s.readSys core 0 reg) [] else s.answer h 0x41 stBadField 0 []
    else if reg < 0x808 then ok (w64 (sget 0 s.sched.counters (h.cid * 8 + (reg - 0x800)))) []
    else if 0x900 ≤ reg && reg < 0x920 && s.feature h 3 then ok 0 (leBytes 128 (cidBits (sget [] (s.die core).domcids (reg - 0x900))))
    else if reg = 0xA00 then ok (w64 ((s.die core).slices.map (fun e => e.2.sharedHits)).sum) []
    else if reg = 0xA01 then ok (w64 ((s.die core).slices.map (fun e => e.2.unowned)).sum) []
    else s.answer h 0x41 stBadField 0 []))

/-- DOORBELL (R120, R121, R125, R400). -/
def execDoorbell (h : Hdr) (core : Nat) (s : State) : Result :=
  .next (s.simple h 0x50 (.doorbell h core) (fun s =>
    if coreCount ≤ core then (s, stBadField) else ((s.event core 5).unpark core, stOk)))

/-- The operations that a host may send (R400). -/
def hostOps : List Nat :=
  [0x01, 0x02, 0x03, 0x04, 0x10, 0x11, 0x12, 0x20, 0x21, 0x22, 0x23, 0x30, 0x31, 0x32, 0x33, 0x34, 0x35, 0x40, 0x41, 0x50]

/-- A command whose operation is none of R400's is answered UNKNOWN; one whose payload is not that of its operation has a
field beyond its limits (R399, R400). -/
def execOtherCommand (h : Hdr) (op : Nat) (s : State) : Result :=
  .next (s.simple h op (.otherCommand h op) (fun s => (s, if hostOps.contains op then stBadField else stUnknown)))

end Sys2Proof.Machine
end

