-- ==== Sys2Proof/Machine/Messages.lean ====
section
/-!
DEFINITION. Queued messages, major 0x18: the receive ring, QSEND, QRECV, QPOLL (spec/06 R164 to R168; spec/16 R329).
-/
namespace Sys2Proof.Machine

/-- Bytes of a ring's data area (R165). -/
def ringBytes : Nat := 64512
/-- Length rounded up to a multiple of 8. -/
def round8 (n : Nat) : Nat := (n + 7) / 8 * 8
/-- Bytes in use in a ring (R165, R166): HEAD = TAIL is empty without records and full with some. -/
def Local.inUse (l : Local) : Nat :=
  if l.recs = 0 then 0 else if l.tail = l.head then ringBytes else (l.tail + ringBytes - l.head) % ringBytes

/-- Write bytes of a well of a core's octet. -/
def State.wellWrite (s : State) (c w off : Nat) (bs : List Byte) : State :=
  s.modWell c w (fun v => let o := eccWrite v.data v.ecc off bs; { v with data := o.mem, ecc := o.ecc })

/-- Whether a core belongs to a launch that is switched out, whose messages are refused (R329). -/
def State.savedCore (s : State) (c : Nat) : Bool :=
  s.sched.nodes.any (fun e => (e.2.st == .saved || e.2.st == .draining) && (sfind e.2.areas c).isSome)

/-- What a receiver answers to an offered message. -/
inductive Offer where
  | written | refused | noRing
  deriving DecidableEq, Repr

/-- Offer a message of a scope to a core of this module (R165): data, then the record, then event bit 1. -/
def State.offer (s : State) (c : Nat) (eth : Bool) (sc : Scope) (src : Word) (data : List Byte) : State × Offer :=
  let x := s.coreAt c
  let l := x.loc
  match x.ringSlot with
  | none => (s, if s.savedCore c then .refused else .noRing)
  | some slot =>
    let n := data.length
    let l8 := round8 n
    if ringBytes - l.inUse < l8 || l.recs ≥ 64 then (s, .refused)
    else
      let w := bankWell (x.bankmap slot)
      let body := data ++ List.replicate (l8 - n) 0
      let first := ringBytes - l.tail
      let wrap : Bool := decide (ringBytes < l.tail + l8)
      let s := if wrap then (s.wellWrite c w l.tail (body.take first)).wellWrite c w 0 (body.drop first)
               else s.wellWrite c w l.tail body
      let tail := if wrap then l8 - first else (l.tail + l8) % ringBytes
      let word0 := n % 65536 + wrap.toNat * 2 ^ 16 + eth.toNat * 2 ^ 17 + l.tail * 2 ^ 32
      let s := s.wellWrite c w (0xFC00 + 16 * ((l.recHead + l.recs) % 64)) (leBytes 8 word0 ++ leBytes 8 src.toNat)
      let s := s.modLoc c (fun l => { l with tail := tail, recs := l.recs + 1, recScope := l.recScope ++ [sc] })
      (s.event c 1, .written)

/-- MESSAGE_ARRIVAL (R165): a message from outside the module reaches a core's ring; one that is refused is retried by its
sender. Its QRECV acquires at POD scope (R246). -/
def execMessageArrival (dst : Nat) (eth : Bool) (src : Word) (data : List Byte) (s : State) : Result :=
  .next (s.offer dst eth .pod src data).1

/-! ### QSEND (R167) -/

/-- The core of this module that a destination names, or none for one of another module; an outer none when it is
no core of the scope. -/
def State.destOf (s : State) (sc : Scope) (b : Word) : Option (Option Nat) :=
  let n := b.toNat
  match sc with
  | .die => if n < coreCount && dieOf n = dieOf s.core then some (some n) else none
  | .pkg => if n < coreCount then some (some n) else none
  | _ =>
    if n / coreCount = s.modno then some (some (n % coreCount))
    else if n < coreCount * s.podsize && !s.refused then some none else none

/-- Offer the message of a QSEND once: its status, or none while it is refused. -/
def State.sendOnce (s : State) (sc : Scope) (b : Word) (data : List Byte) : State × Option Nat :=
  match s.destOf sc b with
  | none => (s, some 2)
  | some (some c) =>
    match s.offer c false sc (w64 (s.modno * coreCount + s.core)) data with
    | (s, .written) => (s, some 0)
    | (s, .refused) => (s, none)
    | (s, .noRing) => (s, some 2)
  | some none =>
    -- another module's ring: what its transport answers is a free value (log 19)
    let v := Config.podAnswer s.fresh % 3
    (s.tick1, if v = 1 then none else some v)

/-- Offer the bytes read at issue (R20, R21), and complete or wait: the wait began at the step in `start`. -/
def State.tryQsend (s : State) (i : Instr) (sc : Scope) (bs : List Byte) (a : GReg) (b : Word) (start : Word) : State :=
  match s.sendOnce sc b bs with
  | (s, some v) => s.result a (w64 v)
  | (s, none) =>
    if (s.stepOf s.core).toNat - start.toNat < s.here.loc.qbound.toNat then
      (s.hold i start).modMe (fun x => { x with payload := bs })
    else s.result a 1

/-- QSEND (R167): sends k bytes at local address c to core b; a := 0 written, 1 refused to the bound, 2 no such ring. The
source is aligned to 8 bytes, as an LDL's widest access is (log 72). -/
def execQsend (sc : Scope) (len1 : BitVec 5) (a b c : GReg) (s : State) : Result :=
  .next (
    let n := 8 * (len1.toNat + 1)
    let la := (s.g c).toNat
    s.checked (s.checkLocal s.core la n 8 false) (fun s => s.onRelease sc (fun s =>
      let (s, bs, bad) := s.localRead s.core la n
      match bad with
      | some _ => s.raise { code := 0x0B, addr := s.g c }
      | none => (s.markTiles s.core la n).tryQsend (.qsend sc len1 a b c) sc bs a (s.g b) (s.stepOf s.core))))

/-- QSEND_BOUND_EXPIRY (R167): a waiting QSEND offers again, or gives up once QBOUND has passed. -/
def execQsendBoundExpiry (c k : Nat) (s : State) : Result :=
  .next (
    let s := s.at_ c k
    match s.me.wait with
    | some (.qsend sc len1 a b c) =>
      let start := s.me.aux
      if (s.stepOf s.core).toNat - start.toNat < s.here.loc.qbound.toNat then
        s.tryQsend (.qsend sc len1 a b c) sc s.me.payload a (s.g b) start
      else s.result a 1
    | _ => s)

/-! ### QRECV, QPOLL (R168) -/

/-- Word 0 of the oldest record in the ring of a slot. -/
def State.recordWord (s : State) (slot : Nat) : Nat :=
  leNat ((s.well s.core (bankWell (s.here.bankmap slot))).data.readN (0xFC00 + 16 * s.here.loc.recHead) 8)

/-- Take the oldest record: a copy of its data to local address c, the record freed, a := word 0 with the source. The
destination is aligned to 8 bytes, as an STL's widest access is (log 72); the acquire has the scope of the QSEND (R246). -/
def State.takeRecord (s : State) (a : GReg) (slot la : Nat) : State :=
  let l := s.here.loc
  let w := bankWell (s.here.bankmap slot)
  let v := s.well s.core w
  let word0 := s.recordWord slot
  let word1 := leNat (v.data.readN (0xFC00 + 16 * l.recHead + 8) 8)
  let n := word0 % 65536
  let at_ := word0 / 2 ^ 32 % 65536
  let l8 := round8 n
  s.checked (s.checkLocal s.core la l8 8 true) (fun s =>
    let first := min n (ringBytes - at_)
    let bs := v.data.readN at_ first ++ v.data.readN 0 (n - first)
    let s := s.localWrite s.core la bs s.cid
    let s := s.modLoc s.core (fun l => { l with
      head := (at_ + l8) % ringBytes, recs := l.recs - 1, recHead := (l.recHead + 1) % 64, recScope := l.recScope.drop 1 })
    (s.acquire s.core (l.recScope.headD .pod)).result a (w64 (word0 % 2 ^ 24 + word1 % 2 ^ 40 * 2 ^ 24)))

/-- QRECV as it stands: takes the oldest record, or waits for one. -/
def State.qrecv (s : State) (a c : GReg) : State :=
  match s.here.ringSlot with
  | none => s.hold (.qrecv a c) 0
  | some slot => if s.here.loc.recs = 0 then s.hold (.qrecv a c) 0 else s.takeRecord a slot (s.g c).toNat

/-- QRECV (R168): waits until a record is waiting, copies its data to local address c, frees it; a := the record. -/
def execQrecv (a c : GReg) (s : State) : Result := .next (s.qrecv a c)

/-- QRECV_COMPLETE (R168): the waiting QRECV looks at its ring again. -/
def execQrecvComplete (c k : Nat) (s : State) : Result :=
  .next (
    let s := s.at_ c k
    match s.me.wait with
    | some (.qrecv a d) => s.qrecv a d
    | _ => s)

/-- QPOLL (R168): a := the number of waiting records. -/
def execQpoll (a : GReg) (s : State) : Result := .next (s.result a (w64 s.here.loc.recs))

end Sys2Proof.Machine
end

