-- ==== Sys2Proof/Machine/Scalar.lean ====
section
/-!
DEFINITION. Integer instructions, majors 0x00 to 0x0D (spec/05 R89 to R95). Each reads its sources, writes field a
and retires; a result written to g0 is discarded (R88).
-/
namespace Sys2Proof.Machine

/-- ADD2 (R89): a := Wrap(a + b, 64). -/
def execAdd2 (a b : GReg) (s : State) : Result := .next (s.result a (s.g a + s.g b))
/-- SUB2 (R89): a := Wrap(a - b, 64). -/
def execSub2 (a b : GReg) (s : State) : Result := .next (s.result a (s.g a - s.g b))
/-- AND2 (R89): a := a and b. -/
def execAnd2 (a b : GReg) (s : State) : Result := .next (s.result a (s.g a &&& s.g b))
/-- OR2 (R89): a := a or b. -/
def execOr2 (a b : GReg) (s : State) : Result := .next (s.result a (s.g a ||| s.g b))
/-- XOR2 (R89): a := a xor b. -/
def execXor2 (a b : GReg) (s : State) : Result := .next (s.result a (s.g a ^^^ s.g b))
/-- MOV (R89): a := b. -/
def execMov (a b : GReg) (s : State) : Result := .next (s.result a (s.g b))
/-- SHL2 (R89): a := Shl(a, b, 64). -/
def execShl2 (a b : GReg) (s : State) : Result := .next (s.result a (shlW (s.g a) (s.g b).toNat))
/-- SHRL2 (R89): a := Shrl(a, b, 64). -/
def execShrl2 (a b : GReg) (s : State) : Result := .next (s.result a (shrlW (s.g a) (s.g b).toNat))

/-! ### Three-register ALU (R90) -/
/-- ADD (R90): a := Wrap(b + c, 64). -/
def execAdd (a b c : GReg) (s : State) : Result := .next (s.result a (s.g b + s.g c))
/-- SUB (R90): a := Wrap(b - c, 64). -/
def execSub (a b c : GReg) (s : State) : Result := .next (s.result a (s.g b - s.g c))
/-- AND (R90): a := b and c. -/
def execAnd (a b c : GReg) (s : State) : Result := .next (s.result a (s.g b &&& s.g c))
/-- OR (R90): a := b or c. -/
def execOr (a b c : GReg) (s : State) : Result := .next (s.result a (s.g b ||| s.g c))
/-- XOR (R90): a := b xor c. -/
def execXor (a b c : GReg) (s : State) : Result := .next (s.result a (s.g b ^^^ s.g c))
/-- ANDN (R90): a := b and not c. -/
def execAndn (a b c : GReg) (s : State) : Result := .next (s.result a (s.g b &&& ~~~(s.g c)))
/-- ORN (R90): a := b or not c. -/
def execOrn (a b c : GReg) (s : State) : Result := .next (s.result a (s.g b ||| ~~~(s.g c)))
/-- SHL (R90): a := Shl(b, c, 64). -/
def execShl (a b c : GReg) (s : State) : Result := .next (s.result a (shlW (s.g b) (s.g c).toNat))
/-- SHRL (R90): a := Shrl(b, c, 64). -/
def execShrl (a b c : GReg) (s : State) : Result := .next (s.result a (shrlW (s.g b) (s.g c).toNat))
/-- SHRA (R90): a := Shra(b, c, 64). -/
def execShra (a b c : GReg) (s : State) : Result := .next (s.result a (shraW (s.g b) (s.g c).toNat))
/-- ROT (R90): a := Rot(b, c). -/
def execRot (a b c : GReg) (s : State) : Result := .next (s.result a ((s.g b).rotateLeft ((s.g c).toNat % 64)))
/-- ADDW (R90): a := Sext(Wrap(b + c, 32), 32). -/
def execAddw (a b c : GReg) (s : State) : Result := .next (s.result a (sext (s.g b + s.g c).toNat 32))
/-- SUBW (R90): a := Sext(Wrap(b - c, 32), 32). -/
def execSubw (a b c : GReg) (s : State) : Result := .next (s.result a (sext (s.g b - s.g c).toNat 32))
/-- MUL (R90): a := Wrap(b * c, 64). -/
def execMul (a b c : GReg) (s : State) : Result := .next (s.resultIn 3 a (s.g b * s.g c))
/-- MULH (R90): a := bits [127:64] of S(b) * S(c). -/
def execMulh (a b c : GReg) (s : State) : Result := .next (s.resultIn 3 a (BitVec.ofInt 64 ((s.g b).toInt * (s.g c).toInt / 2 ^ 64)))
/-- MULHN (R90): a := bits [127:64] of N(b) * N(c). -/
def execMulhn (a b c : GReg) (s : State) : Result := .next (s.resultIn 3 a (w64 ((s.g b).toNat * (s.g c).toNat / 2 ^ 64)))
/-- DIV (R90): a := Wrap(DivT(S(b), S(c)), 64). -/
def execDiv (a b c : GReg) (s : State) : Result := .next (s.resultIn (divCycles (s.g b).toInt.natAbs) a (divS 64 (s.g b).toInt (s.g c).toInt))
/-- DIVN (R90): a := DivT(N(b), N(c)). -/
def execDivn (a b c : GReg) (s : State) : Result := .next (s.resultIn (divCycles (s.g b).toNat) a (divU 64 (s.g b).toNat (s.g c).toNat))
/-- REM (R90): a := Wrap(RemT(S(b), S(c)), 64). -/
def execRem (a b c : GReg) (s : State) : Result := .next (s.resultIn (divCycles (s.g b).toInt.natAbs) a (remS 64 (s.g b).toInt (s.g c).toInt))
/-- REMN (R90): a := RemT(N(b), N(c)). -/
def execRemn (a b c : GReg) (s : State) : Result := .next (s.resultIn (divCycles (s.g b).toNat) a (remU 64 (s.g b).toNat (s.g c).toNat))
/-- MIN (R90): a := b if S(b) <= S(c), else c. -/
def execMin (a b c : GReg) (s : State) : Result := .next (s.result a (if (s.g b).toInt ≤ (s.g c).toInt then s.g b else s.g c))
/-- MAX (R90): a := b if S(b) >= S(c), else c. -/
def execMax (a b c : GReg) (s : State) : Result := .next (s.result a (if (s.g b).toInt ≥ (s.g c).toInt then s.g b else s.g c))
/-- MINN (R90): a := b if N(b) <= N(c), else c. -/
def execMinn (a b c : GReg) (s : State) : Result := .next (s.result a (if (s.g b).toNat ≤ (s.g c).toNat then s.g b else s.g c))
/-- MAXN (R90): a := b if N(b) >= N(c), else c. -/
def execMaxn (a b c : GReg) (s : State) : Result := .next (s.result a (if (s.g b).toNat ≥ (s.g c).toNat then s.g b else s.g c))
/-- SEQ (R90): a := 1 if b = c, else 0. -/
def execSeq (a b c : GReg) (s : State) : Result := .next (s.result a (b2w (s.g b == s.g c)))
/-- SNE (R90): a := 1 if b differs from c, else 0. -/
def execSne (a b c : GReg) (s : State) : Result := .next (s.result a (b2w (s.g b != s.g c)))
/-- SLT (R90): a := 1 if S(b) < S(c), else 0. -/
def execSlt (a b c : GReg) (s : State) : Result := .next (s.result a (b2w (decide ((s.g b).toInt < (s.g c).toInt))))
/-- SLTN (R90): a := 1 if N(b) < N(c), else 0. -/
def execSltn (a b c : GReg) (s : State) : Result := .next (s.result a (b2w (decide ((s.g b).toNat < (s.g c).toNat))))
/-- SLE (R90): a := 1 if S(b) <= S(c), else 0. -/
def execSle (a b c : GReg) (s : State) : Result := .next (s.result a (b2w (decide ((s.g b).toInt ≤ (s.g c).toInt))))
/-- SLEN (R90): a := 1 if N(b) <= N(c), else 0. -/
def execSlen (a b c : GReg) (s : State) : Result := .next (s.result a (b2w (decide ((s.g b).toNat ≤ (s.g c).toNat))))
/-- CSEL (R90): a := b if c is not 0, else the old a. -/
def execCsel (a b c : GReg) (s : State) : Result := .next (s.result a (if s.g c ≠ 0 then s.g b else s.g a))

/-! ### Immediate forms (R91, R92) -/
/-- ADDI (R91): a := Wrap(b + I, 64). -/
def execAddi (a b : GReg) (imm : BitVec 24) (s : State) : Result := .next (s.result a (s.g b + imm.signExtend 64))
/-- ANDI (R91): a := b and I. -/
def execAndi (a b : GReg) (imm : BitVec 24) (s : State) : Result := .next (s.result a (s.g b &&& imm.signExtend 64))
/-- ORI (R91): a := b or I. -/
def execOri (a b : GReg) (imm : BitVec 24) (s : State) : Result := .next (s.result a (s.g b ||| imm.signExtend 64))
/-- XORI (R91): a := b xor I. -/
def execXori (a b : GReg) (imm : BitVec 24) (s : State) : Result := .next (s.result a (s.g b ^^^ imm.signExtend 64))
/-- SHLI (R91): a := Shl(b, imm, 64). -/
def execShli (a b : GReg) (imm : BitVec 24) (s : State) : Result := .next (s.result a (shlW (s.g b) imm.toNat))
/-- SHRLI (R91): a := Shrl(b, imm, 64). -/
def execShrli (a b : GReg) (imm : BitVec 24) (s : State) : Result := .next (s.result a (shrlW (s.g b) imm.toNat))
/-- SHRAI (R91): a := Shra(b, imm, 64). -/
def execShrai (a b : GReg) (imm : BitVec 24) (s : State) : Result := .next (s.result a (shraW (s.g b) imm.toNat))
/-- MOVI (R92): a := Sext(imm48, 48). -/
def execMovi (a : GReg) (imm : BitVec 48) (s : State) : Result := .next (s.result a (imm.signExtend 64))

/-! ### Unary ALU (R93) -/
/-- NOT (R93): a := not b. -/
def execNot (a b : GReg) (s : State) : Result := .next (s.result a (~~~(s.g b)))
/-- CLZ (R93): a := number of leading zero bits of b; 64 when b = 0. -/
def execClz (a b : GReg) (s : State) : Result := .next (s.result a (w64 (clz64 (s.g b))))
/-- CTZ (R93): a := number of trailing zero bits of b; 64 when b = 0. -/
def execCtz (a b : GReg) (s : State) : Result := .next (s.result a (w64 (ctz64 (s.g b))))
/-- POPC (R93): a := number of one bits of b. -/
def execPopc (a b : GReg) (s : State) : Result := .next (s.result a (w64 (popcount (s.g b))))
/-- SEXT.B (R93): a := Sext(b, 8). -/
def execSextB (a b : GReg) (s : State) : Result := .next (s.result a (sext (s.g b).toNat 8))
/-- SEXT.H (R93): a := Sext(b, 16). -/
def execSextH (a b : GReg) (s : State) : Result := .next (s.result a (sext (s.g b).toNat 16))
/-- SEXT.W (R93): a := Sext(b, 32). -/
def execSextW (a b : GReg) (s : State) : Result := .next (s.result a (sext (s.g b).toNat 32))
/-- ZEXT.B (R93): a := Zext(b, 8). -/
def execZextB (a b : GReg) (s : State) : Result := .next (s.result a (zext (s.g b).toNat 8))
/-- ZEXT.H (R93): a := Zext(b, 16). -/
def execZextH (a b : GReg) (s : State) : Result := .next (s.result a (zext (s.g b).toNat 16))
/-- ZEXT.W (R93): a := Zext(b, 32). -/
def execZextW (a b : GReg) (s : State) : Result := .next (s.result a (zext (s.g b).toNat 32))

/-! ### Bit fields (R94); the field len1 holds len - 1 -/

/-- The field of b: bits [pos + len - 1 : pos]. -/
def fieldOf (x : Word) (pos len1 : BitVec 6) : Nat := bits x (pos.toNat + len1.toNat) pos.toNat
/-- BFX (R94): a := Zext(f, len). -/
def execBfx (a b : GReg) (pos len1 : BitVec 6) (s : State) : Result :=
  .next (s.result a (zext (fieldOf (s.g b) pos len1) (len1.toNat + 1)))
/-- BFX.S (R94): a := Sext(f, len). -/
def execBfxS (a b : GReg) (pos len1 : BitVec 6) (s : State) : Result :=
  .next (s.result a (sext (fieldOf (s.g b) pos len1) (len1.toNat + 1)))
/-- BFI (R94): bits [pos + len - 1 : pos] of a := bits [len - 1 : 0] of b; the other bits of a are unchanged. -/
def execBfi (a b : GReg) (pos len1 : BitVec 6) (s : State) : Result :=
  .next (s.result a (setBits (s.g a) (pos.toNat + len1.toNat) pos.toNat (s.g b).toNat))

/-! ### Global addresses (R95) -/

/-- OBJ (R95): a := (Zext(c, 24) << 40) or Zext(b, 40). -/
def execObj (a b c : GReg) (s : State) : Result :=
  .next (s.result a (zext (s.g c).toNat 24 <<< 40 ||| zext (s.g b).toNat 40))
/-- OBJ.ID (R95): a := Zext(b >> 40, 24). -/
def execObjId (a b : GReg) (s : State) : Result := .next (s.result a (zext (s.g b >>> 40).toNat 24))
/-- OBJ.OFF (R95): a := Zext(b, 40). -/
def execObjOff (a b : GReg) (s : State) : Result := .next (s.result a (zext (s.g b).toNat 40))
/-- LEA (R95): the object of b, with the offset moved by c scaled and imm, wrapping within 40 bits. -/
def execLea (a b c : GReg) (sc : BitVec 2) (imm : BitVec 23) (s : State) : Result :=
  .next (s.result a (eaOf (s.g b) (shlW (s.g c) sc.toNat + imm.signExtend 64)))

end Sys2Proof.Machine
end

