-- ==== Sys2Proof/Machine/Waits.lean ====
section
/-!
DEFINITION. Events that end or interrupt the waits of a context, traps as events, and register writes as events
(spec/05 R109, R115, R117, R120, R121, R125, R126; spec/01 R16; spec/02 R44; spec/12 R294).
-/
namespace Sys2Proof.Machine

/-- TRAP_ENTRY (R126): a context takes a cause, given as the ECAUSE word, at its boundary; a second one is a double
trap (R128). An interrupt taken so is consumed (R225). -/
def execTrapEntry (c k : Nat) (cause addr : Word) (s : State) : Result :=
  .next (
    let s := s.at_ c k
    let z : Cause := { code := bits cause 7 0, detail := bits cause 63 16, addr := addr }
    if z.code = 0x30 && k = 0 && !s.me.intrap && s.boundaryReady then s.takeBit z.detail else s.raise z)

/-- ALARM (R125): IPEND bit 6 is raised, where IMASK lets it, and IALARM is then disarmed. -/
def execAlarm (c : Nat) (s : State) : Result :=
  .next (s.modCore c (fun x => if x.imask.getLsbD 6 then { x.raiseIrq 6 with ialarm := 0 } else x))

/-- WFE_TIMEOUT_EVENT (R120): event bit 6 of the waiting context. -/
def execWfeTimeoutEvent (c k : Nat) (s : State) : Result :=
  .next (s.modCtx c k (fun x => { x with latch := x.latch ||| 64 }))

/-- WFE_COMPLETE (R120). -/
def execWfeComplete (c k : Nat) (s : State) : Result :=
  .next (
    let s := s.at_ c k
    match s.me.wait with
    | some (.wfe a) => if s.me.latch ≠ 0 then s.takeLatch a else s
    | _ => s)

/-- HJOIN_COMPLETE (R109). -/
def execHjoinComplete (c : Nat) (s : State) : Result :=
  .next (
    let s := s.at_ c 0
    match s.me.wait with
    | some (.hjoin a b) =>
      let k := (s.g b).toNat
      if (s.ctxAt c k).st = .exited then s.collect a k else s
    | _ => s)

/-- PARK_WAKE (R121): with its queues drained the core's clock starts again, and PARK completes. -/
def execParkWake (c : Nat) (s : State) : Result :=
  .next (
    let s := s.at_ c 0
    match s.me.wait with
    | some .park =>
      if s.here.vec.queue.isEmpty && s.here.mat.queue.isEmpty && (s.here.ipend != 0 || s.me.aux != 0) then
        (s.modHere (fun x => { x with parked := false })).retire
      else s
    | _ => s)

/-- WAIT_ST_COMPLETE (R117): STEP has reached the target, which `aux` holds. -/
def execWaitStComplete (c k : Nat) (s : State) : Result :=
  .next (
    let s := s.at_ c k
    match s.me.wait with
    | some (.waitSt a _ _) =>
      if s.me.aux.toNat ≤ (s.stepOf c).toNat then s.result a (s.stepOf c - s.me.aux) else s
    | _ => s)

/-! ### Register writes (R115) -/

/-- TOKK_WRITE (R294). -/
def execTokkWrite (c k : Nat) (v : Word) (s : State) : Result := .next (s.writeTokk c k v)
/-- SRSEED_WRITE (R44): every generator of the context is re-seeded. -/
def execSrseedWrite (c k : Nat) (v : Word) (s : State) : Result := .next (s.writeSeed c k v)
/-- ACCMAP_WRITE (R16): a tile that another core of the octet holds makes it illegal. -/
def execAccmapWrite (c k : Nat) (v : Word) (s : State) : Result :=
  .next (
    let s := s.at_ c k
    if s.badWrite c 0x014 v then s.illegal else s.writeSys c k 0x014 v)
/-- REGISTER_WRITE (R7, R115): a write follows the access codes of the register's fields. -/
def execRegisterWrite (c k reg : Nat) (v : Word) (s : State) : Result := .next (s.writeSys c k reg v)

end Sys2Proof.Machine
end

