-- ==== Sys2Proof/Machine/Dispatch.lean ====
section
/-!
DEFINITION. The meaning of every row of spec/opcode_table.json: one arm per constructor, each a call of its own meaning.
-/
namespace Sys2Proof.Machine

def exec (i : Instr) (s : State) : Host.Outcome State Fault Refusal :=
  match i with
  | .add2 a b => Sys2Proof.Machine.execAdd2 a b s
  | .sub2 a b => Sys2Proof.Machine.execSub2 a b s
  | .and2 a b => Sys2Proof.Machine.execAnd2 a b s
  | .or2 a b => Sys2Proof.Machine.execOr2 a b s
  | .xor2 a b => Sys2Proof.Machine.execXor2 a b s
  | .mov a b => Sys2Proof.Machine.execMov a b s
  | .shl2 a b => Sys2Proof.Machine.execShl2 a b s
  | .shrl2 a b => Sys2Proof.Machine.execShrl2 a b s
  | .add a b c => Sys2Proof.Machine.execAdd a b c s
  | .sub a b c => Sys2Proof.Machine.execSub a b c s
  | .and a b c => Sys2Proof.Machine.execAnd a b c s
  | .or a b c => Sys2Proof.Machine.execOr a b c s
  | .xor a b c => Sys2Proof.Machine.execXor a b c s
  | .andn a b c => Sys2Proof.Machine.execAndn a b c s
  | .orn a b c => Sys2Proof.Machine.execOrn a b c s
  | .shl a b c => Sys2Proof.Machine.execShl a b c s
  | .shrl a b c => Sys2Proof.Machine.execShrl a b c s
  | .shra a b c => Sys2Proof.Machine.execShra a b c s
  | .rot a b c => Sys2Proof.Machine.execRot a b c s
  | .addw a b c => Sys2Proof.Machine.execAddw a b c s
  | .subw a b c => Sys2Proof.Machine.execSubw a b c s
  | .mul a b c => Sys2Proof.Machine.execMul a b c s
  | .mulh a b c => Sys2Proof.Machine.execMulh a b c s
  | .mulhn a b c => Sys2Proof.Machine.execMulhn a b c s
  | .div a b c => Sys2Proof.Machine.execDiv a b c s
  | .divn a b c => Sys2Proof.Machine.execDivn a b c s
  | .rem a b c => Sys2Proof.Machine.execRem a b c s
  | .remn a b c => Sys2Proof.Machine.execRemn a b c s
  | .min a b c => Sys2Proof.Machine.execMin a b c s
  | .max a b c => Sys2Proof.Machine.execMax a b c s
  | .minn a b c => Sys2Proof.Machine.execMinn a b c s
  | .maxn a b c => Sys2Proof.Machine.execMaxn a b c s
  | .seq a b c => Sys2Proof.Machine.execSeq a b c s
  | .sne a b c => Sys2Proof.Machine.execSne a b c s
  | .slt a b c => Sys2Proof.Machine.execSlt a b c s
  | .sltn a b c => Sys2Proof.Machine.execSltn a b c s
  | .sle a b c => Sys2Proof.Machine.execSle a b c s
  | .slen a b c => Sys2Proof.Machine.execSlen a b c s
  | .csel a b c => Sys2Proof.Machine.execCsel a b c s
  | .addi a b imm => Sys2Proof.Machine.execAddi a b imm s
  | .andi a b imm => Sys2Proof.Machine.execAndi a b imm s
  | .ori a b imm => Sys2Proof.Machine.execOri a b imm s
  | .xori a b imm => Sys2Proof.Machine.execXori a b imm s
  | .shli a b imm => Sys2Proof.Machine.execShli a b imm s
  | .shrli a b imm => Sys2Proof.Machine.execShrli a b imm s
  | .shrai a b imm => Sys2Proof.Machine.execShrai a b imm s
  | .movi a imm => Sys2Proof.Machine.execMovi a imm s
  | .not a b => Sys2Proof.Machine.execNot a b s
  | .clz a b => Sys2Proof.Machine.execClz a b s
  | .ctz a b => Sys2Proof.Machine.execCtz a b s
  | .popc a b => Sys2Proof.Machine.execPopc a b s
  | .sextB a b => Sys2Proof.Machine.execSextB a b s
  | .sextH a b => Sys2Proof.Machine.execSextH a b s
  | .sextW a b => Sys2Proof.Machine.execSextW a b s
  | .zextB a b => Sys2Proof.Machine.execZextB a b s
  | .zextH a b => Sys2Proof.Machine.execZextH a b s
  | .zextW a b => Sys2Proof.Machine.execZextW a b s
  | .bfx a b pos len1 => Sys2Proof.Machine.execBfx a b pos len1 s
  | .bfxS a b pos len1 => Sys2Proof.Machine.execBfxS a b pos len1 s
  | .bfi a b pos len1 => Sys2Proof.Machine.execBfi a b pos len1 s
  | .obj a b c => Sys2Proof.Machine.execObj a b c s
  | .objId a b => Sys2Proof.Machine.execObjId a b s
  | .objOff a b => Sys2Proof.Machine.execObjOff a b s
  | .lea a b c z imm => Sys2Proof.Machine.execLea a b c z imm s
  | .fadd t a b c => Sys2Proof.Machine.execFadd t a b c s
  | .fsub t a b c => Sys2Proof.Machine.execFsub t a b c s
  | .fmul t a b c => Sys2Proof.Machine.execFmul t a b c s
  | .fmin t a b c => Sys2Proof.Machine.execFmin t a b c s
  | .fmax t a b c => Sys2Proof.Machine.execFmax t a b c s
  | .fseq t a b c => Sys2Proof.Machine.execFseq t a b c s
  | .fslt t a b c => Sys2Proof.Machine.execFslt t a b c s
  | .fsle t a b c => Sys2Proof.Machine.execFsle t a b c s
  | .fabs t a b => Sys2Proof.Machine.execFabs t a b s
  | .fneg t a b => Sys2Proof.Machine.execFneg t a b s
  | .fclass t a b => Sys2Proof.Machine.execFclass t a b s
  | .ffma t a b c d => Sys2Proof.Machine.execFfma t a b c d s
  | .fcvt dst src mode a b => Sys2Proof.Machine.execFcvt dst src mode a b s
  | .b n disp => Sys2Proof.Machine.execB n disp s
  | .beq n a b disp => Sys2Proof.Machine.execBeq n a b disp s
  | .bne n a b disp => Sys2Proof.Machine.execBne n a b disp s
  | .blt n a b disp => Sys2Proof.Machine.execBlt n a b disp s
  | .bge n a b disp => Sys2Proof.Machine.execBge n a b disp s
  | .bltn n a b disp => Sys2Proof.Machine.execBltn n a b disp s
  | .bgen n a b disp => Sys2Proof.Machine.execBgen n a b disp s
  | .bz n a disp => Sys2Proof.Machine.execBz n a disp s
  | .bnz n a disp => Sys2Proof.Machine.execBnz n a disp s
  | .jal n a disp => Sys2Proof.Machine.execJal n a disp s
  | .jr n a => Sys2Proof.Machine.execJr n a s
  | .hstart a b c => Sys2Proof.Machine.execHstart a b c s
  | .hjoin a b => Sys2Proof.Machine.execHjoin a b s
  | .hexit a => Sys2Proof.Machine.execHexit a s
  | .trap code => Sys2Proof.Machine.execTrap code s
  | .eret n => Sys2Proof.Machine.execEret n s
  | .rdsys a reg => Sys2Proof.Machine.execRdsys a reg s
  | .wrsys reg c => Sys2Proof.Machine.execWrsys reg c s
  | .ifence => Sys2Proof.Machine.execIfence s
  | .park => Sys2Proof.Machine.execPark s
  | .wfe a => Sys2Proof.Machine.execWfe a s
  | .injectAcc a c bit dbl => Sys2Proof.Machine.execInjectAcc a c bit dbl s
  | .injectLoc a c bit dbl => Sys2Proof.Machine.execInjectLoc a c bit dbl s
  | .injectSlice a c bit dbl => Sys2Proof.Machine.execInjectSlice a c bit dbl s
  | .injectDec a bit dbl => Sys2Proof.Machine.execInjectDec a bit dbl s
  | .rdid a => Sys2Proof.Machine.execRdid a s
  | .rdidPod a => Sys2Proof.Machine.execRdidPod a s
  | .rdidCtx a => Sys2Proof.Machine.execRdidCtx a s
  | .rdidPos a => Sys2Proof.Machine.execRdidPos a s
  | .rdstep a => Sys2Proof.Machine.execRdstep a s
  | .waitSt a c n => Sys2Proof.Machine.execWaitSt a c n s
  | .rdcyc a => Sys2Proof.Machine.execRdcyc a s
  | .ld z o sc a b imm => Sys2Proof.Machine.execLd z o sc a b imm s
  | .ldn z o sc a b imm => Sys2Proof.Machine.execLdn z o sc a b imm s
  | .st z o sc a b imm => Sys2Proof.Machine.execSt z o sc a b imm s
  | .ldl z a b imm => Sys2Proof.Machine.execLdl z a b imm s
  | .ldln z a b imm => Sys2Proof.Machine.execLdln z a b imm s
  | .stl z a b imm => Sys2Proof.Machine.execStl z a b imm s
  | .amoadd dw o sc a b c imm => Sys2Proof.Machine.execAmoadd dw o sc a b c imm s
  | .amoand dw o sc a b c imm => Sys2Proof.Machine.execAmoand dw o sc a b c imm s
  | .amoor dw o sc a b c imm => Sys2Proof.Machine.execAmoor dw o sc a b c imm s
  | .amoxor dw o sc a b c imm => Sys2Proof.Machine.execAmoxor dw o sc a b c imm s
  | .amomin dw o sc a b c imm => Sys2Proof.Machine.execAmomin dw o sc a b c imm s
  | .amomax dw o sc a b c imm => Sys2Proof.Machine.execAmomax dw o sc a b c imm s
  | .amominn dw o sc a b c imm => Sys2Proof.Machine.execAmominn dw o sc a b c imm s
  | .amomaxn dw o sc a b c imm => Sys2Proof.Machine.execAmomaxn dw o sc a b c imm s
  | .amoswap dw o sc a b c imm => Sys2Proof.Machine.execAmoswap dw o sc a b c imm s
  | .amocas dw o sc a b c imm => Sys2Proof.Machine.execAmocas dw o sc a b c imm s
  | .famoadd o sc a b c imm => Sys2Proof.Machine.execFamoadd o sc a b c imm s
  | .fence sc => Sys2Proof.Machine.execFence sc s
  | .fenceAcq sc => Sys2Proof.Machine.execFenceAcq sc s
  | .fenceRel sc => Sys2Proof.Machine.execFenceRel sc s
  | .lbfence => Sys2Proof.Machine.execLbfence s
  | .pref lvl b => Sys2Proof.Machine.execPref lvl b s
  | .cwb b => Sys2Proof.Machine.execCwb b s
  | .cinv b => Sys2Proof.Machine.execCinv b s
  | .cwbinv b => Sys2Proof.Machine.execCwbinv b s
  | .pinl a b => Sys2Proof.Machine.execPinl a b s
  | .unpinl b => Sys2Proof.Machine.execUnpinl b s
  | .give z b t => Sys2Proof.Machine.execGive z b t s
  | .wstat a z => Sys2Proof.Machine.execWstat a z s
  | .wwait z => Sys2Proof.Machine.execWwait z s
  | .wmap a z b => Sys2Proof.Machine.execWmap a z b s
  | .wunmap a z => Sys2Proof.Machine.execWunmap a z s
  | .expect z b => Sys2Proof.Machine.execExpect z b s
  | .tagrd a z b => Sys2Proof.Machine.execTagrd a z b s
  | .xbar sc a => Sys2Proof.Machine.execXbar sc a s
  | .xsend n b c => Sys2Proof.Machine.execXsend n b c s
  | .xsendr op ty n c => Sys2Proof.Machine.execXsendr op ty n c s
  | .xrecv n b => Sys2Proof.Machine.execXrecv n b s
  | .xend sc a => Sys2Proof.Machine.execXend sc a s
  | .qsend sc len1 a b c => Sys2Proof.Machine.execQsend sc len1 a b c s
  | .qrecv a c => Sys2Proof.Machine.execQrecv a c s
  | .qpoll a => Sys2Proof.Machine.execQpoll a s
  | .bar sc a u => Sys2Proof.Machine.execBar sc a u s
  | .bara sc a u => Sys2Proof.Machine.execBara sc a u s
  | .barw sc a u => Sys2Proof.Machine.execBarw sc a u s
  | .tokw sc a k => Sys2Proof.Machine.execTokw sc a k s
  | .tokp sc a k => Sys2Proof.Machine.execTokp sc a k s
  | .wit sc a => Sys2Proof.Machine.execWit sc a s
  | .witTok sc a k => Sys2Proof.Machine.execWitTok sc a k s
  | .dstat sc a sel => Sys2Proof.Machine.execDstat sc a sel s
  | .bil n sc tok a disp => Sys2Proof.Machine.execBil n sc tok a disp s
  | .cpy atn a b c => Sys2Proof.Machine.execCpy atn a b c s
  | .cpyw a => Sys2Proof.Machine.execCpyw a s
  | .coll op ty sc atn a b c => Sys2Proof.Machine.execColl op ty sc atn a b c s
  | .collw a => Sys2Proof.Machine.execCollw a s
  | .vclaim a n8 => Sys2Proof.Machine.execVclaim a n8 s
  | .vyield => Sys2Proof.Machine.execVyield s
  | .vlen a => Sys2Proof.Machine.execVlen a s
  | .vadd t a b c k => Sys2Proof.Machine.execVadd t a b c k s
  | .vsub t a b c k => Sys2Proof.Machine.execVsub t a b c k s
  | .vmul t a b c k => Sys2Proof.Machine.execVmul t a b c k s
  | .vmin t a b c k => Sys2Proof.Machine.execVmin t a b c k s
  | .vmax t a b c k => Sys2Proof.Machine.execVmax t a b c k s
  | .vand t a b c k => Sys2Proof.Machine.execVand t a b c k s
  | .vor t a b c k => Sys2Proof.Machine.execVor t a b c k s
  | .vxor t a b c k => Sys2Proof.Machine.execVxor t a b c k s
  | .vshl t a b c k => Sys2Proof.Machine.execVshl t a b c k s
  | .vshrl t a b c k => Sys2Proof.Machine.execVshrl t a b c k s
  | .vshra t a b c k => Sys2Proof.Machine.execVshra t a b c k s
  | .vabs t a b k => Sys2Proof.Machine.execVabs t a b k s
  | .vneg t a b k => Sys2Proof.Machine.execVneg t a b k s
  | .vfma t a b c d k => Sys2Proof.Machine.execVfma t a b c d k s
  | .vcvt dst src mode p a b d k => Sys2Proof.Machine.execVcvt dst src mode p a b d k s
  | .vseq t a b c k => Sys2Proof.Machine.execVseq t a b c k s
  | .vslt t a b c k => Sys2Proof.Machine.execVslt t a b c k s
  | .vsle t a b c k => Sys2Proof.Machine.execVsle t a b c k s
  | .vsel a b c d => Sys2Proof.Machine.execVsel a b c d s
  | .vbcast t a b k => Sys2Proof.Machine.execVbcast t a b k s
  | .vext a b c => Sys2Proof.Machine.execVext a b c s
  | .vperm a b c k => Sys2Proof.Machine.execVperm a b c k s
  | .vld a b imm k => Sys2Proof.Machine.execVld a b imm k s
  | .vst a b imm k => Sys2Proof.Machine.execVst a b imm k s
  | .vldl a b imm k => Sys2Proof.Machine.execVldl a b imm k s
  | .vstl a b imm k => Sys2Proof.Machine.execVstl a b imm k s
  | .vlds z a b c imm k => Sys2Proof.Machine.execVlds z a b c imm k s
  | .vgath z a b c imm k => Sys2Proof.Machine.execVgath z a b c imm k s
  | .vscat z a b c imm k => Sys2Proof.Machine.execVscat z a b c imm k s
  | .vredadd t a b k => Sys2Proof.Machine.execVredadd t a b k s
  | .vredmax t a b k => Sys2Proof.Machine.execVredmax t a b k s
  | .vredmin t a b k => Sys2Proof.Machine.execVredmin t a b k s
  | .vmaxi t a b c k => Sys2Proof.Machine.execVmaxi t a b c k s
  | .vmini t a b c k => Sys2Proof.Machine.execVmini t a b c k s
  | .mand a b c => Sys2Proof.Machine.execMand a b c s
  | .mor a b c => Sys2Proof.Machine.execMor a b c s
  | .mxor a b c => Sys2Proof.Machine.execMxor a b c s
  | .mnot a b => Sys2Proof.Machine.execMnot a b s
  | .mpopc a b => Sys2Proof.Machine.execMpopc a b s
  | .mfirst a b => Sys2Proof.Machine.execMfirst a b s
  | .mset a b => Sys2Proof.Machine.execMset a b s
  | .mmov a b => Sys2Proof.Machine.execMmov a b s
  | .mmovG a b => Sys2Proof.Machine.execMmovG a b s
  | .ppld b => Sys2Proof.Machine.execPpld b s
  | .ppsel z => Sys2Proof.Machine.execPpsel z s
  | .ppev t a b k => Sys2Proof.Machine.execPpev t a b k s
  | .mma f atn a b c => Sys2Proof.Machine.execMma f atn a b c s
  | .mzero a => Sys2Proof.Machine.execMzero a s
  | .mldb z b => Sys2Proof.Machine.execMldb z b s
  | .mring atn => Sys2Proof.Machine.execMring atn s
  | .mchk a => Sys2Proof.Machine.execMchk a s
  | .mst bf a b => Sys2Proof.Machine.execMst bf a b s
  | .mmir m => Sys2Proof.Machine.execMmir m s
  | .mwait a => Sys2Proof.Machine.execMwait a s
  | .mqstat a => Sys2Proof.Machine.execMqstat a s
  | .trapEntry c k cause addr => Sys2Proof.Machine.execTrapEntry c k cause addr s
  | .alarm c => Sys2Proof.Machine.execAlarm c s
  | .wfeTimeoutEvent c k => Sys2Proof.Machine.execWfeTimeoutEvent c k s
  | .wfeComplete c k => Sys2Proof.Machine.execWfeComplete c k s
  | .hjoinComplete c => Sys2Proof.Machine.execHjoinComplete c s
  | .parkWake c => Sys2Proof.Machine.execParkWake c s
  | .waitStComplete c k => Sys2Proof.Machine.execWaitStComplete c k s
  | .fdutyWindowApply c => Sys2Proof.Machine.execFdutyWindowApply c s
  | .dividerChangeComplete c => Sys2Proof.Machine.execDividerChangeComplete c s
  | .pageFaultReply obj pg resolved => Sys2Proof.Machine.execPageFaultReply obj pg resolved s
  | .coalescingBufferDrain c => Sys2Proof.Machine.execCoalescingBufferDrain c s
  | .loopbackAccess c k => Sys2Proof.Machine.execLoopbackAccess c k s
  | .sliceRequest c cid addr size op => Sys2Proof.Machine.execSliceRequest c cid addr size op s
  | .sliceFillBurst c cid addr => Sys2Proof.Machine.execSliceFillBurst c cid addr s
  | .obbFill c obj => Sys2Proof.Machine.execObbFill c obj s
  | .frameTest die stack frame pass => Sys2Proof.Machine.execFrameTest die stack frame pass s
  | .giveIndivisibleStep c k => Sys2Proof.Machine.execGiveIndivisibleStep c k s
  | .wwaitComplete c k => Sys2Proof.Machine.execWwaitComplete c k s
  | .wunmapComplete c k => Sys2Proof.Machine.execWunmapComplete c k s
  | .xbarRelease j => Sys2Proof.Machine.execXbarRelease j s
  | .xsendBeats c k => Sys2Proof.Machine.execXsendBeats c k s
  | .xrecvWindow c k => Sys2Proof.Machine.execXrecvWindow c k s
  | .exchangePayloadLanding => Sys2Proof.Machine.execExchangePayloadLanding s
  | .xsendrCombine j => Sys2Proof.Machine.execXsendrCombine j s
  | .xendRelease j => Sys2Proof.Machine.execXendRelease j s
  | .messageArrival dst eth src data => Sys2Proof.Machine.execMessageArrival dst eth src data s
  | .qsendBoundExpiry c k => Sys2Proof.Machine.execQsendBoundExpiry c k s
  | .qrecvComplete c k => Sys2Proof.Machine.execQrecvComplete c k s
  | .arrivalMessage j u m => Sys2Proof.Machine.execArrivalMessage j u m s
  | .barrierRelease j u => Sys2Proof.Machine.execBarrierRelease j u s
  | .barrierTimeout c k => Sys2Proof.Machine.execBarrierTimeout c k s
  | .tokwGrant c k => Sys2Proof.Machine.execTokwGrant c k s
  | .tokenHoldTimeout r c => Sys2Proof.Machine.execTokenHoldTimeout r c s
  | .tokenRingRound r => Sys2Proof.Machine.execTokenRingRound r s
  | .cpyComplete c => Sys2Proof.Machine.execCpyComplete c s
  | .cpywComplete c k => Sys2Proof.Machine.execCpywComplete c k s
  | .timedCommandStart c copy id => Sys2Proof.Machine.execTimedCommandStart c copy id s
  | .collChunk j => Sys2Proof.Machine.execCollChunk j s
  | .collMemberTimeout j => Sys2Proof.Machine.execCollMemberTimeout j s
  | .collwComplete c k => Sys2Proof.Machine.execCollwComplete c k s
  | .podChunkTimeout => Sys2Proof.Machine.execPodChunkTimeout s
  | .vectorQueueStart c => Sys2Proof.Machine.execVectorQueueStart c s
  | .vectorQueueComplete c => Sys2Proof.Machine.execVectorQueueComplete c s
  | .matrixDispatch oct res => Sys2Proof.Machine.execMatrixDispatch oct res s
  | .matrixCommandComplete c => Sys2Proof.Machine.execMatrixCommandComplete c s
  | .mringLanding c => Sys2Proof.Machine.execMringLanding c s
  | .mringTimeout c => Sys2Proof.Machine.execMringTimeout c s
  | .mwaitComplete c => Sys2Proof.Machine.execMwaitComplete c s
  | .ductusRound j => Sys2Proof.Machine.execDuctusRound j s
  | .auditVerdict j => Sys2Proof.Machine.execAuditVerdict j s
  | .copyUpdate j => Sys2Proof.Machine.execCopyUpdate j s
  | .dpokeCnt j u v => Sys2Proof.Machine.execDpokeCnt j u v s
  | .dpokeF j u c v => Sys2Proof.Machine.execDpokeF j u c v s
  | .dpokeXv r c v => Sys2Proof.Machine.execDpokeXv r c v s
  | .dpokeStep j c v => Sys2Proof.Machine.execDpokeStep j c v s
  | .dpokeDist j c v => Sys2Proof.Machine.execDpokeDist j c v s
  | .dpokeGen j v => Sys2Proof.Machine.execDpokeGen j v s
  | .tokkWrite c k v => Sys2Proof.Machine.execTokkWrite c k v s
  | .srseedWrite c k v => Sys2Proof.Machine.execSrseedWrite c k v s
  | .accmapWrite c k v => Sys2Proof.Machine.execAccmapWrite c k v s
  | .registerWrite c k reg v => Sys2Proof.Machine.execRegisterWrite c k reg v s
  | .dispatchPass => Sys2Proof.Machine.execDispatchPass s
  | .wakeMessage c n => Sys2Proof.Machine.execWakeMessage c n s
  | .launchStart c => Sys2Proof.Machine.execLaunchStart c s
  | .counterWindowStore cid n v => Sys2Proof.Machine.execCounterWindowStore cid n v s
  | .counterWindowAmoadd c k cid n rd v => Sys2Proof.Machine.execCounterWindowAmoadd c k cid n rd v s
  | .counterWindowLoad c k cid n rd => Sys2Proof.Machine.execCounterWindowLoad c k cid n rd s
  | .ageExpiry n => Sys2Proof.Machine.execAgeExpiry n s
  | .pdelayExpiry n => Sys2Proof.Machine.execPdelayExpiry n s
  | .preemptMessage n => Sys2Proof.Machine.execPreemptMessage n s
  | .switchOut c => Sys2Proof.Machine.execSwitchOut c s
  | .xmaxlenExpiry n => Sys2Proof.Machine.execXmaxlenExpiry n s
  | .resume n => Sys2Proof.Machine.execResume n s
  | .pageMigration obj pg stack frame => Sys2Proof.Machine.execPageMigration obj pg stack frame s
  | .migrationSwitch obj pg => Sys2Proof.Machine.execMigrationSwitch obj pg s
  | .domainSplit die d e slots => Sys2Proof.Machine.execDomainSplit die d e slots s
  | .splitWalk die d set => Sys2Proof.Machine.execSplitWalk die d set s
  | .snapshotDrain obj => Sys2Proof.Machine.execSnapshotDrain obj s
  | .rampSlotBoundary => Sys2Proof.Machine.execRampSlotBoundary s
  | .pounceLevelDecay oct => Sys2Proof.Machine.execPounceLevelDecay oct s
  | .budgetControllerPass => Sys2Proof.Machine.execBudgetControllerPass s
  | .powerSwitchOff c => Sys2Proof.Machine.execPowerSwitchOff c s
  | .droopEvent die row => Sys2Proof.Machine.execDroopEvent die row s
  | .prethrottleEnd die row => Sys2Proof.Machine.execPrethrottleEnd die row s
  | .deviceLevelFault cid kind addr core ecause => Sys2Proof.Machine.execDeviceLevelFault cid kind addr core ecause s
  | .patrolScrub t => Sys2Proof.Machine.execPatrolScrub t s
  | .linkRecalibration l => Sys2Proof.Machine.execLinkRecalibration l s
  | .hbmRecalibration die stack => Sys2Proof.Machine.execHbmRecalibration die stack s
  | .telemetry => Sys2Proof.Machine.execTelemetry s
  | .linkTimeout l => Sys2Proof.Machine.execLinkTimeout l s
  | .routerTimeout die r => Sys2Proof.Machine.execRouterTimeout die r s
  | .dieTimeout die => Sys2Proof.Machine.execDieTimeout die s
  | .moduleTimeout m => Sys2Proof.Machine.execModuleTimeout m s
  | .routeRecomputation die => Sys2Proof.Machine.execRouteRecomputation die s
  | .attach h vmin vmax feat modno pods => Sys2Proof.Machine.execAttach h vmin vmax feat modno pods s
  | .attest h nonce => Sys2Proof.Machine.execAttest h nonce s
  | .fwload h chunk last sigOk => Sys2Proof.Machine.execFwload h chunk last sigOk s
  | .start h cold => Sys2Proof.Machine.execStart h cold s
  | .startStageComplete ok => Sys2Proof.Machine.execStartStageComplete ok s
  | .startTimeout => Sys2Proof.Machine.execStartTimeout s
  | .powerOn imageOk => Sys2Proof.Machine.execPowerOn imageOk s
  | .cidres h => Sys2Proof.Machine.execCidres h s
  | .cidevict h => Sys2Proof.Machine.execCidevict h s
  | .cidcfg h weight quota => Sys2Proof.Machine.execCidcfg h weight quota s
  | .nodewrite h n r => Sys2Proof.Machine.execNodewrite h n r s
  | .nodeready h ns => Sys2Proof.Machine.execNodeready h ns s
  | .nodefree h n => Sys2Proof.Machine.execNodefree h n s
  | .nodeadd h n inc => Sys2Proof.Machine.execNodeadd h n inc s
  | .objcreate h obj die dom priv owncore owncid runs => Sys2Proof.Machine.execObjcreate h obj die dom priv owncore owncid runs s
  | .objresize h obj size => Sys2Proof.Machine.execObjresize h obj size s
  | .objdelete h obj => Sys2Proof.Machine.execObjdelete h obj s
  | .memwrite h addr data => Sys2Proof.Machine.execMemwrite h addr data s
  | .memread h addr n => Sys2Proof.Machine.execMemread h addr n s
  | .snapshot h obj t room => Sys2Proof.Machine.execSnapshot h obj t room s
  | .regwrite h reg v => Sys2Proof.Machine.execRegwrite h reg v s
  | .statread h reg core => Sys2Proof.Machine.execStatread h reg core s
  | .doorbell h core => Sys2Proof.Machine.execDoorbell h core s
  | .dieThrottle die => Sys2Proof.Machine.execDieThrottle die s
  | .dieTrip die => Sys2Proof.Machine.execDieTrip die s
  | .softError t mask => Sys2Proof.Machine.execSoftError t mask s
  | .prethrottleStart die row => Sys2Proof.Machine.execPrethrottleStart die row s
  | .linkFailureNamed l => Sys2Proof.Machine.execLinkFailureNamed l s

end Sys2Proof.Machine
end

