-- ==== Sys2Proof/Machine/Events.lean ====
section
/-!
DEFINITION. The effect of an event that is due: the meaning of its row of spec/opcode_table.json.
-/
namespace Sys2Proof.Machine

/-- Take an event. -/
def runEvent (e : Event) (s : State) : Result :=
  match e with
  | .trapEntry c k cause addr => execTrapEntry c k cause addr s
  | .alarm c => execAlarm c s
  | .wfeTimeoutEvent c k => execWfeTimeoutEvent c k s
  | .wfeComplete c k => execWfeComplete c k s
  | .hjoinComplete c => execHjoinComplete c s
  | .parkWake c => execParkWake c s
  | .waitStComplete c k => execWaitStComplete c k s
  | .fdutyWindowApply c => execFdutyWindowApply c s
  | .dividerChangeComplete c => execDividerChangeComplete c s
  | .pageFaultReply obj pg resolved => execPageFaultReply obj pg resolved s
  | .coalescingBufferDrain c => execCoalescingBufferDrain c s
  | .loopbackAccess c k => execLoopbackAccess c k s
  | .sliceRequest c cid addr size op => execSliceRequest c cid addr size op s
  | .sliceFillBurst c cid addr => execSliceFillBurst c cid addr s
  | .obbFill c obj => execObbFill c obj s
  | .frameTest die stack frame pass => execFrameTest die stack frame pass s
  | .giveIndivisibleStep c k => execGiveIndivisibleStep c k s
  | .wwaitComplete c k => execWwaitComplete c k s
  | .wunmapComplete c k => execWunmapComplete c k s
  | .xbarRelease j => execXbarRelease j s
  | .xsendBeats c k => execXsendBeats c k s
  | .xrecvWindow c k => execXrecvWindow c k s
  | .exchangePayloadLanding => execExchangePayloadLanding s
  | .xsendrCombine j => execXsendrCombine j s
  | .xendRelease j => execXendRelease j s
  | .messageArrival dst eth src data => execMessageArrival dst eth src data s
  | .qsendBoundExpiry c k => execQsendBoundExpiry c k s
  | .qrecvComplete c k => execQrecvComplete c k s
  | .arrivalMessage j u m => execArrivalMessage j u m s
  | .barrierRelease j u => execBarrierRelease j u s
  | .barrierTimeout c k => execBarrierTimeout c k s
  | .tokwGrant c k => execTokwGrant c k s
  | .tokenHoldTimeout r c => execTokenHoldTimeout r c s
  | .tokenRingRound r => execTokenRingRound r s
  | .cpyComplete c => execCpyComplete c s
  | .cpywComplete c k => execCpywComplete c k s
  | .timedCommandStart c copy id => execTimedCommandStart c copy id s
  | .collChunk j => execCollChunk j s
  | .collMemberTimeout j => execCollMemberTimeout j s
  | .collwComplete c k => execCollwComplete c k s
  | .podChunkTimeout => execPodChunkTimeout s
  | .vectorQueueStart c => execVectorQueueStart c s
  | .vectorQueueComplete c => execVectorQueueComplete c s
  | .matrixDispatch oct res => execMatrixDispatch oct res s
  | .matrixCommandComplete c => execMatrixCommandComplete c s
  | .mringLanding c => execMringLanding c s
  | .mringTimeout c => execMringTimeout c s
  | .mwaitComplete c => execMwaitComplete c s
  | .ductusRound j => execDuctusRound j s
  | .auditVerdict j => execAuditVerdict j s
  | .copyUpdate j => execCopyUpdate j s
  | .dpokeCnt j u v => execDpokeCnt j u v s
  | .dpokeF j u c v => execDpokeF j u c v s
  | .dpokeXv r c v => execDpokeXv r c v s
  | .dpokeStep j c v => execDpokeStep j c v s
  | .dpokeDist j c v => execDpokeDist j c v s
  | .dpokeGen j v => execDpokeGen j v s
  | .tokkWrite c k v => execTokkWrite c k v s
  | .srseedWrite c k v => execSrseedWrite c k v s
  | .accmapWrite c k v => execAccmapWrite c k v s
  | .registerWrite c k reg v => execRegisterWrite c k reg v s
  | .dispatchPass => execDispatchPass s
  | .wakeMessage c n => execWakeMessage c n s
  | .launchStart c => execLaunchStart c s
  | .counterWindowStore cid n v => execCounterWindowStore cid n v s
  | .counterWindowAmoadd c k cid n rd v => execCounterWindowAmoadd c k cid n rd v s
  | .counterWindowLoad c k cid n rd => execCounterWindowLoad c k cid n rd s
  | .ageExpiry n => execAgeExpiry n s
  | .pdelayExpiry n => execPdelayExpiry n s
  | .preemptMessage n => execPreemptMessage n s
  | .switchOut c => execSwitchOut c s
  | .xmaxlenExpiry n => execXmaxlenExpiry n s
  | .resume n => execResume n s
  | .pageMigration obj pg stack frame => execPageMigration obj pg stack frame s
  | .migrationSwitch obj pg => execMigrationSwitch obj pg s
  | .domainSplit die d e slots => execDomainSplit die d e slots s
  | .splitWalk die d set => execSplitWalk die d set s
  | .snapshotDrain obj => execSnapshotDrain obj s
  | .rampSlotBoundary => execRampSlotBoundary s
  | .pounceLevelDecay oct => execPounceLevelDecay oct s
  | .budgetControllerPass => execBudgetControllerPass s
  | .powerSwitchOff c => execPowerSwitchOff c s
  | .droopEvent die row => execDroopEvent die row s
  | .prethrottleEnd die row => execPrethrottleEnd die row s
  | .deviceLevelFault cid kind addr core ecause => execDeviceLevelFault cid kind addr core ecause s
  | .patrolScrub t => execPatrolScrub t s
  | .linkRecalibration l => execLinkRecalibration l s
  | .hbmRecalibration die stack => execHbmRecalibration die stack s
  | .telemetry => execTelemetry s
  | .linkTimeout l => execLinkTimeout l s
  | .routerTimeout die r => execRouterTimeout die r s
  | .dieTimeout die => execDieTimeout die s
  | .moduleTimeout m => execModuleTimeout m s
  | .routeRecomputation die => execRouteRecomputation die s
  | .attach h vmin vmax feat modno pods => execAttach h vmin vmax feat modno pods s
  | .attest h nonce => execAttest h nonce s
  | .fwload h chunk last sigOk => execFwload h chunk last sigOk s
  | .start h cold => execStart h cold s
  | .startStageComplete ok => execStartStageComplete ok s
  | .startTimeout => execStartTimeout s
  | .powerOn imageOk => execPowerOn imageOk s
  | .cidres h => execCidres h s
  | .cidevict h => execCidevict h s
  | .cidcfg h weight quota => execCidcfg h weight quota s
  | .nodewrite h n r => execNodewrite h n r s
  | .nodeready h ns => execNodeready h ns s
  | .nodefree h n => execNodefree h n s
  | .nodeadd h n inc => execNodeadd h n inc s
  | .objcreate h obj die dom priv owncore owncid runs => execObjcreate h obj die dom priv owncore owncid runs s
  | .objresize h obj size => execObjresize h obj size s
  | .objdelete h obj => execObjdelete h obj s
  | .memwrite h addr data => execMemwrite h addr data s
  | .memread h addr n => execMemread h addr n s
  | .snapshot h obj t room => execSnapshot h obj t room s
  | .regwrite h reg v => execRegwrite h reg v s
  | .statread h reg core => execStatread h reg core s
  | .doorbell h core => execDoorbell h core s
  | .otherCommand h op => execOtherCommand h op s
  | .dieThrottle die => execDieThrottle die s
  | .dieTrip die => execDieTrip die s
  | .softError t mask => execSoftError t mask s
  | .prethrottleStart die row => execPrethrottleStart die row s
  | .linkFailureNamed l => execLinkFailureNamed l s

end Sys2Proof.Machine
end

