-- ==== Sys2Proof/Machine/Issue.lean ====
section
/-!
DEFINITION. Issue: what is considered at an instruction boundary and in which order (spec/05 R124 to R129), when a
context is ready and which one a core chooses (spec/01 R12, R13; spec/07 R183 to R186).
-/
namespace Sys2Proof.Machine

/-! ### The instruction at Q0 -/

/-- The CONTROL and LINE faults of the entry at Q0: a target that is not a line address, a line that is not well formed,
a head index beyond the line's heads, a target line with TGT = 0 (R65, R70). R124 gives no order among them and FETCH;
this order, FETCH second, is the model's (log 71). -/
def QEnt.fault (e : QEnt) : Option Cause :=
  if e.target && bits e.addr 5 0 != 0 then some { code := 0x04, addr := e.addr }
  else match e.line with
    | .ok l =>
      if !lineOk l || decide (lineH l ≤ headIdx e.addr) then some { code := 0x02, addr := lineOf e.addr }
      else if e.target && !lineTgt l then some { code := 0x04, addr := e.addr }
      else none
    | _ => none

/-- A recorded fault as a cause: the ECAUSE word and EADDR (R185, R365). -/
def causeOf (f : Word × Word) : Cause := { code := bits f.1 7 0, detail := bits f.1 63 16, addr := f.2 }

/-- A queue fault or a RAMP that context 0 takes at Q0 (R185, R365), with the core that has given it up. A matrix queue
fault and a RAMP wait while INTRAP = 1. -/
def Core.owed (x : Core) (intrap : Bool) : Option (Cause × Core) :=
  match x.run.ramp, x.vec.fault, x.mat.fault with
  | some w, f, g =>
    if !intrap then some (causeOf (w, 0), { x with run := { x.run with ramp := none } })
    else match f, g with
      | some f, _ => some (causeOf f, { x with vec := { x.vec with fault := none } })
      | none, _ => none
  | none, some f, _ => some (causeOf f, { x with vec := { x.vec with fault := none } })
  | none, none, some g => if intrap then none else some (causeOf g, { x with mat := { x.mat with fault := none } })
  | none, none, none => none

/-- What the issuing context owes at its boundary; only context 0 has queues. -/
def State.owed (s : State) : Option (Cause × Core) := if s.ctx = 0 then s.here.owed s.me.intrap else none

/-- The page wait of the issuing context ended without a frame (R129, R137): the fate of the instruction at Q0. -/
def Ctx.pageCause (x : Ctx) : Cause :=
  if x.fetching then { code := 0x05, detail := 3, addr := x.aux } else { code := if x.pagePoison then 0x0B else 0x0A, addr := x.aux }

/-- What is taken before the instruction at Q0 is decoded leaves ordered flips for the next decode word (R122); one that
waits has been decoded. -/
def State.keepFlip (s t : State) : State :=
  if s.me.wait.isSome then t else t.modMe (fun x => { x with decFlip := s.me.decFlip })

/-- A trap that follows a retirement: one that waits for its boundary, or one that a queue fault went ahead of, once
INTRAP is 0 (R160, R186; log 72). -/
def Ctx.pending (x : Ctx) : Option (Word × Word) := x.trapNext.orElse (fun _ => if x.intrap then none else x.owedTrap)

/-- The queue fault that the issuing context takes in place of what waited at its boundary for the vector queue: one
recorded during that wait (R186). A trap that waited is owed (log 72). -/
def State.takeRecorded (s : State) (z : Cause) : State :=
  let f := s.me.pending
  ((s.modHere (fun x => { x with vec := { x.vec with fault := none } })).raise z).modMe (fun x => { x with owedTrap := f })

/-- A SIGNATURE fault at the last line exit (R70): the save registers are those of a trap, and the launch's job context
takes a device-level fault in place of a handler (R71, R380). -/
def State.sigTrap (s : State) (p stored : BitVec 16) (line : Word) : State :=
  let z : Cause := { code := 0x03, detail := p.toNat + stored.toNat * 65536, addr := line }
  s.keepFlip ((s.modMe (fun x => { x.saved z with cstat := x.cstat })).failLaunch s.core 1 line z.word)

/-- Context 0 takes the interrupt of the lowest pending bit and consumes it (R125). -/
def State.takeIrq (s : State) : State := s.takeBit (lowestIrq s.here.ipend)

/-! ### The scoreboard (R13, R183) -/

/-- General registers that an instruction of the vector queue will write. -/
def genDests (i : Instr) : List GReg :=
  match i with
  | .vext a .. | .vredadd _ a .. | .vredmax _ a .. | .vredmin _ a .. | .mpopc a _ | .mfirst a _ | .mmovG a _ => [a]
  | .vmaxi _ a _ c _ | .vmini _ a _ c _ => [a, c]
  | _ => []

/-- Mask registers that it will write. -/
def maskDests (i : Instr) : List MReg :=
  match i with
  | .vseq _ a .. | .vslt _ a .. | .vsle _ a .. | .mand a .. | .mor a .. | .mxor a .. | .mnot a _ | .mset a _ | .mmov a _ => [a]
  | _ => []

/-- Vector registers that it will write. -/
def vecDests (i : Instr) : List VReg :=
  match i with
  | .vadd _ a .. | .vsub _ a .. | .vmul _ a .. | .vmin _ a .. | .vmax _ a .. | .vand _ a .. | .vor _ a .. | .vxor _ a ..
  | .vshl _ a .. | .vshrl _ a .. | .vshra _ a .. | .vabs _ a .. | .vneg _ a .. | .vfma _ a .. | .vsel a .. | .vbcast _ a ..
  | .vperm a .. | .vld a .. | .vldl a .. | .vlds _ a .. | .vgath _ a .. | .ppev _ a .. => [a]
  | .vcvt _ _ _ _ a _ d _ => [a, d]
  | _ => []

/-- Whether a major names a register in head field b. -/
def readsB (m : Nat) : Bool := m ≤ 0x09 || (0x0B ≤ m && m ≤ 0x19) || m == 0x21 || m == 0x27
/-- Whether a major names a register in tail field c. -/
def readsC (m : Nat) : Bool := [0x08, 0x0D, 0x0E, 0x0F, 0x14, 0x17, 0x18, 0x19, 0x27, 0x28].contains m

/-- The general registers that an instruction names, by its head and tail (R61, R73). -/
def genNamed (e : Enc) (i : Instr) : List GReg :=
  let m := e.head / 1024
  let top := 8 * tailLen m - 5
  let a : GReg := BitVec.ofNat 5 (e.head / 32)
  let b : GReg := BitVec.ofNat 5 e.head
  let c : GReg := BitVec.ofNat 5 (e.tail / 2 ^ top)
  match i with
  | .hstart .. => [a, b, c, 3, 4, 5, 6, 7, 8, 9, 10]
  | .ffma .. => [a, b, c, BitVec.ofNat 5 (e.tail / 2 ^ (top - 5))]
  | .vbcast .. | .mset .. | .ppld _ | .mldb .. | .mst .. | .vld .. | .vst .. | .vldl .. | .vstl .. | .vgath .. | .vscat .. => [b]
  | .vlds .. | .mma .. => [b, c]
  | .vext .. | .vmaxi .. | .vmini .. => [a, c]
  | .vredadd .. | .vredmax .. | .vredmin .. | .mpopc .. | .mfirst .. | .mmovG .. | .vclaim .. | .vlen _ | .mwait _ | .mqstat _ => [a]
  | _ => if 0x30 ≤ m then [] else [a] ++ (if readsB m then [b] else []) ++ (if readsC m then [c] else [])

/-- Whether an instruction reads the register of its head field a. -/
def readsA (i : Instr) : Bool :=
  match i with
  | .add2 .. | .sub2 .. | .and2 .. | .or2 .. | .xor2 .. | .shl2 .. | .shrl2 .. | .csel .. | .bfi .. | .beq .. | .bne .. | .blt .. | .bge ..
  | .bltn .. | .bgen .. | .bz .. | .bnz .. | .jr .. | .hexit .. | .bil .. | .st .. | .stl .. | .amocas .. | .cpy .. | .coll .. => true
  | _ => false
/-- The general registers that an instruction reads as it issues (R375): HSTART copies context 0's g3 to g10 (R108). -/
def genReads (e : Enc) (i : Instr) : List Nat :=
  let l := genNamed e i
  (match i with
    | .vbcast .. | .mset .. | .ppld _ | .mldb .. | .mst .. | .vld .. | .vst .. | .vldl .. | .vstl .. | .vlds .. | .vgath .. | .vscat .. | .mma .. => l
    | .vmaxi .. | .vmini .. => []
    | i => if readsA i then l else l.drop 1).map (fun (r : GReg) => r.toNat)

/-- Whether an instruction of the vector queue draws from the stochastic generators. -/
def drawsSr (i : Instr) : Bool := match i with | .vcvt _ _ .sr .. => true | _ => false

/-- Whether a register that the instruction names is pending in the vector queue; g0 never is. A vector memory
instruction waits for its mask and its address registers too, because its issue checks read them (R183). -/
def Core.pending (x : Core) (e : Enc) (i : Instr) : Bool :=
  let q := x.vec.queue.map (·.instr)
  let mask (k : MReg) : Bool := k != 0 && (q.flatMap maskDests).contains k
  (genNamed e i).any (fun r => r != 0 && (q.flatMap genDests).contains r)
    || (match i with
      | .vld _ _ _ k | .vst _ _ _ k | .vldl _ _ _ k | .vstl _ _ _ k | .vlds _ _ _ _ _ k => mask k
      | .vgath _ _ _ c _ k | .vscat _ _ _ c _ k => mask k || (q.flatMap vecDests).contains c
      -- draws are made in program order: a queued VCVT.SR before a later FCVT.SR or write of SRSEED (R44, R57)
      | .fcvt _ _ .sr _ _ => q.any drawsSr
      | .wrsys r _ => r == 0x008 && q.any drawsSr
      | _ => false)

/-! ### Queue targets (R183) -/

/-- Where an instruction is to be queued. -/
inductive Target where
  | vector | matrix | copy | coll | none
  deriving DecidableEq, Repr

/-- The queue that an instruction enters, by its major (R177, R183). -/
def targetOf (e : Enc) (i : Instr) : Target :=
  let m := e.head / 1024
  match i with
  | .injectAcc .. | .mma .. | .mzero _ | .mldb .. | .mring _ | .mchk _ | .mst .. => .matrix
  | .cpy .. => .copy
  | .coll .. => .coll
  | _ => if (0x30 ≤ m && m ≤ 0x34) || m == 0x36 then .vector else .none

/-- Whether a queue has room. -/
def Core.room (x : Core) (t : Target) : Bool :=
  match t with
  | .vector => x.vecRoom
  | .matrix => x.matRoom
  | .copy => decide ((x.engsOf true).length < 4)
  | .coll => decide ((x.engsOf false).length < 4)
  | .none => true

/-! ### Local accesses behind queued commands (R184) -/

/-- The local ranges that an instruction of the issuing context would touch as it issues. -/
def State.localUse (s : State) (i : Instr) : List (Nat × Nat) :=
  match i with
  | .ldl z _ b imm | .ldln z _ b imm | .stl z _ b imm => [(s.localAddr b imm, sizeBytes z)]
  | .injectLoc _ c _ _ => [((s.g c).toNat, 8)]
  | .qsend _ len1 _ _ c => [((s.g c).toNat, 8 * (len1.toNat + 1))]
  | .qrecv _ c => match s.here.ringSlot with | some k => [((s.g c).toNat, round8 (s.recordWord k % 65536))] | none => []
  | .xsend _ _ c | .xsendr _ _ _ c => [(bits (s.g c) 19 0, 256)]
  | .cpy _ a b c | .coll _ _ _ _ a b c => ([s.g a, s.g b].filter isLocal).map (fun v => (v.toNat, bits (s.g c) 31 0))
  | _ => []

/-- The local ranges that a command would touch from its queue. -/
def State.queueUse (s : State) (i : Instr) : List (Nat × Nat) :=
  match i with
  | .vldl _ b _ k | .vstl _ b _ k => rangesOf i [s.g b] s.here.vec.vlen (s.here.gov k)
  | .ppld b => rangesOf i [s.g b] 0 0
  | .mma _ _ _ b c => rangesOf i [s.g b, s.g c] 0 0
  | .mldb _ b | .mst _ _ b => rangesOf i [s.g b] 0 0
  | _ => []

/-- Whether an access must wait for a queued command it overlaps. A command is held behind those of the other queue;
its own queue runs in order. -/
def State.overlaps (s : State) (e : Enc) (i : Instr) : Bool :=
  let x := s.here
  let hits (a b : List (Nat × Nat)) : Bool := a.any (fun r => b.any (overlap32 r))
  hits (s.localUse i) (x.vecRanges ++ x.matRanges)
    || (match targetOf e i with
      | .vector => hits (s.queueUse i) x.matRanges
      | .matrix => hits (s.queueUse i) x.vecRanges
      | _ => false)

/-! ### The boundary (R124) -/

/-- The local ranges whose tile tags an instruction of the issuing context reads as it issues (R155); TAGRD reads one. -/
def State.tagUse (s : State) (i : Instr) : List (Nat × Nat) :=
  match i with
  | .stl .. | .vstl .. | .mst .. => []
  | .tagrd _ slot b => [(slotBase slot.toNat + 0x1000 * bits (s.g b) 3 0, 1)]
  | i => s.localUse i ++ s.queueUse i

/-- Issue of a context reads its PC queue and checker, and meets their errors (R375, R377). Also whether the launch is
lost. -/
def State.meetQueue (s : State) : State × Bool :=
  let mine := s.here.struck.filter (fun e => e.ctx == s.ctx)
  if mine.isEmpty then (s, false)
  else (s.modHere (fun x => { x with struck := x.struck.filter (fun e => e.ctx != s.ctx) })).suffer s.core 7 (mine.map (·.dbl))

/-- Whether an instruction of the issuing context reads nothing that an error has struck: neither a register nor a tag. -/
def State.whole (s : State) (i : Instr) : Bool :=
  (hurtOf s.me.hurt (genReads s.me.shown i)).isEmpty && (s.octets.all (fun o => o.2.wells.all (fun w => w.2.tagErr.isEmpty)))

/-- An instruction meets the errors of what it reads, then issues, unless its launch is lost (R375, R377). -/
def State.issueHurt (s : State) (i : Instr) : Result :=
  let rs := genReads s.me.shown i
  let (t, lost) := (s.modMe (fun x => { x with hurt := x.hurt.filter (fun h => !rs.contains h.1) })).suffer s.core 4 (hurtOf s.me.hurt rs)
  let t := each (s.tagUse i) t (fun t r => t.meetTags s.core r.1 r.2)
  if lost then .next t else exec i t

/-- What is considered at the boundary of the issuing context, and what issues there (R124). A queue fault recorded while the boundary
waited for the vector queue is the trap taken (R186); a LINE, FETCH or CONTROL fault is taken for an annulled Q0 too (log 71). -/
def State.boundary (s : State) : Result :=
  let x := s.me
  match x.sigFault with
  | some (p, stored, line) => .next (if s.boundaryReady then s.sigTrap p stored line else s)
  | none =>
    if let (some f, true) := (s.here.vec.fault, s.ctx == 0 && (x.awaits || x.pending.isSome)) then
      .next (if s.boundaryReady then s.keepFlip (s.takeRecorded (causeOf f)) else s)
    else if let some f := x.pending then
      .next (if s.boundaryReady then s.keepFlip ((s.modMe (fun x => { x with trapNext := none, owedTrap := none })).raise (causeOf f)) else s)
    else if s.ctx == 0 && s.irqDue s.core && s.here.vec.fault.isNone then .next (if s.boundaryReady then s.keepFlip s.takeIrq else s)
    else match x.q0.fault with
      | some z => .next (s.keepFlip (s.raise z))
      | none =>
        if x.page.isSome && x.fetching then .next (s.keepFlip (s.raise x.pageCause))
        else match x.q0.line with
          | .ok _ =>
            if x.q0.annul then .next s.retire
            else match s.owed with
              | some (z, y) => .next (if s.boundaryReady then s.keepFlip ((s.modHere (fun _ => y)).raise z) else s)
              | none =>
                if x.page.isSome then .next (s.raise x.pageCause)
                else match x.decoded with
                  | some i => if s.whole i then exec i s else s.issueHurt i
                  | none => .next s.illegal
          | _ => .next (s.keepFlip (s.fetchFate x.q0))

/-- The issue of the chosen context. -/
def State.issue (s : State) : Result :=
  match s.meetQueue with
  | (s, true) => .next s
  | (s, false) => s.boundary

/-! ### Sub-banks of the instruction at Q0 (R226, R227) -/

/-- The sub-banks that the instruction at Q0 of a context would use as it issues, each with its requester. -/
def State.claims (s : State) (c k : Nat) : List (Nat × Nat) :=
  let s := s.at_ c k
  match if s.me.q0.annul then none else s.me.decoded with
  | none => []
  | some i =>
    let own := match i with
      | .ldl .. | .ldln .. | .stl .. | .qsend .. | .qrecv .. => (s.localUse i).flatMap (fun r => (s.subBanks c r.1 r.2).map (fun b => (b, posOf c)))
      | _ => []
    match accOf i with
    | none => own
    | some m =>
      let a := eaOf (s.g m.b) m.imm
      if idOf a = aliasId then
        let t := offOf a / 2 ^ 20
        own ++ (s.subBanks t (offOf a % 2 ^ 20) m.n).map (fun b => (b, 11 + posOf t))
      else own

/-! ### Readiness (R13) -/

/-- Whether the instruction at Q0 of the issuing context may issue: operands free, room in its queue, no overlap, its
sub-banks not served in this step. An annulled instruction, and one whose fault is due, needs none of these. -/
def State.mayIssue (s : State) : Bool :=
  let x := s.me
  if x.q0.annul || x.q0.fault.isSome then true
  else match x.decoded with
    | none => true
    | some i => !(s.ctx == 0 && s.here.pending x.shown i) && !(genNamed x.shown i).any (fun r => x.late s.here.cycle r.toNat) && s.here.room (targetOf x.shown i) && !s.overlaps x.shown i
      && !s.bankTaken (s.claims s.core s.ctx)

/-- Whether an interrupt may break off the wait of a context: a transfer's until its step (R117, R159), and not PARK's,
which completes first (R121). -/
def State.beforeStep (s : State) (c : Nat) (y : Ctx) : Bool :=
  match y.wait with
  | some (.xsend n ..) | some (.xsendr _ _ n _) | some (.xrecv n _) => decide ((s.stepOf c).toNat < (s.coreAt c).label n.toNat)
  | some .park => false
  | _ => true

/-- Whether a context of a core is ready. A boundary at which context 0 takes a fault or an interrupt waits for the
vector queue (R186); a core that is on its way out issues nothing, but a trap that waits for its boundary is taken
first (R130, R328). -/
def State.ready (s : State) (c k : Nat) : Bool :=
  let s := s.at_ c k
  let x := s.me
  let y := s.here
  let irq := k == 0 && s.irqDue c
  let late := k == 0 && y.queueFaulted x.intrap && (match x.wait with | some (.mwait _) => true | _ => false)
  x.st == .live && (!y.leaving || x.trapNext.isSome) && !s.blocked.contains (c, k)
    && (if x.sigFault.isSome || x.pending.isSome || irq || x.pageBad || s.owed.isSome then
          s.boundaryReady && (x.wait.isNone || (irq && x.mayStop && s.beforeStep c x) || late) && (x.page.isNone || x.pageBad)
        else x.wait.isNone && x.page.isNone && s.mayIssue)

/-! ### The choice of a core (R12, R13) -/

/-- The duty in force: FORCED reads as 16, a pre-throttle allows at most 8 (R28, R368). -/
def State.dutyNow (s : State) (c : Nat) : Nat :=
  let f := (s.coreAt c).fduty
  if f.forced then 16 else if s.throttled c then min f.duty 8 else f.duty

/-- Whether fetch duty D permits issue at a cycle number (R12). -/
def permits (D n : Nat) : Bool := decide (n * D / 16 < (n + 1) * D / 16)

/-- Whether a core may issue in this step: powered, at a cycle of its divided clock, permitted by R12. A parked core's
clock stands still; what ends its wait is not held back by it. -/
def State.slotOpen (s : State) (c : Nat) : Bool :=
  let x := s.coreAt c
  x.powered && !x.issued && (x.parked || (x.phase == 0 && permits (s.dutyNow c) (x.cycle.toNat % 16)))

/-- The helpers in the order of their turns: hptr + 1, ..., 10, 1, ..., hptr. -/
def turnOrder (hptr : Nat) : List Nat := (List.range 10).map (fun i => (hptr + i) % 10 + 1)

/-- The choice of R13: the context, and hptr after it. -/
def Core.choose (x : Core) (ready : Nat → Bool) : Option (Nat × Nat) :=
  let helper := (turnOrder x.hptr).find? ready
  if ready 0 && (x.last != some 0 || helper.isNone) then some (0, x.hptr) else helper.map (fun k => (k, k))

/-- The context that a core issues in this step, if any. -/
def State.pick (s : State) (c : Nat) : Option (Nat × Nat) :=
  if s.slotOpen c then (s.coreAt c).choose (s.ready c) else none

/-- The offset of a transfer that a context's Q0 holds. -/
def Ctx.sendAt (x : Ctx) : Option Nat :=
  match x.decoded with
  | some (.xsend n ..) => some n.toNat
  | some (.xsendr _ _ n _) => some n.toNat
  | some (.xrecv n _) => some n.toNat
  | _ => none

/-- A core that issues a transfer in the transfer's own step: its beats land before any other access of that step (R227). -/
def State.firstIssue (s : State) : Option (Nat × Nat × Nat) :=
  s.cores.findSome? (fun (c, x) =>
    if !x.xopen then none
    else match s.pick c with
      | none => none
      | some p => match (x.ctxAt p.1).sendAt with
        | some n => if x.label n = (s.stepOf c).toNat then some (c, p) else none
        | none => none)

/-- Beats that leave now: a send's or a contribution's next one (R159, R161). -/
def State.beatsDue (s : State) (c : Nat) (x : Core) : List Event :=
  let t := (s.stepOf c).toNat
  (x.xch.sends.filter (fun e => decide (e.beat < 4) && decide (x.label e.n + e.beat ≤ t))).map (fun e => .xsendBeats c e.ctx)
    ++ (x.xch.contrib.filter (fun e => decide (e.data.length < 256) && decide (x.label e.n + e.data.length / 64 ≤ t))).map
      (fun e => .xsendBeats c e.ctx)

/-- The exchange's part of a step, before any other access of it (R227): beats that are due leave and land, then the
combinations whose last step it is (R161, R268). -/
def State.exchangeDue (s : State) : List Event :=
  match s.cores.flatMap (fun (c, x) => if x.xopen then s.beatsDue c x else []) with
  | e :: l => (e :: l) ++ [.exchangePayloadLanding]
  | [] => ((s.cores.filterMap (fun (c, x) =>
      if x.xch.contrib.any (fun e => decide (x.label e.n + combineSpan x.xscope ≤ (s.stepOf c).toNat)) then some (instOf x.xscope c) else none)).eraseDups).map
        Event.xsendrCombine

/-- Whether the choice of a core goes before another's at a sub-bank that both would use (R227 item 3). -/
def State.goesBefore (s : State) (p q : Nat × Nat × Nat) : Bool :=
  let l := s.claims q.1 q.2.1
  match (s.claims p.1 p.2.1).findSome? (fun e => (l.find? (fun f => f.1 == e.1)).map (fun f => (e, f))) with
  | some (e, f) => decide (s.rotation e.1 e.2 < s.rotation f.1 f.2)
  | none => false

/-- The next core that issues in this step: one that issues a transfer in its own step; then, once the exchange and the
engines have been served, the others, in increasing number where no sub-bank's rotation says otherwise (R227; log 7). -/
def State.nextIssue (s : State) : Option (Nat × Nat × Nat) :=
  if s.stage = .over then none
  else match s.firstIssue with
    | some p => some p
    | none =>
      if !s.exchangeDue.isEmpty || s.stage = .exchange then none
      else match s.cores.filterMap (fun e => (s.pick e.1).map (fun p => (e.1, p))) with
        | [] => none
        | p :: r => some (r.foldl (fun b q => if s.goesBefore q b then q else b) p)

/-- The state in which the chosen context issues. -/
def State.chosen (s : State) (c k hptr : Nat) : State :=
  ((s.modCore c (fun x => { x with last := some k, hptr := hptr, issued := true })).modCtx c k (fun x => { x with acted := false })).at_ c k

/-! ### Placing an instruction -/

/-- The line address at which an instruction is placed: the first line of object 1. -/
def fetchLine : Word := addrOf 1 0
/-- A line that is not read before it is reached. -/
def blankLine : Line := List.replicate 64 0

/-- Context 0 of core 0 issues next, from a line read for its Q0: the PC queue holds the lines that its entries were
read from (R67). What would keep that context from issuing is cleared; nothing else of the module changes. -/
def State.placeLine (s : State) (l : Line) : State :=
  let at_ (n : Nat) (l : Line) : QEnt := { addr := fetchLine + w64 (64 * n), line := .ok l }
  let s := ({ s with agenda := [], stage := .issue, served := [], blocked := [], cores := sall s.cores (fun x => { x with issued := true, xch := { x.xch with sends := [], contrib := [] } }) }.modRow 0 0 (fun x => { x with thrAt := none })).modCore 0 (fun x => { x with
    thr := 0
    last := none, issued := false, powered := true, parked := false, phase := 0, ipend := 0
    fduty := { x.fduty with duty := 16 }
    vec := { x.vec with queue := [], fault := none }
    mat := { x.mat with queue := [], fault := none }
    run := { x.run with ramp := none, preempt := false } })
  s.modCtx 0 0 (fun x => { x.settle with
    st := .live, sigFault := none, trapNext := none, owedTrap := none, eret := 0
    q0 := { at_ 0 l with target := true }, q1 := at_ 1 blankLine, q2 := at_ 2 blankLine, p := 0xFFFF, due := [] })

end Sys2Proof.Machine
end

