-- ==== Sys2Proof/Machine/Tick.lean ====
section
/-!
DEFINITION. What becomes due as a step ends: the starts of the step, the clocks of the cores, and the events of the
next step (spec/00 R3; spec/01 R26, R28; spec/12 R280, R289; spec/16; spec/18; spec/17). An event that is due looks
again at its own condition when it is taken.
-/
namespace Sys2Proof.Machine

/-- Put events at the end of the agenda. -/
def State.pushAll (s : State) (l : List Event) : State := { s with agenda := s.agenda ++ l }
/-- An event when a condition holds. -/
def dueIf (b : Bool) (e : Event) : List Event := if b then [e] else []

/-! ### Starts, after every core has issued (R180, R183, R210) -/

/-- Timed engine commands whose step has come (R180). -/
def State.timedStarts (s : State) : List Event :=
  s.cores.flatMap (fun (c, x) => x.engs.flatMap (fun e => match e.start with
    | some t => dueIf (!e.begun && decide (t.toNat ≤ (s.stepOf c).toNat)) (.timedCommandStart c e.copy e.id) | none => []))

/-- Vector heads that start, matrix commands that an octet may start, and the timed engine commands that issued in their
own step. -/
def State.startEvents (s : State) : List Event :=
  let vec := s.cores.flatMap (fun (c, x) => match x.vec.queue with
    | e :: _ => dueIf e.fin.isNone (.vectorQueueStart c) | [] => [])
  let octs := ((s.cores.filter (fun e => !e.2.mat.queue.isEmpty)).map (fun e => octOf e.1)).eraseDups
  let mat := octs.flatMap (fun o => [0, 1, 2].map (Event.matrixDispatch o))
  vec ++ mat ++ s.timedStarts

/-! ### Clocks -/

/-- A core as a step ends: its cycle, divided from the step, the memory of who issued, and its part of a pre-throttle
(R3, R13, R28, R368). The cycle in which PARK issues with empty queues is not counted (R26; log 71). -/
def Core.tick (x : Core) : Core :=
  if !x.clockRuns then { x with issued := false, began := false }
  else if x.phase = 0 then
    { x with cycle := x.cycle + 1, phase := divOf x.fduty.div - 1, last := if x.issued then x.last else none, issued := false
             began := true, thr := x.thr - 1 }
  else { x with phase := x.phase - 1, issued := false, began := false }

/-- Half-steps of pounce that an octet burns (R362, R364), and the wear of a step in which a half pounces or runs a command
(R373). -/
def Octet.burn (o : Octet) (now : Nat) : Octet :=
  let p (h : Nat) : Nat := (o.pouncing now h).toNat
  let n (h : Nat) : Nat := (o.pouncing now h || o.halfBusy now h).toNat
  if n 0 + n 1 = 0 then o
  else { o with pounce := o.pounce + w64 (p 0 + p 1), wear := smod 0 (smod 0 o.wear 0 (· + n 0)) 1 (· + n 1) }

/-- A snapshot is SUSPECT when the PKG instance's LEGIT read 0 within 32 steps of T at one of its object's homes, by the STEP
of that home (R354). -/
def State.markSnaps (s : State) : State :=
  if (s.inst ⟨.pkg, 0⟩).cLegit then s
  else { s with snaps := s.snaps.map (fun n =>
      let near (p : Nat × Nat) : Bool := let t := (s.stepAt p.1 p.2).toNat; decide (t ≤ n.t + 32) && decide (n.t ≤ t + 32)
      if (s.homesOf n.obj).any near then { n with suspect := true } else n) }

/-- Lines that the drains of a die may send by a step: SNAPBW percent of its HBM's 4.8 TB/s, 6,857 bytes in each step (R1,
R355; log 73). -/
def State.snapLines (s : State) (t : Nat) : Nat := t * s.snapbw * 6857 / 25600
/-- The drains of a die send their lines in turn, as far as SNAPBW allows (R355). -/
def State.snapEvents (s : State) (die : Nat) : List Event :=
  let l := (s.snaps.filter (fun n => match s.obj n.obj with | some o => o.die == die | none => false)).map (·.obj)
  let k := s.snapLines s.now
  (List.range (s.snapLines (s.now + 1) - k)).filterMap (fun i => (l[(k + i) % l.length]?).map Event.snapshotDrain)

/-- Writes of membership bits whose step has come (R311). -/
def State.servePend (s : State) : State :=
  let now (p : Pend) : Bool := decide (p.due ≤ s.now) && s.quiet p
  let due := s.sched.pend.filter now
  if due.isEmpty then s
  else each due (s.modSched (fun x => { x with pend := x.pend.filter (fun p => !now p) })) (fun s p => s.writePend p)

/-- Contexts that wait until their F is 0 look again once it is, whatever cleared it (R171). -/
def State.wakeClear (s : State) : State :=
  let stale (c : Nat) (y : Ctx) : Bool := y.aux == untilClear && (match y.wait.bind barrierOf with
    | some (sc, u) => !(s.membAt (instOf sc c) u c).f
    | none => false)
  if s.cores.any (fun e => e.2.ctxs.any (fun y => stale e.1 y.2)) then
    { s with cores := s.cores.map (fun (c, x) => (c, { x with ctxs := sall x.ctxs (fun y => if stale c y then { y with wait := none } else y) })) }
  else s

/-- The clock of the module moves one step. -/
def State.advance (s : State) : State :=
  let s := { s with octets := sall s.octets (fun o => o.burn s.now) }
  let s := each ((s.rowsListed)) s (fun s (row, die) => s.rowStep row die)
  let s := each (s.cores.map (·.1)) s (fun s c => s.bankLosses c)
  let s := { s with now := s.now + 1, stage := .exchange, blocked := [], cores := sall s.cores Core.tick }
  (s.servePend.markSnaps).wakeClear.keepPast

/-! ### Ductus (R280, R289, R306) -/

/-- The instance under a key. -/
def instKey (k : Nat) : Inst := ⟨match k / 4096 with | 2 => .oct | 3 => .die | 4 => .pkg | _ => .pod, k % 4096⟩
/-- The ring under a key. -/
def ringKey (k : Nat) : RingId := ⟨k / 16, k % 16⟩

/-- Instances whose rounds can change something: those listed, with the clocks and links that are not converged, dies
before the octets that read their clock. -/
def State.liveInsts (s : State) : List Inst :=
  let listed := s.insts.map (fun e => instKey e.1)
  let dies := (s.dies.filter (fun d => !d.2.stepOff.isEmpty || d.2.xhold)).flatMap (fun d => (⟨.die, d.1⟩ : Inst) :: octsOf d.1)
  let links := s.pendingLinks.flatMap linkInsts
  let mod (sc : Scope) (b : Bool) : List Inst := if b then [⟨sc, 0⟩] else []
  let l : List Inst := (listed ++ dies ++ mod .pkg (!dies.isEmpty) ++ mod .pod (s.podOff != s.podBase) ++ links).eraseDups
  l.filter (fun i => i.scope == Scope.die) ++ l.filter (fun i => i.scope != Scope.die)

/-- The events of an instance at a step of its round: rules and samples at 0 of each node's, the verdict on a sample at
7/16 and the copies at 15/16 of the root's (R280, R289). -/
def State.roundEvent (s : State) (i : Inst) : List Event :=
  let (p, n) := s.roundPos i
  dueIf (p == 0 || (s.uneven i && !(s.dueNodes i).isEmpty)) (.ductusRound i)
    ++ (if p = 7 * n / 16 then dueIf (s.inst i).sampled (.auditVerdict i) else if p = 15 * n / 16 then [.copyUpdate i] else [])

/-- A new round of POD scope runs under the PODRLEN and PODDCAP that stand as it begins (R295). -/
def State.takeRlen (s : State) : State :=
  if (s.roundPos ⟨.pod, 0⟩).1 = 0 then { s with ductEff := s.podCfg (s.rootOf ⟨.pod, 0⟩ 0 == s.modno) } else s

/-- The events of a ring at a step of its round (R280, R287, R306). -/
def State.ringEvents (s : State) (id : RingId) : List Event :=
  let r := s.ring id
  let rr := tokkRrnd r.tokk0
  let p := s.ringPos id
  let due := s.dueMembers r
  (due.filter (fun c => (s.ringNow id).overdue s.now c)).map (Event.tokenHoldTimeout id)
    ++ dueIf (!due.isEmpty || (r.mb != [] && (p == 7 * rr || p == 15 * rr))) (.tokenRingRound id)

/-! ### Waits -/

/-- The event that ends or serves the wait of a context, if it may now (R109, R117, R120, R121, R149 to R153, R159, R167,
R168, R172, R174, R179, R181, R220). -/
def State.waitEvents (s : State) (c : Nat) (x : Core) (k : Nat) (y : Ctx) : List Event :=
  match y.wait with
  | none => []
  | some i =>
    match i with
    | .waitSt .. => dueIf (decide (y.aux.toNat ≤ (s.stepOf c).toNat)) (.waitStComplete c k)
    | .wfe _ =>
      if y.latch ≠ 0 then [.wfeComplete c k]
      else if 65536 ≤ s.now - y.since then [.wfeTimeoutEvent c k, .wfeComplete c k] else []
    | .hjoin _ b => dueIf ((x.ctxAt (y.reg b).toNat).st == .exited) (.hjoinComplete c)
    | .park => dueIf (x.vec.queue.isEmpty && x.mat.queue.isEmpty && (x.ipend != 0 || y.aux != 0)) (.parkWake c)
    | .give .. => [.giveIndivisibleStep c k]
    | .wwait slot => dueIf (bankV (x.bankmap slot.toNat)) (.wwaitComplete c k)
    | .wunmap _ slot => dueIf (!x.slotBusy c slot.toNat) (.wunmapComplete c k)
    | .qsend .. => [.qsendBoundExpiry c k]
    | .qrecv .. => dueIf (x.ringSlot.isSome && x.loc.recs != 0) (.qrecvComplete c k)
    | .tokw .. => []
    | .cpyw _ => dueIf (!(x.engsOf true).any (fun e => e.ctx == k)) (.cpywComplete c k)
    | .collw _ => dueIf (!(x.engsOf false).any (fun e => e.ctx == k)) (.collwComplete c k)
    | .mwait _ => dueIf (x.mat.queue.isEmpty && !x.queueFaulted y.intrap) (.mwaitComplete c)
    | .xrecv n _ => dueIf (decide (x.label n.toNat + 4 ≤ (s.stepOf c).toNat)) (.xrecvWindow c k)
    | i =>
      match barrierOf i with
      | some (sc, u) =>
        dueIf (decide (y.since + s.timeout (instOf sc c) ≤ s.now) && !((s.inst (instOf sc c)).unit u).held) (.barrierTimeout c k)
      | none => []

/-! ### The queues, engines and buffers of a core -/

/-- Events of a core's queues: durations that have run, and MRINGs whose latch did not fill (R183, R217, R272). A duration
that has run ended with the step before, and so did its accesses. -/
def State.queueEvents (s : State) (c : Nat) (x : Core) : List Event :=
  let vec := match x.vec.queue with
    | e :: _ => (match e.fin with | some t => dueIf (decide (t ≤ s.now) && x.vec.page.isNone) (.vectorQueueComplete c) | none => [])
    | [] => []
  let mat := match x.mat.queue with
    | e :: _ =>
      (match e.fin with | some t => dueIf (decide (t ≤ s.now)) (.matrixCommandComplete c) | none => [])
      ++ (match e.instr with | .mring _ => [.mringTimeout c] | _ => [])
    | [] => []
  vec ++ mat

/-- The copy that a core's engine has at its head, timed or not, as an event (R179). -/
def Core.copyEvents (x : Core) (now c : Nat) (timed : Bool) : List Event :=
  match x.engHead true with
    | some e => dueIf (e.page.isNone && e.start.isSome == timed && !x.leaving && decide (e.notBefore ≤ now)) (.cpyComplete c) | none => []
/-- Events of a core's collective engine (R181, R407). -/
def State.collEvents (s : State) (c : Nat) (x : Core) : List Event :=
  (match x.collFirst with
    | some e =>
      let i := instOf e.scope c
      [.collChunk i] ++ dueIf (decide (e.since + s.timeout i ≤ s.now)) (.collMemberTimeout i)
        ++ dueIf (e.scope == .pod && e.gen.isSome && decide (e.since + 4 * s.roundLen .pod ≤ s.now)) .podChunkTimeout
    | none => [])

/-- Events of a core's own: duty, buffer, alarm, switch-out, power (R28, R234, R125, R328, R367). The alarm is raised in a
step that begins with STEP = IALARM, and not where STEP jumps over IALARM or has passed it (log 71). -/
def State.coreEvents (s : State) (c : Nat) (x : Core) : List Event :=
  let f := x.fduty
  dueIf (x.began && x.cycle.toNat % 16 == 0 && !f.forced && (f.newDuty.isSome || f.newDiv.isSome)) (.fdutyWindowApply c)
  ++ dueIf (match f.divDue with | some t => decide (t ≤ s.now) | none => false) (.dividerChangeComplete c)
  ++ dueIf (x.ialarm != 0 && x.ialarm == s.stepOf c) (.alarm c)
  ++ dueIf (x.cache.cbuf.any (fun e => decide (e.due ≤ s.now) && !e.wcomb && !e.held)) (.coalescingBufferDrain c)
  ++ dueIf (x.run.preempt && x.mayLeave) (.switchOut c)
  ++ dueIf (x.powered && x.switchable && decide (7000 ≤ s.now - x.idleSince)) (.powerSwitchOff c)

/-! ### Everything else -/

/-- Units whose release is due (R285). -/
def State.releaseEvents (s : State) : List Event :=
  s.insts.flatMap (fun (k, d) => (d.units.filter (fun u => u.2.due)).map (fun u => s.releaseEvent (instKey k) u.1))

/-- Whether a draining launch has kept a phase open beyond XMAXLEN (R327). -/
def State.overXmax (s : State) (n : Nat) : Bool :=
  s.cores.any (fun (c, x) => x.run.node == some n && x.xopen
    && decide (((bits s.sched.xmaxlen 19 0 : Nat) : Int) ≤ (s.stepOf c - x.taskstep).toInt))

/-- Events of the scheduler and the governor (R321, R322, R327, R358, R362, R366, R368). -/
def State.moduleEvents (s : State) : List Event :=
  let t := (s.stepAt 0 0).toNat
  dueIf (t % 64 == 0 && s.sched.nodes.any (fun e => e.2.waits)) .dispatchPass
  ++ (s.sched.nodes.filter (fun e => e.2.waits && decide (s.ageOf ≤ s.now - e.2.agedAt))).map (fun e => Event.ageExpiry e.1)
  ++ (s.sched.nodes.filter (fun e => e.2.st == .draining && s.overXmax e.1)).map (fun e => Event.xmaxlenExpiry e.1)
  ++ dueIf (t % 7000 == 0) .budgetControllerPass
  ++ dueIf (t % 700 == 0) .rampSlotBoundary
  ++ (s.octets.filter (fun o => decide (0 < o.2.level) && decide (700 ≤ s.now - o.2.levelAt))).map (fun o => Event.pounceLevelDecay o.1)
  ++ s.rowsListed.flatMap (fun (row, die) =>
    dueIf (((s.die die).row row).matched) (.prethrottleStart die row) ++ dueIf (s.throttleOver row die) (.prethrottleEnd die row))
  ++ (if s.snaps.isEmpty then [] else (s.snaps.filter (fun n => (s.obj n.obj).isNone)).map (fun n => Event.snapshotDrain n.obj)
        ++ (List.range 16).flatMap s.snapEvents)
  ++ dueIf (t % 70000000 == 0) .telemetry

/-- TOKWs that their node's token lets go on, as the step before left it: before the rings move (R306). -/
def State.grantEvents (s : State) : List Event :=
  s.cores.flatMap (fun (c, x) => x.ctxs.flatMap (fun (k, y) => match y.wait with
    | some (.tokw sc _ r) => dueIf (let x := s.ring (ringOf sc c r.toNat); !x.mb.contains c || x.grants c) (.tokwGrant c k)
    | _ => []))

/-- All that is due in a step that begins, in the order it is taken: token grants, what was set for it, rounds, queues core
by core, releases, waits, then the module's own. -/
def State.dueEvents (s : State) : List Event :=
  s.grantEvents
  ++ (s.timers.filter (fun e => decide (e.1 ≤ s.now))).map (·.2)
  ++ s.liveInsts.flatMap s.roundEvent
  ++ s.rings.flatMap (fun e => s.ringEvents (ringKey e.1))
  ++ s.cores.flatMap (fun (c, x) => s.queueEvents c x)
  ++ s.releaseEvents
  ++ s.cores.flatMap (fun (c, x) => x.ctxs.flatMap (fun (k, y) => s.waitEvents c x k y))
  ++ s.cores.flatMap (fun (c, x) => s.coreEvents c x)
  ++ s.moduleEvents

/-- A step begins: the clock moves and its events enter the agenda. -/
def State.beginStep (s : State) : State :=
  let s := s.advance.takeRlen
  { s with timers := s.timers.filter (fun e => !decide (e.1 ≤ s.now)) }.pushAll s.dueEvents

/-- The engines' accesses of a step, once the exchange has been served: timed commands first, then the others (R227). -/
def State.accessEvents (s : State) : List Event :=
  s.timedStarts ++ s.cores.flatMap (fun (c, x) => x.copyEvents s.now c true) ++ s.cores.flatMap (fun (c, x) => x.copyEvents s.now c false)
    ++ s.cores.flatMap (fun (c, x) => s.collEvents c x)

/-- The engines' part of a step begins, and the cores issue after it. -/
def State.beginAccess (s : State) : State := { s with stage := .issue }.pushAll s.accessEvents

/-- The starts of a step, once every core has issued. -/
def State.endIssue (s : State) : State := { s with stage := .over }.pushAll s.startEvents

end Sys2Proof.Machine
end

