-- ==== Sys2Proof/Machine/Step.lean ====
section
/-!
DEFINITION. The step of the machine: the oldest event that is due, or else the next instruction of the module, or else
the passage to the next step of its clock (log 7).
-/
namespace Sys2Proof.Machine

/-- What an issue from `s.chosen c k h` leaves: an instruction that could not go on, and left its context as it was, has
taken no slot, and its context is not ready again in this step (R13; log 42). It waits at its boundary where that is
not ready (R186). Otherwise its sub-banks have served it (R227). -/
def State.settleIssue (t s : State) (c k h : Nat) : State :=
  if t.ctxAt c k == (s.chosen c k h).ctxAt c k && t.agenda.isEmpty then
    { (t.modCore c (fun x => { x with last := (s.coreAt c).last, hptr := (s.coreAt c).hptr, issued := false })).modCtx c k
        (fun x => { x with awaits := !(t.at_ c k).boundaryReady }) with
      blocked := (c, k) :: t.blocked }
  else t.serve (s.claims c k)

/-- The issue of the context chosen at a core. -/
def State.issueAt (s : State) (c k h : Nat) : Host.Outcome State Fault Refusal :=
  match (s.chosen c k h).issue with
  | .next t => .next (t.settleIssue s c k h)
  | r => r

/-- One step of the machine. -/
def step (s : State) : Host.Outcome State Fault Refusal :=
  match s.agenda with
  | e :: rest => runEvent e { s with agenda := rest }
  | [] =>
    match s.nextIssue with
    | some (c, k, h) => s.issueAt c k h
    | none =>
      .next (match s.exchangeDue with
        | e :: l => s.pushAll (e :: l)
        | [] => match s.stage with
          | .exchange => s.beginAccess
          | .issue => s.endIssue
          | .over => s.beginStep)

/-- The state in which the next step issues the instruction of a table word, in a line of its own. -/
def State.withFetchWord (s : State) (nbits w : Nat) : State :=
  let e := tableSplit nbits w
  s.placeLine (oneLine e.head e.tail)

end Sys2Proof.Machine
end

