-- ==== Sys2Proof/Safety.lean ====
section
/-!
DEFINITION. What claims call a legal module: its configuration registers hold values that their rules allow, with every
reserved field zero (spec/12 R295; spec/18 R359; spec/16 R323; spec/21 R403), and HBM is in its canonical form.
-/
namespace Sys2Proof.Machine

/-- A value that DUCTCFG may hold (R295). -/
def ductLegal (v : Word) : Bool :=
  decide (700 ≤ bits v 63 48) && decide (2 ≤ bits v 47 44) && decide (1 ≤ bits v 43 40) && bits v 39 32 == 0
    && decide (100 ≤ bits v 31 0)

/-- A value that GOVCFG may hold (R359). -/
def govLegal (v : Word) : Bool :=
  decide (1 ≤ bits v 31 20) && (bits v 19 18 == 1 || bits v 19 18 == 2) && bits v 17 11 == 0
    && decide (100 ≤ bits v 10 0) && decide (bits v 10 0 ≤ 1600)

/-- The configuration of a module is legal: DUCTCFG and GOVCFG, as written and as in effect, SCHEDCFG, XMAXLEN, and the
module's number in its pod; and HBM is in its canonical form. -/
def State.legal (s : State) : Prop :=
  ductLegal s.ductcfg = true ∧ ductLegal s.ductEff = true ∧ govLegal s.gov.cfg = true ∧ govLegal s.gov.eff = true
    ∧ bits s.sched.schedcfg 63 40 = 0 ∧ bits s.sched.xmaxlen 63 20 = 0
    ∧ (s.attached = true → s.modno < s.podsize ∧ s.podsize ≤ 16384) ∧ s.hbm.wf = true

/-- A run that has not stopped: its last outcome is a next state. -/
def running (r : Host.Outcome State Fault Refusal) : Bool := match r with | .next _ => true | _ => false

/-! ### What a step leaves unchanged -/

/-- Between two states only what requests at homes may change differs: dies (slices, gateways, fault services), HBM and
its errors, pages and their frames, counters, snapshots, and what follows from them: events, messages, free values. -/
def State.memOnly (s t : State) : Prop :=
  t = { s with dies := t.dies, hbm := t.hbm, hbmEcc := t.hbmEcc, objs := t.objs, frames := t.frames, agenda := t.agenda,
               timers := t.timers, snaps := t.snaps, fresh := t.fresh, outbox := t.outbox,
               sched := { s.sched with counters := t.sched.counters } }

/-- A core differs at most in its TCM as its code meets errors, in the count of those, and in the object bounds it keeps
(R338, R375, R377, R379). -/
def Core.codeOnly (x y : Core) : Prop :=
  y = { x with loc := { x.loc with tcm := y.loc.tcm, ecc := y.loc.ecc }, eccstat := y.eccstat, eccAt := y.eccAt,
               cache := { x.cache with obb := y.cache.obb } }

/-- Between two states only what reading a line of code may change differs: what requests at homes change, the object
bounds the core keeps (R338), and, for a line of the mesh alias (R230), errors met in local memory. -/
def State.fetchOnly (s t : State) : Prop :=
  ({ s with cores := t.cores, octets := t.octets }).memOnly t
    ∧ (∀ c, (s.coreAt c).codeOnly (t.coreAt c))
    ∧ ∀ o, t.oct o = { s.oct o with wells := (t.oct o).wells }
      ∧ ∀ w, (t.oct o).well w = { (s.oct o).well w with data := ((t.oct o).well w).data, ecc := ((t.oct o).well w).ecc }

/-- A context after the instruction at Q0 has retired without transferring: the queue moves up, and nothing else changes
but what retirement itself keeps (R17, R68, R70, R114). -/
def Ctx.passed (x y : Ctx) : Prop :=
  y = { x.settle with q0 := x.q1, q1 := x.q2, q2 := y.q2, p := y.p, sigFault := y.sigFault, decFlip := y.decFlip,
                      eret := x.eret - 1 }

/-- The issuing context has retired an instruction that does not transfer, and the rest of the module is as before but
for the reading of a line of code. -/
def State.passed (s t : State) : Prop :=
  ∃ u : State, s.fetchOnly u ∧ s.me.passed t.me ∧ t = u.modMe (fun _ => t.me)

/-- An instruction completes with one result: a takes v, or nothing changes where a is g0 (R14, R88); it retires, and the rest
is as before. -/
def State.gives (s t : State) (a : GReg) (v : Word) : Prop :=
  (s.setG a v).passed t ∧ ∀ r, t.g r = if r = a ∧ a ≠ 0 then v else s.g r

/-- The issuing context has moved its PC queue, and the rest of the module is as before but for the reading of lines of
code. -/
def State.transferred (s t : State) : Prop :=
  ∃ u : State, s.fetchOnly u ∧ t = u.modMe (fun _ => t.me)
    ∧ t.me = { s.me.settle with q0 := t.me.q0, q1 := t.me.q1, q2 := t.me.q2, p := t.me.p, sigFault := t.me.sigFault,
                                decFlip := t.me.decFlip, eret := t.me.eret }

/-- The head after the third entry of the PC queue lies in the same line, so that retirement reads no line (R17, R67). -/
def Ctx.inLine (x : Ctx) : Bool :=
  match x.q2.line with
  | .ok l => decide (headIdx x.q2.addr + 1 < lineH l)
  | _ => false

/-- The issuing context one instruction on, in the case that no line is read: nothing else changes at all. -/
def State.stepped (s : State) : State :=
  s.modMe (fun x =>
    let m := sigMove x.q0 x.sigAfter x.q1 0
    { x.settle with q0 := x.q1, q1 := x.q2, q2 := { addr := x.q2.addr + 2, line := x.q2.line }, p := m.p,
                    sigFault := m.fault, decFlip := m.flip, eret := x.eret - 1 })

/-- A byte of global memory as its home holds it. -/
def State.globalByte (s : State) (a : Word) : Option Byte :=
  (s.homeOf (idOf a) (offOf a)).map (fun h => (s.lineNow h).getD (offOf a % 256) 0)

/-- A byte of a core's local memory: TCM, or the well mapped there (R19). -/
def State.localByte (s : State) (c la : Nat) : Byte :=
  if la < 0x30000 then (s.coreAt c).loc.tcm.read la
  else (s.well c (bankWell ((s.coreAt c).bankmap (la / 0x10000 - 4)))).data.read (la % 0x10000)

/-- No byte of memory differs, global or local. -/
def State.sameMemory (s t : State) : Prop :=
  (∀ a, t.globalByte a = s.globalByte a) ∧ ∀ c la, t.localByte c la = s.localByte c la

/-- The issuing context has nothing to release, and no read before it is still to be performed: no store of its core is
buffered, no queued command of the core touches local memory, and context 0 has no vector access of global memory queued
(R20, R136, R202, R234, R245). -/
def State.drained (s : State) : Prop :=
  s.here.cache.cbuf = [] ∧ s.here.vecRanges = [] ∧ s.here.matRanges = [] ∧ (s.ctx = 0 → s.here.vecPending = false)

/-- The home of an address holds its sector: the line is resident and without errors, one of its key and its way in its set,
on a live die, in a page of HBM that is cached, of which no snapshot is in flight (R238, R340, R342). -/
def State.atHome (s : State) (a : Word) (h : Home) (l : SliceLine) : Prop :=
  s.homeOf (idOf a) (offOf a) = some h ∧ (s.die h.die).named = false ∧ h.ext.back = 0 ∧ h.ext.ty ≠ .device
    ∧ (∀ n ∈ s.snaps, n.obj ≠ idOf a) ∧ ((s.die h.die).slice h.slot).find h.set h.key = some l
    ∧ l.valid.getLsbD (offOf a % 256 / 32) = true ∧ l.ecc = {} ∧ l.tagged = false
    ∧ ∀ m ∈ ((s.die h.die).slice h.slot).lines h.set, m.key = h.key ↔ m.way = l.way

/-- What a write of bytes at an address leaves of global memory: those bytes at their places, and every other byte as before. -/
def State.stored (s t : State) (a : Word) (bs : List Byte) : Prop :=
  (∀ i, i < bs.length → t.globalByte (a + w64 i) = some (bs.getD i 0))
    ∧ ∀ x, (∀ i, i < bs.length → x ≠ a + w64 i) → t.globalByte x = s.globalByte x

/-- The first-level cache of the issuing core holds no error, and whole sectors (R232, R374). -/
def State.cleanCache (s : State) : Prop := ∀ l ∈ s.here.cache.lines, l.tagHurt = none ∧ l.ecc = {} ∧ l.data.length = 32

/-! ### Tables of results, from the rules -/

/-- What an integer instruction writes: its destination and the value that R89 to R95 give it, from the registers of the
issuing context. -/
def intResult (i : Instr) (g : GReg → Word) : Option (GReg × Word) :=
  match i with
  -- R89
  | .add2 a b => some (a, g a + g b)
  | .sub2 a b => some (a, g a - g b)
  | .and2 a b => some (a, g a &&& g b)
  | .or2 a b => some (a, g a ||| g b)
  | .xor2 a b => some (a, g a ^^^ g b)
  | .mov a b => some (a, g b)
  | .shl2 a b => some (a, shlW (g a) (g b).toNat)
  | .shrl2 a b => some (a, shrlW (g a) (g b).toNat)
  -- R90
  | .add a b c => some (a, g b + g c)
  | .sub a b c => some (a, g b - g c)
  | .and a b c => some (a, g b &&& g c)
  | .or a b c => some (a, g b ||| g c)
  | .xor a b c => some (a, g b ^^^ g c)
  | .andn a b c => some (a, g b &&& ~~~(g c))
  | .orn a b c => some (a, g b ||| ~~~(g c))
  | .shl a b c => some (a, shlW (g b) (g c).toNat)
  | .shrl a b c => some (a, shrlW (g b) (g c).toNat)
  | .shra a b c => some (a, shraW (g b) (g c).toNat)
  | .rot a b c => some (a, (g b).rotateLeft ((g c).toNat % 64))
  | .addw a b c => some (a, sext (g b + g c).toNat 32)
  | .subw a b c => some (a, sext (g b - g c).toNat 32)
  | .min a b c => some (a, if (g b).toInt ≤ (g c).toInt then g b else g c)
  | .max a b c => some (a, if (g b).toInt ≥ (g c).toInt then g b else g c)
  | .minn a b c => some (a, if (g b).toNat ≤ (g c).toNat then g b else g c)
  | .maxn a b c => some (a, if (g b).toNat ≥ (g c).toNat then g b else g c)
  | .seq a b c => some (a, b2w (g b == g c))
  | .sne a b c => some (a, b2w (g b != g c))
  | .slt a b c => some (a, b2w (decide ((g b).toInt < (g c).toInt)))
  | .sltn a b c => some (a, b2w (decide ((g b).toNat < (g c).toNat)))
  | .sle a b c => some (a, b2w (decide ((g b).toInt ≤ (g c).toInt)))
  | .slen a b c => some (a, b2w (decide ((g b).toNat ≤ (g c).toNat)))
  | .csel a b c => some (a, if g c ≠ 0 then g b else g a)
  -- R91, R92
  | .addi a b imm => some (a, g b + imm.signExtend 64)
  | .andi a b imm => some (a, g b &&& imm.signExtend 64)
  | .ori a b imm => some (a, g b ||| imm.signExtend 64)
  | .xori a b imm => some (a, g b ^^^ imm.signExtend 64)
  | .shli a b imm => some (a, shlW (g b) imm.toNat)
  | .shrli a b imm => some (a, shrlW (g b) imm.toNat)
  | .shrai a b imm => some (a, shraW (g b) imm.toNat)
  | .movi a imm => some (a, imm.signExtend 64)
  -- R93
  | .not a b => some (a, ~~~(g b))
  | .clz a b => some (a, w64 (clz64 (g b)))
  | .ctz a b => some (a, w64 (ctz64 (g b)))
  | .popc a b => some (a, w64 (popcount (g b)))
  | .sextB a b => some (a, sext (g b).toNat 8)
  | .sextH a b => some (a, sext (g b).toNat 16)
  | .sextW a b => some (a, sext (g b).toNat 32)
  | .zextB a b => some (a, zext (g b).toNat 8)
  | .zextH a b => some (a, zext (g b).toNat 16)
  | .zextW a b => some (a, zext (g b).toNat 32)
  -- R94; the field len1 is len - 1
  | .bfx a b pos len1 => some (a, zext (bits (g b) (pos.toNat + len1.toNat) pos.toNat) (len1.toNat + 1))
  | .bfxS a b pos len1 => some (a, sext (bits (g b) (pos.toNat + len1.toNat) pos.toNat) (len1.toNat + 1))
  | .bfi a b pos len1 => some (a, setBits (g a) (pos.toNat + len1.toNat) pos.toNat (g b).toNat)
  -- R95
  | .obj a b c => some (a, zext (g c).toNat 24 <<< 40 ||| zext (g b).toNat 40)
  | .objId a b => some (a, zext (g b >>> 40).toNat 24)
  | .objOff a b => some (a, zext (g b).toNat 40)
  | .lea a b c sc imm => some (a, eaOf (g b) (shlW (g c) sc.toNat + imm.signExtend 64))
  | _ => none

/-- What an instruction with a latency of its own writes (R88, R90, R97 to R99): destination, value, and cycles until it
can be read. FCVT.SR, which also draws, stands in a statement of its own. -/
def lateResult (i : Instr) (g : GReg → Word) : Option (GReg × Word × Nat) :=
  match i with
  | .mul a b c => some (a, g b * g c, 3)
  | .mulh a b c => some (a, BitVec.ofInt 64 ((g b).toInt * (g c).toInt / 2 ^ 64), 3)
  | .mulhn a b c => some (a, w64 ((g b).toNat * (g c).toNat / 2 ^ 64), 3)
  | .div a b c => some (a, divS 64 (g b).toInt (g c).toInt, divCycles (g b).toInt.natAbs)
  | .divn a b c => some (a, divU 64 (g b).toNat (g c).toNat, divCycles (g b).toNat)
  | .rem a b c => some (a, remS 64 (g b).toInt (g c).toInt, divCycles (g b).toInt.natAbs)
  | .remn a b c => some (a, remU 64 (g b).toNat (g c).toNat, divCycles (g b).toNat)
  | .fadd t a b c => some (a, fimg t (fAdd (fval t (g b)) (fval t (g c))), 4)
  | .fsub t a b c => some (a, fimg t (fAdd (fval t (g b)) (fval t (g c)).negate), 4)
  | .fmul t a b c => some (a, fimg t (fMul (fval t (g b)) (fval t (g c))), 4)
  | .fmin t a b c => some (a, fimg t (fMin (fval t (g b)) (fval t (g c))), 4)
  | .fmax t a b c => some (a, fimg t (fMax (fval t (g b)) (fval t (g c))), 4)
  | .fseq t a b c => some (a, b2w (fEq (fval t (g b)) (fval t (g c))), 4)
  | .fslt t a b c => some (a, b2w (fLt (fval t (g b)) (fval t (g c))), 4)
  | .fsle t a b c => some (a, b2w (fLe (fval t (g b)) (fval t (g c))), 4)
  | .ffma t a b c d => some (a, fimg t (fAdd (fMul (fval t (g b)) (fval t (g c))) (fval t (g d))), 4)
  | .fcvt dst src .ne a b => some (a, cvtImg dst (cvtVal src (g b)) .ne, 3)
  | .fcvt dst src .rz a b => some (a, cvtImg dst (cvtVal src (g b)) .rz, 3)
  | _ => none

/-- FABS, FNEG and FCLASS (R97): sign operations and the class, of a register's image. -/
def signResult (i : Instr) (g : GReg → Word) : Option (GReg × Word) :=
  match i with
  | .fabs t a b => some (a, w64 ((g b).toNat % (fmtOf t).signBit))
  | .fneg t a b => some (a, w64 (((g b).toNat % 2 ^ (fmtOf t).width + (fmtOf t).signBit) % 2 ^ (fmtOf t).width))
  | .fclass t a b => some (a, fclass (fmtOf t) ((g b).toNat % 2 ^ (fmtOf t).width))
  | _ => none

/-- The issuing context with the cycle noted at which a register's result can be read (R88). -/
def State.dueIn (s : State) (n : Nat) (a : GReg) : State :=
  s.modMe (fun x => if a = 0 then x else { x with due := sput x.due a.toNat (s.here.cycle + w64 n) })

/-- Whether a transfer of R101 to R103 and R105 is taken, where to, and its nullification. -/
def branchOf (i : Instr) (s : State) : Option (Bool × Word × Nullify) :=
  match i with
  | .b n disp => some (true, lineOf s.me.q0.addr + disp.signExtend 64 * 64, n)
  | .beq n a b disp => some (decide (s.g a = s.g b), lineOf s.me.q0.addr + disp.signExtend 64 * 64, n)
  | .bne n a b disp => some (decide (s.g a ≠ s.g b), lineOf s.me.q0.addr + disp.signExtend 64 * 64, n)
  | .blt n a b disp => some (decide ((s.g a).toInt < (s.g b).toInt), lineOf s.me.q0.addr + disp.signExtend 64 * 64, n)
  | .bge n a b disp => some (decide ((s.g a).toInt ≥ (s.g b).toInt), lineOf s.me.q0.addr + disp.signExtend 64 * 64, n)
  | .bltn n a b disp => some (decide ((s.g a).toNat < (s.g b).toNat), lineOf s.me.q0.addr + disp.signExtend 64 * 64, n)
  | .bgen n a b disp => some (decide ((s.g a).toNat ≥ (s.g b).toNat), lineOf s.me.q0.addr + disp.signExtend 64 * 64, n)
  | .bz n a disp => some (decide (s.g a = 0), lineOf s.me.q0.addr + disp.signExtend 64 * 64, n)
  | .bnz n a disp => some (decide (s.g a ≠ 0), lineOf s.me.q0.addr + disp.signExtend 64 * 64, n)
  | .jr n a => some (true, s.g a, n)
  | _ => none

/-- The operator and the operands of an atomic instruction. -/
def amoParts (i : Instr) : Option (AmoOp × Nat × Order × Scope × GReg × GReg × GReg × BitVec 17) :=
  match i with
  | .amoadd d o sc a b c imm => some (.add, if d then 8 else 4, o, sc, a, b, c, imm)
  | .amoand d o sc a b c imm => some (.and_, if d then 8 else 4, o, sc, a, b, c, imm)
  | .amoor d o sc a b c imm => some (.or_, if d then 8 else 4, o, sc, a, b, c, imm)
  | .amoxor d o sc a b c imm => some (.xor_, if d then 8 else 4, o, sc, a, b, c, imm)
  | .amomin d o sc a b c imm => some (.min_, if d then 8 else 4, o, sc, a, b, c, imm)
  | .amomax d o sc a b c imm => some (.max_, if d then 8 else 4, o, sc, a, b, c, imm)
  | .amominn d o sc a b c imm => some (.minn, if d then 8 else 4, o, sc, a, b, c, imm)
  | .amomaxn d o sc a b c imm => some (.maxn, if d then 8 else 4, o, sc, a, b, c, imm)
  | .amoswap d o sc a b c imm => some (.swap, if d then 8 else 4, o, sc, a, b, c, imm)
  | .amocas d o sc a b c imm => some (.cas, if d then 8 else 4, o, sc, a, b, c, imm)
  | .famoadd o sc a b c imm => some (.fadd, 4, o, sc, a, b, c, imm)
  | _ => none

/-- The operands, from the general registers, with which a register instruction enters the vector queue (R183). -/
def vecRegOps (i : Instr) (g : GReg → Word) : Option (List Word) :=
  match i with
  | .vadd .. | .vsub .. | .vmul .. | .vmin .. | .vmax .. | .vand .. | .vor .. | .vxor .. | .vshl .. | .vshrl .. | .vshra ..
  | .vabs .. | .vneg .. | .vfma .. | .vcvt .. | .vseq .. | .vslt .. | .vsle .. | .vsel .. | .vperm .. | .vredadd .. | .vredmax ..
  | .vredmin .. | .vmaxi .. | .vmini .. | .mand .. | .mor .. | .mxor .. | .mnot .. | .mpopc .. | .mfirst .. | .mmov .. | .mmovG ..
  | .ppsel _ | .ppev .. => some []
  | .vbcast _ _ b _ => some [g b]
  | .vext _ _ c => some [g c]
  | .mset _ b => some [g b]
  | _ => none

/-- The governing mask and the operands with which a memory instruction enters the vector queue (R200). -/
def vecMemOps (i : Instr) (g : GReg → Word) : Option (MReg × List Word) :=
  match i with
  | .vld _ b _ k | .vst _ b _ k | .vldl _ b _ k | .vstl _ b _ k => some (k, [g b])
  | .vlds _ _ b c _ k => some (k, [g b, g c])
  | .vgath _ _ b _ _ k | .vscat _ _ b _ _ k => some (k, [g b])
  | _ => none

/-- Context 0 has put an entry at the end of the vector queue and retired. -/
def State.vecEntered (s t : State) (i : Instr) (ops : List Word) (mask : Word) : Prop :=
  t.here.vec.queue = s.here.vec.queue ++ [{ instr := i, vlen := s.here.vec.vlen, ops := ops, mask := mask, pc := s.me.q0.addr }]
    ∧ t.here.vec.v = s.here.vec.v ∧ t.here.vec.m = s.here.vec.m ∧ (∀ r, t.g r = s.g r) ∧ t.me.q0 = s.me.q1

/-- Context 0 has put a command at the end of the matrix queue and retired. -/
def State.matEntered (s t : State) (i : Instr) (ops : List Word) : Prop :=
  t.here.mat.queue = s.here.mat.queue ++ [{ instr := i, ops := ops, mirror := s.here.mat.mirror, queued := s.now, pc := s.me.q0.addr }]
    ∧ (∀ r, t.g r = s.g r) ∧ t.me.q0 = s.me.q1

/-! ### The host's commands -/

/-- The module serves the commands of a connection: it is attached with the command's version, the header is within its limits,
none of its commands waits, and a start has completed (R398 to R403). -/
def State.serves (s : State) (h : Hdr) : Prop :=
  ∃ c, s.conn h = some c ∧ c.ver = h.ver ∧ h.legal = true ∧ c.waits = none ∧ c.behind = false ∧ s.boot.stage = none ∧ s.boot.off = false

/-- The module serves the boot ROM's commands of a connection, which it does while a start runs as well (R400, R411). -/
def State.romServes (s : State) (h : Hdr) : Prop :=
  ∃ c, s.conn h = some c ∧ c.ver = h.ver ∧ h.legal = true ∧ c.waits = none ∧ c.behind = false

/-- No command of any connection waits for an object (R401). -/
def State.objectFree (s : State) (obj : Nat) : Prop := ∀ c ∈ s.conns, ∀ w, c.waits = some w → hostObj w ≠ some obj

/-- One reply has gone to the host, with a status, a value and at most 4,080 bytes, and nothing else: its OP is the command's
or 0x80, its version that of the connection (R399). -/
def State.replied (s t : State) (h : Hdr) (op st : Nat) (v : Word := 0) (data : List Byte := []) : Prop :=
  t.outbox = s.outbox ++ [.reply h.conn (match s.conn h with | some c => c.ver | none => h.ver) (op ||| 0x80)
    (data.length + if st = 0 ∧ (op = 0x01 ∨ op = 0x30 ∨ op = 0x41) then 8 else 0) h.tag h.cid st v data]

end Sys2Proof.Machine

namespace Sys2Proof

/-- An event and the row of the opcode table that it is, with the same operands. -/
def Event.is (e : Event) (i : Instr) : Prop :=
  match e with
  | .trapEntry c k cause addr => i = .trapEntry c k cause addr
  | .alarm c => i = .alarm c
  | .wfeTimeoutEvent c k => i = .wfeTimeoutEvent c k
  | .wfeComplete c k => i = .wfeComplete c k
  | .hjoinComplete c => i = .hjoinComplete c
  | .parkWake c => i = .parkWake c
  | .waitStComplete c k => i = .waitStComplete c k
  | .fdutyWindowApply c => i = .fdutyWindowApply c
  | .dividerChangeComplete c => i = .dividerChangeComplete c
  | .pageFaultReply obj pg resolved => i = .pageFaultReply obj pg resolved
  | .coalescingBufferDrain c => i = .coalescingBufferDrain c
  | .loopbackAccess c k => i = .loopbackAccess c k
  | .sliceRequest c cid addr size op => i = .sliceRequest c cid addr size op
  | .sliceFillBurst c cid addr => i = .sliceFillBurst c cid addr
  | .obbFill c obj => i = .obbFill c obj
  | .frameTest die stack frame pass => i = .frameTest die stack frame pass
  | .giveIndivisibleStep c k => i = .giveIndivisibleStep c k
  | .wwaitComplete c k => i = .wwaitComplete c k
  | .wunmapComplete c k => i = .wunmapComplete c k
  | .xbarRelease j => i = .xbarRelease j
  | .xsendBeats c k => i = .xsendBeats c k
  | .xrecvWindow c k => i = .xrecvWindow c k
  | .exchangePayloadLanding => i = .exchangePayloadLanding
  | .xsendrCombine j => i = .xsendrCombine j
  | .xendRelease j => i = .xendRelease j
  | .messageArrival dst eth src data => i = .messageArrival dst eth src data
  | .qsendBoundExpiry c k => i = .qsendBoundExpiry c k
  | .qrecvComplete c k => i = .qrecvComplete c k
  | .arrivalMessage j u m => i = .arrivalMessage j u m
  | .barrierRelease j u => i = .barrierRelease j u
  | .barrierTimeout c k => i = .barrierTimeout c k
  | .tokwGrant c k => i = .tokwGrant c k
  | .tokenHoldTimeout r c => i = .tokenHoldTimeout r c
  | .tokenRingRound r => i = .tokenRingRound r
  | .cpyComplete c => i = .cpyComplete c
  | .cpywComplete c k => i = .cpywComplete c k
  | .timedCommandStart c copy id => i = .timedCommandStart c copy id
  | .collChunk j => i = .collChunk j
  | .collMemberTimeout j => i = .collMemberTimeout j
  | .collwComplete c k => i = .collwComplete c k
  | .podChunkTimeout => i = .podChunkTimeout
  | .vectorQueueStart c => i = .vectorQueueStart c
  | .vectorQueueComplete c => i = .vectorQueueComplete c
  | .matrixDispatch oct res => i = .matrixDispatch oct res
  | .matrixCommandComplete c => i = .matrixCommandComplete c
  | .mringLanding c => i = .mringLanding c
  | .mringTimeout c => i = .mringTimeout c
  | .mwaitComplete c => i = .mwaitComplete c
  | .ductusRound j => i = .ductusRound j
  | .auditVerdict j => i = .auditVerdict j
  | .copyUpdate j => i = .copyUpdate j
  | .dpokeCnt j u v => i = .dpokeCnt j u v
  | .dpokeF j u c v => i = .dpokeF j u c v
  | .dpokeXv r c v => i = .dpokeXv r c v
  | .dpokeStep j c v => i = .dpokeStep j c v
  | .dpokeDist j c v => i = .dpokeDist j c v
  | .dpokeGen j v => i = .dpokeGen j v
  | .tokkWrite c k v => i = .tokkWrite c k v
  | .srseedWrite c k v => i = .srseedWrite c k v
  | .accmapWrite c k v => i = .accmapWrite c k v
  | .registerWrite c k reg v => i = .registerWrite c k reg v
  | .dispatchPass => i = .dispatchPass
  | .wakeMessage c n => i = .wakeMessage c n
  | .launchStart c => i = .launchStart c
  | .counterWindowStore cid n v => i = .counterWindowStore cid n v
  | .counterWindowAmoadd c k cid n rd v => i = .counterWindowAmoadd c k cid n rd v
  | .counterWindowLoad c k cid n rd => i = .counterWindowLoad c k cid n rd
  | .ageExpiry n => i = .ageExpiry n
  | .pdelayExpiry n => i = .pdelayExpiry n
  | .preemptMessage n => i = .preemptMessage n
  | .switchOut c => i = .switchOut c
  | .xmaxlenExpiry n => i = .xmaxlenExpiry n
  | .resume n => i = .resume n
  | .pageMigration obj pg stack frame => i = .pageMigration obj pg stack frame
  | .migrationSwitch obj pg => i = .migrationSwitch obj pg
  | .domainSplit die d e slots => i = .domainSplit die d e slots
  | .splitWalk die d set => i = .splitWalk die d set
  | .snapshotDrain obj => i = .snapshotDrain obj
  | .rampSlotBoundary => i = .rampSlotBoundary
  | .pounceLevelDecay oct => i = .pounceLevelDecay oct
  | .budgetControllerPass => i = .budgetControllerPass
  | .powerSwitchOff c => i = .powerSwitchOff c
  | .droopEvent die row => i = .droopEvent die row
  | .prethrottleEnd die row => i = .prethrottleEnd die row
  | .deviceLevelFault cid kind addr core ecause => i = .deviceLevelFault cid kind addr core ecause
  | .patrolScrub t => i = .patrolScrub t
  | .linkRecalibration l => i = .linkRecalibration l
  | .hbmRecalibration die stack => i = .hbmRecalibration die stack
  | .telemetry => i = .telemetry
  | .linkTimeout l => i = .linkTimeout l
  | .routerTimeout die r => i = .routerTimeout die r
  | .dieTimeout die => i = .dieTimeout die
  | .moduleTimeout m => i = .moduleTimeout m
  | .routeRecomputation die => i = .routeRecomputation die
  | .attach h vmin vmax feat modno pods => i = .attach h vmin vmax feat modno pods
  | .attest h nonce => i = .attest h nonce
  | .fwload h chunk last sigOk => i = .fwload h chunk last sigOk
  | .start h cold => i = .start h cold
  | .startStageComplete ok => i = .startStageComplete ok
  | .startTimeout => i = .startTimeout
  | .powerOn imageOk => i = .powerOn imageOk
  | .cidres h => i = .cidres h
  | .cidevict h => i = .cidevict h
  | .cidcfg h weight quota => i = .cidcfg h weight quota
  | .nodewrite h n r => i = .nodewrite h n r
  | .nodeready h ns => i = .nodeready h ns
  | .nodefree h n => i = .nodefree h n
  | .nodeadd h n inc => i = .nodeadd h n inc
  | .objcreate h obj die dom priv owncore owncid runs => i = .objcreate h obj die dom priv owncore owncid runs
  | .objresize h obj size => i = .objresize h obj size
  | .objdelete h obj => i = .objdelete h obj
  | .memwrite h addr data => i = .memwrite h addr data
  | .memread h addr n => i = .memread h addr n
  | .snapshot h obj t room => i = .snapshot h obj t room
  | .regwrite h reg v => i = .regwrite h reg v
  | .statread h reg core => i = .statread h reg core
  | .doorbell h core => i = .doorbell h core
  -- a command of none of R400's operations is no row of the table
  | .otherCommand _ _ => False
  | .dieThrottle die => i = .dieThrottle die
  | .dieTrip die => i = .dieTrip die
  | .softError t mask => i = .softError t mask
  | .prethrottleStart die row => i = .prethrottleStart die row
  | .linkFailureNamed l => i = .linkFailureNamed l

end Sys2Proof
end

