-- ==== Sys2Proof/Certificates/Slice0/Obligations.lean ====
section
/-!
DEFINITION. The statements for the provers, by family of instructions, events and state. A statement's docstring names the
rules of spec/ that it formalises, and the entry of the assumption log where a clause is the model's own choice.
-/
open Sys2Proof Sys2Proof.Machine

/-! ### Integer and floating-point results (spec/05 R88 to R99) -/

/-- Integer instructions complete: `a` takes the value of R89 to R95, nothing when `a` is g0 (R88); the queue moves on, and
every other register and every other context is as before. No special or exception register changes but where reading the
next line of code meets an error, which is counted (R379). -/
def Obligations.IntegerResults : Prop :=
  ∀ (i : Instr) (s : State) (a : GReg) (v : Word), s.me.eret ≠ 1 → intResult i s.g = some (a, v) →
    ∃ t, exec i s = .next t ∧ s.gives t a v ∧ t.me.q0 = s.me.q1 ∧ t.me.q1 = s.me.q2

/-- The frame of integer and floating-point instructions inside a line (R67): exactly the destination, the cycle from which
it can be read (R88) and the queue change, so no byte of memory does. -/
def Obligations.RegisterFormsStoreNothing : Prop :=
  ∀ (i : Instr) (s : State) (a : GReg) (v : Word), s.me.eret ≠ 1 → s.me.inLine = true →
    (intResult i s.g = some (a, v) ∨ signResult i s.g = some (a, v) ∨ ∃ n, lateResult i s.g = some (a, v, n)) →
    ∃ t, exec i s = .next t ∧ s.sameMemory t ∧ t.octets = s.octets ∧ t.dies = s.dies ∧ t.agenda = s.agenda
      ∧ (∀ c, c ≠ s.core → t.coreAt c = s.coreAt c) ∧ t.g a = (if a = 0 then 0 else v)
      ∧ ((lateResult i s.g = none ∧ t = (s.setG a v).stepped)
          ∨ ∃ n, lateResult i s.g = some (a, v, n) ∧ t = ((s.dueIn n a).setG a v).stepped)

/-- Multiplications, divisions and floating-point instructions complete: value of R90 and R97 to R99, readable only after
the cycles of R88's table; for a division these are counted from the significant bits of the magnitude of a signed dividend
(log 8). FABS, FNEG and FCLASS complete with the image of R97. FCVT.SR (R43, R99) draws from generator 0
whether or not the value needs rounding: the draw is the generator's next state, and the result is rounded by it. A result
is waited for: from the cycle it is issued at until its latency has passed, a register that takes n cycles (R88) is late,
and afterwards it is not; for g0 nothing is noted. -/
def Obligations.LateAndFloatResults : Prop :=
  (∀ (i : Instr) (s : State) (a : GReg) (v : Word) (n : Nat), s.me.eret ≠ 1 → lateResult i s.g = some (a, v, n) →
     ∃ t, exec i s = .next t ∧ (s.dueIn n a).gives t a v) ∧
  (∀ (i : Instr) (s : State) (a : GReg) (v : Word), s.me.eret ≠ 1 → signResult i s.g = some (a, v) →
     ∃ t, exec i s = .next t ∧ s.gives t a v) ∧
  (∀ (dst src : CvtFmt) (a b : GReg) (s : State), s.me.eret ≠ 1 →
     let d := srStep (s.me.gen 0)
     ∃ t u, exec (.fcvt dst src .sr a b) s = .next t ∧ u = s.modMe (fun x => { x with sr := u.me.sr }) ∧ u.me.gen 0 = d
       ∧ (u.dueIn 3 a).gives t a (cvtImg dst (cvtVal src (s.g b)) (.sr d))) ∧
  (∀ (s : State) (n m : Nat) (a : GReg), 1 ≤ n → n ≤ 36 → m ≤ 36 → a ≠ 0 →
     ((s.dueIn n a).me.late (s.here.cycle + w64 m) a.toNat = true ↔ m < n)) ∧
  ∀ (s : State) (n : Nat), (s.dueIn n 0).me = s.me

/-! ### Transfers (R17, R100 to R105) -/

/-- Branches and JR complete (R100 to R103, R105): both entries behind the transfer move up as its delay slots, annulled by
.NT when it is taken and by .NN when it is not (R100), and the third entry is the target when it is taken; no register
changes. JAL (R104) completes in the same way, always taken, with the link, the line after the line of its second delay
slot, written as it retires; where that slot cannot be formed because the line before it cannot be read, JAL takes the
FETCH fault itself. A transfer of majors 0x20 to 0x24 in a delay slot of an ERET takes ILLEGAL (R114). -/
def Obligations.BranchesAndLinks : Prop :=
  (∀ (i : Instr) (s : State) (taken : Bool) (target : Word) (n : Nullify), s.me.eret = 0 → s.me.q0.annul = false →
     branchOf i s = some (taken, target, n) →
     let nul : Bool := match n with | .plain => false | .nt => taken | .nn => !taken
     ∃ t, exec i s = .next t
       ∧ t.me.q0 = { s.me.q1 with annul := s.me.q1.annul || nul } ∧ t.me.q1 = { s.me.q2 with annul := s.me.q2.annul || nul }
       ∧ (taken = true → t.me.q2.addr = target ∧ t.me.q2.annul = false ∧ t.me.q2.target = true)
       ∧ (taken = false → t.me.q2 = (s.formSucc s.core s.ctx s.me.q2).2)
       ∧ s.transferred t ∧ ∀ r, t.g r = s.g r) ∧
  (∀ (n : Nullify) (a : GReg) (disp : BitVec 25) (s : State), s.me.eret = 0 → s.me.q0.annul = false →
     let link := lineOf s.me.q2.addr + 64
     (s.me.q2.line ≠ .unformed →
         ∃ t, exec (.jal n a disp) s = .next t
           ∧ t.me.q0 = { s.me.q1 with annul := s.me.q1.annul || n == .nt } ∧ t.me.q1 = { s.me.q2 with annul := s.me.q2.annul || n == .nt }
           ∧ t.me.q2.addr = lineOf s.me.q0.addr + disp.signExtend 64 * 64 ∧ t.me.q2.annul = false ∧ t.me.q2.target = true
           ∧ (s.setG a link).transferred t ∧ (∀ r, t.g r = if r = a ∧ a ≠ 0 then link else s.g r))
       ∧ ∀ k, s.me.q2.line = .unformed → s.me.q1.line = .bad k → k ≠ 3 →
           exec (.jal n a disp) s = .next (s.raise { code := 0x05, detail := k, addr := lineOf s.me.q1.addr })) ∧
  (∀ (s : State), s.me.eret ≠ 0 →
     (∀ i p, branchOf i s = some p → exec i s = .next s.illegal)
       ∧ ∀ n a disp, exec (.jal n a disp) s = .next s.illegal)

/-! ### Exceptions (spec/05 R113, R114, R123 to R128) -/

/-- Trap entry (R126), for every cause taken at a boundary outside a trap: the queue, P with SIGEN and ARRIVED, the cause and
its address are saved; PIE and PPRIV take IE and PRIV, IE becomes 0, PRIV 1, INTRAP 1. With a handler of its own the context
continues at the line of EVEC, which is entered without reading TGT, with a fresh P. No general register changes, nor any
other context. -/
def Obligations.TrapEntrySavesAndEnters : Prop :=
  ∀ (s : State) (z : Cause), s.boundaryReady = true → s.me.intrap = false → s.here.evecDefault = false →
    let t := s.raise z
    t.me.epcq0 = s.me.q0.save ∧ t.me.epcq1 = s.me.q1.save ∧ t.me.epcq2 = s.me.q2.save
      ∧ t.me.esig = w64 (s.me.p.toNat + s.me.sigen.toNat * 65536 + s.me.arrived.toNat * 131072)
      ∧ t.me.ecause = w64 (z.code + z.detail * 65536) ∧ t.me.eaddr = z.addr
      ∧ t.me.cstat = mkCstat s.me.num true false true s.me.priv s.me.ie
      ∧ t.me.q0.addr = lineOf s.here.evec ∧ t.me.q0.annul = false ∧ t.me.q0.target = false ∧ t.me.q1.annul = false
      ∧ t.me.q2.annul = false ∧ t.me.p = 0xFFFF ∧ t.me.eret = 0 ∧ t.me.arrived = false
      ∧ (∀ r, t.g r = s.g r) ∧ (∀ c k, ¬(c = s.core ∧ k = s.ctx) → t.ctxAt c k = s.ctxAt c k)

/-- A fault inside a trap is a double trap (R128): the save registers keep their values. In context 0 the launch's job
context takes a device-level fault; a helper becomes EXITED with status bit 63 and 0xFF. -/
def Obligations.DoubleTrap : Prop :=
  ∀ (s : State) (z : Cause), s.boundaryReady = true → s.me.intrap = true →
    let t := s.raise z
    t.me.epcq0 = s.me.epcq0 ∧ t.me.epcq1 = s.me.epcq1 ∧ t.me.epcq2 = s.me.epcq2 ∧ t.me.ecause = s.me.ecause
      ∧ t.me.eaddr = s.me.eaddr ∧ t.me.esig = s.me.esig
      ∧ (s.ctx = 0 → t.agenda = .deviceLevelFault s.cid 3 z.addr s.core s.me.ecause :: s.agenda ∧ t.me = s.me)
      ∧ (s.ctx ≠ 0 → t.me.st = .exited ∧ t.me.status = w64 (2 ^ 63 + 0xFF))

/-- TRAP (R113) completes: it retires, and the trap entry that follows saves the queue as it stands then, with its code in
ECAUSE[26:16], 0x20 in ECAUSE[7:0] and EADDR 0; where the line exit it makes finds a wrong signature, that is taken instead
(R124), and before its boundary is ready it waits (R88, R186). TRAP_ENTRY as an event (R126): the named context takes the
cause, here at a boundary outside a trap; an interrupt of context 0 is consumed by it (R225). ALARM (R125): where IMASK lets
bit 6 through, IPEND bit 6 is set, IALARM is disarmed, and event bit 4 is set in a LIVE context 0 (R120); a masked alarm
changes nothing. -/
def Obligations.TrapInstructionAndEvents : Prop :=
  (∀ (s : State) (code : BitVec 11), s.me.eret ≠ 1 →
     (s.boundaryReady = true → s.me.intrap = false → s.here.evecDefault = false → s.retire.me.sigFault = none →
         ∃ t, exec (.trap code) s = .next t ∧ t.me.ecause = w64 (0x20 + code.toNat * 65536) ∧ t.me.eaddr = 0
           ∧ t.me.epcq0 = s.me.q1.save ∧ t.me.epcq1 = s.me.q2.save ∧ t.me.epcq2 = s.retire.me.q2.save
           ∧ t.me.q0.addr = lineOf s.here.evec ∧ t.me.q0.annul = false ∧ t.me.p = 0xFFFF
           ∧ t.me.cstat = mkCstat s.me.num true false true s.me.priv s.me.ie ∧ (∀ r, t.g r = s.g r))
       ∧ (s.boundaryReady = true → s.retire.me.sigFault ≠ none → exec (.trap code) s = .next s.retire)
       ∧ (s.boundaryReady = false → exec (.trap code) s = .next s)) ∧
  (∀ (s : State) (c k : Nat) (cause addr : Word), (s.at_ c k).boundaryReady = true → (s.ctxAt c k).intrap = false →
     (s.coreAt c).evecDefault = false →
     ∃ t, exec (.trapEntry c k cause addr) s = .next t ∧ (t.ctxAt c k).epcq0 = (s.ctxAt c k).q0.save
       ∧ (t.ctxAt c k).epcq1 = (s.ctxAt c k).q1.save ∧ (t.ctxAt c k).epcq2 = (s.ctxAt c k).q2.save
       ∧ (t.ctxAt c k).ecause = w64 (bits cause 7 0 + bits cause 63 16 * 65536)
       ∧ (t.ctxAt c k).cstat = mkCstat (s.ctxAt c k).num true false true (s.ctxAt c k).priv (s.ctxAt c k).ie
       ∧ (t.ctxAt c k).q0.addr = lineOf (s.coreAt c).evec
       ∧ (bits cause 7 0 ≠ 0x30 ∨ k ≠ 0 → (t.ctxAt c k).eaddr = addr ∧ (t.coreAt c).ipend = (s.coreAt c).ipend)
       ∧ (bits cause 7 0 = 0x30 → k = 0 → (t.ctxAt c k).eaddr = 0
           ∧ (t.coreAt c).ipend = (s.coreAt c).ipend &&& ~~~(1#64 <<< bits cause 63 16))) ∧
  (∀ (s : State) (c : Nat), ∃ t, exec (.alarm c) s = .next t ∧
     if (s.coreAt c).imask.getLsbD 6 then
       (t.coreAt c).ialarm = 0 ∧ (t.coreAt c).ipend = (s.coreAt c).ipend ||| 64
         ∧ (t.ctxAt c 0).latch = if (s.ctxAt c 0).st = .live then (s.ctxAt c 0).latch ||| 16 else (s.ctxAt c 0).latch
     else t.coreAt c = s.coreAt c)

/-- ERET (R114) in a privileged context begins the return: both entries behind it move up as its delay slots, the third
entry is not used, and two delay slots are left to run, with the handler's CSTAT. The return takes place as the second delay
slot of the ERET retires, here one that does not transfer: IE and PRIV come back from PIE and PPRIV, INTRAP clears, P and
ARRIVED come from ESIG, and the queue from EPCQ0 to EPCQ2: an entry whose EPCQ is not 0 has its address and its annul bit. An
ERET in a delay slot of an ERET is illegal. -/
def Obligations.ReturnFromException : Prop :=
  (∀ (s : State) (n : Nullify), s.me.priv = true → s.me.q0.annul = false →
     (s.me.eret = 0 → ∃ t, exec (.eret n) s = .next t ∧ t.me.eret = 2 ∧ t.me.q2 = {}
         ∧ t.me.q0 = { s.me.q1 with annul := s.me.q1.annul || n == .nt } ∧ t.me.q1 = { s.me.q2 with annul := s.me.q2.annul || n == .nt }
         ∧ t.me.cstat = s.me.cstat ∧ ∀ r, t.g r = s.g r)
       ∧ (s.me.eret ≠ 0 → exec (.eret n) s = .next s.illegal)) ∧
  (∀ (s : State), s.me.eret = 1 →
     let t := s.retire
     t.me.q0.addr = s.me.epcq0 &&& ~~~(1#64) ∧ t.me.q0.annul = s.me.epcq0.getLsbD 0
       ∧ (s.me.epcq1 &&& ~~~(1#64) ≠ 0 → t.me.q1.addr = s.me.epcq1 &&& ~~~(1#64) ∧ t.me.q1.annul = s.me.epcq1.getLsbD 0)
       ∧ (s.me.epcq2 &&& ~~~(1#64) ≠ 0 → t.me.q2.addr = s.me.epcq2 &&& ~~~(1#64) ∧ t.me.q2.annul = s.me.epcq2.getLsbD 0)
       ∧ t.me.p = s.me.esig.setWidth 16 ∧ t.me.arrived = s.me.esig.getLsbD 17 ∧ t.me.eret = 0
       ∧ t.me.cstat = mkCstat s.me.num s.me.ppriv s.me.pie false s.me.ppriv s.me.pie ∧ ∀ r, t.g r = s.g r)

/-- A privileged function of the system instructions and of the wells (R112, R152, R153) takes ILLEGAL in an unprivileged
context, and so does RDSYS or WRSYS of a register that has a PRIV field (R7, R115). -/
def Obligations.PrivilegedFunctions : Prop :=
  ∀ (s : State), s.me.priv = false →
    (∀ n, exec (.eret n) s = .next s.illegal) ∧ exec .park s = .next s.illegal
      ∧ (∀ a c b d, exec (.injectAcc a c b d) s = .next s.illegal) ∧ (∀ a c b d, exec (.injectLoc a c b d) s = .next s.illegal)
      ∧ (∀ a c b d, exec (.injectSlice a c b d) s = .next s.illegal) ∧ (∀ a b d, exec (.injectDec a b d) s = .next s.illegal)
      ∧ (∀ a z b, exec (.wmap a z b) s = .next s.illegal) ∧ (∀ a z, exec (.wunmap a z) s = .next s.illegal)
      ∧ (∀ a (reg : BitVec 11), sysAcc reg.toNat = some .priv → exec (.rdsys a reg) s = .next s.illegal)
      ∧ (∀ (reg : BitVec 11) c, sysAcc reg.toNat = some .priv → exec (.wrsys reg c) s = .next s.illegal)

/-! ### System registers (spec/05 R115; spec/01 R22 to R30) -/

/-- RDSYS (R115) completes for every register the context may name: a takes the register. WRSYS (R115) completes: a write
that its register takes is done, and then the instruction retires; to a register whose fields are all RO or RZ it is
ignored. A register the context may not name, or that does not exist, is ILLEGAL for both (R7, R22, R115). -/
def Obligations.SystemRegisterAccess : Prop :=
  (∀ (s : State) (a : GReg) (reg : BitVec 11), s.me.eret ≠ 1 → s.mayAccess reg.toNat = true →
     ∃ t, exec (.rdsys a reg) s = .next t ∧ (s.dueIn 2 a).gives t a (s.readSys s.core s.ctx reg.toNat)) ∧
  (∀ (s : State) (reg : BitVec 11) (c : GReg), s.me.eret ≠ 1 → s.mayAccess reg.toNat = true →
     s.badWrite s.core reg.toNat (s.g c) = false →
     (∃ t, exec (.wrsys reg c) s = .next t ∧ (s.writeSys s.core s.ctx reg.toNat (s.g c)).passed t ∧ ∀ r, t.g r = s.g r)
       ∧ (sysAcc reg.toNat = some .ro → s.writeSys s.core s.ctx reg.toNat (s.g c) = s)) ∧
  (∀ (s : State) (a : GReg) (reg : BitVec 11), s.mayAccess reg.toNat = false →
     exec (.rdsys a reg) s = .next s.illegal ∧ exec (.wrsys reg a) s = .next s.illegal) ∧
  (∀ (s : State) (n : Nat), s.mayAccess n = false ↔ sysAcc n = none ∨ (sysAcc n = some .priv ∧ s.me.priv = false))

/-- What WRSYS stores, read back by RDSYS in the same context: the trap registers and EVEC with their reserved bits
zero (R23, R24), IMASK and IALARM (R125), SRSEED (R44) and ACCMAP with its reserved bits zero (R16, R29); IPEND loses the bits written as 1 (R125); of
CSTAT only PPRIV, PIE and IE change (R23). -/
def Obligations.WrittenRegistersReadBack : Prop :=
  ∀ (s : State) (c k : Nat) (v : Word),
    (s.writeSys c k 0x001 v).readSys c k 0x001 = v ∧ (s.writeSys c k 0x002 v).readSys c k 0x002 = v
      ∧ (s.writeSys c k 0x003 v).readSys c k 0x003 = v ∧ (s.writeSys c k 0x006 v).readSys c k 0x006 = v
      ∧ (s.writeSys c k 0x004 v).readSys c k 0x004 = v &&& 0x3FFFF
      ∧ (s.writeSys c k 0x005 v).readSys c k 0x005 = v &&& 0xFFFFFFFFFFFF00FF
      ∧ (s.writeSys c k 0x007 v).readSys c k 0x007 = v &&& ~~~(63#64)
      ∧ (s.writeSys c k 0x008 v).readSys c k 0x008 = (v.setWidth 32).setWidth 64
      ∧ (s.writeSys c k 0x014 v).readSys c k 0x014 = (v.setWidth 16).setWidth 64
      ∧ (s.writeSys c k 0x018 v).readSys c k 0x018 = v &&& 0x7F ∧ (s.writeSys c k 0x019 v).readSys c k 0x019 = v
      ∧ (s.writeSys c k 0x017 v).readSys c k 0x017 = (s.coreAt c).ipend &&& ~~~v
      ∧ (s.writeSys c k 0x000 v).readSys c k 0x000 =
          mkCstat (s.ctxAt c k).num (s.ctxAt c k).priv (v.getLsbD 1) (s.ctxAt c k).intrap (v.getLsbD 3) (v.getLsbD 4)

/-- RDID, RDID.POD, RDID.CTX, RDID.POS, RDSTEP and RDCYC (R116) complete with their identities and clocks. WAIT.ST (R117) at
or after its target completes with the lateness; before it, the context waits with the target, and once STEP has reached it
the wait ends the same way. -/
def Obligations.IdentitiesAndWaitForStep : Prop :=
  (∀ (s : State) (a : GReg), s.me.eret ≠ 1 →
     (∃ t, exec (.rdid a) s = .next t ∧ (s.dueIn 2 a).gives t a (w64 s.core))
       ∧ (∃ t, exec (.rdidPod a) s = .next t ∧ (s.dueIn 2 a).gives t a (w64 (s.modno * 30720 + s.core)))
       ∧ (∃ t, exec (.rdidCtx a) s = .next t ∧ (s.dueIn 2 a).gives t a (w64 s.ctx))
       ∧ (∃ t, exec (.rdidPos a) s = .next t ∧ (s.dueIn 2 a).gives t a (w64 (s.core % 8)))
       ∧ (∃ t, exec (.rdstep a) s = .next t ∧ (s.dueIn 2 a).gives t a (s.stepOf s.core))
       ∧ (∃ t, exec (.rdcyc a) s = .next t ∧ (s.dueIn 2 a).gives t a s.here.cycle)) ∧
  (∀ (s : State) (a c : GReg) (n : BitVec 11), s.me.eret ≠ 1 →
     let target := s.here.taskstep + s.g c + n.setWidth 64
     (target.toNat ≤ (s.stepOf s.core).toNat → ∃ t, exec (.waitSt a c n) s = .next t ∧ s.gives t a (s.stepOf s.core - target))
       ∧ ((s.stepOf s.core).toNat < target.toNat → exec (.waitSt a c n) s = .next (s.hold (.waitSt a c n) target))
       ∧ ∀ k j : Nat, (s.ctxAt k j).wait = some (.waitSt a c n) → (s.ctxAt k j).eret ≠ 1 →
           (s.ctxAt k j).aux.toNat ≤ (s.stepOf k).toNat →
           ∃ t, exec (.waitStComplete k j) s = .next t ∧ (s.at_ k j).gives t a (s.stepOf k - (s.ctxAt k j).aux)
             ∧ (t.ctxAt k j).wait = none)

/-- WFE (R120): with the latch not 0 it completes, delivers the latch and clears it; else it waits, a timeout sets event bit
6, and the wait ends with the latch. PARK (R121) is ILLEGAL in a helper and while a helper is not IDLE; in context 0 it
completes at once when IPEND is not 0 and the queues are empty; else the core parks, and the wake ends it once the queues are
empty and IPEND is not 0 or a launch wake or a doorbell has come. IFENCE (R119) completes: it retires, and the lines of the
entries behind it, but for its own, are read again. -/
def Obligations.EventWaitsAndPark : Prop :=
  (∀ (s : State) (a : GReg), s.me.eret ≠ 1 →
     (s.me.latch ≠ 0 → ∃ t, exec (.wfe a) s = .next t ∧ t.me.latch = 0
         ∧ (s.modMe (fun x => { x with latch := 0 })).gives t a (s.me.latch.setWidth 64))
       ∧ (s.me.latch = 0 → exec (.wfe a) s = .next (s.hold (.wfe a) 0))
       ∧ (∀ k j, ∃ t, exec (.wfeTimeoutEvent k j) s = .next t ∧ (t.ctxAt k j).latch = (s.ctxAt k j).latch ||| 64)
       ∧ ∀ k j : Nat, (s.ctxAt k j).wait = some (.wfe a) → (s.ctxAt k j).latch ≠ 0 → (s.ctxAt k j).eret ≠ 1 →
           ∃ t, exec (.wfeComplete k j) s = .next t ∧ (t.ctxAt k j).latch = 0 ∧ (t.ctxAt k j).wait = none
             ∧ ((s.at_ k j).modMe (fun x => { x with latch := 0 })).gives t a ((s.ctxAt k j).latch.setWidth 64)) ∧
  (∀ (s : State), s.me.eret ≠ 1 →
     (s.me.priv = true → s.ctx = 0 → s.here.helpersIdle = true → s.here.vec.queue = [] → s.here.mat.queue = [] →
         s.here.ipend ≠ 0 → ∃ t, exec .park s = .next t ∧ s.passed t)
       ∧ (s.me.priv = true → s.ctx = 0 → s.here.helpersIdle = true →
           s.here.ipend = 0 ∨ s.here.vec.queue ≠ [] ∨ s.here.mat.queue ≠ [] →
           exec .park s = .next ((s.modHere (fun x => { x with parked := true })).hold .park 0))
       ∧ (s.me.priv = true → s.ctx ≠ 0 ∨ s.here.helpersIdle = false → exec .park s = .next s.illegal)
       ∧ (∀ k, (s.ctxAt k 0).wait = some .park → (s.ctxAt k 0).eret ≠ 1 → (s.coreAt k).vec.queue = [] →
           (s.coreAt k).mat.queue = [] → (s.coreAt k).ipend ≠ 0 ∨ (s.ctxAt k 0).aux ≠ 0 →
           ∃ t, exec (.parkWake k) s = .next t ∧ (t.coreAt k).parked = false ∧ (t.ctxAt k 0).wait = none
             ∧ ((s.at_ k 0).modHere (fun x => { x with parked := false })).passed t)
       ∧ ∃ t, exec .ifence s = .next t ∧ t = s.retire.rereadQueue (lineOf s.me.q0.addr) ∧ t.me.q0.addr = s.me.q1.addr
           ∧ ∀ r, t.g r = s.g r)

/-! ### INJECT (R122) -/

/-- INJECT of each target completes in a privileged context (R122): ACC enters the matrix queue; LOC flips the bits of a TCM
word or a mapped well's without touching its code; SLICE the bits of a word of a resident sector, and answers 0 where the line
is not resident, here where no page is waited for, or where the address is of the mesh alias; DEC the bits of the next decode
word. ACC in a helper or of a tile outside ACCMAP is ILLEGAL; LOC and SLICE take the faults of a load: a failing check, that of
the core that the mesh alias names among them, and POISONED for a word that stored errors make unreadable. -/
def Obligations.InjectErrors : Prop :=
  ∀ (s : State) (a c : GReg) (bit : BitVec 6) (dbl : Bool), s.me.priv = true → s.me.eret ≠ 1 →
    let u := s.obbUse s.core (idOf (s.g c))
    (s.ctx = 0 → s.here.mat.accmap.getLsbD (bits (s.g c) 3 0) = true → s.here.matRoom = true →
        ∃ t, exec (.injectAcc a c bit dbl) s = .next t
          ∧ (s.modHere (fun x => { x with mat := { x.mat with queue := x.mat.queue
              ++ [{ instr := .injectAcc a c bit dbl, ops := [s.g c], mirror := .off, queued := s.now, pc := s.me.q0.addr }] } })).gives t a 1)
      ∧ (s.ctx ≠ 0 ∨ s.here.mat.accmap.getLsbD (bits (s.g c) 3 0) = false → exec (.injectAcc a c bit dbl) s = .next s.illegal)
      ∧ ((s.g c).toNat < 0x30000 → (s.g c).toNat % 8 = 0 → s.here.loc.ecc.badWord ((s.g c).toNat / 8) = false →
        ∃ t, exec (.injectLoc a c bit dbl) s = .next t
          ∧ (s.modLoc s.core (fun l => { l with ecc := eccFlip l.ecc (s.g c).toNat (injectMask bit dbl) })).gives t a 1)
      ∧ ((s.g c).toNat < 0x30000 → (s.g c).toNat % 8 = 0 → s.here.loc.ecc.badWord ((s.g c).toNat / 8) = true →
        exec (.injectLoc a c bit dbl) s = .next (s.raise { code := 0x0B, addr := s.g c }))
      ∧ (let w := bankWell (s.here.bankmap ((s.g c).toNat / 0x10000 - 4))
         0x30000 ≤ (s.g c).toNat → s.checkLocal s.core (s.g c).toNat 8 8 false = none →
         (s.well s.core w).ecc.badWord ((s.g c).toNat % 0x10000 / 8) = false →
         ∃ t, exec (.injectLoc a c bit dbl) s = .next t
           ∧ (s.modWell s.core w (fun v => { v with ecc := eccFlip v.ecc ((s.g c).toNat % 0x10000) (injectMask bit dbl) })).gives t a 1)
      ∧ (∀ z, s.checkLocal s.core (s.g c).toNat 8 8 false = some z → exec (.injectLoc a c bit dbl) s = .next (s.raise z))
      ∧ (∀ z, s.checkGlobal s.core s.cid (s.g c) 8 = some z → exec (.injectSlice a c bit dbl) s = .next (u.raise z))
      ∧ (∀ h l, s.checkGlobal s.core s.cid (s.g c) 8 = none → idOf (s.g c) ≠ aliasId →
          s.homeOf (idOf (s.g c)) (offOf (s.g c)) = some h →
          ((s.die h.die).slice h.slot).find h.set h.key = some l → l.valid.getLsbD (offOf (s.g c) % 256 / 32) = true →
          exec (.injectSlice a c bit dbl) s = .next (
            if l.ecc.badWord (offOf (s.g c) % 256 / 8) then u.raise { code := 0x0B, addr := s.g c }
            else (u.putLine h { l with ecc := eccFlip l.ecc (offOf (s.g c) % 256) (injectMask bit dbl) }).result a 1))
      ∧ (∀ h, s.checkGlobal s.core s.cid (s.g c) 8 = none → idOf (s.g c) ≠ aliasId →
          s.homeOf (idOf (s.g c)) (offOf (s.g c)) = some h →
          ((s.die h.die).slice h.slot).find h.set h.key = none → s.mustWait h = false →
          exec (.injectSlice a c bit dbl) s = .next (
            if h.ext.back = 0 ∧ s.hbmEcc.badWord ((h.hbm + offOf (s.g c) % 256) / 8) = true then u.raise { code := 0x0B, addr := s.g c }
            else u.result a 0))
      ∧ (s.checkGlobal s.core s.cid (s.g c) 8 = none → idOf (s.g c) = aliasId → s.obj aliasId = none →
          (∀ z, s.aliasFault (s.g c) = some z → exec (.injectSlice a c bit dbl) s = .next (u.raise z))
            ∧ (s.aliasFault (s.g c) = none → exec (.injectSlice a c bit dbl) s = .next (u.result a 0)))
      ∧ ∃ t, exec (.injectDec a bit dbl) s = .next t ∧ s.gives t a 1
          ∧ (s.me.inLine = true → s.me.q1.addr = s.me.q0.addr + 2 → (∃ l, s.me.q0.line = .ok l ∧ headIdx s.me.q0.addr + 1 < lineH l) →
              t.me.decFlip = (injectMask bit dbl).setWidth 16)

/-! ### Helpers (R107 to R111) -/

/-- HSTART (R108) of a helper that is not 1 to 10 writes 2, of one that is not IDLE writes 1; a helper that starts, here with
nothing to release (R111), becomes LIVE at its line with g3 to g10 and PRIV of context 0, its other registers kept, and a
takes 0. HJOIN (R109) collects an EXITED helper, whose status it delivers and which becomes IDLE; an IDLE one gives -1 and a
number out of range -2; else it waits, and ends in the same way once the helper has exited. In a helper both are ILLEGAL
(R107). HEXIT of a helper (R110), here with nothing to release, makes it EXITED with its status, its queue discarded. HEXIT in
context 0 with a helper not IDLE is ILLEGAL; else it waits until queues and engines are empty (log 14), and then ends the
core's part of the launch with its status, which is first stored at the home where STATUS is not 0 (R317). -/
def Obligations.HelperContexts : Prop :=
  (∀ (s : State) (a b c : GReg), s.ctx = 0 → s.me.eret ≠ 1 →
     let k := (s.g b).toNat
     ((k < 1 ∨ 10 < k) → exec (.hstart a b c) s = .next (s.result a 2))
       ∧ (1 ≤ k → k ≤ 10 → (s.ctxAt s.core k).st ≠ .idle → exec (.hstart a b c) s = .next (s.result a 1))
       ∧ (1 ≤ k → k ≤ 10 → (s.ctxAt s.core k).st = .idle → s.drained →
           ∃ t, exec (.hstart a b c) s = .next t ∧ (t.ctxAt s.core k).st = .live
             ∧ (t.ctxAt s.core k).q0.addr = s.g c ∧ (t.ctxAt s.core k).q0.target = true
             ∧ (t.ctxAt s.core k).cstat = mkCstat k s.me.priv false false false false
             ∧ (∀ r : GReg, (t.ctxAt s.core k).reg r =
                 if 3 ≤ r.toNat ∧ r.toNat ≤ 10 then s.me.reg r else (s.ctxAt s.core k).reg r)
             ∧ ∀ r, t.g r = if r = a then 0 else s.g r)) ∧
  (∀ (s : State) (a b : GReg), s.ctx = 0 → s.me.eret ≠ 1 →
     let k := (s.g b).toNat
     (1 ≤ k → k ≤ 10 → (s.ctxAt s.core k).st = .exited →
         ∃ t, exec (.hjoin a b) s = .next t ∧ (t.ctxAt s.core k).st = .idle
           ∧ (s.modCtx s.core k (fun y => { y with st := .idle })).gives t a (s.ctxAt s.core k).status)
       ∧ (1 ≤ k → k ≤ 10 → (s.ctxAt s.core k).st = .idle → ∃ t, exec (.hjoin a b) s = .next t ∧ s.gives t a (BitVec.allOnes 64))
       ∧ ((k < 1 ∨ 10 < k) → ∃ t, exec (.hjoin a b) s = .next t ∧ s.gives t a (w64 (2 ^ 64 - 2)))
       ∧ (1 ≤ k → k ≤ 10 → (s.ctxAt s.core k).st = .live ∨ (s.ctxAt s.core k).st = .waiting →
           exec (.hjoin a b) s = .next (s.hold (.hjoin a b) 0))
       ∧ (1 ≤ k → k ≤ 10 → s.me.wait = some (.hjoin a b) → (s.ctxAt s.core k).st = .exited →
           exec (.hjoinComplete s.core) s = exec (.hjoin a b) s)) ∧
  (∀ (s : State) (a b c : GReg), s.ctx ≠ 0 → exec (.hstart a b c) s = .next s.illegal ∧ exec (.hjoin a b) s = .next s.illegal) ∧
  (∀ (s : State) (a : GReg),
     (s.ctx ≠ 0 → s.drained → ∃ t, exec (.hexit a) s = .next t ∧ t.me.st = .exited ∧ t.me.status = s.g a
         ∧ t.me.q0 = {} ∧ t.me.q1 = {} ∧ t.me.q2 = {} ∧ (∀ c k, c ≠ s.core → t.ctxAt c k = s.ctxAt c k))
       ∧ (s.ctx = 0 → s.here.helpersIdle = false → exec (.hexit a) s = .next s.illegal)
       ∧ (s.ctx = 0 → s.here.helpersIdle = true → s.here.quiet = false → exec (.hexit a) s = .next s)
       ∧ (s.ctx = 0 → s.here.helpersIdle = true → s.here.quiet = true → s.here.cache.cbuf = [] →
           (s.statusAddr = none → ∃ t, exec (.hexit a) s = .next t ∧ t = s.endPart s.core (s.g a) ∧ t.here.run.node = none
               ∧ t.me.st = .idle)
             ∧ ∀ p u bs, s.statusAddr = some p → s.rawWrite s.core p (leBytes 8 (s.g a).toNat) s.cid = (u, .ok bs) →
               ∃ t, exec (.hexit a) s = .next t ∧ t = u.endPart s.core (s.g a) ∧ (t.coreAt s.core).run.node = none))

/-! ### Local and global memory (spec/06 R134 to R147; spec/01 R19) -/

/-- A local load (R139) that passes the checks of R19 and meets no uncorrectable word completes with the bytes at its
address, extended with the sign by LDL and with zeros by LDLN, and marks the tiles it read (R155); one that meets such a word
is POISONED and marks none. In TCM without stored errors it reads exactly its bytes, and nothing else changes. -/
def Obligations.LocalLoads : Prop :=
  ∀ (s : State) (z : Size) (a b : GReg) (imm : BitVec 13), s.me.eret ≠ 1 →
    let la := s.localAddr b imm
    let r := s.localRead s.core la (sizeBytes z)
    let u := r.1.markTiles s.core la (sizeBytes z)
    s.checkLocal s.core la (sizeBytes z) (sizeBytes z) false = none →
    (r.2.2 = none →
        (∃ t, exec (.ldl z a b imm) s = .next t ∧ u.gives t a (sext (leNat r.2.1) (8 * sizeBytes z)))
          ∧ (∃ t, exec (.ldln z a b imm) s = .next t ∧ u.gives t a (zext (leNat r.2.1) (8 * sizeBytes z))))
      ∧ (r.2.2 ≠ none → exec (.ldl z a b imm) s = .next (r.1.raise { code := 0x0B, addr := w64 la })
          ∧ exec (.ldln z a b imm) s = .next (r.1.raise { code := 0x0B, addr := w64 la }))
      ∧ (la + sizeBytes z ≤ 0x30000 → s.here.loc.ecc = {} → r.2.1 = s.here.loc.tcm.readN la (sizeBytes z) ∧ r.2.2 = none
          ∧ u = { s with cores := u.cores } ∧ ∀ c, u.coreAt c = s.coreAt c)

/-- A local store (R139) that passes the checks of R19, inside a line and where no stored error stands, completes: the bytes
at its address, in TCM or in the well of the slot, become the low bytes of a; every other byte of every local memory and of
HBM is as before, and so are every general register and CSTAT. -/
def Obligations.LocalStore : Prop :=
  ∀ (s : State) (z : Size) (a b : GReg) (imm : BitVec 13), s.me.eret ≠ 1 → s.me.inLine = true →
    let la := s.localAddr b imm
    let n := sizeBytes z
    let w := bankWell (s.here.bankmap (la / 0x10000 - 4))
    (la + n ≤ 0x30000 → la % n = 0 → s.here.loc.ecc = {} →
        ∃ t, exec (.stl z a b imm) s = .next t
          ∧ (∀ i, i < n → t.localByte s.core (la + i) = (s.g a).extractLsb' (8 * i) 8)
          ∧ (∀ c x, ¬(c = s.core ∧ la ≤ x ∧ x < la + n) → t.localByte c x = s.localByte c x)
          ∧ (∀ x, t.globalByte x = s.globalByte x) ∧ (∀ r, t.g r = s.g r) ∧ t.me.cstat = s.me.cstat)
      ∧ (0x40000 ≤ la → s.checkLocal s.core la n n true = none → (s.well s.core w).ecc = {} →
        ∃ t, exec (.stl z a b imm) s = .next t
          ∧ (∀ i, i < n → (t.well s.core w).data.read (la % 0x10000 + i) = (s.g a).extractLsb' (8 * i) 8)
          ∧ (∀ x, ¬(la % 0x10000 ≤ x ∧ x < la % 0x10000 + n) → (t.well s.core w).data.read x = (s.well s.core w).data.read x)
          ∧ (∀ c v, ¬(octOf c = octOf s.core ∧ v = w) → t.well c v = s.well c v)
          ∧ (∀ c x, x < 0x30000 → t.localByte c x = s.localByte c x)
          ∧ (∀ x, t.globalByte x = s.globalByte x) ∧ (∀ r, t.g r = s.g r) ∧ t.me.cstat = s.me.cstat)

/-- What a local store puts into TCM a local load of the same size at the same address returns, extended (R139, R135, R20). -/
def Obligations.LocalStoreThenLoad : Prop :=
  ∀ (s : State) (z : Size) (a b d e : GReg) (imm jmm : BitVec 13), s.me.eret = 0 → s.me.inLine = true →
    s.localAddr b imm = s.localAddr e jmm →
    s.localAddr b imm + sizeBytes z ≤ 0x30000 → s.localAddr b imm % sizeBytes z = 0 → s.here.loc.ecc = {} →
    (∃ t u, exec (.stl z a b imm) s = .next t ∧ exec (.ldln z d e jmm) t = .next u
        ∧ u.g d = if d = 0 then 0 else zext (s.g a).toNat (8 * sizeBytes z))
      ∧ ∃ t u, exec (.stl z a b imm) s = .next t ∧ exec (.ldl z d e jmm) t = .next u
        ∧ u.g d = if d = 0 then 0 else sext (s.g a).toNat (8 * sizeBytes z)

/-- The checks of a local access in the order of R19: an address that is no multiple of its size is ALIGN; one of 2^20 or
more is LOCAL; then the region decides; a store into a ring slot is DETACHED and a load is checked by its tags (R139, R155). A
global access that is not aligned to its size is ALIGN at its address; then one of the null object or of a reserved
identifier, beyond the object's end, or of another context's private object is OBJECT (R137, R229): loads, stores and atomics
alike. The access then has no effect but its trap and the use of the OBB (R338). -/
def Obligations.AccessFaults : Prop :=
  (∀ (s : State) (z : Size) (a b : GReg) (imm : BitVec 13) (x : Cause),
     let la := s.localAddr b imm
     let n := sizeBytes z
     let all (x : Cause) : Prop := exec (.ldl z a b imm) s = .next (s.raise x) ∧ exec (.ldln z a b imm) s = .next (s.raise x)
       ∧ exec (.stl z a b imm) s = .next (s.raise x)
     (la % n ≠ 0 → all { code := 0x06, addr := w64 la })
       ∧ (la % n = 0 → 2 ^ 20 ≤ la → all { code := 0x07, addr := w64 la })
       ∧ (la % n = 0 → s.here.checkRegion la n = some x → all x)
       ∧ (la % n = 0 → s.here.checkRegion la n = none →
           (s.here.checkRing la n = some x → exec (.stl z a b imm) s = .next (s.raise x))
             ∧ (s.checkTags s.core la n = some x → exec (.ldl z a b imm) s = .next (s.raise x)
                 ∧ exec (.ldln z a b imm) s = .next (s.raise x)))) ∧
  (∀ (i : Instr) (m : GAcc) (s : State), accOf i = some m →
     let p := eaOf (s.g m.b) m.imm
     let u := s.obbUse s.core (idOf p)
     (p.toNat % m.n ≠ 0 → exec i s = .next (u.raise { code := 0x06, addr := p }))
       ∧ (p.toNat % m.n = 0 → idOf p = 0 ∨ aliasId < idOf p ∨ (idOf p ≠ aliasId ∧ s.bounds s.core (idOf p) = none) →
           exec i s = .next (u.raise { code := 0x09, addr := p }))
       ∧ (∀ o, p.toNat % m.n = 0 → idOf p ≠ aliasId → s.bounds s.core (idOf p) = some o →
           o.size * 65536 < offOf p + m.n ∨ (o.priv = true ∧ (o.owncore ≠ s.core ∨ o.owncid ≠ s.cid)) →
           exec i s = .next (u.raise { code := 0x09, addr := p }))
       ∧ (p.toNat % m.n = 0 → idOf p = aliasId → coreCount * 2 ^ 20 < offOf p + m.n →
           exec i s = .next (u.raise { code := 0x09, addr := p })))

/-- A global load (R135) of a page that backs memory, whose home answers, completes with the bytes answered; LD extends the
sign, LDN zeros; one with .ACQ acquires at its scope (R133, R136). A poisoned answer is POISONED at the address, and a page that
has no frame makes the context wait for its reply (R137). A global store (R135) whose home, cache or buffer takes it completes:
the low bytes of a are stored at its address by the store of the memory system, and it retires. Both stand for every order,
an ordered form here with nothing to release. A write of bytes whose sector is resident at its home changes exactly those bytes
of global memory, and a read there returns what the home holds and changes no byte (R134, R238). A store to a STRONG page
changes exactly the bytes at its address, none elsewhere, global or local, and a load of them then returns them, extended
(R135, R237). A store to a NORMAL page whose sector the core's cache holds is not yet at its home, whose bytes stay as they are,
and the storing context's own load returns it (R20, R233, R234). -/
def Obligations.GlobalAccesses : Prop :=
  (∀ (s u : State) (z : Size) (o : Order) (sc : Scope) (a b : GReg) (imm : BitVec 19) (r : Ans),
     let p := eaOf (s.g b) (imm.signExtend 64)
     let v := s.obbUse s.core (idOf p)
     s.checkGlobal s.core s.cid p (sizeBytes z) = none → v.behindVector p.toNat (sizeBytes z) = false → v.windowOf p = none →
     idOf p ≠ aliasId → o = .relaxed ∨ v.drained → v.gLoad v.core v.ctx p (sizeBytes z) v.cid = (u, r) →
     let w := if o = .acq ∨ o = .ar then u.acquire u.core sc else u
     (∀ bs, r = .ok bs →
         exec (.ld z o sc a b imm) s = .next (w.result a (sext (leNat bs) (8 * sizeBytes z)))
           ∧ exec (.ldn z o sc a b imm) s = .next (w.result a (zext (leNat bs) (8 * sizeBytes z))))
       ∧ (r = .poison → exec (.ld z o sc a b imm) s = .next (u.raise { code := 0x0B, addr := p })
           ∧ exec (.ldn z o sc a b imm) s = .next (u.raise { code := 0x0B, addr := p }))
       ∧ (r = .absent → exec (.ld z o sc a b imm) s = .next (u.pageWait p) ∧ exec (.ldn z o sc a b imm) s = .next (u.pageWait p))) ∧
  (∀ (s u : State) (z : Size) (o : Order) (sc : Scope) (a b : GReg) (imm : BitVec 19) (bs : List Byte),
     let p := eaOf (s.g b) (imm.signExtend 64)
     let v := s.obbUse s.core (idOf p)
     s.checkGlobal s.core s.cid p (sizeBytes z) = none → v.behindVector p.toNat (sizeBytes z) = false → v.windowOf p = none →
     idOf p ≠ aliasId → o = .relaxed ∨ v.drained →
     v.gStore v.core v.ctx p (leBytes (sizeBytes z) (v.g a).toNat) v.cid = (u, .ok bs) →
     exec (.st z o sc a b imm) s = .next u.retire) ∧
  (∀ (s : State) (w cid : Nat) (p : Word) (h : Home) (l : SliceLine), s.atHome p h l →
     (∀ bs : List Byte, bs ≠ [] → offOf p % 32 + bs.length ≤ 32 → ∃ t, s.rawWrite w p bs cid = (t, .ok []) ∧ s.stored t p bs)
       ∧ ∀ n, 1 ≤ n → offOf p % 32 + n ≤ 32 → askerDie w = h.die →
           ∃ t, s.rawRead w p n cid = (t, .ok (l.data.readN (offOf p % 256) n)) ∧ ∀ x, t.globalByte x = s.globalByte x) ∧
  (∀ (s : State) (z : Size) (sc : Scope) (a b : GReg) (imm : BitVec 19), s.me.eret = 0 → s.me.inLine = true →
     let p := eaOf (s.g b) (imm.signExtend 64)
     let n := sizeBytes z
     s.checkGlobal s.core s.cid p n = none → s.windowOf p = none → idOf p ≠ aliasId → s.here.vec.queue = [] →
     s.here.cache.cbuf = [] → s.cleanCache →
     (s.pageType (idOf p) (offOf p)).1 = .strong ∧ (∃ h l, s.atHome p h l)
       ∨ (s.pageType (idOf p) (offOf p)).1 = .normal ∧ (s.here.l1Find (p.toNat / 32)).isSome = true →
     ∃ t, exec (.st z .relaxed sc a b imm) s = .next t
       ∧ ((s.pageType (idOf p) (offOf p)).1 = .strong → s.stored t p (leBytes n (s.g a).toNat))
       ∧ ((s.pageType (idOf p) (offOf p)).1 = .normal → ∀ x, t.globalByte x = s.globalByte x)
       ∧ (∀ c la, t.localByte c la = s.localByte c la) ∧ (∀ r, t.g r = s.g r) ∧ t.me.cstat = s.me.cstat
       ∧ ∀ (d e : GReg) (jmm : BitVec 19), eaOf (s.g e) (jmm.signExtend 64) = p →
         (∃ u, exec (.ldn z .relaxed sc d e jmm) t = .next u ∧ u.g d = if d = 0 then 0 else zext (s.g a).toNat (8 * n))
           ∧ ∃ u, exec (.ld z .relaxed sc d e jmm) t = .next u ∧ u.g d = if d = 0 then 0 else sext (s.g a).toNat (8 * n))

/-- An atomic (R140, R141) of any order completes, here with no store buffered and, where it releases, nothing queued: its
home applies the operator to the old bytes, c and a, and a takes the old value, zero-extended for MINN, MAXN and FAMOADD and
sign-extended else; one with .ACQ or .AR acquires at its scope. Where the sector is resident at its home, the bytes at the
address are the operator's result, or the old ones where a CAS does not match, and every other byte of global memory is as
before. -/
def Obligations.AtomicResults : Prop :=
  (∀ (i : Instr) (s u : State) (op : AmoOp) (n : Nat) (o : Order) (sc : Scope) (a b c : GReg) (imm : BitVec 17) (old : List Byte),
    amoParts i = some (op, n, o, sc, a, b, c, imm) →
    let p := eaOf (s.g b) (imm.signExtend 64)
    let v := s.obbUse s.core (idOf p)
    s.checkGlobal s.core s.cid p n = none → v.behindVector p.toNat n = false → v.windowOf p = none → idOf p ≠ aliasId →
    v.here.cache.cbuf = [] → o = .relaxed ∨ o = .acq ∨ v.drained →
    v.gAtomic v.core v.ctx p n v.cid (amoBytesNew op (v.g c) (v.g a)) = (u, .ok old) →
    let w := if o = .acq ∨ o = .ar then u.acquire u.core sc else u
    exec i s = .next (w.result a (match op with
      | .minn | .maxn | .fadd => zext (leNat old) (8 * n)
      | _ => sext (leNat old) (8 * n)))) ∧
  ∀ (i : Instr) (s : State) (op : AmoOp) (n : Nat) (o : Order) (sc : Scope) (a b c : GReg) (imm : BitVec 17) (h : Home) (l : SliceLine),
    amoParts i = some (op, n, o, sc, a, b, c, imm) → s.me.eret = 0 → s.me.inLine = true →
    let p := eaOf (s.g b) (imm.signExtend 64)
    let old := l.data.readN (offOf p % 256) n
    s.checkGlobal s.core s.cid p n = none → s.windowOf p = none → idOf p ≠ aliasId → s.here.vec.queue = [] → s.drained →
    s.cleanCache → (∀ m ∈ s.here.cache.lines, m.addr ≠ p.toNat / 32) → s.atHome p h l →
    ∃ t, exec i s = .next t ∧ s.stored t p ((amoBytesNew op (s.g c) (s.g a) old).getD old)
      ∧ ∀ r, t.g r = if r = a ∧ a ≠ 0 then (match op with
          | .minn | .maxn | .fadd => zext (leNat old) (8 * n)
          | _ => sext (leNat old) (8 * n)) else s.g r

/-- An access of the mesh alias, with nothing to release, waits at the loop-back port (R230); the port's answer reads and
writes the target's local memory, here TCM without stored errors, as the target's own access would, and the instruction
completes; or the port refuses with the target's own check and the alias address, OBJECT where the target is a hole (R392). An access of the counter window (R320) is
ALIGN unless it has 8 bytes, and an atomic but AMOADD is OBJECT; a store retires, and adds Sat(v, 0, 65,535) to the counter of
the window's CID's node as the window accepts it; AMOADD adds in the same way and returns the old counter; a load returns the
counter and the node's state. Of another CID's node a store is ignored and a load returns 0. -/
def Obligations.AliasAndCounterWindow : Prop :=
  (∀ (i : Instr) (m : GAcc) (s : State), accOf i = some m →
     let p := eaOf (s.g m.b) m.imm
     let v := s.obbUse s.core (idOf p)
     s.checkGlobal s.core s.cid p m.n = none → v.behindVector p.toNat m.n = false → v.drained →
     (v.windowOf p = none → idOf p = aliasId → exec i s = .next ((v.hold i 0).push (.loopbackAccess v.core v.ctx)))
       ∧ ∀ cid, v.windowOf p = some cid →
           (m.n ≠ 8 → exec i s = .next (v.raise { code := 0x06, addr := p }))
             ∧ (m.n = 8 → ∀ zero, m.kind = .load zero →
                 exec i s = .next ((v.hold i 0).push (.counterWindowLoad v.core v.ctx cid (offOf p / 8) m.a)))
             ∧ (m.n = 8 → m.kind = .store → exec i s = .next (v.retire.push (.counterWindowStore cid (offOf p / 8) (v.g m.a))))
             ∧ (m.n = 8 → ∀ op, m.kind = .amo op → exec i s = .next (
                 if op = .add then (v.hold i 0).push (.counterWindowAmoadd v.core v.ctx cid (offOf p / 8) m.a (v.g m.c))
                 else v.raise { code := 0x09, addr := p }))) ∧
  (∀ (i : Instr) (m : GAcc) (s : State) (c k : Nat), accOf i = some m → (s.ctxAt c k).wait = some i → (s.ctxAt c k).eret ≠ 1 →
     let y := s.ctxAt c k
     let p := eaOf (y.reg m.b) m.imm
     let t := offOf p / 2 ^ 20
     let la := offOf p % 2 ^ 20
     let old := (s.coreAt t).loc.tcm.readN la m.n
     (s.isHole t = false → la + m.n ≤ 0x30000 → la % m.n = 0 → (s.coreAt t).loc.ecc = {} → m.o = .relaxed →
         ∃ u, exec (.loopbackAccess c k) s = .next u ∧ (u.ctxAt c k).wait = none
           ∧ (∀ r, (u.ctxAt c k).reg r = if r = m.a ∧ r ≠ 0 then (match m.kind with
               | .load zero => extendLoad zero m.n old
               | .store => y.reg r
               | .amo op => amoImage op (8 * m.n) (leNat old)) else y.reg r)
           ∧ (y.inLine = true →
               (∀ j, j < m.n → u.localByte t (la + j) = match m.kind with
                   | .load _ => s.localByte t (la + j)
                   | .store => (y.reg m.a).extractLsb' (8 * j) 8
                   | .amo op => ((amoBytesNew op (y.reg m.c) (y.reg m.a) old).getD old).getD j 0)
                 ∧ ∀ x b, ¬(x = t ∧ la ≤ b ∧ b < la + m.n) → u.localByte x b = s.localByte x b))
       ∧ (∀ x, s.portFault t la m.n (match m.kind with | .load _ => false | _ => true) = some x →
         exec (.loopbackAccess c k) s =
           .next (((s.at_ c k).modMe (fun y => { y with wait := none })).raise { x with addr := p }))) ∧
  (∀ (s : State) (c k cid n : Nat) (rd : GReg) (v : Word),
     (s.ownNode cid n = true → exec (.counterWindowStore cid n v) s = .next (s.addCounter n (min 65535 v.toNat)))
       ∧ (s.ownNode cid n = false → exec (.counterWindowStore cid n v) s = .next s)
       ∧ (∀ inc, ((s.addCounter n inc).node n).counter = min 65535 ((s.node n).counter + inc))
       ∧ (∀ i m, (s.ctxAt c k).wait = some i → accOf i = some m → m.o = .relaxed → (s.ctxAt c k).eret ≠ 1 →
           (∃ t, exec (.counterWindowLoad c k cid n rd) s = .next t ∧ (t.ctxAt c k).wait = none
               ∧ (t.ctxAt c k).reg rd =
                 if s.ownNode cid n ∧ rd ≠ 0 then w64 ((s.node n).counter % 65536 + nodeStCode (s.node n).st * 65536) else 0)
             ∧ ∃ t, exec (.counterWindowAmoadd c k cid n rd v) s = .next t ∧ (t.ctxAt c k).wait = none
               ∧ (t.ctxAt c k).reg rd = (if s.ownNode cid n ∧ rd ≠ 0 then w64 (s.node n).counter else 0)
               ∧ (t.node n).counter =
                 if s.ownNode cid n then min 65535 ((s.node n).counter + min 65535 v.toNat) else (s.node n).counter))

/-- FENCE, FENCE.ACQ and FENCE.REL complete with nothing to release and no earlier read to perform (R144, R245); FENCE and
FENCE.REL wait while a release does, FENCE and FENCE.ACQ while a queued read is still to be performed; LBFENCE completes once nothing of the core's local memory is still to be performed under either name, and waits till then
(R145). PREF completes, without a wait or a fault, whatever its address (R146). A cache operation or pin whose address fails
its checks takes that fault (R146, R147). CWB, CINV and CWBINV of a line that passes complete, a dirty line of CWB and CWBINV
first written back to the home that takes it; CINV and CWBINV leave no such line in the cache (R146). PINL (R147) delivers what
the home answers, 1 for a line now pinned and 0 for one that is not; UNPINL removes the pin and retires. An acquire at OCT
scope or wider advances the core's EPOCH by one, and a wrap of its low byte empties the cache of lines that are not private
(R136, R235); at CORE scope it does nothing. -/
def Obligations.FencesAndCacheOperations : Prop :=
  (∀ (s : State) (sc : Scope),
     (s.drained → exec (.fence sc) s = .next (s.acquire s.core sc).retire
         ∧ exec (.fenceAcq sc) s = .next (s.acquire s.core sc).retire ∧ exec (.fenceRel sc) s = .next s.retire)
       ∧ (∀ u, s.release s.core s.ctx sc = (u, false) →
           (s.readsPending = false → exec (.fence sc) s = .next u) ∧ exec (.fenceRel sc) s = .next u)
       ∧ (s.readsPending = true → exec (.fence sc) s = .next s ∧ exec (.fenceAcq sc) s = .next s)
       ∧ exec .lbfence s = .next (if s.here.localPending then s else s.retire)) ∧
  (∀ (s : State) (lvl : PrefLevel) (b : GReg), s.me.eret ≠ 1 →
     ∃ t, exec (.pref lvl b) s = .next t ∧ t.me.q0 = s.me.q1 ∧ t.me.q1 = s.me.q2 ∧ ∀ r, t.g r = s.g r) ∧
  (∀ (s : State) (a b : GReg),
     let p := s.g b
     let u := s.obbUse s.core (idOf p)
     (∀ z, s.cacheCheck p = some z → exec (.cwb b) s = .next (u.raise z) ∧ exec (.cinv b) s = .next (u.raise z)
         ∧ exec (.cwbinv b) s = .next (u.raise z) ∧ exec (.pinl a b) s = .next (u.raise z) ∧ exec (.unpinl b) s = .next (u.raise z))
       ∧ (s.cacheCheck p = none →
         exec (.cinv b) s = .next (u.l1Drop u.core ((u.g b).toNat / 32)).retire
           ∧ ((∀ l ∈ u.here.cache.lines, l.addr = (u.g b).toNat / 32 → l.dirty = false) →
               exec (.cwb b) s = .next u.retire ∧ exec (.cwbinv b) s = .next (u.l1Drop u.core ((u.g b).toNat / 32)).retire)
           ∧ (∀ l w bs, u.here.cache.lines.find? (fun l => l.addr == (u.g b).toNat / 32) = some l →
               u.l1WriteBack u.core l = (w, .ok bs) →
               exec (.cwb b) s = .next w.retire ∧ exec (.cwbinv b) s = .next (w.l1Drop w.core ((u.g b).toNat / 32)).retire)
           ∧ (∀ w bs, idOf p ≠ aliasId → u.homePin (idOf p) (offOf p / 256 * 256) u.cid = (w, .ok bs) →
               exec (.pinl a b) s = .next (w.result a (w64 (leNat bs))))
           ∧ (idOf p = aliasId → exec (.pinl a b) s = .next (u.result a 0))
           ∧ exec (.unpinl b) s = .next (u.homeUnpin (idOf p) (offOf p / 256 * 256) u.cid).retire)
       ∧ ∀ c x, ∀ l ∈ ((s.l1Drop c x).coreAt c).cache.lines, l.addr ≠ x) ∧
  (∀ (s : State) (c : Nat),
     s.acquire c .lane = s ∧ s.acquire c .core = s
       ∧ ∀ sc, sc ≠ .lane → sc ≠ .core →
           ((s.acquire c sc).coreAt c).cache.epoch = (s.coreAt c).cache.epoch + 1
             ∧ (((s.coreAt c).cache.epoch + 1).toNat % 256 = 0 → ∀ l ∈ ((s.acquire c sc).coreAt c).cache.lines, l.priv = true))

/-! ### Wells (spec/06 R148 to R155) -/

/-- GIVE (R149): a position above 7 or the core's own, or a slot that is not plain, is ILLEGAL; a slot without an OWNED well is
DETACHED at its base; else it waits, and with both waits over it unmaps the well here and makes it INCOMING in the slot of the
receiver, and the well itself. WWAIT (R150) of an empty slot waits; of an INCOMING one it makes the well OWNED; of another
mapped one it only retires. The waits of GIVE, WWAIT and WUNMAP end as the instruction itself would have (R149, R150, R153). -/
def Obligations.GiveAndWellWaits : Prop :=
  (∀ (s : State) (slot t : BitVec 3) (b : GReg), s.me.eret ≠ 1 →
     let p := (s.g b).toNat
     let r := 8 * octOf s.core + p
     let e := s.here.bankmap slot.toNat
     let w := bankWell e
     (7 < p ∨ p = s.core % 8 ∨ bankMode e ≠ 0 → exec (.give slot b t) s = .next s.illegal)
       ∧ (p ≤ 7 → p ≠ s.core % 8 → bankMode e = 0 →
           (bankV e = false ∨ bankSt e ≠ 0 →
               exec (.give slot b t) s = .next (s.raise { code := 0x08, addr := w64 (slotBase slot.toNat) }))
             ∧ (bankV e = true → bankSt e = 0 → s.giveReady slot.toNat r t.toNat = false →
               exec (.give slot b t) s = .next (s.hold (.give slot b t) 0))
             ∧ (bankV e = true → bankSt e = 0 → s.giveReady slot.toNat r t.toNat = true →
               ∃ u, exec (.give slot b t) s = .next u ∧ u.here.bankmap slot.toNat = 0 ∧ (u.coreAt r).bankmap t.toNat = mkBank 2 0 w
                 ∧ (u.well s.core w).st = .incoming ∧ (u.well s.core w).tags = (s.well s.core w).tags
                 ∧ u.here.loc.armed.getLsbD slot.toNat = false ∧ (u.coreAt r).loc.armed.getLsbD t.toNat = false
                 ∧ ∀ q, u.g q = s.g q))
       ∧ (bankV e = false → exec (.wwait slot) s = .next (s.hold (.wwait slot) 0))
       ∧ (bankV e = true → bankSt e = 2 →
         ∃ u, exec (.wwait slot) s = .next u
           ∧ u.here.bankmap slot.toNat = mkBank 0 (bankMode e) w ∧ (u.well s.core w).st = .owned ∧ ∀ q, u.g q = s.g q)
       ∧ (bankV e = true → bankSt e ≠ 2 → exec (.wwait slot) s = .next s.retire)) ∧
  (∀ (s : State) (c k : Nat) (slot t : BitVec 3) (a b : GReg),
     ((s.ctxAt c k).wait = some (.give slot b t) →
         exec (.giveIndivisibleStep c k) s = exec (.give slot b t) (s.at_ c k))
       ∧ ((s.ctxAt c k).wait = some (.wwait slot) → exec (.wwaitComplete c k) s = exec (.wwait slot) (s.at_ c k))
       ∧ ((s.ctxAt c k).wait = some (.wunmap a slot) → (s.ctxAt c k).priv = true →
           exec (.wunmapComplete c k) s = exec (.wunmap a slot) (s.at_ c k)))

/-- WSTAT (R151) completes with the slot's status whatever it is. WMAP of code 0 maps the well, with its tags 0 and EXPECT
disarmed, and of another code only delivers the code (R152). WUNMAP waits for the slot's accesses, then unmaps the slot and
delivers the old entry (R153). EXPECT arms the tag with every tile unchecked; 0xFF is ILLEGAL; TAGRD delivers the tag of a tile;
both take DETACHED for a slot without a well that the core may touch (R154). -/
def Obligations.WellStatusAndMapping : Prop :=
  ∀ (s : State) (a b : GReg) (slot : BitVec 3), s.me.eret ≠ 1 →
    let v := s.g b
    let det : Cause := { code := 0x08, addr := w64 (slotBase slot.toNat) }
    (∃ t, exec (.wstat a slot) s = .next t ∧ s.gives t a (w64 ((s.here.bankmap slot.toNat).toNat % 65536
        + (sget 0 s.here.loc.expTag slot.toNat).toNat * 65536 + (s.here.loc.armed.getLsbD slot.toNat).toNat * 2 ^ 24)))
      ∧ (s.me.priv = true → s.wmapCode slot.toNat v = 0 →
          ∃ t, exec (.wmap a slot b) s = .next t
            ∧ (s.mapSlot s.core slot.toNat (bits v 4 0) (bits v 6 5) (v.getLsbD 7)).gives t a 0
            ∧ t.here.bankmap slot.toNat = mkBank (if v.getLsbD 7 then 1 else 0) (bits v 6 5) (bits v 4 0)
            ∧ (t.well s.core (bits v 4 0)).st = (if v.getLsbD 7 then .shared else .owned)
            ∧ (t.well s.core (bits v 4 0)).tags = [] ∧ t.here.loc.armed.getLsbD slot.toNat = false)
      ∧ (s.me.priv = true → s.wmapCode slot.toNat v ≠ 0 →
          ∃ t, exec (.wmap a slot b) s = .next t ∧ s.gives t a (w64 (s.wmapCode slot.toNat v)))
      ∧ (s.me.priv = true → s.here.slotBusy s.core slot.toNat = true → exec (.wunmap a slot) s = .next (s.hold (.wunmap a slot) 0))
      ∧ (s.me.priv = true → s.here.slotBusy s.core slot.toNat = false →
          ∃ t, exec (.wunmap a slot) s = .next t
            ∧ (s.unmapSlot s.core slot.toNat).gives t a (w64 (bits (s.here.bankmap slot.toNat) 15 0))
            ∧ (bankV (s.here.bankmap slot.toNat) = true → t.here.bankmap slot.toNat = 0)
            ∧ t.here.loc.armed.getLsbD slot.toNat = false)
      ∧ (bits v 7 0 = 0xFF → exec (.expect slot b) s = .next s.illegal)
      ∧ (bankOpen (s.here.bankmap slot.toNat) = false → exec (.tagrd a slot b) s = .next (s.raise det)
          ∧ (bits v 7 0 ≠ 0xFF → exec (.expect slot b) s = .next (s.raise det)))
      ∧ (bits v 7 0 ≠ 0xFF → bankOpen (s.here.bankmap slot.toNat) = true →
          ∃ t, exec (.expect slot b) s = .next t ∧ (∀ r, t.g r = s.g r) ∧ sget 0 t.here.loc.expTag slot.toNat = BitVec.ofNat 8 (bits v 7 0)
            ∧ t.here.loc.armed.getLsbD slot.toNat = true ∧ sget 0 t.here.loc.checked slot.toNat = 0)
      ∧ (bankOpen (s.here.bankmap slot.toNat) = true →
          ∃ t, exec (.tagrd a slot b) s = .next t
            ∧ s.gives t a ((sget 0 (s.well s.core (bankWell (s.here.bankmap slot.toNat))).tags (bits v 3 0)).setWidth 64))

/-! ### Barriers, token rings and witnesses (spec/06 R169 to R176; spec/12 R285, R287) -/

/-- BAR, BARA and BARW (R171, R172), here with nothing to release. An arrival sets F and sends its message, or sets X where F
is set, or waits where both are. BAR of a member then waits; BARA completes with the witness at once; BARW completes while F is
0, whether or not the core is a member (log 17), and waits while it is 1. A BAR that has arrived makes no arrival: it completes once F is 0, and waits till then (R172); only an
arrival of its own sets ARRIVED (log 40). An arrival by a core outside the unit takes NONMEMBER. -/
def Obligations.BarrierInstructions : Prop :=
  ∀ (s : State) (sc : Scope) (a : GReg) (u : BitVec 5), s.drained → s.here.toklost = false → s.me.eret ≠ 1 →
    let i := instOf sc s.core
    let m := s.membAt i u.toNat s.core
    (m.mb = true → s.me.arrived = false →
        (m.f = false →
            (∃ t, exec (.bar sc a u) s = .next t ∧ (t.membAt i u.toNat s.core).f = true ∧ t.me.wait = some (.bar sc a u)
                ∧ t.me.arrived = true ∧ t.agenda = s.agenda ++ [.arrivalMessage i u.toNat s.core] ∧ ∀ r, t.g r = s.g r))
          ∧ (m.f = true → m.x = false →
            ∃ t, exec (.bar sc a u) s = .next t ∧ (t.membAt i u.toNat s.core).f = true ∧ (t.membAt i u.toNat s.core).x = true
              ∧ t.me.wait = some (.bar sc a u) ∧ t.me.arrived = true ∧ t.agenda = s.agenda ∧ ∀ r, t.g r = s.g r)
          ∧ (m.f = true → m.x = true → exec (.bar sc a u) s = .next (s.hold (.bar sc a u) 0)))
      ∧ (s.me.arrived = true →
        (m.f = false → ∃ t, exec (.bar sc a u) s = .next t ∧ t.me.arrived = false
            ∧ ((s.acquire s.core sc).modMe (fun x => { x with arrived := false })).gives t a (s.witnessOf s.core i))
          ∧ (m.f = true → exec (.bar sc a u) s = .next (s.hold (.bar sc a u) 3)))
      ∧ (m.mb = true →
        (m.f = false →
            ∃ t, exec (.bara sc a u) s = .next t ∧ (t.membAt i u.toNat s.core).f = true ∧ t.me.wait = none
              ∧ (s.me.inLine = true → t.agenda = s.agenda ++ [.arrivalMessage i u.toNat s.core])
              ∧ ∀ r, t.g r = if r = a ∧ a ≠ 0 then s.witnessOf s.core i else s.g r)
          ∧ (m.f = true → m.x = false →
            ∃ t, exec (.bara sc a u) s = .next t ∧ (t.membAt i u.toNat s.core).x = true ∧ t.me.wait = none
              ∧ ∀ r, t.g r = if r = a ∧ a ≠ 0 then s.witnessOf s.core i else s.g r)
          ∧ (m.f = true → m.x = true → exec (.bara sc a u) s = .next (s.hold (.bara sc a u) 0)))
      ∧ (m.f = false → ∃ t, exec (.barw sc a u) s = .next t ∧ (s.acquire s.core sc).gives t a (s.witnessOf s.core i))
      ∧ (m.f = true → exec (.barw sc a u) s = .next (s.hold (.barw sc a u) 3))
      ∧ (m.mb = false → s.me.arrived = false → exec (.bar sc a u) s = .next (s.raise { code := 0x0F }))
      ∧ (m.mb = false → exec (.bara sc a u) s = .next (s.raise { code := 0x0F }))

/-- An arrival message (R285) adds 1 to CNT and acknowledges the member; a unit whose CNT reaches the size of its mask, and on
which no hold stands, is then due, and its release is an event. A release (R171, R285) of a unit that is due passes the flags
of every member on: MISSED gathers, F takes X, the phase flips, ACKED clears; CNT is 0, and every context that waits on the
unit is served; a unit that is not due releases nothing. A wait on a barrier past its timeout takes BARRIER with the number of
members whose F is 0 and the lowest of them (R172). -/
def Obligations.BarrierEvents : Prop :=
  (∀ (s : State) (i : Inst) (u m : Nat),
     ∃ t, exec (.arrivalMessage i u m) s = .next t
       ∧ ((t.inst i).unit u).cnt = ((s.inst i).unit u).cnt + 1 ∧ (((t.inst i).unit u).memb m).acked = true
       ∧ (((s.inst i).unit u).mask ≠ [] → ((s.inst i).unit u).held = false →
           ((s.inst i).unit u).mask.length ≤ ((s.inst i).unit u).cnt + 1 →
           ∃ e, t.agenda = s.agenda ++ [e] ∧ if u = 31 then e = .xbarRelease i ∨ e = .xendRelease i else e = .barrierRelease i u)
       ∧ (((s.inst i).unit u).cnt + 1 < ((s.inst i).unit u).mask.length → t.agenda = s.agenda)) ∧
  (∀ (s : State) (i : Inst) (u : Nat),
     let ms := ((s.inst i).unit u).members
     (((s.inst i).unit u).due = false → exec (.barrierRelease i u) s = .next s)
       ∧ (((s.inst i).unit u).due = true → exec (.barrierRelease i u) s =
           .next (each (ctxsOf ms) (s.releaseFlags i u) (fun s e => s.barrierWake e.1 e.2 i u)))
       ∧ (((s.releaseFlags i u).inst i).unit u).cnt = 0
       ∧ ∀ c, ms.count c = 1 →
           let m := s.membAt i u c
           let n := (s.releaseFlags i u).membAt i u c
           n.f = m.x ∧ n.x = false ∧ n.phase = !m.phase ∧ n.acked = false ∧ n.missed = (m.missed || (m.mb && !m.f))) ∧
  (∀ (s : State) (c k : Nat) (j : Instr) (sc : Scope) (v : Nat), (s.ctxAt c k).wait = some j → barrierOf j = some (sc, v) →
     let d := (s.inst (instOf sc c)).unit v
     let missing := d.members.filter (fun m => !(d.memb m).f)
     exec (.barrierTimeout c k) s = .next ((s.at_ c k).raise { code := 0x0E, detail := missing.length % 65536 + missing.headD 0 * 65536 }))

/-- TOKW, TOKP, WIT and WIT.TOK (R174, R175) of a member: with the token under LEGIT, or a hold, TOKW begins a hold and delivers
the ring's witness, else it waits; TOKP, here with nothing to release, ends the hold; WIT and WIT.TOK deliver the witness now. A
core that is no member takes NONMEMBER. The wait of TOKW ends as the instruction itself would have. While TOKLOST is set, the
next instruction of major 0x25 that delivers a witness delivers TOKEN_LOST in its place and clears the flag (R170),
BARW of a core that is no member among them (log 17). -/
def Obligations.TokensAndWitnesses : Prop :=
  (∀ (s : State) (sc : Scope) (a : GReg) (k : BitVec 5) (j : BitVec 4), s.me.eret ≠ 1 →
     let r := ringOf sc s.core k.toNat
     let q := ringOf sc s.core j.toNat
     (s.here.toklost = false →
         ((s.ring r).mb.contains s.core = true → (s.ring r).grants s.core = true →
             ∃ t, exec (.tokw sc a k) s = .next t ∧ (sfind (t.ring r).held s.core).isSome = true
               ∧ ∀ x, t.g x = if x = a ∧ a ≠ 0 then s.ringWitness s.core r else s.g x)
           ∧ ((s.ring r).mb.contains s.core = true → s.drained →
             ∃ t, exec (.tokp sc a k) s = .next t ∧ (t.ring r).held = sdel (s.ring r).held s.core
               ∧ (s.modRing r (fun x => { x with held := sdel x.held s.core })).gives t a (s.ringWitness s.core r))
           ∧ (∃ t, exec (.wit sc a) s = .next t ∧ s.gives t a (s.witnessOf s.core (instOf sc s.core)))
           ∧ ((s.ring q).mb.contains s.core = true → ∃ t, exec (.witTok sc a j) s = .next t ∧ s.gives t a (s.ringWitness s.core q)))
       ∧ ((s.ring r).mb.contains s.core = true → (s.ring r).grants s.core = false →
         exec (.tokw sc a k) s = .next (s.hold (.tokw sc a k) 0))
       ∧ ((s.ring r).mb.contains s.core = false →
         exec (.tokw sc a k) s = .next (s.raise { code := 0x0F }) ∧ exec (.tokp sc a k) s = .next (s.raise { code := 0x0F }))
       ∧ ((s.ring q).mb.contains s.core = false → exec (.witTok sc a j) s = .next (s.raise { code := 0x0F }))
       ∧ (∀ c x, (s.ctxAt c x).wait = some (.tokw sc a k) → exec (.tokwGrant c x) s = exec (.tokw sc a k) (s.at_ c x))) ∧
  (∀ (s : State) (sc : Scope) (a : GReg) (k : BitVec 5) (j : BitVec 4), s.here.toklost = true → s.me.eret ≠ 1 →
     let lost (i : Instr) : Prop := ∃ t, exec i s = .next t ∧ t.here.toklost = false
       ∧ ∀ x, t.g x = if x = a ∧ a ≠ 0 then BitVec.allOnes 64 else s.g x
     lost (.wit sc a)
       ∧ ((s.ring (ringOf sc s.core j.toNat)).mb.contains s.core = true → lost (.witTok sc a j))
       ∧ ((s.ring (ringOf sc s.core k.toNat)).mb.contains s.core = true →
           (s.drained → lost (.tokp sc a k)) ∧ ((s.ring (ringOf sc s.core k.toNat)).grants s.core = true → lost (.tokw sc a k)))
       ∧ ((s.membAt (instOf sc s.core) k.toNat s.core).f = false →
           lost (.barw sc a k) ∧ (s.me.arrived = true → lost (.bar sc a k))
             ∧ ((s.membAt (instOf sc s.core) k.toNat s.core).mb = true → s.drained → lost (.bara sc a k))))

/-- DSTAT (R175, R293) delivers a word of the status block, and a selector the block does not define is illegal. Word 0 holds
LOSTSTEP, CLEANRUN, CLEAN, LEGIT and GEN of the instance, words 4 and 5 the root, the parent and the distance of the core's node
in each tree, word 6 the adjustments of its clock node, word 7 the core's phase, X, F and MB bits at the units its scope has,
and word 8 its MISSED bits and, below POD scope, its bits at the exchange barrier; every other bit of them is 0. BIL and BIL.TOK
(R176) are transfers, taken unless the LEGIT and GEN of the instance, or of a ring of which the core is a member, are those of
the witness and no other bit of it speaks against it; BIL.TOK takes NONMEMBER in another core. In a delay slot of an ERET a BIL
is illegal (R114). -/
def Obligations.StatusAndBranchOnWitness : Prop :=
  ∀ (s : State) (sc : Scope) (a : GReg) (sel : BitVec 5) (n : Nullify) (k : BitVec 4) (disp : BitVec 19),
    let d := s.inst (instOf sc s.core)
    let r := s.ring (ringOf sc s.core k.toNat)
    let good (legit : Bool) (gen : BitVec 16) : Prop :=
      legit = true ∧ (s.g a).setWidth 16 = gen ∧ (s.g a).getLsbD 16 = true ∧ bits (s.g a) 31 17 = 0
    (∀ v, s.dstat sc s.core sel.toNat = some v → s.me.eret ≠ 1 → ∃ t, exec (.dstat sc a sel) s = .next t ∧ s.gives t a v)
      ∧ (9 ≤ sel.toNat → exec (.dstat sc a sel) s = .next s.illegal)
      ∧ (sel.toNat < 9 → (s.dstat sc s.core sel.toNat).isSome = true)
      ∧ (s.me.eret ≠ 1 → unitsOf sc ≤ 16 →
          let reads (n : BitVec 5) (P : Word → Prop) : Prop := ∃ t v, exec (.dstat sc a n) s = .next t ∧ s.gives t a v ∧ P v
          let bit (u : Nat) (f : Memb → Bool) : Bool := decide (u < unitsOf sc) && f ((d.unit u).memb s.core)
          let x := (d.unit 31).memb s.core
          let i := instOf sc s.core
          let node := s.nodeIn sc s.core
          let clock := if sc = .oct then s.inst (instOf .die s.core) else d
          let clockNode := if sc = .oct then routerOf s.core else node
          reads 0 (fun v => bits v 63 32 = d.lost.toNat ∧ bits v 31 28 = d.clean % 16 ∧ bits v 27 27 = 0
              ∧ bits v 26 24 = d.layers.toNat ∧ bits v 23 17 = 0 ∧ bits v 16 16 = d.cLegit.toNat ∧ bits v 15 0 = d.cGen.toNat)
            ∧ (∀ t, t < 2 → reads (BitVec.ofNat 5 (4 + t)) (fun v => bits v 63 48 = 0 ∧ bits v 47 32 = s.rootOf i t % 65536
              ∧ bits v 31 16 = s.parOf i t node % 65536 ∧ bits v 15 4 = 0 ∧ bits v 3 0 = s.distOf i t node % 16))
            ∧ reads 6 (fun v => bits v 63 32 = (sget 0 clock.maxadj clockNode).toNat ∧ bits v 31 0 = (sget 0 clock.adj clockNode).toNat)
            ∧ reads 7 (fun v => ∀ u, u < 16 → v.getLsbD (48 + u) = bit u (·.phase) ∧ v.getLsbD (32 + u) = bit u (·.x)
              ∧ v.getLsbD (16 + u) = bit u (·.f) ∧ v.getLsbD u = bit u (·.mb))
            ∧ reads 8 (fun v => bits v 63 20 = 0 ∧ (∀ u, u < 16 → v.getLsbD u = bit u (·.missed))
              ∧ if sc = .pod then bits v 19 16 = 0
                else v.getLsbD 19 = x.phase ∧ v.getLsbD 18 = x.f ∧ v.getLsbD 17 = x.mb ∧ v.getLsbD 16 = x.missed))
      ∧ (s.me.eret = 0 →
          (good d.cLegit d.cGen → exec (.bil n sc none a disp) s = .next (s.transfer false (s.lineTarget disp) n))
            ∧ (¬good d.cLegit d.cGen → exec (.bil n sc none a disp) s = .next (s.transfer true (s.lineTarget disp) n))
            ∧ (r.mb.contains s.core = true →
                (good r.cLegit r.cGen → exec (.bil n sc (some k) a disp) s = .next (s.transfer false (s.lineTarget disp) n))
                  ∧ (¬good r.cLegit r.cGen → exec (.bil n sc (some k) a disp) s = .next (s.transfer true (s.lineTarget disp) n))))
      ∧ (r.mb.contains s.core = false → exec (.bil n sc (some k) a disp) s = .next (s.raise { code := 0x0F }))
      ∧ (s.me.eret ≠ 0 → exec (.bil n sc none a disp) s = .next s.illegal
          ∧ (r.mb.contains s.core = true → exec (.bil n sc (some k) a disp) s = .next s.illegal))

/-! ### Exchange phases (spec/06 R157 to R163; spec/11 R262 to R269) -/

/-- XBAR and XEND (R158, R162). XBAR with a phase open is illegal, and so is XEND with none open or with one of another scope;
of a core that is no member of the exchange barrier either takes NONMEMBER. Else, here with nothing to release, it arrives at
the barrier and waits: XBAR with FORCED set, but not while the die's routes are recomputed (R263); XEND once the core's
transfers have finished, and it waits till then. Released, they complete with an acquire and the witness; an XEND whose phase
recorded a failure takes SCHEDULE after it has retired, with the first failed transfer's offset and source address (R160). -/
def Obligations.PhaseInstructions : Prop :=
  (∀ (s : State) (sc : Scope) (a : GReg), s.me.arrived = false →
     let i := instOf sc s.core
     let m := s.membAt i 31 s.core
     let arrives (j : Instr) (t : State) : Prop := exec j s = .next t ∧ t.me.wait = some j ∧ t.me.arrived = true
       ∧ (t.membAt i 31 s.core).f = true ∧ (m.f = false → t.agenda = s.agenda ++ [.arrivalMessage i 31 s.core])
       ∧ (m.f = true → (t.membAt i 31 s.core).x = true ∧ t.agenda = s.agenda) ∧ ∀ r, t.g r = s.g r
     (s.here.xopen = true → exec (.xbar sc a) s = .next s.illegal)
       ∧ (s.here.xopen = false → exec (.xend sc a) s = .next s.illegal)
       ∧ (s.here.xscope ≠ sc → exec (.xend sc a) s = .next s.illegal)
       ∧ (s.here.xopen = false → m.mb = false → exec (.xbar sc a) s = .next (s.raise { code := 0x0F }))
       ∧ (s.here.xopen = true → s.here.xscope = sc → m.mb = false → exec (.xend sc a) s = .next (s.raise { code := 0x0F }))
       ∧ (s.here.xopen = false → m.mb = true → (s.die (dieOf s.core)).xhold = true → exec (.xbar sc a) s = .next s)
       ∧ (s.here.xopen = true → s.here.xscope = sc → m.mb = true → s.here.phaseIdle s.core = false → exec (.xend sc a) s = .next s)
       ∧ (s.drained → m.mb = true → m.f = false ∨ m.x = false →
           (s.here.xopen = false → (s.die (dieOf s.core)).xhold = false → ∃ t, arrives (.xbar sc a) t ∧ t.here.fduty.forced = true)
             ∧ (s.here.xopen = true → s.here.xscope = sc → s.here.phaseIdle s.core = true → ∃ t, arrives (.xend sc a) t))) ∧
  (∀ (s : State) (sc : Scope) (a : GReg), s.me.arrived = true → (s.membAt (instOf sc s.core) 31 s.core).f = false →
     s.me.eret ≠ 1 →
     let u := (s.acquire s.core sc).modMe (fun x => { x with arrived := false })
     let f := s.here.xch.xfail
     (∃ t, exec (.xbar sc a) s = .next t ∧ t.me.arrived = false ∧ u.gives t a (s.witnessOf s.core (instOf sc s.core)))
       ∧ ∃ t, t.me.arrived = false ∧ u.gives t a (s.witnessOf s.core (instOf sc s.core))
         ∧ (bits f 23 16 = 0 → exec (.xend sc a) s = .next t)
         ∧ (bits f 23 16 ≠ 0 → exec (.xend sc a) s =
             .next (t.raiseAfter { code := 0x0C, detail := bits f 45 32 * 65536, addr := w64 s.here.xch.firstSrc }))) ∧
  (∀ (s : State) (sc : Scope) (a : GReg), s.me.arrived = true → (s.membAt (instOf sc s.core) 31 s.core).f = true →
     exec (.xbar sc a) s = .next (s.hold (.xbar sc a) 3) ∧ exec (.xend sc a) s = .next (s.hold (.xend sc a) 3))

/-- XBAR_RELEASE (R158), of a unit that is due and whose members are all FORCED at divider 1, opens the phase in every member:
TASKSTEP, OPEN, XFAIL cleared; a context that waits for this release in XBAR completes. While a member is not ready it forces
them all, and releases nothing. XEND_RELEASE (R162), of a unit that is due and no earlier than two rounds after the XBAR's,
closes it in every member: OPEN is 0, TAG advances, TASKSTEP is the release step, and each pair that can be swapped exchanges
its wells, their tags 0xFF where the root's LEGIT or GEN says that the phase is not to be trusted. A unit that is not due
releases nothing. -/
def Obligations.PhaseReleases : Prop :=
  ∀ (s : State) (i : Inst),
    let d := s.inst i
    let ms := s.xmembers i
    ((d.unit 31).due = false → exec (.xbarRelease i) s = .next s ∧ exec (.xendRelease i) s = .next s)
      ∧ ((d.unit 31).due = true → s.now < d.xAt + 2 * s.roundLen i.scope → exec (.xendRelease i) s = .next s)
      ∧ ((d.unit 31).due = true → ms.all (fun c => (s.coreAt c).fduty.ready) = false →
          exec (.xbarRelease i) s = .next (each ms s (fun s c => s.force c)))
      ∧ ((d.unit 31).due = true → ms.all (fun c => (s.coreAt c).fduty.ready) = true →
          ∃ t, exec (.xbarRelease i) s = .next t
            ∧ ∀ c ∈ ms, (t.coreAt c).xopen = true ∧ (t.coreAt c).xch.xfail = 0 ∧ (t.coreAt c).taskstep = s.stepOf c
              ∧ ∀ k sc a, k < 11 → (s.ctxAt c k).wait = some (.xbar sc a) → instOf sc c = i → (s.ctxAt c k).aux = 1 →
                  (t.ctxAt c k).wait = none ∧ (t.ctxAt c k).arrived = false)
      ∧ ((d.unit 31).due = true → d.xAt + 2 * s.roundLen i.scope ≤ s.now →
          ∃ t, exec (.xendRelease i) s = .next t
            ∧ ∀ c, ms.count c = 1 → (t.coreAt c).xopen = false ∧ (t.coreAt c).taskstep = s.stepOf c
              ∧ bits (t.coreAt c).xch.xtag 7 0 = (bits (s.coreAt c).xch.xtag 7 0 + 1) % 255
              ∧ ∀ j < 4,
                let f := bankWell ((s.coreAt c).bankmap (2 * j))
                let b := bankWell ((s.coreAt c).bankmap (2 * j + 1))
                ((s.coreAt c).swappable j = false → (t.coreAt c).bankmap (2 * j) = (s.coreAt c).bankmap (2 * j)
                    ∧ (t.coreAt c).bankmap (2 * j + 1) = (s.coreAt c).bankmap (2 * j + 1))
                  ∧ ((s.coreAt c).swappable j = true → (t.coreAt c).bankmap (2 * j) = mkBank 0 1 b
                    ∧ (t.coreAt c).bankmap (2 * j + 1) = mkBank 0 2 f
                    ∧ (d.xLegit = false ∨ d.legit = false ∨ d.gen ≠ d.xGen →
                        ∀ k < 16, sget 0 (t.well c f).tags k = 0xFF ∧ sget 0 (t.well c b).tags k = 0xFF)))

/-- XSEND, XSENDR and XRECV (R159, R161) that pass their checks, made in the order of R159's table, hold their context with the
transfer, contribution or window they began; the first check that fails is the fault they take. A beat of a send leaves in
each step from its label on, with the source bytes as they stand (R159, R262); an XSENDR reads its source likewise. Beats of two
payloads that share a channel in one label are both lost (R266). A beat alone in its label lands in the back well of its pair
where the window open at the label is for its sender, the fourth with the tile's tag; where none is, both cores record it
(R160, R267). XRECV completes after the fourth label of its window, with a failure when nothing came; XSEND with its fourth
beat. A reducing send occupies its ports for its window; one that shares a port with another, or with a beat of the same steps,
is spoilt with it (R266, R268). A combination is made at the end of its window: the result and the root's tag in the back well
of every member whose pair can be swapped, COLLIDE recorded by all where it was spoilt (R161, R268). That a beat carries the
bytes read past an uncorrectable word, and that a window is judged as XRECV retires after its fourth label, is log 44; the order
of the combination, with the root member's operator, type and tag, is log 18. -/
def Obligations.ExchangeTransfers : Prop :=
  (∀ (s : State) (n : BitVec 14) (b c : GReg) (op : RedOp) (ty : RedType),
     let d := s.g c
     let begun (i : Instr) (t : State) : Prop := exec i s = .next t ∧ t.me.wait = some i ∧ (∀ r, t.g r = s.g r)
       ∧ ∀ x la, t.localByte x la = s.localByte x la
     (s.sendCheck n.toNat (some (s.g b)) d = none → ∃ t, begun (.xsend n b c) t
         ∧ t.here.xch.sends = s.here.xch.sends ++
           [{ ctx := s.ctx, n := n.toNat, dst := (s.g b).toNat, src := bits d 19 0, off := bits d 35 20, pair := bits d 37 36 }])
       ∧ (s.sendCheck n.toNat none d = none → ∃ t, begun (.xsendr op ty n c) t
         ∧ t.here.xch.contrib = s.here.xch.contrib ++
           [{ ctx := s.ctx, n := n.toNat, op := op, ty := ty, src := bits d 19 0, pair := bits d 37 36, off := bits d 35 20 }])
       ∧ (s.here.xopen = true → (s.xmembers (s.phaseOf s.core)).contains (s.g b).toNat = true →
           (s.stepOf s.core).toNat ≤ s.here.label n.toNat → ∃ t, begun (.xrecv n b) t
         ∧ t.here.xch.wins = s.here.xch.wins ++ [{ ctx := s.ctx, n := n.toNat, src := (s.g b).toNat }])
       ∧ (∀ z, s.sendCheck n.toNat (some (s.g b)) d = some z → exec (.xsend n b c) s = .next (s.raise z))
       ∧ (∀ z, s.sendCheck n.toNat none d = some z → exec (.xsendr op ty n c) s = .next (s.raise z))
       ∧ (s.here.xopen = false → s.sendCheck n.toNat (some (s.g b)) d = some s.me.illegal ∧ s.sendCheck n.toNat none d = some s.me.illegal
           ∧ exec (.xrecv n b) s = .next s.illegal)
       ∧ (s.here.xopen = true → (s.xmembers (s.phaseOf s.core)).contains (s.g b).toNat = false →
           exec (.xrecv n b) s = .next (s.raise { code := 0x0C }))
       ∧ (s.here.xopen = true → (s.xmembers (s.phaseOf s.core)).contains (s.g b).toNat = true →
           s.here.label n.toNat < (s.stepOf s.core).toNat → exec (.xrecv n b) s = .next (s.raise { code := 0x0D }))) ∧
  (∀ (s : State) (c k : Nat),
     (∀ e, (s.coreAt c).xch.sends.find? (fun (e : Xfer) => e.of k) = some e → e.beat < 4 →
         (s.coreAt c).label e.n + e.beat ≤ (s.stepOf c).toNat →
         ∃ t b, exec (.xsendBeats c k) s = .next t ∧ t.beats = s.beats ++ [b] ∧ b.k = e.beat ∧ b.dst = e.dst ∧ b.sender = c
           ∧ b.label = (s.coreAt c).label e.n + e.beat ∧ b.off = e.off ∧ b.pair = e.pair
           ∧ b.data = (s.localRead c (e.src + 64 * e.beat) 64).2.1)
       ∧ (∀ e, (s.coreAt c).xch.sends.find? (fun (e : Xfer) => e.of k) = none →
         (s.coreAt c).xch.contrib.find? (fun (e : Contrib) => e.ctx == k && decide (e.data.length < 256)) = some e →
         (s.coreAt c).label e.n + e.data.length / 64 ≤ (s.stepOf c).toNat →
         let u := if e.data = [] then s.occupyPorts c e else s
         ∃ t, exec (.xsendBeats c k) s = .next t ∧ t.beats = s.beats ∧ t.occ = u.occ
           ∧ (t.coreAt c).xch.contrib = (s.coreAt c).xch.contrib.map (fun f =>
               if f = e then { e with data := e.data ++ (s.localRead c (e.src + e.data.length) 64).2.1 } else f))
       ∧ (∀ e : Contrib, s.occ.any (fun o => o.of (s.phaseOf c) e.n) = false →
           let lo := (s.coreAt c).label e.n
           let o : Occ := { inst := s.phaseOf c, n := e.n, first := lo, last := lo + combineSpan (s.phaseOf c).scope }
           (s.occupyPorts c e).occ = s.occ.map (fun q => if s.occShare o q = true then { q with bad := true } else q)
             ++ [{ o with bad := s.past.any (fun b => s.occMeets b o) || s.occ.any (s.occShare o) }])
       ∧ (∀ b, s.beats = [b] → s.past = [] → b.k ≠ 3 →
           let u : State := { s with beats := [], past := [{ b with data := [] }] }
           (s.occ.any (s.occMeets b) = false → exec .exchangePayloadLanding s = .next (u.landBeat b))
             ∧ (s.occ.any (s.occMeets b) = true → exec .exchangePayloadLanding s =
                 .next (({ u with occ := s.occ.map (fun o => if s.occMeets b o = true then { o with bad := true } else o) } :
                   State).beatLost b 0)))
       ∧ (∀ b d, s.beats = [b, d] → s.past = [] → b.k ≠ 3 → d.k ≠ 3 → s.occ = [] →
           s.collide b d = true → exec .exchangePayloadLanding s = .next ((({ s with beats := [], past := [{ b with data := [] },
             { d with data := [] }] } : State).beatLost b 0).beatLost d 0))
       ∧ (∀ b n g h, s.beats = [b] → b.k = 3 →
           (s.ctxAt b.sender b.ctx).wait = some (.xsend n g h) →
           ∃ t, exec .exchangePayloadLanding s = .next t ∧ (t.ctxAt b.sender b.ctx).wait = none)
       ∧ (∀ b w, (s.coreAt b.dst).openWindow b.label = some w → w.src = b.sender → (s.coreAt b.dst).swappable b.pair = true →
           let u := (s.modCore b.dst (fun x => { x with xch := { x.xch with
             wins := x.xch.wins.map (fun v => if v = w then { v with got := v.got + 1 } else v) } })).backWrite b.dst b.pair
               (b.off + 64 * b.k) b.data
           (b.k ≠ 3 → s.landBeat b = u) ∧ (b.k = 3 → s.spoilt b = false → s.landBeat b = u.backTag b.dst b.pair (b.off / 4096) b.tag))
       ∧ (∀ b, (∀ w, (s.coreAt b.dst).openWindow b.label = some w → w.src ≠ b.sender) → s.spoilt b = false →
           (s.coreAt b.sender).xch.sends.any (fun (e : Xfer) => b.isOf e && e.unmatched) = false →
           ((s.landBeat b).coreAt b.sender).xch.xfail.getLsbD 1 = true ∧ ((s.landBeat b).coreAt b.dst).xch.xfail.getLsbD 1 = true)
       ∧ (∀ n b, (s.ctxAt c k).wait = some (.xrecv n b) → (s.coreAt c).label n.toNat + 4 ≤ (s.stepOf c).toNat →
           ∃ t, exec (.xrecvWindow c k) s = .next t ∧ (t.ctxAt c k).wait = none
             ∧ ((∀ w ∈ (s.coreAt c).xch.wins, w.got = 0) → (t.coreAt c).xch.xfail.getLsbD 2 = true))) ∧
  (∀ (s : State) (i : Inst) (e : Contrib),
     let ms := s.xmembers i
     s.cores.findSome? (fun (c, x) => x.xch.contrib.find? (fun e =>
       s.phaseOf c == i && decide (x.label e.n + combineSpan i.scope ≤ (s.stepOf c).toNat))) = some e →
     let bad := s.occ.any (fun o => o.of i e.n && o.bad)
     let root := s.rootMember i ms
     let lead := (s.contribOf e.n root).getD e
     let sum := s.combine i 0 lead.op lead.ty ms (fun c => (s.contribOf e.n c).map (·.data)) 3 (s.rootOf i 0)
     ∃ t, exec (.xsendrCombine i) s = .next t
       ∧ (∀ c ∈ ms, bad = true → (t.coreAt c).xch.xfail.getLsbD 0 = true)
       ∧ (∀ c ∈ ms, bad = false → s.contribOf e.n c = none → (t.coreAt c).xch.xfail.getLsbD 3 = true)
       ∧ ∀ c, bad = false → ms.count c = 1 → (∀ d ∈ ms, octOf d = octOf c → d = c) →
           let d := (s.contribOf e.n c).getD lead
           (s.coreAt c).swappable d.pair = true →
           ∀ w, t.well c w = ((s.backWrite c d.pair d.off (sum.getD [])).backTag c d.pair (d.off / 4096)
             (BitVec.ofNat 8 (bits (s.coreAt root).xch.xtag 7 0))).well c w)

/-! ### Messages (spec/06 R164 to R168) -/

/-- QSEND (R167): the source is checked as an LDL is, and a word of it that cannot be corrected is POISONED. With nothing to
release it offers the bytes: 0 once the message is written, 2 for a core outside the scope or without a ring, 1 where QBOUND
is 0; refused, it waits with the bytes read, and offers them again until QBOUND has passed, when it delivers 1. QPOLL (R168)
delivers the number of waiting records. A message that reaches a ring with room (R165, R166) is counted as a record, and TAIL
moves by its length rounded up to 8, round the end of the data area; one that does not fit, and one to a core without a ring,
changes nothing. QRECV (R168) without a record waits, and with one takes it: the copy is checked as a store, HEAD moves on, and
the record is delivered; its wait ends as the instruction itself would have. -/
def Obligations.Messages : Prop :=
  (∀ (s : State) (sc : Scope) (len1 : BitVec 5) (a b c : GReg), s.me.eret ≠ 1 →
     let n := 8 * (len1.toNat + 1)
     let la := (s.g c).toNat
     let r := s.localRead s.core la n
     let o := (r.1.markTiles s.core la n).sendOnce sc (s.g b) r.2.1
     let i := Instr.qsend sc len1 a b c
     (∀ z, s.checkLocal s.core la n 8 false = some z → exec i s = .next (s.raise z))
       ∧ (s.checkLocal s.core la n 8 false = none → s.drained → r.2.2 ≠ none →
           exec i s = .next (r.1.raise { code := 0x0B, addr := s.g c }))
       ∧ (s.checkLocal s.core la n 8 false = none → s.drained → r.2.2 = none →
           (∀ v, o.2 = some v → ∃ t, exec i s = .next t ∧ o.1.gives t a (w64 v))
             ∧ (o.2 = none → 0 < s.here.loc.qbound.toNat →
                 exec i s = .next ((o.1.hold i (s.stepOf s.core)).modMe (fun x => { x with payload := r.2.1 })))
             ∧ (o.2 = none → s.here.loc.qbound.toNat = 0 → ∃ t, exec i s = .next t ∧ o.1.gives t a 1))
       ∧ ∃ t, exec (.qpoll a) s = .next t ∧ s.gives t a (w64 s.here.loc.recs)) ∧
  (∀ (s : State) (sc : Scope) (b : Word) (bs : List Byte),
     (s.destOf sc b = none → s.sendOnce sc b bs = (s, some 2))
       ∧ (∀ c, s.destOf sc b = some (some c) →
           let o := s.offer c false sc (w64 (s.modno * 30720 + s.core)) bs
           (o.2 = .written → s.sendOnce sc b bs = (o.1, some 0)) ∧ (o.2 = .refused → s.sendOnce sc b bs = (o.1, none))
             ∧ (o.2 = .noRing → s.sendOnce sc b bs = (o.1, some 2)))
       ∧ (b.toNat < 30720 → s.destOf .pkg b = some (some b.toNat)) ∧ (30720 ≤ b.toNat → s.destOf .pkg b = none ∧ s.destOf .die b = none)
       ∧ (b.toNat < 30720 → s.destOf .die b = if b.toNat / 1920 = s.core / 1920 then some (some b.toNat) else none)) ∧
  (∀ (s : State) (c : Nat) (eth : Bool) (src : Word) (data : List Byte),
     let l := (s.coreAt c).loc
     let l8 := (data.length + 7) / 8 * 8
     ((s.coreAt c).ringSlot = none → exec (.messageArrival c eth src data) s = .next s)
       ∧ (∀ slot, (s.coreAt c).ringSlot = some slot → l8 ≤ 64512 - l.inUse → l.recs < 64 →
         ∃ t, exec (.messageArrival c eth src data) s = .next t ∧ (t.coreAt c).loc.recs = l.recs + 1
           ∧ (t.coreAt c).loc.tail = (if l.tail + l8 ≤ 64512 then (l.tail + l8) % 64512 else l8 - (64512 - l.tail))
           ∧ (t.coreAt c).loc.head = l.head ∧ ∀ k r, (t.ctxAt c k).reg r = (s.ctxAt c k).reg r)
       ∧ (64512 - l.inUse < l8 → exec (.messageArrival c eth src data) s = .next s)
       ∧ (64 ≤ l.recs → exec (.messageArrival c eth src data) s = .next s)) ∧
  (∀ (s : State) (a d : GReg),
     (s.here.ringSlot = none ∨ s.here.loc.recs = 0 → exec (.qrecv a d) s = .next (s.hold (.qrecv a d) 0))
       ∧ (∀ slot, s.here.ringSlot = some slot → s.here.loc.recs ≠ 0 →
           let v := (s.well s.core (bankWell (s.here.bankmap slot))).data
           let word0 := leNat (v.readN (0xFC00 + 16 * s.here.loc.recHead) 8)
           let word1 := leNat (v.readN (0xFC00 + 16 * s.here.loc.recHead + 8) 8)
           let l8 := (word0 % 65536 + 7) / 8 * 8
           (∀ z, s.checkLocal s.core (s.g d).toNat l8 8 true = some z → exec (.qrecv a d) s = .next (s.raise z))
             ∧ (s.checkLocal s.core (s.g d).toNat l8 8 true = none →
               ∃ t, exec (.qrecv a d) s = .next t ∧ t.here.loc.recs = s.here.loc.recs - 1
                 ∧ t.here.loc.head = (word0 / 2 ^ 32 % 65536 + l8) % 64512
                 ∧ ∀ r, t.g r = if r = a ∧ a ≠ 0 then w64 (word0 % 2 ^ 24 + word1 % 2 ^ 40 * 2 ^ 24) else s.g r))
       ∧ ∀ (c k : Nat),
           ((s.ctxAt c k).wait = some (.qrecv a d) → exec (.qrecvComplete c k) s = exec (.qrecv a d) (s.at_ c k))
             ∧ (∀ sc n b e, (s.ctxAt c k).wait = some (.qsend sc n a b e) →
                 let o := (s.at_ c k).sendOnce sc ((s.at_ c k).g b) (s.ctxAt c k).payload
                 let spent := (s.stepOf c).toNat - (s.ctxAt c k).aux.toNat
                 ((s.coreAt c).loc.qbound.toNat ≤ spent → exec (.qsendBoundExpiry c k) s = .next ((s.at_ c k).result a 1))
                   ∧ (spent < (s.coreAt c).loc.qbound.toNat →
                     (∀ v, o.2 = some v → exec (.qsendBoundExpiry c k) s = .next (o.1.result a (w64 v)))
                       ∧ (o.2 = none → ∃ t, exec (.qsendBoundExpiry c k) s = .next t ∧ (t.ctxAt c k).payload = (s.ctxAt c k).payload
                           ∧ (t.ctxAt c k).wait = some (.qsend sc n a b e) ∧ (t.ctxAt c k).aux = (s.ctxAt c k).aux))))

/-! ### Engines (spec/06 R177 to R182) -/

/-- CPY and COLL (R178, R180), timed or not. A fifth command waits. The first check that fails is the fault; with none, and with
nothing to release, the command enters its engine with its operands and BANKMAP as they stand (R21) and retires, a timed one with
its step and FORCED set; one of length 0 only retires. CPYW and COLLW (R179, R181) with no command of their context outstanding deliver the
status gathered and clear it, or take TIMING where a timed command was not ready at its step (R180); with one they wait, and
the waits end as the instructions themselves would have. A collective that has stopped in every member (R181) stops as it is
issued by a member that had not joined it, with the status owed (log 46). -/
def Obligations.EngineInstructions : Prop :=
  (∀ (s : State) (a b c : GReg) (op : RedOp) (ty : RedType) (sc : Scope) (n : Option (BitVec 16)), s.me.eret ≠ 1 →
     let start := n.map (fun n => s.here.taskstep + n.setWidth 64)
     let u := (s.obbUse s.core (idOf (s.g a))).obbUse s.core (idOf (s.g b))
     let issues (copy : Bool) (i : Instr) (is : EngCmd → Prop) : Prop :=
       (4 ≤ (s.here.engsOf copy).length → exec i s = .next s)
         ∧ ((s.here.engsOf copy).length < 4 →
           (∀ z, s.engCheck (s.g a) (s.g b) (s.g c) start = some z → exec i s = .next (u.raise z))
             ∧ (s.engCheck (s.g a) (s.g b) (s.g c) start = none → s.drained →
               (bits (s.g c) 31 0 = 0 → ∃ t, exec i s = .next t ∧ t.here.engs = s.here.engs ∧ ∀ r, t.g r = s.g r)
                 ∧ (bits (s.g c) 31 0 ≠ 0 → copy = true ∨ s.here.collOwed = [] →
                   ∃ t e, exec i s = .next t ∧ t.here.engs = s.here.engs ++ [e] ∧ e.copy = copy ∧ e.dst = s.g a ∧ e.src = s.g b
                     ∧ e.len = bits (s.g c) 31 0 ∧ e.ctx = s.ctx ∧ e.start = start ∧ e.bank = s.here.loc.bank ∧ is e
                     ∧ (start ≠ none → t.here.fduty.forced = true) ∧ (∀ r, t.g r = s.g r) ∧ t.me.q0 = s.me.q1)))
     issues true (.cpy n a b c) (fun e => e.idx = s.me.cpyCount)
       ∧ issues false (.coll op ty sc n a b c) (fun e => e.op = op ∧ e.ty = ty ∧ e.scope = sc)
       ∧ ∀ v l, (s.here.engsOf false).length < 4 → s.engCheck (s.g a) (s.g b) (s.g c) start = none → s.drained →
           bits (s.g c) 31 0 ≠ 0 → s.here.collOwed = v :: l →
           ∃ t, exec (.coll op ty sc n a b c) s = .next t ∧ t.here.engs = s.here.engs ∧ t.here.collOwed = l
             ∧ t.me.collFail = some (s.me.collFail.getD v) ∧ ∀ r, t.g r = s.g r) ∧
  (∀ (s : State) (a : GReg), s.me.eret ≠ 1 →
     ((s.here.engsOf true).any (fun e => e.ctx == s.ctx) = true → exec (.cpyw a) s = .next (s.hold (.cpyw a) 0))
       ∧ ((s.here.engsOf true).any (fun e => e.ctx == s.ctx) = false →
         (s.me.lateCpy = none → ∃ t, exec (.cpyw a) s = .next t
             ∧ ((s.acquire s.core .die).modMe (fun x => { x with cpyCount := 0, cpyFail := none })).gives t a
               (w64 (match s.me.cpyFail with | some (code, idx) => code + idx % 256 * 256 | none => 0)))
           ∧ (∀ n, s.me.lateCpy = some n → s.boundaryReady = true → exec (.cpyw a) s =
               .next ((s.modMe (fun x => { x with lateCpy := none })).raise { code := 0x0D, detail := n })))
       ∧ ((s.here.engsOf false).any (fun e => e.ctx == s.ctx) = true → exec (.collw a) s = .next (s.hold (.collw a) 0))
       ∧ ((s.here.engsOf false).any (fun e => e.ctx == s.ctx) = false →
         (s.me.lateColl = none → ∃ t, exec (.collw a) s = .next t
             ∧ ((s.acquire s.core .pod).modMe (fun x => { x with collFail := none, collRedo := 0 })).gives t a
               (w64 (s.me.collFail.getD 0 + s.me.collRedo % 2 ^ 32 * 256)))
           ∧ (∀ n, s.me.lateColl = some n → s.boundaryReady = true → exec (.collw a) s =
               .next ((s.modMe (fun x => { x with lateColl := none })).raise { code := 0x0D, detail := n })))
       ∧ ∀ c k, ((s.ctxAt c k).wait = some (.cpyw a) → exec (.cpywComplete c k) s = exec (.cpyw a) (s.at_ c k))
           ∧ ((s.ctxAt c k).wait = some (.collw a) → exec (.collwComplete c k) s = exec (.collw a) (s.at_ c k)))

/-- The engines' events (R179 to R181, R233, R300, R407). An engine without a command that runs, or that waits for a page, does
nothing. A copy whose private lines are flushed moves the bytes it has still to read and to write, and leaves its engine; one
whose reading or writing fails leaves it with the failure noted for CPYW, and one that meets an unresolved page keeps what it has
moved and waits. A timed command starts at its step, and is dropped, for TIMING at the wait, where its engine works at another,
a local operand's slot is closed, or it loses a sub-bank to another timed command (R272). A chunk that every member has joined
alike is read and combined, but not while a member is leaving (R182); two rounds later it is committed if the path's GENs still
stand, else tried again. Members that differ stop with 0xE1, and so does a collective of another scope that waits for one of its
members; one that a member has not joined in time stops with 0xE2. An overdue chunk of the POD instance is tried again. That the
members yet to join owe the status, and which instances are on the path, is log 46; that a copy moves all its bytes in one event,
log 68. -/
def Obligations.EngineEvents : Prop :=
  ∀ (s : State) (c id : Nat) (i : Inst),
    ((s.coreAt c).engHead true = none → exec (.cpyComplete c) s = .next s)
      ∧ (∀ e, (s.coreAt c).engHead true = some e →
          (e.page ≠ none → exec (.cpyComplete c) s = .next s)
            ∧ (e.page = none → e.hurt = none → ∀ f, s.engFlush c e = (f, .done) → e.bad = none →
                let cid := (f.coreAt c).cid
                let kept (u : State) (bs : List Byte) (k : Nat) : State :=
                  u.modEng c e.id (fun x => { x with data := e.data ++ bs, bad := e.bad, wrote := x.wrote + k })
                ∀ u bs r, f.engReadAll c cid e (e.src + w64 e.data.length) (e.len - e.data.length) = (u, bs, r) →
                let w := u.engWriteAll c cid e (e.dst + w64 e.wrote) ((e.data ++ bs).drop e.wrote)
                let failed (v : Nat) : State := (w.1.dropEng c e.id).modCtx c e.ctx (fun x => x.cpyFailed v e.idx)
                (r = .done → w.2.1 = .done → exec (.cpyComplete c) s = .next (w.1.dropEng c e.id))
                  ∧ (∀ v, r = .done → w.2.1 = .fail v → exec (.cpyComplete c) s = .next (failed v))
                  ∧ (∀ v, r = .fail v → w.2.1 = .done → exec (.cpyComplete c) s = .next (failed v))
                  ∧ (∀ obj pg, r = .page obj pg → exec (.cpyComplete c) s = .next ((kept u bs 0).engWaits c e.id obj pg))
                  ∧ (∀ obj pg, r = .done → w.2.1 = .page obj pg →
                      exec (.cpyComplete c) s = .next ((kept w.1 bs w.2.2).engWaits c e.id obj pg))))
      ∧ (∀ (e : EngCmd) (copy : Bool) (at_ : Word), ((s.coreAt c).engsOf copy).find? (fun e => e.id == id) = some e →
          e.begun = false → e.start = some at_ →
          let beside := s.timedBeside c (e.ranges c) (some id)
          let lost := beside && Config.bankLoss s.fresh % 3 == 2
          let u := if beside then s.tick1 else s
          let closed := ([e.dst, e.src].filter isLocal).any (fun a => ((s.coreAt c).checkRegion a.toNat e.len).isSome)
          (at_ = s.stepOf c → (s.coreAt c).engHead copy = none → closed = false → lost = false →
              exec (.timedCommandStart c copy id) s =
                .next ((u.modEng c id (fun e => { e with begun := true, since := s.now, bank := (s.coreAt c).loc.bank })).unforce c))
            ∧ (at_.toNat < (s.stepOf c).toNat ∨ (s.coreAt c).engHead copy ≠ none ∨ closed = true ∨ lost = true →
                ∃ t, exec (.timedCommandStart c copy id) s = .next t
                ∧ (t.coreAt c).engs = (s.coreAt c).engs.filter (fun e => e.id != id)
                ∧ (copy = true → (t.ctxAt c e.ctx).lateCpy = some ((s.ctxAt c e.ctx).lateCpy.getD e.n))
                ∧ (copy = false → (t.ctxAt c e.ctx).lateColl = some ((s.ctxAt c e.ctx).lateColl.getD e.n))))
      ∧ ∀ n, s.collNodes i = [n] →
          let all := s.launchMembers i n
          let ms := all.filterMap (fun c => (s.collHead i n c).map (fun e => (c, e)))
          let goes (t : State) : Prop := exec (.collChunk i) s = .next t
          (∀ d e, ms.head? = some (d, e) → (∀ p ∈ ms, p.2.hurt = none) →
              let cid := (s.coreAt d).cid
              let same := ms.all (fun p => p.2.len == e.len && p.2.op == e.op && p.2.ty == e.ty)
              (∀ j, s.crossed i n all d = [j] → goes ((s.collStopAll i n 0xE1).collStopAll j n 0xE1))
                ∧ (s.crossed i n all d = [] →
                  (same = false → goes (s.collStopAll i n 0xE1))
                    ∧ (same = true → ms.length < all.length → goes s)
                    ∧ (same = true → ms.length = all.length →
                        ms.any (fun p => (p.2.start.isSome && !p.2.begun) || p.2.page.isSome || decide (s.now < p.2.notBefore)) = false →
                        ((∃ p ∈ ms, p.2.wrote ≠ 0) → goes (s.collCommit i n ms cid))
                          ∧ ((∀ p ∈ ms, p.2.wrote = 0) →
                            (e.running = false → ms.any (fun p => (s.coreAt p.1).leaving) = false → goes (s.collTry i n ms all cid))
                              ∧ (e.running = false → ms.any (fun p => (s.coreAt p.1).leaving) = true → goes s)
                              ∧ (e.running = true → s.now < e.since + 2 * s.roundLen i.scope → goes s)
                              ∧ (e.running = true → e.since + 2 * s.roundLen i.scope ≤ s.now →
                                  (e.gen = none ∨ s.pathGen i all ≠ e.gen → goes (s.collRetry i n ms))
                                    ∧ (e.gen ≠ none → s.pathGen i all = e.gen → s.foreign i = false →
                                        goes (s.collCommit i n ms cid)))))))
            ∧ (let joined := all.filter (fun c => (s.collHead i n c).isSome)
               joined.length < all.length →
               joined.any (fun c => match s.collHead i n c with | some e => decide (e.since + s.timeout i ≤ s.now) | none => false) = true →
               exec (.collMemberTimeout i) s = .next ((s.collOwe n all 0xE2).collStop i n joined 0xE2))
            ∧ (i = ⟨.pod, 0⟩ → ms.any (fun p => p.2.gen.isSome && decide (p.2.since + 4 * s.roundLen .pod ≤ s.now)) = true →
               exec .podChunkTimeout s = .next (s.collRetry i n ms))

/-! ### Vector instructions (spec/07 R183 to R209) -/

/-- Every register instruction of the vector unit, issued by context 0 with room in the queue, enters the queue with its
general operands and VLEN as they stand, and retires (R183, R190); with eight entries it waits, and in a helper it is
illegal (R10). -/
def Obligations.VectorInstructionsEnterTheQueue : Prop :=
  ∀ (i : Instr) (s : State) (ops : List Word), vecRegOps i s.g = some ops →
    (s.ctx = 0 → s.here.vec.queue.length < 8 → s.me.eret ≠ 1 → ∃ t, exec i s = .next t ∧ s.vecEntered t i ops 0)
      ∧ (s.ctx = 0 → 8 ≤ s.here.vec.queue.length → exec i s = .next s) ∧ (s.ctx ≠ 0 → exec i s = .next s.illegal)

/-- Every memory instruction of the vector unit whose active elements pass their checks, and PPLD of a table that passes its
own, enters the queue, a load of local memory with its tiles marked (R155, R200, R201, R207); the first failing element is the
cause of a precise trap. With eight entries they wait, and in a helper they are illegal (R10, R183). -/
def Obligations.VectorMemoryEntersTheQueue : Prop :=
  (∀ (i : Instr) (s : State) (k : MReg) (ops : List Word) (m : VMem), vecMemOps i s.g = some (k, ops) → vmemOf s.here i ops = some m →
    let act := activeOf s.here.vec.vlen (s.here.gov k)
    let u := if m.local_ then s else s.obbUse s.core (idOf (opAt ops 0))
    (s.ctx ≠ 0 → exec i s = .next s.illegal)
      ∧ (s.ctx = 0 → 8 ≤ s.here.vec.queue.length → exec i s = .next s)
      ∧ (s.ctx = 0 → s.here.vec.queue.length < 8 →
        (act.findSome? (s.vmemCheck m) = none → s.me.eret ≠ 1 → ∃ t, exec i s = .next t ∧ s.vecEntered t i ops (s.here.gov k)
            ∧ (m.local_ = true → m.store = false → t.here.loc.checked =
                (each act s (fun s j => s.markTiles s.core (m.addr j).toNat 4)).here.loc.checked))
          ∧ (∀ z, act.findSome? (s.vmemCheck m) = some z → exec i s = .next (u.raise z)))) ∧
  (∀ (s : State) (b : GReg),
    (s.ctx ≠ 0 → exec (.ppld b) s = .next s.illegal)
      ∧ (s.ctx = 0 → 8 ≤ s.here.vec.queue.length → exec (.ppld b) s = .next s)
      ∧ (s.ctx = 0 → s.here.vec.queue.length < 8 →
        ((s.g b).toNat % 16 = 0 → s.checkRange (s.g b).toNat 1296 false = none → s.me.eret ≠ 1 →
            ∃ t, exec (.ppld b) s = .next t ∧ s.vecEntered t (.ppld b) [s.g b] 0)
          ∧ ((s.g b).toNat % 16 ≠ 0 → exec (.ppld b) s = .next (s.raise { code := 0x06, addr := s.g b }))
          ∧ (∀ z, (s.g b).toNat % 16 = 0 → s.checkRange (s.g b).toNat 1296 false = some z → exec (.ppld b) s = .next (s.raise z))))

/-- VCLAIM takes what is free of the groups asked for and delivers the VLEN they make; VYIELD gives the core's own back, and the
octet is dealt again; VLEN delivers VLEN, and the eight grants of the octet never come to exceed 16 groups (R188). VCLAIM and
VYIELD wait while the queue holds an entry; in a helper all three are illegal (R10). -/
def Obligations.LaneGrants : Prop :=
  ∀ (s : State) (a : GReg) (n8 : BitVec 4),
    let g := min n8.toNat (s.here.vec.grant + s.freeGroups s.core)
    let dealt (t : State) : Nat := ((octCores (octOf s.core)).map (fun q => (t.coreAt q).vec.grant)).sum
    (s.ctx ≠ 0 → exec (.vclaim a n8) s = .next s.illegal ∧ exec .vyield s = .next s.illegal ∧ exec (.vlen a) s = .next s.illegal)
      ∧ (s.ctx = 0 → s.here.vec.queue ≠ [] → exec (.vclaim a n8) s = .next s ∧ exec .vyield s = .next s)
      ∧ (s.ctx = 0 → s.here.vec.queue = [] → s.me.eret ≠ 1 →
        (∃ t, exec (.vclaim a n8) s = .next t
            ∧ (s.modHere (fun x => { x with vec := { x.vec with want := n8.toNat, grant := g, vlen := 8 * g } })).gives t a (w64 (8 * g))
            ∧ (dealt s ≤ 16 → dealt t ≤ 16))
          ∧ ∃ t, exec .vyield s = .next t ∧ dealt t ≤ 16
            ∧ ((s.modHere (fun x => { x with vec := { x.vec with want := 0, grant := 0, vlen := 0 } })).redeal
                (s.core / 8) (List.range 8)).passed t ∧ ∀ r, t.g r = s.g r)
      ∧ (s.ctx = 0 → s.me.eret ≠ 1 → ∃ t, exec (.vlen a) s = .next t ∧ s.gives t a (w64 s.here.vec.vlen))

/-- The head of the vector queue starts (R183) for the steps of R190, and with VLEN 0 it completes in the step it starts; before
its step it has no effect. At its step it leaves the queue with its effect, here with no stored error to meet. An arithmetic, logic
or shift instruction, VFMA, VCVT, VBCAST or PPEV gives each sub-element of the active elements of its destination the value that
its rule gives it from those of the sources, rounded into the type (R191, R193, R195, R196, R198, R209), VCVT drawing one random
number a conversion for .SR and marking in d the E2M1 elements that a NaN went into; VSEL and VPERM move whole elements
(R198), a comparison writes its mask's active bits (R197), the mask operations the bits below VLEN, or all (R205), and VEXT, the
reductions, MPOPC, MFIRST and MMOV.G a general register of context 0 (R198, R204, R205). PPSEL chooses the set, PPLD replaces the
table (R207, R208). Every other element, mask bit and register, and all memory, is as before. Of a memory instruction the active
elements that are left are performed at their addresses: in TCM the words there, all other bytes as before; in a STRONG page, here
of one element whose sector its home holds, the bytes at its address alone; one whose page has no frame holds the queue, one that
fails empties it (R185, R200 to R202). -/
def Obligations.VectorQueueRuns : Prop :=
  ∀ (s : State) (c : Nat) (e : VEntry) (r : List VEntry), (s.coreAt c).vec.queue = e :: r →
    let x := s.coreAt c
    let starts (t : State) : Prop := exec (.vectorQueueStart c) s = .next t
      ∧ (t.coreAt c).vec.queue = { e with fin := some (s.now + vecDuration e) } :: r
    (e.fin = none → e.vlen ≠ 0 → ∃ t, starts t ∧ t.agenda = s.agenda)
      ∧ (e.fin = none → e.vlen = 0 → ∃ t, starts t ∧ t.agenda = .vectorQueueComplete c :: s.agenda)
      ∧ (e.fin ≠ none → exec (.vectorQueueStart c) s = .next s)
      ∧ (∀ n, e.fin = some n → s.now < n → exec (.vectorQueueComplete c) s = .next s)
      ∧ (∀ n, e.fin = some n → n ≤ s.now → x.vec.page = none → x.vec.hurt = [] → x.vec.tableHurt = none → e.hurt = none →
          let act (k : MReg) : List Nat := activeOf e.vlen (x.gov k)
          let on (k : MReg) (j : Nat) : Bool := decide (j < e.vlen) && (x.gov k).getLsbD j
          let below (j : Nat) : Bool := decide (j < e.vlen)
          let ends (u : State) : Prop := exec (.vectorQueueComplete c) s = .next u ∧ (u.coreAt c).vec.queue = r
          let runs (p : Core → Prop) : Prop := ∃ u, ends u ∧ (∀ d, d ≠ c → u.coreAt d = s.coreAt d) ∧ (u.coreAt c).loc = x.loc
            ∧ u = { s with cores := u.cores, agenda := u.agenda, core := u.core, ctx := u.ctx } ∧ p (u.coreAt c)
          let sameG (y : Core) : Prop := ∀ g, (y.ctxAt 0).reg g = (x.ctxAt 0).reg g
          let sameV (y : Core) : Prop := ∀ q j, j < 64 → y.ve q j = x.ve q j
          let sameM (y : Core) : Prop := ∀ k, y.mreg k = x.mreg k
          let elems (a : VReg) (live : Nat → Bool) (f : Nat → BitVec 32) : Prop := runs (fun y => sameG y ∧ sameM y
            ∧ ∀ q j, j < 64 → y.ve q j = if q = a ∧ live j = true then f j else x.ve q j)
          let subs (t : EType) (a : VReg) (k : MReg) (f : Nat → Nat → Nat) : Prop := runs (fun y => sameG y ∧ sameM y
            ∧ (∀ q j, j < 64 → ¬(q = a ∧ on k j = true) → y.ve q j = x.ve q j)
            ∧ ∀ j i, on k j = true → i < t.n → subAt t (y.ve a j) i = f j i % 2 ^ subW t)
          let marks (a : MReg) (live f : Nat → Bool) : Prop := runs (fun y => sameG y ∧ sameV y
            ∧ ∀ k j, j < 64 → (y.mreg k).getLsbD j = if k = a ∧ live j = true then f j else (x.mreg k).getLsbD j)
          let scalar (a : GReg) (v : Word) : Prop := runs (fun y => sameV y ∧ sameM y
            ∧ ∀ g, (y.ctxAt 0).reg g = if g = a ∧ a ≠ 0 then v else (x.ctxAt 0).reg g)
          -- major 0x30 and VFMA
          (∀ (t : EType) (a b d h : VReg) (k : MReg),
              let arith (int : Int → Int → Int) (fp : FVal → FVal → FVal) : Prop := subs t a k (fun j i =>
                let u := subAt t (x.ve b j) i
                let v := subAt t (x.ve d j) i
                if t.isInt then subWrap t (int (subInt t u) (subInt t v)) else enc (efmt t) (fp (dec (efmt t) u) (dec (efmt t) v)) .ne)
              let bitwise (f : Nat → Nat → Nat) : Prop := subs t a k (fun j i => f (subAt t (x.ve b j) i) (subAt t (x.ve d j) i))
              let w (u : Nat) : BitVec (subW t) := BitVec.ofNat (subW t) u
              (e.instr = .vadd t a b d k → arith (· + ·) fAdd)
                ∧ (e.instr = .vsub t a b d k → arith (· - ·) (fun u v => fAdd u v.negate))
                ∧ (e.instr = .vmul t a b d k → arith (· * ·) fMul)
                ∧ (e.instr = .vmin t a b d k → arith min fMin) ∧ (e.instr = .vmax t a b d k → arith max fMax)
                ∧ (e.instr = .vand t a b d k → bitwise (· &&& ·)) ∧ (e.instr = .vor t a b d k → bitwise (· ||| ·))
                ∧ (e.instr = .vxor t a b d k → bitwise (· ^^^ ·))
                ∧ (e.instr = .vshl t a b d k → bitwise (fun u v => (shlW (w u) v).toNat))
                ∧ (e.instr = .vshrl t a b d k → bitwise (fun u v => (shrlW (w u) v).toNat))
                ∧ (e.instr = .vshra t a b d k → bitwise (fun u v => (shraW (w u) v).toNat))
                ∧ (e.instr = .vabs t a b k → subs t a k (fun j i => vsign true t (subAt t (x.ve b j) i)))
                ∧ (e.instr = .vneg t a b k → subs t a k (fun j i => vsign false t (subAt t (x.ve b j) i)))
                ∧ (e.instr = .vfma t a b d h k → subs t a k (fun j i =>
                    let u := subAt t (x.ve b j) i
                    let v := subAt t (x.ve d j) i
                    let z := subAt t (x.ve h j) i
                    if t.isInt then subWrap t (subInt t u * subInt t v + subInt t z)
                    else enc (efmt t) (fAdd (fMul (dec (efmt t) u) (dec (efmt t) v)) (dec (efmt t) z)) .ne)))
            -- VCVT
            ∧ (∀ (t src : EType) (m : CvtMode) (p : BitVec 3) (a b d : VReg) (k : MReg), e.instr = .vcvt t src m p a b d k → d ≠ a →
                let rnd (j i : Nat) : Rnd := match m with
                  | .ne => .ne
                  | .rz => .rz
                  | .sr => .sr (sget 0 (s.vecDraws c e.vlen (cvtCount t src)).2 (8 * j + i))
                let from_ (j i : Nat) : Nat := subAt src (x.ve b j) (if t.n ≤ src.n then p.toNat * t.n + i else i)
                let nan (j : Nat) : Bool := t == .e2 && (List.range (cvtCount t src)).any (fun i => (subVal src (from_ j i)).isNaN)
                ∃ u, ends u ∧ sameG (u.coreAt c) ∧ sameM (u.coreAt c) ∧ (u.coreAt c).loc = x.loc
                  ∧ (∀ q j, j < 64 → ¬(q = a ∧ on k j = true) → ¬(q = d ∧ on k j = true ∧ nan j = true) → (u.coreAt c).ve q j = x.ve q j)
                  ∧ (∀ j, on k j = true → nan j = true → (u.coreAt c).ve d j = (x.ve d j &&& 0xFFFFFF00) ||| 0xFF)
                  ∧ ∀ j i, on k j = true → i < t.n → subAt t ((u.coreAt c).ve a j) i =
                      if t.n ≤ src.n then vcvt1 t src (rnd j i) (from_ j i) % 2 ^ subW t
                      else if i / src.n = p.toNat then vcvt1 t src (rnd j (i % src.n)) (from_ j (i % src.n)) % 2 ^ subW t
                      else subAt t (x.ve a j) i)
            -- comparisons and moves of elements
            ∧ (∀ (t : EType) (a : MReg) (b d : VReg) (k : MReg),
                let rel (int : Int → Int → Bool) (fp : FVal → FVal → Bool) : Prop := marks a (on k) (fun j =>
                  if t.isInt then int (x.ve b j).toInt (x.ve d j).toInt else fp (dec .f32 (x.ve b j).toNat) (dec .f32 (x.ve d j).toNat))
                (e.instr = .vseq t a b d k → rel (fun u v => decide (u = v)) fEq)
                  ∧ (e.instr = .vslt t a b d k → rel (fun u v => decide (u < v)) fLt)
                  ∧ (e.instr = .vsle t a b d k → rel (fun u v => decide (u ≤ v)) fLe))
            ∧ (∀ (t : EType) (ft : FType) (a b d : VReg) (g i : GReg) (h k : MReg),
                let v := opAt e.ops 0
                (e.instr = .vsel a b d h → elems a below (fun j => if (x.mreg h).getLsbD j then x.ve b j else x.ve d j))
                  ∧ (e.instr = .vperm a b d k → elems a (on k) (fun j =>
                      if (x.ve d j).toNat < e.vlen then x.ve b (x.ve d j).toNat else 0))
                  ∧ (e.instr = .vbcast t a g k → subs t a k (fun _ _ => v.toNat))
                  ∧ (e.instr = .vext g b i →
                      scalar g (if v.toNat < e.vlen then (x.ve b v.toNat).setWidth 64 else 0))
                  ∧ (e.instr = .ppev ft a b k → subs (etypeOf ft) a k (fun j i => ppev1 x.vec ft (subAt (etypeOf ft) (x.ve b j) i))))
            -- reductions
            ∧ (∀ (t : EType) (a i : GReg) (b : VReg) (k : MReg),
                let l := redVals t x b (act k)
                let both (z : Nat × Word) : Prop := runs (fun y => sameV y ∧ sameM y ∧ ∀ g, (y.ctxAt 0).reg g =
                  if g = i ∧ i ≠ 0 then z.2 else if g = a ∧ a ≠ 0 then redImage t z.1 else (x.ctxAt 0).reg g)
                (e.instr = .vredadd t a b k → scalar a (redImage t (if t.isInt then subWrap t ((l.map (fun p => subInt t p.2)).sum)
                    else enc (efmt t) (fSum (l.map (fun p => dec (efmt t) p.2))) .ne)))
                  ∧ (e.instr = .vredmax .w a b k → act k ≠ [] → ∃ v, scalar a v ∧ (∃ j ∈ act k, v = (x.ve b j).signExtend 64)
                      ∧ ∀ j ∈ act k, (x.ve b j).toInt ≤ v.toInt)
                  ∧ (e.instr = .vredmin .w a b k → act k ≠ [] → ∃ v, scalar a v ∧ (∃ j ∈ act k, v = (x.ve b j).signExtend 64)
                      ∧ ∀ j ∈ act k, v.toInt ≤ (x.ve b j).toInt)
                  ∧ (e.instr = .vredmax t a b k → scalar a (redImage t (redBest t true l)))
                  ∧ (e.instr = .vredmin t a b k → scalar a (redImage t (redBest t false l)))
                  ∧ (e.instr = .vmaxi t a b i k → both (redMaxIdx t true l)) ∧ (e.instr = .vmini t a b i k → both (redMaxIdx t false l)))
            -- masks, and the set of the polynomial unit
            ∧ (∀ (a b d : MReg) (g : GReg) (n : BitVec 4),
                let bit (k : MReg) (j : Nat) : Bool := (x.mreg k).getLsbD j
                let all (v : Word) : Prop := marks a (fun _ => true) (fun j => v.getLsbD j)
                (e.instr = .mand a b d → marks a below (fun j => bit b j && bit d j))
                  ∧ (e.instr = .mor a b d → marks a below (fun j => bit b j || bit d j))
                  ∧ (e.instr = .mxor a b d → marks a below (fun j => bit b j != bit d j))
                  ∧ (e.instr = .mnot a b → marks a below (fun j => !bit b j))
                  ∧ (e.instr = .mset a g → all (opAt e.ops 0)) ∧ (e.instr = .mmov a b → all (x.mreg b))
                  ∧ (e.instr = .mmovG g b → scalar g (x.mreg b))
                  ∧ (e.instr = .mpopc g b → scalar g (w64 ((List.range e.vlen).countP (bit b))))
                  ∧ (e.instr = .mfirst g b → ∀ j, j < e.vlen → bit b j = true → (∀ i, i < j → bit b i = false) → scalar g (w64 j))
                  ∧ (e.instr = .mfirst g b → (∀ i, i < e.vlen → bit b i = false) → scalar g 64)
                  ∧ (e.instr = .ppsel n → runs (fun y => sameG y ∧ sameV y ∧ sameM y ∧ y.vec.set = n.toNat)))
            ∧ (∀ (b : GReg) (v : State) (bs : List Byte) (bad : Option Nat), e.instr = .ppld b → e.vlen ≠ 0 →
                s.localRead c (opAt e.ops 0).toNat 1296 = (v, bs, bad) →
                let n := leNat (bs.take 4)
                (bad = none → ∃ u, ends u ∧ sameG (u.coreAt c) ∧ sameV (u.coreAt c) ∧ sameM (u.coreAt c)
                    ∧ (1 ≤ n → n ≤ 64 → (u.coreAt c).vec.segs = n ∧ ∀ j, j < 5 * n →
                        sget 0 (u.coreAt c).vec.table j = BitVec.ofNat 32 (leNat ((bs.drop (16 + 4 * j)).take 4)))
                    ∧ (n = 0 ∨ 64 < n → (u.coreAt c).vec.segs = 0))
                  ∧ ∀ w, bad = some w → exec (.vectorQueueComplete c) s = .next (v.vecFault c 0x0B 4 (w64 w) e.pc))
            -- memory
            ∧ ∀ m, vmemOf x e.instr e.ops = some m →
                let left := activeOf e.vlen (e.mask &&& ~~~e.did)
                let at_ (j : Nat) : Nat := (m.addr j).toNat
                (m.local_ = true → (∀ j ∈ left, at_ j + 4 ≤ 0x30000) → x.loc.ecc = {} → e.buf = [] → ∃ u, ends u
                    ∧ (∀ y, u.globalByte y = s.globalByte y) ∧ sameG (u.coreAt c) ∧ sameM (u.coreAt c)
                    ∧ (m.store = false → (∀ d y, u.localByte d y = s.localByte d y) ∧ ∀ q j, j < 64 → (u.coreAt c).ve q j =
                        if q = m.reg ∧ j ∈ left then BitVec.ofNat 32 (leNat (x.loc.tcm.readN (at_ j) 4)) else x.ve q j)
                    ∧ (m.store = true → sameV (u.coreAt c)
                      ∧ (∀ j ∈ left, ∀ i, i < 4 → u.localByte c (at_ j + i) = (x.ve m.reg j).extractLsb' (8 * i) 8)
                      ∧ ∀ d y, ¬(d = c ∧ ∃ j ∈ left, at_ j ≤ y ∧ y < at_ j + 4) → u.localByte d y = s.localByte d y))
                  ∧ ∀ j, left = [j] →
                    (∀ h l, m.local_ = false → e.buf = [] → idOf (m.addr j) ≠ aliasId → at_ j % m.z = 0 →
                      (s.pageType (idOf (m.addr j)) (offOf (m.addr j))).1 = .strong → s.atHome (m.addr j) h l → x.cache.cbuf = [] →
                      (∀ y ∈ x.cache.lines, y.tagHurt = none ∧ y.ecc = {} ∧ y.data.length = 32) →
                      ∃ u, ends u ∧ (∀ d y, u.localByte d y = s.localByte d y)
                        ∧ (m.store = true → sameV (u.coreAt c) ∧ s.stored u (m.addr j) (leBytes m.z ((x.ve m.reg j).toNat % 2 ^ (8 * m.z))))
                        ∧ (m.store = false → (∀ y, u.globalByte y = s.globalByte y) ∧ ∀ q i, i < 64 → (u.coreAt c).ve q i =
                            if q = m.reg ∧ i = j then BitVec.ofNat 32 (leNat (l.data.readN (offOf (m.addr j) % 256) m.z)) else x.ve q i))
                      ∧ (∀ v code sub a, s.vmemElem c x.cid m j = (v, .fault code sub a) →
                          exec (.vectorQueueComplete c) s = .next (v.vecFault c code sub a e.pc))
                      ∧ ∀ v obj pg, s.vmemElem c x.cid m j = (v, .page obj pg) → ∃ u, exec (.vectorQueueComplete c) s = .next u
                          ∧ (u.coreAt c).vec.page = some (obj, pg) ∧ (u.coreAt c).vec.queue = e :: r)

/-! ### Matrix commands (spec/07 R210 to R221) -/

/-- Every matrix command of context 0, with room in its queue, a tile of ACCMAP and operands that pass their checks, enters the
queue and retires (R183, R212 to R218), a timed MMA or MRING with its step and FORCED set. A tile outside ACCMAP is illegal
(R16), an operand that is no multiple of 256 is ALIGN (R213, R216), a range or scale array that fails its check takes that
fault, and a start that is past takes TIMING (R213, R217). Without room they wait, and in a helper they are illegal (R10). -/
def Obligations.MatrixCommandsEnterTheQueue : Prop :=
  ∀ (s : State) (f : MmaFmt) (a : AReg) (b c : GReg) (z : LatchSize) (bf : Bool) (n : BitVec 16) (m : BitVec 7) (o : Option (BitVec 16)),
    let at_ := s.here.taskstep + n.setWidth 64
    let ring := s.here.taskstep + m.setWidth 64 * 32
    let la := (s.g b).toNat
    let timed (i : Instr) (t0 : Word) (ops : List Word) : Prop :=
      (t0.toNat < (s.stepOf s.core).toNat → exec i s = .next (s.raise { code := 0x0D }))
        ∧ ((s.stepOf s.core).toNat ≤ t0.toNat → s.me.eret ≠ 1 →
          ∃ t e, exec i s = .next t ∧ t.here.mat.queue = s.here.mat.queue ++ [e] ∧ e.instr = i ∧ e.ops = ops ∧ e.start = some t0
            ∧ e.mirror = s.here.mat.mirror ∧ t.here.fduty.forced = true ∧ (∀ r, t.g r = s.g r) ∧ t.me.q0 = s.me.q1)
    let enters (i : Instr) (ops : List Word) : Prop := s.me.eret ≠ 1 → ∃ t, exec i s = .next t ∧ s.matEntered t i ops
    let l := [.mzero a, .mchk a, .mma f o a b c, .mst bf a b, .mldb z b, .mring none, .mring (some m)]
    (s.ctx ≠ 0 → ∀ i ∈ l, exec i s = .next s.illegal)
      ∧ (s.ctx = 0 → s.here.matRoom = false → ∀ i ∈ l, exec i s = .next s)
      ∧ (s.ctx = 0 → s.here.matRoom = true →
        (s.here.mat.accmap.getLsbD a.toNat = true →
            enters (.mzero a) [] ∧ enters (.mchk a) []
              ∧ (la % 256 = 0 → s.checkRange la (mmaBytes f) false = none → s.scaleCheck f (s.g c) = none →
                  enters (.mma f none a b c) [s.g b, s.g c] ∧ timed (.mma f (some n) a b c) at_ [s.g b, s.g c])
              ∧ (la % 256 = 0 → ∀ x, s.checkRange la (mmaBytes f) false = some x → exec (.mma f o a b c) s = .next (s.raise x))
              ∧ (la % 256 = 0 → s.checkRange la (mmaBytes f) false = none →
                  ∀ x, s.scaleCheck f (s.g c) = some x → exec (.mma f o a b c) s = .next (s.raise x))
              ∧ (la % 256 = 0 → s.checkRange la (mstBytes bf) true = none → enters (.mst bf a b) [s.g b])
              ∧ (la % 256 = 0 → ∀ x, s.checkRange la (mstBytes bf) true = some x → exec (.mst bf a b) s = .next (s.raise x))
              ∧ (la % 256 ≠ 0 → exec (.mma f o a b c) s = .next (s.raise { code := 0x06, addr := s.g b })
                  ∧ exec (.mst bf a b) s = .next (s.raise { code := 0x06, addr := s.g b })))
          ∧ (s.here.mat.accmap.getLsbD a.toNat = false → exec (.mzero a) s = .next s.illegal ∧ exec (.mchk a) s = .next s.illegal
              ∧ exec (.mma f o a b c) s = .next s.illegal ∧ exec (.mst bf a b) s = .next s.illegal)
          ∧ (la % 256 = 0 → s.checkRange la (latchBytes z) false = none → enters (.mldb z b) [s.g b])
          ∧ (la % 256 = 0 → ∀ x, s.checkRange la (latchBytes z) false = some x → exec (.mldb z b) s = .next (s.raise x))
          ∧ (la % 256 ≠ 0 → exec (.mldb z b) s = .next (s.raise { code := 0x06, addr := s.g b }))
          ∧ enters (.mring none) [] ∧ timed (.mring (some m)) ring [])

/-- MMIR sets the mirror mode; MWAIT with an empty queue delivers the corrections and retries since the last one and clears them,
else it waits; its wait ends the same way, but not while a queue fault is owed, which is taken at the MWAIT; MQSTAT delivers
the unit's status (R185, R219, R220). In a helper all three are illegal (R10). -/
def Obligations.MatrixStatus : Prop :=
  ∀ (s : State) (a : GReg) (m : Mirror),
    (s.ctx ≠ 0 → exec (.mmir m) s = .next s.illegal ∧ exec (.mwait a) s = .next s.illegal ∧ exec (.mqstat a) s = .next s.illegal)
      ∧ (s.ctx = 0 → s.me.eret ≠ 1 →
        (∃ t, exec (.mmir m) s = .next t ∧ (s.modHere (fun x => { x with mat := { x.mat with mirror := m } })).passed t
            ∧ ∀ r, t.g r = s.g r)
          ∧ (s.here.mat.queue = [] → ∃ t, exec (.mwait a) s = .next t
              ∧ (s.modHere (fun x => { x with mat := { x.mat with corr := 0, retr := 0 } })).gives t a
                  (w64 (s.here.mat.corr.toNat + s.here.mat.retr.toNat * 65536)))
          ∧ ∃ t, exec (.mqstat a) s = .next t ∧ s.gives t a s.matStatus)
      ∧ (s.ctx = 0 → s.here.mat.queue ≠ [] → exec (.mwait a) s = .next (s.hold (.mwait a) 0))
      ∧ ∀ c, (s.ctxAt c 0).wait = some (.mwait a) →
          ((s.coreAt c).mat.queue = [] → (s.coreAt c).queueFaulted (s.ctxAt c 0).intrap = false →
              exec (.mwaitComplete c) s = exec (.mwait a) (s.at_ c 0))
            ∧ ((s.coreAt c).mat.queue ≠ [] ∨ (s.coreAt c).queueFaulted (s.ctxAt c 0).intrap = true →
              exec (.mwaitComplete c) s = .next (s.at_ c 0))

/-- The matrix unit's events (R210, R213 to R219, R122). The tile port starts the one command that wants it; where none wants a
resource nothing starts. Before its step a command has no effect; at its step, with no stored error in its entry, MZERO clears its
tile, MLDB fills the latch, MST stores its tile, INJECT.ACC flips bits of an element without its check lanes, and MMA multiplies by
the latch, with its scales where the format has them, and each leaves the queue. MCHK notes a tile that passes, corrects one element
and counts it, or is a queue fault of subcause 1 where that does not help and 3 where the tile has no check lanes. A mirrored MMA
whose two halves agree is counted; disagreeing, it is tried once more, and then is a fault of subcause 2. A source word that cannot
be corrected is one of subcause 4. MRING sends its latch as it starts, to land 16 steps later in the next core of the ring, and
takes the incoming one as it completes; one that does not come in time is a fault of subcause 7. A timed command that is not at the
head of its queue in its step, or whose step or resource is gone, is one of subcause 6, a timed MRING whose receiver is full one of
subcause 5; else it starts. That a mirror agrees is a free value (log 72). -/
def Obligations.MatrixEvents : Prop :=
  ∀ (s : State) (c : Nat) (e : MEntry) (r : List MEntry), (s.coreAt c).mat.queue = e :: r →
    let o := c / 8
    (∀ n, e.fin = some n → s.now < n → exec (.matrixCommandComplete c) s = .next s)
      ∧ (∀ n, e.fin = some n → n ≤ s.now → e.hurt = none →
          let la := (opAt e.ops 0).toNat
          let goes (u : State) : Prop := exec (.matrixCommandComplete c) s = .next u
          let done (u : State) : Prop := goes (u.matPop c)
          let rest : List MEntry := match r with | h :: l => { h with queued := s.now } :: l | [] => []
          ∀ (a : AReg) (b d : GReg) (z : LatchSize) (bf : Bool) (f : MmaFmt) (x : Option (BitVec 16)),
            let tile := (s.oct o).tile a.toNat
            let put (u : State) (g : Tile → Tile) : State := u.modOct o (fun p => p.modTile a.toNat g)
            (e.instr = .mzero a → done (put s (fun _ => {})))
              ∧ (e.instr = .mst bf a b → done (s.localWrite c la (mstImage bf tile) (s.coreAt c).cid))
              ∧ (e.instr = .mchk a → (tile.judge = .pass → done (put s (fun t => { t with chk := true })))
                  ∧ (∀ t, tile.judge = .fixed t → ∃ u, goes u ∧ (u.coreAt c).mat.queue = rest ∧ (u.oct o).tile a.toNat = t
                      ∧ (u.coreAt c).mat.corr = (s.coreAt c).mat.corr + 1
                      ∧ bits (u.coreAt c).mat.merr 15 0 = (bits (s.coreAt c).mat.merr 15 0 + 1) % 65536)
                  ∧ (tile.judge = .void → goes ((put s (fun t => { t with chk := false })).matFault c 0x11 3 0 e.pc false))
                  ∧ ∀ q, tile.judge = .failed q → goes ((put s (fun t => { t with chk := false })).matFault c 0x11 1 0 e.pc false))
              ∧ (∀ bit dbl, e.instr = .injectAcc b d bit dbl → done (s.modOct o (fun p => p.modTile (bits (opAt e.ops 0) 3 0) (fun t =>
                  let at_ := 64 * bits (opAt e.ops 0) 9 4 + bits (opAt e.ops 0) 15 10
                  { t with el := smod 0 t.el at_ (fun v => v ^^^ (injectMask bit dbl).setWidth 32) }))))
              ∧ (∀ u bs, e.instr = .mldb z b → s.localRead c la (latchBytes z) = (u, bs, none) →
                  done (u.modMat c (fun m => { m with cur := (eccWrite m.cur m.curEcc 0 bs).mem, curEcc := (eccWrite m.cur m.curEcc 0 bs).ecc })))
              ∧ (∀ u bs w, e.instr = .mldb z b → s.localRead c la (latchBytes z) = (u, bs, some w) →
                  goes (u.matFault c 0x0B 4 (w64 w) e.pc false))
              ∧ (e.instr = .mma f x a b d →
                  (∀ u bs w, f ≠ .e2 → s.localRead c la (mmaBytes f) = (u, bs, some w) → goes (u.matFault c 0x0B 4 (w64 w) e.pc false))
                    ∧ ∀ u w v ab sb ls, s.localRead c la (mmaBytes f) = (u, ab, none) →
                      (if f = .e2 then u.localRead c (bits (opAt e.ops 1) 51 32) 1024 else (u, [], none)) = (w, sb, none) →
                      w.readLatch c (mmaBytes f) = (v, some ls) →
                      let mul (v : State) : State := put v (fun t => t.multiply (f == .i8)
                        (mmaRows f ab (sb.take 512) (dec .bf (bits (opAt e.ops 1) 15 0)))
                        (mmaRows f ls (sb.drop 512) (dec .bf (bits (opAt e.ops 1) 31 16))))
                      (e.mirrored = false → done (mul v))
                        ∧ (e.mirrored = true → Config.mirrorAgrees v.fresh = true → ∃ t, goes t ∧ (t.coreAt c).mat.queue = rest
                            ∧ (t.oct o).tile a.toNat = ((mul v).oct o).tile a.toNat
                            ∧ (e.retry = false → bits (t.coreAt c).mat.merr 47 32 = (bits (v.coreAt c).mat.merr 47 32 + 1) % 65536)
                            ∧ (e.retry = true → bits (t.coreAt c).mat.merr 31 16 = (bits (v.coreAt c).mat.merr 31 16 + 1) % 65536
                                ∧ (t.coreAt c).mat.retr = (v.coreAt c).mat.retr + 1))
                        ∧ (e.mirrored = true → Config.mirrorAgrees v.fresh = false → e.retry = false → ∃ t, goes t
                            ∧ (t.coreAt c).mat.queue = { e with retry := true, fin := some (s.now + matDuration e.instr) } :: r
                            ∧ ∀ k, (t.oct o).tile k = (v.oct o).tile k)
                        ∧ (e.mirrored = true → Config.mirrorAgrees v.fresh = false → e.retry = true →
                            goes (v.tick1.matFault c 0x11 2 0 e.pc false)))
              ∧ (∀ q, e.instr = .mring q → ((s.coreAt c).mat.full = false → goes s)
                  ∧ ((s.coreAt c).mat.full = true → ∃ t, goes t ∧ (t.coreAt c).mat.queue = rest ∧ (t.coreAt c).mat.cur = (s.coreAt c).mat.inc
                      ∧ (t.coreAt c).mat.curEcc = (s.coreAt c).mat.incEcc ∧ (t.coreAt c).mat.full = false)))
      ∧ (∀ l, (s.coreAt c).mat.fly = some l →
          ∃ t, exec (.mringLanding c) s = .next t ∧ (t.coreAt c).mat.inc = l.1 ∧ (t.coreAt c).mat.full = true ∧ (t.coreAt c).mat.fly = none)
      ∧ (∀ q, e.instr = .mring q →
          (e.start = none → (s.coreAt c).mat.full = false → e.queued + s.timeout (instOf .oct c) < s.now →
              exec (.mringTimeout c) s = .next (s.matFault c 0x0D 7 0 e.pc false))
            ∧ (∀ n, e.start ≠ none → e.fin = some n → n ≤ s.now → (s.coreAt c).mat.full = false →
                exec (.mringTimeout c) s = .next (s.matFault c 0x0D 7 0 e.pc false))
            ∧ let t := s.startMat c e [2] false
              (t.coreAt (s.nextRing c)).mat.fly = some ((s.coreAt c).mat.cur, (s.coreAt c).mat.curEcc)
                ∧ t.timers = s.timers ++ [(s.now + 16, .mringLanding (s.nextRing c))])
      ∧ ((∀ d ∈ octCores o, s.timedDue d = none) →
          (∀ p, (∀ q < 8, s.wants o p (8 * o + q) = false) → exec (.matrixDispatch o p) s = .next s)
            ∧ ∀ q credit, c = 8 * o + q →
              arbitrate (s.oct o).mshare ((List.range 8).filter (fun q => s.wants o 2 (8 * o + q)))
                (fun q => sget 0 (s.oct o).credit (8 + q)) = (some q, credit) →
              e.fin = none → e.start = none → (s.coreAt c).leaving = false →
              ∃ t, exec (.matrixDispatch o 2) s = .next t ∧ ∃ u : State, t = u.startMat c e [2] false ∧ u.cores = s.cores)
      ∧ ∀ i g p, s.timedDue c = some (i, g) → (∀ d ∈ octCores o, d ≠ c → s.timedDue d = none) →
          let late (t : State) : Prop := (∀ q < 8, t.wants o p (8 * o + q) = false) → exec (.matrixDispatch o p) s = .next t
          let past : Prop := ∃ t, g.start = some t ∧ t.toNat < (s.stepOf c).toNat
          (i ≠ 0 → late (s.matFault c 0x0D 6 0 g.pc e.fin.isSome))
            ∧ (i = 0 → (onHalf g.instr = true ↔ p ≠ 2) →
              (past → late (s.matFault c 0x0D 6 0 g.pc false))
                ∧ (¬past → ∀ f x a b d, g.instr = .mma f x a b d →
                    (∀ h, h < 2 → g.half = some h → s.resFree o h = false → s.resOpen o (1 - h) (matDuration g.instr) = false →
                        late (s.matFault c 0x0D 6 0 g.pc false))
                      ∧ (∀ h, h < 2 → g.half = some h → s.resFree o h = true → g.mirror = .off → late (s.startMat c g [h] false)))
                ∧ (¬past → ∀ q, g.instr = .mring q →
                    (s.resFree o 2 = false → late (s.matFault c 0x0D 6 0 g.pc false))
                      ∧ (s.resFree o 2 = true → (s.coreAt (s.nextRing c)).latchEmpty = false → late (s.matFault c 0x0C 5 0 g.pc false))
                      ∧ (s.resFree o 2 = true → (s.coreAt (s.nextRing c)).latchEmpty = true → late (s.startMat c g [2] false))))

/-! ### Ductus rounds, rings and register writes (spec/12 R285 to R296; spec/14 R306) -/

/-- The events of a round. At step 0 of the root's round every unit is sampled (R285): its CNT, how many members have arrived
and been acknowledged, and its members. At step 7 the root judges (R289, R290): a clean round adds 1 to CLEANRUN, 15 at most,
and LEGIT becomes 1 once CLEANRUN reaches CONFIRM; an unclean one clears CLEANRUN, and where LEGIT was 1 GEN gains 1, LEGIT
falls and LOSTSTEP takes the root's STEP; MASK of a unit that the sample found wrong becomes its members. At step 15 every
member's copy is LEGIT and GEN, and the MISSED bits counted clear. A ring's node 0 judges in the same way at step 7 * RRND what
its step 0 has sampled, and its copies follow at step 15 * RRND; at step 0 of its own round a node that has the token unheld passes
it on: node 0 counts up modulo K, another node takes the value of the node before it (R280, R287). A hold beyond HOLD ends with
TOKLOST set (R174, R287). That a unit is sampled by the root's own STEP while the clock is unclean is log 71. -/
def Obligations.DuctusRounds : Prop :=
  (∀ (s : State) (i : Inst),
     let d := s.inst i
     (s.uneven i = false ∨ (s.roundPos i).1 = 0 → ∃ t, exec (.ductusRound i) s = .next t ∧ ∀ u,
         ((t.inst i).unit u).sCnt = (d.unit u).cnt ∧ ((t.inst i).unit u).sMb = (d.unit u).members
           ∧ ((t.inst i).unit u).sPop = ((d.unit u).members.filter (fun c => ((d.unit u).memb c).f && ((d.unit u).memb c).acked)).length
           ∧ ((t.inst i).unit u).cnt = (d.unit u).cnt ∧ ((t.inst i).unit u).mask = (d.unit u).mask)
       ∧ (s.uneven i = true → (s.roundPos i).1 ≠ 0 → ∃ t, exec (.ductusRound i) s = .next t ∧ (t.inst i).units = d.units
           ∧ (t.inst i).legit = d.legit ∧ (t.inst i).gen = d.gen)
       ∧ (∃ t, exec (.auditVerdict i) s = .next t
           ∧ (if d.sTrees && d.sClock && d.sBars then
             (t.inst i).clean = min 15 (d.clean + 1) ∧ (t.inst i).gen = d.gen ∧ (t.inst i).lost = d.lost
               ∧ (t.inst i).legit = (d.legit || decide (s.confirm i ≤ min 15 (d.clean + 1)))
             else (t.inst i).clean = 0 ∧ (t.inst i).legit = false ∧ (t.inst i).gen = (if d.legit then d.gen + 1 else d.gen)
               ∧ (t.inst i).lost = if d.legit then (s.rootStep i).setWidth 32 else d.lost)
           ∧ ∀ u, ((t.inst i).unit u).mask = if (d.unit u).sBad then (d.unit u).sMb else (d.unit u).mask)
       ∧ ∃ t, exec (.copyUpdate i) s = .next t ∧ (t.inst i).cLegit = d.legit ∧ (t.inst i).cGen = d.gen
           ∧ (t.inst i).legit = d.legit ∧ (t.inst i).gen = d.gen
           ∧ ∀ u c, (t.membAt i u c).missed = ((s.membAt i u c).missed && !(s.membAt i u c).missedS)) ∧
  (∀ (s : State) (r : RingId) (c : Nat),
     let x := s.ring r
     let rr := tokkRrnd x.tokk0
     (s.ringPos r ≠ 0 → s.ringPos r = 7 * rr → x.sampled = true → ∃ t, exec (.tokenRingRound r) s = .next t ∧
         if x.sClean then
           (t.ring r).clean = min 15 (x.clean + 1) ∧ (t.ring r).gen = x.gen ∧ (t.ring r).lostStep = x.lostStep
             ∧ (t.ring r).legit = (x.legit || decide (s.confirmRing r ≤ min 15 (x.clean + 1)))
         else (t.ring r).clean = 0 ∧ (t.ring r).legit = false ∧ (t.ring r).gen = (if x.legit then x.gen + 1 else x.gen)
           ∧ (t.ring r).lostStep = if x.legit then (s.stepOf (x.mb.headD 0)).setWidth 32 else x.lostStep)
       ∧ (s.ringPos r ≠ 0 → x.sampled = false → s.ringPos r ≠ 15 * rr → ∃ t, exec (.tokenRingRound r) s = .next t
           ∧ (t.ring r).legit = x.legit ∧ (t.ring r).gen = x.gen ∧ (t.ring r).clean = x.clean)
       ∧ (s.ringPos r ≠ 0 → s.ringPos r = 15 * rr → ∃ t, exec (.tokenRingRound r) s = .next t
           ∧ (t.ring r).cLegit = x.legit ∧ (t.ring r).cGen = x.gen)
       ∧ ((s.ringPos r = 0 → x.pend = []) → x.frozen = false →
           let y := s.ringNow r
           ∃ t, exec (.tokenRingRound r) s = .next t ∧ (s.ringPos r = 0 → (t.ring r).run = x.tokkOf (x.mb.headD 0) ∧ (t.ring r).sampled = true)
             ∧ ∀ n ∈ x.mb, (t.ring r).xv n = if (s.dueMembers x).contains n = true ∧ x.hasToken n = true ∧ sfind x.held n = none then
               (if x.idx n = 0 then (x.xv n + 1) % min 256 (max (tokkK y.tokk0) x.mb.length) else x.xv (x.before n))
             else x.xv n)
       ∧ ((s.ringNow r).overdue s.now c = true → (∀ n ∈ s.sched.nodes, n.2.areas = []) → ∃ t, exec (.tokenHoldTimeout r c) s = .next t
           ∧ sfind (t.ring r).held c = none ∧ (t.coreAt c).toklost = true)
       ∧ ((s.ringNow r).overdue s.now c = false → exec (.tokenHoldTimeout r c) s = .next s))

/-- DPOKE's events (R296) write the one value they name: CNT of a unit, F of a member, x of a ring's member, STEP[31:0] of the
core's clock node (its router, its die, or the coarse count of the pod), the distance of its tree node, GEN. The register
events: TOKK by a member of the ring is stored within its limits (R294), and by another core not; SRSEED re-seeds every
generator (R44); ACCMAP is stored unless another core of the octet holds a tile, which is ILLEGAL (R16); any other register is
written by its access codes (R115). A window boundary applies the last DUTY written, and begins the 64-step change to a divider
written under FORCED, but nothing while FORCED is 1; a divider change ends at the divider it began for (R28); that the change to
1 that FORCED began runs on where FORCED clears is log 72. -/
def Obligations.PokesAndRegisterWrites : Prop :=
  (∀ (s : State) (i : Inst) (r : RingId) (u c : Nat) (v : BitVec 32),
     (∃ t, exec (.dpokeCnt i u v) s = .next t ∧ ((t.inst i).unit u).cnt = v.toNat ∧ t.cores = s.cores)
       ∧ (∃ t, exec (.dpokeF i u c v) s = .next t ∧ (t.membAt i u c).f = v.getLsbD 0 ∧ t.cores = s.cores)
       ∧ ((s.ring r).mb.contains c = true → ∃ t, exec (.dpokeXv r c v) s = .next t ∧ (t.ring r).xv c = v.toNat % 256)
       ∧ ((s.ring r).mb.contains c = false → exec (.dpokeXv r c v) s = .next s)
       ∧ (i.scope = .oct ∨ i.scope = .die → ∃ t, exec (.dpokeStep i c v) s = .next t ∧ (t.stepOf c).setWidth 32 = v
           ∧ t.stepOf c >>> 32 = s.stepOf c >>> 32)
       ∧ (i.scope = .pkg → ∃ t, exec (.dpokeStep i c v) s = .next t ∧ (t.stepAt (dieOf c) 0).setWidth 32 = v)
       ∧ (i.scope = .pod → ∃ t, exec (.dpokeStep i c v) s = .next t ∧ (w64 (t.now / 700) + t.podOff).setWidth 32 = v
           ∧ t.stepOf c = s.stepOf c)
       ∧ (∃ t, exec (.dpokeDist i c v) s = .next t ∧ t.distOf i 0 (t.nodeIn i.scope c) = v.toNat % 16)
       ∧ ∃ t, exec (.dpokeGen i v) s = .next t ∧ (t.inst i).gen = v.setWidth 16 ∧ (t.inst i).legit = (s.inst i).legit) ∧
  (∀ (s : State) (c k reg : Nat) (v : Word),
     let id : RingId := if k < 8 then ⟨dieOf c, k⟩ else ⟨0, k⟩
     ((s.ring id).mb.contains c = true → ∃ t, exec (.tokkWrite c k v) s = .next t
         ∧ (t.ring id).tokkOf c = tokkClamp (s.ring id).mb.length v)
       ∧ ((s.ring id).mb.contains c = false → exec (.tokkWrite c k v) s = .next s)
       ∧ (∃ t, exec (.srseedWrite c k v) s = .next t ∧ (t.ctxAt c k).srseed = v.setWidth 32 ∧ (t.ctxAt c k).sr = [])
       ∧ (v.setWidth 16 &&& s.othersTiles c = 0 → ∃ t, exec (.accmapWrite c k v) s = .next t
           ∧ (t.coreAt c).mat.accmap = v.setWidth 16)
       ∧ (v.setWidth 16 &&& s.othersTiles c ≠ 0 → exec (.accmapWrite c k v) s = .next (s.at_ c k).illegal)
       ∧ (∃ t, exec (.registerWrite c k 0x017 v) s = .next t ∧ (t.coreAt c).ipend = (s.coreAt c).ipend &&& ~~~v)
       ∧ (∃ t, exec (.registerWrite c k 0x018 v) s = .next t ∧ (t.coreAt c).imask = v &&& 0x7F)
       ∧ (sysAcc reg = some .ro → exec (.registerWrite c k reg v) s = .next s)) ∧
  (∀ (s : State) (c : Nat),
     let f := (s.coreAt c).fduty
     (f.forced = false → ∃ t, exec (.fdutyWindowApply c) s = .next t ∧ (t.coreAt c).fduty.duty = f.newDuty.getD f.duty
         ∧ (t.coreAt c).fduty.newDuty = none ∧ (t.coreAt c).fduty.div = f.div ∧ (t.coreAt c).fduty.newDiv = none
         ∧ ∀ d, f.newDiv = some d → d ≠ f.div → (t.coreAt c).fduty.divTo = d ∧ (t.coreAt c).fduty.divDue = some (s.now + 64))
       ∧ (f.forced = true → ∃ t, exec (.fdutyWindowApply c) s = .next t ∧ (t.coreAt c).fduty = f)
       ∧ ∃ t, exec (.dividerChangeComplete c) s = .next t
           ∧ (t.coreAt c).fduty.div = (if f.divDue.isSome then f.divTo else f.div) ∧ (t.coreAt c).fduty.divDue = none)

/-! ### Pages, slices and snapshots (spec/17 R338 to R357; spec/09 R234, R239) -/

/-- A page-fault reply (R343), here with no request in the fault service's own queue, reaches every context that waits: resolved,
it goes on, and an absent page has its new frame, or, of a host-backed object, stays backed as it was (log 12); unresolved, a WAITING helper ends with 0x0A and any
other context takes its fault at the boundary (R137). A buffer entry drains once its time has come (R234). A request is served
at its home (R342); a fill burst makes the whole line valid (R239). An OBB fill makes the object the latest of at most 64
(R338). A frame test writes every word of the frame, whose errors go, and a frame that passes is free again (R376, R386). -/
def Obligations.PageEvents : Prop :=
  (∀ (s : State) (obj pg : Nat) (o : Obj) (e : Extent), s.obj obj = some o → o.extent pg = some e →
     (∀ n ∈ s.sched.nodes, n.2.areas = []) → (∀ d ∈ s.dies, d.2.faults = []) →
     (e.absent = false → ∃ t, exec (.pageFaultReply obj pg true) s = .next t ∧ ∀ c k, (s.ctxAt c k).page = some (obj, pg) →
         (t.ctxAt c k).page = none ∧ (t.ctxAt c k).st = if (s.ctxAt c k).st = .waiting then .live else (s.ctxAt c k).st)
       ∧ (e.absent = true → (o.remap pg id).isSome = true →
           (e.back = 0 → ∀ u f n r, s.pickFrames o.die 1 = (u, some ((f, n) :: r)) →
               ∃ t, exec (.pageFaultReply obj pg true) s = .next t ∧ (t.obj obj).bind (fun o => o.extent pg) =
                 some { e with first := pg, count := 1, absent := false, stack := f / 2 ^ 20, frame := f % 2 ^ 20 })
             ∧ (e.back ≠ 0 → ∃ t, exec (.pageFaultReply obj pg true) s = .next t ∧ (t.obj obj).bind (fun o => o.extent pg) =
                 some { e with first := pg, count := 1, absent := false, frame := e.frame + (pg - e.first) }))
       ∧ ∃ t, exec (.pageFaultReply obj pg false) s = .next t ∧ ∀ c k, (s.ctxAt c k).page = some (obj, pg) →
           if (s.ctxAt c k).st = .waiting then (t.ctxAt c k).st = .exited ∧ (t.ctxAt c k).status = w64 (2 ^ 63 + 0x0A)
           else (t.ctxAt c k).pageBad = true ∧ (t.ctxAt c k).st = (s.ctxAt c k).st) ∧
  (∀ (s : State) (c : Nat) (e : CbEntry), (s.coreAt c).cache.cbuf = [e] → e.wcomb = false → e.held = false →
     (e.due ≤ s.now → exec (.coalescingBufferDrain c) s = .next (s.bufDrain c e).1)
       ∧ (s.now < e.due → exec (.coalescingBufferDrain c) s = .next s)) ∧
  (∀ (s : State) (c cid n : Nat) (a : Word) (data : List Byte),
     exec (.sliceRequest c cid a n .read) s = .next (s.rawRead c a n cid).1
       ∧ exec (.sliceRequest c cid a n (.write data)) s = .next (s.rawWrite c a data cid).1
       ∧ (s.bypassed a = false → exec (.sliceRequest c cid a n .prefetch) s =
           .next ((s.homeRead c (idOf a) (offOf a / 32 * 32) 32 cid).1.keepTree s a))
       ∧ (s.bypassed a = true → exec (.sliceRequest c cid a n .prefetch) s = .next s)
       ∧ ∀ h, s.homeOf (idOf a) (offOf a / 256 * 256) = some h → (s.die h.die).named = false → h.ext.back = 0 →
           h.ext.ty ≠ .device → s.mustWait h = false → ((s.die h.die).slice h.slot).lines h.set = [] →
           ((s.die h.die).slice h.slot).quar = [] → (s.die h.die).pinsLost = [] → s.hbmEcc = {} →
           ((s.die h.die).mask h.obj.dom).getLsbD 20 = false →
           ∃ t l, exec (.sliceFillBurst c cid a) s = .next t
             ∧ ((t.die h.die).slice h.slot).find h.set h.key = some l ∧ l.valid = 0xFF ∧ l.dirty = 0
             ∧ ∀ j, j < 256 → l.data.read j = s.hbm.read (h.hbm + j)) ∧
  (∀ (s : State) (c obj die stack frame : Nat),
     ((s.obj obj).isSome = true → ∃ t, exec (.obbFill c obj) s = .next t
         ∧ (t.coreAt c).cache.obb.getLast?.map (fun e => e.id) = some obj ∧ (t.coreAt c).cache.obb.length ≤ 64)
       ∧ (s.obj obj = none → exec (.obbFill c obj) s = .next s)
       ∧ ∀ pass, ∃ t, exec (.frameTest die stack frame pass) s = .next t
           ∧ (pass = true → frameKey die stack frame ∉ t.frames) ∧ (pass = false → t.frames = s.frames)
           ∧ ∀ w, if w / 8192 = frameKey die stack frame then sfind t.hbmEcc.flips w = none ∧ w ∉ t.hbmEcc.poison
               else sfind t.hbmEcc.flips w = sfind s.hbmEcc.flips w ∧ (w ∈ t.hbmEcc.poison ↔ w ∈ s.hbmEcc.poison))

/-- Migration, splits and snapshots. A migration of a resident page whose extent list can hold the change marks the page and
switches 256 steps later (R345; the time is the model's choice, log 23); the switch copies the page to its new frame and maps it
there, or retires a destination that fails its test (R346). A split (R347) moves slots from one domain to an empty one and walks
every set, the walk dropping lines whose home has moved, and its last set ends the split, whose domains stay SPLIT only for
another split of theirs; a target domain with members, slots that the source does not hold, or all of its slots (log 71), are
refused. A snapshot's drain sends the next line, with its place at the destination, from its copy, as poisoned where the copy met
an uncorrectable word; an absent page as a marker, behind its lines copied before, and its frame returns to the pool; at the end of
the object, once 32 steps have passed since T at every home (log 71), it sends its record (R354 to R356). -/
def Obligations.PagesOnTheMove : Prop :=
  (∀ (s : State) (obj pg stack frame : Nat) (o : Obj) (e : Extent), s.obj obj = some o → o.extent pg = some e →
     (o.remap pg id).isSome = true →
     (e.absent = false → e.back = 0 → (s.die o.die).migr = [] → s.snaps = [] →
         ∃ t, exec (.pageMigration obj pg stack frame) s = .next t ∧ (t.die o.die).migr = [{ obj := obj, pg := pg, stack := stack, frame := frame }]
           ∧ t.timers = s.timers ++ [(s.now + 256, .migrationSwitch obj pg)])
       ∧ (e.absent = true ∨ e.back ≠ 0 → exec (.pageMigration obj pg stack frame) s = .next s)
       ∧ ((s.die o.die).migr = [{ obj := obj, pg := pg, stack := stack, frame := frame }] → s.hbmEcc = {} → s.hbm.wf = true →
           (∀ n ∈ s.sched.nodes, n.2.areas = []) → (∀ d ∈ s.dies, d.2.faults = []) →
           ∃ t, exec (.migrationSwitch obj pg) s = .next t ∧ (t.die o.die).migr = []
             ∧ if Config.frameGood o.die stack frame then
                 (t.obj obj).bind (fun o => o.extent pg) = some { e with first := pg, count := 1, stack := stack, frame := frame }
                   ∧ ∀ j, j < 65536 → t.hbm.read (frameKey o.die stack frame * 65536 + j) =
                       s.hbm.read (frameKey o.die e.stack (e.frame + (pg - e.first)) * 65536 + j)
               else t.obj obj = some o ∧ frameKey o.die stack frame ∈ t.frames ∧ ∀ j, t.hbm.read j = s.hbm.read j)) ∧
  (∀ (s : State) (die d e : Nat) (slots : BitVec 16), s.snaps = [] →
     let md := (s.die die).mask d
     let me := (s.die die).mask e
     (bits me 15 0 = 0 → slots ≠ 0 → slots &&& ~~~(md.setWidth 16) = 0 → slots ≠ md.setWidth 16 → ∃ t, exec (.domainSplit die d e slots) s = .next t
         ∧ bits ((t.die die).mask d) 15 0 = bits (md &&& ~~~(slots.setWidth 64)) 15 0
         ∧ bits ((t.die die).mask e) 15 0 = slots.toNat ∧ bits ((t.die die).mask e) 19 16 = bits md 19 16
         ∧ ((t.die die).mask d).getLsbD 20 = true ∧ ((t.die die).mask e).getLsbD 20 = true
         ∧ t.timers = s.timers ++ (List.range 1024).map (fun k => (s.now + 4 * k, .splitWalk die d k)))
       ∧ (bits me 15 0 ≠ 0 ∨ slots &&& ~~~(md.setWidth 16) ≠ 0 ∨ slots = md.setWidth 16 → exec (.domainSplit die d e slots) s = .next s)) ∧
  (∀ (s : State) (die d set o : Nat) (sl : Slice) (l : SliceLine) (h : Home),
     (s.die die).slices = [(o, sl)] → sl.lines set = [l] → s.homeOf (l.key / 2 ^ 32) (l.key % 2 ^ 32 * 256) = some h →
     h.die = die → h.set = set → h.obj.dom = d → h.slot ≠ o → l.dirty = 0 →
     ∃ t, exec (.splitWalk die d set) s = .next t ∧ ((t.die die).slice o).lines set = []
       ∧ (∀ e, set = 1023 → (s.die die).splits = [(d, e)] → (t.die die).splits = []
           ∧ ((t.die die).mask d).getLsbD 20 = false ∧ ((t.die die).mask e).getLsbD 20 = false)
       ∧ ∀ e f, set = 1023 → (s.die die).splits = [(d, e), (d, f)] → e ≠ d → e ≠ f → (t.die die).splits = [(d, f)]
           ∧ ((t.die die).mask d).getLsbD 20 = ((s.die die).mask d).getLsbD 20 ∧ ((t.die die).mask e).getLsbD 20 = false) ∧
  (∀ (s : State) (obj : Nat) (n : Snap) (o : Obj), s.snaps.find? (fun m => m.obj == obj) = some n → s.obj obj = some o →
     (o.size ≤ n.next / 256 → (∃ p ∈ s.homesOf obj, (s.stepAt p.1 p.2).toNat ≤ n.t + 32) → exec (.snapshotDrain obj) s = .next s)
       ∧ (o.size ≤ n.next / 256 → (∀ p ∈ s.homesOf obj, n.t + 32 < (s.stepAt p.1 p.2).toNat) → ∃ t, exec (.snapshotDrain obj) s = .next t
         ∧ t.outbox = s.outbox ++ [.snapDone n.obj n.t n.sent n.copied n.bad n.suspect false])
       ∧ ∀ h, n.next / 256 < o.size → s.homeOf obj (n.next * 256) = some h → n.t ≤ (s.stepAt h.die h.slot).toNat →
           (h.ext.absent = true → ∃ t, exec (.snapshotDrain obj) s = .next t
               ∧ t.outbox = s.outbox ++ (n.copies.filter (fun e => e.1 / 256 == n.next / 256)).map (fun e =>
                   HostMsg.snapLine obj e.1 (n.dest + w64 (256 * e.1)) (some e.2.1) (e.2.2 != 0))
                 ++ [.snapLine obj n.next (n.dest + w64 (256 * n.next)) none false]
               ∧ ∀ m ∈ t.snaps, m.obj = obj → n.next / 256 ∉ m.used)
             ∧ ∀ bs bad, h.ext.absent = false → sfind n.copies n.next = some (bs, bad) →
               ∃ t, exec (.snapshotDrain obj) s = .next t ∧ t.outbox = s.outbox ++ [.snapLine obj n.next (n.dest + w64 (256 * n.next)) (some bs) (bad != 0)])


/-! ### The scheduler (spec/16 R311 to R334) -/

/-- A pass with nothing waiting changes nothing; a node that alone waits and is dispatchable is dispatched (R319, R321): RUNNING,
with the next sequence number and the divider of R324, woken on every core of its range. A wake powers the core on, which draws on
the slot's allowance (R360, R367; what it draws is a free value, log 25), and sets event bit 5 in context 0 (R313; in context 0 is
the model's reading, log 24). At its start a core begins at ENTRY in context 0, LIVE, with
the record's PRIV and the step in TASKSTEP; general registers are zeroed unless the core's previous launch had the same CID (R314).
A core that starts its part of a DRAINING launch is asked to leave at once (R326); a launch that is neither RUNNING nor DRAINING
does not start. With a PINNED launch its rows stand at DUTY 16, from its start on (log 72), and its octet does not pounce
(R365). -/
def Obligations.LaunchesStart : Prop :=
  (∀ (s : State), (∀ e ∈ s.sched.nodes, e.2.waits = false) → exec .dispatchPass s = .next s) ∧
  (∀ (s : State) (n : Nat) (x : Node), s.sched.nodes = [(n, x)] → x.st = .ready → x.level < 8 → s.dispatchable n = true →
     ∃ t, exec .dispatchPass s = .next t ∧ (t.node n).st = .running ∧ (t.node n).seq = s.sched.seq + 1
       ∧ (t.node n).div = divCode (s.pickDivider n)
       ∧ ∀ c ∈ x.rec_.cores, ((t.coreAt c).run.next.map (·.1)) = some n ∧ Event.wakeMessage c n ∈ t.agenda) ∧
  (∀ (s : State) (c n : Nat),
     ((s.node n).rec_.hasCore c = true → ∃ t, exec (.wakeMessage c n) s = .next t ∧ (t.coreAt c).powered = true
         ∧ (t.ctxAt c 0).latch = (s.ctxAt c 0).latch ||| 32
         ∧ sget 0 t.gov.used s.slotNow = sget 0 s.gov.used s.slotNow + (if (s.coreAt c).powered = true then 0 else Config.switchPower))
       ∧ ((s.node n).rec_.hasCore c = false → exec (.wakeMessage c n) s = .next s)) ∧
  (∀ (s : State) (c n at_ : Nat), (s.coreAt c).run.next = some (n, at_) → (s.node n).st = .running ∨ (s.node n).st = .draining →
     let r := (s.node n).rec_
     ∃ t, exec (.launchStart c) s = .next t ∧ (t.ctxAt c 0).st = .live ∧ (t.ctxAt c 0).q0.addr = lineOf r.entry
       ∧ (t.ctxAt c 0).cstat = mkCstat 0 r.priv false false false false ∧ (t.coreAt c).taskstep = s.stepOf c
       ∧ (t.coreAt c).run.node = some n ∧ (t.coreAt c).run.next = none
       ∧ (t.coreAt c).run.preempt = decide ((s.node n).st = .draining)
       ∧ (r.pinned = true → (t.coreAt c).fduty.duty = 16 ∧ (t.coreAt c).fduty.newDuty = none ∧ (t.oct (octOf c)).level = 0)
       ∧ ∀ a, (t.ctxAt c 0).reg a = if (s.coreAt c).run.prev = some r.cid then (s.ctxAt c 0).reg a else 0) ∧
  (∀ (s : State) (c n at_ : Nat), (s.coreAt c).run.next = some (n, at_) → (s.node n).st ≠ .running → (s.node n).st ≠ .draining →
     ∃ t, exec (.launchStart c) s = .next t ∧ (t.coreAt c).run.next = none ∧ (t.coreAt c).ctxs = (s.coreAt c).ctxs
       ∧ (t.coreAt c).run.node = (s.coreAt c).run.node) ∧
  (∀ (s : State) (c : Nat), (s.coreAt c).run.next = none → exec (.launchStart c) s = .next s) ∧
  (∀ (s : State) (c : Nat), (((s.pinRow c).die (dieOf c)).row (rowOf c)).duty = 16
     ∧ ∀ d, d ≠ c → (sfind s.cores d).isSome = true → rowOf d = rowOf c → dieOf d = dieOf c → ((s.pinRow c).coreAt d).fduty.written.1 = 16)

/-- A node that waits AGE rises one level (R322). When PDELAY has passed for a waiting node, a pre-empt message goes to each
launch that stands in its way (R322); the message makes a running launch DRAINING and asks its cores to leave, but not one with
NOPREEMPT (R326). A core of a launch being pre-empted that may leave, with no error waiting to be met, and whose buffers and area
are written, is free, its area kept (R328); until then it stays as it is. The area that a resumption reads is the kept record, not
the bytes in memory (log 22). A draining launch that has kept its phase open too long
is FAILED, its cores free (R327). A SAVED launch resumes with its registers, statuses and CSTAT (R334); of any other launch only
the cores held for it are given up. -/
def Obligations.LaunchesAreSwitched : Prop :=
  (∀ (s : State) (n : Nat),
     ((s.node n).waits = true → ∃ t, exec (.ageExpiry n) s = .next t ∧ (t.node n).level = (s.node n).level - 1
         ∧ (t.node n).agedAt = s.now ∧ (t.node n).st = (s.node n).st)
       ∧ ((s.node n).waits = false → ∃ t, exec (.ageExpiry n) s = .next t ∧ t.node n = s.node n)
       ∧ ((s.node n).waits = true → ∃ t, exec (.pdelayExpiry n) s = .next t ∧ (t.node n).pdelay = false
           ∧ t.agenda = s.agenda ++ (s.blockers n).map .preemptMessage)
       ∧ ((s.node n).waits = false → ∃ t, exec (.pdelayExpiry n) s = .next t ∧ (t.node n).pdelay = false ∧ t.agenda = s.agenda)
       ∧ ((s.node n).st = .running → (s.node n).rec_.nopreempt = false → ∃ t, exec (.preemptMessage n) s = .next t
           ∧ (t.node n).st = .draining
           ∧ ∀ c ∈ (s.node n).rec_.cores, (s.coreAt c).run.node = some n → (t.coreAt c).run.preempt = true)
       ∧ ((s.node n).rec_.nopreempt = true ∨ (s.node n).st ≠ .running → exec (.preemptMessage n) s = .next s)
       ∧ ((s.node n).st = .draining → ∃ t, exec (.xmaxlenExpiry n) s = .next t ∧ (t.node n).st = .failed
           ∧ ∀ c, (s.coreAt c).run.node = some n → (t.coreAt c).run.node = none ∧ (t.coreAt c).cache.cbuf = [])
       ∧ ((s.node n).st ≠ .draining → exec (.xmaxlenExpiry n) s = .next s)
       ∧ ((s.node n).st ≠ .saved → ∃ t, exec (.resume n) s = .next t ∧ t.sched = s.sched
           ∧ ∀ c, (t.coreAt c).run = if (s.coreAt c).run.next.map (·.1) = some n then { (s.coreAt c).run with next := none }
               else (s.coreAt c).run)
       ∧ ∀ c a, (s.node n).st = .saved → (s.node n).areas = [(c, a)] → ∃ t, exec (.resume n) s = .next t
           ∧ (t.node n).st = .running ∧ (t.node n).areas = [] ∧ (t.coreAt c).run.preempt = false
           ∧ ∀ k, (t.ctxAt c k).g = (a.core.ctxAt k).g ∧ (t.ctxAt c k).cstat = (a.core.ctxAt k).cstat
               ∧ (t.ctxAt c k).status = (a.core.ctxAt k).status) ∧
  (∀ (s m u v w : State) (c n : Nat), (s.coreAt c).run.node = some n → (s.coreAt c).run.preempt = true →
     (s.coreAt c).mayLeave = true → s.lastOfShared c = true → s.meetAll c = (m, false) →
     m.bufDrainAll c (fun _ => true) = (u, true) → u.flushPrivate c = (v, true) → v.writeArea c n = (w, true) →
     ∃ t, exec (.switchOut c) s = .next t ∧ (t.coreAt c).run.node = none ∧ (t.coreAt c).mat.accmap = 0
       ∧ c ∈ (t.node n).out ∧ sfind (t.node n).areas c = some (w.saveArea c)) ∧
  (∀ (s : State) (c : Nat), (s.coreAt c).run.node = none ∨ (s.coreAt c).run.preempt = false ∨ (s.coreAt c).mayLeave = false →
     exec (.switchOut c) s = .next s)

/-! ### The governor (spec/18 R358 to R369; spec/21 R413) -/

/-- A slot boundary puts GOVCFG into effect, and GOVSTAT holds the new estimate, a free value (log 25), and its change, which is
within RATE of the slot before unless a release or a PINNED launch has stepped beyond it (R358, R359, R363, R365). A pounce level
that has stood for 700 steps falls by DECAY, which draws on the slot (R360, R362). The budget pass asks 16 for a row without demand, and its share for one with it
(R366), and the raises are then served from what the slot allows: a fall is written at once, a rise waits for the slots (R361), and
a row of a PINNED launch takes neither (R365). A
core that has been idle for 7,000 steps loses its power by its switch, its memory kept, and no other core does (R367). A droop
enters the row's signature in its table of 32 where it is not there, and counts (R368); a match begins and counts a pre-throttle
of 256 cycles of each core, whose end clears its bit. A hot die's duty falls to the controllers' value, a free one (log 25), and
never rises, by at most RATE in a slot (R413). -/
def Obligations.GovernorEvents : Prop :=
  (∀ (s : State), ∃ t, exec .rampSlotBoundary s = .next t ∧ t.gov.eff = s.gov.cfg ∧ t.gov.cfg = s.gov.cfg
     ∧ (∃ free, bits t.gov.stat 63 48 = ({ s with gov := { s.gov with eff := s.gov.cfg } } : State).estimate s.slotNow (bits s.gov.stat 63 48) free)
     ∧ (s.gov.loose = false → (∀ e ∈ s.sched.nodes, e.2.rec_.pinned = false) →
         max (bits t.gov.stat 63 48) (bits s.gov.stat 63 48) - min (bits t.gov.stat 63 48) (bits s.gov.stat 63 48) ≤ t.rate)
     ∧ (bits t.gov.stat 47 32 + bits s.gov.stat 63 48) % 65536 = bits t.gov.stat 63 48) ∧
  (∀ (s : State) (o : Nat),
     ((s.oct o).level = 0 ∨ s.now - (s.oct o).levelAt < 700 → exec (.pounceLevelDecay o) s = .next s)
       ∧ ((s.oct o).level ≠ 0 → 700 ≤ s.now - (s.oct o).levelAt → ∃ t, exec (.pounceLevelDecay o) s = .next t
         ∧ (t.oct o).level = (s.oct o).level - bits s.gov.eff 19 18 ∧ (t.oct o).wear = (s.oct o).wear ∧ (t.oct o).levelAt = s.now
         ∧ sget 0 t.gov.used s.slotNow = sget 0 s.gov.used s.slotNow + min (s.oct o).level (bits s.gov.eff 19 18) * Config.pouncePower)) ∧
  (∀ (s : State) (c : Nat) (x : Core), s.cores = [(c, x)] →
     let dem := s.demand (rowOf c) (dieOf c)
     let free := bits s.gov.eff 63 48 - Config.fixedPower s.slotNow
     exec .budgetControllerPass s = .next (s.setDuty (rowOf c) (dieOf c)
       (if dem = 0 then 16 else min 16 (max 1 (16 * 100 * free * 384 / (max 1 s.rowp * max 1 dem))))).serveRaises) ∧
  (∀ (s : State) (row die d : Nat),
     let old := ((s.die die).row row).duty
     (s.rowPinned row die = true → s.setDuty row die d = s)
       ∧ (s.rowPinned row die = false → d ≤ old → (((s.setDuty row die d).die die).row row).duty = d)
       ∧ (s.rowPinned row die = false → old < d → (((s.setDuty row die d).die die).row row).duty = old ∧ (row, die, d) ∈ (s.setDuty row die d).gov.raises)) ∧
  (∀ (s : State) (c : Nat),
     ((s.coreAt c).switchable = true → 7000 ≤ s.now - (s.coreAt c).idleSince →
         ∃ t, exec (.powerSwitchOff c) s = .next t ∧ (t.coreAt c).powered = false ∧ (t.coreAt c).loc = (s.coreAt c).loc)
       ∧ ((s.coreAt c).switchable = false ∨ s.now - (s.coreAt c).idleSince < 7000 → exec (.powerSwitchOff c) s = .next s)) ∧
  (∀ (s : State) (die row : Nat),
     let x := (s.die die).row row
     (∃ t, exec (.droopEvent die row) s = .next t ∧ bits ((t.die die).row row).rowpwr 47 32 = (bits x.rowpwr 47 32 + 1) % 65536
         ∧ (x.table.contains x.sig = true → ((t.die die).row row).table = x.table)
         ∧ (x.table.contains x.sig = false → x.sig ∈ ((t.die die).row row).table ∧ ((t.die die).row row).table.length ≤ 32))
       ∧ (∃ t, exec (.prethrottleStart die row) s = .next t ∧ ((t.die die).row row).thrAt = some s.now
           ∧ ((t.die die).row row).rowpwr.getLsbD 1 = true ∧ (∀ c ∈ s.rowListed row die, (t.coreAt c).thr = 256)
           ∧ bits ((t.die die).row row).rowpwr 63 48 = (bits x.rowpwr 63 48 + 1) % 65536)
       ∧ (∃ t, exec (.prethrottleEnd die row) s = .next t ∧ ((t.die die).row row).thrAt = none
           ∧ ((t.die die).row row).rowpwr.getLsbD 1 = false)
       ∧ ∃ t, exec (.dieThrottle die) s = .next t ∧ t.dies = s.dies ∧ ∀ r, (r, die) ∈ s.rowsListed → s.rowPinned r die = false →
           1 + Config.throttleDuty s.fresh % 16 < ((s.die die).row r).duty → (r, die, 1 + Config.throttleDuty s.fresh % 16) ∈ t.gov.falls) ∧
  (∀ (s : State) (row die want : Nat), s.gov.falls = [(row, die, want)] →
     (((s.serveFalls).die die).row row).duty =
       ((s.die die).row row).duty - min (((s.die die).row row).duty - want) (s.rate * 1600 / max 1 s.rowp))

/-! ### Faults, failures and soft errors (spec/19 R374 to R393; spec/21 R413) -/

/-- A device-level fault of a CID stops its cores, discards their queues, commands and buffered stores, fails its nodes and
sends one record (R380); one that terminates the CID fails its waiting nodes too and takes its residency (R381). A record of kind 13
strikes no context and changes nothing else (log 71, with log 62). Scrubbing corrects a single bit of HBM or of TCM, poisons a word
of two, which it tells the host, and faults nobody (R375, R376, R388); it pauses while a phase is open on the die (R276). The
progress of its pass is a free value (log 38), and a pass that has ended tells in SCRUBLATE whether it took more than 24 hours
(R388, R393). Recalibration of a link or of HBM changes nothing, and is put off while a phase is open (R276, R388); telemetry sends
every connection a record in its version, whose contents are free (R388, R404; log 26). -/
def Obligations.DeviceFaultsAndScrubbing : Prop :=
  (∀ (s : State) (cid kind : Nat) (addr : Word) (core : Nat) (ecause : Word),
     (kind ≠ 13 → ∃ t, exec (.deviceLevelFault cid kind addr core ecause) s = .next t
         ∧ (∀ c, (s.coreAt c).run.node.isSome = true → (s.coreAt c).cid = cid →
             (t.coreAt c).run.node = none ∧ (t.coreAt c).vec.queue = [] ∧ (t.coreAt c).mat.queue = [] ∧ (t.coreAt c).engs = []
               ∧ (t.coreAt c).cache.cbuf = [])
         ∧ (∀ n, (s.node n).rec_.cid = cid → (s.node n).st = .running ∨ (s.node n).st = .draining ∨ (s.node n).st = .saved →
             (t.node n).st = .failed)
         ∧ (terminates kind = true → cid ∉ t.sched.resident
             ∧ ∀ n, (s.node n).rec_.cid = cid → (s.node n).st ≠ .free → (t.node n).st = .failed)
         ∧ ∃ ws, t.outbox = s.outbox ++ [.fault ws] ∧ ws[1]? = some addr ∧ ws[3]? = some ecause)
       ∧ (kind = 13 → ∃ t ws, exec (.deviceLevelFault cid kind addr core ecause) s = .next t
           ∧ t = s.tell (.fault ws) ∧ ws[1]? = some addr ∧ ws[3]? = some ecause)) ∧
  (∀ (s : State) (x : ErrTarget) (die : Nat), s.scrubDie x = some die → s.phaseOpen die = true → exec (.patrolScrub x) s = .next s) ∧
  (∀ (s : State) (x : ErrTarget) (die : Nat), s.scrubDie x = some die → s.phaseOpen die = false →
     let u := s.scrub x
     let r := (u.die die).rasstat
     let p := Config.scrubPass u.fresh % 65536
     ∃ t, exec (.patrolScrub x) s = .next t ∧ bits (t.die die).rasstat 15 0 = p ∧ t.cores = u.cores ∧ t.hbm = u.hbm
       ∧ t.hbmEcc = u.hbmEcc ∧ t.outbox = u.outbox
       ∧ (bits r 15 0 ≤ p → (t.die die).rasstat.getLsbD 16 = r.getLsbD 16)
       ∧ (p < bits r 15 0 → (t.die die).rasstat.getLsbD 16 = decide (scrubDay < s.now - (u.die die).passAt) ∧ (t.die die).passAt = s.now)) ∧
  (∀ (s : State) (die fa : Nat) (f : BitVec 64),
     let w := (die * 2 ^ 37 + fa / 8 * 8) / 8
     s.hbmEcc.poison.contains w = false → sfind s.hbmEcc.flips w = some f →
     let t := s.scrub (.hbm die fa)
     t.hbm = s.hbm ∧ t.cores = s.cores ∧ t.agenda = s.agenda
       ∧ (popcount f = 1 → t.hbmEcc.flips = sdel s.hbmEcc.flips w ∧ t.hbmEcc.poison = s.hbmEcc.poison ∧ t.outbox = s.outbox)
       ∧ (popcount f = 2 → t.hbmEcc.flips = sdel s.hbmEcc.flips w ∧ t.hbmEcc.poison = s.hbmEcc.poison ++ [w]
           ∧ ∃ ws, t.outbox = s.outbox ++ [.fault ws] ∧ ws[1]? = some (w64 (8 * w)))) ∧
  (∀ (s : State) (c la : Nat) (f : BitVec 64), (s.coreAt c).loc.ecc.poison.contains (la / 8) = false →
     sfind (s.coreAt c).loc.ecc.flips (la / 8) = some f → popcount f = 1 →
     let t := s.scrub (.tcm c la)
     (t.coreAt c).loc.tcm = (s.coreAt c).loc.tcm ∧ (t.coreAt c).loc.ecc.flips = sdel (s.coreAt c).loc.ecc.flips (la / 8)
       ∧ bits (t.coreAt c).eccstat 47 32 = (bits (s.coreAt c).eccstat 47 32 + 1) % 65536 ∧ t.outbox = s.outbox) ∧
  (∀ (s : State) (l : LinkId) (die stack : Nat),
     ((∀ d ∈ linkDies l, s.phaseOpen d = false) → exec (.linkRecalibration l) s = .next s)
       ∧ ((∃ d ∈ linkDies l, s.phaseOpen d = true) → exec (.linkRecalibration l) s = .next (s.after 1 (.linkRecalibration l)))
       ∧ (s.phaseOpen die = false → exec (.hbmRecalibration die stack) s = .next s)
       ∧ (s.phaseOpen die = true → exec (.hbmRecalibration die stack) s = .next (s.after 1 (.hbmRecalibration die stack)))
       ∧ ∃ t vs, exec .telemetry s = .next t ∧ vs.length = s.conns.length ∧ t.cores = s.cores ∧ t.hbm = s.hbm
         ∧ t.outbox = s.outbox ++ (s.conns.zip vs).map (fun p => HostMsg.telemetry p.1.id p.1.tele p.2))

/-- Named failures (R389): a link that times out is pending and is named in its time; named, it leaves the pending ones with a
record and its instance's next round is unclean. Another module of the pod is named once, and the pending failures of the links that
lead to it are absorbed. A dead router joins the dead ones, its die holds XBAR arrivals and new routes are due; they wait for open
phases, then lead round what is dead, release the hold, count and make the die's next round unclean, and a die that they cannot
connect is named (R390). A die that times out or trips is named, and a tripped one's cores and pounce stop (R413). A soft error
flips the stored value it strikes: LEGIT, an accumulator element, a TCM or HBM word as it is next read (R374, R375); one in a
general register, a vector register, a queue entry or a PC queue waits for the next read of it, where a single bit is corrected and
more are a device-level fault (R377): a register's is met by the next instruction that reads it. That an entry keeps whether more
than one bit has flipped, and that a PC queue's errors are met together at the context's next issue, is log 51. -/
def Obligations.NamedFailuresAndSoftErrors : Prop :=
  (∀ (s : State) (l : LinkId),
     (l ∉ s.pendingLinks → l ∉ s.deadLinks → ∃ t, exec (.linkTimeout l) s = .next t ∧ t.pendingLinks = s.pendingLinks ++ [l]
         ∧ t.timers = s.timers ++ [(s.now + linkWait l, .linkFailureNamed l)])
       ∧ (l ∈ s.pendingLinks ∨ l ∈ s.deadLinks → exec (.linkTimeout l) s = .next s)
       ∧ (l ∈ s.pendingLinks → ∃ t ws, exec (.linkFailureNamed l) s = .next t
           ∧ l ∉ t.pendingLinks ∧ l ∈ t.deadLinks ∧ t.outbox = s.outbox ++ [.fault ws] ∧ t.cores = s.cores
           ∧ (t.inst (match l with | .router d _ _ => ⟨.die, d⟩ | .dieLink .. => ⟨.pkg, 0⟩ | .eth .. => ⟨.pod, 0⟩)).spoil = true)
       ∧ (l ∉ s.pendingLinks → exec (.linkFailureNamed l) s = .next s)) ∧
  (∀ (s : State) (die r m : Nat),
     (r ∉ (s.die die).deadRouters → ∃ t, exec (.routerTimeout die r) s = .next t ∧ r ∈ (t.die die).deadRouters
         ∧ (t.die die).xhold = true ∧ Event.routeRecomputation die ∈ t.agenda)
       ∧ (r ∈ (s.die die).deadRouters → exec (.routerTimeout die r) s = .next s)
       ∧ (∃ t, exec (.dieTimeout die) s = .next t ∧ (t.die die).named = true)
       ∧ (m < s.podsize → m ≠ s.modno → m ∉ s.deadMods → ∃ t, exec (.moduleTimeout m) s = .next t ∧ (t.inst ⟨.pod, 0⟩).spoil = true
           ∧ t.deadMods = s.deadMods ++ [m] ∧ ∀ d, LinkId.eth d m ∉ t.pendingLinks)
       ∧ (s.podsize ≤ m ∨ m = s.modno ∨ m ∈ s.deadMods → exec (.moduleTimeout m) s = .next s)
       ∧ (s.phaseOpen die = true → exec (.routeRecomputation die) s = .next (s.after 1 (.routeRecomputation die)))
       ∧ (s.phaseOpen die = false → ∃ t, exec (.routeRecomputation die) s = .next t ∧ (t.die die).xhold = false
           ∧ bits (t.die die).rasstat 47 32 = (bits (s.die die).rasstat 47 32 + 1) % 65536 ∧ (t.inst ⟨.die, die⟩).spoil = true
           ∧ (t.die die).routeDead = (s.die die).deadRouters
           ∧ ((s.modDie die Die.routed).dieConnects die = false → (t.die die).named = true))
       ∧ ∃ t, exec (.dieTrip die) s = .next t ∧ (t.die die).named = true ∧ (∀ o, o / 240 = die → (t.oct o).level = 0)
           ∧ ∀ c, dieOf c = die → (sfind s.cores c).isSome = true → (t.coreAt c).powered = false) ∧
  (∀ (s : State) (i : Inst) (c k o tile e : Nat) (la : Nat) (mask : BitVec 64),
     (∃ t, exec (.softError (.legit i) mask) s = .next t ∧ (t.inst i).legit = ((s.inst i).legit ^^ mask.getLsbD 0))
       ∧ (∃ t, exec (.softError (.acc o tile e) mask) s = .next t
           ∧ sget 0 ((t.oct o).tile tile).el e = sget 0 ((s.oct o).tile tile).el e ^^^ mask.setWidth 32)
       ∧ (∃ t, exec (.softError (.tcm c la) mask) s = .next t ∧ (t.coreAt c).loc.ecc = eccFlip (s.coreAt c).loc.ecc la mask
           ∧ (t.coreAt c).loc.tcm = (s.coreAt c).loc.tcm)
       ∧ (∃ t, exec (.softError (.hbm o la) mask) s = .next t ∧ t.hbmEcc = eccFlip s.hbmEcc (o * 2 ^ 37 + la) mask ∧ t.hbm = s.hbm)
       ∧ (mask ≠ 0 →
           let more (old : Option Bool) : Option Bool := some (popcount mask != 1 || old.isSome)
           (∀ r, r ≠ 0 → ∃ t, exec (.softError (.greg c k r) mask) s = .next t
               ∧ sfind (t.ctxAt c k).hurt r = more (sfind (s.ctxAt c k).hurt r) ∧ ∀ a, (t.ctxAt c k).reg a = (s.ctxAt c k).reg a)
             ∧ (∀ r, ∃ t, exec (.softError (.vreg c r) mask) s = .next t
               ∧ sfind (t.coreAt c).vec.hurt r = more (sfind (s.coreAt c).vec.hurt r) ∧ (t.coreAt c).vec.v = (s.coreAt c).vec.v)
             ∧ (∀ j v, (s.coreAt c).vec.queue[j]? = some v → ∃ t, exec (.softError (.queue c 0 j) mask) s = .next t
               ∧ (t.coreAt c).vec.queue[j]? = some { v with hurt := more v.hurt })
             ∧ ∃ t, exec (.softError (.pcq c k) mask) s = .next t ∧ t.coreAt c = { s.coreAt c with
                 struck := (s.coreAt c).struck ++ [{ ctx := k, dbl := popcount mask != 1 }] })) ∧
  (∀ (s : State) (c src : Nat) (errs : List Bool),
     let t := (s.suffer c src errs).1
     (errs = [] → s.suffer c src errs = (s, false))
       ∧ (t.coreAt c).ctxs = (s.coreAt c).ctxs
       ∧ (∀ d, errs = [d] → src ≠ 0 → bits (t.coreAt c).eccstat 47 32 = (bits (s.coreAt c).eccstat 47 32 + (!d).toNat) % 65536
           ∧ bits (t.coreAt c).eccstat 63 48 = (bits (s.coreAt c).eccstat 63 48 + d.toNat) % 65536)
       ∧ (true ∉ errs → (s.suffer c src errs).2 = false ∧ t.agenda = s.agenda)
       ∧ (true ∈ errs → (s.coreAt c).run.node.isSome = true → (s.suffer c src errs).2 = true
           ∧ t.agenda = s.agenda ++ [.deviceLevelFault (s.coreAt c).cid 2 0 c 0])) ∧
  (∀ (s : State) (i : Instr) (r : Nat) (d : Bool), s.me.hurt = [(r, d)] → (genReads s.me.shown i).contains r = true → s.tagUse i = [] →
     (d = false → ∃ t, s.issueHurt i = exec i t ∧ t.me.hurt = [] ∧ (∀ a, t.g a = s.g a)
         ∧ bits t.here.eccstat 47 32 = (bits s.here.eccstat 47 32 + 1) % 65536)
       ∧ (d = true → s.here.run.node.isSome = true → ∃ t, s.issueHurt i = .next t ∧ t.me.hurt = [] ∧ (∀ a, t.g a = s.g a)
         ∧ t.agenda = s.agenda ++ [.deviceLevelFault s.here.cid 2 0 s.core 0]))


/-! ### The host (spec/21 R398 to R412; spec/16 R312 to R325; spec/17 R336 to R354) -/

/-- ATTACH (R402 to R405), on a connection none of whose commands waits: the highest common version and the common features of it
are answered, and the connection stands with them; without a common version it is BADVER and closed, for a number outside its pod
BADFIELD (log 54), and beyond eight connections NOSPACE. The first one gives the module its place in the pod, and what the pod has
settled its formats (R404): a module that carries none of them is told so by a byte of the reply, which is the model's (log 56). ATTEST
(R412) answers with the nonce, the serial, the digest of the running image and its security version, STEP and the key's certificate, and
a repair map only with feature 5. FWLOAD (R411): chunks gather, and the last one replaces the image only if its check passes, which a
security version below the fused minimum does not; one longer than a message is BADFIELD. Both are served while a start runs (R411).
START (R408 to R410) begins stage 1, closes every connection, frees every core and fails every node, is accepted after a start that
failed (log 54), and is BUSY while a start runs or the logic is off. A header with a field beyond its limits is BADFIELD (R399). On a
connection that has not attached with the command's version each of the three is BADVER (R399, R401). -/
def Obligations.AttachAndStart : Prop :=
  (∀ (s : State) (h : Hdr) (vmin vmax modno pods : Nat) (feat : BitVec 32),
     (∀ d, s.conn h = some d → d.waits = none ∧ d.behind = false) → s.conns.length < 8 ∨ s.conn h ≠ none →
     let v := min 3 vmax
     let f := 0x3F &&& feat &&& allowedFeat v
     let told (t : State) (st : Nat) (len : Nat) (ver : Nat) (w : Word) (bs : List Byte) : Prop :=
       t.outbox = s.outbox ++ [.reply h.conn ver 0x81 len h.tag h.cid st w bs]
     (h.legal = true → max 1 vmin ≤ v → modno < pods → pods ≤ 16384 → s.attached = false ∨ (modno = s.modno ∧ pods = s.podsize) →
         ∃ t c, exec (.attach h vmin vmax feat modno pods) s = .next t ∧ c ∈ t.conns ∧ c.id = h.conn ∧ c.ver = v
           ∧ c.feat = f ∧ c.tele = (if f.getLsbD 4 then 2 else 1) ∧ t.modno = modno ∧ t.podsize = pods ∧ t.attached = true
           ∧ told t stOk (if t.refused then 9 else 8) v (w64 (v + f.toNat * 2 ^ 32)) (if t.refused then [1] else [])
           ∧ (s.attached = true → t.refused = s.refused ∧ t.collFmt = s.collFmt ∧ t.podCtl = s.podCtl)
           ∧ (s.attached = false → pods = 1 → t.refused = false)
           ∧ (s.attached = false → 1 < pods → ∀ a b, podFormat 0 modno pods collIface collAllowed = some a →
               podFormat 1 modno pods podIface (fun _ => 0) = some b → t.refused = false ∧ t.collFmt = a ∧ t.podCtl = b)
           ∧ (s.attached = false → 1 < pods → podFormat 0 modno pods collIface collAllowed = none
               ∨ podFormat 1 modno pods podIface (fun _ => 0) = none → t.refused = true))
       ∧ (v < max 1 vmin → ∃ t, exec (.attach h vmin vmax feat modno pods) s = .next t ∧ t.conn h = none
           ∧ told t stBadVer 0 h.ver 0 [])
       ∧ (max 1 vmin ≤ v → h.legal = false ∨ pods ≤ modno ∨ 16384 < pods ∨ (s.attached = true ∧ (modno ≠ s.modno ∨ pods ≠ s.podsize)) →
           ∃ t, exec (.attach h vmin vmax feat modno pods) s = .next t ∧ t.conns = s.conns ∧ s.replied t h 1 stBadField)) ∧
  (∀ (s : State) (h : Hdr) (vmin vmax modno pods : Nat) (feat : BitVec 32), 8 ≤ s.conns.length → s.conn h = none →
     ∃ t, exec (.attach h vmin vmax feat modno pods) s = .next t ∧ t.conns = s.conns ∧ s.replied t h 1 stNoSpace) ∧
  (∀ (s : State) (h : Hdr) (nonce : BitVec 256) (c : Conn), s.romServes h → s.conn h = some c →
     let img := leNat s.boot.running
     ∃ t sig, exec (.attest h nonce) s = .next t ∧ t.cores = s.cores ∧ t.boot = s.boot
       ∧ t.outbox = s.outbox ++ [.reply h.conn c.ver 0x82 0 h.tag h.cid stOk 0 [],
           .attestation nonce Config.serial (Config.digest 0 img)
             (w64 ((Config.imageVersion img).toNat + Config.fusedVersion.toNat * 2 ^ 32)) (w64 (c.ver + c.feat.toNat * 2 ^ 32))
             (if c.feat.getLsbD 5 then Config.digest 1 s.repairCode else 0) (s.stepAt 0 0) sig Config.certificate]) ∧
  (∀ (s : State) (h : Hdr) (chunk : List Byte) (sigOk : Bool), s.romServes h →
     let img := s.boot.loading ++ chunk
     (chunk.length ≤ 4080 →
         (∃ t, exec (.fwload h chunk false sigOk) s = .next t ∧ t.boot = { s.boot with loading := img } ∧ s.replied t h 3 stOk)
           ∧ (imageOk sigOk img = true → ∃ t, exec (.fwload h chunk true sigOk) s = .next t ∧ s.replied t h 3 stOk
             ∧ t.boot = { s.boot with loading := [], image := img, spare := s.boot.image, off := false })
           ∧ (imageOk sigOk img = false → ∃ t, exec (.fwload h chunk true sigOk) s = .next t ∧ t.boot.image = s.boot.image
             ∧ t.boot.loading = [] ∧ t.boot.off = s.boot.off ∧ s.replied t h 3 stOk))
       ∧ (4080 < chunk.length → ∀ last, ∃ t, exec (.fwload h chunk last sigOk) s = .next t ∧ t.boot = s.boot
           ∧ s.replied t h 3 stBadField)) ∧
  (∀ (s : State) (h : Hdr) (cold : Bool) (c : Conn), s.conn h = some c → c.ver = h.ver →
     (h.legal = false → ∃ t, exec (.start h cold) s = .next t ∧ t.boot = s.boot ∧ s.replied t h 4 stBadField) ∧
     (h.legal = true → s.boot.off = false → s.boot.stage = none ∨ s.boot.stage = some 0 → c.waits = none → c.behind = false →
         ∃ t, exec (.start h cold) s = .next t ∧ t.boot.stage = some 1 ∧ t.boot.began = s.now
           ∧ t.boot.cold = (cold || s.boot.mustCold) ∧ t.conns = [] ∧ t.attached = false ∧ s.replied t h 4 stOk
           ∧ (∀ n, (s.node n).st ≠ .free → (t.node n).st = .failed)
           ∧ ∀ d, (t.coreAt d).run.node = none ∧ (t.coreAt d).run.next = none)
       ∧ (∀ w, h.legal = true → s.boot.off = false → s.boot.stage = none ∨ s.boot.stage = some 0 → c.waits = some w → w ≠ .start h cold →
         exec (.start h cold) s = .next (s.after 1 (.start h cold)))
       ∧ (h.legal = true → s.boot.off = true ∨ (∃ k, s.boot.stage = some (k + 1)) → ∃ t, exec (.start h cold) s = .next t ∧ t.boot = s.boot
           ∧ s.replied t h 4 stBusy)) ∧
  (∀ (s : State) (h : Hdr) (cold last sigOk : Bool) (nonce : BitVec 256) (chunk : List Byte),
     (∀ c, s.conn h = some c → c.ver ≠ h.ver) →
     (∃ t, exec (.start h cold) s = .next t ∧ s.replied t h 4 stBadVer ∧ t.boot = s.boot)
       ∧ (∃ t, exec (.attest h nonce) s = .next t ∧ s.replied t h 2 stBadVer)
       ∧ ∃ t, exec (.fwload h chunk last sigOk) s = .next t ∧ s.replied t h 3 stBadVer ∧ t.boot = s.boot)

/-- The stages of a start (R408, R410): a completed stage begins the next one, and has done its work: the first runs the image, if it
passes its check (R411); the second of a cold start quarantines the ways and replaces the routers that its self-test found; the third
trains the links between dies; the fourth takes what is dead out of the routes. The sixth of a cold start leaves memory zero, no
object and no core state, and writes no Ductus state (R302); that of a warm start leaves the wear counts and GEN and LEGIT, with
GOVCFG and DUCTCFG at their reset values (R409). A stage that fails, or a start that is not complete after 5 seconds, ends it
(R410), and an image that fails leaves the logic off (R411). At power-on the boot ROM goes on only with an image that passes (R411). -/
def Obligations.StartStages : Prop :=
  ∀ (s : State) (k : Nat),
    (s.boot.stage = some k → 1 ≤ k → k < 6 → (k = 1 → imageOk true s.boot.image = true) →
        ∃ t, exec (.startStageComplete true) s = .next t ∧ t.boot.stage = some (k + 1)
          ∧ t.boot.running = (if k = 1 then s.boot.image else s.boot.running)
          ∧ (k ≠ 3 → t.cores = s.cores ∧ t.hbm = s.hbm ∧ t.outbox = s.outbox)
          ∧ (k = 2 → s.boot.cold = true → ∀ d, d < 16 → t.die d = (s.die d).tested (Config.badWays s.fresh d) (Config.badRouters s.fresh d))
          ∧ (k = 3 → ∀ l ∈ t.deadLinks, l ∈ s.deadLinks ∨ ∃ p ∈ dieLinks, l = .dieLink p.1 p.2)
          ∧ (k = 4 → ∀ d, d < 16 → (t.die d).routeDead = (s.die d).deadRouters ∧ (t.inst ⟨.die, d⟩).spoil = true)
          ∧ (k = 1 ∨ k = 5 ∨ (k = 2 ∧ s.boot.cold = false) → t.dies = s.dies ∧ t.insts = s.insts ∧ t.deadLinks = s.deadLinks))
      ∧ (∀ ok, s.boot.stage = some 1 → imageOk ok s.boot.image = false → ∃ t, exec (.startStageComplete ok) s = .next t
          ∧ t.boot.stage = some 0 ∧ t.boot.off = true)
      ∧ (s.boot.stage = some 6 → s.boot.cold = true → ∃ t, exec (.startStageComplete true) s = .next t ∧ t.boot.stage = none
          ∧ t.hbm = [] ∧ t.objs = [] ∧ t.cores = [] ∧ t.octets = [] ∧ t.gov = State.reset.gov ∧ t.ductcfg = State.reset.ductcfg
          ∧ (∀ i, (t.inst i).gen = (s.inst i).gen ∧ (t.inst i).legit = (s.inst i).legit ∧ (t.inst i).units = (s.inst i).units)
          ∧ ∀ r, (t.ring r).gen = (s.ring r).gen ∧ (t.ring r).legit = (s.ring r).legit ∧ (t.ring r).x = (s.ring r).x)
      ∧ (s.boot.stage = some 6 → s.boot.cold = false → ∃ t, exec (.startStageComplete true) s = .next t ∧ t.boot.stage = none
          ∧ t.gov = State.reset.gov ∧ t.ductcfg = State.reset.ductcfg ∧ (∀ o, (t.oct o).wear = (s.oct o).wear)
          ∧ ∀ i, (t.inst i).gen = (s.inst i).gen ∧ (t.inst i).legit = (s.inst i).legit)
      ∧ (s.boot.stage = some (k + 1) → ∃ t, exec (.startStageComplete false) s = .next t ∧ t.boot.stage = some 0
          ∧ t.boot.off = (k == 0 || s.boot.off))
      ∧ (s.boot.stage = none ∨ s.boot.stage = some 0 →
          exec (.startStageComplete true) s = .next s ∧ exec .startTimeout s = .next s)
      ∧ (s.boot.stage = some (k + 1) → s.boot.began + fiveSeconds ≤ s.now → ∃ t, exec .startTimeout s = .next t
          ∧ t.boot.stage = some 0)
      ∧ (s.boot.stage = some (k + 1) → s.now < s.boot.began + fiveSeconds → exec .startTimeout s = .next s)
      ∧ ∀ b, ∃ t, exec (.powerOn b) s = .next t ∧ t.conns = [] ∧ t.boot.off = (!imageOk b s.boot.image)
          ∧ (imageOk b s.boot.image = true → t.boot.stage = some 2 ∧ t.boot.running = s.boot.image)
          ∧ (imageOk b s.boot.image = false → t.boot.stage = some 0 ∧ t.boot.running = [])

/-- The scheduler's commands, each answered by its status. CIDRES makes at most 64 CIDs resident and CIDEVICT takes one away
unless a launch of it runs or drains (R325); that a CID which is not resident is answered NOTRESIDENT is the model's choice (log
71). CIDCFG sets weight and quota (R321, R350); NODEWRITE writes a record of sixteen words within its limits, whose ENTRY names a line
with TGT = 1, into a FREE node, READY when its counter has reached the threshold; a record with a nonzero reserved bit, and one whose
ENTRY names a line without TGT, a poisoned one or none, is BADFIELD (R312, R319, R399), and where that line's page has no frame the
command waits (log 57). NODEREADY makes WAITING nodes READY, NODEFREE frees a DONE or FAILED node (R319), and NODEADD adds to a
counter, saturating at 65,535 (R317, R320). -/
def Obligations.SchedulerCommands : Prop :=
  ∀ (s : State) (h : Hdr), s.serves h →
    (1 ≤ h.cid → h.cid ≤ 1023 →
        (h.cid ∉ s.sched.resident → s.sched.resident.length < 64 → ∃ t, exec (.cidres h) s = .next t
            ∧ t.sched.resident = s.sched.resident ++ [h.cid] ∧ s.replied t h 0x10 stOk)
          ∧ (h.cid ∈ s.sched.resident → ∃ t, exec (.cidres h) s = .next t ∧ t.sched = s.sched ∧ s.replied t h 0x10 stOk)
          ∧ (h.cid ∉ s.sched.resident → 64 ≤ s.sched.resident.length → ∃ t, exec (.cidres h) s = .next t
            ∧ t.sched = s.sched ∧ s.replied t h 0x10 stNoSpace)
          ∧ (h.cid ∉ s.sched.resident → ∃ t, exec (.cidevict h) s = .next t ∧ t.sched = s.sched ∧ s.replied t h 0x11 stNotResident)
          ∧ (h.cid ∈ s.sched.resident →
              (∀ e ∈ s.sched.nodes, e.2.rec_.cid = h.cid → e.2.st ≠ .running ∧ e.2.st ≠ .draining) →
              ∃ t, exec (.cidevict h) s = .next t ∧ h.cid ∉ t.sched.resident ∧ s.replied t h 0x11 stOk)
          ∧ (h.cid ∈ s.sched.resident → ∀ e ∈ s.sched.nodes, e.2.rec_.cid = h.cid → e.2.st = .running ∨ e.2.st = .draining →
              ∃ t, exec (.cidevict h) s = .next t ∧ t.sched = s.sched ∧ s.replied t h 0x11 stBusy)
          ∧ ∀ w q, 1 ≤ w → w ≤ 15 → q ≤ 2048 → ∃ t, exec (.cidcfg h w q) s = .next t ∧ sget 1 t.sched.weight h.cid = w
            ∧ t.quota h.cid = q ∧ s.replied t h 0x12 stOk)
      ∧ (∀ n ws r, NodeRec.ofWords ws = some r → n < 4096 → r.legal = true → h.cid = 0 ∨ h.cid = r.cid →
          r.xlen ≤ s.sched.xmaxlen.toNat → r.cores.any s.isHole = false → s.pageFailed h = false →
          (∀ u ans, (s.node n).st = .free → s.entryLine r.entry r.cid = (u, ans) →
              ∃ t, exec (.nodewrite h n ws) s = .next t ∧
                match ans with
                | .ok bs =>
                  if lineTgt bs then
                    (t.node n).rec_ = r ∧ (t.node n).counter = r.count
                      ∧ (t.node n).st = (if r.thresh ≤ r.count then .ready else .waiting) ∧ u.replied t h 0x20 stOk
                  else t.sched = u.sched ∧ u.replied t h 0x20 stBadField
                | .poison | .object => t.sched = u.sched ∧ u.replied t h 0x20 stBadField
                | .absent | .held | .stall => t.sched = u.sched ∧ t.outbox = u.outbox
                    ∧ ∀ c ∈ t.conns, c.id = h.conn → c.waits = some (.nodewrite h n ws))
            ∧ ((s.node n).st ≠ .free → ∃ t, exec (.nodewrite h n ws) s = .next t ∧ t.sched = s.sched ∧ s.replied t h 0x20 stBusy))
      ∧ (∀ n ws, NodeRec.ofWords ws = none → ∃ t, exec (.nodewrite h n ws) s = .next t ∧ t.sched = s.sched
          ∧ s.replied t h 0x20 stBadField)
      ∧ ∀ n, s.ownsNode h n = true →
          ((s.node n).st = .waiting → ∃ t, exec (.nodeready h [n]) s = .next t ∧ (t.node n).st = .ready
              ∧ (t.node n).readyAt = s.now ∧ s.replied t h 0x21 stOk)
            ∧ ((s.node n).st = .running → ∃ t, exec (.nodeready h [n]) s = .next t ∧ t.sched = s.sched ∧ s.replied t h 0x21 stBusy)
            ∧ ((s.node n).st = .done ∨ (s.node n).st = .failed → ∃ t, exec (.nodefree h n) s = .next t ∧ (t.node n).st = .free
              ∧ s.replied t h 0x22 stOk)
            ∧ ((s.node n).st = .running → ∃ t, exec (.nodefree h n) s = .next t ∧ t.sched = s.sched ∧ s.replied t h 0x22 stBusy)
            ∧ ∀ inc, inc ≤ 65535 → ∃ t, exec (.nodeadd h n inc) s = .next t
              ∧ (t.node n).counter = min 65535 ((s.node n).counter + inc) ∧ s.replied t h 0x23 stOk

/-- The commands on objects and registers. OBJCREATE makes an object of the pages asked for, here of one run that the host
backs (R336, R337); OBJRESIZE to fewer pages cuts it and OBJDELETE removes it, here while no request waits for a page of it
(R339). MEMWRITE and MEMREAD, here of bytes that their homes take and give at once, are answered with the bytes accepted or read,
and out of the object's range with BADFIELD (R401); a command on an object waits for a command of another connection that was
accepted earlier and waits for a page of it (R401). SNAPSHOT, on a connection with that feature, takes a step at least 7,000 ahead
and its pool's frames, 64 where it names none (R354), and without it is answered UNKNOWN by the model's choice (log 71). REGWRITE
stores GOVCFG, SCHEDCFG, XMAXLEN and DUCTCFG within their limits (R295, R323, R359, R400), and, under numbers of the model's own (log
56), SNAPBW (R355), and clears the bit of a CID without object and launch in a DOMCIDS map (R384); STATREAD delivers a register of a
core; DOORBELL sets event bit 5 in a LIVE context 0 (R120, R400). -/
def Obligations.MemoryAndRegisterCommands : Prop :=
  ∀ (s : State) (h : Hdr), s.serves h →
    (∀ obj die dom (priv : Bool) owncore owncid (r : PageRun), r.count ≠ 0 → r.count ≤ 16777215 → 0 < r.back → r.back < 3 →
        die < 16 → dom < 32 → owncore < 30720 → owncid < 1024 → obj ≠ 0 → obj < aliasId → s.obj obj = none →
        bits ((s.die die).mask dom) 15 0 ≠ 0 → s.objs.length < 1048576 →
        ∃ t o, exec (.objcreate h obj die dom priv owncore owncid [r]) s = .next t ∧ t.obj obj = some o ∧ o.size = r.count
          ∧ o.die = die ∧ o.dom = dom ∧ o.priv = priv ∧ o.owncid = owncid ∧ s.replied t h 0x30 stOk (w64 obj))
      ∧ (∀ obj o, s.obj obj = some o → s.objectFree obj →
          ((∀ f ∈ (s.die o.die).faults, f.obj ≠ obj) →
              (∀ size, size ≠ 0 → size ≤ o.size → size ≤ 16777215 → ∃ t u, exec (.objresize h obj size) s = .next t
                  ∧ t.obj obj = some u ∧ u.size = size ∧ u.ext = (if size = o.size then o.ext else cutExtents size o.ext))
                ∧ ∃ t, exec (.objdelete h obj) s = .next t ∧ t.obj obj = none)
            ∧ ∀ (T : Word) n dest, s.snaps = [] → (s.stepAt o.die 0).toNat + 7000 ≤ T.toNat → n ≤ 4096 →
              let pool := if n = 0 then 64 else n
              (s.feature h 0 = true → ∀ u runs, s.pickFrames o.die pool = (u, some runs) → ∃ t, exec (.snapshot h obj T ⟨n, dest⟩) s = .next t
                  ∧ t.snaps = [{ obj := obj, cid := h.cid, t := T.toNat, pool := pool, frames := runs, dest := dest }]
                  ∧ s.replied t h 0x35 stOk)
                ∧ (s.feature h 0 = true → ∀ u, s.pickFrames o.die pool = (u, none) → ∃ t, exec (.snapshot h obj T ⟨n, dest⟩) s = .next t
                  ∧ t.snaps = [] ∧ s.replied t h 0x35 stNoSpace)
                ∧ (s.feature h 0 = false → ∃ t, exec (.snapshot h obj T ⟨n, dest⟩) s = .next t ∧ t.snaps = [] ∧ s.replied t h 0x35 stUnknown))
      ∧ (∀ a data u, data.length ≤ 4080 → s.objectFree (idOf a) → s.hostRange a data.length = true → s.pageFailed h = false →
          s.writeSome (outsider (s.homeDie a)) a data h.cid = (u, data.length) →
          exec (.memwrite h a data) s = .next ((u.setWaits h none).answer h 0x33 stOk 0 []))
      ∧ (∀ a data n, s.objectFree (idOf a) →
          (s.hostRange a data.length = false → ∃ t, exec (.memwrite h a data) s = .next t ∧ t.hbm = s.hbm
              ∧ s.replied t h 0x33 stBadField)
          ∧ (s.hostRange a n = false → ∃ t, exec (.memread h a n) s = .next t ∧ t.hbm = s.hbm ∧ s.replied t h 0x34 stBadField))
      ∧ (∀ a n u bs, n ≤ 4080 → s.objectFree (idOf a) → s.hostRange a n = true → s.pageFailed h = false →
          sectorPieces a.toNat n = [(a.toNat, n)] → s.rawRead (outsider (s.homeDie a)) a n h.cid = (u, .ok bs) →
          exec (.memread h a n) s = .next ((u.setWaits h none).answer h 0x34 stOk 0 bs))
      ∧ (∀ c w a data n, c ∈ s.conns → c.id ≠ h.conn → c.behind = false → c.waits = some w → hostObj w = some (idOf a) →
          exec (.memwrite h a data) s = .next (s.waitBehind h (.memwrite h a data))
            ∧ exec (.memread h a n) s = .next (s.waitBehind h (.memread h a n))
            ∧ exec (.objdelete h (idOf a)) s = .next (s.waitBehind h (.objdelete h (idOf a))))
      ∧ (∀ v, (∃ t, exec (.regwrite h 0x090 v) s = .next t ∧ t.gov.cfg = govStored v ∧ govLegal t.gov.cfg = true ∧ t.gov.eff = s.gov.eff)
          ∧ (∃ t, exec (.regwrite h 0x05B v) s = .next t ∧ t.ductcfg = ductStored v ∧ ductLegal t.ductcfg = true
              ∧ t.ductEff = s.ductEff)
          ∧ (∃ t, exec (.regwrite h 0x086 v) s = .next t ∧ t.sched.schedcfg = v &&& 0xFFFFFFFFFF)
          ∧ (∃ t, exec (.regwrite h 0x085 v) s = .next t ∧ t.sched.xmaxlen = v &&& 0xFFFFF)
          ∧ (∃ t, exec (.regwrite h 0xA10 v) s = .next t ∧ t.snapbw = min 25 (max 1 v.toNat) ∧ s.replied t h 0x40 stOk)
          ∧ (∃ t, exec (.regwrite h 0x000 v) s = .next t ∧ s.replied t h 0x40 stBadField ∧ t.sched = s.sched ∧ t.gov = s.gov)
          ∧ ∀ dom, dom < 32 →
              (s.mayForget h.cid v.toNat dom = true → ∃ t, exec (.regwrite h (0x900 + dom) v) s = .next t
                  ∧ h.cid ∉ sget [] (t.die v.toNat).domcids dom ∧ s.replied t h 0x40 stOk)
                ∧ (s.mayForget h.cid v.toNat dom = false → ∃ t, exec (.regwrite h (0x900 + dom) v) s = .next t
                  ∧ t.dies = s.dies ∧ s.replied t h 0x40 stBadField))
      ∧ (∀ reg c, reg < 0x800 → c < 30720 → (sysAcc reg).isSome = true → ∃ t, exec (.statread h reg c) s = .next t
          ∧ t.cores = s.cores ∧ s.replied t h 0x41 stOk (s.readSys c 0 reg))
      ∧ ∀ c, c < 30720 → ∃ t, exec (.doorbell h c) s = .next t ∧ s.replied t h 0x50 stOk
          ∧ ((s.ctxAt c 0).st = .live → (t.ctxAt c 0).latch.getLsbD 5 = true)


/-! ### Encodings (spec/03 R61, R72; the encoding tables of spec/05 to spec/07) -/

/-- Decode and encode agree: every instruction within its operand limits that has an encoding is what its own head and tail
decode to, with every operand at every value its field admits. -/
def Obligations.DecodeInvertsEncode : Prop :=
  ∀ (i : Instr) (e : Enc), encode i = some e → i.wf = true → decode e.head e.tail = .ok i

/-- Heads and tails worked in the spec, a few of every family, decode to the instructions they are worked from; a head of a
reserved major and a nonzero must-be-zero bit decode to none (R8, R72). -/
def Obligations.WorkedEncodings : Prop :=
  decode 0x00A6 0 = .ok (.add2 5 6) ∧ decode 0x2920 0x3E8 = .ok (.movi 9 1000) ∧ decode 0x2547 1 = .ok (.addi 10 7 1)
    ∧ decode 0x350C 0x3F000000 = .ok (.lea 8 12 7 2 0) ∧ decode 0x31AD 0x0400081F = .ok (.bfi 13 13 32 31)
    ∧ decode 0x84A6 0x01800003 = .ok (.bne .nn 5 6 3) ∧ decode 0x8C20 5 = .ok (.jal .plain 1 5)
    ∧ decode 0xA0A2 0x0091 = .ok (.rdsys 5 0x091) ∧ decode 0xA0A7 0x4192 = .ok (.injectSlice 5 8 12 true)
    ∧ decode 0x422F 0x04580000 = .ok (.ld .w .acq .die 17 15 0) ∧ decode 0x50E8 0x4C160000 = .ok (.amoswap false .acq .die 7 8 9 0)
    ∧ decode 0x580A 0x002A = .ok (.give 2 10 5) ∧ decode 0x5C00 0x62020010 = .ok (.xsendr .add .f32 16 12)
    ∧ decode 0x9680 0x0573 = .ok (.witTok .die 20 3) ∧ decode 0x9A80 0x03900003 = .ok (.bil .plain .die (some 2) 20 3)
    ∧ decode 0x656C 0x688001400000 = .ok (.cpy (some 320) 11 12 13)
    ∧ decode 0xC4A6 0x00050E20 = .ok (.vcvt .bf .f32 .sr 1 5 6 0 0) ∧ decode 0xCCA4 0x3330 = .ok (.vmaxi .f32 5 4 6 0)
    ∧ decode 0xDC7C 0xEC000000 = .ok (.mma .e2 none 3 28 29) ∧ decode 0xE000 0x0282 = .ok (.mring (some 2))
    ∧ decode 0xE400 0 = .error .reservedMajor ∧ decode 0x2921 0x3E8 = .error .mustBeZero

/-! ### The machine (spec/01 R12 to R18; spec/05 R124; spec/21 R408) -/

/-- A step runs the decoded instruction. With no event due, the core and context that issue next run the instruction that the
line read for their Q0 decodes to, where nothing stands before it at the boundary (R124): an error that its reads meet (R377), a
signature fault, a fault of the instruction before it, a queue fault, an interrupt, a page wait, a fault of the entry, an annul bit. An
undefined encoding is ILLEGAL there (R8), and an annulled entry only retires (R17). What the step adds: an issue that
leaves its context as it was, with nothing due, has taken no slot of the core and its context is not tried again in this step
(R13; log 42), and any other is the instruction's own next state, in which the sub-banks it used have served it (R227). A due event has
the effect of its row of the opcode table. -/
def Obligations.StepRunsTheInstruction : Prop :=
  (∀ (s : State) (c k hptr : Nat) (l : Line), s.agenda = [] → s.nextIssue = some (c, k, hptr) →
     let u := s.chosen c k hptr
     (∀ e ∈ u.here.struck, e.ctx ≠ k) → u.me.sigFault = none → u.me.pending = none →
     (k = 0 → u.here.vec.fault = none ∨ u.me.awaits = false) → (k = 0 → u.irqDue c = false) → u.me.page = none →
     u.me.q0.fault = none → u.me.q0.line = .ok l →
     (∀ i, u.me.q0.annul = false → u.owed = none → u.me.decFlip = 0 → lineDecode l (headIdx u.me.q0.addr) = .ok i →
         step s = (match if u.whole i then exec i u else u.issueHurt i with
           | .next t => .next (t.settleIssue s c k hptr) | r => r))
       ∧ (∀ e, u.me.q0.annul = false → u.owed = none → u.me.decFlip = 0 → lineDecode l (headIdx u.me.q0.addr) = .error e →
         step s = .next (u.illegal.settleIssue s c k hptr))
       ∧ (u.me.q0.annul = true → step s = .next (u.retire.settleIssue s c k hptr))
       ∧ (∀ t : State, t.ctxAt c k ≠ u.ctxAt c k ∨ t.agenda ≠ [] → t.settleIssue s c k hptr = t.serve (s.claims c k))
       ∧ ∀ t : State, t.ctxAt c k = u.ctxAt c k → t.agenda = [] →
         let v := t.settleIssue s c k hptr
         (v.coreAt c).last = (s.coreAt c).last ∧ (v.coreAt c).issued = false ∧ (c, k) ∈ v.blocked ∧ v.served = t.served) ∧
  (∀ (s : State) (e : Event) (i : Instr) (rest : List Event), s.agenda = e :: rest → e.is i →
     step s = exec i { s with agenda := rest })

/-- Every step keeps the configuration legal and HBM canonical: whatever runs, DUCTCFG (R295), GOVCFG (R359), SCHEDCFG and
XMAXLEN (R323) hold values within their limits with every reserved field zero, as written and as in effect; a module that is
attached has a number below its pod's size (R403); and no byte of HBM is listed twice or listed as an unlisted one reads. -/
def Obligations.LegalIsKept : Prop :=
  ∀ (s t : State), s.legal → step s = .next t → t.legal

/-- The machine after a cold start (R7, R408): legal; every byte of HBM, TCM and wells zero; no object; no launch; and in every
context of every core the registers read as their Reset columns have them. STEP 0 and the converged Ductus state are the model's
choice (log 2), as are the zero general registers (log 1). -/
def Obligations.ResetIsColdStart : Prop :=
  let s := State.reset
  s.legal ∧ s.agenda = [] ∧ s.objs = [] ∧ (∀ a, s.hbm.read a = 0) ∧ (∀ c la, s.localByte c la = 0)
    ∧ ∀ c k, k ≤ 10 →
      s.readSys c k 0x000 = 1#64 ||| w64 (k * 256) ∧ (∀ n, 0x001 ≤ n → n ≤ 0x007 → s.readSys c k n = 0)
        ∧ s.readSys c k 0x012 = 16 ∧ s.readSys c k 0x017 = 0 ∧ s.readSys c k 0x018 = 0x20 ∧ s.readSys c k 0x019 = 0
        ∧ (∀ n, 0x020 ≤ n → n ≤ 0x027 → s.readSys c k n = 0) ∧ s.readSys c k 0x031 = 4096
        ∧ s.readSys c k 0x040 = 0x11111111 ∧ s.readSys c k 0x041 = 0x11111111 ∧ s.readSys c k 0x050 = 0
        ∧ s.readSys c k 0x085 = 65536 ∧ s.readSys c k 0x086 = w64 (10 * 2 ^ 20 + 1000)
        ∧ (∀ d, d < 32 → s.readSys c k (0x0C0 + d) = if d ≤ 14 then w64 (d * 65536 + 0xFFFF) else 0)
        ∧ (s.ctxAt c k).st = .idle ∧ s.readSys c k 0x010 = 0 ∧ ∀ r, (s.ctxAt c k).reg r = 0
end

