-- ==== Sys2Proof/Laws/Map.lean ====
section
/-!
SUPPORT. Sparse tables and byte memories: reading after writing, and that every operation keeps a memory's canonical form.
-/
namespace Sys2Proof.Machine

@[simp] theorem sget_sput_self {α : Type} (d : α) (m : SMap α) (i : Nat) (x : α) : sget d (sput m i x) i = x := by
  induction m with
  | nil => simp [sput, sget]
  | cons e r ih =>
    obtain ⟨k, v⟩ := e
    simp only [sput]
    split
    · simp [sget]
    · split
      · simp [sget]
      · rename_i h; simp [sget, h, ih]

theorem sget_sput_ne {α : Type} (d : α) (m : SMap α) {i j : Nat} (h : j ≠ i) (x : α) : sget d (sput m i x) j = sget d m j := by
  induction m with
  | nil => simp [sput, sget, h]
  | cons e r ih =>
    obtain ⟨k, v⟩ := e
    simp only [sput]
    split
    · simp [sget, h]
    · split
      · rename_i h1; subst h1; simp [sget, h]
      · simp only [sget, ih]

theorem sget_sput {α : Type} (d : α) (m : SMap α) (i j : Nat) (x : α) :
    sget d (sput m i x) j = if j = i then x else sget d m j := by
  split
  · rename_i h; subst h; simp
  · rename_i h; exact sget_sput_ne d m h x

@[simp] theorem sput_sput {α : Type} (m : SMap α) (i : Nat) (x y : α) : sput (sput m i x) i y = sput m i y := by
  induction m with
  | nil => simp [sput]
  | cons e r ih =>
    obtain ⟨k, v⟩ := e
    by_cases h1 : i < k
    · simp [sput, h1]
    · by_cases h2 : i = k
      · simp [sput, h2]
      · simp [sput, h1, h2, ih]

theorem sfind_sput {α : Type} (m : SMap α) (i j : Nat) (x : α) :
    sfind (sput m i x) j = if j = i then some x else sfind m j := by
  induction m with
  | nil => simp [sput, sfind]
  | cons e r ih =>
    obtain ⟨k, v⟩ := e
    by_cases h1 : i < k
    · simp [sput, h1, sfind]
    · by_cases h2 : i = k
      · subst h2; simp only [sput, h1, if_false, if_true, sfind]; split <;> rfl
      · simp only [sput, h1, h2, if_false, sfind, ih]
        by_cases h3 : j = k
        · subst h3; simp [Ne.symm h2]
        · simp [h3]

theorem sget_smod {α : Type} (d : α) (m : SMap α) (i j : Nat) (f : α → α) :
    sget d (smod d m i f) j = if j = i then f (sget d m i) else sget d m j := sget_sput d m i j _

/-- Reading a table after deleting a key of it. -/
theorem sget_sdel {α : Type} (d : α) (m : SMap α) (i j : Nat) : sget d (sdel m i) j = if j = i then d else sget d m j := by
  induction m with
  | nil => simp [sdel, sget]
  | cons e r ih =>
    obtain ⟨k, v⟩ := e
    simp only [sdel, List.filter_cons] at ih ⊢
    by_cases h : k = i
    · subst h
      simp only [bne_self_eq_false, Bool.false_eq_true, if_false, ih, sget]
      split
      · rfl
      · rfl
    · simp only [bne_iff_ne, ne_eq, h, not_false_eq_true, if_true, sget, ih]
      by_cases h2 : j = k
      · subst h2; simp [h]
      · simp [h2]

theorem sget_sputD {α : Type} [DecidableEq α] (d : α) (m : SMap α) (i j : Nat) (x : α) :
    sget d (sputD d m i x) j = if j = i then x else sget d m j := by
  unfold sputD
  split
  · rename_i h; subst h; rw [sget_sdel]
  · exact sget_sput d m i j x

/-! ### Byte memories -/

/-- A byte just written reads back; every other byte reads as before. -/
theorem Memory.read_write (m : Memory) (a b : Nat) (v : Byte) : (m.write a v).read b = if b = a then v else m.read b :=
  sget_sputD _ m a b v

theorem Memory.read_writeN_ne (m : Memory) (a b : Nat) (bs : List Byte) (h : b < a ∨ a + bs.length ≤ b) :
    (m.writeN a bs).read b = m.read b := by
  induction bs generalizing m a with
  | nil => rfl
  | cons x xs ih =>
    simp only [List.length_cons] at h
    rw [Memory.writeN, ih _ _ (by omega), Memory.read_write, if_neg (by omega)]

/-- A byte of a stored string reads back. -/
theorem Memory.read_writeN (m : Memory) (a i : Nat) (bs : List Byte) (h : i < bs.length) :
    (m.writeN a bs).read (a + i) = bs[i] := by
  induction bs generalizing m a i with
  | nil => simp at h
  | cons x xs ih =>
    rw [Memory.writeN]
    cases i with
    | zero =>
      rw [Nat.add_zero, Memory.read_writeN_ne _ _ _ _ (by omega), Memory.read_write]; simp
    | succ j =>
      have hj : j < xs.length := by simpa using h
      rw [show a + (j + 1) = (a + 1) + j by omega, ih _ _ _ hj]; rfl

/-- A string just written reads back. -/
theorem Memory.readN_writeN (m : Memory) (a : Nat) (bs : List Byte) : (m.writeN a bs).readN a bs.length = bs := by
  have key : ∀ (n k : Nat) (m : Memory), k + n = bs.length → (m.writeN a bs).readN (a + k) n = bs.drop k := by
    intro n
    induction n with
    | zero => intro k m h; simp [Memory.readN, List.drop_eq_nil_of_le (by omega : bs.length ≤ k)]
    | succ n ih =>
      intro k m h
      have hk : k < bs.length := by omega
      rw [Memory.readN, Memory.read_writeN _ _ _ _ hk, show a + k + 1 = a + (k + 1) by omega, ih (k + 1) m (by omega),
        List.drop_eq_getElem_cons hk]
  simpa using key bs.length 0 m (by omega)

theorem risingFrom_mono {α : Type} {m : SMap α} {a b : Nat} (h : b ≤ a) (hm : risingFrom a m = true) : risingFrom b m = true := by
  cases m with
  | nil => rfl
  | cons e r =>
    simp only [risingFrom, Bool.and_eq_true, decide_eq_true_eq] at hm ⊢
    exact ⟨by omega, hm.2⟩

theorem risingFrom_sput {α : Type} {m : SMap α} {lo i : Nat} (x : α) (hm : risingFrom lo m = true) (hi : lo ≤ i) :
    risingFrom lo (sput m i x) = true := by
  induction m generalizing lo with
  | nil => simp [sput, risingFrom, hi]
  | cons e r ih =>
    obtain ⟨k, v⟩ := e
    simp only [risingFrom, Bool.and_eq_true, decide_eq_true_eq] at hm
    simp only [sput]
    split
    · simp only [risingFrom, Bool.and_eq_true, decide_eq_true_eq]; exact ⟨hi, by omega, hm.2⟩
    · split
      · rename_i h2; subst h2; simp only [risingFrom, Bool.and_eq_true, decide_eq_true_eq]; exact ⟨hi, hm.2⟩
      · simp only [risingFrom, Bool.and_eq_true, decide_eq_true_eq]; exact ⟨hm.1, ih hm.2 (by omega)⟩

theorem risingFrom_sdel {α : Type} {m : SMap α} {lo : Nat} (i : Nat) (hm : risingFrom lo m = true) :
    risingFrom lo (sdel m i) = true := by
  induction m generalizing lo with
  | nil => rfl
  | cons e r ih =>
    obtain ⟨k, v⟩ := e
    simp only [risingFrom, Bool.and_eq_true, decide_eq_true_eq] at hm
    simp only [sdel, List.filter_cons] at ih ⊢
    split
    · simp only [risingFrom, Bool.and_eq_true, decide_eq_true_eq]; exact ⟨hm.1, ih hm.2⟩
    · exact risingFrom_mono (by omega) (ih hm.2)

/-- The values of a table after a write are the value written and values it held. -/
theorem all_sput {α : Type} {m : SMap α} {i : Nat} {x : α} (p : Nat × α → Bool) (hm : m.all p = true) (hx : p (i, x) = true) :
    (sput m i x).all p = true := by
  induction m with
  | nil => simp [sput, hx]
  | cons e r ih =>
    obtain ⟨k, v⟩ := e
    simp only [List.all_cons, Bool.and_eq_true] at hm
    simp only [sput]
    split
    · simp [hx, hm.1, hm.2]
    · split
      · simp [hx, hm.2]
      · simp [hm.1, ih hm.2]

/-- A byte write keeps the canonical form. -/
theorem Memory.wf_write {m : Memory} (h : m.wf = true) (a : Nat) (v : Byte) : (m.write a v).wf = true := by
  simp only [Memory.wf, Bool.and_eq_true] at h ⊢
  unfold Memory.write sputD
  split
  · refine ⟨risingFrom_sdel a h.1, ?_⟩
    exact List.all_eq_true.2 (fun e he => List.all_eq_true.1 h.2 e (List.mem_of_mem_filter he))
  · rename_i hv
    exact ⟨risingFrom_sput v h.1 (Nat.zero_le a), all_sput _ h.2 (by simpa using hv)⟩

/-- A write of a string keeps the canonical form. -/
theorem Memory.wf_writeN {m : Memory} (h : m.wf = true) (a : Nat) (bs : List Byte) : (m.writeN a bs).wf = true := by
  induction bs generalizing m a with
  | nil => exact h
  | cons x xs ih => exact ih (Memory.wf_write h a x) (a + 1)

end Sys2Proof.Machine
end

