-- ==== Sys2Proof/Laws/Area.lean ====
section
/-! SUPPORT. A core's area (R330) in an object that the host backs: its home accepts every sector of the image, so that the core
can leave (R328). -/

namespace Sys2Proof.Machine

/-- An object of 16,777,216 pages that the host backs, number 5. -/
def areaO : Obj := { size := 2 ^ 24, die := 0, dom := 0, ext := [⟨0, 2 ^ 24, .normal, false, 0, 0, 1⟩] }

/-- That object is there, and its die is not named. -/
def areaP (t : State × Bool) : Prop := t.2 = true ∧ t.1.obj 5 = some areaO ∧ (t.1.die 0).named = false

theorem named_sget (ds : SMap Die) (i j : Nat) (f : Die → Die) (hf : ∀ d, (f d).named = d.named) :
    (sget {} (smod {} ds i f) j).named = (sget {} ds j).named := by
  rw [sget_smod]
  split
  · subst_vars; exact hf _
  · rfl

theorem each_die {α : Type} (f : State → α → State) (hf : ∀ s x, (f s x).obj 5 = s.obj 5 ∧ (f s x).die 0 = s.die 0) (xs : List α) :
    ∀ s : State, (each xs s f).obj 5 = s.obj 5 ∧ (each xs s f).die 0 = s.die 0 := by
  induction xs with
  | nil => exact fun s => ⟨rfl, rfl⟩
  | cons x xs ih => exact fun s => ⟨(ih _).1.trans (hf s x).1, (ih _).2.trans (hf s x).2⟩

theorem areaO_write (s : State) (a : Word) (bs : List Byte) (cid : Nat) (ha : idOf a = 5) (ho : s.obj 5 = some areaO)
    (hn : (s.die 0).named = false) : ∃ u, s.rawWrite 0 a bs cid = (u, .ok []) ∧ areaP (u, true) := by
  have hp : offOf a / 65536 < 2 ^ 24 := by unfold offOf; omega
  have hx : areaO.extent (offOf a / 65536) = some ⟨0, 2 ^ 24, .normal, false, 0, 0, 1⟩ := by
    unfold Obj.extent areaO
    simp only [List.find?, Nat.zero_le, Nat.zero_add, hp, decide_true, Bool.and_self]
  obtain ⟨h, hh, hd, he⟩ : ∃ h, s.homeOf 5 (offOf a) = some h ∧ h.die = 0 ∧ h.ext = ⟨0, 2 ^ 24, .normal, false, 0, 0, 1⟩ := by
    unfold State.homeOf
    simp only [ho, Option.bind_eq_bind, Option.bind_some, hx]
    rw [if_neg (by show ¬ 2 ^ 24 ≤ _; omega)]
    exact ⟨_, rfl, rfl, rfl⟩
  unfold State.rawWrite State.dieWrite State.homeWrite
  simp only [ha, hh]
  have hm : ∀ (t : State) (f : Die → Die), (∀ d, (f d).named = d.named) → ((t.modDie 0 f).die 0).named = (t.die 0).named :=
    fun t f hf => named_sget _ 0 0 f hf
  have h1 : ((s.noteCid h cid).die 0).named = false := by
    unfold State.noteCid
    rw [hd]
    exact (hm s _ (by intro d; dsimp only; split <;> rfl)).trans hn
  rw [hd, h1, he]
  simp only [Bool.false_eq_true, if_false, ne_eq, one_ne_zero, not_false_eq_true, if_true]
  have h2 := each_die (fun (s : State) (r : Nat × List Byte) => s.tell (.store cid (addrOf 5 r.1) r.2)) (fun s x => ⟨rfl, rfl⟩)
    [(offOf a, bs)] ((s.noteCid h cid).translate h)
  have h3 : ((s.noteCid h cid).translate h).obj 5 = some areaO := ho
  have h4 : (((s.noteCid h cid).translate h).die 0).named = false := by
    unfold State.translate State.modSlice
    rw [hd]
    exact (hm _ _ (by intro d; rfl)).trans h1
  simp only [h2.1, h3]
  rw [if_pos (by decide)]
  exact ⟨_, rfl, rfl, h2.1.trans h3, by rw [h2.2]; exact h4⟩

/-- Every piece of an image lies in the object. -/
theorem areaO_block (s : State) (base : Nat) (bs : List Byte) (cid : Nat) (hb : 5 * 2 ^ 40 ≤ base) (hl : base + bs.length < 6 * 2 ^ 40)
    (hs : areaP (s, true)) : areaP (s.writeBlock 0 (w64 base) bs cid) := by
  have hbase : (w64 base).toNat = base := by simp [w64]; omega
  unfold State.writeBlock
  rw [hbase]
  have key : ∀ (xs : List (Nat × Nat)), (∀ p ∈ xs, base ≤ p.1 ∧ p.1 ≤ base + bs.length) → ∀ t : State × Bool, areaP t →
      areaP (each xs t (fun (s, ok) p =>
        match s.rawWrite 0 (w64 p.1) ((bs.drop (p.1 - base)).take p.2) cid with
        | (s, .ok _) => (s, ok)
        | (s, _) => (s, false))) := by
    intro xs
    induction xs with
    | nil => exact fun _ t ht => ht
    | cons x xs ih =>
      intro hx t ht
      refine ih (fun p hp => hx p (List.mem_cons_of_mem _ hp)) _ ?_
      obtain ⟨t, ok⟩ := t
      obtain ⟨h0, h1, h2⟩ := ht
      have hxx := hx x List.mem_cons_self
      have : idOf (w64 x.1) = 5 := by simp only [idOf, w64, BitVec.toNat_ofNat]; omega
      obtain ⟨u, hu, hp⟩ := areaO_write t (w64 x.1) ((bs.drop (x.1 - base)).take x.2) cid this h1 h2
      dsimp only
      rw [hu]
      exact ⟨h0, hp.2⟩
  refine key _ ?_ _ hs
  intro p hp
  unfold sectorPieces at hp
  obtain ⟨i, hi, rfl⟩ := List.mem_map.1 hp
  have hi := List.mem_range.1 hi
  dsimp only
  omega

theorem length_leBytes (n v : Nat) : (leBytes n v).length = n := by
  induction n generalizing v with
  | zero => rfl
  | succ n ih => simp [leBytes, ih]

theorem length_padTo (n : Nat) (bs : List Byte) : (padTo n bs).length ≤ n := by simp [padTo]

theorem length_readN (m : Memory) (a n : Nat) : (m.readN a n).length = n := by
  induction n generalizing a with
  | zero => rfl
  | succ n ih => simp [Memory.readN, ih]

theorem areaO_image (s : State) (n : Nat) (hq : (s.coreAt 0).mat.queue = []) (he : (s.coreAt 0).engs = [])
    (hv : (s.coreAt 0).vec.queue = []) (hb : ∀ k, bankV ((s.coreAt 0).bankmap k) = false) (ha : (s.coreAt 0).mat.accmap = 0)
    (hr : (s.coreAt 0).replays = []) : ∀ p ∈ s.areaImage 0 n, p.1 + p.2.length < 2 ^ 24 := by
  intro p hp
  unfold State.areaImage at hp
  simp only [hq, he, hv, hb, ha, hr, List.length_nil, List.range_zero, List.zip_nil_left, List.map_nil, List.append_nil, Bool.false_and,
    List.filter_false, List.mem_append, List.mem_cons, List.mem_map, List.not_mem_nil, or_false] at hp
  have hf : (List.range 16).filter (fun t => (0 : BitVec 16).getLsbD t) = [] := by decide
  simp only [hf, List.flatMap_nil, List.not_mem_nil, or_false] at hp
  have hw : ∀ (n : Nat) (f : Nat → Nat) (l : List Nat), (l.flatMap (fun i => leBytes n (f i))).length = n * l.length := by
    intro n f l
    induction l with
    | nil => simp
    | cons x xs ih => simp [length_leBytes, ih]; ring
  rcases hp with (((((((h | ⟨a, h, hp⟩) | h) | ⟨a, h, hp⟩) | h) | h) | h | h | h)) | h
  · have := length_padTo 4096
    subst h
    exact lt_of_le_of_lt (Nat.add_le_add_left (length_padTo 4096 _) _) (by simp only; omega)
  · subst hp
    have := List.mem_range.1 h
    exact lt_of_le_of_lt (Nat.add_le_add_left (length_padTo 1024 _) _) (by simp only [ctxCount] at this ⊢; omega)
  · subst h; simp only [List.length_replicate]; omega
  · subst hp
    have := List.mem_range.1 h
    simp only [hw 4 (fun i => ((s.coreAt 0).ve (BitVec.ofNat 4 a) i).toNat), List.length_range]; omega
  · subst h
    simp only [wordBytes, List.length_flatMap, List.map_map]; simp [length_leBytes, Function.comp_def]
  · subst h
    simp only [List.length_append, length_leBytes, hw 4 (fun j => (sget 0 (s.coreAt 0).vec.table j).toNat), List.length_range]; omega
  · subst h; simp only [length_readN]; omega
  · subst h; simp only [length_readN]; omega
  · subst h; simp only [length_readN]; omega
  · subst h; simp only [List.length_replicate]; omega

theorem w64_add (a b : Nat) : w64 a + w64 b = w64 (a + b) := by simp [w64, BitVec.ofNat_add]

/-- Pieces of an image, one after the other. -/
theorem areaO_pieces (l : List (Nat × List Byte)) (hx : ∀ p ∈ l, p.1 + p.2.length < 2 ^ 24) (t : State × Bool) (ht : areaP t) :
    areaP (each l t (State.writePiece 0 (w64 (5 * 2 ^ 40)))) := by
  induction l generalizing t with
  | nil => exact ht
  | cons x xs ih =>
    refine ih (fun p hp => hx p (List.mem_cons_of_mem _ hp)) _ ?_
    obtain ⟨t, ok⟩ := t
    obtain ⟨h0, h1, h2⟩ := ht
    have hxx := hx x List.mem_cons_self
    have ea := w64_add (5 * 2 ^ 40) x.1
    have hb := areaO_block t (5 * 2 ^ 40 + x.1) x.2 (t.coreAt 0).cid (by omega) (by omega) ⟨rfl, h1, h2⟩
    obtain ⟨v, b, hv⟩ : ∃ v b, t.writeBlock 0 (w64 (5 * 2 ^ 40 + x.1)) x.2 (t.coreAt 0).cid = (v, b) := ⟨_, _, rfl⟩
    rw [hv] at hb
    unfold State.writePiece
    dsimp only at h0 ⊢
    rw [ea, hv]
    exact ⟨by rw [h0, show b = true from hb.1]; rfl, hb.2⟩

/-- A state with that object and nothing of core 0's queues in use writes the whole area. -/
theorem areaO_accepts (s : State) (n : Nat) (hc : areaBase (s.node n).rec_ 0 = w64 (5 * 2 ^ 40)) (hs : areaP (s, true))
    (hi : ∀ p ∈ s.areaImage 0 n, p.1 + p.2.length < 2 ^ 24) : (s.writeArea 0 n).2 = true := by
  unfold State.writeArea
  rw [hc]
  exact (areaO_pieces _ hi _ hs).1

end Sys2Proof.Machine
end

