-- ==== Sys2Proof/Laws/State.lean ====
section
/-!
SUPPORT. What each update of the state leaves and what it changes: one lemma for each field and update, and the
accessors of cores, contexts and registers after an update.
-/
namespace Sys2Proof.Machine

/-! ### modCore -/

@[simp] theorem State.modCore_now (s : State) (c : Nat) (f : Core → Core) : (s.modCore c f).now = s.now := rfl
@[simp] theorem State.modCore_agenda (s : State) (c : Nat) (f : Core → Core) : (s.modCore c f).agenda = s.agenda := rfl
@[simp] theorem State.modCore_timers (s : State) (c : Nat) (f : Core → Core) : (s.modCore c f).timers = s.timers := rfl
@[simp] theorem State.modCore_stage (s : State) (c : Nat) (f : Core → Core) : (s.modCore c f).stage = s.stage := rfl
@[simp] theorem State.modCore_served (s : State) (c : Nat) (f : Core → Core) : (s.modCore c f).served = s.served := rfl
@[simp] theorem State.modCore_blocked (s : State) (c : Nat) (f : Core → Core) : (s.modCore c f).blocked = s.blocked := rfl
@[simp] theorem State.modCore_core (s : State) (c : Nat) (f : Core → Core) : (s.modCore c f).core = s.core := rfl
@[simp] theorem State.modCore_ctx (s : State) (c : Nat) (f : Core → Core) : (s.modCore c f).ctx = s.ctx := rfl
@[simp] theorem State.modCore_fresh (s : State) (c : Nat) (f : Core → Core) : (s.modCore c f).fresh = s.fresh := rfl
@[simp] theorem State.modCore_octets (s : State) (c : Nat) (f : Core → Core) : (s.modCore c f).octets = s.octets := rfl
@[simp] theorem State.modCore_dies (s : State) (c : Nat) (f : Core → Core) : (s.modCore c f).dies = s.dies := rfl
@[simp] theorem State.modCore_insts (s : State) (c : Nat) (f : Core → Core) : (s.modCore c f).insts = s.insts := rfl
@[simp] theorem State.modCore_rings (s : State) (c : Nat) (f : Core → Core) : (s.modCore c f).rings = s.rings := rfl
@[simp] theorem State.modCore_hbm (s : State) (c : Nat) (f : Core → Core) : (s.modCore c f).hbm = s.hbm := rfl
@[simp] theorem State.modCore_hbmEcc (s : State) (c : Nat) (f : Core → Core) : (s.modCore c f).hbmEcc = s.hbmEcc := rfl
@[simp] theorem State.modCore_objs (s : State) (c : Nat) (f : Core → Core) : (s.modCore c f).objs = s.objs := rfl
@[simp] theorem State.modCore_frames (s : State) (c : Nat) (f : Core → Core) : (s.modCore c f).frames = s.frames := rfl
@[simp] theorem State.modCore_beats (s : State) (c : Nat) (f : Core → Core) : (s.modCore c f).beats = s.beats := rfl
@[simp] theorem State.modCore_past (s : State) (c : Nat) (f : Core → Core) : (s.modCore c f).past = s.past := rfl
@[simp] theorem State.modCore_occ (s : State) (c : Nat) (f : Core → Core) : (s.modCore c f).occ = s.occ := rfl
@[simp] theorem State.modCore_sched (s : State) (c : Nat) (f : Core → Core) : (s.modCore c f).sched = s.sched := rfl
@[simp] theorem State.modCore_gov (s : State) (c : Nat) (f : Core → Core) : (s.modCore c f).gov = s.gov := rfl
@[simp] theorem State.modCore_boot (s : State) (c : Nat) (f : Core → Core) : (s.modCore c f).boot = s.boot := rfl
@[simp] theorem State.modCore_ductcfg (s : State) (c : Nat) (f : Core → Core) : (s.modCore c f).ductcfg = s.ductcfg := rfl
@[simp] theorem State.modCore_podRoot (s : State) (c : Nat) (f : Core → Core) : (s.modCore c f).podRoot = s.podRoot := rfl
@[simp] theorem State.modCore_ductEff (s : State) (c : Nat) (f : Core → Core) : (s.modCore c f).ductEff = s.ductEff := rfl
@[simp] theorem State.modCore_ductLog (s : State) (c : Nat) (f : Core → Core) : (s.modCore c f).ductLog = s.ductLog := rfl
@[simp] theorem State.modCore_snaps (s : State) (c : Nat) (f : Core → Core) : (s.modCore c f).snaps = s.snaps := rfl
@[simp] theorem State.modCore_snapbw (s : State) (c : Nat) (f : Core → Core) : (s.modCore c f).snapbw = s.snapbw := rfl
@[simp] theorem State.modCore_conns (s : State) (c : Nat) (f : Core → Core) : (s.modCore c f).conns = s.conns := rfl
@[simp] theorem State.modCore_modno (s : State) (c : Nat) (f : Core → Core) : (s.modCore c f).modno = s.modno := rfl
@[simp] theorem State.modCore_podsize (s : State) (c : Nat) (f : Core → Core) : (s.modCore c f).podsize = s.podsize := rfl
@[simp] theorem State.modCore_podOff (s : State) (c : Nat) (f : Core → Core) : (s.modCore c f).podOff = s.podOff := rfl
@[simp] theorem State.modCore_podBase (s : State) (c : Nat) (f : Core → Core) : (s.modCore c f).podBase = s.podBase := rfl
@[simp] theorem State.modCore_attached (s : State) (c : Nat) (f : Core → Core) : (s.modCore c f).attached = s.attached := rfl
@[simp] theorem State.modCore_collFmt (s : State) (c : Nat) (f : Core → Core) : (s.modCore c f).collFmt = s.collFmt := rfl
@[simp] theorem State.modCore_podCtl (s : State) (c : Nat) (f : Core → Core) : (s.modCore c f).podCtl = s.podCtl := rfl
@[simp] theorem State.modCore_linkFmt (s : State) (c : Nat) (f : Core → Core) : (s.modCore c f).linkFmt = s.linkFmt := rfl
@[simp] theorem State.modCore_refused (s : State) (c : Nat) (f : Core → Core) : (s.modCore c f).refused = s.refused := rfl
@[simp] theorem State.modCore_pendingLinks (s : State) (c : Nat) (f : Core → Core) : (s.modCore c f).pendingLinks = s.pendingLinks := rfl
@[simp] theorem State.modCore_deadLinks (s : State) (c : Nat) (f : Core → Core) : (s.modCore c f).deadLinks = s.deadLinks := rfl
@[simp] theorem State.modCore_deadMods (s : State) (c : Nat) (f : Core → Core) : (s.modCore c f).deadMods = s.deadMods := rfl
@[simp] theorem State.modCore_outbox (s : State) (c : Nat) (f : Core → Core) : (s.modCore c f).outbox = s.outbox := rfl

/-! ### modCtx -/

@[simp] theorem State.modCtx_now (s : State) (c k : Nat) (f : Ctx → Ctx) : (s.modCtx c k f).now = s.now := rfl
@[simp] theorem State.modCtx_agenda (s : State) (c k : Nat) (f : Ctx → Ctx) : (s.modCtx c k f).agenda = s.agenda := rfl
@[simp] theorem State.modCtx_timers (s : State) (c k : Nat) (f : Ctx → Ctx) : (s.modCtx c k f).timers = s.timers := rfl
@[simp] theorem State.modCtx_stage (s : State) (c k : Nat) (f : Ctx → Ctx) : (s.modCtx c k f).stage = s.stage := rfl
@[simp] theorem State.modCtx_served (s : State) (c k : Nat) (f : Ctx → Ctx) : (s.modCtx c k f).served = s.served := rfl
@[simp] theorem State.modCtx_blocked (s : State) (c k : Nat) (f : Ctx → Ctx) : (s.modCtx c k f).blocked = s.blocked := rfl
@[simp] theorem State.modCtx_core (s : State) (c k : Nat) (f : Ctx → Ctx) : (s.modCtx c k f).core = s.core := rfl
@[simp] theorem State.modCtx_ctx (s : State) (c k : Nat) (f : Ctx → Ctx) : (s.modCtx c k f).ctx = s.ctx := rfl
@[simp] theorem State.modCtx_fresh (s : State) (c k : Nat) (f : Ctx → Ctx) : (s.modCtx c k f).fresh = s.fresh := rfl
@[simp] theorem State.modCtx_octets (s : State) (c k : Nat) (f : Ctx → Ctx) : (s.modCtx c k f).octets = s.octets := rfl
@[simp] theorem State.modCtx_dies (s : State) (c k : Nat) (f : Ctx → Ctx) : (s.modCtx c k f).dies = s.dies := rfl
@[simp] theorem State.modCtx_insts (s : State) (c k : Nat) (f : Ctx → Ctx) : (s.modCtx c k f).insts = s.insts := rfl
@[simp] theorem State.modCtx_rings (s : State) (c k : Nat) (f : Ctx → Ctx) : (s.modCtx c k f).rings = s.rings := rfl
@[simp] theorem State.modCtx_hbm (s : State) (c k : Nat) (f : Ctx → Ctx) : (s.modCtx c k f).hbm = s.hbm := rfl
@[simp] theorem State.modCtx_hbmEcc (s : State) (c k : Nat) (f : Ctx → Ctx) : (s.modCtx c k f).hbmEcc = s.hbmEcc := rfl
@[simp] theorem State.modCtx_objs (s : State) (c k : Nat) (f : Ctx → Ctx) : (s.modCtx c k f).objs = s.objs := rfl
@[simp] theorem State.modCtx_frames (s : State) (c k : Nat) (f : Ctx → Ctx) : (s.modCtx c k f).frames = s.frames := rfl
@[simp] theorem State.modCtx_beats (s : State) (c k : Nat) (f : Ctx → Ctx) : (s.modCtx c k f).beats = s.beats := rfl
@[simp] theorem State.modCtx_past (s : State) (c k : Nat) (f : Ctx → Ctx) : (s.modCtx c k f).past = s.past := rfl
@[simp] theorem State.modCtx_occ (s : State) (c k : Nat) (f : Ctx → Ctx) : (s.modCtx c k f).occ = s.occ := rfl
@[simp] theorem State.modCtx_sched (s : State) (c k : Nat) (f : Ctx → Ctx) : (s.modCtx c k f).sched = s.sched := rfl
@[simp] theorem State.modCtx_gov (s : State) (c k : Nat) (f : Ctx → Ctx) : (s.modCtx c k f).gov = s.gov := rfl
@[simp] theorem State.modCtx_boot (s : State) (c k : Nat) (f : Ctx → Ctx) : (s.modCtx c k f).boot = s.boot := rfl
@[simp] theorem State.modCtx_ductcfg (s : State) (c k : Nat) (f : Ctx → Ctx) : (s.modCtx c k f).ductcfg = s.ductcfg := rfl
@[simp] theorem State.modCtx_podRoot (s : State) (c k : Nat) (f : Ctx → Ctx) : (s.modCtx c k f).podRoot = s.podRoot := rfl
@[simp] theorem State.modCtx_ductEff (s : State) (c k : Nat) (f : Ctx → Ctx) : (s.modCtx c k f).ductEff = s.ductEff := rfl
@[simp] theorem State.modCtx_ductLog (s : State) (c k : Nat) (f : Ctx → Ctx) : (s.modCtx c k f).ductLog = s.ductLog := rfl
@[simp] theorem State.modCtx_snaps (s : State) (c k : Nat) (f : Ctx → Ctx) : (s.modCtx c k f).snaps = s.snaps := rfl
@[simp] theorem State.modCtx_snapbw (s : State) (c k : Nat) (f : Ctx → Ctx) : (s.modCtx c k f).snapbw = s.snapbw := rfl
@[simp] theorem State.modCtx_conns (s : State) (c k : Nat) (f : Ctx → Ctx) : (s.modCtx c k f).conns = s.conns := rfl
@[simp] theorem State.modCtx_modno (s : State) (c k : Nat) (f : Ctx → Ctx) : (s.modCtx c k f).modno = s.modno := rfl
@[simp] theorem State.modCtx_podsize (s : State) (c k : Nat) (f : Ctx → Ctx) : (s.modCtx c k f).podsize = s.podsize := rfl
@[simp] theorem State.modCtx_podOff (s : State) (c k : Nat) (f : Ctx → Ctx) : (s.modCtx c k f).podOff = s.podOff := rfl
@[simp] theorem State.modCtx_podBase (s : State) (c k : Nat) (f : Ctx → Ctx) : (s.modCtx c k f).podBase = s.podBase := rfl
@[simp] theorem State.modCtx_attached (s : State) (c k : Nat) (f : Ctx → Ctx) : (s.modCtx c k f).attached = s.attached := rfl
@[simp] theorem State.modCtx_collFmt (s : State) (c k : Nat) (f : Ctx → Ctx) : (s.modCtx c k f).collFmt = s.collFmt := rfl
@[simp] theorem State.modCtx_podCtl (s : State) (c k : Nat) (f : Ctx → Ctx) : (s.modCtx c k f).podCtl = s.podCtl := rfl
@[simp] theorem State.modCtx_linkFmt (s : State) (c k : Nat) (f : Ctx → Ctx) : (s.modCtx c k f).linkFmt = s.linkFmt := rfl
@[simp] theorem State.modCtx_refused (s : State) (c k : Nat) (f : Ctx → Ctx) : (s.modCtx c k f).refused = s.refused := rfl
@[simp] theorem State.modCtx_pendingLinks (s : State) (c k : Nat) (f : Ctx → Ctx) : (s.modCtx c k f).pendingLinks = s.pendingLinks := rfl
@[simp] theorem State.modCtx_deadLinks (s : State) (c k : Nat) (f : Ctx → Ctx) : (s.modCtx c k f).deadLinks = s.deadLinks := rfl
@[simp] theorem State.modCtx_deadMods (s : State) (c k : Nat) (f : Ctx → Ctx) : (s.modCtx c k f).deadMods = s.deadMods := rfl
@[simp] theorem State.modCtx_outbox (s : State) (c k : Nat) (f : Ctx → Ctx) : (s.modCtx c k f).outbox = s.outbox := rfl

/-! ### modHere -/

@[simp] theorem State.modHere_now (s : State) (f : Core → Core) : (s.modHere f).now = s.now := rfl
@[simp] theorem State.modHere_agenda (s : State) (f : Core → Core) : (s.modHere f).agenda = s.agenda := rfl
@[simp] theorem State.modHere_timers (s : State) (f : Core → Core) : (s.modHere f).timers = s.timers := rfl
@[simp] theorem State.modHere_stage (s : State) (f : Core → Core) : (s.modHere f).stage = s.stage := rfl
@[simp] theorem State.modHere_served (s : State) (f : Core → Core) : (s.modHere f).served = s.served := rfl
@[simp] theorem State.modHere_blocked (s : State) (f : Core → Core) : (s.modHere f).blocked = s.blocked := rfl
@[simp] theorem State.modHere_core (s : State) (f : Core → Core) : (s.modHere f).core = s.core := rfl
@[simp] theorem State.modHere_ctx (s : State) (f : Core → Core) : (s.modHere f).ctx = s.ctx := rfl
@[simp] theorem State.modHere_fresh (s : State) (f : Core → Core) : (s.modHere f).fresh = s.fresh := rfl
@[simp] theorem State.modHere_octets (s : State) (f : Core → Core) : (s.modHere f).octets = s.octets := rfl
@[simp] theorem State.modHere_dies (s : State) (f : Core → Core) : (s.modHere f).dies = s.dies := rfl
@[simp] theorem State.modHere_insts (s : State) (f : Core → Core) : (s.modHere f).insts = s.insts := rfl
@[simp] theorem State.modHere_rings (s : State) (f : Core → Core) : (s.modHere f).rings = s.rings := rfl
@[simp] theorem State.modHere_hbm (s : State) (f : Core → Core) : (s.modHere f).hbm = s.hbm := rfl
@[simp] theorem State.modHere_hbmEcc (s : State) (f : Core → Core) : (s.modHere f).hbmEcc = s.hbmEcc := rfl
@[simp] theorem State.modHere_objs (s : State) (f : Core → Core) : (s.modHere f).objs = s.objs := rfl
@[simp] theorem State.modHere_frames (s : State) (f : Core → Core) : (s.modHere f).frames = s.frames := rfl
@[simp] theorem State.modHere_beats (s : State) (f : Core → Core) : (s.modHere f).beats = s.beats := rfl
@[simp] theorem State.modHere_past (s : State) (f : Core → Core) : (s.modHere f).past = s.past := rfl
@[simp] theorem State.modHere_occ (s : State) (f : Core → Core) : (s.modHere f).occ = s.occ := rfl
@[simp] theorem State.modHere_sched (s : State) (f : Core → Core) : (s.modHere f).sched = s.sched := rfl
@[simp] theorem State.modHere_gov (s : State) (f : Core → Core) : (s.modHere f).gov = s.gov := rfl
@[simp] theorem State.modHere_boot (s : State) (f : Core → Core) : (s.modHere f).boot = s.boot := rfl
@[simp] theorem State.modHere_ductcfg (s : State) (f : Core → Core) : (s.modHere f).ductcfg = s.ductcfg := rfl
@[simp] theorem State.modHere_podRoot (s : State) (f : Core → Core) : (s.modHere f).podRoot = s.podRoot := rfl
@[simp] theorem State.modHere_ductEff (s : State) (f : Core → Core) : (s.modHere f).ductEff = s.ductEff := rfl
@[simp] theorem State.modHere_ductLog (s : State) (f : Core → Core) : (s.modHere f).ductLog = s.ductLog := rfl
@[simp] theorem State.modHere_snaps (s : State) (f : Core → Core) : (s.modHere f).snaps = s.snaps := rfl
@[simp] theorem State.modHere_snapbw (s : State) (f : Core → Core) : (s.modHere f).snapbw = s.snapbw := rfl
@[simp] theorem State.modHere_conns (s : State) (f : Core → Core) : (s.modHere f).conns = s.conns := rfl
@[simp] theorem State.modHere_modno (s : State) (f : Core → Core) : (s.modHere f).modno = s.modno := rfl
@[simp] theorem State.modHere_podsize (s : State) (f : Core → Core) : (s.modHere f).podsize = s.podsize := rfl
@[simp] theorem State.modHere_podOff (s : State) (f : Core → Core) : (s.modHere f).podOff = s.podOff := rfl
@[simp] theorem State.modHere_podBase (s : State) (f : Core → Core) : (s.modHere f).podBase = s.podBase := rfl
@[simp] theorem State.modHere_attached (s : State) (f : Core → Core) : (s.modHere f).attached = s.attached := rfl
@[simp] theorem State.modHere_collFmt (s : State) (f : Core → Core) : (s.modHere f).collFmt = s.collFmt := rfl
@[simp] theorem State.modHere_podCtl (s : State) (f : Core → Core) : (s.modHere f).podCtl = s.podCtl := rfl
@[simp] theorem State.modHere_linkFmt (s : State) (f : Core → Core) : (s.modHere f).linkFmt = s.linkFmt := rfl
@[simp] theorem State.modHere_refused (s : State) (f : Core → Core) : (s.modHere f).refused = s.refused := rfl
@[simp] theorem State.modHere_pendingLinks (s : State) (f : Core → Core) : (s.modHere f).pendingLinks = s.pendingLinks := rfl
@[simp] theorem State.modHere_deadLinks (s : State) (f : Core → Core) : (s.modHere f).deadLinks = s.deadLinks := rfl
@[simp] theorem State.modHere_deadMods (s : State) (f : Core → Core) : (s.modHere f).deadMods = s.deadMods := rfl
@[simp] theorem State.modHere_outbox (s : State) (f : Core → Core) : (s.modHere f).outbox = s.outbox := rfl

/-! ### modMe -/

@[simp] theorem State.modMe_now (s : State) (f : Ctx → Ctx) : (s.modMe f).now = s.now := rfl
@[simp] theorem State.modMe_agenda (s : State) (f : Ctx → Ctx) : (s.modMe f).agenda = s.agenda := rfl
@[simp] theorem State.modMe_timers (s : State) (f : Ctx → Ctx) : (s.modMe f).timers = s.timers := rfl
@[simp] theorem State.modMe_stage (s : State) (f : Ctx → Ctx) : (s.modMe f).stage = s.stage := rfl
@[simp] theorem State.modMe_served (s : State) (f : Ctx → Ctx) : (s.modMe f).served = s.served := rfl
@[simp] theorem State.modMe_blocked (s : State) (f : Ctx → Ctx) : (s.modMe f).blocked = s.blocked := rfl
@[simp] theorem State.modMe_core (s : State) (f : Ctx → Ctx) : (s.modMe f).core = s.core := rfl
@[simp] theorem State.modMe_ctx (s : State) (f : Ctx → Ctx) : (s.modMe f).ctx = s.ctx := rfl
@[simp] theorem State.modMe_fresh (s : State) (f : Ctx → Ctx) : (s.modMe f).fresh = s.fresh := rfl
@[simp] theorem State.modMe_octets (s : State) (f : Ctx → Ctx) : (s.modMe f).octets = s.octets := rfl
@[simp] theorem State.modMe_dies (s : State) (f : Ctx → Ctx) : (s.modMe f).dies = s.dies := rfl
@[simp] theorem State.modMe_insts (s : State) (f : Ctx → Ctx) : (s.modMe f).insts = s.insts := rfl
@[simp] theorem State.modMe_rings (s : State) (f : Ctx → Ctx) : (s.modMe f).rings = s.rings := rfl
@[simp] theorem State.modMe_hbm (s : State) (f : Ctx → Ctx) : (s.modMe f).hbm = s.hbm := rfl
@[simp] theorem State.modMe_hbmEcc (s : State) (f : Ctx → Ctx) : (s.modMe f).hbmEcc = s.hbmEcc := rfl
@[simp] theorem State.modMe_objs (s : State) (f : Ctx → Ctx) : (s.modMe f).objs = s.objs := rfl
@[simp] theorem State.modMe_frames (s : State) (f : Ctx → Ctx) : (s.modMe f).frames = s.frames := rfl
@[simp] theorem State.modMe_beats (s : State) (f : Ctx → Ctx) : (s.modMe f).beats = s.beats := rfl
@[simp] theorem State.modMe_past (s : State) (f : Ctx → Ctx) : (s.modMe f).past = s.past := rfl
@[simp] theorem State.modMe_occ (s : State) (f : Ctx → Ctx) : (s.modMe f).occ = s.occ := rfl
@[simp] theorem State.modMe_sched (s : State) (f : Ctx → Ctx) : (s.modMe f).sched = s.sched := rfl
@[simp] theorem State.modMe_gov (s : State) (f : Ctx → Ctx) : (s.modMe f).gov = s.gov := rfl
@[simp] theorem State.modMe_boot (s : State) (f : Ctx → Ctx) : (s.modMe f).boot = s.boot := rfl
@[simp] theorem State.modMe_ductcfg (s : State) (f : Ctx → Ctx) : (s.modMe f).ductcfg = s.ductcfg := rfl
@[simp] theorem State.modMe_podRoot (s : State) (f : Ctx → Ctx) : (s.modMe f).podRoot = s.podRoot := rfl
@[simp] theorem State.modMe_ductEff (s : State) (f : Ctx → Ctx) : (s.modMe f).ductEff = s.ductEff := rfl
@[simp] theorem State.modMe_ductLog (s : State) (f : Ctx → Ctx) : (s.modMe f).ductLog = s.ductLog := rfl
@[simp] theorem State.modMe_snaps (s : State) (f : Ctx → Ctx) : (s.modMe f).snaps = s.snaps := rfl
@[simp] theorem State.modMe_snapbw (s : State) (f : Ctx → Ctx) : (s.modMe f).snapbw = s.snapbw := rfl
@[simp] theorem State.modMe_conns (s : State) (f : Ctx → Ctx) : (s.modMe f).conns = s.conns := rfl
@[simp] theorem State.modMe_modno (s : State) (f : Ctx → Ctx) : (s.modMe f).modno = s.modno := rfl
@[simp] theorem State.modMe_podsize (s : State) (f : Ctx → Ctx) : (s.modMe f).podsize = s.podsize := rfl
@[simp] theorem State.modMe_podOff (s : State) (f : Ctx → Ctx) : (s.modMe f).podOff = s.podOff := rfl
@[simp] theorem State.modMe_podBase (s : State) (f : Ctx → Ctx) : (s.modMe f).podBase = s.podBase := rfl
@[simp] theorem State.modMe_attached (s : State) (f : Ctx → Ctx) : (s.modMe f).attached = s.attached := rfl
@[simp] theorem State.modMe_collFmt (s : State) (f : Ctx → Ctx) : (s.modMe f).collFmt = s.collFmt := rfl
@[simp] theorem State.modMe_podCtl (s : State) (f : Ctx → Ctx) : (s.modMe f).podCtl = s.podCtl := rfl
@[simp] theorem State.modMe_linkFmt (s : State) (f : Ctx → Ctx) : (s.modMe f).linkFmt = s.linkFmt := rfl
@[simp] theorem State.modMe_refused (s : State) (f : Ctx → Ctx) : (s.modMe f).refused = s.refused := rfl
@[simp] theorem State.modMe_pendingLinks (s : State) (f : Ctx → Ctx) : (s.modMe f).pendingLinks = s.pendingLinks := rfl
@[simp] theorem State.modMe_deadLinks (s : State) (f : Ctx → Ctx) : (s.modMe f).deadLinks = s.deadLinks := rfl
@[simp] theorem State.modMe_deadMods (s : State) (f : Ctx → Ctx) : (s.modMe f).deadMods = s.deadMods := rfl
@[simp] theorem State.modMe_outbox (s : State) (f : Ctx → Ctx) : (s.modMe f).outbox = s.outbox := rfl

/-! ### setG -/

@[simp] theorem State.setG_now (s : State) (r : GReg) (v : Word) : (s.setG r v).now = s.now := rfl
@[simp] theorem State.setG_agenda (s : State) (r : GReg) (v : Word) : (s.setG r v).agenda = s.agenda := rfl
@[simp] theorem State.setG_timers (s : State) (r : GReg) (v : Word) : (s.setG r v).timers = s.timers := rfl
@[simp] theorem State.setG_stage (s : State) (r : GReg) (v : Word) : (s.setG r v).stage = s.stage := rfl
@[simp] theorem State.setG_served (s : State) (r : GReg) (v : Word) : (s.setG r v).served = s.served := rfl
@[simp] theorem State.setG_blocked (s : State) (r : GReg) (v : Word) : (s.setG r v).blocked = s.blocked := rfl
@[simp] theorem State.setG_core (s : State) (r : GReg) (v : Word) : (s.setG r v).core = s.core := rfl
@[simp] theorem State.setG_ctx (s : State) (r : GReg) (v : Word) : (s.setG r v).ctx = s.ctx := rfl
@[simp] theorem State.setG_fresh (s : State) (r : GReg) (v : Word) : (s.setG r v).fresh = s.fresh := rfl
@[simp] theorem State.setG_octets (s : State) (r : GReg) (v : Word) : (s.setG r v).octets = s.octets := rfl
@[simp] theorem State.setG_dies (s : State) (r : GReg) (v : Word) : (s.setG r v).dies = s.dies := rfl
@[simp] theorem State.setG_insts (s : State) (r : GReg) (v : Word) : (s.setG r v).insts = s.insts := rfl
@[simp] theorem State.setG_rings (s : State) (r : GReg) (v : Word) : (s.setG r v).rings = s.rings := rfl
@[simp] theorem State.setG_hbm (s : State) (r : GReg) (v : Word) : (s.setG r v).hbm = s.hbm := rfl
@[simp] theorem State.setG_hbmEcc (s : State) (r : GReg) (v : Word) : (s.setG r v).hbmEcc = s.hbmEcc := rfl
@[simp] theorem State.setG_objs (s : State) (r : GReg) (v : Word) : (s.setG r v).objs = s.objs := rfl
@[simp] theorem State.setG_frames (s : State) (r : GReg) (v : Word) : (s.setG r v).frames = s.frames := rfl
@[simp] theorem State.setG_beats (s : State) (r : GReg) (v : Word) : (s.setG r v).beats = s.beats := rfl
@[simp] theorem State.setG_past (s : State) (r : GReg) (v : Word) : (s.setG r v).past = s.past := rfl
@[simp] theorem State.setG_occ (s : State) (r : GReg) (v : Word) : (s.setG r v).occ = s.occ := rfl
@[simp] theorem State.setG_sched (s : State) (r : GReg) (v : Word) : (s.setG r v).sched = s.sched := rfl
@[simp] theorem State.setG_gov (s : State) (r : GReg) (v : Word) : (s.setG r v).gov = s.gov := rfl
@[simp] theorem State.setG_boot (s : State) (r : GReg) (v : Word) : (s.setG r v).boot = s.boot := rfl
@[simp] theorem State.setG_ductcfg (s : State) (r : GReg) (v : Word) : (s.setG r v).ductcfg = s.ductcfg := rfl
@[simp] theorem State.setG_podRoot (s : State) (r : GReg) (v : Word) : (s.setG r v).podRoot = s.podRoot := rfl
@[simp] theorem State.setG_ductEff (s : State) (r : GReg) (v : Word) : (s.setG r v).ductEff = s.ductEff := rfl
@[simp] theorem State.setG_ductLog (s : State) (r : GReg) (v : Word) : (s.setG r v).ductLog = s.ductLog := rfl
@[simp] theorem State.setG_snaps (s : State) (r : GReg) (v : Word) : (s.setG r v).snaps = s.snaps := rfl
@[simp] theorem State.setG_snapbw (s : State) (r : GReg) (v : Word) : (s.setG r v).snapbw = s.snapbw := rfl
@[simp] theorem State.setG_conns (s : State) (r : GReg) (v : Word) : (s.setG r v).conns = s.conns := rfl
@[simp] theorem State.setG_modno (s : State) (r : GReg) (v : Word) : (s.setG r v).modno = s.modno := rfl
@[simp] theorem State.setG_podsize (s : State) (r : GReg) (v : Word) : (s.setG r v).podsize = s.podsize := rfl
@[simp] theorem State.setG_podOff (s : State) (r : GReg) (v : Word) : (s.setG r v).podOff = s.podOff := rfl
@[simp] theorem State.setG_podBase (s : State) (r : GReg) (v : Word) : (s.setG r v).podBase = s.podBase := rfl
@[simp] theorem State.setG_attached (s : State) (r : GReg) (v : Word) : (s.setG r v).attached = s.attached := rfl
@[simp] theorem State.setG_collFmt (s : State) (r : GReg) (v : Word) : (s.setG r v).collFmt = s.collFmt := rfl
@[simp] theorem State.setG_podCtl (s : State) (r : GReg) (v : Word) : (s.setG r v).podCtl = s.podCtl := rfl
@[simp] theorem State.setG_linkFmt (s : State) (r : GReg) (v : Word) : (s.setG r v).linkFmt = s.linkFmt := rfl
@[simp] theorem State.setG_refused (s : State) (r : GReg) (v : Word) : (s.setG r v).refused = s.refused := rfl
@[simp] theorem State.setG_pendingLinks (s : State) (r : GReg) (v : Word) : (s.setG r v).pendingLinks = s.pendingLinks := rfl
@[simp] theorem State.setG_deadLinks (s : State) (r : GReg) (v : Word) : (s.setG r v).deadLinks = s.deadLinks := rfl
@[simp] theorem State.setG_deadMods (s : State) (r : GReg) (v : Word) : (s.setG r v).deadMods = s.deadMods := rfl
@[simp] theorem State.setG_outbox (s : State) (r : GReg) (v : Word) : (s.setG r v).outbox = s.outbox := rfl

/-! ### at_ -/

@[simp] theorem State.at_now (s : State) (c k : Nat) : (s.at_ c k).now = s.now := rfl
@[simp] theorem State.at_agenda (s : State) (c k : Nat) : (s.at_ c k).agenda = s.agenda := rfl
@[simp] theorem State.at_timers (s : State) (c k : Nat) : (s.at_ c k).timers = s.timers := rfl
@[simp] theorem State.at_stage (s : State) (c k : Nat) : (s.at_ c k).stage = s.stage := rfl
@[simp] theorem State.at_served (s : State) (c k : Nat) : (s.at_ c k).served = s.served := rfl
@[simp] theorem State.at_blocked (s : State) (c k : Nat) : (s.at_ c k).blocked = s.blocked := rfl
@[simp] theorem State.at_fresh (s : State) (c k : Nat) : (s.at_ c k).fresh = s.fresh := rfl
@[simp] theorem State.at_cores (s : State) (c k : Nat) : (s.at_ c k).cores = s.cores := rfl
@[simp] theorem State.at_octets (s : State) (c k : Nat) : (s.at_ c k).octets = s.octets := rfl
@[simp] theorem State.at_dies (s : State) (c k : Nat) : (s.at_ c k).dies = s.dies := rfl
@[simp] theorem State.at_insts (s : State) (c k : Nat) : (s.at_ c k).insts = s.insts := rfl
@[simp] theorem State.at_rings (s : State) (c k : Nat) : (s.at_ c k).rings = s.rings := rfl
@[simp] theorem State.at_hbm (s : State) (c k : Nat) : (s.at_ c k).hbm = s.hbm := rfl
@[simp] theorem State.at_hbmEcc (s : State) (c k : Nat) : (s.at_ c k).hbmEcc = s.hbmEcc := rfl
@[simp] theorem State.at_objs (s : State) (c k : Nat) : (s.at_ c k).objs = s.objs := rfl
@[simp] theorem State.at_frames (s : State) (c k : Nat) : (s.at_ c k).frames = s.frames := rfl
@[simp] theorem State.at_beats (s : State) (c k : Nat) : (s.at_ c k).beats = s.beats := rfl
@[simp] theorem State.at_past (s : State) (c k : Nat) : (s.at_ c k).past = s.past := rfl
@[simp] theorem State.at_occ (s : State) (c k : Nat) : (s.at_ c k).occ = s.occ := rfl
@[simp] theorem State.at_sched (s : State) (c k : Nat) : (s.at_ c k).sched = s.sched := rfl
@[simp] theorem State.at_gov (s : State) (c k : Nat) : (s.at_ c k).gov = s.gov := rfl
@[simp] theorem State.at_boot (s : State) (c k : Nat) : (s.at_ c k).boot = s.boot := rfl
@[simp] theorem State.at_ductcfg (s : State) (c k : Nat) : (s.at_ c k).ductcfg = s.ductcfg := rfl
@[simp] theorem State.at_podRoot (s : State) (c k : Nat) : (s.at_ c k).podRoot = s.podRoot := rfl
@[simp] theorem State.at_ductEff (s : State) (c k : Nat) : (s.at_ c k).ductEff = s.ductEff := rfl
@[simp] theorem State.at_ductLog (s : State) (c k : Nat) : (s.at_ c k).ductLog = s.ductLog := rfl
@[simp] theorem State.at_snaps (s : State) (c k : Nat) : (s.at_ c k).snaps = s.snaps := rfl
@[simp] theorem State.at_snapbw (s : State) (c k : Nat) : (s.at_ c k).snapbw = s.snapbw := rfl
@[simp] theorem State.at_conns (s : State) (c k : Nat) : (s.at_ c k).conns = s.conns := rfl
@[simp] theorem State.at_modno (s : State) (c k : Nat) : (s.at_ c k).modno = s.modno := rfl
@[simp] theorem State.at_podsize (s : State) (c k : Nat) : (s.at_ c k).podsize = s.podsize := rfl
@[simp] theorem State.at_podOff (s : State) (c k : Nat) : (s.at_ c k).podOff = s.podOff := rfl
@[simp] theorem State.at_podBase (s : State) (c k : Nat) : (s.at_ c k).podBase = s.podBase := rfl
@[simp] theorem State.at_attached (s : State) (c k : Nat) : (s.at_ c k).attached = s.attached := rfl
@[simp] theorem State.at_collFmt (s : State) (c k : Nat) : (s.at_ c k).collFmt = s.collFmt := rfl
@[simp] theorem State.at_podCtl (s : State) (c k : Nat) : (s.at_ c k).podCtl = s.podCtl := rfl
@[simp] theorem State.at_linkFmt (s : State) (c k : Nat) : (s.at_ c k).linkFmt = s.linkFmt := rfl
@[simp] theorem State.at_refused (s : State) (c k : Nat) : (s.at_ c k).refused = s.refused := rfl
@[simp] theorem State.at_pendingLinks (s : State) (c k : Nat) : (s.at_ c k).pendingLinks = s.pendingLinks := rfl
@[simp] theorem State.at_deadLinks (s : State) (c k : Nat) : (s.at_ c k).deadLinks = s.deadLinks := rfl
@[simp] theorem State.at_deadMods (s : State) (c k : Nat) : (s.at_ c k).deadMods = s.deadMods := rfl
@[simp] theorem State.at_outbox (s : State) (c k : Nat) : (s.at_ c k).outbox = s.outbox := rfl

/-! ### push -/

@[simp] theorem State.push_now (s : State) (i : Event) : (s.push i).now = s.now := rfl
@[simp] theorem State.push_timers (s : State) (i : Event) : (s.push i).timers = s.timers := rfl
@[simp] theorem State.push_stage (s : State) (i : Event) : (s.push i).stage = s.stage := rfl
@[simp] theorem State.push_served (s : State) (i : Event) : (s.push i).served = s.served := rfl
@[simp] theorem State.push_blocked (s : State) (i : Event) : (s.push i).blocked = s.blocked := rfl
@[simp] theorem State.push_core (s : State) (i : Event) : (s.push i).core = s.core := rfl
@[simp] theorem State.push_ctx (s : State) (i : Event) : (s.push i).ctx = s.ctx := rfl
@[simp] theorem State.push_fresh (s : State) (i : Event) : (s.push i).fresh = s.fresh := rfl
@[simp] theorem State.push_cores (s : State) (i : Event) : (s.push i).cores = s.cores := rfl
@[simp] theorem State.push_octets (s : State) (i : Event) : (s.push i).octets = s.octets := rfl
@[simp] theorem State.push_dies (s : State) (i : Event) : (s.push i).dies = s.dies := rfl
@[simp] theorem State.push_insts (s : State) (i : Event) : (s.push i).insts = s.insts := rfl
@[simp] theorem State.push_rings (s : State) (i : Event) : (s.push i).rings = s.rings := rfl
@[simp] theorem State.push_hbm (s : State) (i : Event) : (s.push i).hbm = s.hbm := rfl
@[simp] theorem State.push_hbmEcc (s : State) (i : Event) : (s.push i).hbmEcc = s.hbmEcc := rfl
@[simp] theorem State.push_objs (s : State) (i : Event) : (s.push i).objs = s.objs := rfl
@[simp] theorem State.push_frames (s : State) (i : Event) : (s.push i).frames = s.frames := rfl
@[simp] theorem State.push_beats (s : State) (i : Event) : (s.push i).beats = s.beats := rfl
@[simp] theorem State.push_past (s : State) (i : Event) : (s.push i).past = s.past := rfl
@[simp] theorem State.push_occ (s : State) (i : Event) : (s.push i).occ = s.occ := rfl
@[simp] theorem State.push_sched (s : State) (i : Event) : (s.push i).sched = s.sched := rfl
@[simp] theorem State.push_gov (s : State) (i : Event) : (s.push i).gov = s.gov := rfl
@[simp] theorem State.push_boot (s : State) (i : Event) : (s.push i).boot = s.boot := rfl
@[simp] theorem State.push_ductcfg (s : State) (i : Event) : (s.push i).ductcfg = s.ductcfg := rfl
@[simp] theorem State.push_podRoot (s : State) (i : Event) : (s.push i).podRoot = s.podRoot := rfl
@[simp] theorem State.push_ductEff (s : State) (i : Event) : (s.push i).ductEff = s.ductEff := rfl
@[simp] theorem State.push_ductLog (s : State) (i : Event) : (s.push i).ductLog = s.ductLog := rfl
@[simp] theorem State.push_snaps (s : State) (i : Event) : (s.push i).snaps = s.snaps := rfl
@[simp] theorem State.push_snapbw (s : State) (i : Event) : (s.push i).snapbw = s.snapbw := rfl
@[simp] theorem State.push_conns (s : State) (i : Event) : (s.push i).conns = s.conns := rfl
@[simp] theorem State.push_modno (s : State) (i : Event) : (s.push i).modno = s.modno := rfl
@[simp] theorem State.push_podsize (s : State) (i : Event) : (s.push i).podsize = s.podsize := rfl
@[simp] theorem State.push_podOff (s : State) (i : Event) : (s.push i).podOff = s.podOff := rfl
@[simp] theorem State.push_podBase (s : State) (i : Event) : (s.push i).podBase = s.podBase := rfl
@[simp] theorem State.push_attached (s : State) (i : Event) : (s.push i).attached = s.attached := rfl
@[simp] theorem State.push_collFmt (s : State) (i : Event) : (s.push i).collFmt = s.collFmt := rfl
@[simp] theorem State.push_podCtl (s : State) (i : Event) : (s.push i).podCtl = s.podCtl := rfl
@[simp] theorem State.push_linkFmt (s : State) (i : Event) : (s.push i).linkFmt = s.linkFmt := rfl
@[simp] theorem State.push_refused (s : State) (i : Event) : (s.push i).refused = s.refused := rfl
@[simp] theorem State.push_pendingLinks (s : State) (i : Event) : (s.push i).pendingLinks = s.pendingLinks := rfl
@[simp] theorem State.push_deadLinks (s : State) (i : Event) : (s.push i).deadLinks = s.deadLinks := rfl
@[simp] theorem State.push_deadMods (s : State) (i : Event) : (s.push i).deadMods = s.deadMods := rfl
@[simp] theorem State.push_outbox (s : State) (i : Event) : (s.push i).outbox = s.outbox := rfl

/-! ### pushFront -/

@[simp] theorem State.pushFront_now (s : State) (i : Event) : (s.pushFront i).now = s.now := rfl
@[simp] theorem State.pushFront_timers (s : State) (i : Event) : (s.pushFront i).timers = s.timers := rfl
@[simp] theorem State.pushFront_stage (s : State) (i : Event) : (s.pushFront i).stage = s.stage := rfl
@[simp] theorem State.pushFront_served (s : State) (i : Event) : (s.pushFront i).served = s.served := rfl
@[simp] theorem State.pushFront_blocked (s : State) (i : Event) : (s.pushFront i).blocked = s.blocked := rfl
@[simp] theorem State.pushFront_core (s : State) (i : Event) : (s.pushFront i).core = s.core := rfl
@[simp] theorem State.pushFront_ctx (s : State) (i : Event) : (s.pushFront i).ctx = s.ctx := rfl
@[simp] theorem State.pushFront_fresh (s : State) (i : Event) : (s.pushFront i).fresh = s.fresh := rfl
@[simp] theorem State.pushFront_cores (s : State) (i : Event) : (s.pushFront i).cores = s.cores := rfl
@[simp] theorem State.pushFront_octets (s : State) (i : Event) : (s.pushFront i).octets = s.octets := rfl
@[simp] theorem State.pushFront_dies (s : State) (i : Event) : (s.pushFront i).dies = s.dies := rfl
@[simp] theorem State.pushFront_insts (s : State) (i : Event) : (s.pushFront i).insts = s.insts := rfl
@[simp] theorem State.pushFront_rings (s : State) (i : Event) : (s.pushFront i).rings = s.rings := rfl
@[simp] theorem State.pushFront_hbm (s : State) (i : Event) : (s.pushFront i).hbm = s.hbm := rfl
@[simp] theorem State.pushFront_hbmEcc (s : State) (i : Event) : (s.pushFront i).hbmEcc = s.hbmEcc := rfl
@[simp] theorem State.pushFront_objs (s : State) (i : Event) : (s.pushFront i).objs = s.objs := rfl
@[simp] theorem State.pushFront_frames (s : State) (i : Event) : (s.pushFront i).frames = s.frames := rfl
@[simp] theorem State.pushFront_beats (s : State) (i : Event) : (s.pushFront i).beats = s.beats := rfl
@[simp] theorem State.pushFront_past (s : State) (i : Event) : (s.pushFront i).past = s.past := rfl
@[simp] theorem State.pushFront_occ (s : State) (i : Event) : (s.pushFront i).occ = s.occ := rfl
@[simp] theorem State.pushFront_sched (s : State) (i : Event) : (s.pushFront i).sched = s.sched := rfl
@[simp] theorem State.pushFront_gov (s : State) (i : Event) : (s.pushFront i).gov = s.gov := rfl
@[simp] theorem State.pushFront_boot (s : State) (i : Event) : (s.pushFront i).boot = s.boot := rfl
@[simp] theorem State.pushFront_ductcfg (s : State) (i : Event) : (s.pushFront i).ductcfg = s.ductcfg := rfl
@[simp] theorem State.pushFront_podRoot (s : State) (i : Event) : (s.pushFront i).podRoot = s.podRoot := rfl
@[simp] theorem State.pushFront_ductEff (s : State) (i : Event) : (s.pushFront i).ductEff = s.ductEff := rfl
@[simp] theorem State.pushFront_ductLog (s : State) (i : Event) : (s.pushFront i).ductLog = s.ductLog := rfl
@[simp] theorem State.pushFront_snaps (s : State) (i : Event) : (s.pushFront i).snaps = s.snaps := rfl
@[simp] theorem State.pushFront_snapbw (s : State) (i : Event) : (s.pushFront i).snapbw = s.snapbw := rfl
@[simp] theorem State.pushFront_conns (s : State) (i : Event) : (s.pushFront i).conns = s.conns := rfl
@[simp] theorem State.pushFront_modno (s : State) (i : Event) : (s.pushFront i).modno = s.modno := rfl
@[simp] theorem State.pushFront_podsize (s : State) (i : Event) : (s.pushFront i).podsize = s.podsize := rfl
@[simp] theorem State.pushFront_podOff (s : State) (i : Event) : (s.pushFront i).podOff = s.podOff := rfl
@[simp] theorem State.pushFront_podBase (s : State) (i : Event) : (s.pushFront i).podBase = s.podBase := rfl
@[simp] theorem State.pushFront_attached (s : State) (i : Event) : (s.pushFront i).attached = s.attached := rfl
@[simp] theorem State.pushFront_collFmt (s : State) (i : Event) : (s.pushFront i).collFmt = s.collFmt := rfl
@[simp] theorem State.pushFront_podCtl (s : State) (i : Event) : (s.pushFront i).podCtl = s.podCtl := rfl
@[simp] theorem State.pushFront_linkFmt (s : State) (i : Event) : (s.pushFront i).linkFmt = s.linkFmt := rfl
@[simp] theorem State.pushFront_refused (s : State) (i : Event) : (s.pushFront i).refused = s.refused := rfl
@[simp] theorem State.pushFront_pendingLinks (s : State) (i : Event) : (s.pushFront i).pendingLinks = s.pendingLinks := rfl
@[simp] theorem State.pushFront_deadLinks (s : State) (i : Event) : (s.pushFront i).deadLinks = s.deadLinks := rfl
@[simp] theorem State.pushFront_deadMods (s : State) (i : Event) : (s.pushFront i).deadMods = s.deadMods := rfl
@[simp] theorem State.pushFront_outbox (s : State) (i : Event) : (s.pushFront i).outbox = s.outbox := rfl

/-! ### after -/

@[simp] theorem State.after_now (s : State) (n : Nat) (i : Event) : (s.after n i).now = s.now := rfl
@[simp] theorem State.after_agenda (s : State) (n : Nat) (i : Event) : (s.after n i).agenda = s.agenda := rfl
@[simp] theorem State.after_stage (s : State) (n : Nat) (i : Event) : (s.after n i).stage = s.stage := rfl
@[simp] theorem State.after_served (s : State) (n : Nat) (i : Event) : (s.after n i).served = s.served := rfl
@[simp] theorem State.after_blocked (s : State) (n : Nat) (i : Event) : (s.after n i).blocked = s.blocked := rfl
@[simp] theorem State.after_core (s : State) (n : Nat) (i : Event) : (s.after n i).core = s.core := rfl
@[simp] theorem State.after_ctx (s : State) (n : Nat) (i : Event) : (s.after n i).ctx = s.ctx := rfl
@[simp] theorem State.after_fresh (s : State) (n : Nat) (i : Event) : (s.after n i).fresh = s.fresh := rfl
@[simp] theorem State.after_cores (s : State) (n : Nat) (i : Event) : (s.after n i).cores = s.cores := rfl
@[simp] theorem State.after_octets (s : State) (n : Nat) (i : Event) : (s.after n i).octets = s.octets := rfl
@[simp] theorem State.after_dies (s : State) (n : Nat) (i : Event) : (s.after n i).dies = s.dies := rfl
@[simp] theorem State.after_insts (s : State) (n : Nat) (i : Event) : (s.after n i).insts = s.insts := rfl
@[simp] theorem State.after_rings (s : State) (n : Nat) (i : Event) : (s.after n i).rings = s.rings := rfl
@[simp] theorem State.after_hbm (s : State) (n : Nat) (i : Event) : (s.after n i).hbm = s.hbm := rfl
@[simp] theorem State.after_hbmEcc (s : State) (n : Nat) (i : Event) : (s.after n i).hbmEcc = s.hbmEcc := rfl
@[simp] theorem State.after_objs (s : State) (n : Nat) (i : Event) : (s.after n i).objs = s.objs := rfl
@[simp] theorem State.after_frames (s : State) (n : Nat) (i : Event) : (s.after n i).frames = s.frames := rfl
@[simp] theorem State.after_beats (s : State) (n : Nat) (i : Event) : (s.after n i).beats = s.beats := rfl
@[simp] theorem State.after_past (s : State) (n : Nat) (i : Event) : (s.after n i).past = s.past := rfl
@[simp] theorem State.after_occ (s : State) (n : Nat) (i : Event) : (s.after n i).occ = s.occ := rfl
@[simp] theorem State.after_sched (s : State) (n : Nat) (i : Event) : (s.after n i).sched = s.sched := rfl
@[simp] theorem State.after_gov (s : State) (n : Nat) (i : Event) : (s.after n i).gov = s.gov := rfl
@[simp] theorem State.after_boot (s : State) (n : Nat) (i : Event) : (s.after n i).boot = s.boot := rfl
@[simp] theorem State.after_ductcfg (s : State) (n : Nat) (i : Event) : (s.after n i).ductcfg = s.ductcfg := rfl
@[simp] theorem State.after_podRoot (s : State) (n : Nat) (i : Event) : (s.after n i).podRoot = s.podRoot := rfl
@[simp] theorem State.after_ductEff (s : State) (n : Nat) (i : Event) : (s.after n i).ductEff = s.ductEff := rfl
@[simp] theorem State.after_ductLog (s : State) (n : Nat) (i : Event) : (s.after n i).ductLog = s.ductLog := rfl
@[simp] theorem State.after_snaps (s : State) (n : Nat) (i : Event) : (s.after n i).snaps = s.snaps := rfl
@[simp] theorem State.after_snapbw (s : State) (n : Nat) (i : Event) : (s.after n i).snapbw = s.snapbw := rfl
@[simp] theorem State.after_conns (s : State) (n : Nat) (i : Event) : (s.after n i).conns = s.conns := rfl
@[simp] theorem State.after_modno (s : State) (n : Nat) (i : Event) : (s.after n i).modno = s.modno := rfl
@[simp] theorem State.after_podsize (s : State) (n : Nat) (i : Event) : (s.after n i).podsize = s.podsize := rfl
@[simp] theorem State.after_podOff (s : State) (n : Nat) (i : Event) : (s.after n i).podOff = s.podOff := rfl
@[simp] theorem State.after_podBase (s : State) (n : Nat) (i : Event) : (s.after n i).podBase = s.podBase := rfl
@[simp] theorem State.after_attached (s : State) (n : Nat) (i : Event) : (s.after n i).attached = s.attached := rfl
@[simp] theorem State.after_collFmt (s : State) (n : Nat) (i : Event) : (s.after n i).collFmt = s.collFmt := rfl
@[simp] theorem State.after_podCtl (s : State) (n : Nat) (i : Event) : (s.after n i).podCtl = s.podCtl := rfl
@[simp] theorem State.after_linkFmt (s : State) (n : Nat) (i : Event) : (s.after n i).linkFmt = s.linkFmt := rfl
@[simp] theorem State.after_refused (s : State) (n : Nat) (i : Event) : (s.after n i).refused = s.refused := rfl
@[simp] theorem State.after_pendingLinks (s : State) (n : Nat) (i : Event) : (s.after n i).pendingLinks = s.pendingLinks := rfl
@[simp] theorem State.after_deadLinks (s : State) (n : Nat) (i : Event) : (s.after n i).deadLinks = s.deadLinks := rfl
@[simp] theorem State.after_deadMods (s : State) (n : Nat) (i : Event) : (s.after n i).deadMods = s.deadMods := rfl
@[simp] theorem State.after_outbox (s : State) (n : Nat) (i : Event) : (s.after n i).outbox = s.outbox := rfl

/-! ### tell -/

@[simp] theorem State.tell_now (s : State) (m : HostMsg) : (s.tell m).now = s.now := rfl
@[simp] theorem State.tell_agenda (s : State) (m : HostMsg) : (s.tell m).agenda = s.agenda := rfl
@[simp] theorem State.tell_timers (s : State) (m : HostMsg) : (s.tell m).timers = s.timers := rfl
@[simp] theorem State.tell_stage (s : State) (m : HostMsg) : (s.tell m).stage = s.stage := rfl
@[simp] theorem State.tell_served (s : State) (m : HostMsg) : (s.tell m).served = s.served := rfl
@[simp] theorem State.tell_blocked (s : State) (m : HostMsg) : (s.tell m).blocked = s.blocked := rfl
@[simp] theorem State.tell_core (s : State) (m : HostMsg) : (s.tell m).core = s.core := rfl
@[simp] theorem State.tell_ctx (s : State) (m : HostMsg) : (s.tell m).ctx = s.ctx := rfl
@[simp] theorem State.tell_fresh (s : State) (m : HostMsg) : (s.tell m).fresh = s.fresh := rfl
@[simp] theorem State.tell_cores (s : State) (m : HostMsg) : (s.tell m).cores = s.cores := rfl
@[simp] theorem State.tell_octets (s : State) (m : HostMsg) : (s.tell m).octets = s.octets := rfl
@[simp] theorem State.tell_dies (s : State) (m : HostMsg) : (s.tell m).dies = s.dies := rfl
@[simp] theorem State.tell_insts (s : State) (m : HostMsg) : (s.tell m).insts = s.insts := rfl
@[simp] theorem State.tell_rings (s : State) (m : HostMsg) : (s.tell m).rings = s.rings := rfl
@[simp] theorem State.tell_hbm (s : State) (m : HostMsg) : (s.tell m).hbm = s.hbm := rfl
@[simp] theorem State.tell_hbmEcc (s : State) (m : HostMsg) : (s.tell m).hbmEcc = s.hbmEcc := rfl
@[simp] theorem State.tell_objs (s : State) (m : HostMsg) : (s.tell m).objs = s.objs := rfl
@[simp] theorem State.tell_frames (s : State) (m : HostMsg) : (s.tell m).frames = s.frames := rfl
@[simp] theorem State.tell_beats (s : State) (m : HostMsg) : (s.tell m).beats = s.beats := rfl
@[simp] theorem State.tell_past (s : State) (m : HostMsg) : (s.tell m).past = s.past := rfl
@[simp] theorem State.tell_occ (s : State) (m : HostMsg) : (s.tell m).occ = s.occ := rfl
@[simp] theorem State.tell_sched (s : State) (m : HostMsg) : (s.tell m).sched = s.sched := rfl
@[simp] theorem State.tell_gov (s : State) (m : HostMsg) : (s.tell m).gov = s.gov := rfl
@[simp] theorem State.tell_boot (s : State) (m : HostMsg) : (s.tell m).boot = s.boot := rfl
@[simp] theorem State.tell_ductcfg (s : State) (m : HostMsg) : (s.tell m).ductcfg = s.ductcfg := rfl
@[simp] theorem State.tell_podRoot (s : State) (m : HostMsg) : (s.tell m).podRoot = s.podRoot := rfl
@[simp] theorem State.tell_ductEff (s : State) (m : HostMsg) : (s.tell m).ductEff = s.ductEff := rfl
@[simp] theorem State.tell_ductLog (s : State) (m : HostMsg) : (s.tell m).ductLog = s.ductLog := rfl
@[simp] theorem State.tell_snaps (s : State) (m : HostMsg) : (s.tell m).snaps = s.snaps := rfl
@[simp] theorem State.tell_snapbw (s : State) (m : HostMsg) : (s.tell m).snapbw = s.snapbw := rfl
@[simp] theorem State.tell_conns (s : State) (m : HostMsg) : (s.tell m).conns = s.conns := rfl
@[simp] theorem State.tell_modno (s : State) (m : HostMsg) : (s.tell m).modno = s.modno := rfl
@[simp] theorem State.tell_podsize (s : State) (m : HostMsg) : (s.tell m).podsize = s.podsize := rfl
@[simp] theorem State.tell_podOff (s : State) (m : HostMsg) : (s.tell m).podOff = s.podOff := rfl
@[simp] theorem State.tell_podBase (s : State) (m : HostMsg) : (s.tell m).podBase = s.podBase := rfl
@[simp] theorem State.tell_attached (s : State) (m : HostMsg) : (s.tell m).attached = s.attached := rfl
@[simp] theorem State.tell_collFmt (s : State) (m : HostMsg) : (s.tell m).collFmt = s.collFmt := rfl
@[simp] theorem State.tell_podCtl (s : State) (m : HostMsg) : (s.tell m).podCtl = s.podCtl := rfl
@[simp] theorem State.tell_linkFmt (s : State) (m : HostMsg) : (s.tell m).linkFmt = s.linkFmt := rfl
@[simp] theorem State.tell_refused (s : State) (m : HostMsg) : (s.tell m).refused = s.refused := rfl
@[simp] theorem State.tell_pendingLinks (s : State) (m : HostMsg) : (s.tell m).pendingLinks = s.pendingLinks := rfl
@[simp] theorem State.tell_deadLinks (s : State) (m : HostMsg) : (s.tell m).deadLinks = s.deadLinks := rfl
@[simp] theorem State.tell_deadMods (s : State) (m : HostMsg) : (s.tell m).deadMods = s.deadMods := rfl

/-! ### tick1 -/

@[simp] theorem State.tick1_now (s : State) : (s.tick1).now = s.now := rfl
@[simp] theorem State.tick1_agenda (s : State) : (s.tick1).agenda = s.agenda := rfl
@[simp] theorem State.tick1_timers (s : State) : (s.tick1).timers = s.timers := rfl
@[simp] theorem State.tick1_stage (s : State) : (s.tick1).stage = s.stage := rfl
@[simp] theorem State.tick1_served (s : State) : (s.tick1).served = s.served := rfl
@[simp] theorem State.tick1_blocked (s : State) : (s.tick1).blocked = s.blocked := rfl
@[simp] theorem State.tick1_core (s : State) : (s.tick1).core = s.core := rfl
@[simp] theorem State.tick1_ctx (s : State) : (s.tick1).ctx = s.ctx := rfl
@[simp] theorem State.tick1_cores (s : State) : (s.tick1).cores = s.cores := rfl
@[simp] theorem State.tick1_octets (s : State) : (s.tick1).octets = s.octets := rfl
@[simp] theorem State.tick1_dies (s : State) : (s.tick1).dies = s.dies := rfl
@[simp] theorem State.tick1_insts (s : State) : (s.tick1).insts = s.insts := rfl
@[simp] theorem State.tick1_rings (s : State) : (s.tick1).rings = s.rings := rfl
@[simp] theorem State.tick1_hbm (s : State) : (s.tick1).hbm = s.hbm := rfl
@[simp] theorem State.tick1_hbmEcc (s : State) : (s.tick1).hbmEcc = s.hbmEcc := rfl
@[simp] theorem State.tick1_objs (s : State) : (s.tick1).objs = s.objs := rfl
@[simp] theorem State.tick1_frames (s : State) : (s.tick1).frames = s.frames := rfl
@[simp] theorem State.tick1_beats (s : State) : (s.tick1).beats = s.beats := rfl
@[simp] theorem State.tick1_past (s : State) : (s.tick1).past = s.past := rfl
@[simp] theorem State.tick1_occ (s : State) : (s.tick1).occ = s.occ := rfl
@[simp] theorem State.tick1_sched (s : State) : (s.tick1).sched = s.sched := rfl
@[simp] theorem State.tick1_gov (s : State) : (s.tick1).gov = s.gov := rfl
@[simp] theorem State.tick1_boot (s : State) : (s.tick1).boot = s.boot := rfl
@[simp] theorem State.tick1_ductcfg (s : State) : (s.tick1).ductcfg = s.ductcfg := rfl
@[simp] theorem State.tick1_podRoot (s : State) : (s.tick1).podRoot = s.podRoot := rfl
@[simp] theorem State.tick1_ductEff (s : State) : (s.tick1).ductEff = s.ductEff := rfl
@[simp] theorem State.tick1_ductLog (s : State) : (s.tick1).ductLog = s.ductLog := rfl
@[simp] theorem State.tick1_snaps (s : State) : (s.tick1).snaps = s.snaps := rfl
@[simp] theorem State.tick1_snapbw (s : State) : (s.tick1).snapbw = s.snapbw := rfl
@[simp] theorem State.tick1_conns (s : State) : (s.tick1).conns = s.conns := rfl
@[simp] theorem State.tick1_modno (s : State) : (s.tick1).modno = s.modno := rfl
@[simp] theorem State.tick1_podsize (s : State) : (s.tick1).podsize = s.podsize := rfl
@[simp] theorem State.tick1_podOff (s : State) : (s.tick1).podOff = s.podOff := rfl
@[simp] theorem State.tick1_podBase (s : State) : (s.tick1).podBase = s.podBase := rfl
@[simp] theorem State.tick1_attached (s : State) : (s.tick1).attached = s.attached := rfl
@[simp] theorem State.tick1_collFmt (s : State) : (s.tick1).collFmt = s.collFmt := rfl
@[simp] theorem State.tick1_podCtl (s : State) : (s.tick1).podCtl = s.podCtl := rfl
@[simp] theorem State.tick1_linkFmt (s : State) : (s.tick1).linkFmt = s.linkFmt := rfl
@[simp] theorem State.tick1_refused (s : State) : (s.tick1).refused = s.refused := rfl
@[simp] theorem State.tick1_pendingLinks (s : State) : (s.tick1).pendingLinks = s.pendingLinks := rfl
@[simp] theorem State.tick1_deadLinks (s : State) : (s.tick1).deadLinks = s.deadLinks := rfl
@[simp] theorem State.tick1_deadMods (s : State) : (s.tick1).deadMods = s.deadMods := rfl
@[simp] theorem State.tick1_outbox (s : State) : (s.tick1).outbox = s.outbox := rfl

/-! ### modOct -/

@[simp] theorem State.modOct_now (s : State) (o : Nat) (f : Octet → Octet) : (s.modOct o f).now = s.now := rfl
@[simp] theorem State.modOct_agenda (s : State) (o : Nat) (f : Octet → Octet) : (s.modOct o f).agenda = s.agenda := rfl
@[simp] theorem State.modOct_timers (s : State) (o : Nat) (f : Octet → Octet) : (s.modOct o f).timers = s.timers := rfl
@[simp] theorem State.modOct_stage (s : State) (o : Nat) (f : Octet → Octet) : (s.modOct o f).stage = s.stage := rfl
@[simp] theorem State.modOct_served (s : State) (o : Nat) (f : Octet → Octet) : (s.modOct o f).served = s.served := rfl
@[simp] theorem State.modOct_blocked (s : State) (o : Nat) (f : Octet → Octet) : (s.modOct o f).blocked = s.blocked := rfl
@[simp] theorem State.modOct_core (s : State) (o : Nat) (f : Octet → Octet) : (s.modOct o f).core = s.core := rfl
@[simp] theorem State.modOct_ctx (s : State) (o : Nat) (f : Octet → Octet) : (s.modOct o f).ctx = s.ctx := rfl
@[simp] theorem State.modOct_fresh (s : State) (o : Nat) (f : Octet → Octet) : (s.modOct o f).fresh = s.fresh := rfl
@[simp] theorem State.modOct_cores (s : State) (o : Nat) (f : Octet → Octet) : (s.modOct o f).cores = s.cores := rfl
@[simp] theorem State.modOct_dies (s : State) (o : Nat) (f : Octet → Octet) : (s.modOct o f).dies = s.dies := rfl
@[simp] theorem State.modOct_insts (s : State) (o : Nat) (f : Octet → Octet) : (s.modOct o f).insts = s.insts := rfl
@[simp] theorem State.modOct_rings (s : State) (o : Nat) (f : Octet → Octet) : (s.modOct o f).rings = s.rings := rfl
@[simp] theorem State.modOct_hbm (s : State) (o : Nat) (f : Octet → Octet) : (s.modOct o f).hbm = s.hbm := rfl
@[simp] theorem State.modOct_hbmEcc (s : State) (o : Nat) (f : Octet → Octet) : (s.modOct o f).hbmEcc = s.hbmEcc := rfl
@[simp] theorem State.modOct_objs (s : State) (o : Nat) (f : Octet → Octet) : (s.modOct o f).objs = s.objs := rfl
@[simp] theorem State.modOct_frames (s : State) (o : Nat) (f : Octet → Octet) : (s.modOct o f).frames = s.frames := rfl
@[simp] theorem State.modOct_beats (s : State) (o : Nat) (f : Octet → Octet) : (s.modOct o f).beats = s.beats := rfl
@[simp] theorem State.modOct_past (s : State) (o : Nat) (f : Octet → Octet) : (s.modOct o f).past = s.past := rfl
@[simp] theorem State.modOct_occ (s : State) (o : Nat) (f : Octet → Octet) : (s.modOct o f).occ = s.occ := rfl
@[simp] theorem State.modOct_sched (s : State) (o : Nat) (f : Octet → Octet) : (s.modOct o f).sched = s.sched := rfl
@[simp] theorem State.modOct_gov (s : State) (o : Nat) (f : Octet → Octet) : (s.modOct o f).gov = s.gov := rfl
@[simp] theorem State.modOct_boot (s : State) (o : Nat) (f : Octet → Octet) : (s.modOct o f).boot = s.boot := rfl
@[simp] theorem State.modOct_ductcfg (s : State) (o : Nat) (f : Octet → Octet) : (s.modOct o f).ductcfg = s.ductcfg := rfl
@[simp] theorem State.modOct_podRoot (s : State) (o : Nat) (f : Octet → Octet) : (s.modOct o f).podRoot = s.podRoot := rfl
@[simp] theorem State.modOct_ductEff (s : State) (o : Nat) (f : Octet → Octet) : (s.modOct o f).ductEff = s.ductEff := rfl
@[simp] theorem State.modOct_ductLog (s : State) (o : Nat) (f : Octet → Octet) : (s.modOct o f).ductLog = s.ductLog := rfl
@[simp] theorem State.modOct_snaps (s : State) (o : Nat) (f : Octet → Octet) : (s.modOct o f).snaps = s.snaps := rfl
@[simp] theorem State.modOct_snapbw (s : State) (o : Nat) (f : Octet → Octet) : (s.modOct o f).snapbw = s.snapbw := rfl
@[simp] theorem State.modOct_conns (s : State) (o : Nat) (f : Octet → Octet) : (s.modOct o f).conns = s.conns := rfl
@[simp] theorem State.modOct_modno (s : State) (o : Nat) (f : Octet → Octet) : (s.modOct o f).modno = s.modno := rfl
@[simp] theorem State.modOct_podsize (s : State) (o : Nat) (f : Octet → Octet) : (s.modOct o f).podsize = s.podsize := rfl
@[simp] theorem State.modOct_podOff (s : State) (o : Nat) (f : Octet → Octet) : (s.modOct o f).podOff = s.podOff := rfl
@[simp] theorem State.modOct_podBase (s : State) (o : Nat) (f : Octet → Octet) : (s.modOct o f).podBase = s.podBase := rfl
@[simp] theorem State.modOct_attached (s : State) (o : Nat) (f : Octet → Octet) : (s.modOct o f).attached = s.attached := rfl
@[simp] theorem State.modOct_collFmt (s : State) (o : Nat) (f : Octet → Octet) : (s.modOct o f).collFmt = s.collFmt := rfl
@[simp] theorem State.modOct_podCtl (s : State) (o : Nat) (f : Octet → Octet) : (s.modOct o f).podCtl = s.podCtl := rfl
@[simp] theorem State.modOct_linkFmt (s : State) (o : Nat) (f : Octet → Octet) : (s.modOct o f).linkFmt = s.linkFmt := rfl
@[simp] theorem State.modOct_refused (s : State) (o : Nat) (f : Octet → Octet) : (s.modOct o f).refused = s.refused := rfl
@[simp] theorem State.modOct_pendingLinks (s : State) (o : Nat) (f : Octet → Octet) : (s.modOct o f).pendingLinks = s.pendingLinks := rfl
@[simp] theorem State.modOct_deadLinks (s : State) (o : Nat) (f : Octet → Octet) : (s.modOct o f).deadLinks = s.deadLinks := rfl
@[simp] theorem State.modOct_deadMods (s : State) (o : Nat) (f : Octet → Octet) : (s.modOct o f).deadMods = s.deadMods := rfl
@[simp] theorem State.modOct_outbox (s : State) (o : Nat) (f : Octet → Octet) : (s.modOct o f).outbox = s.outbox := rfl

/-! ### modDie -/

@[simp] theorem State.modDie_now (s : State) (d : Nat) (f : Die → Die) : (s.modDie d f).now = s.now := rfl
@[simp] theorem State.modDie_agenda (s : State) (d : Nat) (f : Die → Die) : (s.modDie d f).agenda = s.agenda := rfl
@[simp] theorem State.modDie_timers (s : State) (d : Nat) (f : Die → Die) : (s.modDie d f).timers = s.timers := rfl
@[simp] theorem State.modDie_stage (s : State) (d : Nat) (f : Die → Die) : (s.modDie d f).stage = s.stage := rfl
@[simp] theorem State.modDie_served (s : State) (d : Nat) (f : Die → Die) : (s.modDie d f).served = s.served := rfl
@[simp] theorem State.modDie_blocked (s : State) (d : Nat) (f : Die → Die) : (s.modDie d f).blocked = s.blocked := rfl
@[simp] theorem State.modDie_core (s : State) (d : Nat) (f : Die → Die) : (s.modDie d f).core = s.core := rfl
@[simp] theorem State.modDie_ctx (s : State) (d : Nat) (f : Die → Die) : (s.modDie d f).ctx = s.ctx := rfl
@[simp] theorem State.modDie_fresh (s : State) (d : Nat) (f : Die → Die) : (s.modDie d f).fresh = s.fresh := rfl
@[simp] theorem State.modDie_cores (s : State) (d : Nat) (f : Die → Die) : (s.modDie d f).cores = s.cores := rfl
@[simp] theorem State.modDie_octets (s : State) (d : Nat) (f : Die → Die) : (s.modDie d f).octets = s.octets := rfl
@[simp] theorem State.modDie_insts (s : State) (d : Nat) (f : Die → Die) : (s.modDie d f).insts = s.insts := rfl
@[simp] theorem State.modDie_rings (s : State) (d : Nat) (f : Die → Die) : (s.modDie d f).rings = s.rings := rfl
@[simp] theorem State.modDie_hbm (s : State) (d : Nat) (f : Die → Die) : (s.modDie d f).hbm = s.hbm := rfl
@[simp] theorem State.modDie_hbmEcc (s : State) (d : Nat) (f : Die → Die) : (s.modDie d f).hbmEcc = s.hbmEcc := rfl
@[simp] theorem State.modDie_objs (s : State) (d : Nat) (f : Die → Die) : (s.modDie d f).objs = s.objs := rfl
@[simp] theorem State.modDie_frames (s : State) (d : Nat) (f : Die → Die) : (s.modDie d f).frames = s.frames := rfl
@[simp] theorem State.modDie_beats (s : State) (d : Nat) (f : Die → Die) : (s.modDie d f).beats = s.beats := rfl
@[simp] theorem State.modDie_past (s : State) (d : Nat) (f : Die → Die) : (s.modDie d f).past = s.past := rfl
@[simp] theorem State.modDie_occ (s : State) (d : Nat) (f : Die → Die) : (s.modDie d f).occ = s.occ := rfl
@[simp] theorem State.modDie_sched (s : State) (d : Nat) (f : Die → Die) : (s.modDie d f).sched = s.sched := rfl
@[simp] theorem State.modDie_gov (s : State) (d : Nat) (f : Die → Die) : (s.modDie d f).gov = s.gov := rfl
@[simp] theorem State.modDie_boot (s : State) (d : Nat) (f : Die → Die) : (s.modDie d f).boot = s.boot := rfl
@[simp] theorem State.modDie_ductcfg (s : State) (d : Nat) (f : Die → Die) : (s.modDie d f).ductcfg = s.ductcfg := rfl
@[simp] theorem State.modDie_podRoot (s : State) (d : Nat) (f : Die → Die) : (s.modDie d f).podRoot = s.podRoot := rfl
@[simp] theorem State.modDie_ductEff (s : State) (d : Nat) (f : Die → Die) : (s.modDie d f).ductEff = s.ductEff := rfl
@[simp] theorem State.modDie_ductLog (s : State) (d : Nat) (f : Die → Die) : (s.modDie d f).ductLog = s.ductLog := rfl
@[simp] theorem State.modDie_snaps (s : State) (d : Nat) (f : Die → Die) : (s.modDie d f).snaps = s.snaps := rfl
@[simp] theorem State.modDie_snapbw (s : State) (d : Nat) (f : Die → Die) : (s.modDie d f).snapbw = s.snapbw := rfl
@[simp] theorem State.modDie_conns (s : State) (d : Nat) (f : Die → Die) : (s.modDie d f).conns = s.conns := rfl
@[simp] theorem State.modDie_modno (s : State) (d : Nat) (f : Die → Die) : (s.modDie d f).modno = s.modno := rfl
@[simp] theorem State.modDie_podsize (s : State) (d : Nat) (f : Die → Die) : (s.modDie d f).podsize = s.podsize := rfl
@[simp] theorem State.modDie_podOff (s : State) (d : Nat) (f : Die → Die) : (s.modDie d f).podOff = s.podOff := rfl
@[simp] theorem State.modDie_podBase (s : State) (d : Nat) (f : Die → Die) : (s.modDie d f).podBase = s.podBase := rfl
@[simp] theorem State.modDie_attached (s : State) (d : Nat) (f : Die → Die) : (s.modDie d f).attached = s.attached := rfl
@[simp] theorem State.modDie_collFmt (s : State) (d : Nat) (f : Die → Die) : (s.modDie d f).collFmt = s.collFmt := rfl
@[simp] theorem State.modDie_podCtl (s : State) (d : Nat) (f : Die → Die) : (s.modDie d f).podCtl = s.podCtl := rfl
@[simp] theorem State.modDie_linkFmt (s : State) (d : Nat) (f : Die → Die) : (s.modDie d f).linkFmt = s.linkFmt := rfl
@[simp] theorem State.modDie_refused (s : State) (d : Nat) (f : Die → Die) : (s.modDie d f).refused = s.refused := rfl
@[simp] theorem State.modDie_pendingLinks (s : State) (d : Nat) (f : Die → Die) : (s.modDie d f).pendingLinks = s.pendingLinks := rfl
@[simp] theorem State.modDie_deadLinks (s : State) (d : Nat) (f : Die → Die) : (s.modDie d f).deadLinks = s.deadLinks := rfl
@[simp] theorem State.modDie_deadMods (s : State) (d : Nat) (f : Die → Die) : (s.modDie d f).deadMods = s.deadMods := rfl
@[simp] theorem State.modDie_outbox (s : State) (d : Nat) (f : Die → Die) : (s.modDie d f).outbox = s.outbox := rfl

/-! ### modInst -/

@[simp] theorem State.modInst_now (s : State) (i : Inst) (f : DInst → DInst) : (s.modInst i f).now = s.now := rfl
@[simp] theorem State.modInst_agenda (s : State) (i : Inst) (f : DInst → DInst) : (s.modInst i f).agenda = s.agenda := rfl
@[simp] theorem State.modInst_timers (s : State) (i : Inst) (f : DInst → DInst) : (s.modInst i f).timers = s.timers := rfl
@[simp] theorem State.modInst_stage (s : State) (i : Inst) (f : DInst → DInst) : (s.modInst i f).stage = s.stage := rfl
@[simp] theorem State.modInst_served (s : State) (i : Inst) (f : DInst → DInst) : (s.modInst i f).served = s.served := rfl
@[simp] theorem State.modInst_blocked (s : State) (i : Inst) (f : DInst → DInst) : (s.modInst i f).blocked = s.blocked := rfl
@[simp] theorem State.modInst_core (s : State) (i : Inst) (f : DInst → DInst) : (s.modInst i f).core = s.core := rfl
@[simp] theorem State.modInst_ctx (s : State) (i : Inst) (f : DInst → DInst) : (s.modInst i f).ctx = s.ctx := rfl
@[simp] theorem State.modInst_fresh (s : State) (i : Inst) (f : DInst → DInst) : (s.modInst i f).fresh = s.fresh := rfl
@[simp] theorem State.modInst_cores (s : State) (i : Inst) (f : DInst → DInst) : (s.modInst i f).cores = s.cores := rfl
@[simp] theorem State.modInst_octets (s : State) (i : Inst) (f : DInst → DInst) : (s.modInst i f).octets = s.octets := rfl
@[simp] theorem State.modInst_dies (s : State) (i : Inst) (f : DInst → DInst) : (s.modInst i f).dies = s.dies := rfl
@[simp] theorem State.modInst_rings (s : State) (i : Inst) (f : DInst → DInst) : (s.modInst i f).rings = s.rings := rfl
@[simp] theorem State.modInst_hbm (s : State) (i : Inst) (f : DInst → DInst) : (s.modInst i f).hbm = s.hbm := rfl
@[simp] theorem State.modInst_hbmEcc (s : State) (i : Inst) (f : DInst → DInst) : (s.modInst i f).hbmEcc = s.hbmEcc := rfl
@[simp] theorem State.modInst_objs (s : State) (i : Inst) (f : DInst → DInst) : (s.modInst i f).objs = s.objs := rfl
@[simp] theorem State.modInst_frames (s : State) (i : Inst) (f : DInst → DInst) : (s.modInst i f).frames = s.frames := rfl
@[simp] theorem State.modInst_beats (s : State) (i : Inst) (f : DInst → DInst) : (s.modInst i f).beats = s.beats := rfl
@[simp] theorem State.modInst_past (s : State) (i : Inst) (f : DInst → DInst) : (s.modInst i f).past = s.past := rfl
@[simp] theorem State.modInst_occ (s : State) (i : Inst) (f : DInst → DInst) : (s.modInst i f).occ = s.occ := rfl
@[simp] theorem State.modInst_sched (s : State) (i : Inst) (f : DInst → DInst) : (s.modInst i f).sched = s.sched := rfl
@[simp] theorem State.modInst_gov (s : State) (i : Inst) (f : DInst → DInst) : (s.modInst i f).gov = s.gov := rfl
@[simp] theorem State.modInst_boot (s : State) (i : Inst) (f : DInst → DInst) : (s.modInst i f).boot = s.boot := rfl
@[simp] theorem State.modInst_ductcfg (s : State) (i : Inst) (f : DInst → DInst) : (s.modInst i f).ductcfg = s.ductcfg := rfl
@[simp] theorem State.modInst_podRoot (s : State) (i : Inst) (f : DInst → DInst) : (s.modInst i f).podRoot = s.podRoot := rfl
@[simp] theorem State.modInst_ductEff (s : State) (i : Inst) (f : DInst → DInst) : (s.modInst i f).ductEff = s.ductEff := rfl
@[simp] theorem State.modInst_ductLog (s : State) (i : Inst) (f : DInst → DInst) : (s.modInst i f).ductLog = s.ductLog := rfl
@[simp] theorem State.modInst_snaps (s : State) (i : Inst) (f : DInst → DInst) : (s.modInst i f).snaps = s.snaps := rfl
@[simp] theorem State.modInst_snapbw (s : State) (i : Inst) (f : DInst → DInst) : (s.modInst i f).snapbw = s.snapbw := rfl
@[simp] theorem State.modInst_conns (s : State) (i : Inst) (f : DInst → DInst) : (s.modInst i f).conns = s.conns := rfl
@[simp] theorem State.modInst_modno (s : State) (i : Inst) (f : DInst → DInst) : (s.modInst i f).modno = s.modno := rfl
@[simp] theorem State.modInst_podsize (s : State) (i : Inst) (f : DInst → DInst) : (s.modInst i f).podsize = s.podsize := rfl
@[simp] theorem State.modInst_podOff (s : State) (i : Inst) (f : DInst → DInst) : (s.modInst i f).podOff = s.podOff := rfl
@[simp] theorem State.modInst_podBase (s : State) (i : Inst) (f : DInst → DInst) : (s.modInst i f).podBase = s.podBase := rfl
@[simp] theorem State.modInst_attached (s : State) (i : Inst) (f : DInst → DInst) : (s.modInst i f).attached = s.attached := rfl
@[simp] theorem State.modInst_collFmt (s : State) (i : Inst) (f : DInst → DInst) : (s.modInst i f).collFmt = s.collFmt := rfl
@[simp] theorem State.modInst_podCtl (s : State) (i : Inst) (f : DInst → DInst) : (s.modInst i f).podCtl = s.podCtl := rfl
@[simp] theorem State.modInst_linkFmt (s : State) (i : Inst) (f : DInst → DInst) : (s.modInst i f).linkFmt = s.linkFmt := rfl
@[simp] theorem State.modInst_refused (s : State) (i : Inst) (f : DInst → DInst) : (s.modInst i f).refused = s.refused := rfl
@[simp] theorem State.modInst_pendingLinks (s : State) (i : Inst) (f : DInst → DInst) : (s.modInst i f).pendingLinks = s.pendingLinks := rfl
@[simp] theorem State.modInst_deadLinks (s : State) (i : Inst) (f : DInst → DInst) : (s.modInst i f).deadLinks = s.deadLinks := rfl
@[simp] theorem State.modInst_deadMods (s : State) (i : Inst) (f : DInst → DInst) : (s.modInst i f).deadMods = s.deadMods := rfl
@[simp] theorem State.modInst_outbox (s : State) (i : Inst) (f : DInst → DInst) : (s.modInst i f).outbox = s.outbox := rfl

/-! ### modRing -/

@[simp] theorem State.modRing_now (s : State) (r : RingId) (f : Ring → Ring) : (s.modRing r f).now = s.now := rfl
@[simp] theorem State.modRing_agenda (s : State) (r : RingId) (f : Ring → Ring) : (s.modRing r f).agenda = s.agenda := rfl
@[simp] theorem State.modRing_timers (s : State) (r : RingId) (f : Ring → Ring) : (s.modRing r f).timers = s.timers := rfl
@[simp] theorem State.modRing_stage (s : State) (r : RingId) (f : Ring → Ring) : (s.modRing r f).stage = s.stage := rfl
@[simp] theorem State.modRing_served (s : State) (r : RingId) (f : Ring → Ring) : (s.modRing r f).served = s.served := rfl
@[simp] theorem State.modRing_blocked (s : State) (r : RingId) (f : Ring → Ring) : (s.modRing r f).blocked = s.blocked := rfl
@[simp] theorem State.modRing_core (s : State) (r : RingId) (f : Ring → Ring) : (s.modRing r f).core = s.core := rfl
@[simp] theorem State.modRing_ctx (s : State) (r : RingId) (f : Ring → Ring) : (s.modRing r f).ctx = s.ctx := rfl
@[simp] theorem State.modRing_fresh (s : State) (r : RingId) (f : Ring → Ring) : (s.modRing r f).fresh = s.fresh := rfl
@[simp] theorem State.modRing_cores (s : State) (r : RingId) (f : Ring → Ring) : (s.modRing r f).cores = s.cores := rfl
@[simp] theorem State.modRing_octets (s : State) (r : RingId) (f : Ring → Ring) : (s.modRing r f).octets = s.octets := rfl
@[simp] theorem State.modRing_dies (s : State) (r : RingId) (f : Ring → Ring) : (s.modRing r f).dies = s.dies := rfl
@[simp] theorem State.modRing_insts (s : State) (r : RingId) (f : Ring → Ring) : (s.modRing r f).insts = s.insts := rfl
@[simp] theorem State.modRing_hbm (s : State) (r : RingId) (f : Ring → Ring) : (s.modRing r f).hbm = s.hbm := rfl
@[simp] theorem State.modRing_hbmEcc (s : State) (r : RingId) (f : Ring → Ring) : (s.modRing r f).hbmEcc = s.hbmEcc := rfl
@[simp] theorem State.modRing_objs (s : State) (r : RingId) (f : Ring → Ring) : (s.modRing r f).objs = s.objs := rfl
@[simp] theorem State.modRing_frames (s : State) (r : RingId) (f : Ring → Ring) : (s.modRing r f).frames = s.frames := rfl
@[simp] theorem State.modRing_beats (s : State) (r : RingId) (f : Ring → Ring) : (s.modRing r f).beats = s.beats := rfl
@[simp] theorem State.modRing_past (s : State) (r : RingId) (f : Ring → Ring) : (s.modRing r f).past = s.past := rfl
@[simp] theorem State.modRing_occ (s : State) (r : RingId) (f : Ring → Ring) : (s.modRing r f).occ = s.occ := rfl
@[simp] theorem State.modRing_sched (s : State) (r : RingId) (f : Ring → Ring) : (s.modRing r f).sched = s.sched := rfl
@[simp] theorem State.modRing_gov (s : State) (r : RingId) (f : Ring → Ring) : (s.modRing r f).gov = s.gov := rfl
@[simp] theorem State.modRing_boot (s : State) (r : RingId) (f : Ring → Ring) : (s.modRing r f).boot = s.boot := rfl
@[simp] theorem State.modRing_ductcfg (s : State) (r : RingId) (f : Ring → Ring) : (s.modRing r f).ductcfg = s.ductcfg := rfl
@[simp] theorem State.modRing_podRoot (s : State) (r : RingId) (f : Ring → Ring) : (s.modRing r f).podRoot = s.podRoot := rfl
@[simp] theorem State.modRing_ductEff (s : State) (r : RingId) (f : Ring → Ring) : (s.modRing r f).ductEff = s.ductEff := rfl
@[simp] theorem State.modRing_ductLog (s : State) (r : RingId) (f : Ring → Ring) : (s.modRing r f).ductLog = s.ductLog := rfl
@[simp] theorem State.modRing_snaps (s : State) (r : RingId) (f : Ring → Ring) : (s.modRing r f).snaps = s.snaps := rfl
@[simp] theorem State.modRing_snapbw (s : State) (r : RingId) (f : Ring → Ring) : (s.modRing r f).snapbw = s.snapbw := rfl
@[simp] theorem State.modRing_conns (s : State) (r : RingId) (f : Ring → Ring) : (s.modRing r f).conns = s.conns := rfl
@[simp] theorem State.modRing_modno (s : State) (r : RingId) (f : Ring → Ring) : (s.modRing r f).modno = s.modno := rfl
@[simp] theorem State.modRing_podsize (s : State) (r : RingId) (f : Ring → Ring) : (s.modRing r f).podsize = s.podsize := rfl
@[simp] theorem State.modRing_podOff (s : State) (r : RingId) (f : Ring → Ring) : (s.modRing r f).podOff = s.podOff := rfl
@[simp] theorem State.modRing_podBase (s : State) (r : RingId) (f : Ring → Ring) : (s.modRing r f).podBase = s.podBase := rfl
@[simp] theorem State.modRing_attached (s : State) (r : RingId) (f : Ring → Ring) : (s.modRing r f).attached = s.attached := rfl
@[simp] theorem State.modRing_collFmt (s : State) (r : RingId) (f : Ring → Ring) : (s.modRing r f).collFmt = s.collFmt := rfl
@[simp] theorem State.modRing_podCtl (s : State) (r : RingId) (f : Ring → Ring) : (s.modRing r f).podCtl = s.podCtl := rfl
@[simp] theorem State.modRing_linkFmt (s : State) (r : RingId) (f : Ring → Ring) : (s.modRing r f).linkFmt = s.linkFmt := rfl
@[simp] theorem State.modRing_refused (s : State) (r : RingId) (f : Ring → Ring) : (s.modRing r f).refused = s.refused := rfl
@[simp] theorem State.modRing_pendingLinks (s : State) (r : RingId) (f : Ring → Ring) : (s.modRing r f).pendingLinks = s.pendingLinks := rfl
@[simp] theorem State.modRing_deadLinks (s : State) (r : RingId) (f : Ring → Ring) : (s.modRing r f).deadLinks = s.deadLinks := rfl
@[simp] theorem State.modRing_deadMods (s : State) (r : RingId) (f : Ring → Ring) : (s.modRing r f).deadMods = s.deadMods := rfl
@[simp] theorem State.modRing_outbox (s : State) (r : RingId) (f : Ring → Ring) : (s.modRing r f).outbox = s.outbox := rfl

/-! ### modSched -/

@[simp] theorem State.modSched_now (s : State) (f : Sched → Sched) : (s.modSched f).now = s.now := rfl
@[simp] theorem State.modSched_agenda (s : State) (f : Sched → Sched) : (s.modSched f).agenda = s.agenda := rfl
@[simp] theorem State.modSched_timers (s : State) (f : Sched → Sched) : (s.modSched f).timers = s.timers := rfl
@[simp] theorem State.modSched_stage (s : State) (f : Sched → Sched) : (s.modSched f).stage = s.stage := rfl
@[simp] theorem State.modSched_served (s : State) (f : Sched → Sched) : (s.modSched f).served = s.served := rfl
@[simp] theorem State.modSched_blocked (s : State) (f : Sched → Sched) : (s.modSched f).blocked = s.blocked := rfl
@[simp] theorem State.modSched_core (s : State) (f : Sched → Sched) : (s.modSched f).core = s.core := rfl
@[simp] theorem State.modSched_ctx (s : State) (f : Sched → Sched) : (s.modSched f).ctx = s.ctx := rfl
@[simp] theorem State.modSched_fresh (s : State) (f : Sched → Sched) : (s.modSched f).fresh = s.fresh := rfl
@[simp] theorem State.modSched_cores (s : State) (f : Sched → Sched) : (s.modSched f).cores = s.cores := rfl
@[simp] theorem State.modSched_octets (s : State) (f : Sched → Sched) : (s.modSched f).octets = s.octets := rfl
@[simp] theorem State.modSched_dies (s : State) (f : Sched → Sched) : (s.modSched f).dies = s.dies := rfl
@[simp] theorem State.modSched_insts (s : State) (f : Sched → Sched) : (s.modSched f).insts = s.insts := rfl
@[simp] theorem State.modSched_rings (s : State) (f : Sched → Sched) : (s.modSched f).rings = s.rings := rfl
@[simp] theorem State.modSched_hbm (s : State) (f : Sched → Sched) : (s.modSched f).hbm = s.hbm := rfl
@[simp] theorem State.modSched_hbmEcc (s : State) (f : Sched → Sched) : (s.modSched f).hbmEcc = s.hbmEcc := rfl
@[simp] theorem State.modSched_objs (s : State) (f : Sched → Sched) : (s.modSched f).objs = s.objs := rfl
@[simp] theorem State.modSched_frames (s : State) (f : Sched → Sched) : (s.modSched f).frames = s.frames := rfl
@[simp] theorem State.modSched_beats (s : State) (f : Sched → Sched) : (s.modSched f).beats = s.beats := rfl
@[simp] theorem State.modSched_past (s : State) (f : Sched → Sched) : (s.modSched f).past = s.past := rfl
@[simp] theorem State.modSched_occ (s : State) (f : Sched → Sched) : (s.modSched f).occ = s.occ := rfl
@[simp] theorem State.modSched_gov (s : State) (f : Sched → Sched) : (s.modSched f).gov = s.gov := rfl
@[simp] theorem State.modSched_boot (s : State) (f : Sched → Sched) : (s.modSched f).boot = s.boot := rfl
@[simp] theorem State.modSched_ductcfg (s : State) (f : Sched → Sched) : (s.modSched f).ductcfg = s.ductcfg := rfl
@[simp] theorem State.modSched_podRoot (s : State) (f : Sched → Sched) : (s.modSched f).podRoot = s.podRoot := rfl
@[simp] theorem State.modSched_ductEff (s : State) (f : Sched → Sched) : (s.modSched f).ductEff = s.ductEff := rfl
@[simp] theorem State.modSched_ductLog (s : State) (f : Sched → Sched) : (s.modSched f).ductLog = s.ductLog := rfl
@[simp] theorem State.modSched_snaps (s : State) (f : Sched → Sched) : (s.modSched f).snaps = s.snaps := rfl
@[simp] theorem State.modSched_snapbw (s : State) (f : Sched → Sched) : (s.modSched f).snapbw = s.snapbw := rfl
@[simp] theorem State.modSched_conns (s : State) (f : Sched → Sched) : (s.modSched f).conns = s.conns := rfl
@[simp] theorem State.modSched_modno (s : State) (f : Sched → Sched) : (s.modSched f).modno = s.modno := rfl
@[simp] theorem State.modSched_podsize (s : State) (f : Sched → Sched) : (s.modSched f).podsize = s.podsize := rfl
@[simp] theorem State.modSched_podOff (s : State) (f : Sched → Sched) : (s.modSched f).podOff = s.podOff := rfl
@[simp] theorem State.modSched_podBase (s : State) (f : Sched → Sched) : (s.modSched f).podBase = s.podBase := rfl
@[simp] theorem State.modSched_attached (s : State) (f : Sched → Sched) : (s.modSched f).attached = s.attached := rfl
@[simp] theorem State.modSched_collFmt (s : State) (f : Sched → Sched) : (s.modSched f).collFmt = s.collFmt := rfl
@[simp] theorem State.modSched_podCtl (s : State) (f : Sched → Sched) : (s.modSched f).podCtl = s.podCtl := rfl
@[simp] theorem State.modSched_linkFmt (s : State) (f : Sched → Sched) : (s.modSched f).linkFmt = s.linkFmt := rfl
@[simp] theorem State.modSched_refused (s : State) (f : Sched → Sched) : (s.modSched f).refused = s.refused := rfl
@[simp] theorem State.modSched_pendingLinks (s : State) (f : Sched → Sched) : (s.modSched f).pendingLinks = s.pendingLinks := rfl
@[simp] theorem State.modSched_deadLinks (s : State) (f : Sched → Sched) : (s.modSched f).deadLinks = s.deadLinks := rfl
@[simp] theorem State.modSched_deadMods (s : State) (f : Sched → Sched) : (s.modSched f).deadMods = s.deadMods := rfl
@[simp] theorem State.modSched_outbox (s : State) (f : Sched → Sched) : (s.modSched f).outbox = s.outbox := rfl

/-! ### modNode -/

@[simp] theorem State.modNode_now (s : State) (n : Nat) (f : Node → Node) : (s.modNode n f).now = s.now := rfl
@[simp] theorem State.modNode_agenda (s : State) (n : Nat) (f : Node → Node) : (s.modNode n f).agenda = s.agenda := rfl
@[simp] theorem State.modNode_timers (s : State) (n : Nat) (f : Node → Node) : (s.modNode n f).timers = s.timers := rfl
@[simp] theorem State.modNode_stage (s : State) (n : Nat) (f : Node → Node) : (s.modNode n f).stage = s.stage := rfl
@[simp] theorem State.modNode_served (s : State) (n : Nat) (f : Node → Node) : (s.modNode n f).served = s.served := rfl
@[simp] theorem State.modNode_blocked (s : State) (n : Nat) (f : Node → Node) : (s.modNode n f).blocked = s.blocked := rfl
@[simp] theorem State.modNode_core (s : State) (n : Nat) (f : Node → Node) : (s.modNode n f).core = s.core := rfl
@[simp] theorem State.modNode_ctx (s : State) (n : Nat) (f : Node → Node) : (s.modNode n f).ctx = s.ctx := rfl
@[simp] theorem State.modNode_fresh (s : State) (n : Nat) (f : Node → Node) : (s.modNode n f).fresh = s.fresh := rfl
@[simp] theorem State.modNode_cores (s : State) (n : Nat) (f : Node → Node) : (s.modNode n f).cores = s.cores := rfl
@[simp] theorem State.modNode_octets (s : State) (n : Nat) (f : Node → Node) : (s.modNode n f).octets = s.octets := rfl
@[simp] theorem State.modNode_dies (s : State) (n : Nat) (f : Node → Node) : (s.modNode n f).dies = s.dies := rfl
@[simp] theorem State.modNode_insts (s : State) (n : Nat) (f : Node → Node) : (s.modNode n f).insts = s.insts := rfl
@[simp] theorem State.modNode_rings (s : State) (n : Nat) (f : Node → Node) : (s.modNode n f).rings = s.rings := rfl
@[simp] theorem State.modNode_hbm (s : State) (n : Nat) (f : Node → Node) : (s.modNode n f).hbm = s.hbm := rfl
@[simp] theorem State.modNode_hbmEcc (s : State) (n : Nat) (f : Node → Node) : (s.modNode n f).hbmEcc = s.hbmEcc := rfl
@[simp] theorem State.modNode_objs (s : State) (n : Nat) (f : Node → Node) : (s.modNode n f).objs = s.objs := rfl
@[simp] theorem State.modNode_frames (s : State) (n : Nat) (f : Node → Node) : (s.modNode n f).frames = s.frames := rfl
@[simp] theorem State.modNode_beats (s : State) (n : Nat) (f : Node → Node) : (s.modNode n f).beats = s.beats := rfl
@[simp] theorem State.modNode_past (s : State) (n : Nat) (f : Node → Node) : (s.modNode n f).past = s.past := rfl
@[simp] theorem State.modNode_occ (s : State) (n : Nat) (f : Node → Node) : (s.modNode n f).occ = s.occ := rfl
@[simp] theorem State.modNode_gov (s : State) (n : Nat) (f : Node → Node) : (s.modNode n f).gov = s.gov := rfl
@[simp] theorem State.modNode_boot (s : State) (n : Nat) (f : Node → Node) : (s.modNode n f).boot = s.boot := rfl
@[simp] theorem State.modNode_ductcfg (s : State) (n : Nat) (f : Node → Node) : (s.modNode n f).ductcfg = s.ductcfg := rfl
@[simp] theorem State.modNode_podRoot (s : State) (n : Nat) (f : Node → Node) : (s.modNode n f).podRoot = s.podRoot := rfl
@[simp] theorem State.modNode_ductEff (s : State) (n : Nat) (f : Node → Node) : (s.modNode n f).ductEff = s.ductEff := rfl
@[simp] theorem State.modNode_ductLog (s : State) (n : Nat) (f : Node → Node) : (s.modNode n f).ductLog = s.ductLog := rfl
@[simp] theorem State.modNode_snaps (s : State) (n : Nat) (f : Node → Node) : (s.modNode n f).snaps = s.snaps := rfl
@[simp] theorem State.modNode_snapbw (s : State) (n : Nat) (f : Node → Node) : (s.modNode n f).snapbw = s.snapbw := rfl
@[simp] theorem State.modNode_conns (s : State) (n : Nat) (f : Node → Node) : (s.modNode n f).conns = s.conns := rfl
@[simp] theorem State.modNode_modno (s : State) (n : Nat) (f : Node → Node) : (s.modNode n f).modno = s.modno := rfl
@[simp] theorem State.modNode_podsize (s : State) (n : Nat) (f : Node → Node) : (s.modNode n f).podsize = s.podsize := rfl
@[simp] theorem State.modNode_podOff (s : State) (n : Nat) (f : Node → Node) : (s.modNode n f).podOff = s.podOff := rfl
@[simp] theorem State.modNode_podBase (s : State) (n : Nat) (f : Node → Node) : (s.modNode n f).podBase = s.podBase := rfl
@[simp] theorem State.modNode_attached (s : State) (n : Nat) (f : Node → Node) : (s.modNode n f).attached = s.attached := rfl
@[simp] theorem State.modNode_collFmt (s : State) (n : Nat) (f : Node → Node) : (s.modNode n f).collFmt = s.collFmt := rfl
@[simp] theorem State.modNode_podCtl (s : State) (n : Nat) (f : Node → Node) : (s.modNode n f).podCtl = s.podCtl := rfl
@[simp] theorem State.modNode_linkFmt (s : State) (n : Nat) (f : Node → Node) : (s.modNode n f).linkFmt = s.linkFmt := rfl
@[simp] theorem State.modNode_refused (s : State) (n : Nat) (f : Node → Node) : (s.modNode n f).refused = s.refused := rfl
@[simp] theorem State.modNode_pendingLinks (s : State) (n : Nat) (f : Node → Node) : (s.modNode n f).pendingLinks = s.pendingLinks := rfl
@[simp] theorem State.modNode_deadLinks (s : State) (n : Nat) (f : Node → Node) : (s.modNode n f).deadLinks = s.deadLinks := rfl
@[simp] theorem State.modNode_deadMods (s : State) (n : Nat) (f : Node → Node) : (s.modNode n f).deadMods = s.deadMods := rfl
@[simp] theorem State.modNode_outbox (s : State) (n : Nat) (f : Node → Node) : (s.modNode n f).outbox = s.outbox := rfl

/-! ### The parts changed -/

@[simp] theorem State.at_core (s : State) (c k : Nat) : (s.at_ c k).core = c := rfl
@[simp] theorem State.at_ctx (s : State) (c k : Nat) : (s.at_ c k).ctx = k := rfl
@[simp] theorem State.push_agenda (s : State) (i : Event) : (s.push i).agenda = s.agenda ++ [i] := rfl
@[simp] theorem State.pushFront_agenda (s : State) (i : Event) : (s.pushFront i).agenda = i :: s.agenda := rfl
@[simp] theorem State.after_timers (s : State) (n : Nat) (i : Event) : (s.after n i).timers = s.timers ++ [(s.now + n, i)] := rfl
@[simp] theorem State.tell_outbox (s : State) (m : HostMsg) : (s.tell m).outbox = s.outbox ++ [m] := rfl
@[simp] theorem State.tick1_fresh (s : State) : s.tick1.fresh = s.fresh + 1 := rfl
@[simp] theorem State.modSched_sched (s : State) (f : Sched → Sched) : (s.modSched f).sched = f s.sched := rfl

/-! ### Cores and contexts -/

theorem State.coreAt_modCore (s : State) (c d : Nat) (f : Core → Core) :
    (s.modCore c f).coreAt d = if d = c then f (s.coreAt c) else s.coreAt d := sget_sput _ _ _ _ _
@[simp] theorem State.coreAt_modCore_self (s : State) (c : Nat) (f : Core → Core) : (s.modCore c f).coreAt c = f (s.coreAt c) := by
  simp [State.coreAt_modCore]
@[simp] theorem State.modCore_modCore (s : State) (c : Nat) (f g : Core → Core) :
    (s.modCore c f).modCore c g = s.modCore c (fun x => g (f x)) := by
  simp only [State.modCore]
  rw [show State.coreAt { s with cores := sput s.cores c (f (s.coreAt c)) } c = f (s.coreAt c) from sget_sput_self _ _ _ _]
  simp
theorem Core.ctxAt_modCtx (x : Core) (k j : Nat) (f : Ctx → Ctx) :
    (x.modCtx k f).ctxAt j = if j = k then f (x.ctxAt k) else x.ctxAt j := by
  simp only [Core.ctxAt, Core.modCtx, sget_sput]
@[simp] theorem Core.ctxAt_modCtx_self (x : Core) (k : Nat) (f : Ctx → Ctx) : (x.modCtx k f).ctxAt k = f (x.ctxAt k) := by
  simp [Core.ctxAt_modCtx]
@[simp] theorem Core.modCtx_modCtx (x : Core) (k : Nat) (f g : Ctx → Ctx) :
    (x.modCtx k f).modCtx k g = x.modCtx k (fun y => g (f y)) := by
  simp [Core.modCtx, Core.ctxAt]
theorem State.ctxAt_modCtx (s : State) (c k d j : Nat) (f : Ctx → Ctx) :
    (s.modCtx c k f).ctxAt d j = if d = c ∧ j = k then f (s.ctxAt c k) else s.ctxAt d j := by
  simp only [State.ctxAt, State.modCtx, State.coreAt_modCore]
  by_cases h : d = c
  · subst h; simp [Core.ctxAt_modCtx]
  · simp [h]
@[simp] theorem State.ctxAt_modCtx_self (s : State) (c k : Nat) (f : Ctx → Ctx) : (s.modCtx c k f).ctxAt c k = f (s.ctxAt c k) := by
  simp [State.ctxAt_modCtx]
@[simp] theorem State.modCtx_modCtx (s : State) (c k : Nat) (f g : Ctx → Ctx) :
    (s.modCtx c k f).modCtx c k g = s.modCtx c k (fun y => g (f y)) := by
  simp [State.modCtx]
@[simp] theorem State.me_modMe (s : State) (f : Ctx → Ctx) : (s.modMe f).me = f s.me := State.ctxAt_modCtx_self _ _ _ _
@[simp] theorem State.here_modHere (s : State) (f : Core → Core) : (s.modHere f).here = f s.here := State.coreAt_modCore_self _ _ _
@[simp] theorem State.modMe_modMe (s : State) (f g : Ctx → Ctx) : (s.modMe f).modMe g = s.modMe (fun x => g (f x)) := by
  simp [State.modMe]
theorem State.modMe_congr (s : State) {f g : Ctx → Ctx} (h : f s.me = g s.me) : s.modMe f = s.modMe g := by
  have h' : f ((s.coreAt s.core).ctxAt s.ctx) = g ((s.coreAt s.core).ctxAt s.ctx) := h
  simp only [State.modMe, State.modCtx, State.modCore, Core.modCtx, h']
@[simp] theorem State.me_at (s : State) (c k : Nat) : (s.at_ c k).me = s.ctxAt c k := rfl
@[simp] theorem State.here_at (s : State) (c k : Nat) : (s.at_ c k).here = s.coreAt c := rfl

/-! ### Registers (R14) -/

@[simp] theorem Ctx.reg_zero (x : Ctx) : x.reg 0 = 0 := rfl
theorem Ctx.reg_setReg (x : Ctx) (a r : GReg) (v : Word) :
    (x.setReg a v).reg r = if r = a ∧ a ≠ 0 then v else x.reg r := by
  unfold Ctx.reg Ctx.setReg
  by_cases ha : a = 0
  · simp [ha]
  · by_cases hr : r = 0
    · have : ¬ (0 : GReg) = a := fun h => ha h.symm
      rw [if_pos hr, if_pos hr, if_neg (fun h => this (hr ▸ h.1))]
    · have hn : r.toNat = a.toNat ↔ r = a := ⟨fun h => BitVec.eq_of_toNat_eq h, fun h => h ▸ rfl⟩
      simp only [ha, hr, if_false, sget_sput, hn, ne_eq, not_false_eq_true, and_true]
@[simp] theorem State.me_setG (s : State) (a : GReg) (v : Word) : (s.setG a v).me = s.me.setReg a v := State.me_modMe _ _
theorem State.g_setG (s : State) (a r : GReg) (v : Word) : (s.setG a v).g r = if r = a ∧ a ≠ 0 then v else s.g r := by
  simp [State.g, Ctx.reg_setReg]

end Sys2Proof.Machine
end

