-- ==== Sys2Proof/Laws/Home.lean ====
section
/-!
SUPPORT. What requests at homes change (spec/17, spec/09): every operation of Machine/Home.lean that reads or writes lines
leaves cores, contexts, octets, Ductus, the scheduler, the governor and the rest of the module as they are.
-/
namespace Sys2Proof.Machine

set_option linter.unusedTactic false
set_option linter.unreachableTactic false

theorem State.memOnly_iff (s t : State) : s.memOnly t ↔
    (t.now = s.now ∧ t.stage = s.stage ∧ t.served = s.served ∧ t.core = s.core ∧ t.ctx = s.ctx ∧ t.cores = s.cores
      ∧ t.octets = s.octets ∧ t.insts = s.insts ∧ t.rings = s.rings ∧ t.beats = s.beats
      ∧ t.sched = { s.sched with counters := t.sched.counters } ∧ t.gov = s.gov ∧ t.boot = s.boot
      ∧ t.ductcfg = s.ductcfg ∧ t.ductEff = s.ductEff ∧ t.conns = s.conns ∧ t.modno = s.modno ∧ t.podsize = s.podsize
      ∧ t.podOff = s.podOff ∧ t.attached = s.attached ∧ t.pendingLinks = s.pendingLinks ∧ t.blocked = s.blocked
      ∧ t.past = s.past ∧ t.ductLog = s.ductLog ∧ t.podBase = s.podBase ∧ t.refused = s.refused
      ∧ t.deadLinks = s.deadLinks ∧ t.occ = s.occ ∧ t.podRoot = s.podRoot ∧ t.snapbw = s.snapbw
      ∧ t.collFmt = s.collFmt ∧ t.podCtl = s.podCtl ∧ t.linkFmt = s.linkFmt ∧ t.deadMods = s.deadMods) := by
  cases s; cases t
  simp only [State.memOnly, State.mk.injEq]
  tauto

theorem State.memOnly.refl (s : State) : s.memOnly s := rfl

theorem State.memOnly.trans {s t u : State} (h : s.memOnly t) (k : t.memOnly u) : s.memOnly u := by
  rw [State.memOnly_iff] at *
  obtain ⟨h1, h2, h3, h4, h5, h6, h7, h8, h9, h10, h11, h12, h13, h14, h15, h16, h17, h18, h19, h20, h21, h22, h23,
    h24, h25, h26, h27, h28, h29, h30, h31, h32, h33, h34⟩ := h
  obtain ⟨k1, k2, k3, k4, k5, k6, k7, k8, k9, k10, k11, k12, k13, k14, k15, k16, k17, k18, k19, k20, k21, k22, k23,
    k24, k25, k26, k27, k28, k29, k30, k31, k32, k33, k34⟩ := k
  refine ⟨k1.trans h1, k2.trans h2, k3.trans h3, k4.trans h4, k5.trans h5, k6.trans h6, k7.trans h7, k8.trans h8,
    k9.trans h9, k10.trans h10, ?_, k12.trans h12, k13.trans h13, k14.trans h14, k15.trans h15,
    k16.trans h16, k17.trans h17, k18.trans h18, k19.trans h19, k20.trans h20, k21.trans h21, k22.trans h22,
    k23.trans h23, k24.trans h24, k25.trans h25, k26.trans h26, k27.trans h27, k28.trans h28, k29.trans h29,
    k30.trans h30, k31.trans h31, k32.trans h32, k33.trans h33, k34.trans h34⟩
  rw [k11, h11]

theorem each_mem {α : Type} {s0 : State} (xs : List α) (s : State) (f : State → α → State)
    (hf : ∀ t x, s0.memOnly t → s0.memOnly (f t x)) (h : s0.memOnly s) : s0.memOnly (each xs s f) := by
  induction xs generalizing s with
  | nil => exact h
  | cons x xs ih => exact ih _ (hf s x h)

theorem each_memP {α β : Type} {s0 : State} (xs : List α) (p : State × β) (f : State × β → α → State × β)
    (hf : ∀ q x, s0.memOnly q.1 → s0.memOnly (f q x).1) (h : s0.memOnly p.1) : s0.memOnly (each xs p f).1 := by
  induction xs generalizing p with
  | nil => exact h
  | cons x xs ih => exact ih _ (hf p x h)

theorem ite_mem {s0 a b : State} {p : Prop} [Decidable p] (h : p → s0.memOnly a) (k : ¬p → s0.memOnly b) :
    s0.memOnly (if p then a else b) := by split <;> simp_all
theorem ite_memP {β : Type} {s0 : State} {a b : State × β} {p : Prop} [Decidable p] (h : p → s0.memOnly a.1) (k : ¬p → s0.memOnly b.1) :
    s0.memOnly (if p then a else b).1 := by split <;> simp_all

theorem State.modDie_mem {s0 : State} (s : State) (d : Nat) (f : Die → Die) (h : s0.memOnly s) : s0.memOnly (s.modDie d f) := h.trans rfl
theorem State.push_mem {s0 : State} (s : State) (i : Event) (h : s0.memOnly s) : s0.memOnly (s.push i) := h.trans rfl
theorem State.after_mem {s0 : State} (s : State) (n : Nat) (i : Event) (h : s0.memOnly s) : s0.memOnly (s.after n i) := h.trans rfl
theorem State.tell_mem {s0 : State} (s : State) (m : HostMsg) (h : s0.memOnly s) : s0.memOnly (s.tell m) := h.trans rfl
theorem State.tick1_mem {s0 : State} (s : State) (h : s0.memOnly s) : s0.memOnly s.tick1 := h.trans rfl
theorem State.charge_mem {s0 : State} (s : State) (cid n : Nat) (h : s0.memOnly s) : s0.memOnly (s.charge cid n) := h.trans rfl
theorem State.unpinCount_mem {s0 : State} (s : State) (cid : Nat) (h : s0.memOnly s) : s0.memOnly (s.unpinCount cid) := h.trans rfl
theorem State.unstall_mem {s0 : State} (s : State) (obj : Nat) (key : Nat × Nat) (h : s0.memOnly s) : s0.memOnly (s.unstall obj key) := h.trans rfl
theorem State.stallAt_mem {s0 : State} (s : State) (obj : Nat) (key : Nat × Nat) (cid : Nat) (h : s0.memOnly s) :
    s0.memOnly (s.stallAt obj key cid) := by
  unfold State.stallAt
  split
  · exact h
  · exact (State.charge_mem s cid 7 h).trans rfl
theorem State.hbmRead_mem {s0 : State} (s : State) (a n : Nat) (h : s0.memOnly s) : s0.memOnly (s.hbmRead a n).1 := h.trans rfl
theorem State.hbmRead_mem_eq {s0 s : State} {a n : Nat} {t : State} {r : EccOut} (h : s0.memOnly s)
    (e : s.hbmRead a n = (t, r)) : s0.memOnly t := by have := State.hbmRead_mem s a n h; rw [e] at this; exact this
theorem State.hbmWrite_mem {s0 : State} (s : State) (a : Nat) (bs : List Byte) (h : s0.memOnly s) : s0.memOnly (s.hbmWrite a bs).1 :=
  h.trans rfl
theorem State.hbmWrite_mem_eq {s0 s : State} {a : Nat} {bs : List Byte} {t : State} {r : EccOut} (h : s0.memOnly s)
    (e : s.hbmWrite a bs = (t, r)) : s0.memOnly t := by have := State.hbmWrite_mem s a bs h; rw [e] at this; exact this
theorem State.hbmPoison_mem {s0 : State} (s : State) (ws : List Nat) (h : s0.memOnly s) : s0.memOnly (s.hbmPoison ws) := h.trans rfl

theorem State.modSlice_mem {s0 : State} (s : State) (d o : Nat) (f : Slice → Slice) (hm : s0.memOnly s) : s0.memOnly (State.modSlice s d o f) := by
  simp only [State.modSlice]
  repeat' first
    | with_reducible assumption
    | intro _
    | with_reducible apply State.modDie_mem
    | with_reducible apply ite_mem
    | with_reducible apply ite_memP
    | dsimp only
    | split

theorem State.touch_mem {s0 : State} (s : State) (h : Home) (w : Nat) (hm : s0.memOnly s) : s0.memOnly (State.touch s h w) := by
  simp only [State.touch]
  repeat' first
    | with_reducible assumption
    | intro _
    | with_reducible apply State.modSlice_mem
    | with_reducible apply ite_mem
    | with_reducible apply ite_memP
    | dsimp only
    | split

theorem State.noteCid_mem {s0 : State} (s : State) (h : Home) (cid : Nat) (hm : s0.memOnly s) : s0.memOnly (State.noteCid s h cid) := by
  simp only [State.noteCid]
  repeat' first
    | with_reducible assumption
    | intro _
    | with_reducible apply State.modDie_mem
    | with_reducible apply ite_mem
    | with_reducible apply ite_memP
    | dsimp only
    | split

theorem State.failCid_mem {s0 : State} (s : State) (cid kind : Nat) (addr : Word) (core : Nat) (hm : s0.memOnly s) : s0.memOnly (State.failCid s cid kind addr core) := by
  simp only [State.failCid]
  repeat' first
    | with_reducible assumption
    | intro _
    | with_reducible apply State.push_mem
    | with_reducible apply ite_mem
    | with_reducible apply ite_memP
    | dsimp only
    | split

theorem State.dropLines_mem {s0 : State} (s : State) (die : Nat) (p : SliceLine → Bool) (hm : s0.memOnly s) : s0.memOnly (State.dropLines s die p) := by
  simp only [State.dropLines]
  repeat' first
    | with_reducible assumption
    | intro _
    | with_reducible apply State.modDie_mem
    | with_reducible apply State.unpinCount_mem
    | with_reducible apply each_mem
    | with_reducible apply each_memP
    | with_reducible apply ite_mem
    | with_reducible apply ite_memP
    | dsimp only
    | split

theorem State.dropPage_mem {s0 : State} (s : State) (die id pg : Nat) (hm : s0.memOnly s) : s0.memOnly (State.dropPage s die id pg) := by
  simp only [State.dropPage]
  repeat' first
    | with_reducible assumption
    | intro _
    | with_reducible apply State.modDie_mem
    | with_reducible apply State.dropLines_mem
    | with_reducible apply ite_mem
    | with_reducible apply ite_memP
    | dsimp only
    | split

theorem State.retirePage_mem {s0 : State} (s : State) (id pg : Nat) (h : s0.memOnly s) : s0.memOnly (s.retirePage id pg) := by
  simp only [State.retirePage]
  split
  · exact h
  · split
    · exact h
    · exact State.push_mem _ _ ((State.dropPage_mem _ _ _ _ h).trans rfl)

theorem State.removeSlice_mem {s0 : State} (s : State) (die slot kind : Nat) (addr : Word) (core : Nat) (hm : s0.memOnly s) : s0.memOnly (State.removeSlice s die slot kind addr core) := by
  simp only [State.removeSlice]
  repeat' first
    | with_reducible assumption
    | intro _
    | with_reducible apply State.modDie_mem
    | with_reducible apply State.after_mem
    | with_reducible apply State.failCid_mem
    | with_reducible apply each_mem
    | with_reducible apply each_memP
    | with_reducible apply ite_mem
    | with_reducible apply ite_memP
    | dsimp only
    | split

theorem State.quarantine_mem {s0 : State} (s : State) (h : Home) (l : SliceLine) (cid : Nat) (addr : Word) (core : Nat) (hm : s0.memOnly s) : s0.memOnly (State.quarantine s h l cid addr core) := by
  simp only [State.quarantine]
  repeat' first
    | with_reducible assumption
    | intro _
    | with_reducible apply State.modDie_mem
    | with_reducible apply State.modSlice_mem
    | with_reducible apply State.failCid_mem
    | with_reducible apply State.removeSlice_mem
    | with_reducible apply ite_mem
    | with_reducible apply ite_memP
    | dsimp only
    | split

theorem State.badLine_mem {s0 : State} (s : State) (h : Home) (l : SliceLine) (found : List Nat) (w : Nat) (hm : s0.memOnly s) : s0.memOnly (State.badLine s h l found w) := by
  simp only [State.badLine]
  repeat' first
    | with_reducible assumption
    | intro _
    | with_reducible apply State.failCid_mem
    | with_reducible apply State.retirePage_mem
    | with_reducible apply State.quarantine_mem
    | with_reducible apply each_mem
    | with_reducible apply each_memP
    | with_reducible apply ite_mem
    | with_reducible apply ite_memP
    | dsimp only
    | split

theorem State.sectorBack_mem {s0 : State} (s : State) (h : Home) (j : Nat) (bs : List Byte) (poison : List Nat) (hm : s0.memOnly s) : s0.memOnly (State.sectorBack s h j bs poison) := by
  simp only [State.sectorBack]
  repeat' first
    | with_reducible assumption
    | intro _
    | with_reducible apply State.modDie_mem
    | with_reducible refine State.hbmWrite_mem_eq ?_ (by assumption)
    | with_reducible apply State.hbmWrite_mem
    | with_reducible apply State.hbmPoison_mem
    | with_reducible apply ite_mem
    | with_reducible apply ite_memP
    | dsimp only
    | split

theorem State.writeBack_mem {s0 : State} (s : State) (h : Home) (l : SliceLine) (hm : s0.memOnly s) : s0.memOnly (State.writeBack s h l) := by
  simp only [State.writeBack]
  repeat' first
    | with_reducible assumption
    | intro _
    | with_reducible apply State.charge_mem
    | with_reducible apply State.modSlice_mem
    | with_reducible apply State.badLine_mem
    | with_reducible apply State.sectorBack_mem
    | with_reducible apply each_mem
    | with_reducible apply each_memP
    | with_reducible apply ite_mem
    | with_reducible apply ite_memP
    | dsimp only
    | split

theorem State.evict_mem {s0 : State} (s : State) (h : Home) (l : SliceLine) (hm : s0.memOnly s) : s0.memOnly (State.evict s h l) := by
  simp only [State.evict]
  repeat' first
    | with_reducible assumption
    | intro _
    | with_reducible apply State.modSlice_mem
    | with_reducible apply State.writeBack_mem
    | with_reducible apply ite_mem
    | with_reducible apply ite_memP
    | dsimp only
    | split

theorem State.pullOld_mem {s0 : State} (s : State) (h : Home) (hm : s0.memOnly s) : s0.memOnly (State.pullOld s h) := by
  simp only [State.pullOld]
  repeat' first
    | with_reducible assumption
    | intro _
    | with_reducible apply State.modDie_mem
    | with_reducible apply State.evict_mem
    | with_reducible apply each_mem
    | with_reducible apply each_memP
    | with_reducible apply ite_mem
    | with_reducible apply ite_memP
    | dsimp only
    | split

theorem State.remakePins_mem {s0 : State} (s : State) (h : Home) (hm : s0.memOnly s) : s0.memOnly (State.remakePins s h) := by
  simp only [State.remakePins]
  repeat' first
    | with_reducible assumption
    | intro _
    | with_reducible apply State.modDie_mem
    | with_reducible apply State.charge_mem
    | with_reducible apply State.unpinCount_mem
    | with_reducible apply State.modSlice_mem
    | with_reducible apply each_mem
    | with_reducible apply each_memP
    | with_reducible apply ite_mem
    | with_reducible apply ite_memP
    | dsimp only
    | split

theorem State.fillLine_mem {s0 : State} (s : State) (h : Home) (l : SliceLine) (sectors : List Nat) (hm : s0.memOnly s) : s0.memOnly (State.fillLine s h l sectors).1 := by
  simp only [State.fillLine]
  repeat' first
    | with_reducible assumption
    | intro _
    | with_reducible refine State.hbmRead_mem_eq ?_ (by assumption)
    | with_reducible apply State.hbmRead_mem
    | with_reducible apply each_mem
    | with_reducible apply each_memP
    | with_reducible apply ite_mem
    | with_reducible apply ite_memP
    | dsimp only
    | split

theorem State.fillLine_mem_eq {s0 : State} {s : State} {h : Home} {l : SliceLine} {sectors : List Nat} {t : State} {r : SliceLine} (hm : s0.memOnly s) (e : State.fillLine s h l sectors = (t, r)) : s0.memOnly t := by
  have := State.fillLine_mem s h l sectors hm; rw [e] at this; exact this

theorem State.freeWay_mem {s0 : State} (s : State) (h : Home) (n : Nat) (hm : s0.memOnly s) : s0.memOnly (s.freeWay h n).1 := by
  induction n generalizing s with
  | zero => exact hm
  | succ n ih =>
    simp only [State.freeWay]
    repeat' first
      | with_reducible assumption
      | with_reducible apply ih
      | with_reducible apply State.evict_mem
      | split
theorem State.freeWay_mem_eq {s0 : State} {s : State} {h : Home} {n : Nat} {t : State} {r : Option Nat} (hm : s0.memOnly s)
    (e : s.freeWay h n = (t, r)) : s0.memOnly t := by have := State.freeWay_mem s h n hm; rw [e] at this; exact this

theorem State.allocLine_mem {s0 : State} (s : State) (h : Home) (cid : Nat) (hm : s0.memOnly s) : s0.memOnly (State.allocLine s h cid).1 := by
  simp only [State.allocLine]
  repeat' first
    | with_reducible assumption
    | intro _
    | with_reducible apply State.modSlice_mem
    | with_reducible apply State.remakePins_mem
    | with_reducible refine State.freeWay_mem_eq ?_ (by assumption)
    | with_reducible apply State.freeWay_mem
    | with_reducible apply ite_mem
    | with_reducible apply ite_memP
    | dsimp only
    | split

theorem State.allocLine_mem_eq {s0 : State} {s : State} {h : Home} {cid : Nat} {t : State} {r : Option SliceLine} (hm : s0.memOnly s) (e : State.allocLine s h cid = (t, r)) : s0.memOnly t := by
  have := State.allocLine_mem s h cid hm; rw [e] at this; exact this

theorem State.putLine_mem {s0 : State} (s : State) (h : Home) (l : SliceLine) (hm : s0.memOnly s) : s0.memOnly (State.putLine s h l) := by
  simp only [State.putLine]
  repeat' first
    | with_reducible assumption
    | intro _
    | with_reducible apply State.modSlice_mem
    | with_reducible apply ite_mem
    | with_reducible apply ite_memP
    | dsimp only
    | split

theorem State.joinPage_mem {s0 : State} (s : State) (id pg : Nat) (w : Waiter) (hm : s0.memOnly s) : s0.memOnly (State.joinPage s id pg w) := by
  simp only [State.joinPage]
  repeat' first
    | with_reducible assumption
    | intro _
    | with_reducible apply State.modDie_mem
    | with_reducible apply ite_mem
    | with_reducible apply ite_memP
    | dsimp only
    | split

theorem State.openFault_mem {s0 : State} (s : State) (h : Home) (hm : s0.memOnly s) : s0.memOnly (State.openFault s h).1 := by
  simp only [State.openFault]
  repeat' first
    | with_reducible assumption
    | intro _
    | with_reducible apply State.modDie_mem
    | with_reducible apply State.push_mem
    | with_reducible apply State.after_mem
    | with_reducible apply State.tick1_mem
    | with_reducible apply ite_mem
    | with_reducible apply ite_memP
    | dsimp only
    | split

theorem State.openFault_mem_eq {s0 : State} {s : State} {h : Home} {t : State} {r : Ans} (hm : s0.memOnly s) (e : State.openFault s h = (t, r)) : s0.memOnly t := by
  have := State.openFault_mem s h hm; rw [e] at this; exact this

theorem State.translate_mem {s0 : State} (s : State) (h : Home) (hm : s0.memOnly s) : s0.memOnly (State.translate s h) := by
  simp only [State.translate]
  repeat' first
    | with_reducible assumption
    | intro _
    | with_reducible apply State.modSlice_mem
    | with_reducible apply ite_mem
    | with_reducible apply ite_memP
    | dsimp only
    | split

theorem State.snapBefore_mem {s0 : State} {s : State} {h : Home} {t : State} (hs : s0.memOnly s) (e : s.snapBefore h = some t) :
    s0.memOnly t := by
  simp only [State.snapBefore] at e
  split at e
  · cases e; exact hs
  · split at e
    · cases e; exact hs
    · split at e
      · cases e
      · cases e; exact hs.trans rfl

theorem State.keepStalls_mem {s0 : State} (s t : State) (cid : Nat) (hm : s0.memOnly s) : s0.memOnly (State.keepStalls s t cid) := by
  simp only [State.keepStalls]
  repeat' first
    | with_reducible assumption
    | intro _
    | with_reducible apply State.stallAt_mem
    | with_reducible apply each_mem
    | with_reducible apply each_memP
    | with_reducible apply ite_mem
    | with_reducible apply ite_memP
    | dsimp only
    | split

theorem hostRead_mem {s0 : State} (s : State) (n : Nat) (h : s0.memOnly s) : s0.memOnly (hostRead s n).1 := by
  unfold hostRead
  exact each_memP _ _ _ (fun q _ hq => State.tick1_mem _ hq) h
theorem hostRead_mem_eq {s0 s : State} {n : Nat} {t : State} {r : Ans} (h : s0.memOnly s)
    (e : hostRead s n = (t, r)) : s0.memOnly t := by have := hostRead_mem s n h; rw [e] at this; exact this

theorem State.homeRead_mem {s0 : State} (s : State) (w id off n cid : Nat) (hm : s0.memOnly s) : s0.memOnly (State.homeRead s w id off n cid).1 := by
  simp only [State.homeRead]
  repeat' first
    | with_reducible assumption
    | intro _
    | with_reducible apply State.charge_mem
    | with_reducible refine State.hbmRead_mem_eq ?_ (by assumption)
    | with_reducible apply State.hbmRead_mem
    | with_reducible refine hostRead_mem_eq ?_ (by assumption)
    | with_reducible apply hostRead_mem
    | with_reducible apply State.modSlice_mem
    | with_reducible apply State.touch_mem
    | with_reducible apply State.noteCid_mem
    | with_reducible apply State.badLine_mem
    | with_reducible apply State.pullOld_mem
    | with_reducible refine State.fillLine_mem_eq ?_ (by assumption)
    | with_reducible apply State.fillLine_mem
    | with_reducible refine State.allocLine_mem_eq ?_ (by assumption)
    | with_reducible apply State.allocLine_mem
    | with_reducible apply State.putLine_mem
    | with_reducible refine State.openFault_mem_eq ?_ (by assumption)
    | with_reducible apply State.openFault_mem
    | with_reducible apply State.translate_mem
    | with_reducible apply ite_mem
    | with_reducible apply ite_memP
    | dsimp only
    | split

theorem State.homeRead_mem_eq {s0 : State} {s : State} {w id off n cid : Nat} {t : State} {r : Ans} (hm : s0.memOnly s) (e : State.homeRead s w id off n cid = (t, r)) : s0.memOnly t := by
  have := State.homeRead_mem s w id off n cid hm; rw [e] at this; exact this

theorem State.lostHome_mem {s0 : State} (s : State) (w cid : Nat) (a : Word) (hm : s0.memOnly s) : s0.memOnly (State.lostHome s w cid a) := by
  simp only [State.lostHome]
  repeat' first
    | with_reducible assumption
    | intro _
    | with_reducible apply State.failCid_mem
    | with_reducible apply ite_mem
    | with_reducible apply ite_memP
    | dsimp only
    | split

theorem State.faultRecord_mem {s0 : State} (s : State) (kind cid : Nat) (addr : Word) (core : Nat) (ecause : Word)
    (h : s0.memOnly s) : s0.memOnly (s.faultRecord kind cid addr core ecause) := State.tell_mem _ _ h

theorem State.storeLost_mem {s0 : State} (s : State) (n cid : Nat) (a : Word) (w : Nat) (hm : s0.memOnly s) : s0.memOnly (State.storeLost s n cid a w) := by
  simp only [State.storeLost]
  repeat' first
    | with_reducible assumption
    | intro _
    | with_reducible apply State.faultRecord_mem
    | with_reducible apply ite_mem
    | with_reducible apply ite_memP
    | dsimp only
    | split

theorem State.homeWrite_mem {s0 : State} (s : State) (w id off : Nat) (rs : List (Nat × List Byte)) (cid : Nat) (hm : s0.memOnly s) : s0.memOnly (State.homeWrite s w id off rs cid).1 := by
  simp only [State.homeWrite]
  repeat' first
    | with_reducible assumption
    | intro _
    | with_reducible apply State.tell_mem
    | with_reducible apply State.charge_mem
    | with_reducible apply State.unstall_mem
    | with_reducible apply State.stallAt_mem
    | with_reducible refine State.hbmWrite_mem_eq ?_ (by assumption)
    | with_reducible apply State.hbmWrite_mem
    | with_reducible apply State.touch_mem
    | with_reducible apply State.noteCid_mem
    | with_reducible apply State.badLine_mem
    | with_reducible apply State.pullOld_mem
    | with_reducible refine State.fillLine_mem_eq ?_ (by assumption)
    | with_reducible apply State.fillLine_mem
    | with_reducible refine State.allocLine_mem_eq ?_ (by assumption)
    | with_reducible apply State.allocLine_mem
    | with_reducible apply State.putLine_mem
    | with_reducible refine State.openFault_mem_eq ?_ (by assumption)
    | with_reducible apply State.openFault_mem
    | with_reducible apply State.translate_mem
    | with_reducible refine State.snapBefore_mem ?_ (by assumption)
    | with_reducible apply State.lostHome_mem
    | with_reducible apply State.storeLost_mem
    | with_reducible apply each_mem
    | with_reducible apply each_memP
    | with_reducible apply ite_mem
    | with_reducible apply ite_memP
    | dsimp only
    | split

theorem State.homeWrite_mem_eq {s0 : State} {s : State} {w id off : Nat} {rs : List (Nat × List Byte)} {cid : Nat} {t : State} {r : Ans} (hm : s0.memOnly s) (e : State.homeWrite s w id off rs cid = (t, r)) : s0.memOnly t := by
  have := State.homeWrite_mem s w id off rs cid hm; rw [e] at this; exact this

theorem State.modGate_mem {s0 : State} (s : State) (d home : Nat) (f : List GwLine → List GwLine) (hm : s0.memOnly s) : s0.memOnly (State.modGate s d home f) := by
  simp only [State.modGate]
  repeat' first
    | with_reducible assumption
    | intro _
    | with_reducible apply State.modDie_mem
    | with_reducible apply ite_mem
    | with_reducible apply ite_memP
    | dsimp only
    | split

theorem State.gwTouch_mem {s0 : State} (s : State) (d home set w : Nat) (hm : s0.memOnly s) : s0.memOnly (State.gwTouch s d home set w) := by
  simp only [State.gwTouch]
  repeat' first
    | with_reducible assumption
    | intro _
    | with_reducible apply State.modDie_mem
    | with_reducible apply ite_mem
    | with_reducible apply ite_memP
    | dsimp only
    | split

theorem State.gwKeep_mem {s0 : State} (s : State) (d home id off : Nat) (bs : List Byte) (hm : s0.memOnly s) : s0.memOnly (State.gwKeep s d home id off bs) := by
  simp only [State.gwKeep]
  repeat' first
    | with_reducible assumption
    | intro _
    | with_reducible apply State.modGate_mem
    | with_reducible apply State.gwTouch_mem
    | with_reducible apply ite_mem
    | with_reducible apply ite_memP
    | dsimp only
    | split

theorem State.dieRead_mem {s0 : State} (s : State) (w id off n cid : Nat) (hm : s0.memOnly s) : s0.memOnly (State.dieRead s w id off n cid).1 := by
  simp only [State.dieRead]
  repeat' first
    | with_reducible assumption
    | intro _
    | with_reducible apply State.charge_mem
    | with_reducible refine State.homeRead_mem_eq ?_ (by assumption)
    | with_reducible apply State.homeRead_mem
    | with_reducible apply State.gwTouch_mem
    | with_reducible apply State.gwKeep_mem
    | with_reducible apply ite_mem
    | with_reducible apply ite_memP
    | dsimp only
    | split

theorem State.dieRead_mem_eq {s0 : State} {s : State} {w id off n cid : Nat} {t : State} {r : Ans} (hm : s0.memOnly s) (e : State.dieRead s w id off n cid = (t, r)) : s0.memOnly t := by
  have := State.dieRead_mem s w id off n cid hm; rw [e] at this; exact this

theorem State.dieWrite_mem {s0 : State} (s : State) (w id off : Nat) (rs : List (Nat × List Byte)) (cid : Nat) (hm : s0.memOnly s) : s0.memOnly (State.dieWrite s w id off rs cid).1 := by
  simp only [State.dieWrite]
  repeat' first
    | with_reducible assumption
    | intro _
    | with_reducible refine State.homeWrite_mem_eq ?_ (by assumption)
    | with_reducible apply State.homeWrite_mem
    | with_reducible apply State.modGate_mem
    | with_reducible apply ite_mem
    | with_reducible apply ite_memP
    | dsimp only
    | split

theorem State.dieWrite_mem_eq {s0 : State} {s : State} {w id off : Nat} {rs : List (Nat × List Byte)} {cid : Nat} {t : State} {r : Ans} (hm : s0.memOnly s) (e : State.dieWrite s w id off rs cid = (t, r)) : s0.memOnly t := by
  have := State.dieWrite_mem s w id off rs cid hm; rw [e] at this; exact this

theorem State.bypassAs_mem {s0 : State} (s t : State) (cid : Nat) (h : s0.memOnly s) : s0.memOnly (s.bypassAs t cid) := by
  unfold State.bypassAs
  dsimp only
  split
  · exact h
  · exact h.trans rfl

theorem State.poisonAt_mem {s0 : State} (s : State) (a : Word) (hm : s0.memOnly s) : s0.memOnly (State.poisonAt s a) := by
  simp only [State.poisonAt]
  repeat' first
    | with_reducible assumption
    | intro _
    | with_reducible apply State.hbmPoison_mem
    | with_reducible apply State.putLine_mem
    | with_reducible apply ite_mem
    | with_reducible apply ite_memP
    | dsimp only
    | split

/-- A soft error in a resident line of a slice (R374) changes nothing outside the memory system. -/
theorem State.strikeLine_mem {s0 : State} (s : State) (a : Word) (f : SliceLine → SliceLine) (hm : s0.memOnly s) :
    s0.memOnly (s.strikeLine a f) := by
  simp only [State.strikeLine]
  repeat' first
    | with_reducible assumption
    | with_reducible apply State.putLine_mem
    | split

end Sys2Proof.Machine
end

