-- ==== Sys2Proof/Laws/Legal.lean ====
section
/-!
SUPPORT. Fields of words under an or, and the legality of the state after reset.
-/
namespace Sys2Proof.Machine
theorem bits_eq_extract {w : Nat} (v : BitVec w) (hi lo : Nat) : bits v hi lo = (v.extractLsb' lo (hi + 1 - lo)).toNat := by
  simp [bits, BitVec.extractLsb'_toNat, Nat.shiftRight_eq_div_pow]

theorem bits_or {w : Nat} (u v : BitVec w) (hi lo : Nat) : bits (u ||| v) hi lo = bits u hi lo ||| bits v hi lo := by
  simp only [bits_eq_extract, BitVec.extractLsb'_or, BitVec.toNat_or]

theorem govLegal_govReset : govLegal govReset = true := by
  have h : ∀ x, 1 ≤ x → x < 4096 →
      govLegal ((15000#64 <<< 48) ||| (2000#64 <<< 32) ||| (BitVec.ofNat 64 x <<< 20) ||| (1#64 <<< 18) ||| 400#64) = true := by
    intro x h1 h2
    have e : (BitVec.ofNat 64 x <<< 20).toNat = x * 2 ^ 20 := by
      rw [BitVec.toNat_shiftLeft, BitVec.toNat_ofNat, Nat.shiftLeft_eq]
      omega
    have b1 : bits (BitVec.ofNat 64 x <<< 20) 31 20 = x := by simp only [bits, e]; omega
    have b2 : bits (BitVec.ofNat 64 x <<< 20) 19 18 = 0 := by simp only [bits, e]; omega
    have b3 : bits (BitVec.ofNat 64 x <<< 20) 17 11 = 0 := by simp only [bits, e]; omega
    have b4 : bits (BitVec.ofNat 64 x <<< 20) 10 0 = 0 := by simp only [bits, e]; omega
    have k1 : bits (15000#64 <<< 48) 31 20 = 0 ∧ bits (2000#64 <<< 32) 31 20 = 0 ∧ bits (1#64 <<< 18) 31 20 = 0 ∧ bits (400#64) 31 20 = 0 := by decide
    have k2 : bits (15000#64 <<< 48) 19 18 = 0 ∧ bits (2000#64 <<< 32) 19 18 = 0 ∧ bits (1#64 <<< 18) 19 18 = 1 ∧ bits (400#64) 19 18 = 0 := by decide
    have k3 : bits (15000#64 <<< 48) 17 11 = 0 ∧ bits (2000#64 <<< 32) 17 11 = 0 ∧ bits (1#64 <<< 18) 17 11 = 0 ∧ bits (400#64) 17 11 = 0 := by decide
    have k4 : bits (15000#64 <<< 48) 10 0 = 0 ∧ bits (2000#64 <<< 32) 10 0 = 0 ∧ bits (1#64 <<< 18) 10 0 = 0 ∧ bits (400#64) 10 0 = 400 := by decide
    simp only [govLegal, bits_or, b1, b2, b3, b4, k1, k2, k3, k4]
    simp
    omega
  exact h _ (by omega) (by omega)

theorem legal_reset : State.reset.legal :=
  ⟨by decide, by decide, govLegal_govReset, govLegal_govReset, by decide, by decide, by decide, by decide⟩

end Sys2Proof.Machine
end

