-- ==== Sys2Proof/Laws/Retire.lean ====
section
/-!
SUPPORT. What fetching a line of code changes, and what retirement does: the lemmas that results and frames rest on.
-/
namespace Sys2Proof.Machine

theorem each_inv {α β : Type} (P : β → Prop) (xs : List α) (s : β) (f : β → α → β) (hf : ∀ t x, P t → P (f t x)) (h : P s) :
    P (each xs s f) := by
  induction xs generalizing s with
  | nil => exact h
  | cons x xs ih => exact ih _ (hf s x h)

/-! ### fetchOnly -/

theorem Core.codeOnly_iff (x y : Core) : x.codeOnly y ↔
    { y with
      loc := { y.loc with tcm := x.loc.tcm, ecc := x.loc.ecc }
      eccstat := x.eccstat, eccAt := x.eccAt
      cache := { y.cache with obb := x.cache.obb } } = x := by
  constructor
  · intro h; rw [Core.codeOnly] at h; rw [h]
  · intro h; rw [Core.codeOnly, ← h]

theorem Core.codeOnly.refl (x : Core) : x.codeOnly x := rfl

theorem Core.codeOnly.trans {x y z : Core} (h : x.codeOnly y) (k : y.codeOnly z) : x.codeOnly z := by
  rw [Core.codeOnly_iff] at *
  rw [← h, ← k]

theorem State.fetchOnly.refl (s : State) : s.fetchOnly s := ⟨rfl, fun _ => rfl, fun _ => ⟨rfl, fun _ => rfl⟩⟩

theorem State.memOnly.fetchOnly {s t : State} (h : s.memOnly t) : s.fetchOnly t := by
  have h' := (State.memOnly_iff s t).1 h
  obtain ⟨h1, h2, h3, h4, h5, h6, h7, h8, h9, h10, h11, h12, h13, h14⟩ := h'
  refine ⟨?_, fun c => ?_, fun o => ?_⟩
  · rw [State.memOnly_iff] at h ⊢
    simp only [true_and]
    exact ⟨h1, h2, h3, h4, h5, h8, h9, h10, h11, h12, h13, h14⟩
  · have : t.coreAt c = s.coreAt c := by simp only [State.coreAt, h1, h6, h13]
    rw [this]; rfl
  · have : t.oct o = s.oct o := by simp only [State.oct, h7]
    rw [this]; exact ⟨rfl, fun _ => rfl⟩

theorem State.fetchOnly.trans {s t u : State} (h : s.fetchOnly t) (k : t.fetchOnly u) : s.fetchOnly u := by
  obtain ⟨h1, h2, h3⟩ := h
  obtain ⟨k1, k2, k3⟩ := k
  refine ⟨?_, fun c => (h2 c).trans (k2 c), fun o => ?_⟩
  · refine State.memOnly.trans (t := { t with cores := u.cores, octets := u.octets }) ?_ k1
    rw [State.memOnly_iff] at h1 ⊢
    obtain ⟨a1, a2, a3, a4, a5, a6, a7, a8⟩ := h1
    exact ⟨a1, a2, a3, a4, a5, rfl, rfl, a8⟩
  · refine ⟨by rw [(k3 o).1, (h3 o).1], fun w => ?_⟩
    rw [(k3 o).2 w, (h3 o).2 w]

/-- What fetchOnly says of the fields. -/
theorem State.fetchOnly.fields {s t : State} (h : s.fetchOnly t) :
    t.now = s.now ∧ t.stage = s.stage ∧ t.served = s.served ∧ t.core = s.core ∧ t.ctx = s.ctx ∧ t.insts = s.insts
      ∧ t.rings = s.rings ∧ t.beats = s.beats ∧ t.sched = { s.sched with counters := t.sched.counters } ∧ t.gov = s.gov
      ∧ t.boot = s.boot ∧ t.ductcfg = s.ductcfg ∧ t.ductEff = s.ductEff ∧ t.conns = s.conns ∧ t.modno = s.modno
      ∧ t.podsize = s.podsize ∧ t.podOff = s.podOff ∧ t.attached = s.attached ∧ t.pendingLinks = s.pendingLinks
      ∧ t.blocked = s.blocked ∧ t.past = s.past ∧ t.ductLog = s.ductLog ∧ t.podBase = s.podBase ∧ t.refused = s.refused
      ∧ t.deadLinks = s.deadLinks ∧ t.occ = s.occ ∧ t.podRoot = s.podRoot ∧ t.snapbw = s.snapbw ∧ t.collFmt = s.collFmt
      ∧ t.podCtl = s.podCtl ∧ t.linkFmt = s.linkFmt ∧ t.deadMods = s.deadMods := by
  obtain ⟨h1, h2, h3, h4, h5, _, _, h6⟩ := (State.memOnly_iff _ _).1 h.1
  exact ⟨h1, h2, h3, h4, h5, h6⟩

theorem State.fetchOnly.core {s t : State} (h : s.fetchOnly t) : t.core = s.core := h.fields.2.2.2.1
theorem State.fetchOnly.ctx {s t : State} (h : s.fetchOnly t) : t.ctx = s.ctx := h.fields.2.2.2.2.1

/-- Reading code changes no context of any core. -/
theorem State.fetchOnly.ctxAt {s t : State} (h : s.fetchOnly t) (c k : Nat) : t.ctxAt c k = s.ctxAt c k := by
  have := h.2.1 c
  rw [Core.codeOnly] at this
  rw [State.ctxAt, State.ctxAt, this]; rfl

theorem State.fetchOnly.me {s t : State} (h : s.fetchOnly t) : t.me = s.me := by
  rw [State.me, State.me, h.core, h.ctx, h.ctxAt]

/-! ### Reading a line -/

theorem State.modCore_fetch {s0 s : State} (c : Nat) (f : Core → Core) (h : s0.fetchOnly s) (hf : ∀ x : Core, x.codeOnly (f x)) :
    s0.fetchOnly (s.modCore c f) := by
  refine h.trans ⟨rfl, fun d => ?_, fun _ => ⟨rfl, fun _ => rfl⟩⟩
  rw [State.coreAt_modCore]
  split
  · rename_i e; subst e; exact hf _
  · exact Core.codeOnly.refl _

theorem Octet.well_modWell (o : Octet) (w v : Nat) (f : Well → Well) :
    (o.modWell w f).well v = if v = w then f (o.well w) else o.well v := sget_smod _ _ _ _ _

theorem State.modWell_fetch {s0 s : State} (c w : Nat) (f : Well → Well) (h : s0.fetchOnly s)
    (hf : ∀ v : Well, f v = { v with data := (f v).data, ecc := (f v).ecc }) : s0.fetchOnly (s.modWell c w f) := by
  refine h.trans ⟨rfl, fun _ => rfl, fun o => ?_⟩
  simp only [State.modWell, State.modOct, State.oct, sget_smod]
  split
  · rename_i e; subst e
    refine ⟨rfl, fun v => ?_⟩
    rw [Octet.well_modWell]
    split
    · rename_i e; subst e; exact hf _
    · rfl
  · exact ⟨rfl, fun _ => rfl⟩

theorem Core.countEcc_code (x y : Core) (now corr unc src : Nat) (h : x.codeOnly y) : x.codeOnly (y.countEcc now corr unc src) := by
  refine h.trans ?_
  unfold Core.countEcc
  split
  · rfl
  · rfl

theorem State.localRead_fetch {s0 s : State} (c la n : Nat) (h : s0.fetchOnly s) : s0.fetchOnly (s.localRead c la n).1 := by
  rw [State.localRead, State.localReadBy]
  refine each_inv (fun p : State × List Byte × Option Nat => s0.fetchOnly p.1) _ _ _ (fun p x hp => ?_) h
  obtain ⟨t, bs, bad⟩ := p
  obtain ⟨a, m⟩ := x
  by_cases ha : a < 0x30000
  · simp only [ha, if_true]
    exact State.modCore_fetch _ _ hp (fun x => Core.countEcc_code x _ _ _ _ _ rfl)
  · simp only [ha, if_false]
    exact State.modCore_fetch _ _ (State.modWell_fetch _ _ _ hp (fun _ => rfl)) (fun x => Core.countEcc_code x _ _ _ _ _ rfl)

theorem State.fetchAlias_eq (s : State) (t la : Nat) : s.fetchAlias t la =
    (match s.portFault t la 64 false with
      | some _ => (s, .bad 2)
      | none => ((s.localRead t la 64).1,
          if (s.localRead t la 64).2.2.isSome then .bad 4 else .ok (s.localRead t la 64).2.1)) := rfl

theorem State.fetchOnly_match {s0 s : State} (z : Option Cause) (r : State × List Byte × Option Nat)
    (hr : s0.fetchOnly r.1) (h : s0.fetchOnly s) :
    s0.fetchOnly (match z with
      | some _ => (s, LineRead.bad 2)
      | none => (r.1, if r.2.2.isSome then .bad 4 else .ok r.2.1)).1 := by
  cases z
  · exact hr
  · exact h

theorem State.fetchAlias_fetch {s0 s : State} (t la : Nat) (h : s0.fetchOnly s) : s0.fetchOnly (s.fetchAlias t la).1 := by
  rw [State.fetchAlias_eq]
  exact State.fetchOnly_match _ _ (State.localRead_fetch t la 64 h) h

/-- Meeting errors changes the core's counts, and may send a device-level fault (R375, R377). -/
theorem State.suffer_fetch {s0 s : State} (c src : Nat) (errs : List Bool) (h : s0.fetchOnly s) : s0.fetchOnly (s.suffer c src errs).1 := by
  have hx : ∀ (l : List Bool) (x y : Core), x.codeOnly y →
      x.codeOnly (l.foldl (fun x d => x.countEcc s.now (!d).toNat d.toNat src) y) := by
    intro l
    induction l with
    | nil => exact fun _ _ h => h
    | cons e l ih => exact fun x y h => ih _ _ (Core.countEcc_code _ _ _ _ _ _ h)
  have hp : ∀ t : State, s0.fetchOnly t →
      s0.fetchOnly (if errs.any id && (t.coreAt c).run.node.isSome then (t.push (.deviceLevelFault (t.coreAt c).cid 2 0 c 0), true) else (t, false)).1 := by
    intro t ht
    split
    · exact ht.trans (State.memOnly.fetchOnly rfl)
    · exact ht
  unfold State.suffer
  split
  · exact h
  refine hp _ ?_
  split
  · exact h
  · exact State.modCore_fetch _ _ h (fun x => hx _ _ _ rfl)

/-- Using an OBB entry changes the bounds the core keeps, and meets the error in it (R338, R377). -/
theorem State.obbUse_fetch {s0 s : State} (c id : Nat) (h : s0.fetchOnly s) : s0.fetchOnly (s.obbUse c id) := by
  unfold State.obbUse
  split
  · exact h
  · exact State.modCore_fetch _ _ (State.suffer_fetch _ _ _ h) (fun _ => rfl)

theorem State.fetchHome_fetch {s0 s : State} (c k : Nat) (la : Word) (h : s0.fetchOnly s) : s0.fetchOnly (s.fetchHome c k la).1 :=
  (State.obbUse_fetch c (idOf la) h).trans (State.dieRead_mem _ _ _ _ _ _ (State.memOnly.refl _)).fetchOnly

/-- Reading a line of code is all that a fetch changes (R67, R119). -/
theorem State.fetch_fetch {s0 s : State} (c k : Nat) (la : Word) (h : s0.fetchOnly s) : s0.fetchOnly (s.fetch c k la).1 := by
  unfold State.fetch
  split
  · exact h
  split
  · exact State.obbUse_fetch _ _ h
  split
  · exact State.fetchAlias_fetch _ _ h
  · exact State.fetchHome_fetch _ _ _ h

theorem State.formSucc_fetch {s0 s : State} (c k : Nat) (e : QEnt) (h : s0.fetchOnly s) : s0.fetchOnly (s.formSucc c k e).1 := by
  unfold State.formSucc
  split
  · split
    · exact h
    · exact State.fetch_fetch _ _ _ h
  · exact h

theorem State.formTarget_fetch {s0 s : State} (c k : Nat) (t : Word) (h : s0.fetchOnly s) : s0.fetchOnly (s.formTarget c k t).1 :=
  State.fetch_fetch _ _ _ h

/-! ### Retirement -/

theorem State.fetchOnly.passed {s u : State} (h : s.fetchOnly u) {y : Ctx} (hy : s.me.passed y) : s.passed (u.modMe (fun _ => y)) := by
  refine ⟨u, h, ?_, ?_⟩
  · rw [State.me_modMe]; exact hy
  · rw [State.me_modMe]

/-- Retirement of an instruction that does not transfer: the queue moves up (R17), and nothing else changes but what
reading the next line changes. Not for the second delay slot of an ERET, whose retirement is the return (R114). -/
theorem State.retireWith_passed (s : State) (f : BitVec 16) (h : s.me.eret ≠ 1) : s.passed (s.retireWith false none .plain f) := by
  have hs : s.fetchOnly (s.formSucc s.core s.ctx s.me.q2).1 := State.formSucc_fetch _ _ _ (State.fetchOnly.refl s)
  unfold State.retireWith
  simp only [h, if_false, nullifies, Bool.and_false, Bool.or_false]
  rw [State.modMe_congr _ (g := fun _ => { s.me.settle with
      q0 := s.me.q1, q1 := s.me.q2, q2 := (s.formSucc s.core s.ctx s.me.q2).2, p := (sigMove s.me.q0 s.me.sigAfter s.me.q1 f).p,
      sigFault := (sigMove s.me.q0 s.me.sigAfter s.me.q1 f).fault, decFlip := (sigMove s.me.q0 s.me.sigAfter s.me.q1 f).flip,
      eret := s.me.eret - 1 }) (by rw [hs.me])]
  exact hs.passed rfl

theorem State.retire_passed (s : State) (h : s.me.eret ≠ 1) : s.passed s.retire := State.retireWith_passed s 0 h

/-- When the next head lies in the line already read, retirement is exactly one step of the queue. -/
theorem State.retire_inLine (s : State) (h : s.me.eret ≠ 1) (hl : s.me.inLine = true) : s.retire = s.stepped := by
  have e : ∀ (l : Line), s.me.q2.line = .ok l → headIdx s.me.q2.addr + 1 < lineH l →
      s.formSucc s.core s.ctx s.me.q2 = (s, { addr := s.me.q2.addr + 2, line := s.me.q2.line }) := by
    intro l h1 h2; simp only [State.formSucc, h1, h2, if_true]
  unfold State.retire State.retireWith State.stepped
  simp only [h, if_false, nullifies, Bool.and_false, Bool.or_false]
  unfold Ctx.inLine at hl
  split at hl
  · rename_i l hq
    rw [e l hq (by simpa using hl)]
    exact State.modMe_congr _ rfl
  · cases hl

theorem State.result_passed (s : State) (a : GReg) (v : Word) (h : s.me.eret ≠ 1) : (s.setG a v).passed (s.result a v) := by
  refine State.retire_passed _ ?_
  rw [State.me_setG]; unfold Ctx.setReg; split <;> exact h

/-! ### What `passed` says -/

theorem State.passed.me {s t : State} (h : s.passed t) : s.me.passed t.me := by obtain ⟨_, _, h, _⟩ := h; exact h

theorem State.passed.core {s t : State} (h : s.passed t) : t.core = s.core := by
  obtain ⟨u, hu, _, e⟩ := h; rw [e]; exact hu.core
theorem State.passed.ctx {s t : State} (h : s.passed t) : t.ctx = s.ctx := by
  obtain ⟨u, hu, _, e⟩ := h; rw [e]; exact hu.ctx

/-- No other context changes. -/
theorem State.passed.ctxAt_ne {s t : State} (h : s.passed t) (c k : Nat) (hc : ¬(c = s.core ∧ k = s.ctx)) :
    t.ctxAt c k = s.ctxAt c k := by
  obtain ⟨u, hu, _, e⟩ := h
  rw [e, State.modMe, State.ctxAt_modCtx, hu.core, hu.ctx, if_neg hc, hu.ctxAt]

/-- Every general register is as before. -/
theorem Ctx.passed.reg {x y : Ctx} (h : x.passed y) (r : GReg) : y.reg r = x.reg r := by
  rw [Ctx.passed] at h; rw [h]; rfl

theorem State.passed.g {s t : State} (h : s.passed t) (r : GReg) : t.g r = s.g r := h.me.reg r

/-- Nothing of a core changes but its issuing context and what reading code changes. -/
theorem State.passed.coreAt_ne {s t : State} (h : s.passed t) (c : Nat) (hc : c ≠ s.core) : (s.coreAt c).codeOnly (t.coreAt c) := by
  obtain ⟨u, hu, _, e⟩ := h
  rw [e, State.modMe, State.modCtx, State.coreAt_modCore, hu.core, if_neg hc]
  exact hu.2.1 c

end Sys2Proof.Machine
end

