-- ==== Sys2Proof/Laws/Memory.lean ====
section
/-!
SUPPORT. Every operation over a memory keeps its canonical form: writes, reads and writes through the error codes, copies of
pages, and the accesses to HBM made of them.
-/
namespace Sys2Proof.Machine

theorem Memory.wf_nil : Memory.wf [] = true := rfl

theorem eccWord_wf (o : EccOut) (w : Nat) (h : o.mem.wf = true) : (eccWord o w).mem.wf = true := by
  unfold eccWord
  split
  · exact h
  · split
    · exact h
    · dsimp only
      split
      · exact h
      · split
        · exact h
        · exact Memory.wf_writeN h _ _

theorem eccRead_wf (m : Memory) (e : Ecc) (a n : Nat) (h : m.wf = true) : (eccRead m e a n).mem.wf = true :=
  each_inv (fun o : EccOut => o.mem.wf = true) _ _ _ (fun t x ht => eccWord_wf t x ht) h

theorem eccWrite_wf (m : Memory) (e : Ecc) (a : Nat) (bs : List Byte) (h : m.wf = true) : (eccWrite m e a bs).mem.wf = true := by
  refine Memory.wf_writeN (each_inv (fun o : EccOut => o.mem.wf = true) _ _ _ (fun t x ht => ?_) h) _ _
  split
  · exact ht
  · exact eccWord_wf t x ht

theorem risingFrom_filter {α : Type} {m : SMap α} {lo : Nat} (p : Nat × α → Bool) (hm : risingFrom lo m = true) :
    risingFrom lo (m.filter p) = true := by
  induction m generalizing lo with
  | nil => rfl
  | cons e r ih =>
    obtain ⟨k, v⟩ := e
    simp only [risingFrom, Bool.and_eq_true, decide_eq_true_eq] at hm
    rw [List.filter_cons]
    split
    · simp only [risingFrom, Bool.and_eq_true, decide_eq_true_eq]
      exact ⟨hm.1, ih hm.2⟩
    · exact risingFrom_mono (by omega) (ih hm.2)

theorem Memory.wf_filter {m : Memory} (h : m.wf = true) (p : Nat × Byte → Bool) : Memory.wf (m.filter p) = true := by
  simp only [Memory.wf, Bool.and_eq_true] at h ⊢
  refine ⟨risingFrom_filter p h.1, ?_⟩
  rw [List.all_eq_true] at h ⊢
  exact fun x hx => h.2 x (List.mem_of_mem_filter hx)

theorem Memory.wf_copyRange {m : Memory} (h : m.wf = true) (src dst n : Nat) : (m.copyRange src dst n).wf = true := by
  unfold Memory.copyRange
  dsimp only
  generalize (m.filter (fun e => decide (src ≤ e.1) && decide (e.1 < src + n))).map (fun e => (e.1 - src + dst, e.2)) = part
  have hf := Memory.wf_filter h (fun e => decide (e.1 < dst) || decide (dst + n ≤ e.1))
  generalize m.filter (fun e => decide (e.1 < dst) || decide (dst + n ≤ e.1)) = u at hf
  induction part generalizing u with
  | nil => exact hf
  | cons e r ih => exact ih _ (Memory.wf_write hf _ _)

/-! ### HBM -/

theorem State.hbmRead_wf (s : State) (a n : Nat) (h : s.hbm.wf = true) : (s.hbmRead a n).1.hbm.wf = true := eccRead_wf _ _ _ _ h
theorem State.hbmWrite_wf (s : State) (a : Nat) (bs : List Byte) (h : s.hbm.wf = true) : (s.hbmWrite a bs).1.hbm.wf = true :=
  eccWrite_wf _ _ _ _ h

theorem State.reset_hbm_wf : State.reset.hbm.wf = true := rfl
theorem State.reset_tcm_wf (c : Nat) : (State.reset.coreAt c).loc.tcm.wf = true := rfl
theorem State.reset_well_wf (o w : Nat) : ((State.reset.oct o).well w).data.wf = true := rfl

end Sys2Proof.Machine
end

