-- ==== Sys2Proof/Laws/PerInstr.lean ====
section
/-!
SUPPORT. Statements made for each constructor of Instr. Family Enc: the head and tail of an instruction decode to it, must-be-zero
fields and operand limits not yet looked at; a machine event has no head.
-/
open Sys2Proof

/-- The head and tail that encode an instruction have a major that is not reserved, and decode to it. -/
def Sys2Proof.Laws.Enc.Statement (i : Instr) : Prop :=
  ∀ e, encode i = some e → reservedMajor (e.head / 1024) = false ∧ rawDecode e.head e.tail = some i

namespace Sys2Proof.Laws

/-- A field of a value. -/
theorem fld_eq {x lo len : Nat} {v : BitVec len} (h : x / 2 ^ lo % 2 ^ len = v.toNat) : fld x lo len = v := by
  apply BitVec.eq_of_toNat_eq
  simpa [fld] using h

/-- A bit of a value as a Bool. -/
theorem bit_eq {n : Nat} {b : Bool} (h : n = b.toNat) : (n == 1) = b := by subst h; cases b <;> rfl

theorem enc_none {i : Instr} (h : encode i = none) : Enc.Statement i := by
  intro e he; rw [h] at he; cases he

theorem enc_en {i : Instr} {M A B T : Nat} (he : encode i = en M A B T) (hr : reservedMajor M = false) (hA : A < 32) (hB : B < 32)
    (hd : ∀ h t, h / 1024 = M → h / 32 % 32 = A → h % 32 = B → t = T → rawDecode h t = some i) : Enc.Statement i := by
  intro e h
  rw [he, en, Option.some.injEq] at h
  have h1 : (M * 1024 + A * 32 + B) / 1024 = M := by omega
  have h2 : (M * 1024 + A * 32 + B) / 32 % 32 = A := by omega
  have h3 : (M * 1024 + A * 32 + B) % 32 = B := by omega
  subst h
  exact ⟨h1.symm ▸ hr, hd _ _ h1 h2 h3 rfl⟩


theorem Scope_lt (y : Scope) : y.code < 7 := by cases y <;> decide
theorem Scope_of (y : Scope) : Scope.ofCode y.code = some y := by cases y <;> rfl
theorem Order_lt (y : Order) : y.code < 4 := by cases y <;> decide
theorem Order_of (y : Order) : Order.ofCode y.code = some y := by cases y <;> rfl
theorem Size_lt (y : Size) : y.code < 4 := by cases y <;> decide
theorem Size_of (y : Size) : Size.ofCode y.code = some y := by cases y <;> rfl
theorem Nullify_lt (y : Nullify) : y.code < 3 := by cases y <;> decide
theorem Nullify_of (y : Nullify) : Nullify.ofCode y.code = some y := by cases y <;> rfl
theorem FType_lt (y : FType) : y.code < 3 := by cases y <;> decide
theorem FType_of (y : FType) : FType.ofCode y.code = some y := by cases y <;> rfl
theorem CvtFmt_lt (y : CvtFmt) : y.code < 10 := by cases y <;> decide
theorem CvtFmt_of (y : CvtFmt) : CvtFmt.ofCode y.code = some y := by cases y <;> rfl
theorem CvtMode_lt (y : CvtMode) : y.code < 3 := by cases y <;> decide
theorem CvtMode_of (y : CvtMode) : CvtMode.ofCode y.code = some y := by cases y <;> rfl
theorem EType_lt (y : EType) : y.code < 9 := by cases y <;> decide
theorem EType_of (y : EType) : EType.ofCode y.code = some y := by cases y <;> rfl
theorem RedOp_lt (y : RedOp) : y.code < 3 := by cases y <;> decide
theorem RedOp_of (y : RedOp) : RedOp.ofCode y.code = some y := by cases y <;> rfl
theorem RedType_lt (y : RedType) : y.code < 3 := by cases y <;> decide
theorem RedType_of (y : RedType) : RedType.ofCode y.code = some y := by cases y <;> rfl
theorem MmaFmt_lt (y : MmaFmt) : y.code < 6 := by cases y <;> decide
theorem MmaFmt_of (y : MmaFmt) : MmaFmt.ofCode y.code = some y := by cases y <;> rfl
theorem LatchSize_lt (y : LatchSize) : y.code < 3 := by cases y <;> decide
theorem LatchSize_of (y : LatchSize) : LatchSize.ofCode y.code = some y := by cases y <;> rfl
theorem Mirror_lt (y : Mirror) : y.code < 3 := by cases y <;> decide
theorem Mirror_of (y : Mirror) : Mirror.ofCode y.code = some y := by cases y <;> rfl
theorem PrefLevel_lt (y : PrefLevel) : y.code < 2 := by cases y <;> decide
theorem PrefLevel_of (y : PrefLevel) : PrefLevel.ofCode y.code = some y := by cases y <;> rfl
theorem FType_ppLt (y : FType) : y.ppCode < 3 := by cases y <;> decide
theorem FType_ppOf (y : FType) : FType.ofPpCode y.ppCode = some y := by cases y <;> rfl
theorem raw00 {h t : Nat} (hM : h / 1024 = 0) : rawDecode h t = dec00 h t := by unfold rawDecode; rw [hM]; rfl
theorem raw01 {h t : Nat} (hM : h / 1024 = 1) : rawDecode h t = dec01 h t := by unfold rawDecode; rw [hM]; rfl
theorem raw02 {h t : Nat} (hM : h / 1024 = 2) : rawDecode h t = dec02 h t := by unfold rawDecode; rw [hM]; rfl
theorem raw03 {h t : Nat} (hM : h / 1024 = 3) : rawDecode h t = dec03 h t := by unfold rawDecode; rw [hM]; rfl
theorem raw04 {h t : Nat} (hM : h / 1024 = 4) : rawDecode h t = dec04 h t := by unfold rawDecode; rw [hM]; rfl
theorem raw05 {h t : Nat} (hM : h / 1024 = 5) : rawDecode h t = dec05 h t := by unfold rawDecode; rw [hM]; rfl
theorem raw06 {h t : Nat} (hM : h / 1024 = 6) : rawDecode h t = dec06 h t := by unfold rawDecode; rw [hM]; rfl
theorem raw07 {h t : Nat} (hM : h / 1024 = 7) : rawDecode h t = dec07 h t := by unfold rawDecode; rw [hM]; rfl
theorem raw08 {h t : Nat} (hM : h / 1024 = 8) : rawDecode h t = dec08 h t := by unfold rawDecode; rw [hM]; rfl
theorem raw09 {h t : Nat} (hM : h / 1024 = 9) : rawDecode h t = dec09 h t := by unfold rawDecode; rw [hM]; rfl
theorem raw0A {h t : Nat} (hM : h / 1024 = 10) : rawDecode h t = dec0A h t := by unfold rawDecode; rw [hM]; rfl
theorem raw0B {h t : Nat} (hM : h / 1024 = 11) : rawDecode h t = dec0B h t := by unfold rawDecode; rw [hM]; rfl
theorem raw0C {h t : Nat} (hM : h / 1024 = 12) : rawDecode h t = dec0C h t := by unfold rawDecode; rw [hM]; rfl
theorem raw0D {h t : Nat} (hM : h / 1024 = 13) : rawDecode h t = dec0D h t := by unfold rawDecode; rw [hM]; rfl
theorem raw0E {h t : Nat} (hM : h / 1024 = 14) : rawDecode h t = dec0E h t := by unfold rawDecode; rw [hM]; rfl
theorem raw0F {h t : Nat} (hM : h / 1024 = 15) : rawDecode h t = dec0F h t := by unfold rawDecode; rw [hM]; rfl
theorem raw10 {h t : Nat} (hM : h / 1024 = 16) : rawDecode h t = dec10 h t := by unfold rawDecode; rw [hM]; rfl
theorem raw11 {h t : Nat} (hM : h / 1024 = 17) : rawDecode h t = dec11 h t := by unfold rawDecode; rw [hM]; rfl
theorem raw12 {h t : Nat} (hM : h / 1024 = 18) : rawDecode h t = dec12 h t := by unfold rawDecode; rw [hM]; rfl
theorem raw13 {h t : Nat} (hM : h / 1024 = 19) : rawDecode h t = dec13 h t := by unfold rawDecode; rw [hM]; rfl
theorem raw14 {h t : Nat} (hM : h / 1024 = 20) : rawDecode h t = dec14 h t := by unfold rawDecode; rw [hM]; rfl
theorem raw15 {h t : Nat} (hM : h / 1024 = 21) : rawDecode h t = dec15 h t := by unfold rawDecode; rw [hM]; rfl
theorem raw16 {h t : Nat} (hM : h / 1024 = 22) : rawDecode h t = dec16 h t := by unfold rawDecode; rw [hM]; rfl
theorem raw17 {h t : Nat} (hM : h / 1024 = 23) : rawDecode h t = dec17 h t := by unfold rawDecode; rw [hM]; rfl
theorem raw18 {h t : Nat} (hM : h / 1024 = 24) : rawDecode h t = dec18 h t := by unfold rawDecode; rw [hM]; rfl
theorem raw19 {h t : Nat} (hM : h / 1024 = 25) : rawDecode h t = dec19 h t := by unfold rawDecode; rw [hM]; rfl
theorem raw20 {h t : Nat} (hM : h / 1024 = 32) : rawDecode h t = dec20 h t := by unfold rawDecode; rw [hM]; rfl
theorem raw21 {h t : Nat} (hM : h / 1024 = 33) : rawDecode h t = dec21 h t := by unfold rawDecode; rw [hM]; rfl
theorem raw22 {h t : Nat} (hM : h / 1024 = 34) : rawDecode h t = dec22 h t := by unfold rawDecode; rw [hM]; rfl
theorem raw23 {h t : Nat} (hM : h / 1024 = 35) : rawDecode h t = dec23 h t := by unfold rawDecode; rw [hM]; rfl
theorem raw24 {h t : Nat} (hM : h / 1024 = 36) : rawDecode h t = dec24 h t := by unfold rawDecode; rw [hM]; rfl
theorem raw25 {h t : Nat} (hM : h / 1024 = 37) : rawDecode h t = dec25 h t := by unfold rawDecode; rw [hM]; rfl
theorem raw26 {h t : Nat} (hM : h / 1024 = 38) : rawDecode h t = dec26 h t := by unfold rawDecode; rw [hM]; rfl
theorem raw27 {h t : Nat} (hM : h / 1024 = 39) : rawDecode h t = dec27 h t := by unfold rawDecode; rw [hM]; rfl
theorem raw28 {h t : Nat} (hM : h / 1024 = 40) : rawDecode h t = dec28 h t := by unfold rawDecode; rw [hM]; rfl
theorem raw30 {h t : Nat} (hM : h / 1024 = 48) : rawDecode h t = dec30 h t := by unfold rawDecode; rw [hM]; rfl
theorem raw31 {h t : Nat} (hM : h / 1024 = 49) : rawDecode h t = dec31 h t := by unfold rawDecode; rw [hM]; rfl
theorem raw32 {h t : Nat} (hM : h / 1024 = 50) : rawDecode h t = dec32 h t := by unfold rawDecode; rw [hM]; rfl
theorem raw33 {h t : Nat} (hM : h / 1024 = 51) : rawDecode h t = dec33 h t := by unfold rawDecode; rw [hM]; rfl
theorem raw34 {h t : Nat} (hM : h / 1024 = 52) : rawDecode h t = dec34 h t := by unfold rawDecode; rw [hM]; rfl
theorem raw35 {h t : Nat} (hM : h / 1024 = 53) : rawDecode h t = dec35 h t := by unfold rawDecode; rw [hM]; rfl
theorem raw36 {h t : Nat} (hM : h / 1024 = 54) : rawDecode h t = dec36 h t := by unfold rawDecode; rw [hM]; rfl
theorem raw37 {h t : Nat} (hM : h / 1024 = 55) : rawDecode h t = dec37 h t := by unfold rawDecode; rw [hM]; rfl
theorem raw38 {h t : Nat} (hM : h / 1024 = 56) : rawDecode h t = dec38 h t := by unfold rawDecode; rw [hM]; rfl

end Sys2Proof.Laws

open Sys2Proof.Laws


theorem Sys2Proof.Laws.Enc.add2 (a : GReg) (b : GReg) : Sys2Proof.Laws.Enc.Statement (.add2 a b) := by
  have := a.isLt
  have := b.isLt
  refine enc_en (M := 0) (A := a.toNat) (B := b.toNat) (T := 0) rfl rfl (by omega) (by omega) fun h t hM hA hB ht => ?_
  have e1 : fld h 5 5 = a := fld_eq (by omega)
  have e2 : fld h 0 5 = b := fld_eq (by omega)
  simp only [raw00 hM, dec00, e1, e2]
theorem Sys2Proof.Laws.Enc.sub2 (a : GReg) (b : GReg) : Sys2Proof.Laws.Enc.Statement (.sub2 a b) := by
  have := a.isLt
  have := b.isLt
  refine enc_en (M := 1) (A := a.toNat) (B := b.toNat) (T := 0) rfl rfl (by omega) (by omega) fun h t hM hA hB ht => ?_
  have e1 : fld h 5 5 = a := fld_eq (by omega)
  have e2 : fld h 0 5 = b := fld_eq (by omega)
  simp only [raw01 hM, dec01, e1, e2]
theorem Sys2Proof.Laws.Enc.and2 (a : GReg) (b : GReg) : Sys2Proof.Laws.Enc.Statement (.and2 a b) := by
  have := a.isLt
  have := b.isLt
  refine enc_en (M := 2) (A := a.toNat) (B := b.toNat) (T := 0) rfl rfl (by omega) (by omega) fun h t hM hA hB ht => ?_
  have e1 : fld h 5 5 = a := fld_eq (by omega)
  have e2 : fld h 0 5 = b := fld_eq (by omega)
  simp only [raw02 hM, dec02, e1, e2]
theorem Sys2Proof.Laws.Enc.or2 (a : GReg) (b : GReg) : Sys2Proof.Laws.Enc.Statement (.or2 a b) := by
  have := a.isLt
  have := b.isLt
  refine enc_en (M := 3) (A := a.toNat) (B := b.toNat) (T := 0) rfl rfl (by omega) (by omega) fun h t hM hA hB ht => ?_
  have e1 : fld h 5 5 = a := fld_eq (by omega)
  have e2 : fld h 0 5 = b := fld_eq (by omega)
  simp only [raw03 hM, dec03, e1, e2]
theorem Sys2Proof.Laws.Enc.xor2 (a : GReg) (b : GReg) : Sys2Proof.Laws.Enc.Statement (.xor2 a b) := by
  have := a.isLt
  have := b.isLt
  refine enc_en (M := 4) (A := a.toNat) (B := b.toNat) (T := 0) rfl rfl (by omega) (by omega) fun h t hM hA hB ht => ?_
  have e1 : fld h 5 5 = a := fld_eq (by omega)
  have e2 : fld h 0 5 = b := fld_eq (by omega)
  simp only [raw04 hM, dec04, e1, e2]
theorem Sys2Proof.Laws.Enc.mov (a : GReg) (b : GReg) : Sys2Proof.Laws.Enc.Statement (.mov a b) := by
  have := a.isLt
  have := b.isLt
  refine enc_en (M := 5) (A := a.toNat) (B := b.toNat) (T := 0) rfl rfl (by omega) (by omega) fun h t hM hA hB ht => ?_
  have e1 : fld h 5 5 = a := fld_eq (by omega)
  have e2 : fld h 0 5 = b := fld_eq (by omega)
  simp only [raw05 hM, dec05, e1, e2]
theorem Sys2Proof.Laws.Enc.shl2 (a : GReg) (b : GReg) : Sys2Proof.Laws.Enc.Statement (.shl2 a b) := by
  have := a.isLt
  have := b.isLt
  refine enc_en (M := 6) (A := a.toNat) (B := b.toNat) (T := 0) rfl rfl (by omega) (by omega) fun h t hM hA hB ht => ?_
  have e1 : fld h 5 5 = a := fld_eq (by omega)
  have e2 : fld h 0 5 = b := fld_eq (by omega)
  simp only [raw06 hM, dec06, e1, e2]
theorem Sys2Proof.Laws.Enc.shrl2 (a : GReg) (b : GReg) : Sys2Proof.Laws.Enc.Statement (.shrl2 a b) := by
  have := a.isLt
  have := b.isLt
  refine enc_en (M := 7) (A := a.toNat) (B := b.toNat) (T := 0) rfl rfl (by omega) (by omega) fun h t hM hA hB ht => ?_
  have e1 : fld h 5 5 = a := fld_eq (by omega)
  have e2 : fld h 0 5 = b := fld_eq (by omega)
  simp only [raw07 hM, dec07, e1, e2]
theorem Sys2Proof.Laws.Enc.add (a : GReg) (b : GReg) (c : GReg) : Sys2Proof.Laws.Enc.Statement (.add a b c) := by
  have := a.isLt
  have := b.isLt
  have := c.isLt
  refine enc_en (M := 8) (A := a.toNat) (B := b.toNat) (T := c.toNat * 2048 + 0) rfl rfl (by omega) (by omega) fun h t hM hA hB ht => ?_
  have e1 : t % 2048 = 0 := by omega
  have e2 : fld h 5 5 = a := fld_eq (by omega)
  have e3 : fld h 0 5 = b := fld_eq (by omega)
  have e4 : fld t 11 5 = c := fld_eq (by omega)
  simp only [raw08 hM, dec08, e1, e2, e3, e4]
theorem Sys2Proof.Laws.Enc.sub (a : GReg) (b : GReg) (c : GReg) : Sys2Proof.Laws.Enc.Statement (.sub a b c) := by
  have := a.isLt
  have := b.isLt
  have := c.isLt
  refine enc_en (M := 8) (A := a.toNat) (B := b.toNat) (T := c.toNat * 2048 + 1) rfl rfl (by omega) (by omega) fun h t hM hA hB ht => ?_
  have e1 : t % 2048 = 1 := by omega
  have e2 : fld h 5 5 = a := fld_eq (by omega)
  have e3 : fld h 0 5 = b := fld_eq (by omega)
  have e4 : fld t 11 5 = c := fld_eq (by omega)
  simp only [raw08 hM, dec08, e1, e2, e3, e4]
theorem Sys2Proof.Laws.Enc.and (a : GReg) (b : GReg) (c : GReg) : Sys2Proof.Laws.Enc.Statement (.and a b c) := by
  have := a.isLt
  have := b.isLt
  have := c.isLt
  refine enc_en (M := 8) (A := a.toNat) (B := b.toNat) (T := c.toNat * 2048 + 2) rfl rfl (by omega) (by omega) fun h t hM hA hB ht => ?_
  have e1 : t % 2048 = 2 := by omega
  have e2 : fld h 5 5 = a := fld_eq (by omega)
  have e3 : fld h 0 5 = b := fld_eq (by omega)
  have e4 : fld t 11 5 = c := fld_eq (by omega)
  simp only [raw08 hM, dec08, e1, e2, e3, e4]
theorem Sys2Proof.Laws.Enc.or (a : GReg) (b : GReg) (c : GReg) : Sys2Proof.Laws.Enc.Statement (.or a b c) := by
  have := a.isLt
  have := b.isLt
  have := c.isLt
  refine enc_en (M := 8) (A := a.toNat) (B := b.toNat) (T := c.toNat * 2048 + 3) rfl rfl (by omega) (by omega) fun h t hM hA hB ht => ?_
  have e1 : t % 2048 = 3 := by omega
  have e2 : fld h 5 5 = a := fld_eq (by omega)
  have e3 : fld h 0 5 = b := fld_eq (by omega)
  have e4 : fld t 11 5 = c := fld_eq (by omega)
  simp only [raw08 hM, dec08, e1, e2, e3, e4]
theorem Sys2Proof.Laws.Enc.xor (a : GReg) (b : GReg) (c : GReg) : Sys2Proof.Laws.Enc.Statement (.xor a b c) := by
  have := a.isLt
  have := b.isLt
  have := c.isLt
  refine enc_en (M := 8) (A := a.toNat) (B := b.toNat) (T := c.toNat * 2048 + 4) rfl rfl (by omega) (by omega) fun h t hM hA hB ht => ?_
  have e1 : t % 2048 = 4 := by omega
  have e2 : fld h 5 5 = a := fld_eq (by omega)
  have e3 : fld h 0 5 = b := fld_eq (by omega)
  have e4 : fld t 11 5 = c := fld_eq (by omega)
  simp only [raw08 hM, dec08, e1, e2, e3, e4]
theorem Sys2Proof.Laws.Enc.andn (a : GReg) (b : GReg) (c : GReg) : Sys2Proof.Laws.Enc.Statement (.andn a b c) := by
  have := a.isLt
  have := b.isLt
  have := c.isLt
  refine enc_en (M := 8) (A := a.toNat) (B := b.toNat) (T := c.toNat * 2048 + 5) rfl rfl (by omega) (by omega) fun h t hM hA hB ht => ?_
  have e1 : t % 2048 = 5 := by omega
  have e2 : fld h 5 5 = a := fld_eq (by omega)
  have e3 : fld h 0 5 = b := fld_eq (by omega)
  have e4 : fld t 11 5 = c := fld_eq (by omega)
  simp only [raw08 hM, dec08, e1, e2, e3, e4]
theorem Sys2Proof.Laws.Enc.orn (a : GReg) (b : GReg) (c : GReg) : Sys2Proof.Laws.Enc.Statement (.orn a b c) := by
  have := a.isLt
  have := b.isLt
  have := c.isLt
  refine enc_en (M := 8) (A := a.toNat) (B := b.toNat) (T := c.toNat * 2048 + 6) rfl rfl (by omega) (by omega) fun h t hM hA hB ht => ?_
  have e1 : t % 2048 = 6 := by omega
  have e2 : fld h 5 5 = a := fld_eq (by omega)
  have e3 : fld h 0 5 = b := fld_eq (by omega)
  have e4 : fld t 11 5 = c := fld_eq (by omega)
  simp only [raw08 hM, dec08, e1, e2, e3, e4]
theorem Sys2Proof.Laws.Enc.shl (a : GReg) (b : GReg) (c : GReg) : Sys2Proof.Laws.Enc.Statement (.shl a b c) := by
  have := a.isLt
  have := b.isLt
  have := c.isLt
  refine enc_en (M := 8) (A := a.toNat) (B := b.toNat) (T := c.toNat * 2048 + 7) rfl rfl (by omega) (by omega) fun h t hM hA hB ht => ?_
  have e1 : t % 2048 = 7 := by omega
  have e2 : fld h 5 5 = a := fld_eq (by omega)
  have e3 : fld h 0 5 = b := fld_eq (by omega)
  have e4 : fld t 11 5 = c := fld_eq (by omega)
  simp only [raw08 hM, dec08, e1, e2, e3, e4]
theorem Sys2Proof.Laws.Enc.shrl (a : GReg) (b : GReg) (c : GReg) : Sys2Proof.Laws.Enc.Statement (.shrl a b c) := by
  have := a.isLt
  have := b.isLt
  have := c.isLt
  refine enc_en (M := 8) (A := a.toNat) (B := b.toNat) (T := c.toNat * 2048 + 8) rfl rfl (by omega) (by omega) fun h t hM hA hB ht => ?_
  have e1 : t % 2048 = 8 := by omega
  have e2 : fld h 5 5 = a := fld_eq (by omega)
  have e3 : fld h 0 5 = b := fld_eq (by omega)
  have e4 : fld t 11 5 = c := fld_eq (by omega)
  simp only [raw08 hM, dec08, e1, e2, e3, e4]
theorem Sys2Proof.Laws.Enc.shra (a : GReg) (b : GReg) (c : GReg) : Sys2Proof.Laws.Enc.Statement (.shra a b c) := by
  have := a.isLt
  have := b.isLt
  have := c.isLt
  refine enc_en (M := 8) (A := a.toNat) (B := b.toNat) (T := c.toNat * 2048 + 9) rfl rfl (by omega) (by omega) fun h t hM hA hB ht => ?_
  have e1 : t % 2048 = 9 := by omega
  have e2 : fld h 5 5 = a := fld_eq (by omega)
  have e3 : fld h 0 5 = b := fld_eq (by omega)
  have e4 : fld t 11 5 = c := fld_eq (by omega)
  simp only [raw08 hM, dec08, e1, e2, e3, e4]
theorem Sys2Proof.Laws.Enc.rot (a : GReg) (b : GReg) (c : GReg) : Sys2Proof.Laws.Enc.Statement (.rot a b c) := by
  have := a.isLt
  have := b.isLt
  have := c.isLt
  refine enc_en (M := 8) (A := a.toNat) (B := b.toNat) (T := c.toNat * 2048 + 10) rfl rfl (by omega) (by omega) fun h t hM hA hB ht => ?_
  have e1 : t % 2048 = 10 := by omega
  have e2 : fld h 5 5 = a := fld_eq (by omega)
  have e3 : fld h 0 5 = b := fld_eq (by omega)
  have e4 : fld t 11 5 = c := fld_eq (by omega)
  simp only [raw08 hM, dec08, e1, e2, e3, e4]
theorem Sys2Proof.Laws.Enc.addw (a : GReg) (b : GReg) (c : GReg) : Sys2Proof.Laws.Enc.Statement (.addw a b c) := by
  have := a.isLt
  have := b.isLt
  have := c.isLt
  refine enc_en (M := 8) (A := a.toNat) (B := b.toNat) (T := c.toNat * 2048 + 11) rfl rfl (by omega) (by omega) fun h t hM hA hB ht => ?_
  have e1 : t % 2048 = 11 := by omega
  have e2 : fld h 5 5 = a := fld_eq (by omega)
  have e3 : fld h 0 5 = b := fld_eq (by omega)
  have e4 : fld t 11 5 = c := fld_eq (by omega)
  simp only [raw08 hM, dec08, e1, e2, e3, e4]
theorem Sys2Proof.Laws.Enc.subw (a : GReg) (b : GReg) (c : GReg) : Sys2Proof.Laws.Enc.Statement (.subw a b c) := by
  have := a.isLt
  have := b.isLt
  have := c.isLt
  refine enc_en (M := 8) (A := a.toNat) (B := b.toNat) (T := c.toNat * 2048 + 12) rfl rfl (by omega) (by omega) fun h t hM hA hB ht => ?_
  have e1 : t % 2048 = 12 := by omega
  have e2 : fld h 5 5 = a := fld_eq (by omega)
  have e3 : fld h 0 5 = b := fld_eq (by omega)
  have e4 : fld t 11 5 = c := fld_eq (by omega)
  simp only [raw08 hM, dec08, e1, e2, e3, e4]
theorem Sys2Proof.Laws.Enc.mul (a : GReg) (b : GReg) (c : GReg) : Sys2Proof.Laws.Enc.Statement (.mul a b c) := by
  have := a.isLt
  have := b.isLt
  have := c.isLt
  refine enc_en (M := 8) (A := a.toNat) (B := b.toNat) (T := c.toNat * 2048 + 16) rfl rfl (by omega) (by omega) fun h t hM hA hB ht => ?_
  have e1 : t % 2048 = 16 := by omega
  have e2 : fld h 5 5 = a := fld_eq (by omega)
  have e3 : fld h 0 5 = b := fld_eq (by omega)
  have e4 : fld t 11 5 = c := fld_eq (by omega)
  simp only [raw08 hM, dec08, e1, e2, e3, e4]
theorem Sys2Proof.Laws.Enc.mulh (a : GReg) (b : GReg) (c : GReg) : Sys2Proof.Laws.Enc.Statement (.mulh a b c) := by
  have := a.isLt
  have := b.isLt
  have := c.isLt
  refine enc_en (M := 8) (A := a.toNat) (B := b.toNat) (T := c.toNat * 2048 + 17) rfl rfl (by omega) (by omega) fun h t hM hA hB ht => ?_
  have e1 : t % 2048 = 17 := by omega
  have e2 : fld h 5 5 = a := fld_eq (by omega)
  have e3 : fld h 0 5 = b := fld_eq (by omega)
  have e4 : fld t 11 5 = c := fld_eq (by omega)
  simp only [raw08 hM, dec08, e1, e2, e3, e4]
theorem Sys2Proof.Laws.Enc.mulhn (a : GReg) (b : GReg) (c : GReg) : Sys2Proof.Laws.Enc.Statement (.mulhn a b c) := by
  have := a.isLt
  have := b.isLt
  have := c.isLt
  refine enc_en (M := 8) (A := a.toNat) (B := b.toNat) (T := c.toNat * 2048 + 18) rfl rfl (by omega) (by omega) fun h t hM hA hB ht => ?_
  have e1 : t % 2048 = 18 := by omega
  have e2 : fld h 5 5 = a := fld_eq (by omega)
  have e3 : fld h 0 5 = b := fld_eq (by omega)
  have e4 : fld t 11 5 = c := fld_eq (by omega)
  simp only [raw08 hM, dec08, e1, e2, e3, e4]
theorem Sys2Proof.Laws.Enc.div (a : GReg) (b : GReg) (c : GReg) : Sys2Proof.Laws.Enc.Statement (.div a b c) := by
  have := a.isLt
  have := b.isLt
  have := c.isLt
  refine enc_en (M := 8) (A := a.toNat) (B := b.toNat) (T := c.toNat * 2048 + 20) rfl rfl (by omega) (by omega) fun h t hM hA hB ht => ?_
  have e1 : t % 2048 = 20 := by omega
  have e2 : fld h 5 5 = a := fld_eq (by omega)
  have e3 : fld h 0 5 = b := fld_eq (by omega)
  have e4 : fld t 11 5 = c := fld_eq (by omega)
  simp only [raw08 hM, dec08, e1, e2, e3, e4]
theorem Sys2Proof.Laws.Enc.divn (a : GReg) (b : GReg) (c : GReg) : Sys2Proof.Laws.Enc.Statement (.divn a b c) := by
  have := a.isLt
  have := b.isLt
  have := c.isLt
  refine enc_en (M := 8) (A := a.toNat) (B := b.toNat) (T := c.toNat * 2048 + 21) rfl rfl (by omega) (by omega) fun h t hM hA hB ht => ?_
  have e1 : t % 2048 = 21 := by omega
  have e2 : fld h 5 5 = a := fld_eq (by omega)
  have e3 : fld h 0 5 = b := fld_eq (by omega)
  have e4 : fld t 11 5 = c := fld_eq (by omega)
  simp only [raw08 hM, dec08, e1, e2, e3, e4]
theorem Sys2Proof.Laws.Enc.rem (a : GReg) (b : GReg) (c : GReg) : Sys2Proof.Laws.Enc.Statement (.rem a b c) := by
  have := a.isLt
  have := b.isLt
  have := c.isLt
  refine enc_en (M := 8) (A := a.toNat) (B := b.toNat) (T := c.toNat * 2048 + 22) rfl rfl (by omega) (by omega) fun h t hM hA hB ht => ?_
  have e1 : t % 2048 = 22 := by omega
  have e2 : fld h 5 5 = a := fld_eq (by omega)
  have e3 : fld h 0 5 = b := fld_eq (by omega)
  have e4 : fld t 11 5 = c := fld_eq (by omega)
  simp only [raw08 hM, dec08, e1, e2, e3, e4]
theorem Sys2Proof.Laws.Enc.remn (a : GReg) (b : GReg) (c : GReg) : Sys2Proof.Laws.Enc.Statement (.remn a b c) := by
  have := a.isLt
  have := b.isLt
  have := c.isLt
  refine enc_en (M := 8) (A := a.toNat) (B := b.toNat) (T := c.toNat * 2048 + 23) rfl rfl (by omega) (by omega) fun h t hM hA hB ht => ?_
  have e1 : t % 2048 = 23 := by omega
  have e2 : fld h 5 5 = a := fld_eq (by omega)
  have e3 : fld h 0 5 = b := fld_eq (by omega)
  have e4 : fld t 11 5 = c := fld_eq (by omega)
  simp only [raw08 hM, dec08, e1, e2, e3, e4]
theorem Sys2Proof.Laws.Enc.min (a : GReg) (b : GReg) (c : GReg) : Sys2Proof.Laws.Enc.Statement (.min a b c) := by
  have := a.isLt
  have := b.isLt
  have := c.isLt
  refine enc_en (M := 8) (A := a.toNat) (B := b.toNat) (T := c.toNat * 2048 + 24) rfl rfl (by omega) (by omega) fun h t hM hA hB ht => ?_
  have e1 : t % 2048 = 24 := by omega
  have e2 : fld h 5 5 = a := fld_eq (by omega)
  have e3 : fld h 0 5 = b := fld_eq (by omega)
  have e4 : fld t 11 5 = c := fld_eq (by omega)
  simp only [raw08 hM, dec08, e1, e2, e3, e4]
theorem Sys2Proof.Laws.Enc.max (a : GReg) (b : GReg) (c : GReg) : Sys2Proof.Laws.Enc.Statement (.max a b c) := by
  have := a.isLt
  have := b.isLt
  have := c.isLt
  refine enc_en (M := 8) (A := a.toNat) (B := b.toNat) (T := c.toNat * 2048 + 25) rfl rfl (by omega) (by omega) fun h t hM hA hB ht => ?_
  have e1 : t % 2048 = 25 := by omega
  have e2 : fld h 5 5 = a := fld_eq (by omega)
  have e3 : fld h 0 5 = b := fld_eq (by omega)
  have e4 : fld t 11 5 = c := fld_eq (by omega)
  simp only [raw08 hM, dec08, e1, e2, e3, e4]
theorem Sys2Proof.Laws.Enc.minn (a : GReg) (b : GReg) (c : GReg) : Sys2Proof.Laws.Enc.Statement (.minn a b c) := by
  have := a.isLt
  have := b.isLt
  have := c.isLt
  refine enc_en (M := 8) (A := a.toNat) (B := b.toNat) (T := c.toNat * 2048 + 26) rfl rfl (by omega) (by omega) fun h t hM hA hB ht => ?_
  have e1 : t % 2048 = 26 := by omega
  have e2 : fld h 5 5 = a := fld_eq (by omega)
  have e3 : fld h 0 5 = b := fld_eq (by omega)
  have e4 : fld t 11 5 = c := fld_eq (by omega)
  simp only [raw08 hM, dec08, e1, e2, e3, e4]
theorem Sys2Proof.Laws.Enc.maxn (a : GReg) (b : GReg) (c : GReg) : Sys2Proof.Laws.Enc.Statement (.maxn a b c) := by
  have := a.isLt
  have := b.isLt
  have := c.isLt
  refine enc_en (M := 8) (A := a.toNat) (B := b.toNat) (T := c.toNat * 2048 + 27) rfl rfl (by omega) (by omega) fun h t hM hA hB ht => ?_
  have e1 : t % 2048 = 27 := by omega
  have e2 : fld h 5 5 = a := fld_eq (by omega)
  have e3 : fld h 0 5 = b := fld_eq (by omega)
  have e4 : fld t 11 5 = c := fld_eq (by omega)
  simp only [raw08 hM, dec08, e1, e2, e3, e4]
theorem Sys2Proof.Laws.Enc.seq (a : GReg) (b : GReg) (c : GReg) : Sys2Proof.Laws.Enc.Statement (.seq a b c) := by
  have := a.isLt
  have := b.isLt
  have := c.isLt
  refine enc_en (M := 8) (A := a.toNat) (B := b.toNat) (T := c.toNat * 2048 + 32) rfl rfl (by omega) (by omega) fun h t hM hA hB ht => ?_
  have e1 : t % 2048 = 32 := by omega
  have e2 : fld h 5 5 = a := fld_eq (by omega)
  have e3 : fld h 0 5 = b := fld_eq (by omega)
  have e4 : fld t 11 5 = c := fld_eq (by omega)
  simp only [raw08 hM, dec08, e1, e2, e3, e4]
theorem Sys2Proof.Laws.Enc.sne (a : GReg) (b : GReg) (c : GReg) : Sys2Proof.Laws.Enc.Statement (.sne a b c) := by
  have := a.isLt
  have := b.isLt
  have := c.isLt
  refine enc_en (M := 8) (A := a.toNat) (B := b.toNat) (T := c.toNat * 2048 + 33) rfl rfl (by omega) (by omega) fun h t hM hA hB ht => ?_
  have e1 : t % 2048 = 33 := by omega
  have e2 : fld h 5 5 = a := fld_eq (by omega)
  have e3 : fld h 0 5 = b := fld_eq (by omega)
  have e4 : fld t 11 5 = c := fld_eq (by omega)
  simp only [raw08 hM, dec08, e1, e2, e3, e4]
theorem Sys2Proof.Laws.Enc.slt (a : GReg) (b : GReg) (c : GReg) : Sys2Proof.Laws.Enc.Statement (.slt a b c) := by
  have := a.isLt
  have := b.isLt
  have := c.isLt
  refine enc_en (M := 8) (A := a.toNat) (B := b.toNat) (T := c.toNat * 2048 + 34) rfl rfl (by omega) (by omega) fun h t hM hA hB ht => ?_
  have e1 : t % 2048 = 34 := by omega
  have e2 : fld h 5 5 = a := fld_eq (by omega)
  have e3 : fld h 0 5 = b := fld_eq (by omega)
  have e4 : fld t 11 5 = c := fld_eq (by omega)
  simp only [raw08 hM, dec08, e1, e2, e3, e4]
theorem Sys2Proof.Laws.Enc.sltn (a : GReg) (b : GReg) (c : GReg) : Sys2Proof.Laws.Enc.Statement (.sltn a b c) := by
  have := a.isLt
  have := b.isLt
  have := c.isLt
  refine enc_en (M := 8) (A := a.toNat) (B := b.toNat) (T := c.toNat * 2048 + 35) rfl rfl (by omega) (by omega) fun h t hM hA hB ht => ?_
  have e1 : t % 2048 = 35 := by omega
  have e2 : fld h 5 5 = a := fld_eq (by omega)
  have e3 : fld h 0 5 = b := fld_eq (by omega)
  have e4 : fld t 11 5 = c := fld_eq (by omega)
  simp only [raw08 hM, dec08, e1, e2, e3, e4]
theorem Sys2Proof.Laws.Enc.sle (a : GReg) (b : GReg) (c : GReg) : Sys2Proof.Laws.Enc.Statement (.sle a b c) := by
  have := a.isLt
  have := b.isLt
  have := c.isLt
  refine enc_en (M := 8) (A := a.toNat) (B := b.toNat) (T := c.toNat * 2048 + 36) rfl rfl (by omega) (by omega) fun h t hM hA hB ht => ?_
  have e1 : t % 2048 = 36 := by omega
  have e2 : fld h 5 5 = a := fld_eq (by omega)
  have e3 : fld h 0 5 = b := fld_eq (by omega)
  have e4 : fld t 11 5 = c := fld_eq (by omega)
  simp only [raw08 hM, dec08, e1, e2, e3, e4]
theorem Sys2Proof.Laws.Enc.slen (a : GReg) (b : GReg) (c : GReg) : Sys2Proof.Laws.Enc.Statement (.slen a b c) := by
  have := a.isLt
  have := b.isLt
  have := c.isLt
  refine enc_en (M := 8) (A := a.toNat) (B := b.toNat) (T := c.toNat * 2048 + 37) rfl rfl (by omega) (by omega) fun h t hM hA hB ht => ?_
  have e1 : t % 2048 = 37 := by omega
  have e2 : fld h 5 5 = a := fld_eq (by omega)
  have e3 : fld h 0 5 = b := fld_eq (by omega)
  have e4 : fld t 11 5 = c := fld_eq (by omega)
  simp only [raw08 hM, dec08, e1, e2, e3, e4]
theorem Sys2Proof.Laws.Enc.csel (a : GReg) (b : GReg) (c : GReg) : Sys2Proof.Laws.Enc.Statement (.csel a b c) := by
  have := a.isLt
  have := b.isLt
  have := c.isLt
  refine enc_en (M := 8) (A := a.toNat) (B := b.toNat) (T := c.toNat * 2048 + 40) rfl rfl (by omega) (by omega) fun h t hM hA hB ht => ?_
  have e1 : t % 2048 = 40 := by omega
  have e2 : fld h 5 5 = a := fld_eq (by omega)
  have e3 : fld h 0 5 = b := fld_eq (by omega)
  have e4 : fld t 11 5 = c := fld_eq (by omega)
  simp only [raw08 hM, dec08, e1, e2, e3, e4]
theorem Sys2Proof.Laws.Enc.addi (a : GReg) (b : GReg) (imm : BitVec 24) : Sys2Proof.Laws.Enc.Statement (.addi a b imm) := by
  have := a.isLt
  have := b.isLt
  have := imm.isLt
  refine enc_en (M := 9) (A := a.toNat) (B := b.toNat) (T := 0 + imm.toNat) rfl rfl (by omega) (by omega) fun h t hM hA hB ht => ?_
  have e1 : t / 2 ^ 24 % 8 = 0 := by omega
  have e2 : fld h 5 5 = a := fld_eq (by omega)
  have e3 : fld h 0 5 = b := fld_eq (by omega)
  have e4 : fld t 0 24 = imm := fld_eq (by omega)
  simp only [raw09 hM, dec09, e1, e2, e3, e4]
theorem Sys2Proof.Laws.Enc.andi (a : GReg) (b : GReg) (imm : BitVec 24) : Sys2Proof.Laws.Enc.Statement (.andi a b imm) := by
  have := a.isLt
  have := b.isLt
  have := imm.isLt
  refine enc_en (M := 9) (A := a.toNat) (B := b.toNat) (T := 16777216 + imm.toNat) rfl rfl (by omega) (by omega) fun h t hM hA hB ht => ?_
  have e1 : t / 2 ^ 24 % 8 = 1 := by omega
  have e2 : fld h 5 5 = a := fld_eq (by omega)
  have e3 : fld h 0 5 = b := fld_eq (by omega)
  have e4 : fld t 0 24 = imm := fld_eq (by omega)
  simp only [raw09 hM, dec09, e1, e2, e3, e4]
theorem Sys2Proof.Laws.Enc.ori (a : GReg) (b : GReg) (imm : BitVec 24) : Sys2Proof.Laws.Enc.Statement (.ori a b imm) := by
  have := a.isLt
  have := b.isLt
  have := imm.isLt
  refine enc_en (M := 9) (A := a.toNat) (B := b.toNat) (T := 33554432 + imm.toNat) rfl rfl (by omega) (by omega) fun h t hM hA hB ht => ?_
  have e1 : t / 2 ^ 24 % 8 = 2 := by omega
  have e2 : fld h 5 5 = a := fld_eq (by omega)
  have e3 : fld h 0 5 = b := fld_eq (by omega)
  have e4 : fld t 0 24 = imm := fld_eq (by omega)
  simp only [raw09 hM, dec09, e1, e2, e3, e4]
theorem Sys2Proof.Laws.Enc.xori (a : GReg) (b : GReg) (imm : BitVec 24) : Sys2Proof.Laws.Enc.Statement (.xori a b imm) := by
  have := a.isLt
  have := b.isLt
  have := imm.isLt
  refine enc_en (M := 9) (A := a.toNat) (B := b.toNat) (T := 50331648 + imm.toNat) rfl rfl (by omega) (by omega) fun h t hM hA hB ht => ?_
  have e1 : t / 2 ^ 24 % 8 = 3 := by omega
  have e2 : fld h 5 5 = a := fld_eq (by omega)
  have e3 : fld h 0 5 = b := fld_eq (by omega)
  have e4 : fld t 0 24 = imm := fld_eq (by omega)
  simp only [raw09 hM, dec09, e1, e2, e3, e4]
theorem Sys2Proof.Laws.Enc.shli (a : GReg) (b : GReg) (imm : BitVec 24) : Sys2Proof.Laws.Enc.Statement (.shli a b imm) := by
  have := a.isLt
  have := b.isLt
  have := imm.isLt
  refine enc_en (M := 9) (A := a.toNat) (B := b.toNat) (T := 67108864 + imm.toNat) rfl rfl (by omega) (by omega) fun h t hM hA hB ht => ?_
  have e1 : t / 2 ^ 24 % 8 = 4 := by omega
  have e2 : fld h 5 5 = a := fld_eq (by omega)
  have e3 : fld h 0 5 = b := fld_eq (by omega)
  have e4 : fld t 0 24 = imm := fld_eq (by omega)
  simp only [raw09 hM, dec09, e1, e2, e3, e4]
theorem Sys2Proof.Laws.Enc.shrli (a : GReg) (b : GReg) (imm : BitVec 24) : Sys2Proof.Laws.Enc.Statement (.shrli a b imm) := by
  have := a.isLt
  have := b.isLt
  have := imm.isLt
  refine enc_en (M := 9) (A := a.toNat) (B := b.toNat) (T := 83886080 + imm.toNat) rfl rfl (by omega) (by omega) fun h t hM hA hB ht => ?_
  have e1 : t / 2 ^ 24 % 8 = 5 := by omega
  have e2 : fld h 5 5 = a := fld_eq (by omega)
  have e3 : fld h 0 5 = b := fld_eq (by omega)
  have e4 : fld t 0 24 = imm := fld_eq (by omega)
  simp only [raw09 hM, dec09, e1, e2, e3, e4]
theorem Sys2Proof.Laws.Enc.shrai (a : GReg) (b : GReg) (imm : BitVec 24) : Sys2Proof.Laws.Enc.Statement (.shrai a b imm) := by
  have := a.isLt
  have := b.isLt
  have := imm.isLt
  refine enc_en (M := 9) (A := a.toNat) (B := b.toNat) (T := 100663296 + imm.toNat) rfl rfl (by omega) (by omega) fun h t hM hA hB ht => ?_
  have e1 : t / 2 ^ 24 % 8 = 6 := by omega
  have e2 : fld h 5 5 = a := fld_eq (by omega)
  have e3 : fld h 0 5 = b := fld_eq (by omega)
  have e4 : fld t 0 24 = imm := fld_eq (by omega)
  simp only [raw09 hM, dec09, e1, e2, e3, e4]
theorem Sys2Proof.Laws.Enc.movi (a : GReg) (imm : BitVec 48) : Sys2Proof.Laws.Enc.Statement (.movi a imm) := by
  have := a.isLt
  have := imm.isLt
  refine enc_en (M := 10) (A := a.toNat) (B := 0) (T := imm.toNat) rfl rfl (by omega) (by omega) fun h t hM hA hB ht => ?_
  have e1 : fld h 5 5 = a := fld_eq (by omega)
  have e2 : fld t 0 48 = imm := fld_eq (by omega)
  simp only [raw0A hM, dec0A, e1, e2]
theorem Sys2Proof.Laws.Enc.not (a : GReg) (b : GReg) : Sys2Proof.Laws.Enc.Statement (.not a b) := by
  have := a.isLt
  have := b.isLt
  refine enc_en (M := 11) (A := a.toNat) (B := b.toNat) (T := 0) rfl rfl (by omega) (by omega) fun h t hM hA hB ht => ?_
  have e1 : t % 2048 = 0 := by omega
  have e2 : fld h 5 5 = a := fld_eq (by omega)
  have e3 : fld h 0 5 = b := fld_eq (by omega)
  simp only [raw0B hM, dec0B, e1, e2, e3]
theorem Sys2Proof.Laws.Enc.clz (a : GReg) (b : GReg) : Sys2Proof.Laws.Enc.Statement (.clz a b) := by
  have := a.isLt
  have := b.isLt
  refine enc_en (M := 11) (A := a.toNat) (B := b.toNat) (T := 1) rfl rfl (by omega) (by omega) fun h t hM hA hB ht => ?_
  have e1 : t % 2048 = 1 := by omega
  have e2 : fld h 5 5 = a := fld_eq (by omega)
  have e3 : fld h 0 5 = b := fld_eq (by omega)
  simp only [raw0B hM, dec0B, e1, e2, e3]
theorem Sys2Proof.Laws.Enc.ctz (a : GReg) (b : GReg) : Sys2Proof.Laws.Enc.Statement (.ctz a b) := by
  have := a.isLt
  have := b.isLt
  refine enc_en (M := 11) (A := a.toNat) (B := b.toNat) (T := 2) rfl rfl (by omega) (by omega) fun h t hM hA hB ht => ?_
  have e1 : t % 2048 = 2 := by omega
  have e2 : fld h 5 5 = a := fld_eq (by omega)
  have e3 : fld h 0 5 = b := fld_eq (by omega)
  simp only [raw0B hM, dec0B, e1, e2, e3]
theorem Sys2Proof.Laws.Enc.popc (a : GReg) (b : GReg) : Sys2Proof.Laws.Enc.Statement (.popc a b) := by
  have := a.isLt
  have := b.isLt
  refine enc_en (M := 11) (A := a.toNat) (B := b.toNat) (T := 3) rfl rfl (by omega) (by omega) fun h t hM hA hB ht => ?_
  have e1 : t % 2048 = 3 := by omega
  have e2 : fld h 5 5 = a := fld_eq (by omega)
  have e3 : fld h 0 5 = b := fld_eq (by omega)
  simp only [raw0B hM, dec0B, e1, e2, e3]
theorem Sys2Proof.Laws.Enc.sextB (a : GReg) (b : GReg) : Sys2Proof.Laws.Enc.Statement (.sextB a b) := by
  have := a.isLt
  have := b.isLt
  refine enc_en (M := 11) (A := a.toNat) (B := b.toNat) (T := 16) rfl rfl (by omega) (by omega) fun h t hM hA hB ht => ?_
  have e1 : t % 2048 = 16 := by omega
  have e2 : fld h 5 5 = a := fld_eq (by omega)
  have e3 : fld h 0 5 = b := fld_eq (by omega)
  simp only [raw0B hM, dec0B, e1, e2, e3]
theorem Sys2Proof.Laws.Enc.sextH (a : GReg) (b : GReg) : Sys2Proof.Laws.Enc.Statement (.sextH a b) := by
  have := a.isLt
  have := b.isLt
  refine enc_en (M := 11) (A := a.toNat) (B := b.toNat) (T := 17) rfl rfl (by omega) (by omega) fun h t hM hA hB ht => ?_
  have e1 : t % 2048 = 17 := by omega
  have e2 : fld h 5 5 = a := fld_eq (by omega)
  have e3 : fld h 0 5 = b := fld_eq (by omega)
  simp only [raw0B hM, dec0B, e1, e2, e3]
theorem Sys2Proof.Laws.Enc.sextW (a : GReg) (b : GReg) : Sys2Proof.Laws.Enc.Statement (.sextW a b) := by
  have := a.isLt
  have := b.isLt
  refine enc_en (M := 11) (A := a.toNat) (B := b.toNat) (T := 18) rfl rfl (by omega) (by omega) fun h t hM hA hB ht => ?_
  have e1 : t % 2048 = 18 := by omega
  have e2 : fld h 5 5 = a := fld_eq (by omega)
  have e3 : fld h 0 5 = b := fld_eq (by omega)
  simp only [raw0B hM, dec0B, e1, e2, e3]
theorem Sys2Proof.Laws.Enc.zextB (a : GReg) (b : GReg) : Sys2Proof.Laws.Enc.Statement (.zextB a b) := by
  have := a.isLt
  have := b.isLt
  refine enc_en (M := 11) (A := a.toNat) (B := b.toNat) (T := 24) rfl rfl (by omega) (by omega) fun h t hM hA hB ht => ?_
  have e1 : t % 2048 = 24 := by omega
  have e2 : fld h 5 5 = a := fld_eq (by omega)
  have e3 : fld h 0 5 = b := fld_eq (by omega)
  simp only [raw0B hM, dec0B, e1, e2, e3]
theorem Sys2Proof.Laws.Enc.zextH (a : GReg) (b : GReg) : Sys2Proof.Laws.Enc.Statement (.zextH a b) := by
  have := a.isLt
  have := b.isLt
  refine enc_en (M := 11) (A := a.toNat) (B := b.toNat) (T := 25) rfl rfl (by omega) (by omega) fun h t hM hA hB ht => ?_
  have e1 : t % 2048 = 25 := by omega
  have e2 : fld h 5 5 = a := fld_eq (by omega)
  have e3 : fld h 0 5 = b := fld_eq (by omega)
  simp only [raw0B hM, dec0B, e1, e2, e3]
theorem Sys2Proof.Laws.Enc.zextW (a : GReg) (b : GReg) : Sys2Proof.Laws.Enc.Statement (.zextW a b) := by
  have := a.isLt
  have := b.isLt
  refine enc_en (M := 11) (A := a.toNat) (B := b.toNat) (T := 26) rfl rfl (by omega) (by omega) fun h t hM hA hB ht => ?_
  have e1 : t % 2048 = 26 := by omega
  have e2 : fld h 5 5 = a := fld_eq (by omega)
  have e3 : fld h 0 5 = b := fld_eq (by omega)
  simp only [raw0B hM, dec0B, e1, e2, e3]
theorem Sys2Proof.Laws.Enc.bfx (a : GReg) (b : GReg) (pos : BitVec 6) (len1 : BitVec 6) : Sys2Proof.Laws.Enc.Statement (.bfx a b pos len1) := by
  have := a.isLt
  have := b.isLt
  have := pos.isLt
  have := len1.isLt
  refine enc_en (M := 12) (A := a.toNat) (B := b.toNat) (T := 0 + pos.toNat * 64 + len1.toNat) rfl rfl (by omega) (by omega) fun h t hM hA hB ht => ?_
  have e1 : t / 2 ^ 25 % 4 = 0 := by omega
  have e2 : fld h 5 5 = a := fld_eq (by omega)
  have e3 : fld h 0 5 = b := fld_eq (by omega)
  have e4 : fld t 6 6 = pos := fld_eq (by omega)
  have e5 : fld t 0 6 = len1 := fld_eq (by omega)
  simp only [raw0C hM, dec0C, e1, e2, e3, e4, e5]
theorem Sys2Proof.Laws.Enc.bfxS (a : GReg) (b : GReg) (pos : BitVec 6) (len1 : BitVec 6) : Sys2Proof.Laws.Enc.Statement (.bfxS a b pos len1) := by
  have := a.isLt
  have := b.isLt
  have := pos.isLt
  have := len1.isLt
  refine enc_en (M := 12) (A := a.toNat) (B := b.toNat) (T := 33554432 + pos.toNat * 64 + len1.toNat) rfl rfl (by omega) (by omega) fun h t hM hA hB ht => ?_
  have e1 : t / 2 ^ 25 % 4 = 1 := by omega
  have e2 : fld h 5 5 = a := fld_eq (by omega)
  have e3 : fld h 0 5 = b := fld_eq (by omega)
  have e4 : fld t 6 6 = pos := fld_eq (by omega)
  have e5 : fld t 0 6 = len1 := fld_eq (by omega)
  simp only [raw0C hM, dec0C, e1, e2, e3, e4, e5]
theorem Sys2Proof.Laws.Enc.bfi (a : GReg) (b : GReg) (pos : BitVec 6) (len1 : BitVec 6) : Sys2Proof.Laws.Enc.Statement (.bfi a b pos len1) := by
  have := a.isLt
  have := b.isLt
  have := pos.isLt
  have := len1.isLt
  refine enc_en (M := 12) (A := a.toNat) (B := b.toNat) (T := 67108864 + pos.toNat * 64 + len1.toNat) rfl rfl (by omega) (by omega) fun h t hM hA hB ht => ?_
  have e1 : t / 2 ^ 25 % 4 = 2 := by omega
  have e2 : fld h 5 5 = a := fld_eq (by omega)
  have e3 : fld h 0 5 = b := fld_eq (by omega)
  have e4 : fld t 6 6 = pos := fld_eq (by omega)
  have e5 : fld t 0 6 = len1 := fld_eq (by omega)
  simp only [raw0C hM, dec0C, e1, e2, e3, e4, e5]
theorem Sys2Proof.Laws.Enc.obj (a : GReg) (b : GReg) (c : GReg) : Sys2Proof.Laws.Enc.Statement (.obj a b c) := by
  have := a.isLt
  have := b.isLt
  have := c.isLt
  refine enc_en (M := 13) (A := a.toNat) (B := b.toNat) (T := c.toNat * 134217728) rfl rfl (by omega) (by omega) fun h t hM hA hB ht => ?_
  have e1 : t / 2 ^ 25 % 4 = 0 := by omega
  have e2 : fld h 5 5 = a := fld_eq (by omega)
  have e3 : fld h 0 5 = b := fld_eq (by omega)
  have e4 : fld t 27 5 = c := fld_eq (by omega)
  simp only [raw0D hM, dec0D, e1, e2, e3, e4]
theorem Sys2Proof.Laws.Enc.objId (a : GReg) (b : GReg) : Sys2Proof.Laws.Enc.Statement (.objId a b) := by
  have := a.isLt
  have := b.isLt
  refine enc_en (M := 13) (A := a.toNat) (B := b.toNat) (T := 33554432) rfl rfl (by omega) (by omega) fun h t hM hA hB ht => ?_
  have e1 : t / 2 ^ 25 % 4 = 1 := by omega
  have e2 : fld h 5 5 = a := fld_eq (by omega)
  have e3 : fld h 0 5 = b := fld_eq (by omega)
  simp only [raw0D hM, dec0D, e1, e2, e3]
theorem Sys2Proof.Laws.Enc.objOff (a : GReg) (b : GReg) : Sys2Proof.Laws.Enc.Statement (.objOff a b) := by
  have := a.isLt
  have := b.isLt
  refine enc_en (M := 13) (A := a.toNat) (B := b.toNat) (T := 67108864) rfl rfl (by omega) (by omega) fun h t hM hA hB ht => ?_
  have e1 : t / 2 ^ 25 % 4 = 2 := by omega
  have e2 : fld h 5 5 = a := fld_eq (by omega)
  have e3 : fld h 0 5 = b := fld_eq (by omega)
  simp only [raw0D hM, dec0D, e1, e2, e3]
theorem Sys2Proof.Laws.Enc.lea (a : GReg) (b : GReg) (c : GReg) (s : BitVec 2) (imm : BitVec 23) : Sys2Proof.Laws.Enc.Statement (.lea a b c s imm) := by
  have := a.isLt
  have := b.isLt
  have := c.isLt
  have := s.isLt
  have := imm.isLt
  refine enc_en (M := 13) (A := a.toNat) (B := b.toNat) (T := c.toNat * 134217728 + 100663296 + s.toNat * 8388608 + imm.toNat) rfl rfl (by omega) (by omega) fun h t hM hA hB ht => ?_
  have e1 : t / 2 ^ 25 % 4 = 3 := by omega
  have e2 : fld h 5 5 = a := fld_eq (by omega)
  have e3 : fld h 0 5 = b := fld_eq (by omega)
  have e4 : fld t 27 5 = c := fld_eq (by omega)
  have e5 : fld t 23 2 = s := fld_eq (by omega)
  have e6 : fld t 0 23 = imm := fld_eq (by omega)
  simp only [raw0D hM, dec0D, e1, e2, e3, e4, e5, e6]
theorem Sys2Proof.Laws.Enc.fadd (tv : FType) (a : GReg) (b : GReg) (c : GReg) : Sys2Proof.Laws.Enc.Statement (.fadd tv a b c) := by
  have := FType_lt tv
  have := a.isLt
  have := b.isLt
  have := c.isLt
  refine enc_en (M := 14) (A := a.toNat) (B := b.toNat) (T := c.toNat * 2048 + tv.code * 256 + 0) rfl rfl (by omega) (by omega) fun h t hM hA hB ht => ?_
  have e1 : t % 256 = 0 := by omega
  have e2 : t / 256 % 8 = tv.code := by omega
  have e3 : fld h 5 5 = a := fld_eq (by omega)
  have e4 : fld h 0 5 = b := fld_eq (by omega)
  have e5 : fld t 11 5 = c := fld_eq (by omega)
  simp only [raw0E hM, dec0E, e1, e2, FType_of, Option.bind_some, e3, e4, e5]
theorem Sys2Proof.Laws.Enc.fsub (tv : FType) (a : GReg) (b : GReg) (c : GReg) : Sys2Proof.Laws.Enc.Statement (.fsub tv a b c) := by
  have := FType_lt tv
  have := a.isLt
  have := b.isLt
  have := c.isLt
  refine enc_en (M := 14) (A := a.toNat) (B := b.toNat) (T := c.toNat * 2048 + tv.code * 256 + 1) rfl rfl (by omega) (by omega) fun h t hM hA hB ht => ?_
  have e1 : t % 256 = 1 := by omega
  have e2 : t / 256 % 8 = tv.code := by omega
  have e3 : fld h 5 5 = a := fld_eq (by omega)
  have e4 : fld h 0 5 = b := fld_eq (by omega)
  have e5 : fld t 11 5 = c := fld_eq (by omega)
  simp only [raw0E hM, dec0E, e1, e2, FType_of, Option.bind_some, e3, e4, e5]
theorem Sys2Proof.Laws.Enc.fmul (tv : FType) (a : GReg) (b : GReg) (c : GReg) : Sys2Proof.Laws.Enc.Statement (.fmul tv a b c) := by
  have := FType_lt tv
  have := a.isLt
  have := b.isLt
  have := c.isLt
  refine enc_en (M := 14) (A := a.toNat) (B := b.toNat) (T := c.toNat * 2048 + tv.code * 256 + 2) rfl rfl (by omega) (by omega) fun h t hM hA hB ht => ?_
  have e1 : t % 256 = 2 := by omega
  have e2 : t / 256 % 8 = tv.code := by omega
  have e3 : fld h 5 5 = a := fld_eq (by omega)
  have e4 : fld h 0 5 = b := fld_eq (by omega)
  have e5 : fld t 11 5 = c := fld_eq (by omega)
  simp only [raw0E hM, dec0E, e1, e2, FType_of, Option.bind_some, e3, e4, e5]
theorem Sys2Proof.Laws.Enc.fmin (tv : FType) (a : GReg) (b : GReg) (c : GReg) : Sys2Proof.Laws.Enc.Statement (.fmin tv a b c) := by
  have := FType_lt tv
  have := a.isLt
  have := b.isLt
  have := c.isLt
  refine enc_en (M := 14) (A := a.toNat) (B := b.toNat) (T := c.toNat * 2048 + tv.code * 256 + 3) rfl rfl (by omega) (by omega) fun h t hM hA hB ht => ?_
  have e1 : t % 256 = 3 := by omega
  have e2 : t / 256 % 8 = tv.code := by omega
  have e3 : fld h 5 5 = a := fld_eq (by omega)
  have e4 : fld h 0 5 = b := fld_eq (by omega)
  have e5 : fld t 11 5 = c := fld_eq (by omega)
  simp only [raw0E hM, dec0E, e1, e2, FType_of, Option.bind_some, e3, e4, e5]
theorem Sys2Proof.Laws.Enc.fmax (tv : FType) (a : GReg) (b : GReg) (c : GReg) : Sys2Proof.Laws.Enc.Statement (.fmax tv a b c) := by
  have := FType_lt tv
  have := a.isLt
  have := b.isLt
  have := c.isLt
  refine enc_en (M := 14) (A := a.toNat) (B := b.toNat) (T := c.toNat * 2048 + tv.code * 256 + 4) rfl rfl (by omega) (by omega) fun h t hM hA hB ht => ?_
  have e1 : t % 256 = 4 := by omega
  have e2 : t / 256 % 8 = tv.code := by omega
  have e3 : fld h 5 5 = a := fld_eq (by omega)
  have e4 : fld h 0 5 = b := fld_eq (by omega)
  have e5 : fld t 11 5 = c := fld_eq (by omega)
  simp only [raw0E hM, dec0E, e1, e2, FType_of, Option.bind_some, e3, e4, e5]
theorem Sys2Proof.Laws.Enc.fseq (tv : FType) (a : GReg) (b : GReg) (c : GReg) : Sys2Proof.Laws.Enc.Statement (.fseq tv a b c) := by
  have := FType_lt tv
  have := a.isLt
  have := b.isLt
  have := c.isLt
  refine enc_en (M := 14) (A := a.toNat) (B := b.toNat) (T := c.toNat * 2048 + tv.code * 256 + 5) rfl rfl (by omega) (by omega) fun h t hM hA hB ht => ?_
  have e1 : t % 256 = 5 := by omega
  have e2 : t / 256 % 8 = tv.code := by omega
  have e3 : fld h 5 5 = a := fld_eq (by omega)
  have e4 : fld h 0 5 = b := fld_eq (by omega)
  have e5 : fld t 11 5 = c := fld_eq (by omega)
  simp only [raw0E hM, dec0E, e1, e2, FType_of, Option.bind_some, e3, e4, e5]
theorem Sys2Proof.Laws.Enc.fslt (tv : FType) (a : GReg) (b : GReg) (c : GReg) : Sys2Proof.Laws.Enc.Statement (.fslt tv a b c) := by
  have := FType_lt tv
  have := a.isLt
  have := b.isLt
  have := c.isLt
  refine enc_en (M := 14) (A := a.toNat) (B := b.toNat) (T := c.toNat * 2048 + tv.code * 256 + 6) rfl rfl (by omega) (by omega) fun h t hM hA hB ht => ?_
  have e1 : t % 256 = 6 := by omega
  have e2 : t / 256 % 8 = tv.code := by omega
  have e3 : fld h 5 5 = a := fld_eq (by omega)
  have e4 : fld h 0 5 = b := fld_eq (by omega)
  have e5 : fld t 11 5 = c := fld_eq (by omega)
  simp only [raw0E hM, dec0E, e1, e2, FType_of, Option.bind_some, e3, e4, e5]
theorem Sys2Proof.Laws.Enc.fsle (tv : FType) (a : GReg) (b : GReg) (c : GReg) : Sys2Proof.Laws.Enc.Statement (.fsle tv a b c) := by
  have := FType_lt tv
  have := a.isLt
  have := b.isLt
  have := c.isLt
  refine enc_en (M := 14) (A := a.toNat) (B := b.toNat) (T := c.toNat * 2048 + tv.code * 256 + 7) rfl rfl (by omega) (by omega) fun h t hM hA hB ht => ?_
  have e1 : t % 256 = 7 := by omega
  have e2 : t / 256 % 8 = tv.code := by omega
  have e3 : fld h 5 5 = a := fld_eq (by omega)
  have e4 : fld h 0 5 = b := fld_eq (by omega)
  have e5 : fld t 11 5 = c := fld_eq (by omega)
  simp only [raw0E hM, dec0E, e1, e2, FType_of, Option.bind_some, e3, e4, e5]
theorem Sys2Proof.Laws.Enc.fabs (tv : FType) (a : GReg) (b : GReg) : Sys2Proof.Laws.Enc.Statement (.fabs tv a b) := by
  have := FType_lt tv
  have := a.isLt
  have := b.isLt
  refine enc_en (M := 14) (A := a.toNat) (B := b.toNat) (T := tv.code * 256 + 8) rfl rfl (by omega) (by omega) fun h t hM hA hB ht => ?_
  have e1 : t % 256 = 8 := by omega
  have e2 : t / 256 % 8 = tv.code := by omega
  have e3 : fld h 5 5 = a := fld_eq (by omega)
  have e4 : fld h 0 5 = b := fld_eq (by omega)
  simp only [raw0E hM, dec0E, e1, e2, FType_of, Option.bind_some, e3, e4]
theorem Sys2Proof.Laws.Enc.fneg (tv : FType) (a : GReg) (b : GReg) : Sys2Proof.Laws.Enc.Statement (.fneg tv a b) := by
  have := FType_lt tv
  have := a.isLt
  have := b.isLt
  refine enc_en (M := 14) (A := a.toNat) (B := b.toNat) (T := tv.code * 256 + 9) rfl rfl (by omega) (by omega) fun h t hM hA hB ht => ?_
  have e1 : t % 256 = 9 := by omega
  have e2 : t / 256 % 8 = tv.code := by omega
  have e3 : fld h 5 5 = a := fld_eq (by omega)
  have e4 : fld h 0 5 = b := fld_eq (by omega)
  simp only [raw0E hM, dec0E, e1, e2, FType_of, Option.bind_some, e3, e4]
theorem Sys2Proof.Laws.Enc.fclass (tv : FType) (a : GReg) (b : GReg) : Sys2Proof.Laws.Enc.Statement (.fclass tv a b) := by
  have := FType_lt tv
  have := a.isLt
  have := b.isLt
  refine enc_en (M := 14) (A := a.toNat) (B := b.toNat) (T := tv.code * 256 + 10) rfl rfl (by omega) (by omega) fun h t hM hA hB ht => ?_
  have e1 : t % 256 = 10 := by omega
  have e2 : t / 256 % 8 = tv.code := by omega
  have e3 : fld h 5 5 = a := fld_eq (by omega)
  have e4 : fld h 0 5 = b := fld_eq (by omega)
  simp only [raw0E hM, dec0E, e1, e2, FType_of, Option.bind_some, e3, e4]
theorem Sys2Proof.Laws.Enc.ffma (tv : FType) (a : GReg) (b : GReg) (c : GReg) (d : GReg) : Sys2Proof.Laws.Enc.Statement (.ffma tv a b c d) := by
  have := FType_lt tv
  have := a.isLt
  have := b.isLt
  have := c.isLt
  have := d.isLt
  refine enc_en (M := 15) (A := a.toNat) (B := b.toNat) (T := c.toNat * 134217728 + d.toNat * 4194304 + tv.code * 524288) rfl rfl (by omega) (by omega) fun h t hM hA hB ht => ?_
  have e1 : t / 2 ^ 16 % 8 = 0 := by omega
  have e2 : t / 2 ^ 19 % 8 = tv.code := by omega
  have e3 : fld h 5 5 = a := fld_eq (by omega)
  have e4 : fld h 0 5 = b := fld_eq (by omega)
  have e5 : fld t 27 5 = c := fld_eq (by omega)
  have e6 : fld t 22 5 = d := fld_eq (by omega)
  simp only [raw0F hM, dec0F, e1, e2, FType_of, Option.bind_some, e3, e4, e5, e6]
theorem Sys2Proof.Laws.Enc.fcvt (dst : CvtFmt) (src : CvtFmt) (mode : CvtMode) (a : GReg) (b : GReg) : Sys2Proof.Laws.Enc.Statement (.fcvt dst src mode a b) := by
  have := CvtFmt_lt dst
  have := CvtFmt_lt src
  have := CvtMode_lt mode
  have := a.isLt
  have := b.isLt
  refine enc_en (M := 15) (A := a.toNat) (B := b.toNat) (T := 65536 + dst.code * 4096 + src.code * 256 + mode.code * 64) rfl rfl (by omega) (by omega) fun h t hM hA hB ht => ?_
  have e1 : t / 2 ^ 16 % 8 = 1 := by omega
  have e2 : t / 2 ^ 12 % 16 = dst.code := by omega
  have e3 : t / 256 % 16 = src.code := by omega
  have e4 : t / 64 % 4 = mode.code := by omega
  have e5 : fld h 5 5 = a := fld_eq (by omega)
  have e6 : fld h 0 5 = b := fld_eq (by omega)
  simp only [raw0F hM, dec0F, e1, e2, CvtFmt_of, e3, CvtFmt_of, e4, CvtMode_of, Option.bind_some, e5, e6]
theorem Sys2Proof.Laws.Enc.b (n : Nullify) (disp : BitVec 16) : Sys2Proof.Laws.Enc.Statement (.b n disp) := by
  have := Nullify_lt n
  have := disp.isLt
  refine enc_en (M := 32) (A := 0) (B := n.code) (T := disp.toNat) rfl rfl (by omega) (by omega) fun h t hM hA hB ht => ?_
  have e1 : h % 4 = n.code := by omega
  have e2 : fld t 0 16 = disp := fld_eq (by omega)
  simp only [raw20 hM, dec20, e1, Nullify_of, Option.bind_some, e2]
theorem Sys2Proof.Laws.Enc.beq (n : Nullify) (a : GReg) (b : GReg) (disp : BitVec 22) : Sys2Proof.Laws.Enc.Statement (.beq n a b disp) := by
  have := Nullify_lt n
  have := a.isLt
  have := b.isLt
  have := disp.isLt
  refine enc_en (M := 33) (A := a.toNat) (B := b.toNat) (T := 0 + n.code * 4194304 + disp.toNat) rfl rfl (by omega) (by omega) fun h t hM hA hB ht => ?_
  have e1 : t / 2 ^ 24 % 8 = 0 := by omega
  have e2 : t / 2 ^ 22 % 4 = n.code := by omega
  have e3 : fld h 5 5 = a := fld_eq (by omega)
  have e4 : fld h 0 5 = b := fld_eq (by omega)
  have e5 : fld t 0 22 = disp := fld_eq (by omega)
  simp only [raw21 hM, dec21, e1, e2, Nullify_of, Option.bind_some, e3, e4, e5]
theorem Sys2Proof.Laws.Enc.bne (n : Nullify) (a : GReg) (b : GReg) (disp : BitVec 22) : Sys2Proof.Laws.Enc.Statement (.bne n a b disp) := by
  have := Nullify_lt n
  have := a.isLt
  have := b.isLt
  have := disp.isLt
  refine enc_en (M := 33) (A := a.toNat) (B := b.toNat) (T := 16777216 + n.code * 4194304 + disp.toNat) rfl rfl (by omega) (by omega) fun h t hM hA hB ht => ?_
  have e1 : t / 2 ^ 24 % 8 = 1 := by omega
  have e2 : t / 2 ^ 22 % 4 = n.code := by omega
  have e3 : fld h 5 5 = a := fld_eq (by omega)
  have e4 : fld h 0 5 = b := fld_eq (by omega)
  have e5 : fld t 0 22 = disp := fld_eq (by omega)
  simp only [raw21 hM, dec21, e1, e2, Nullify_of, Option.bind_some, e3, e4, e5]
theorem Sys2Proof.Laws.Enc.blt (n : Nullify) (a : GReg) (b : GReg) (disp : BitVec 22) : Sys2Proof.Laws.Enc.Statement (.blt n a b disp) := by
  have := Nullify_lt n
  have := a.isLt
  have := b.isLt
  have := disp.isLt
  refine enc_en (M := 33) (A := a.toNat) (B := b.toNat) (T := 33554432 + n.code * 4194304 + disp.toNat) rfl rfl (by omega) (by omega) fun h t hM hA hB ht => ?_
  have e1 : t / 2 ^ 24 % 8 = 2 := by omega
  have e2 : t / 2 ^ 22 % 4 = n.code := by omega
  have e3 : fld h 5 5 = a := fld_eq (by omega)
  have e4 : fld h 0 5 = b := fld_eq (by omega)
  have e5 : fld t 0 22 = disp := fld_eq (by omega)
  simp only [raw21 hM, dec21, e1, e2, Nullify_of, Option.bind_some, e3, e4, e5]
theorem Sys2Proof.Laws.Enc.bge (n : Nullify) (a : GReg) (b : GReg) (disp : BitVec 22) : Sys2Proof.Laws.Enc.Statement (.bge n a b disp) := by
  have := Nullify_lt n
  have := a.isLt
  have := b.isLt
  have := disp.isLt
  refine enc_en (M := 33) (A := a.toNat) (B := b.toNat) (T := 50331648 + n.code * 4194304 + disp.toNat) rfl rfl (by omega) (by omega) fun h t hM hA hB ht => ?_
  have e1 : t / 2 ^ 24 % 8 = 3 := by omega
  have e2 : t / 2 ^ 22 % 4 = n.code := by omega
  have e3 : fld h 5 5 = a := fld_eq (by omega)
  have e4 : fld h 0 5 = b := fld_eq (by omega)
  have e5 : fld t 0 22 = disp := fld_eq (by omega)
  simp only [raw21 hM, dec21, e1, e2, Nullify_of, Option.bind_some, e3, e4, e5]
theorem Sys2Proof.Laws.Enc.bltn (n : Nullify) (a : GReg) (b : GReg) (disp : BitVec 22) : Sys2Proof.Laws.Enc.Statement (.bltn n a b disp) := by
  have := Nullify_lt n
  have := a.isLt
  have := b.isLt
  have := disp.isLt
  refine enc_en (M := 33) (A := a.toNat) (B := b.toNat) (T := 67108864 + n.code * 4194304 + disp.toNat) rfl rfl (by omega) (by omega) fun h t hM hA hB ht => ?_
  have e1 : t / 2 ^ 24 % 8 = 4 := by omega
  have e2 : t / 2 ^ 22 % 4 = n.code := by omega
  have e3 : fld h 5 5 = a := fld_eq (by omega)
  have e4 : fld h 0 5 = b := fld_eq (by omega)
  have e5 : fld t 0 22 = disp := fld_eq (by omega)
  simp only [raw21 hM, dec21, e1, e2, Nullify_of, Option.bind_some, e3, e4, e5]
theorem Sys2Proof.Laws.Enc.bgen (n : Nullify) (a : GReg) (b : GReg) (disp : BitVec 22) : Sys2Proof.Laws.Enc.Statement (.bgen n a b disp) := by
  have := Nullify_lt n
  have := a.isLt
  have := b.isLt
  have := disp.isLt
  refine enc_en (M := 33) (A := a.toNat) (B := b.toNat) (T := 83886080 + n.code * 4194304 + disp.toNat) rfl rfl (by omega) (by omega) fun h t hM hA hB ht => ?_
  have e1 : t / 2 ^ 24 % 8 = 5 := by omega
  have e2 : t / 2 ^ 22 % 4 = n.code := by omega
  have e3 : fld h 5 5 = a := fld_eq (by omega)
  have e4 : fld h 0 5 = b := fld_eq (by omega)
  have e5 : fld t 0 22 = disp := fld_eq (by omega)
  simp only [raw21 hM, dec21, e1, e2, Nullify_of, Option.bind_some, e3, e4, e5]
theorem Sys2Proof.Laws.Enc.bz (n : Nullify) (a : GReg) (disp : BitVec 16) : Sys2Proof.Laws.Enc.Statement (.bz n a disp) := by
  have := Nullify_lt n
  have := a.isLt
  have := disp.isLt
  refine enc_en (M := 34) (A := a.toNat) (B := n.code) (T := disp.toNat) rfl rfl (by omega) (by omega) fun h t hM hA hB ht => ?_
  have e1 : h / 4 % 2 = 0 := by omega
  have e2 : h % 4 = n.code := by omega
  have e3 : fld h 5 5 = a := fld_eq (by omega)
  have e4 : fld t 0 16 = disp := fld_eq (by omega)
  simp only [raw22 hM, dec22, e1, e2, Nullify_of, Option.bind_some, e3, e4]
theorem Sys2Proof.Laws.Enc.bnz (n : Nullify) (a : GReg) (disp : BitVec 16) : Sys2Proof.Laws.Enc.Statement (.bnz n a disp) := by
  have := Nullify_lt n
  have := a.isLt
  have := disp.isLt
  refine enc_en (M := 34) (A := a.toNat) (B := (4 + n.code)) (T := disp.toNat) rfl rfl (by omega) (by omega) fun h t hM hA hB ht => ?_
  have e1 : h / 4 % 2 = 1 := by omega
  have e2 : h % 4 = n.code := by omega
  have e3 : fld h 5 5 = a := fld_eq (by omega)
  have e4 : fld t 0 16 = disp := fld_eq (by omega)
  simp only [raw22 hM, dec22, e1, e2, Nullify_of, Option.bind_some, e3, e4]
theorem Sys2Proof.Laws.Enc.jal (n : Nullify) (a : GReg) (disp : BitVec 25) : Sys2Proof.Laws.Enc.Statement (.jal n a disp) := by
  have := Nullify_lt n
  have := a.isLt
  have := disp.isLt
  refine enc_en (M := 35) (A := a.toNat) (B := 0) (T := n.code * 33554432 + disp.toNat) rfl rfl (by omega) (by omega) fun h t hM hA hB ht => ?_
  have e1 : t / 2 ^ 25 % 4 = n.code := by omega
  have e2 : fld h 5 5 = a := fld_eq (by omega)
  have e3 : fld t 0 25 = disp := fld_eq (by omega)
  simp only [raw23 hM, dec23, e1, Nullify_of, Option.bind_some, e2, e3]
theorem Sys2Proof.Laws.Enc.jr (n : Nullify) (a : GReg) : Sys2Proof.Laws.Enc.Statement (.jr n a) := by
  have := Nullify_lt n
  have := a.isLt
  refine enc_en (M := 36) (A := a.toNat) (B := n.code) (T := 0) rfl rfl (by omega) (by omega) fun h t hM hA hB ht => ?_
  have e1 : h % 4 = n.code := by omega
  have e2 : fld h 5 5 = a := fld_eq (by omega)
  simp only [raw24 hM, dec24, e1, Nullify_of, Option.bind_some, e2]
theorem Sys2Proof.Laws.Enc.hstart (a : GReg) (b : GReg) (c : GReg) : Sys2Proof.Laws.Enc.Statement (.hstart a b c) := by
  have := a.isLt
  have := b.isLt
  have := c.isLt
  refine enc_en (M := 39) (A := a.toNat) (B := b.toNat) (T := c.toNat * 2048 + 0) rfl rfl (by omega) (by omega) fun h t hM hA hB ht => ?_
  have e1 : t % 2048 = 0 := by omega
  have e2 : fld h 5 5 = a := fld_eq (by omega)
  have e3 : fld h 0 5 = b := fld_eq (by omega)
  have e4 : fld t 11 5 = c := fld_eq (by omega)
  simp only [raw27 hM, dec27, e1, e2, e3, e4]
theorem Sys2Proof.Laws.Enc.hjoin (a : GReg) (b : GReg) : Sys2Proof.Laws.Enc.Statement (.hjoin a b) := by
  have := a.isLt
  have := b.isLt
  refine enc_en (M := 39) (A := a.toNat) (B := b.toNat) (T := 1) rfl rfl (by omega) (by omega) fun h t hM hA hB ht => ?_
  have e1 : t % 2048 = 1 := by omega
  have e2 : fld h 5 5 = a := fld_eq (by omega)
  have e3 : fld h 0 5 = b := fld_eq (by omega)
  simp only [raw27 hM, dec27, e1, e2, e3]
theorem Sys2Proof.Laws.Enc.hexit (a : GReg) : Sys2Proof.Laws.Enc.Statement (.hexit a) := by
  have := a.isLt
  refine enc_en (M := 39) (A := a.toNat) (B := 0) (T := 2) rfl rfl (by omega) (by omega) fun h t hM hA hB ht => ?_
  have e1 : t % 2048 = 2 := by omega
  have e2 : fld h 5 5 = a := fld_eq (by omega)
  simp only [raw27 hM, dec27, e1, e2]
theorem Sys2Proof.Laws.Enc.trap (code : BitVec 11) : Sys2Proof.Laws.Enc.Statement (.trap code) := by
  have := code.isLt
  refine enc_en (M := 40) (A := 0) (B := 0x00) (T := code.toNat) rfl rfl (by omega) (by omega) fun h t hM hA hB ht => ?_
  have e1 : h % 32 = 0 := by omega
  have e2 : fld t 0 11 = code := fld_eq (by omega)
  simp only [raw28 hM, dec28, e1, e2]
theorem Sys2Proof.Laws.Enc.eret (n : Nullify) : Sys2Proof.Laws.Enc.Statement (.eret n) := by
  have := Nullify_lt n
  refine enc_en (M := 40) (A := 0) (B := 0x01) (T := n.code) rfl rfl (by omega) (by omega) fun h t hM hA hB ht => ?_
  have e1 : h % 32 = 1 := by omega
  have e2 : t % 4 = n.code := by omega
  simp only [raw28 hM, dec28, e1, e2, Nullify_of, Option.bind_some]
theorem Sys2Proof.Laws.Enc.rdsys (a : GReg) (reg : BitVec 11) : Sys2Proof.Laws.Enc.Statement (.rdsys a reg) := by
  have := a.isLt
  have := reg.isLt
  refine enc_en (M := 40) (A := a.toNat) (B := 0x02) (T := reg.toNat) rfl rfl (by omega) (by omega) fun h t hM hA hB ht => ?_
  have e1 : h % 32 = 2 := by omega
  have e2 : fld h 5 5 = a := fld_eq (by omega)
  have e3 : fld t 0 11 = reg := fld_eq (by omega)
  simp only [raw28 hM, dec28, e1, e2, e3]
theorem Sys2Proof.Laws.Enc.wrsys (reg : BitVec 11) (c : GReg) : Sys2Proof.Laws.Enc.Statement (.wrsys reg c) := by
  have := reg.isLt
  have := c.isLt
  refine enc_en (M := 40) (A := 0) (B := 0x03) (T := c.toNat * 2048 + reg.toNat) rfl rfl (by omega) (by omega) fun h t hM hA hB ht => ?_
  have e1 : h % 32 = 3 := by omega
  have e2 : fld t 0 11 = reg := fld_eq (by omega)
  have e3 : fld t 11 5 = c := fld_eq (by omega)
  simp only [raw28 hM, dec28, e1, e2, e3]
theorem Sys2Proof.Laws.Enc.ifence : Sys2Proof.Laws.Enc.Statement (.ifence) := by
  refine enc_en (M := 40) (A := 0) (B := 0x04) (T := 0) rfl rfl (by omega) (by omega) fun h t hM hA hB ht => ?_
  have e1 : h % 32 = 4 := by omega
  simp only [raw28 hM, dec28, e1]
theorem Sys2Proof.Laws.Enc.park : Sys2Proof.Laws.Enc.Statement (.park) := by
  refine enc_en (M := 40) (A := 0) (B := 0x05) (T := 0) rfl rfl (by omega) (by omega) fun h t hM hA hB ht => ?_
  have e1 : h % 32 = 5 := by omega
  simp only [raw28 hM, dec28, e1]
theorem Sys2Proof.Laws.Enc.wfe (a : GReg) : Sys2Proof.Laws.Enc.Statement (.wfe a) := by
  have := a.isLt
  refine enc_en (M := 40) (A := a.toNat) (B := 0x06) (T := 0) rfl rfl (by omega) (by omega) fun h t hM hA hB ht => ?_
  have e1 : h % 32 = 6 := by omega
  have e2 : fld h 5 5 = a := fld_eq (by omega)
  simp only [raw28 hM, dec28, e1, e2]
theorem Sys2Proof.Laws.Enc.injectAcc (a : GReg) (c : GReg) (bit : BitVec 6) (dbl : Bool) : Sys2Proof.Laws.Enc.Statement (.injectAcc a c bit dbl) := by
  have := a.isLt
  have := c.isLt
  have := bit.isLt
  have := Bool.toNat_lt dbl
  refine enc_en (M := 40) (A := a.toNat) (B := 0x07) (T := c.toNat * 2048 + bit.toNat * 32 + dbl.toNat * 16 + 0) rfl rfl (by omega) (by omega) fun h t hM hA hB ht => ?_
  have e1 : h % 32 = 7 := by omega
  have e2 : t % 16 = 0 := by omega
  have e3 : fld h 5 5 = a := fld_eq (by omega)
  have e4 : fld t 11 5 = c := fld_eq (by omega)
  have e5 : fld t 5 6 = bit := fld_eq (by omega)
  have e6 : (t / 16 % 2 == 1) = dbl := bit_eq (by omega)
  simp only [raw28 hM, dec28, e1, e2, e3, e4, e5, e6]
theorem Sys2Proof.Laws.Enc.injectLoc (a : GReg) (c : GReg) (bit : BitVec 6) (dbl : Bool) : Sys2Proof.Laws.Enc.Statement (.injectLoc a c bit dbl) := by
  have := a.isLt
  have := c.isLt
  have := bit.isLt
  have := Bool.toNat_lt dbl
  refine enc_en (M := 40) (A := a.toNat) (B := 0x07) (T := c.toNat * 2048 + bit.toNat * 32 + dbl.toNat * 16 + 1) rfl rfl (by omega) (by omega) fun h t hM hA hB ht => ?_
  have e1 : h % 32 = 7 := by omega
  have e2 : t % 16 = 1 := by omega
  have e3 : fld h 5 5 = a := fld_eq (by omega)
  have e4 : fld t 11 5 = c := fld_eq (by omega)
  have e5 : fld t 5 6 = bit := fld_eq (by omega)
  have e6 : (t / 16 % 2 == 1) = dbl := bit_eq (by omega)
  simp only [raw28 hM, dec28, e1, e2, e3, e4, e5, e6]
theorem Sys2Proof.Laws.Enc.injectSlice (a : GReg) (c : GReg) (bit : BitVec 6) (dbl : Bool) : Sys2Proof.Laws.Enc.Statement (.injectSlice a c bit dbl) := by
  have := a.isLt
  have := c.isLt
  have := bit.isLt
  have := Bool.toNat_lt dbl
  refine enc_en (M := 40) (A := a.toNat) (B := 0x07) (T := c.toNat * 2048 + bit.toNat * 32 + dbl.toNat * 16 + 2) rfl rfl (by omega) (by omega) fun h t hM hA hB ht => ?_
  have e1 : h % 32 = 7 := by omega
  have e2 : t % 16 = 2 := by omega
  have e3 : fld h 5 5 = a := fld_eq (by omega)
  have e4 : fld t 11 5 = c := fld_eq (by omega)
  have e5 : fld t 5 6 = bit := fld_eq (by omega)
  have e6 : (t / 16 % 2 == 1) = dbl := bit_eq (by omega)
  simp only [raw28 hM, dec28, e1, e2, e3, e4, e5, e6]
theorem Sys2Proof.Laws.Enc.injectDec (a : GReg) (bit : BitVec 6) (dbl : Bool) : Sys2Proof.Laws.Enc.Statement (.injectDec a bit dbl) := by
  have := a.isLt
  have := bit.isLt
  have := Bool.toNat_lt dbl
  refine enc_en (M := 40) (A := a.toNat) (B := 0x07) (T := bit.toNat * 32 + dbl.toNat * 16 + 3) rfl rfl (by omega) (by omega) fun h t hM hA hB ht => ?_
  have e1 : h % 32 = 7 := by omega
  have e2 : t % 16 = 3 := by omega
  have e3 : fld h 5 5 = a := fld_eq (by omega)
  have e4 : fld t 5 6 = bit := fld_eq (by omega)
  have e5 : (t / 16 % 2 == 1) = dbl := bit_eq (by omega)
  simp only [raw28 hM, dec28, e1, e2, e3, e4, e5]
theorem Sys2Proof.Laws.Enc.rdid (a : GReg) : Sys2Proof.Laws.Enc.Statement (.rdid a) := by
  have := a.isLt
  refine enc_en (M := 40) (A := a.toNat) (B := 0x08) (T := 0) rfl rfl (by omega) (by omega) fun h t hM hA hB ht => ?_
  have e1 : h % 32 = 8 := by omega
  have e2 : t % 2048 = 0 := by omega
  have e3 : fld h 5 5 = a := fld_eq (by omega)
  simp only [raw28 hM, dec28, e1, e2, e3]
theorem Sys2Proof.Laws.Enc.rdidPod (a : GReg) : Sys2Proof.Laws.Enc.Statement (.rdidPod a) := by
  have := a.isLt
  refine enc_en (M := 40) (A := a.toNat) (B := 0x08) (T := 1) rfl rfl (by omega) (by omega) fun h t hM hA hB ht => ?_
  have e1 : h % 32 = 8 := by omega
  have e2 : t % 2048 = 1 := by omega
  have e3 : fld h 5 5 = a := fld_eq (by omega)
  simp only [raw28 hM, dec28, e1, e2, e3]
theorem Sys2Proof.Laws.Enc.rdidCtx (a : GReg) : Sys2Proof.Laws.Enc.Statement (.rdidCtx a) := by
  have := a.isLt
  refine enc_en (M := 40) (A := a.toNat) (B := 0x08) (T := 2) rfl rfl (by omega) (by omega) fun h t hM hA hB ht => ?_
  have e1 : h % 32 = 8 := by omega
  have e2 : t % 2048 = 2 := by omega
  have e3 : fld h 5 5 = a := fld_eq (by omega)
  simp only [raw28 hM, dec28, e1, e2, e3]
theorem Sys2Proof.Laws.Enc.rdidPos (a : GReg) : Sys2Proof.Laws.Enc.Statement (.rdidPos a) := by
  have := a.isLt
  refine enc_en (M := 40) (A := a.toNat) (B := 0x08) (T := 3) rfl rfl (by omega) (by omega) fun h t hM hA hB ht => ?_
  have e1 : h % 32 = 8 := by omega
  have e2 : t % 2048 = 3 := by omega
  have e3 : fld h 5 5 = a := fld_eq (by omega)
  simp only [raw28 hM, dec28, e1, e2, e3]
theorem Sys2Proof.Laws.Enc.rdstep (a : GReg) : Sys2Proof.Laws.Enc.Statement (.rdstep a) := by
  have := a.isLt
  refine enc_en (M := 40) (A := a.toNat) (B := 0x09) (T := 0) rfl rfl (by omega) (by omega) fun h t hM hA hB ht => ?_
  have e1 : h % 32 = 9 := by omega
  have e2 : fld h 5 5 = a := fld_eq (by omega)
  simp only [raw28 hM, dec28, e1, e2]
theorem Sys2Proof.Laws.Enc.waitSt (a : GReg) (c : GReg) (n : BitVec 11) : Sys2Proof.Laws.Enc.Statement (.waitSt a c n) := by
  have := a.isLt
  have := c.isLt
  have := n.isLt
  refine enc_en (M := 40) (A := a.toNat) (B := 0x0A) (T := c.toNat * 2048 + n.toNat) rfl rfl (by omega) (by omega) fun h t hM hA hB ht => ?_
  have e1 : h % 32 = 10 := by omega
  have e2 : fld h 5 5 = a := fld_eq (by omega)
  have e3 : fld t 11 5 = c := fld_eq (by omega)
  have e4 : fld t 0 11 = n := fld_eq (by omega)
  simp only [raw28 hM, dec28, e1, e2, e3, e4]
theorem Sys2Proof.Laws.Enc.rdcyc (a : GReg) : Sys2Proof.Laws.Enc.Statement (.rdcyc a) := by
  have := a.isLt
  refine enc_en (M := 40) (A := a.toNat) (B := 0x0B) (T := 0) rfl rfl (by omega) (by omega) fun h t hM hA hB ht => ?_
  have e1 : h % 32 = 11 := by omega
  have e2 : fld h 5 5 = a := fld_eq (by omega)
  simp only [raw28 hM, dec28, e1, e2]
theorem Sys2Proof.Laws.Enc.ld (s : Size) (o : Order) (sc : Scope) (a : GReg) (b : GReg) (imm : BitVec 19) : Sys2Proof.Laws.Enc.Statement (.ld s o sc a b imm) := by
  have := Size_lt s
  have := Order_lt o
  have := Scope_lt sc
  have := a.isLt
  have := b.isLt
  have := imm.isLt
  refine enc_en (M := 16) (A := a.toNat) (B := b.toNat) (T := s.code * 33554432 + 0 + o.code * 4194304 + sc.code * 524288 + imm.toNat) rfl rfl (by omega) (by omega) fun h t hM hA hB ht => ?_
  have e1 : t / 2 ^ 24 % 2 = 0 := by omega
  have e2 : t / 2 ^ 25 % 4 = s.code := by omega
  have e3 : t / 2 ^ 22 % 4 = o.code := by omega
  have e4 : t / 2 ^ 19 % 8 = sc.code := by omega
  have e5 : fld h 5 5 = a := fld_eq (by omega)
  have e6 : fld h 0 5 = b := fld_eq (by omega)
  have e7 : fld t 0 19 = imm := fld_eq (by omega)
  simp only [raw10 hM, dec10, e1, e2, Size_of, e3, Order_of, e4, Scope_of, Option.bind_some, e5, e6, e7]
theorem Sys2Proof.Laws.Enc.ldn (s : Size) (o : Order) (sc : Scope) (a : GReg) (b : GReg) (imm : BitVec 19) : Sys2Proof.Laws.Enc.Statement (.ldn s o sc a b imm) := by
  have := Size_lt s
  have := Order_lt o
  have := Scope_lt sc
  have := a.isLt
  have := b.isLt
  have := imm.isLt
  refine enc_en (M := 16) (A := a.toNat) (B := b.toNat) (T := s.code * 33554432 + 16777216 + o.code * 4194304 + sc.code * 524288 + imm.toNat) rfl rfl (by omega) (by omega) fun h t hM hA hB ht => ?_
  have e1 : t / 2 ^ 24 % 2 = 1 := by omega
  have e2 : t / 2 ^ 25 % 4 = s.code := by omega
  have e3 : t / 2 ^ 22 % 4 = o.code := by omega
  have e4 : t / 2 ^ 19 % 8 = sc.code := by omega
  have e5 : fld h 5 5 = a := fld_eq (by omega)
  have e6 : fld h 0 5 = b := fld_eq (by omega)
  have e7 : fld t 0 19 = imm := fld_eq (by omega)
  simp only [raw10 hM, dec10, e1, e2, Size_of, e3, Order_of, e4, Scope_of, Option.bind_some, e5, e6, e7]
theorem Sys2Proof.Laws.Enc.st (s : Size) (o : Order) (sc : Scope) (a : GReg) (b : GReg) (imm : BitVec 19) : Sys2Proof.Laws.Enc.Statement (.st s o sc a b imm) := by
  have := Size_lt s
  have := Order_lt o
  have := Scope_lt sc
  have := a.isLt
  have := b.isLt
  have := imm.isLt
  refine enc_en (M := 17) (A := a.toNat) (B := b.toNat) (T := s.code * 33554432 + 0 + o.code * 4194304 + sc.code * 524288 + imm.toNat) rfl rfl (by omega) (by omega) fun h t hM hA hB ht => ?_
  have e1 : t / 2 ^ 25 % 4 = s.code := by omega
  have e2 : t / 2 ^ 22 % 4 = o.code := by omega
  have e3 : t / 2 ^ 19 % 8 = sc.code := by omega
  have e4 : fld h 5 5 = a := fld_eq (by omega)
  have e5 : fld h 0 5 = b := fld_eq (by omega)
  have e6 : fld t 0 19 = imm := fld_eq (by omega)
  simp only [raw11 hM, dec11, e1, Size_of, e2, Order_of, e3, Scope_of, Option.bind_some, e4, e5, e6]
theorem Sys2Proof.Laws.Enc.ldl (s : Size) (a : GReg) (b : GReg) (imm : BitVec 13) : Sys2Proof.Laws.Enc.Statement (.ldl s a b imm) := by
  have := Size_lt s
  have := a.isLt
  have := b.isLt
  have := imm.isLt
  refine enc_en (M := 18) (A := a.toNat) (B := b.toNat) (T := s.code * 16384 + 0 + imm.toNat) rfl rfl (by omega) (by omega) fun h t hM hA hB ht => ?_
  have e1 : t / 2 ^ 13 % 2 = 0 := by omega
  have e2 : t / 2 ^ 14 % 4 = s.code := by omega
  have e3 : fld h 5 5 = a := fld_eq (by omega)
  have e4 : fld h 0 5 = b := fld_eq (by omega)
  have e5 : fld t 0 13 = imm := fld_eq (by omega)
  simp only [raw12 hM, dec12, e1, e2, Size_of, Option.bind_some, e3, e4, e5]
theorem Sys2Proof.Laws.Enc.ldln (s : Size) (a : GReg) (b : GReg) (imm : BitVec 13) : Sys2Proof.Laws.Enc.Statement (.ldln s a b imm) := by
  have := Size_lt s
  have := a.isLt
  have := b.isLt
  have := imm.isLt
  refine enc_en (M := 18) (A := a.toNat) (B := b.toNat) (T := s.code * 16384 + 8192 + imm.toNat) rfl rfl (by omega) (by omega) fun h t hM hA hB ht => ?_
  have e1 : t / 2 ^ 13 % 2 = 1 := by omega
  have e2 : t / 2 ^ 14 % 4 = s.code := by omega
  have e3 : fld h 5 5 = a := fld_eq (by omega)
  have e4 : fld h 0 5 = b := fld_eq (by omega)
  have e5 : fld t 0 13 = imm := fld_eq (by omega)
  simp only [raw12 hM, dec12, e1, e2, Size_of, Option.bind_some, e3, e4, e5]
theorem Sys2Proof.Laws.Enc.stl (s : Size) (a : GReg) (b : GReg) (imm : BitVec 13) : Sys2Proof.Laws.Enc.Statement (.stl s a b imm) := by
  have := Size_lt s
  have := a.isLt
  have := b.isLt
  have := imm.isLt
  refine enc_en (M := 19) (A := a.toNat) (B := b.toNat) (T := s.code * 16384 + imm.toNat) rfl rfl (by omega) (by omega) fun h t hM hA hB ht => ?_
  have e1 : t / 2 ^ 14 % 4 = s.code := by omega
  have e2 : fld h 5 5 = a := fld_eq (by omega)
  have e3 : fld h 0 5 = b := fld_eq (by omega)
  have e4 : fld t 0 13 = imm := fld_eq (by omega)
  simp only [raw13 hM, dec13, e1, Size_of, Option.bind_some, e2, e3, e4]
theorem Sys2Proof.Laws.Enc.amoadd (dw : Bool) (o : Order) (sc : Scope) (a : GReg) (b : GReg) (c : GReg) (imm : BitVec 17) : Sys2Proof.Laws.Enc.Statement (.amoadd dw o sc a b c imm) := by
  have := Bool.toNat_lt dw
  have := Order_lt o
  have := Scope_lt sc
  have := a.isLt
  have := b.isLt
  have := c.isLt
  have := imm.isLt
  refine enc_en (M := 20) (A := a.toNat) (B := b.toNat) (T := c.toNat * 134217728 + 0 + dw.toNat * 4194304 + o.code * 1048576 + sc.code * 131072 + imm.toNat) rfl rfl (by omega) (by omega) fun h t hM hA hB ht => ?_
  have e1 : t / 2 ^ 23 % 16 = 0 := by omega
  have e2 : t / 2 ^ 20 % 4 = o.code := by omega
  have e3 : t / 2 ^ 17 % 8 = sc.code := by omega
  have e4 : (t / 2 ^ 22 % 2 == 1) = dw := bit_eq (by omega)
  have e5 : fld h 5 5 = a := fld_eq (by omega)
  have e6 : fld h 0 5 = b := fld_eq (by omega)
  have e7 : fld t 27 5 = c := fld_eq (by omega)
  have e8 : fld t 0 17 = imm := fld_eq (by omega)
  simp only [raw14 hM, dec14, e1, e2, Order_of, e3, Scope_of, Option.bind_some, e4, e5, e6, e7, e8]
theorem Sys2Proof.Laws.Enc.amoand (dw : Bool) (o : Order) (sc : Scope) (a : GReg) (b : GReg) (c : GReg) (imm : BitVec 17) : Sys2Proof.Laws.Enc.Statement (.amoand dw o sc a b c imm) := by
  have := Bool.toNat_lt dw
  have := Order_lt o
  have := Scope_lt sc
  have := a.isLt
  have := b.isLt
  have := c.isLt
  have := imm.isLt
  refine enc_en (M := 20) (A := a.toNat) (B := b.toNat) (T := c.toNat * 134217728 + 8388608 + dw.toNat * 4194304 + o.code * 1048576 + sc.code * 131072 + imm.toNat) rfl rfl (by omega) (by omega) fun h t hM hA hB ht => ?_
  have e1 : t / 2 ^ 23 % 16 = 1 := by omega
  have e2 : t / 2 ^ 20 % 4 = o.code := by omega
  have e3 : t / 2 ^ 17 % 8 = sc.code := by omega
  have e4 : (t / 2 ^ 22 % 2 == 1) = dw := bit_eq (by omega)
  have e5 : fld h 5 5 = a := fld_eq (by omega)
  have e6 : fld h 0 5 = b := fld_eq (by omega)
  have e7 : fld t 27 5 = c := fld_eq (by omega)
  have e8 : fld t 0 17 = imm := fld_eq (by omega)
  simp only [raw14 hM, dec14, e1, e2, Order_of, e3, Scope_of, Option.bind_some, e4, e5, e6, e7, e8]
theorem Sys2Proof.Laws.Enc.amoor (dw : Bool) (o : Order) (sc : Scope) (a : GReg) (b : GReg) (c : GReg) (imm : BitVec 17) : Sys2Proof.Laws.Enc.Statement (.amoor dw o sc a b c imm) := by
  have := Bool.toNat_lt dw
  have := Order_lt o
  have := Scope_lt sc
  have := a.isLt
  have := b.isLt
  have := c.isLt
  have := imm.isLt
  refine enc_en (M := 20) (A := a.toNat) (B := b.toNat) (T := c.toNat * 134217728 + 16777216 + dw.toNat * 4194304 + o.code * 1048576 + sc.code * 131072 + imm.toNat) rfl rfl (by omega) (by omega) fun h t hM hA hB ht => ?_
  have e1 : t / 2 ^ 23 % 16 = 2 := by omega
  have e2 : t / 2 ^ 20 % 4 = o.code := by omega
  have e3 : t / 2 ^ 17 % 8 = sc.code := by omega
  have e4 : (t / 2 ^ 22 % 2 == 1) = dw := bit_eq (by omega)
  have e5 : fld h 5 5 = a := fld_eq (by omega)
  have e6 : fld h 0 5 = b := fld_eq (by omega)
  have e7 : fld t 27 5 = c := fld_eq (by omega)
  have e8 : fld t 0 17 = imm := fld_eq (by omega)
  simp only [raw14 hM, dec14, e1, e2, Order_of, e3, Scope_of, Option.bind_some, e4, e5, e6, e7, e8]
theorem Sys2Proof.Laws.Enc.amoxor (dw : Bool) (o : Order) (sc : Scope) (a : GReg) (b : GReg) (c : GReg) (imm : BitVec 17) : Sys2Proof.Laws.Enc.Statement (.amoxor dw o sc a b c imm) := by
  have := Bool.toNat_lt dw
  have := Order_lt o
  have := Scope_lt sc
  have := a.isLt
  have := b.isLt
  have := c.isLt
  have := imm.isLt
  refine enc_en (M := 20) (A := a.toNat) (B := b.toNat) (T := c.toNat * 134217728 + 25165824 + dw.toNat * 4194304 + o.code * 1048576 + sc.code * 131072 + imm.toNat) rfl rfl (by omega) (by omega) fun h t hM hA hB ht => ?_
  have e1 : t / 2 ^ 23 % 16 = 3 := by omega
  have e2 : t / 2 ^ 20 % 4 = o.code := by omega
  have e3 : t / 2 ^ 17 % 8 = sc.code := by omega
  have e4 : (t / 2 ^ 22 % 2 == 1) = dw := bit_eq (by omega)
  have e5 : fld h 5 5 = a := fld_eq (by omega)
  have e6 : fld h 0 5 = b := fld_eq (by omega)
  have e7 : fld t 27 5 = c := fld_eq (by omega)
  have e8 : fld t 0 17 = imm := fld_eq (by omega)
  simp only [raw14 hM, dec14, e1, e2, Order_of, e3, Scope_of, Option.bind_some, e4, e5, e6, e7, e8]
theorem Sys2Proof.Laws.Enc.amomin (dw : Bool) (o : Order) (sc : Scope) (a : GReg) (b : GReg) (c : GReg) (imm : BitVec 17) : Sys2Proof.Laws.Enc.Statement (.amomin dw o sc a b c imm) := by
  have := Bool.toNat_lt dw
  have := Order_lt o
  have := Scope_lt sc
  have := a.isLt
  have := b.isLt
  have := c.isLt
  have := imm.isLt
  refine enc_en (M := 20) (A := a.toNat) (B := b.toNat) (T := c.toNat * 134217728 + 33554432 + dw.toNat * 4194304 + o.code * 1048576 + sc.code * 131072 + imm.toNat) rfl rfl (by omega) (by omega) fun h t hM hA hB ht => ?_
  have e1 : t / 2 ^ 23 % 16 = 4 := by omega
  have e2 : t / 2 ^ 20 % 4 = o.code := by omega
  have e3 : t / 2 ^ 17 % 8 = sc.code := by omega
  have e4 : (t / 2 ^ 22 % 2 == 1) = dw := bit_eq (by omega)
  have e5 : fld h 5 5 = a := fld_eq (by omega)
  have e6 : fld h 0 5 = b := fld_eq (by omega)
  have e7 : fld t 27 5 = c := fld_eq (by omega)
  have e8 : fld t 0 17 = imm := fld_eq (by omega)
  simp only [raw14 hM, dec14, e1, e2, Order_of, e3, Scope_of, Option.bind_some, e4, e5, e6, e7, e8]
theorem Sys2Proof.Laws.Enc.amomax (dw : Bool) (o : Order) (sc : Scope) (a : GReg) (b : GReg) (c : GReg) (imm : BitVec 17) : Sys2Proof.Laws.Enc.Statement (.amomax dw o sc a b c imm) := by
  have := Bool.toNat_lt dw
  have := Order_lt o
  have := Scope_lt sc
  have := a.isLt
  have := b.isLt
  have := c.isLt
  have := imm.isLt
  refine enc_en (M := 20) (A := a.toNat) (B := b.toNat) (T := c.toNat * 134217728 + 41943040 + dw.toNat * 4194304 + o.code * 1048576 + sc.code * 131072 + imm.toNat) rfl rfl (by omega) (by omega) fun h t hM hA hB ht => ?_
  have e1 : t / 2 ^ 23 % 16 = 5 := by omega
  have e2 : t / 2 ^ 20 % 4 = o.code := by omega
  have e3 : t / 2 ^ 17 % 8 = sc.code := by omega
  have e4 : (t / 2 ^ 22 % 2 == 1) = dw := bit_eq (by omega)
  have e5 : fld h 5 5 = a := fld_eq (by omega)
  have e6 : fld h 0 5 = b := fld_eq (by omega)
  have e7 : fld t 27 5 = c := fld_eq (by omega)
  have e8 : fld t 0 17 = imm := fld_eq (by omega)
  simp only [raw14 hM, dec14, e1, e2, Order_of, e3, Scope_of, Option.bind_some, e4, e5, e6, e7, e8]
theorem Sys2Proof.Laws.Enc.amominn (dw : Bool) (o : Order) (sc : Scope) (a : GReg) (b : GReg) (c : GReg) (imm : BitVec 17) : Sys2Proof.Laws.Enc.Statement (.amominn dw o sc a b c imm) := by
  have := Bool.toNat_lt dw
  have := Order_lt o
  have := Scope_lt sc
  have := a.isLt
  have := b.isLt
  have := c.isLt
  have := imm.isLt
  refine enc_en (M := 20) (A := a.toNat) (B := b.toNat) (T := c.toNat * 134217728 + 50331648 + dw.toNat * 4194304 + o.code * 1048576 + sc.code * 131072 + imm.toNat) rfl rfl (by omega) (by omega) fun h t hM hA hB ht => ?_
  have e1 : t / 2 ^ 23 % 16 = 6 := by omega
  have e2 : t / 2 ^ 20 % 4 = o.code := by omega
  have e3 : t / 2 ^ 17 % 8 = sc.code := by omega
  have e4 : (t / 2 ^ 22 % 2 == 1) = dw := bit_eq (by omega)
  have e5 : fld h 5 5 = a := fld_eq (by omega)
  have e6 : fld h 0 5 = b := fld_eq (by omega)
  have e7 : fld t 27 5 = c := fld_eq (by omega)
  have e8 : fld t 0 17 = imm := fld_eq (by omega)
  simp only [raw14 hM, dec14, e1, e2, Order_of, e3, Scope_of, Option.bind_some, e4, e5, e6, e7, e8]
theorem Sys2Proof.Laws.Enc.amomaxn (dw : Bool) (o : Order) (sc : Scope) (a : GReg) (b : GReg) (c : GReg) (imm : BitVec 17) : Sys2Proof.Laws.Enc.Statement (.amomaxn dw o sc a b c imm) := by
  have := Bool.toNat_lt dw
  have := Order_lt o
  have := Scope_lt sc
  have := a.isLt
  have := b.isLt
  have := c.isLt
  have := imm.isLt
  refine enc_en (M := 20) (A := a.toNat) (B := b.toNat) (T := c.toNat * 134217728 + 58720256 + dw.toNat * 4194304 + o.code * 1048576 + sc.code * 131072 + imm.toNat) rfl rfl (by omega) (by omega) fun h t hM hA hB ht => ?_
  have e1 : t / 2 ^ 23 % 16 = 7 := by omega
  have e2 : t / 2 ^ 20 % 4 = o.code := by omega
  have e3 : t / 2 ^ 17 % 8 = sc.code := by omega
  have e4 : (t / 2 ^ 22 % 2 == 1) = dw := bit_eq (by omega)
  have e5 : fld h 5 5 = a := fld_eq (by omega)
  have e6 : fld h 0 5 = b := fld_eq (by omega)
  have e7 : fld t 27 5 = c := fld_eq (by omega)
  have e8 : fld t 0 17 = imm := fld_eq (by omega)
  simp only [raw14 hM, dec14, e1, e2, Order_of, e3, Scope_of, Option.bind_some, e4, e5, e6, e7, e8]
theorem Sys2Proof.Laws.Enc.amoswap (dw : Bool) (o : Order) (sc : Scope) (a : GReg) (b : GReg) (c : GReg) (imm : BitVec 17) : Sys2Proof.Laws.Enc.Statement (.amoswap dw o sc a b c imm) := by
  have := Bool.toNat_lt dw
  have := Order_lt o
  have := Scope_lt sc
  have := a.isLt
  have := b.isLt
  have := c.isLt
  have := imm.isLt
  refine enc_en (M := 20) (A := a.toNat) (B := b.toNat) (T := c.toNat * 134217728 + 67108864 + dw.toNat * 4194304 + o.code * 1048576 + sc.code * 131072 + imm.toNat) rfl rfl (by omega) (by omega) fun h t hM hA hB ht => ?_
  have e1 : t / 2 ^ 23 % 16 = 8 := by omega
  have e2 : t / 2 ^ 20 % 4 = o.code := by omega
  have e3 : t / 2 ^ 17 % 8 = sc.code := by omega
  have e4 : (t / 2 ^ 22 % 2 == 1) = dw := bit_eq (by omega)
  have e5 : fld h 5 5 = a := fld_eq (by omega)
  have e6 : fld h 0 5 = b := fld_eq (by omega)
  have e7 : fld t 27 5 = c := fld_eq (by omega)
  have e8 : fld t 0 17 = imm := fld_eq (by omega)
  simp only [raw14 hM, dec14, e1, e2, Order_of, e3, Scope_of, Option.bind_some, e4, e5, e6, e7, e8]
theorem Sys2Proof.Laws.Enc.amocas (dw : Bool) (o : Order) (sc : Scope) (a : GReg) (b : GReg) (c : GReg) (imm : BitVec 17) : Sys2Proof.Laws.Enc.Statement (.amocas dw o sc a b c imm) := by
  have := Bool.toNat_lt dw
  have := Order_lt o
  have := Scope_lt sc
  have := a.isLt
  have := b.isLt
  have := c.isLt
  have := imm.isLt
  refine enc_en (M := 20) (A := a.toNat) (B := b.toNat) (T := c.toNat * 134217728 + 75497472 + dw.toNat * 4194304 + o.code * 1048576 + sc.code * 131072 + imm.toNat) rfl rfl (by omega) (by omega) fun h t hM hA hB ht => ?_
  have e1 : t / 2 ^ 23 % 16 = 9 := by omega
  have e2 : t / 2 ^ 20 % 4 = o.code := by omega
  have e3 : t / 2 ^ 17 % 8 = sc.code := by omega
  have e4 : (t / 2 ^ 22 % 2 == 1) = dw := bit_eq (by omega)
  have e5 : fld h 5 5 = a := fld_eq (by omega)
  have e6 : fld h 0 5 = b := fld_eq (by omega)
  have e7 : fld t 27 5 = c := fld_eq (by omega)
  have e8 : fld t 0 17 = imm := fld_eq (by omega)
  simp only [raw14 hM, dec14, e1, e2, Order_of, e3, Scope_of, Option.bind_some, e4, e5, e6, e7, e8]
theorem Sys2Proof.Laws.Enc.famoadd (o : Order) (sc : Scope) (a : GReg) (b : GReg) (c : GReg) (imm : BitVec 17) : Sys2Proof.Laws.Enc.Statement (.famoadd o sc a b c imm) := by
  have := Order_lt o
  have := Scope_lt sc
  have := a.isLt
  have := b.isLt
  have := c.isLt
  have := imm.isLt
  refine enc_en (M := 20) (A := a.toNat) (B := b.toNat) (T := c.toNat * 134217728 + 83886080 + o.code * 1048576 + sc.code * 131072 + imm.toNat) rfl rfl (by omega) (by omega) fun h t hM hA hB ht => ?_
  have e1 : t / 2 ^ 23 % 16 = 10 := by omega
  have e2 : t / 2 ^ 20 % 4 = o.code := by omega
  have e3 : t / 2 ^ 17 % 8 = sc.code := by omega
  have e4 : fld h 5 5 = a := fld_eq (by omega)
  have e5 : fld h 0 5 = b := fld_eq (by omega)
  have e6 : fld t 27 5 = c := fld_eq (by omega)
  have e7 : fld t 0 17 = imm := fld_eq (by omega)
  simp only [raw14 hM, dec14, e1, e2, Order_of, e3, Scope_of, Option.bind_some, e4, e5, e6, e7]
theorem Sys2Proof.Laws.Enc.fence (sc : Scope) : Sys2Proof.Laws.Enc.Statement (.fence sc) := by
  have := Scope_lt sc
  refine enc_en (M := 21) (A := 0) (B := 0) (T := 0 + sc.code * 4) rfl rfl (by omega) (by omega) fun h t hM hA hB ht => ?_
  have e1 : t / 128 % 16 = 0 := by omega
  have e2 : t / 32 % 4 = 0 := by omega
  have e3 : t / 4 % 8 = sc.code := by omega
  simp only [raw15 hM, dec15, e1, e2, e3, Scope_of, Option.bind_some]
theorem Sys2Proof.Laws.Enc.fenceAcq (sc : Scope) : Sys2Proof.Laws.Enc.Statement (.fenceAcq sc) := by
  have := Scope_lt sc
  refine enc_en (M := 21) (A := 0) (B := 0) (T := 32 + sc.code * 4) rfl rfl (by omega) (by omega) fun h t hM hA hB ht => ?_
  have e1 : t / 128 % 16 = 0 := by omega
  have e2 : t / 32 % 4 = 1 := by omega
  have e3 : t / 4 % 8 = sc.code := by omega
  simp only [raw15 hM, dec15, e1, e2, e3, Scope_of, Option.bind_some]
theorem Sys2Proof.Laws.Enc.fenceRel (sc : Scope) : Sys2Proof.Laws.Enc.Statement (.fenceRel sc) := by
  have := Scope_lt sc
  refine enc_en (M := 21) (A := 0) (B := 0) (T := 64 + sc.code * 4) rfl rfl (by omega) (by omega) fun h t hM hA hB ht => ?_
  have e1 : t / 128 % 16 = 0 := by omega
  have e2 : t / 32 % 4 = 2 := by omega
  have e3 : t / 4 % 8 = sc.code := by omega
  simp only [raw15 hM, dec15, e1, e2, e3, Scope_of, Option.bind_some]
theorem Sys2Proof.Laws.Enc.lbfence : Sys2Proof.Laws.Enc.Statement (.lbfence) := by
  refine enc_en (M := 21) (A := 0) (B := 0) (T := 128) rfl rfl (by omega) (by omega) fun h t hM hA hB ht => ?_
  have e1 : t / 128 % 16 = 1 := by omega
  simp only [raw15 hM, dec15, e1]
theorem Sys2Proof.Laws.Enc.pref (lvl : PrefLevel) (b : GReg) : Sys2Proof.Laws.Enc.Statement (.pref lvl b) := by
  have := PrefLevel_lt lvl
  have := b.isLt
  refine enc_en (M := 21) (A := 0) (B := b.toNat) (T := 256 + lvl.code * 32) rfl rfl (by omega) (by omega) fun h t hM hA hB ht => ?_
  have e1 : t / 128 % 16 = 2 := by omega
  have e2 : t / 32 % 4 = lvl.code := by omega
  have e3 : fld h 0 5 = b := fld_eq (by omega)
  simp only [raw15 hM, dec15, e1, e2, PrefLevel_of, Option.bind_some, e3]
theorem Sys2Proof.Laws.Enc.cwb (b : GReg) : Sys2Proof.Laws.Enc.Statement (.cwb b) := by
  have := b.isLt
  refine enc_en (M := 21) (A := 0) (B := b.toNat) (T := 384) rfl rfl (by omega) (by omega) fun h t hM hA hB ht => ?_
  have e1 : t / 128 % 16 = 3 := by omega
  have e2 : fld h 0 5 = b := fld_eq (by omega)
  simp only [raw15 hM, dec15, e1, e2]
theorem Sys2Proof.Laws.Enc.cinv (b : GReg) : Sys2Proof.Laws.Enc.Statement (.cinv b) := by
  have := b.isLt
  refine enc_en (M := 21) (A := 0) (B := b.toNat) (T := 512) rfl rfl (by omega) (by omega) fun h t hM hA hB ht => ?_
  have e1 : t / 128 % 16 = 4 := by omega
  have e2 : fld h 0 5 = b := fld_eq (by omega)
  simp only [raw15 hM, dec15, e1, e2]
theorem Sys2Proof.Laws.Enc.cwbinv (b : GReg) : Sys2Proof.Laws.Enc.Statement (.cwbinv b) := by
  have := b.isLt
  refine enc_en (M := 21) (A := 0) (B := b.toNat) (T := 640) rfl rfl (by omega) (by omega) fun h t hM hA hB ht => ?_
  have e1 : t / 128 % 16 = 5 := by omega
  have e2 : fld h 0 5 = b := fld_eq (by omega)
  simp only [raw15 hM, dec15, e1, e2]
theorem Sys2Proof.Laws.Enc.pinl (a : GReg) (b : GReg) : Sys2Proof.Laws.Enc.Statement (.pinl a b) := by
  have := a.isLt
  have := b.isLt
  refine enc_en (M := 21) (A := a.toNat) (B := b.toNat) (T := 768) rfl rfl (by omega) (by omega) fun h t hM hA hB ht => ?_
  have e1 : t / 128 % 16 = 6 := by omega
  have e2 : fld h 5 5 = a := fld_eq (by omega)
  have e3 : fld h 0 5 = b := fld_eq (by omega)
  simp only [raw15 hM, dec15, e1, e2, e3]
theorem Sys2Proof.Laws.Enc.unpinl (b : GReg) : Sys2Proof.Laws.Enc.Statement (.unpinl b) := by
  have := b.isLt
  refine enc_en (M := 21) (A := 0) (B := b.toNat) (T := 896) rfl rfl (by omega) (by omega) fun h t hM hA hB ht => ?_
  have e1 : t / 128 % 16 = 7 := by omega
  have e2 : fld h 0 5 = b := fld_eq (by omega)
  simp only [raw15 hM, dec15, e1, e2]
theorem Sys2Proof.Laws.Enc.give (s : BitVec 3) (b : GReg) (tv : BitVec 3) : Sys2Proof.Laws.Enc.Statement (.give s b tv) := by
  have := s.isLt
  have := b.isLt
  have := tv.isLt
  refine enc_en (M := 22) (A := 0) (B := b.toNat) (T := 0 + s.toNat * 16 + tv.toNat * 2) rfl rfl (by omega) (by omega) fun h t hM hA hB ht => ?_
  have e1 : t / 128 % 16 = 0 := by omega
  have e2 : fld t 4 3 = s := fld_eq (by omega)
  have e3 : fld h 0 5 = b := fld_eq (by omega)
  have e4 : fld t 1 3 = tv := fld_eq (by omega)
  simp only [raw16 hM, dec16, e1, e2, e3, e4]
theorem Sys2Proof.Laws.Enc.wstat (a : GReg) (s : BitVec 3) : Sys2Proof.Laws.Enc.Statement (.wstat a s) := by
  have := a.isLt
  have := s.isLt
  refine enc_en (M := 22) (A := a.toNat) (B := 0) (T := 128 + s.toNat * 16) rfl rfl (by omega) (by omega) fun h t hM hA hB ht => ?_
  have e1 : t / 128 % 16 = 1 := by omega
  have e2 : fld h 5 5 = a := fld_eq (by omega)
  have e3 : fld t 4 3 = s := fld_eq (by omega)
  simp only [raw16 hM, dec16, e1, e2, e3]
theorem Sys2Proof.Laws.Enc.wwait (s : BitVec 3) : Sys2Proof.Laws.Enc.Statement (.wwait s) := by
  have := s.isLt
  refine enc_en (M := 22) (A := 0) (B := 0) (T := 256 + s.toNat * 16) rfl rfl (by omega) (by omega) fun h t hM hA hB ht => ?_
  have e1 : t / 128 % 16 = 2 := by omega
  have e2 : fld t 4 3 = s := fld_eq (by omega)
  simp only [raw16 hM, dec16, e1, e2]
theorem Sys2Proof.Laws.Enc.wmap (a : GReg) (s : BitVec 3) (b : GReg) : Sys2Proof.Laws.Enc.Statement (.wmap a s b) := by
  have := a.isLt
  have := s.isLt
  have := b.isLt
  refine enc_en (M := 22) (A := a.toNat) (B := b.toNat) (T := 384 + s.toNat * 16) rfl rfl (by omega) (by omega) fun h t hM hA hB ht => ?_
  have e1 : t / 128 % 16 = 3 := by omega
  have e2 : fld h 5 5 = a := fld_eq (by omega)
  have e3 : fld t 4 3 = s := fld_eq (by omega)
  have e4 : fld h 0 5 = b := fld_eq (by omega)
  simp only [raw16 hM, dec16, e1, e2, e3, e4]
theorem Sys2Proof.Laws.Enc.wunmap (a : GReg) (s : BitVec 3) : Sys2Proof.Laws.Enc.Statement (.wunmap a s) := by
  have := a.isLt
  have := s.isLt
  refine enc_en (M := 22) (A := a.toNat) (B := 0) (T := 512 + s.toNat * 16) rfl rfl (by omega) (by omega) fun h t hM hA hB ht => ?_
  have e1 : t / 128 % 16 = 4 := by omega
  have e2 : fld h 5 5 = a := fld_eq (by omega)
  have e3 : fld t 4 3 = s := fld_eq (by omega)
  simp only [raw16 hM, dec16, e1, e2, e3]
theorem Sys2Proof.Laws.Enc.expect (s : BitVec 3) (b : GReg) : Sys2Proof.Laws.Enc.Statement (.expect s b) := by
  have := s.isLt
  have := b.isLt
  refine enc_en (M := 22) (A := 0) (B := b.toNat) (T := 640 + s.toNat * 16) rfl rfl (by omega) (by omega) fun h t hM hA hB ht => ?_
  have e1 : t / 128 % 16 = 5 := by omega
  have e2 : fld t 4 3 = s := fld_eq (by omega)
  have e3 : fld h 0 5 = b := fld_eq (by omega)
  simp only [raw16 hM, dec16, e1, e2, e3]
theorem Sys2Proof.Laws.Enc.tagrd (a : GReg) (s : BitVec 3) (b : GReg) : Sys2Proof.Laws.Enc.Statement (.tagrd a s b) := by
  have := a.isLt
  have := s.isLt
  have := b.isLt
  refine enc_en (M := 22) (A := a.toNat) (B := b.toNat) (T := 768 + s.toNat * 16) rfl rfl (by omega) (by omega) fun h t hM hA hB ht => ?_
  have e1 : t / 128 % 16 = 6 := by omega
  have e2 : fld h 5 5 = a := fld_eq (by omega)
  have e3 : fld t 4 3 = s := fld_eq (by omega)
  have e4 : fld h 0 5 = b := fld_eq (by omega)
  simp only [raw16 hM, dec16, e1, e2, e3, e4]
theorem Sys2Proof.Laws.Enc.xbar (sc : Scope) (a : GReg) : Sys2Proof.Laws.Enc.Statement (.xbar sc a) := by
  have := Scope_lt sc
  have := a.isLt
  refine enc_en (M := 23) (A := a.toNat) (B := 0) (T := 0 + sc.code * 2097152) rfl rfl (by omega) (by omega) fun h t hM hA hB ht => ?_
  have e1 : t / 2 ^ 24 % 8 = 0 := by omega
  have e2 : t / 2 ^ 21 % 8 = sc.code := by omega
  have e3 : fld h 5 5 = a := fld_eq (by omega)
  simp only [raw17 hM, dec17, e1, e2, Scope_of, Option.bind_some, e3]
theorem Sys2Proof.Laws.Enc.xsend (n : BitVec 14) (b : GReg) (c : GReg) : Sys2Proof.Laws.Enc.Statement (.xsend n b c) := by
  have := n.isLt
  have := b.isLt
  have := c.isLt
  refine enc_en (M := 23) (A := 0) (B := b.toNat) (T := c.toNat * 134217728 + 16777216 + n.toNat) rfl rfl (by omega) (by omega) fun h t hM hA hB ht => ?_
  have e1 : t / 2 ^ 24 % 8 = 1 := by omega
  have e2 : fld t 0 14 = n := fld_eq (by omega)
  have e3 : fld h 0 5 = b := fld_eq (by omega)
  have e4 : fld t 27 5 = c := fld_eq (by omega)
  simp only [raw17 hM, dec17, e1, e2, e3, e4]
theorem Sys2Proof.Laws.Enc.xsendr (op : RedOp) (ty : RedType) (n : BitVec 14) (c : GReg) : Sys2Proof.Laws.Enc.Statement (.xsendr op ty n c) := by
  have := RedOp_lt op
  have := RedType_lt ty
  have := n.isLt
  have := c.isLt
  refine enc_en (M := 23) (A := 0) (B := 0) (T := c.toNat * 134217728 + 33554432 + op.code * 524288 + ty.code * 131072 + n.toNat) rfl rfl (by omega) (by omega) fun h t hM hA hB ht => ?_
  have e1 : t / 2 ^ 24 % 8 = 2 := by omega
  have e2 : t / 2 ^ 19 % 4 = op.code := by omega
  have e3 : t / 2 ^ 17 % 4 = ty.code := by omega
  have e4 : fld t 0 14 = n := fld_eq (by omega)
  have e5 : fld t 27 5 = c := fld_eq (by omega)
  simp only [raw17 hM, dec17, e1, e2, RedOp_of, e3, RedType_of, Option.bind_some, e4, e5]
theorem Sys2Proof.Laws.Enc.xrecv (n : BitVec 14) (b : GReg) : Sys2Proof.Laws.Enc.Statement (.xrecv n b) := by
  have := n.isLt
  have := b.isLt
  refine enc_en (M := 23) (A := 0) (B := b.toNat) (T := 50331648 + n.toNat) rfl rfl (by omega) (by omega) fun h t hM hA hB ht => ?_
  have e1 : t / 2 ^ 24 % 8 = 3 := by omega
  have e2 : fld t 0 14 = n := fld_eq (by omega)
  have e3 : fld h 0 5 = b := fld_eq (by omega)
  simp only [raw17 hM, dec17, e1, e2, e3]
theorem Sys2Proof.Laws.Enc.xend (sc : Scope) (a : GReg) : Sys2Proof.Laws.Enc.Statement (.xend sc a) := by
  have := Scope_lt sc
  have := a.isLt
  refine enc_en (M := 23) (A := a.toNat) (B := 0) (T := 67108864 + sc.code * 2097152) rfl rfl (by omega) (by omega) fun h t hM hA hB ht => ?_
  have e1 : t / 2 ^ 24 % 8 = 4 := by omega
  have e2 : t / 2 ^ 21 % 8 = sc.code := by omega
  have e3 : fld h 5 5 = a := fld_eq (by omega)
  simp only [raw17 hM, dec17, e1, e2, Scope_of, Option.bind_some, e3]
theorem Sys2Proof.Laws.Enc.qsend (sc : Scope) (len1 : BitVec 5) (a : GReg) (b : GReg) (c : GReg) : Sys2Proof.Laws.Enc.Statement (.qsend sc len1 a b c) := by
  have := Scope_lt sc
  have := len1.isLt
  have := a.isLt
  have := b.isLt
  have := c.isLt
  refine enc_en (M := 24) (A := a.toNat) (B := b.toNat) (T := c.toNat * 134217728 + 0 + sc.code * 4194304 + len1.toNat * 65536) rfl rfl (by omega) (by omega) fun h t hM hA hB ht => ?_
  have e1 : t / 2 ^ 25 % 4 = 0 := by omega
  have e2 : t / 2 ^ 22 % 8 = sc.code := by omega
  have e3 : fld t 16 5 = len1 := fld_eq (by omega)
  have e4 : fld h 5 5 = a := fld_eq (by omega)
  have e5 : fld h 0 5 = b := fld_eq (by omega)
  have e6 : fld t 27 5 = c := fld_eq (by omega)
  simp only [raw18 hM, dec18, e1, e2, Scope_of, Option.bind_some, e3, e4, e5, e6]
theorem Sys2Proof.Laws.Enc.qrecv (a : GReg) (c : GReg) : Sys2Proof.Laws.Enc.Statement (.qrecv a c) := by
  have := a.isLt
  have := c.isLt
  refine enc_en (M := 24) (A := a.toNat) (B := 0) (T := c.toNat * 134217728 + 33554432) rfl rfl (by omega) (by omega) fun h t hM hA hB ht => ?_
  have e1 : t / 2 ^ 25 % 4 = 1 := by omega
  have e2 : fld h 5 5 = a := fld_eq (by omega)
  have e3 : fld t 27 5 = c := fld_eq (by omega)
  simp only [raw18 hM, dec18, e1, e2, e3]
theorem Sys2Proof.Laws.Enc.qpoll (a : GReg) : Sys2Proof.Laws.Enc.Statement (.qpoll a) := by
  have := a.isLt
  refine enc_en (M := 24) (A := a.toNat) (B := 0) (T := 67108864) rfl rfl (by omega) (by omega) fun h t hM hA hB ht => ?_
  have e1 : t / 2 ^ 25 % 4 = 2 := by omega
  have e2 : fld h 5 5 = a := fld_eq (by omega)
  simp only [raw18 hM, dec18, e1, e2]
theorem Sys2Proof.Laws.Enc.bar (sc : Scope) (a : GReg) (u : BitVec 5) : Sys2Proof.Laws.Enc.Statement (.bar sc a u) := by
  have := Scope_lt sc
  have := a.isLt
  have := u.isLt
  refine enc_en (M := 37) (A := a.toNat) (B := 0) (T := 0 + sc.code * 32 + u.toNat) rfl rfl (by omega) (by omega) fun h t hM hA hB ht => ?_
  have e1 : t / 256 % 8 = 0 := by omega
  have e2 : t / 32 % 8 = sc.code := by omega
  have e3 : fld h 5 5 = a := fld_eq (by omega)
  have e4 : fld t 0 5 = u := fld_eq (by omega)
  simp only [raw25 hM, dec25, e1, e2, Scope_of, Option.bind_some, e3, e4]
theorem Sys2Proof.Laws.Enc.bara (sc : Scope) (a : GReg) (u : BitVec 5) : Sys2Proof.Laws.Enc.Statement (.bara sc a u) := by
  have := Scope_lt sc
  have := a.isLt
  have := u.isLt
  refine enc_en (M := 37) (A := a.toNat) (B := 0) (T := 256 + sc.code * 32 + u.toNat) rfl rfl (by omega) (by omega) fun h t hM hA hB ht => ?_
  have e1 : t / 256 % 8 = 1 := by omega
  have e2 : t / 32 % 8 = sc.code := by omega
  have e3 : fld h 5 5 = a := fld_eq (by omega)
  have e4 : fld t 0 5 = u := fld_eq (by omega)
  simp only [raw25 hM, dec25, e1, e2, Scope_of, Option.bind_some, e3, e4]
theorem Sys2Proof.Laws.Enc.barw (sc : Scope) (a : GReg) (u : BitVec 5) : Sys2Proof.Laws.Enc.Statement (.barw sc a u) := by
  have := Scope_lt sc
  have := a.isLt
  have := u.isLt
  refine enc_en (M := 37) (A := a.toNat) (B := 0) (T := 512 + sc.code * 32 + u.toNat) rfl rfl (by omega) (by omega) fun h t hM hA hB ht => ?_
  have e1 : t / 256 % 8 = 2 := by omega
  have e2 : t / 32 % 8 = sc.code := by omega
  have e3 : fld h 5 5 = a := fld_eq (by omega)
  have e4 : fld t 0 5 = u := fld_eq (by omega)
  simp only [raw25 hM, dec25, e1, e2, Scope_of, Option.bind_some, e3, e4]
theorem Sys2Proof.Laws.Enc.tokw (sc : Scope) (a : GReg) (k : BitVec 5) : Sys2Proof.Laws.Enc.Statement (.tokw sc a k) := by
  have := Scope_lt sc
  have := a.isLt
  have := k.isLt
  refine enc_en (M := 37) (A := a.toNat) (B := 0) (T := 768 + sc.code * 32 + k.toNat) rfl rfl (by omega) (by omega) fun h t hM hA hB ht => ?_
  have e1 : t / 256 % 8 = 3 := by omega
  have e2 : t / 32 % 8 = sc.code := by omega
  have e3 : fld h 5 5 = a := fld_eq (by omega)
  have e4 : fld t 0 5 = k := fld_eq (by omega)
  simp only [raw25 hM, dec25, e1, e2, Scope_of, Option.bind_some, e3, e4]
theorem Sys2Proof.Laws.Enc.tokp (sc : Scope) (a : GReg) (k : BitVec 5) : Sys2Proof.Laws.Enc.Statement (.tokp sc a k) := by
  have := Scope_lt sc
  have := a.isLt
  have := k.isLt
  refine enc_en (M := 37) (A := a.toNat) (B := 0) (T := 1024 + sc.code * 32 + k.toNat) rfl rfl (by omega) (by omega) fun h t hM hA hB ht => ?_
  have e1 : t / 256 % 8 = 4 := by omega
  have e2 : t / 32 % 8 = sc.code := by omega
  have e3 : fld h 5 5 = a := fld_eq (by omega)
  have e4 : fld t 0 5 = k := fld_eq (by omega)
  simp only [raw25 hM, dec25, e1, e2, Scope_of, Option.bind_some, e3, e4]
theorem Sys2Proof.Laws.Enc.wit (sc : Scope) (a : GReg) : Sys2Proof.Laws.Enc.Statement (.wit sc a) := by
  have := Scope_lt sc
  have := a.isLt
  refine enc_en (M := 37) (A := a.toNat) (B := 0) (T := 1280 + sc.code * 32) rfl rfl (by omega) (by omega) fun h t hM hA hB ht => ?_
  have e1 : t / 256 % 8 = 5 := by omega
  have e2 : t / 16 % 2 = 0 := by omega
  have e3 : t / 32 % 8 = sc.code := by omega
  have e4 : fld h 5 5 = a := fld_eq (by omega)
  simp only [raw25 hM, dec25, e1, e2, e3, Scope_of, Option.bind_some, e4]
theorem Sys2Proof.Laws.Enc.witTok (sc : Scope) (a : GReg) (k : BitVec 4) : Sys2Proof.Laws.Enc.Statement (.witTok sc a k) := by
  have := Scope_lt sc
  have := a.isLt
  have := k.isLt
  refine enc_en (M := 37) (A := a.toNat) (B := 0) (T := 1280 + sc.code * 32 + 16 + k.toNat) rfl rfl (by omega) (by omega) fun h t hM hA hB ht => ?_
  have e1 : t / 256 % 8 = 5 := by omega
  have e2 : t / 16 % 2 = 1 := by omega
  have e3 : t / 32 % 8 = sc.code := by omega
  have e4 : fld h 5 5 = a := fld_eq (by omega)
  have e5 : fld t 0 4 = k := fld_eq (by omega)
  simp only [raw25 hM, dec25, e1, e2, e3, Scope_of, Option.bind_some, e4, e5]
theorem Sys2Proof.Laws.Enc.dstat (sc : Scope) (a : GReg) (sel : BitVec 5) : Sys2Proof.Laws.Enc.Statement (.dstat sc a sel) := by
  have := Scope_lt sc
  have := a.isLt
  have := sel.isLt
  refine enc_en (M := 37) (A := a.toNat) (B := 0) (T := 1536 + sc.code * 32 + sel.toNat) rfl rfl (by omega) (by omega) fun h t hM hA hB ht => ?_
  have e1 : t / 256 % 8 = 6 := by omega
  have e2 : t / 32 % 8 = sc.code := by omega
  have e3 : fld h 5 5 = a := fld_eq (by omega)
  have e4 : fld t 0 5 = sel := fld_eq (by omega)
  simp only [raw25 hM, dec25, e1, e2, Scope_of, Option.bind_some, e3, e4]
theorem Sys2Proof.Laws.Enc.bil (n : Nullify) (sc : Scope) (tok : Option (BitVec 4)) (a : GReg) (disp : BitVec 19) : Sys2Proof.Laws.Enc.Statement (.bil n sc tok a disp) := by
  cases tok with
  | none =>
    have := Nullify_lt n
    have := Scope_lt sc
    have := a.isLt
    have := disp.isLt
    refine enc_en (M := 38) (A := a.toNat) (B := n.code) (T := sc.code * 16777216 + (0) + disp.toNat) rfl rfl (by omega) (by omega) fun h t hM hA hB ht => ?_
    have e1 : h % 4 = n.code := by omega
    have e2 : t / 2 ^ 24 % 8 = sc.code := by omega
    have e3 : ¬ (t / 2 ^ 23 % 2 = 1) := by omega
    have e4 : fld h 5 5 = a := fld_eq (by omega)
    have e5 : fld t 0 19 = disp := fld_eq (by omega)
    simp only [raw26 hM, dec26, e1, Nullify_of, e2, Scope_of, Option.bind_some, if_neg e3, e4, e5]
  | some tok =>
    have := Nullify_lt n
    have := Scope_lt sc
    have := a.isLt
    have := disp.isLt
    have := tok.isLt
    refine enc_en (M := 38) (A := a.toNat) (B := n.code) (T := sc.code * 16777216 + (8388608 + tok.toNat * 524288) + disp.toNat) rfl rfl (by omega) (by omega) fun h t hM hA hB ht => ?_
    have e1 : h % 4 = n.code := by omega
    have e2 : t / 2 ^ 24 % 8 = sc.code := by omega
    have e3 : t / 2 ^ 23 % 2 = 1 := by omega
    have e4 : fld t 19 4 = tok := fld_eq (by omega)
    have e5 : fld h 5 5 = a := fld_eq (by omega)
    have e6 : fld t 0 19 = disp := fld_eq (by omega)
    simp only [raw26 hM, dec26, e1, Nullify_of, e2, Scope_of, Option.bind_some, if_pos e3, e4, e5, e6]
theorem Sys2Proof.Laws.Enc.cpy (atn : Option (BitVec 16)) (a : GReg) (b : GReg) (c : GReg) : Sys2Proof.Laws.Enc.Statement (.cpy atn a b c) := by
  cases atn with
  | none =>
    have := a.isLt
    have := b.isLt
    have := c.isLt
    refine enc_en (M := 25) (A := a.toNat) (B := b.toNat) (T := c.toNat * 8796093022208 + 0 + (0)) rfl rfl (by omega) (by omega) fun h t hM hA hB ht => ?_
    have e1 : t / 2 ^ 40 % 8 = 0 := by omega
    have e2 : ¬ (t / 2 ^ 39 % 2 = 1) := by omega
    have e3 : fld h 5 5 = a := fld_eq (by omega)
    have e4 : fld h 0 5 = b := fld_eq (by omega)
    have e5 : fld t 43 5 = c := fld_eq (by omega)
    simp only [raw19 hM, dec19, e1, if_neg e2, e3, e4, e5]
  | some atn =>
    have := a.isLt
    have := b.isLt
    have := c.isLt
    have := atn.isLt
    refine enc_en (M := 25) (A := a.toNat) (B := b.toNat) (T := c.toNat * 8796093022208 + 0 + (549755813888 + atn.toNat * 65536)) rfl rfl (by omega) (by omega) fun h t hM hA hB ht => ?_
    have e1 : t / 2 ^ 40 % 8 = 0 := by omega
    have e2 : t / 2 ^ 39 % 2 = 1 := by omega
    have e3 : fld t 16 16 = atn := fld_eq (by omega)
    have e4 : fld h 5 5 = a := fld_eq (by omega)
    have e5 : fld h 0 5 = b := fld_eq (by omega)
    have e6 : fld t 43 5 = c := fld_eq (by omega)
    simp only [raw19 hM, dec19, e1, if_pos e2, e3, e4, e5, e6]
theorem Sys2Proof.Laws.Enc.cpyw (a : GReg) : Sys2Proof.Laws.Enc.Statement (.cpyw a) := by
  have := a.isLt
  refine enc_en (M := 25) (A := a.toNat) (B := 0) (T := 1099511627776) rfl rfl (by omega) (by omega) fun h t hM hA hB ht => ?_
  have e1 : t / 2 ^ 40 % 8 = 1 := by omega
  have e2 : fld h 5 5 = a := fld_eq (by omega)
  simp only [raw19 hM, dec19, e1, e2]
theorem Sys2Proof.Laws.Enc.coll (op : RedOp) (ty : RedType) (sc : Scope) (atn : Option (BitVec 16)) (a : GReg) (b : GReg) (c : GReg) : Sys2Proof.Laws.Enc.Statement (.coll op ty sc atn a b c) := by
  cases atn with
  | none =>
    have := RedOp_lt op
    have := RedType_lt ty
    have := Scope_lt sc
    have := a.isLt
    have := b.isLt
    have := c.isLt
    refine enc_en (M := 25) (A := a.toNat) (B := b.toNat) (T := c.toNat * 8796093022208 + 2199023255552 + (0) + sc.code * 68719476736 + op.code * 17179869184 + ty.code * 4294967296) rfl rfl (by omega) (by omega) fun h t hM hA hB ht => ?_
    have e1 : t / 2 ^ 40 % 8 = 2 := by omega
    have e2 : t / 2 ^ 34 % 4 = op.code := by omega
    have e3 : t / 2 ^ 32 % 4 = ty.code := by omega
    have e4 : t / 2 ^ 36 % 8 = sc.code := by omega
    have e5 : ¬ (t / 2 ^ 39 % 2 = 1) := by omega
    have e6 : fld h 5 5 = a := fld_eq (by omega)
    have e7 : fld h 0 5 = b := fld_eq (by omega)
    have e8 : fld t 43 5 = c := fld_eq (by omega)
    simp only [raw19 hM, dec19, e1, e2, RedOp_of, e3, RedType_of, e4, Scope_of, Option.bind_some, if_neg e5, e6, e7, e8]
  | some atn =>
    have := RedOp_lt op
    have := RedType_lt ty
    have := Scope_lt sc
    have := a.isLt
    have := b.isLt
    have := c.isLt
    have := atn.isLt
    refine enc_en (M := 25) (A := a.toNat) (B := b.toNat) (T := c.toNat * 8796093022208 + 2199023255552 + (549755813888 + atn.toNat * 65536) + sc.code * 68719476736 + op.code * 17179869184 + ty.code * 4294967296) rfl rfl (by omega) (by omega) fun h t hM hA hB ht => ?_
    have e1 : t / 2 ^ 40 % 8 = 2 := by omega
    have e2 : t / 2 ^ 34 % 4 = op.code := by omega
    have e3 : t / 2 ^ 32 % 4 = ty.code := by omega
    have e4 : t / 2 ^ 36 % 8 = sc.code := by omega
    have e5 : t / 2 ^ 39 % 2 = 1 := by omega
    have e6 : fld t 16 16 = atn := fld_eq (by omega)
    have e7 : fld h 5 5 = a := fld_eq (by omega)
    have e8 : fld h 0 5 = b := fld_eq (by omega)
    have e9 : fld t 43 5 = c := fld_eq (by omega)
    simp only [raw19 hM, dec19, e1, e2, RedOp_of, e3, RedType_of, e4, Scope_of, Option.bind_some, if_pos e5, e6, e7, e8, e9]
theorem Sys2Proof.Laws.Enc.collw (a : GReg) : Sys2Proof.Laws.Enc.Statement (.collw a) := by
  have := a.isLt
  refine enc_en (M := 25) (A := a.toNat) (B := 0) (T := 3298534883328) rfl rfl (by omega) (by omega) fun h t hM hA hB ht => ?_
  have e1 : t / 2 ^ 40 % 8 = 3 := by omega
  have e2 : fld h 5 5 = a := fld_eq (by omega)
  simp only [raw19 hM, dec19, e1, e2]
theorem Sys2Proof.Laws.Enc.vclaim (a : GReg) (n8 : BitVec 4) : Sys2Proof.Laws.Enc.Statement (.vclaim a n8) := by
  have := a.isLt
  have := n8.isLt
  refine enc_en (M := 53) (A := a.toNat) (B := 0) (T := 0 + n8.toNat) rfl rfl (by omega) (by omega) fun h t hM hA hB ht => ?_
  have e1 : t / 256 % 8 = 0 := by omega
  have e2 : fld h 5 5 = a := fld_eq (by omega)
  have e3 : fld t 0 4 = n8 := fld_eq (by omega)
  simp only [raw35 hM, dec35, e1, e2, e3]
theorem Sys2Proof.Laws.Enc.vyield : Sys2Proof.Laws.Enc.Statement (.vyield) := by
  refine enc_en (M := 53) (A := 0) (B := 0) (T := 256) rfl rfl (by omega) (by omega) fun h t hM hA hB ht => ?_
  have e1 : t / 256 % 8 = 1 := by omega
  simp only [raw35 hM, dec35, e1]
theorem Sys2Proof.Laws.Enc.vlen (a : GReg) : Sys2Proof.Laws.Enc.Statement (.vlen a) := by
  have := a.isLt
  refine enc_en (M := 53) (A := a.toNat) (B := 0) (T := 512) rfl rfl (by omega) (by omega) fun h t hM hA hB ht => ?_
  have e1 : t / 256 % 8 = 2 := by omega
  have e2 : fld h 5 5 = a := fld_eq (by omega)
  simp only [raw35 hM, dec35, e1, e2]
theorem Sys2Proof.Laws.Enc.vadd (tv : EType) (a : VReg) (b : VReg) (c : VReg) (k : MReg) : Sys2Proof.Laws.Enc.Statement (.vadd tv a b c k) := by
  have := EType_lt tv
  have := a.isLt
  have := b.isLt
  have := c.isLt
  have := k.isLt
  refine enc_en (M := 48) (A := a.toNat) (B := b.toNat) (T := c.toNat * 2048 + 0 + tv.code * 8 + k.toNat) rfl rfl (by omega) (by omega) fun h t hM hA hB ht => ?_
  have e1 : t / 128 % 16 = 0 := by omega
  have e2 : t / 8 % 16 = tv.code := by omega
  have e3 : fld h 5 4 = a := fld_eq (by omega)
  have e4 : fld h 0 4 = b := fld_eq (by omega)
  have e5 : fld t 11 4 = c := fld_eq (by omega)
  have e6 : fld t 0 3 = k := fld_eq (by omega)
  simp only [raw30 hM, dec30, e1, e2, EType_of, Option.bind_some, e3, e4, e5, e6]
theorem Sys2Proof.Laws.Enc.vsub (tv : EType) (a : VReg) (b : VReg) (c : VReg) (k : MReg) : Sys2Proof.Laws.Enc.Statement (.vsub tv a b c k) := by
  have := EType_lt tv
  have := a.isLt
  have := b.isLt
  have := c.isLt
  have := k.isLt
  refine enc_en (M := 48) (A := a.toNat) (B := b.toNat) (T := c.toNat * 2048 + 128 + tv.code * 8 + k.toNat) rfl rfl (by omega) (by omega) fun h t hM hA hB ht => ?_
  have e1 : t / 128 % 16 = 1 := by omega
  have e2 : t / 8 % 16 = tv.code := by omega
  have e3 : fld h 5 4 = a := fld_eq (by omega)
  have e4 : fld h 0 4 = b := fld_eq (by omega)
  have e5 : fld t 11 4 = c := fld_eq (by omega)
  have e6 : fld t 0 3 = k := fld_eq (by omega)
  simp only [raw30 hM, dec30, e1, e2, EType_of, Option.bind_some, e3, e4, e5, e6]
theorem Sys2Proof.Laws.Enc.vmul (tv : EType) (a : VReg) (b : VReg) (c : VReg) (k : MReg) : Sys2Proof.Laws.Enc.Statement (.vmul tv a b c k) := by
  have := EType_lt tv
  have := a.isLt
  have := b.isLt
  have := c.isLt
  have := k.isLt
  refine enc_en (M := 48) (A := a.toNat) (B := b.toNat) (T := c.toNat * 2048 + 256 + tv.code * 8 + k.toNat) rfl rfl (by omega) (by omega) fun h t hM hA hB ht => ?_
  have e1 : t / 128 % 16 = 2 := by omega
  have e2 : t / 8 % 16 = tv.code := by omega
  have e3 : fld h 5 4 = a := fld_eq (by omega)
  have e4 : fld h 0 4 = b := fld_eq (by omega)
  have e5 : fld t 11 4 = c := fld_eq (by omega)
  have e6 : fld t 0 3 = k := fld_eq (by omega)
  simp only [raw30 hM, dec30, e1, e2, EType_of, Option.bind_some, e3, e4, e5, e6]
theorem Sys2Proof.Laws.Enc.vmin (tv : EType) (a : VReg) (b : VReg) (c : VReg) (k : MReg) : Sys2Proof.Laws.Enc.Statement (.vmin tv a b c k) := by
  have := EType_lt tv
  have := a.isLt
  have := b.isLt
  have := c.isLt
  have := k.isLt
  refine enc_en (M := 48) (A := a.toNat) (B := b.toNat) (T := c.toNat * 2048 + 384 + tv.code * 8 + k.toNat) rfl rfl (by omega) (by omega) fun h t hM hA hB ht => ?_
  have e1 : t / 128 % 16 = 3 := by omega
  have e2 : t / 8 % 16 = tv.code := by omega
  have e3 : fld h 5 4 = a := fld_eq (by omega)
  have e4 : fld h 0 4 = b := fld_eq (by omega)
  have e5 : fld t 11 4 = c := fld_eq (by omega)
  have e6 : fld t 0 3 = k := fld_eq (by omega)
  simp only [raw30 hM, dec30, e1, e2, EType_of, Option.bind_some, e3, e4, e5, e6]
theorem Sys2Proof.Laws.Enc.vmax (tv : EType) (a : VReg) (b : VReg) (c : VReg) (k : MReg) : Sys2Proof.Laws.Enc.Statement (.vmax tv a b c k) := by
  have := EType_lt tv
  have := a.isLt
  have := b.isLt
  have := c.isLt
  have := k.isLt
  refine enc_en (M := 48) (A := a.toNat) (B := b.toNat) (T := c.toNat * 2048 + 512 + tv.code * 8 + k.toNat) rfl rfl (by omega) (by omega) fun h t hM hA hB ht => ?_
  have e1 : t / 128 % 16 = 4 := by omega
  have e2 : t / 8 % 16 = tv.code := by omega
  have e3 : fld h 5 4 = a := fld_eq (by omega)
  have e4 : fld h 0 4 = b := fld_eq (by omega)
  have e5 : fld t 11 4 = c := fld_eq (by omega)
  have e6 : fld t 0 3 = k := fld_eq (by omega)
  simp only [raw30 hM, dec30, e1, e2, EType_of, Option.bind_some, e3, e4, e5, e6]
theorem Sys2Proof.Laws.Enc.vand (tv : EType) (a : VReg) (b : VReg) (c : VReg) (k : MReg) : Sys2Proof.Laws.Enc.Statement (.vand tv a b c k) := by
  have := EType_lt tv
  have := a.isLt
  have := b.isLt
  have := c.isLt
  have := k.isLt
  refine enc_en (M := 48) (A := a.toNat) (B := b.toNat) (T := c.toNat * 2048 + 640 + tv.code * 8 + k.toNat) rfl rfl (by omega) (by omega) fun h t hM hA hB ht => ?_
  have e1 : t / 128 % 16 = 5 := by omega
  have e2 : t / 8 % 16 = tv.code := by omega
  have e3 : fld h 5 4 = a := fld_eq (by omega)
  have e4 : fld h 0 4 = b := fld_eq (by omega)
  have e5 : fld t 11 4 = c := fld_eq (by omega)
  have e6 : fld t 0 3 = k := fld_eq (by omega)
  simp only [raw30 hM, dec30, e1, e2, EType_of, Option.bind_some, e3, e4, e5, e6]
theorem Sys2Proof.Laws.Enc.vor (tv : EType) (a : VReg) (b : VReg) (c : VReg) (k : MReg) : Sys2Proof.Laws.Enc.Statement (.vor tv a b c k) := by
  have := EType_lt tv
  have := a.isLt
  have := b.isLt
  have := c.isLt
  have := k.isLt
  refine enc_en (M := 48) (A := a.toNat) (B := b.toNat) (T := c.toNat * 2048 + 768 + tv.code * 8 + k.toNat) rfl rfl (by omega) (by omega) fun h t hM hA hB ht => ?_
  have e1 : t / 128 % 16 = 6 := by omega
  have e2 : t / 8 % 16 = tv.code := by omega
  have e3 : fld h 5 4 = a := fld_eq (by omega)
  have e4 : fld h 0 4 = b := fld_eq (by omega)
  have e5 : fld t 11 4 = c := fld_eq (by omega)
  have e6 : fld t 0 3 = k := fld_eq (by omega)
  simp only [raw30 hM, dec30, e1, e2, EType_of, Option.bind_some, e3, e4, e5, e6]
theorem Sys2Proof.Laws.Enc.vxor (tv : EType) (a : VReg) (b : VReg) (c : VReg) (k : MReg) : Sys2Proof.Laws.Enc.Statement (.vxor tv a b c k) := by
  have := EType_lt tv
  have := a.isLt
  have := b.isLt
  have := c.isLt
  have := k.isLt
  refine enc_en (M := 48) (A := a.toNat) (B := b.toNat) (T := c.toNat * 2048 + 896 + tv.code * 8 + k.toNat) rfl rfl (by omega) (by omega) fun h t hM hA hB ht => ?_
  have e1 : t / 128 % 16 = 7 := by omega
  have e2 : t / 8 % 16 = tv.code := by omega
  have e3 : fld h 5 4 = a := fld_eq (by omega)
  have e4 : fld h 0 4 = b := fld_eq (by omega)
  have e5 : fld t 11 4 = c := fld_eq (by omega)
  have e6 : fld t 0 3 = k := fld_eq (by omega)
  simp only [raw30 hM, dec30, e1, e2, EType_of, Option.bind_some, e3, e4, e5, e6]
theorem Sys2Proof.Laws.Enc.vshl (tv : EType) (a : VReg) (b : VReg) (c : VReg) (k : MReg) : Sys2Proof.Laws.Enc.Statement (.vshl tv a b c k) := by
  have := EType_lt tv
  have := a.isLt
  have := b.isLt
  have := c.isLt
  have := k.isLt
  refine enc_en (M := 48) (A := a.toNat) (B := b.toNat) (T := c.toNat * 2048 + 1024 + tv.code * 8 + k.toNat) rfl rfl (by omega) (by omega) fun h t hM hA hB ht => ?_
  have e1 : t / 128 % 16 = 8 := by omega
  have e2 : t / 8 % 16 = tv.code := by omega
  have e3 : fld h 5 4 = a := fld_eq (by omega)
  have e4 : fld h 0 4 = b := fld_eq (by omega)
  have e5 : fld t 11 4 = c := fld_eq (by omega)
  have e6 : fld t 0 3 = k := fld_eq (by omega)
  simp only [raw30 hM, dec30, e1, e2, EType_of, Option.bind_some, e3, e4, e5, e6]
theorem Sys2Proof.Laws.Enc.vshrl (tv : EType) (a : VReg) (b : VReg) (c : VReg) (k : MReg) : Sys2Proof.Laws.Enc.Statement (.vshrl tv a b c k) := by
  have := EType_lt tv
  have := a.isLt
  have := b.isLt
  have := c.isLt
  have := k.isLt
  refine enc_en (M := 48) (A := a.toNat) (B := b.toNat) (T := c.toNat * 2048 + 1152 + tv.code * 8 + k.toNat) rfl rfl (by omega) (by omega) fun h t hM hA hB ht => ?_
  have e1 : t / 128 % 16 = 9 := by omega
  have e2 : t / 8 % 16 = tv.code := by omega
  have e3 : fld h 5 4 = a := fld_eq (by omega)
  have e4 : fld h 0 4 = b := fld_eq (by omega)
  have e5 : fld t 11 4 = c := fld_eq (by omega)
  have e6 : fld t 0 3 = k := fld_eq (by omega)
  simp only [raw30 hM, dec30, e1, e2, EType_of, Option.bind_some, e3, e4, e5, e6]
theorem Sys2Proof.Laws.Enc.vshra (tv : EType) (a : VReg) (b : VReg) (c : VReg) (k : MReg) : Sys2Proof.Laws.Enc.Statement (.vshra tv a b c k) := by
  have := EType_lt tv
  have := a.isLt
  have := b.isLt
  have := c.isLt
  have := k.isLt
  refine enc_en (M := 48) (A := a.toNat) (B := b.toNat) (T := c.toNat * 2048 + 1280 + tv.code * 8 + k.toNat) rfl rfl (by omega) (by omega) fun h t hM hA hB ht => ?_
  have e1 : t / 128 % 16 = 10 := by omega
  have e2 : t / 8 % 16 = tv.code := by omega
  have e3 : fld h 5 4 = a := fld_eq (by omega)
  have e4 : fld h 0 4 = b := fld_eq (by omega)
  have e5 : fld t 11 4 = c := fld_eq (by omega)
  have e6 : fld t 0 3 = k := fld_eq (by omega)
  simp only [raw30 hM, dec30, e1, e2, EType_of, Option.bind_some, e3, e4, e5, e6]
theorem Sys2Proof.Laws.Enc.vabs (tv : EType) (a : VReg) (b : VReg) (k : MReg) : Sys2Proof.Laws.Enc.Statement (.vabs tv a b k) := by
  have := EType_lt tv
  have := a.isLt
  have := b.isLt
  have := k.isLt
  refine enc_en (M := 48) (A := a.toNat) (B := b.toNat) (T := 1408 + tv.code * 8 + k.toNat) rfl rfl (by omega) (by omega) fun h t hM hA hB ht => ?_
  have e1 : t / 128 % 16 = 11 := by omega
  have e2 : t / 8 % 16 = tv.code := by omega
  have e3 : fld h 5 4 = a := fld_eq (by omega)
  have e4 : fld h 0 4 = b := fld_eq (by omega)
  have e5 : fld t 0 3 = k := fld_eq (by omega)
  simp only [raw30 hM, dec30, e1, e2, EType_of, Option.bind_some, e3, e4, e5]
theorem Sys2Proof.Laws.Enc.vneg (tv : EType) (a : VReg) (b : VReg) (k : MReg) : Sys2Proof.Laws.Enc.Statement (.vneg tv a b k) := by
  have := EType_lt tv
  have := a.isLt
  have := b.isLt
  have := k.isLt
  refine enc_en (M := 48) (A := a.toNat) (B := b.toNat) (T := 1536 + tv.code * 8 + k.toNat) rfl rfl (by omega) (by omega) fun h t hM hA hB ht => ?_
  have e1 : t / 128 % 16 = 12 := by omega
  have e2 : t / 8 % 16 = tv.code := by omega
  have e3 : fld h 5 4 = a := fld_eq (by omega)
  have e4 : fld h 0 4 = b := fld_eq (by omega)
  have e5 : fld t 0 3 = k := fld_eq (by omega)
  simp only [raw30 hM, dec30, e1, e2, EType_of, Option.bind_some, e3, e4, e5]
theorem Sys2Proof.Laws.Enc.vfma (tv : EType) (a : VReg) (b : VReg) (c : VReg) (d : VReg) (k : MReg) : Sys2Proof.Laws.Enc.Statement (.vfma tv a b c d k) := by
  have := EType_lt tv
  have := a.isLt
  have := b.isLt
  have := c.isLt
  have := d.isLt
  have := k.isLt
  refine enc_en (M := 49) (A := a.toNat) (B := b.toNat) (T := c.toNat * 134217728 + d.toNat * 4194304 + 0 + tv.code * 16384 + k.toNat * 4) rfl rfl (by omega) (by omega) fun h t hM hA hB ht => ?_
  have e1 : t / 2 ^ 18 % 16 = 0 := by omega
  have e2 : t / 2 ^ 14 % 16 = tv.code := by omega
  have e3 : fld h 5 4 = a := fld_eq (by omega)
  have e4 : fld h 0 4 = b := fld_eq (by omega)
  have e5 : fld t 27 4 = c := fld_eq (by omega)
  have e6 : fld t 22 4 = d := fld_eq (by omega)
  have e7 : fld t 2 3 = k := fld_eq (by omega)
  simp only [raw31 hM, dec31, e1, e2, EType_of, Option.bind_some, e3, e4, e5, e6, e7]
theorem Sys2Proof.Laws.Enc.vcvt (dst : EType) (src : EType) (mode : CvtMode) (p : BitVec 3) (a : VReg) (b : VReg) (d : VReg) (k : MReg) : Sys2Proof.Laws.Enc.Statement (.vcvt dst src mode p a b d k) := by
  have := EType_lt dst
  have := EType_lt src
  have := CvtMode_lt mode
  have := p.isLt
  have := a.isLt
  have := b.isLt
  have := d.isLt
  have := k.isLt
  refine enc_en (M := 49) (A := a.toNat) (B := b.toNat) (T := d.toNat * 4194304 + 262144 + dst.code * 16384 + src.code * 1024 + mode.code * 256 + p.toNat * 32 + k.toNat * 4) rfl rfl (by omega) (by omega) fun h t hM hA hB ht => ?_
  have e1 : t / 2 ^ 18 % 16 = 1 := by omega
  have e2 : t / 2 ^ 14 % 16 = dst.code := by omega
  have e3 : t / 2 ^ 10 % 16 = src.code := by omega
  have e4 : t / 2 ^ 8 % 4 = mode.code := by omega
  have e5 : fld t 5 3 = p := fld_eq (by omega)
  have e6 : fld h 5 4 = a := fld_eq (by omega)
  have e7 : fld h 0 4 = b := fld_eq (by omega)
  have e8 : fld t 22 4 = d := fld_eq (by omega)
  have e9 : fld t 2 3 = k := fld_eq (by omega)
  simp only [raw31 hM, dec31, e1, e2, EType_of, e3, EType_of, e4, CvtMode_of, Option.bind_some, e5, e6, e7, e8, e9]
theorem Sys2Proof.Laws.Enc.vseq (tv : EType) (a : MReg) (b : VReg) (c : VReg) (k : MReg) : Sys2Proof.Laws.Enc.Statement (.vseq tv a b c k) := by
  have := EType_lt tv
  have := a.isLt
  have := b.isLt
  have := c.isLt
  have := k.isLt
  refine enc_en (M := 49) (A := a.toNat) (B := b.toNat) (T := c.toNat * 134217728 + 524288 + tv.code * 16384 + k.toNat * 4) rfl rfl (by omega) (by omega) fun h t hM hA hB ht => ?_
  have e1 : t / 2 ^ 18 % 16 = 2 := by omega
  have e2 : t / 2 ^ 14 % 16 = tv.code := by omega
  have e3 : fld h 5 3 = a := fld_eq (by omega)
  have e4 : fld h 0 4 = b := fld_eq (by omega)
  have e5 : fld t 27 4 = c := fld_eq (by omega)
  have e6 : fld t 2 3 = k := fld_eq (by omega)
  simp only [raw31 hM, dec31, e1, e2, EType_of, Option.bind_some, e3, e4, e5, e6]
theorem Sys2Proof.Laws.Enc.vslt (tv : EType) (a : MReg) (b : VReg) (c : VReg) (k : MReg) : Sys2Proof.Laws.Enc.Statement (.vslt tv a b c k) := by
  have := EType_lt tv
  have := a.isLt
  have := b.isLt
  have := c.isLt
  have := k.isLt
  refine enc_en (M := 49) (A := a.toNat) (B := b.toNat) (T := c.toNat * 134217728 + 786432 + tv.code * 16384 + k.toNat * 4) rfl rfl (by omega) (by omega) fun h t hM hA hB ht => ?_
  have e1 : t / 2 ^ 18 % 16 = 3 := by omega
  have e2 : t / 2 ^ 14 % 16 = tv.code := by omega
  have e3 : fld h 5 3 = a := fld_eq (by omega)
  have e4 : fld h 0 4 = b := fld_eq (by omega)
  have e5 : fld t 27 4 = c := fld_eq (by omega)
  have e6 : fld t 2 3 = k := fld_eq (by omega)
  simp only [raw31 hM, dec31, e1, e2, EType_of, Option.bind_some, e3, e4, e5, e6]
theorem Sys2Proof.Laws.Enc.vsle (tv : EType) (a : MReg) (b : VReg) (c : VReg) (k : MReg) : Sys2Proof.Laws.Enc.Statement (.vsle tv a b c k) := by
  have := EType_lt tv
  have := a.isLt
  have := b.isLt
  have := c.isLt
  have := k.isLt
  refine enc_en (M := 49) (A := a.toNat) (B := b.toNat) (T := c.toNat * 134217728 + 1048576 + tv.code * 16384 + k.toNat * 4) rfl rfl (by omega) (by omega) fun h t hM hA hB ht => ?_
  have e1 : t / 2 ^ 18 % 16 = 4 := by omega
  have e2 : t / 2 ^ 14 % 16 = tv.code := by omega
  have e3 : fld h 5 3 = a := fld_eq (by omega)
  have e4 : fld h 0 4 = b := fld_eq (by omega)
  have e5 : fld t 27 4 = c := fld_eq (by omega)
  have e6 : fld t 2 3 = k := fld_eq (by omega)
  simp only [raw31 hM, dec31, e1, e2, EType_of, Option.bind_some, e3, e4, e5, e6]
theorem Sys2Proof.Laws.Enc.vsel (a : VReg) (b : VReg) (c : VReg) (d : MReg) : Sys2Proof.Laws.Enc.Statement (.vsel a b c d) := by
  have := a.isLt
  have := b.isLt
  have := c.isLt
  have := d.isLt
  refine enc_en (M := 49) (A := a.toNat) (B := b.toNat) (T := c.toNat * 134217728 + d.toNat * 4194304 + 1310720) rfl rfl (by omega) (by omega) fun h t hM hA hB ht => ?_
  have e1 : t / 2 ^ 18 % 16 = 5 := by omega
  have e2 : fld h 5 4 = a := fld_eq (by omega)
  have e3 : fld h 0 4 = b := fld_eq (by omega)
  have e4 : fld t 27 4 = c := fld_eq (by omega)
  have e5 : fld t 22 3 = d := fld_eq (by omega)
  simp only [raw31 hM, dec31, e1, e2, e3, e4, e5]
theorem Sys2Proof.Laws.Enc.vbcast (tv : EType) (a : VReg) (b : GReg) (k : MReg) : Sys2Proof.Laws.Enc.Statement (.vbcast tv a b k) := by
  have := EType_lt tv
  have := a.isLt
  have := b.isLt
  have := k.isLt
  refine enc_en (M := 49) (A := a.toNat) (B := b.toNat) (T := 1572864 + tv.code * 16384 + k.toNat * 4) rfl rfl (by omega) (by omega) fun h t hM hA hB ht => ?_
  have e1 : t / 2 ^ 18 % 16 = 6 := by omega
  have e2 : t / 2 ^ 14 % 16 = tv.code := by omega
  have e3 : fld h 5 4 = a := fld_eq (by omega)
  have e4 : fld h 0 5 = b := fld_eq (by omega)
  have e5 : fld t 2 3 = k := fld_eq (by omega)
  simp only [raw31 hM, dec31, e1, e2, EType_of, Option.bind_some, e3, e4, e5]
theorem Sys2Proof.Laws.Enc.vext (a : GReg) (b : VReg) (c : GReg) : Sys2Proof.Laws.Enc.Statement (.vext a b c) := by
  have := a.isLt
  have := b.isLt
  have := c.isLt
  refine enc_en (M := 49) (A := a.toNat) (B := b.toNat) (T := c.toNat * 134217728 + 1835008) rfl rfl (by omega) (by omega) fun h t hM hA hB ht => ?_
  have e1 : t / 2 ^ 18 % 16 = 7 := by omega
  have e2 : fld h 5 5 = a := fld_eq (by omega)
  have e3 : fld h 0 4 = b := fld_eq (by omega)
  have e4 : fld t 27 5 = c := fld_eq (by omega)
  simp only [raw31 hM, dec31, e1, e2, e3, e4]
theorem Sys2Proof.Laws.Enc.vperm (a : VReg) (b : VReg) (c : VReg) (k : MReg) : Sys2Proof.Laws.Enc.Statement (.vperm a b c k) := by
  have := a.isLt
  have := b.isLt
  have := c.isLt
  have := k.isLt
  refine enc_en (M := 49) (A := a.toNat) (B := b.toNat) (T := c.toNat * 134217728 + 2097152 + k.toNat * 4) rfl rfl (by omega) (by omega) fun h t hM hA hB ht => ?_
  have e1 : t / 2 ^ 18 % 16 = 8 := by omega
  have e2 : fld h 5 4 = a := fld_eq (by omega)
  have e3 : fld h 0 4 = b := fld_eq (by omega)
  have e4 : fld t 27 4 = c := fld_eq (by omega)
  have e5 : fld t 2 3 = k := fld_eq (by omega)
  simp only [raw31 hM, dec31, e1, e2, e3, e4, e5]
theorem Sys2Proof.Laws.Enc.vld (a : VReg) (b : GReg) (imm : BitVec 19) (k : MReg) : Sys2Proof.Laws.Enc.Statement (.vld a b imm k) := by
  have := a.isLt
  have := b.isLt
  have := imm.isLt
  have := k.isLt
  refine enc_en (M := 50) (A := a.toNat) (B := b.toNat) (T := 0 + 8388608 + k.toNat * 524288 + imm.toNat) rfl rfl (by omega) (by omega) fun h t hM hA hB ht => ?_
  have e1 : t / 2 ^ 24 % 8 = 0 := by omega
  have e2 : fld h 5 4 = a := fld_eq (by omega)
  have e3 : fld h 0 5 = b := fld_eq (by omega)
  have e4 : fld t 0 19 = imm := fld_eq (by omega)
  have e5 : fld t 19 3 = k := fld_eq (by omega)
  simp only [raw32 hM, dec32, e1, e2, e3, e4, e5]
theorem Sys2Proof.Laws.Enc.vst (a : VReg) (b : GReg) (imm : BitVec 19) (k : MReg) : Sys2Proof.Laws.Enc.Statement (.vst a b imm k) := by
  have := a.isLt
  have := b.isLt
  have := imm.isLt
  have := k.isLt
  refine enc_en (M := 50) (A := a.toNat) (B := b.toNat) (T := 16777216 + 8388608 + k.toNat * 524288 + imm.toNat) rfl rfl (by omega) (by omega) fun h t hM hA hB ht => ?_
  have e1 : t / 2 ^ 24 % 8 = 1 := by omega
  have e2 : fld h 5 4 = a := fld_eq (by omega)
  have e3 : fld h 0 5 = b := fld_eq (by omega)
  have e4 : fld t 0 19 = imm := fld_eq (by omega)
  have e5 : fld t 19 3 = k := fld_eq (by omega)
  simp only [raw32 hM, dec32, e1, e2, e3, e4, e5]
theorem Sys2Proof.Laws.Enc.vldl (a : VReg) (b : GReg) (imm : BitVec 19) (k : MReg) : Sys2Proof.Laws.Enc.Statement (.vldl a b imm k) := by
  have := a.isLt
  have := b.isLt
  have := imm.isLt
  have := k.isLt
  refine enc_en (M := 50) (A := a.toNat) (B := b.toNat) (T := 33554432 + 8388608 + k.toNat * 524288 + imm.toNat) rfl rfl (by omega) (by omega) fun h t hM hA hB ht => ?_
  have e1 : t / 2 ^ 24 % 8 = 2 := by omega
  have e2 : fld h 5 4 = a := fld_eq (by omega)
  have e3 : fld h 0 5 = b := fld_eq (by omega)
  have e4 : fld t 0 19 = imm := fld_eq (by omega)
  have e5 : fld t 19 3 = k := fld_eq (by omega)
  simp only [raw32 hM, dec32, e1, e2, e3, e4, e5]
theorem Sys2Proof.Laws.Enc.vstl (a : VReg) (b : GReg) (imm : BitVec 19) (k : MReg) : Sys2Proof.Laws.Enc.Statement (.vstl a b imm k) := by
  have := a.isLt
  have := b.isLt
  have := imm.isLt
  have := k.isLt
  refine enc_en (M := 50) (A := a.toNat) (B := b.toNat) (T := 50331648 + 8388608 + k.toNat * 524288 + imm.toNat) rfl rfl (by omega) (by omega) fun h t hM hA hB ht => ?_
  have e1 : t / 2 ^ 24 % 8 = 3 := by omega
  have e2 : fld h 5 4 = a := fld_eq (by omega)
  have e3 : fld h 0 5 = b := fld_eq (by omega)
  have e4 : fld t 0 19 = imm := fld_eq (by omega)
  have e5 : fld t 19 3 = k := fld_eq (by omega)
  simp only [raw32 hM, dec32, e1, e2, e3, e4, e5]
theorem Sys2Proof.Laws.Enc.vlds (z : Size) (a : VReg) (b : GReg) (c : GReg) (imm : BitVec 19) (k : MReg) : Sys2Proof.Laws.Enc.Statement (.vlds z a b c imm k) := by
  have := Size_lt z
  have := a.isLt
  have := b.isLt
  have := c.isLt
  have := imm.isLt
  have := k.isLt
  refine enc_en (M := 50) (A := a.toNat) (B := b.toNat) (T := c.toNat * 134217728 + 67108864 + z.code * 4194304 + k.toNat * 524288 + imm.toNat) rfl rfl (by omega) (by omega) fun h t hM hA hB ht => ?_
  have e1 : t / 2 ^ 24 % 8 = 4 := by omega
  have e2 : t / 2 ^ 22 % 4 = z.code := by omega
  have e3 : fld h 5 4 = a := fld_eq (by omega)
  have e4 : fld h 0 5 = b := fld_eq (by omega)
  have e5 : fld t 27 5 = c := fld_eq (by omega)
  have e6 : fld t 0 19 = imm := fld_eq (by omega)
  have e7 : fld t 19 3 = k := fld_eq (by omega)
  simp only [raw32 hM, dec32, e1, e2, Size_of, Option.bind_some, e3, e4, e5, e6, e7]
theorem Sys2Proof.Laws.Enc.vgath (z : Size) (a : VReg) (b : GReg) (c : VReg) (imm : BitVec 19) (k : MReg) : Sys2Proof.Laws.Enc.Statement (.vgath z a b c imm k) := by
  have := Size_lt z
  have := a.isLt
  have := b.isLt
  have := c.isLt
  have := imm.isLt
  have := k.isLt
  refine enc_en (M := 50) (A := a.toNat) (B := b.toNat) (T := c.toNat * 134217728 + 83886080 + z.code * 4194304 + k.toNat * 524288 + imm.toNat) rfl rfl (by omega) (by omega) fun h t hM hA hB ht => ?_
  have e1 : t / 2 ^ 24 % 8 = 5 := by omega
  have e2 : t / 2 ^ 22 % 4 = z.code := by omega
  have e3 : fld h 5 4 = a := fld_eq (by omega)
  have e4 : fld h 0 5 = b := fld_eq (by omega)
  have e5 : fld t 27 4 = c := fld_eq (by omega)
  have e6 : fld t 0 19 = imm := fld_eq (by omega)
  have e7 : fld t 19 3 = k := fld_eq (by omega)
  simp only [raw32 hM, dec32, e1, e2, Size_of, Option.bind_some, e3, e4, e5, e6, e7]
theorem Sys2Proof.Laws.Enc.vscat (z : Size) (a : VReg) (b : GReg) (c : VReg) (imm : BitVec 19) (k : MReg) : Sys2Proof.Laws.Enc.Statement (.vscat z a b c imm k) := by
  have := Size_lt z
  have := a.isLt
  have := b.isLt
  have := c.isLt
  have := imm.isLt
  have := k.isLt
  refine enc_en (M := 50) (A := a.toNat) (B := b.toNat) (T := c.toNat * 134217728 + 100663296 + z.code * 4194304 + k.toNat * 524288 + imm.toNat) rfl rfl (by omega) (by omega) fun h t hM hA hB ht => ?_
  have e1 : t / 2 ^ 24 % 8 = 6 := by omega
  have e2 : t / 2 ^ 22 % 4 = z.code := by omega
  have e3 : fld h 5 4 = a := fld_eq (by omega)
  have e4 : fld h 0 5 = b := fld_eq (by omega)
  have e5 : fld t 27 4 = c := fld_eq (by omega)
  have e6 : fld t 0 19 = imm := fld_eq (by omega)
  have e7 : fld t 19 3 = k := fld_eq (by omega)
  simp only [raw32 hM, dec32, e1, e2, Size_of, Option.bind_some, e3, e4, e5, e6, e7]
theorem Sys2Proof.Laws.Enc.vredadd (tv : EType) (a : GReg) (b : VReg) (k : MReg) : Sys2Proof.Laws.Enc.Statement (.vredadd tv a b k) := by
  have := EType_lt tv
  have := a.isLt
  have := b.isLt
  have := k.isLt
  refine enc_en (M := 51) (A := a.toNat) (B := b.toNat) (T := 0 + tv.code * 16 + k.toNat * 2) rfl rfl (by omega) (by omega) fun h t hM hA hB ht => ?_
  have e1 : t / 256 % 8 = 0 := by omega
  have e2 : t / 16 % 16 = tv.code := by omega
  have e3 : fld h 5 5 = a := fld_eq (by omega)
  have e4 : fld h 0 4 = b := fld_eq (by omega)
  have e5 : fld t 1 3 = k := fld_eq (by omega)
  simp only [raw33 hM, dec33, e1, e2, EType_of, Option.bind_some, e3, e4, e5]
theorem Sys2Proof.Laws.Enc.vredmax (tv : EType) (a : GReg) (b : VReg) (k : MReg) : Sys2Proof.Laws.Enc.Statement (.vredmax tv a b k) := by
  have := EType_lt tv
  have := a.isLt
  have := b.isLt
  have := k.isLt
  refine enc_en (M := 51) (A := a.toNat) (B := b.toNat) (T := 256 + tv.code * 16 + k.toNat * 2) rfl rfl (by omega) (by omega) fun h t hM hA hB ht => ?_
  have e1 : t / 256 % 8 = 1 := by omega
  have e2 : t / 16 % 16 = tv.code := by omega
  have e3 : fld h 5 5 = a := fld_eq (by omega)
  have e4 : fld h 0 4 = b := fld_eq (by omega)
  have e5 : fld t 1 3 = k := fld_eq (by omega)
  simp only [raw33 hM, dec33, e1, e2, EType_of, Option.bind_some, e3, e4, e5]
theorem Sys2Proof.Laws.Enc.vredmin (tv : EType) (a : GReg) (b : VReg) (k : MReg) : Sys2Proof.Laws.Enc.Statement (.vredmin tv a b k) := by
  have := EType_lt tv
  have := a.isLt
  have := b.isLt
  have := k.isLt
  refine enc_en (M := 51) (A := a.toNat) (B := b.toNat) (T := 512 + tv.code * 16 + k.toNat * 2) rfl rfl (by omega) (by omega) fun h t hM hA hB ht => ?_
  have e1 : t / 256 % 8 = 2 := by omega
  have e2 : t / 16 % 16 = tv.code := by omega
  have e3 : fld h 5 5 = a := fld_eq (by omega)
  have e4 : fld h 0 4 = b := fld_eq (by omega)
  have e5 : fld t 1 3 = k := fld_eq (by omega)
  simp only [raw33 hM, dec33, e1, e2, EType_of, Option.bind_some, e3, e4, e5]
theorem Sys2Proof.Laws.Enc.vmaxi (tv : EType) (a : GReg) (b : VReg) (c : GReg) (k : MReg) : Sys2Proof.Laws.Enc.Statement (.vmaxi tv a b c k) := by
  have := EType_lt tv
  have := a.isLt
  have := b.isLt
  have := c.isLt
  have := k.isLt
  refine enc_en (M := 51) (A := a.toNat) (B := b.toNat) (T := c.toNat * 2048 + 768 + tv.code * 16 + k.toNat * 2) rfl rfl (by omega) (by omega) fun h t hM hA hB ht => ?_
  have e1 : t / 256 % 8 = 3 := by omega
  have e2 : t / 16 % 16 = tv.code := by omega
  have e3 : fld h 5 5 = a := fld_eq (by omega)
  have e4 : fld h 0 4 = b := fld_eq (by omega)
  have e5 : fld t 11 5 = c := fld_eq (by omega)
  have e6 : fld t 1 3 = k := fld_eq (by omega)
  simp only [raw33 hM, dec33, e1, e2, EType_of, Option.bind_some, e3, e4, e5, e6]
theorem Sys2Proof.Laws.Enc.vmini (tv : EType) (a : GReg) (b : VReg) (c : GReg) (k : MReg) : Sys2Proof.Laws.Enc.Statement (.vmini tv a b c k) := by
  have := EType_lt tv
  have := a.isLt
  have := b.isLt
  have := c.isLt
  have := k.isLt
  refine enc_en (M := 51) (A := a.toNat) (B := b.toNat) (T := c.toNat * 2048 + 1024 + tv.code * 16 + k.toNat * 2) rfl rfl (by omega) (by omega) fun h t hM hA hB ht => ?_
  have e1 : t / 256 % 8 = 4 := by omega
  have e2 : t / 16 % 16 = tv.code := by omega
  have e3 : fld h 5 5 = a := fld_eq (by omega)
  have e4 : fld h 0 4 = b := fld_eq (by omega)
  have e5 : fld t 11 5 = c := fld_eq (by omega)
  have e6 : fld t 1 3 = k := fld_eq (by omega)
  simp only [raw33 hM, dec33, e1, e2, EType_of, Option.bind_some, e3, e4, e5, e6]
theorem Sys2Proof.Laws.Enc.mand (a : MReg) (b : MReg) (c : MReg) : Sys2Proof.Laws.Enc.Statement (.mand a b c) := by
  have := a.isLt
  have := b.isLt
  have := c.isLt
  refine enc_en (M := 52) (A := a.toNat) (B := b.toNat) (T := c.toNat * 2048 + 0) rfl rfl (by omega) (by omega) fun h t hM hA hB ht => ?_
  have e1 : t % 2048 = 0 := by omega
  have e2 : fld h 5 3 = a := fld_eq (by omega)
  have e3 : fld h 0 3 = b := fld_eq (by omega)
  have e4 : fld t 11 3 = c := fld_eq (by omega)
  simp only [raw34 hM, dec34, e1, e2, e3, e4]
theorem Sys2Proof.Laws.Enc.mor (a : MReg) (b : MReg) (c : MReg) : Sys2Proof.Laws.Enc.Statement (.mor a b c) := by
  have := a.isLt
  have := b.isLt
  have := c.isLt
  refine enc_en (M := 52) (A := a.toNat) (B := b.toNat) (T := c.toNat * 2048 + 1) rfl rfl (by omega) (by omega) fun h t hM hA hB ht => ?_
  have e1 : t % 2048 = 1 := by omega
  have e2 : fld h 5 3 = a := fld_eq (by omega)
  have e3 : fld h 0 3 = b := fld_eq (by omega)
  have e4 : fld t 11 3 = c := fld_eq (by omega)
  simp only [raw34 hM, dec34, e1, e2, e3, e4]
theorem Sys2Proof.Laws.Enc.mxor (a : MReg) (b : MReg) (c : MReg) : Sys2Proof.Laws.Enc.Statement (.mxor a b c) := by
  have := a.isLt
  have := b.isLt
  have := c.isLt
  refine enc_en (M := 52) (A := a.toNat) (B := b.toNat) (T := c.toNat * 2048 + 2) rfl rfl (by omega) (by omega) fun h t hM hA hB ht => ?_
  have e1 : t % 2048 = 2 := by omega
  have e2 : fld h 5 3 = a := fld_eq (by omega)
  have e3 : fld h 0 3 = b := fld_eq (by omega)
  have e4 : fld t 11 3 = c := fld_eq (by omega)
  simp only [raw34 hM, dec34, e1, e2, e3, e4]
theorem Sys2Proof.Laws.Enc.mnot (a : MReg) (b : MReg) : Sys2Proof.Laws.Enc.Statement (.mnot a b) := by
  have := a.isLt
  have := b.isLt
  refine enc_en (M := 52) (A := a.toNat) (B := b.toNat) (T := 3) rfl rfl (by omega) (by omega) fun h t hM hA hB ht => ?_
  have e1 : t % 2048 = 3 := by omega
  have e2 : fld h 5 3 = a := fld_eq (by omega)
  have e3 : fld h 0 3 = b := fld_eq (by omega)
  simp only [raw34 hM, dec34, e1, e2, e3]
theorem Sys2Proof.Laws.Enc.mpopc (a : GReg) (b : MReg) : Sys2Proof.Laws.Enc.Statement (.mpopc a b) := by
  have := a.isLt
  have := b.isLt
  refine enc_en (M := 52) (A := a.toNat) (B := b.toNat) (T := 4) rfl rfl (by omega) (by omega) fun h t hM hA hB ht => ?_
  have e1 : t % 2048 = 4 := by omega
  have e2 : fld h 5 5 = a := fld_eq (by omega)
  have e3 : fld h 0 3 = b := fld_eq (by omega)
  simp only [raw34 hM, dec34, e1, e2, e3]
theorem Sys2Proof.Laws.Enc.mfirst (a : GReg) (b : MReg) : Sys2Proof.Laws.Enc.Statement (.mfirst a b) := by
  have := a.isLt
  have := b.isLt
  refine enc_en (M := 52) (A := a.toNat) (B := b.toNat) (T := 5) rfl rfl (by omega) (by omega) fun h t hM hA hB ht => ?_
  have e1 : t % 2048 = 5 := by omega
  have e2 : fld h 5 5 = a := fld_eq (by omega)
  have e3 : fld h 0 3 = b := fld_eq (by omega)
  simp only [raw34 hM, dec34, e1, e2, e3]
theorem Sys2Proof.Laws.Enc.mset (a : MReg) (b : GReg) : Sys2Proof.Laws.Enc.Statement (.mset a b) := by
  have := a.isLt
  have := b.isLt
  refine enc_en (M := 52) (A := a.toNat) (B := b.toNat) (T := 6) rfl rfl (by omega) (by omega) fun h t hM hA hB ht => ?_
  have e1 : t % 2048 = 6 := by omega
  have e2 : fld h 5 3 = a := fld_eq (by omega)
  have e3 : fld h 0 5 = b := fld_eq (by omega)
  simp only [raw34 hM, dec34, e1, e2, e3]
theorem Sys2Proof.Laws.Enc.mmov (a : MReg) (b : MReg) : Sys2Proof.Laws.Enc.Statement (.mmov a b) := by
  have := a.isLt
  have := b.isLt
  refine enc_en (M := 52) (A := a.toNat) (B := b.toNat) (T := 7) rfl rfl (by omega) (by omega) fun h t hM hA hB ht => ?_
  have e1 : t % 2048 = 7 := by omega
  have e2 : fld h 5 3 = a := fld_eq (by omega)
  have e3 : fld h 0 3 = b := fld_eq (by omega)
  simp only [raw34 hM, dec34, e1, e2, e3]
theorem Sys2Proof.Laws.Enc.mmovG (a : GReg) (b : MReg) : Sys2Proof.Laws.Enc.Statement (.mmovG a b) := by
  have := a.isLt
  have := b.isLt
  refine enc_en (M := 52) (A := a.toNat) (B := b.toNat) (T := 8) rfl rfl (by omega) (by omega) fun h t hM hA hB ht => ?_
  have e1 : t % 2048 = 8 := by omega
  have e2 : fld h 5 5 = a := fld_eq (by omega)
  have e3 : fld h 0 3 = b := fld_eq (by omega)
  simp only [raw34 hM, dec34, e1, e2, e3]
theorem Sys2Proof.Laws.Enc.ppld (b : GReg) : Sys2Proof.Laws.Enc.Statement (.ppld b) := by
  have := b.isLt
  refine enc_en (M := 54) (A := 0) (B := b.toNat) (T := 0) rfl rfl (by omega) (by omega) fun h t hM hA hB ht => ?_
  have e1 : t / 256 % 8 = 0 := by omega
  have e2 : fld h 0 5 = b := fld_eq (by omega)
  simp only [raw36 hM, dec36, e1, e2]
theorem Sys2Proof.Laws.Enc.ppsel (s : BitVec 4) : Sys2Proof.Laws.Enc.Statement (.ppsel s) := by
  have := s.isLt
  refine enc_en (M := 54) (A := 0) (B := 0) (T := 256 + s.toNat * 16) rfl rfl (by omega) (by omega) fun h t hM hA hB ht => ?_
  have e1 : t / 256 % 8 = 1 := by omega
  have e2 : fld t 4 4 = s := fld_eq (by omega)
  simp only [raw36 hM, dec36, e1, e2]
theorem Sys2Proof.Laws.Enc.ppev (tv : FType) (a : VReg) (b : VReg) (k : MReg) : Sys2Proof.Laws.Enc.Statement (.ppev tv a b k) := by
  have := FType_ppLt tv
  have := a.isLt
  have := b.isLt
  have := k.isLt
  refine enc_en (M := 54) (A := a.toNat) (B := b.toNat) (T := 512 + tv.ppCode * 64 + k.toNat * 8) rfl rfl (by omega) (by omega) fun h t hM hA hB ht => ?_
  have e1 : t / 256 % 8 = 2 := by omega
  have e2 : t / 64 % 4 = tv.ppCode := by omega
  have e3 : fld h 5 4 = a := fld_eq (by omega)
  have e4 : fld h 0 4 = b := fld_eq (by omega)
  have e5 : fld t 3 3 = k := fld_eq (by omega)
  simp only [raw36 hM, dec36, e1, e2, FType_ppOf, Option.bind_some, e3, e4, e5]
theorem Sys2Proof.Laws.Enc.mma (f : MmaFmt) (atn : Option (BitVec 16)) (a : AReg) (b : GReg) (c : GReg) : Sys2Proof.Laws.Enc.Statement (.mma f atn a b c) := by
  cases atn with
  | none =>
    have := MmaFmt_lt f
    have := a.isLt
    have := b.isLt
    have := c.isLt
    refine enc_en (M := 55) (A := a.toNat) (B := b.toNat) (T := c.toNat * 134217728 + f.code * 16777216 + (0)) rfl rfl (by omega) (by omega) fun h t hM hA hB ht => ?_
    have e1 : t / 2 ^ 24 % 8 = f.code := by omega
    have e2 : ¬ (t / 2 ^ 23 % 2 = 1) := by omega
    have e3 : fld h 5 4 = a := fld_eq (by omega)
    have e4 : fld h 0 5 = b := fld_eq (by omega)
    have e5 : fld t 27 5 = c := fld_eq (by omega)
    simp only [raw37 hM, dec37, e1, MmaFmt_of, Option.bind_some, if_neg e2, e3, e4, e5]
  | some atn =>
    have := MmaFmt_lt f
    have := a.isLt
    have := b.isLt
    have := c.isLt
    have := atn.isLt
    refine enc_en (M := 55) (A := a.toNat) (B := b.toNat) (T := c.toNat * 134217728 + f.code * 16777216 + (8388608 + atn.toNat * 128)) rfl rfl (by omega) (by omega) fun h t hM hA hB ht => ?_
    have e1 : t / 2 ^ 24 % 8 = f.code := by omega
    have e2 : t / 2 ^ 23 % 2 = 1 := by omega
    have e3 : fld t 7 16 = atn := fld_eq (by omega)
    have e4 : fld h 5 4 = a := fld_eq (by omega)
    have e5 : fld h 0 5 = b := fld_eq (by omega)
    have e6 : fld t 27 5 = c := fld_eq (by omega)
    simp only [raw37 hM, dec37, e1, MmaFmt_of, Option.bind_some, if_pos e2, e3, e4, e5, e6]
theorem Sys2Proof.Laws.Enc.mzero (a : AReg) : Sys2Proof.Laws.Enc.Statement (.mzero a) := by
  have := a.isLt
  refine enc_en (M := 56) (A := a.toNat) (B := 0) (T := 0) rfl rfl (by omega) (by omega) fun h t hM hA hB ht => ?_
  have e1 : t / 256 % 8 = 0 := by omega
  have e2 : fld h 5 4 = a := fld_eq (by omega)
  simp only [raw38 hM, dec38, e1, e2]
theorem Sys2Proof.Laws.Enc.mldb (z : LatchSize) (b : GReg) : Sys2Proof.Laws.Enc.Statement (.mldb z b) := by
  have := LatchSize_lt z
  have := b.isLt
  refine enc_en (M := 56) (A := 0) (B := b.toNat) (T := 256 + z.code * 64) rfl rfl (by omega) (by omega) fun h t hM hA hB ht => ?_
  have e1 : t / 256 % 8 = 1 := by omega
  have e2 : t / 64 % 4 = z.code := by omega
  have e3 : fld h 0 5 = b := fld_eq (by omega)
  simp only [raw38 hM, dec38, e1, e2, LatchSize_of, Option.bind_some, e3]
theorem Sys2Proof.Laws.Enc.mring (atn : Option (BitVec 7)) : Sys2Proof.Laws.Enc.Statement (.mring atn) := by
  cases atn with
  | none =>
    refine enc_en (M := 56) (A := 0) (B := 0) (T := 512 + (0)) rfl rfl (by omega) (by omega) fun h t hM hA hB ht => ?_
    have e1 : t / 256 % 8 = 2 := by omega
    have e2 : ¬ (t / 128 % 2 = 1) := by omega
    simp only [raw38 hM, dec38, e1, if_neg e2]
  | some atn =>
    have := atn.isLt
    refine enc_en (M := 56) (A := 0) (B := 0) (T := 512 + (128 + atn.toNat)) rfl rfl (by omega) (by omega) fun h t hM hA hB ht => ?_
    have e1 : t / 256 % 8 = 2 := by omega
    have e2 : t / 128 % 2 = 1 := by omega
    have e3 : fld t 0 7 = atn := fld_eq (by omega)
    simp only [raw38 hM, dec38, e1, if_pos e2, e3]
theorem Sys2Proof.Laws.Enc.mchk (a : AReg) : Sys2Proof.Laws.Enc.Statement (.mchk a) := by
  have := a.isLt
  refine enc_en (M := 56) (A := a.toNat) (B := 0) (T := 768) rfl rfl (by omega) (by omega) fun h t hM hA hB ht => ?_
  have e1 : t / 256 % 8 = 3 := by omega
  have e2 : fld h 5 4 = a := fld_eq (by omega)
  simp only [raw38 hM, dec38, e1, e2]
theorem Sys2Proof.Laws.Enc.mst (bf : Bool) (a : AReg) (b : GReg) : Sys2Proof.Laws.Enc.Statement (.mst bf a b) := by
  have := Bool.toNat_lt bf
  have := a.isLt
  have := b.isLt
  refine enc_en (M := 56) (A := a.toNat) (B := b.toNat) (T := 1024 + bf.toNat * 128) rfl rfl (by omega) (by omega) fun h t hM hA hB ht => ?_
  have e1 : t / 256 % 8 = 4 := by omega
  have e2 : (t / 128 % 2 == 1) = bf := bit_eq (by omega)
  have e3 : fld h 5 4 = a := fld_eq (by omega)
  have e4 : fld h 0 5 = b := fld_eq (by omega)
  simp only [raw38 hM, dec38, e1, e2, e3, e4]
theorem Sys2Proof.Laws.Enc.mmir (m : Mirror) : Sys2Proof.Laws.Enc.Statement (.mmir m) := by
  have := Mirror_lt m
  refine enc_en (M := 56) (A := 0) (B := 0) (T := 1280 + m.code) rfl rfl (by omega) (by omega) fun h t hM hA hB ht => ?_
  have e1 : t / 256 % 8 = 5 := by omega
  have e2 : t % 4 = m.code := by omega
  simp only [raw38 hM, dec38, e1, e2, Mirror_of, Option.bind_some]
theorem Sys2Proof.Laws.Enc.mwait (a : GReg) : Sys2Proof.Laws.Enc.Statement (.mwait a) := by
  have := a.isLt
  refine enc_en (M := 56) (A := a.toNat) (B := 0) (T := 1536) rfl rfl (by omega) (by omega) fun h t hM hA hB ht => ?_
  have e1 : t / 256 % 8 = 6 := by omega
  have e2 : fld h 5 5 = a := fld_eq (by omega)
  simp only [raw38 hM, dec38, e1, e2]
theorem Sys2Proof.Laws.Enc.mqstat (a : GReg) : Sys2Proof.Laws.Enc.Statement (.mqstat a) := by
  have := a.isLt
  refine enc_en (M := 56) (A := a.toNat) (B := 0) (T := 1792) rfl rfl (by omega) (by omega) fun h t hM hA hB ht => ?_
  have e1 : t / 256 % 8 = 7 := by omega
  have e2 : fld h 5 5 = a := fld_eq (by omega)
  simp only [raw38 hM, dec38, e1, e2]
theorem Sys2Proof.Laws.Enc.trapEntry (c : Nat) (k : Nat) (cause : Word) (addr : Word) : Sys2Proof.Laws.Enc.Statement (.trapEntry c k cause addr) := enc_none rfl
theorem Sys2Proof.Laws.Enc.alarm (c : Nat) : Sys2Proof.Laws.Enc.Statement (.alarm c) := enc_none rfl
theorem Sys2Proof.Laws.Enc.wfeTimeoutEvent (c : Nat) (k : Nat) : Sys2Proof.Laws.Enc.Statement (.wfeTimeoutEvent c k) := enc_none rfl
theorem Sys2Proof.Laws.Enc.wfeComplete (c : Nat) (k : Nat) : Sys2Proof.Laws.Enc.Statement (.wfeComplete c k) := enc_none rfl
theorem Sys2Proof.Laws.Enc.hjoinComplete (c : Nat) : Sys2Proof.Laws.Enc.Statement (.hjoinComplete c) := enc_none rfl
theorem Sys2Proof.Laws.Enc.parkWake (c : Nat) : Sys2Proof.Laws.Enc.Statement (.parkWake c) := enc_none rfl
theorem Sys2Proof.Laws.Enc.waitStComplete (c : Nat) (k : Nat) : Sys2Proof.Laws.Enc.Statement (.waitStComplete c k) := enc_none rfl
theorem Sys2Proof.Laws.Enc.fdutyWindowApply (c : Nat) : Sys2Proof.Laws.Enc.Statement (.fdutyWindowApply c) := enc_none rfl
theorem Sys2Proof.Laws.Enc.dividerChangeComplete (c : Nat) : Sys2Proof.Laws.Enc.Statement (.dividerChangeComplete c) := enc_none rfl
theorem Sys2Proof.Laws.Enc.pageFaultReply (obj : Nat) (pg : Nat) (resolved : Bool) : Sys2Proof.Laws.Enc.Statement (.pageFaultReply obj pg resolved) := enc_none rfl
theorem Sys2Proof.Laws.Enc.coalescingBufferDrain (c : Nat) : Sys2Proof.Laws.Enc.Statement (.coalescingBufferDrain c) := enc_none rfl
theorem Sys2Proof.Laws.Enc.loopbackAccess (c : Nat) (k : Nat) : Sys2Proof.Laws.Enc.Statement (.loopbackAccess c k) := enc_none rfl
theorem Sys2Proof.Laws.Enc.sliceRequest (c : Nat) (cid : Nat) (addr : Word) (size : Nat) (op : SliceOp) : Sys2Proof.Laws.Enc.Statement (.sliceRequest c cid addr size op) := enc_none rfl
theorem Sys2Proof.Laws.Enc.sliceFillBurst (c : Nat) (cid : Nat) (addr : Word) : Sys2Proof.Laws.Enc.Statement (.sliceFillBurst c cid addr) := enc_none rfl
theorem Sys2Proof.Laws.Enc.obbFill (c : Nat) (obj : Nat) : Sys2Proof.Laws.Enc.Statement (.obbFill c obj) := enc_none rfl
theorem Sys2Proof.Laws.Enc.frameTest (die : Nat) (stack : Nat) (frame : Nat) (pass : Bool) : Sys2Proof.Laws.Enc.Statement (.frameTest die stack frame pass) := enc_none rfl
theorem Sys2Proof.Laws.Enc.giveIndivisibleStep (c : Nat) (k : Nat) : Sys2Proof.Laws.Enc.Statement (.giveIndivisibleStep c k) := enc_none rfl
theorem Sys2Proof.Laws.Enc.wwaitComplete (c : Nat) (k : Nat) : Sys2Proof.Laws.Enc.Statement (.wwaitComplete c k) := enc_none rfl
theorem Sys2Proof.Laws.Enc.wunmapComplete (c : Nat) (k : Nat) : Sys2Proof.Laws.Enc.Statement (.wunmapComplete c k) := enc_none rfl
theorem Sys2Proof.Laws.Enc.xbarRelease (i : Inst) : Sys2Proof.Laws.Enc.Statement (.xbarRelease i) := enc_none rfl
theorem Sys2Proof.Laws.Enc.xsendBeats (c : Nat) (k : Nat) : Sys2Proof.Laws.Enc.Statement (.xsendBeats c k) := enc_none rfl
theorem Sys2Proof.Laws.Enc.xrecvWindow (c : Nat) (k : Nat) : Sys2Proof.Laws.Enc.Statement (.xrecvWindow c k) := enc_none rfl
theorem Sys2Proof.Laws.Enc.exchangePayloadLanding : Sys2Proof.Laws.Enc.Statement (.exchangePayloadLanding) := enc_none rfl
theorem Sys2Proof.Laws.Enc.xsendrCombine (i : Inst) : Sys2Proof.Laws.Enc.Statement (.xsendrCombine i) := enc_none rfl
theorem Sys2Proof.Laws.Enc.xendRelease (i : Inst) : Sys2Proof.Laws.Enc.Statement (.xendRelease i) := enc_none rfl
theorem Sys2Proof.Laws.Enc.messageArrival (dst : Nat) (eth : Bool) (src : Word) (data : List (BitVec 8)) : Sys2Proof.Laws.Enc.Statement (.messageArrival dst eth src data) := enc_none rfl
theorem Sys2Proof.Laws.Enc.qsendBoundExpiry (c : Nat) (k : Nat) : Sys2Proof.Laws.Enc.Statement (.qsendBoundExpiry c k) := enc_none rfl
theorem Sys2Proof.Laws.Enc.qrecvComplete (c : Nat) (k : Nat) : Sys2Proof.Laws.Enc.Statement (.qrecvComplete c k) := enc_none rfl
theorem Sys2Proof.Laws.Enc.arrivalMessage (i : Inst) (u : Nat) (m : Nat) : Sys2Proof.Laws.Enc.Statement (.arrivalMessage i u m) := enc_none rfl
theorem Sys2Proof.Laws.Enc.barrierRelease (i : Inst) (u : Nat) : Sys2Proof.Laws.Enc.Statement (.barrierRelease i u) := enc_none rfl
theorem Sys2Proof.Laws.Enc.barrierTimeout (c : Nat) (k : Nat) : Sys2Proof.Laws.Enc.Statement (.barrierTimeout c k) := enc_none rfl
theorem Sys2Proof.Laws.Enc.tokwGrant (c : Nat) (k : Nat) : Sys2Proof.Laws.Enc.Statement (.tokwGrant c k) := enc_none rfl
theorem Sys2Proof.Laws.Enc.tokenHoldTimeout (r : RingId) (c : Nat) : Sys2Proof.Laws.Enc.Statement (.tokenHoldTimeout r c) := enc_none rfl
theorem Sys2Proof.Laws.Enc.tokenRingRound (r : RingId) : Sys2Proof.Laws.Enc.Statement (.tokenRingRound r) := enc_none rfl
theorem Sys2Proof.Laws.Enc.cpyComplete (c : Nat) : Sys2Proof.Laws.Enc.Statement (.cpyComplete c) := enc_none rfl
theorem Sys2Proof.Laws.Enc.cpywComplete (c : Nat) (k : Nat) : Sys2Proof.Laws.Enc.Statement (.cpywComplete c k) := enc_none rfl
theorem Sys2Proof.Laws.Enc.timedCommandStart (c : Nat) (copy : Bool) (id : Nat) : Sys2Proof.Laws.Enc.Statement (.timedCommandStart c copy id) := enc_none rfl
theorem Sys2Proof.Laws.Enc.collChunk (i : Inst) : Sys2Proof.Laws.Enc.Statement (.collChunk i) := enc_none rfl
theorem Sys2Proof.Laws.Enc.collMemberTimeout (i : Inst) : Sys2Proof.Laws.Enc.Statement (.collMemberTimeout i) := enc_none rfl
theorem Sys2Proof.Laws.Enc.collwComplete (c : Nat) (k : Nat) : Sys2Proof.Laws.Enc.Statement (.collwComplete c k) := enc_none rfl
theorem Sys2Proof.Laws.Enc.podChunkTimeout : Sys2Proof.Laws.Enc.Statement (.podChunkTimeout) := enc_none rfl
theorem Sys2Proof.Laws.Enc.vectorQueueStart (c : Nat) : Sys2Proof.Laws.Enc.Statement (.vectorQueueStart c) := enc_none rfl
theorem Sys2Proof.Laws.Enc.vectorQueueComplete (c : Nat) : Sys2Proof.Laws.Enc.Statement (.vectorQueueComplete c) := enc_none rfl
theorem Sys2Proof.Laws.Enc.matrixDispatch (oct : Nat) (res : Nat) : Sys2Proof.Laws.Enc.Statement (.matrixDispatch oct res) := enc_none rfl
theorem Sys2Proof.Laws.Enc.matrixCommandComplete (c : Nat) : Sys2Proof.Laws.Enc.Statement (.matrixCommandComplete c) := enc_none rfl
theorem Sys2Proof.Laws.Enc.mringLanding (c : Nat) : Sys2Proof.Laws.Enc.Statement (.mringLanding c) := enc_none rfl
theorem Sys2Proof.Laws.Enc.mringTimeout (c : Nat) : Sys2Proof.Laws.Enc.Statement (.mringTimeout c) := enc_none rfl
theorem Sys2Proof.Laws.Enc.mwaitComplete (c : Nat) : Sys2Proof.Laws.Enc.Statement (.mwaitComplete c) := enc_none rfl
theorem Sys2Proof.Laws.Enc.ductusRound (i : Inst) : Sys2Proof.Laws.Enc.Statement (.ductusRound i) := enc_none rfl
theorem Sys2Proof.Laws.Enc.auditVerdict (i : Inst) : Sys2Proof.Laws.Enc.Statement (.auditVerdict i) := enc_none rfl
theorem Sys2Proof.Laws.Enc.copyUpdate (i : Inst) : Sys2Proof.Laws.Enc.Statement (.copyUpdate i) := enc_none rfl
theorem Sys2Proof.Laws.Enc.dpokeCnt (i : Inst) (u : Nat) (v : BitVec 32) : Sys2Proof.Laws.Enc.Statement (.dpokeCnt i u v) := enc_none rfl
theorem Sys2Proof.Laws.Enc.dpokeF (i : Inst) (u : Nat) (c : Nat) (v : BitVec 32) : Sys2Proof.Laws.Enc.Statement (.dpokeF i u c v) := enc_none rfl
theorem Sys2Proof.Laws.Enc.dpokeXv (r : RingId) (c : Nat) (v : BitVec 32) : Sys2Proof.Laws.Enc.Statement (.dpokeXv r c v) := enc_none rfl
theorem Sys2Proof.Laws.Enc.dpokeStep (i : Inst) (c : Nat) (v : BitVec 32) : Sys2Proof.Laws.Enc.Statement (.dpokeStep i c v) := enc_none rfl
theorem Sys2Proof.Laws.Enc.dpokeDist (i : Inst) (c : Nat) (v : BitVec 32) : Sys2Proof.Laws.Enc.Statement (.dpokeDist i c v) := enc_none rfl
theorem Sys2Proof.Laws.Enc.dpokeGen (i : Inst) (v : BitVec 32) : Sys2Proof.Laws.Enc.Statement (.dpokeGen i v) := enc_none rfl
theorem Sys2Proof.Laws.Enc.tokkWrite (c : Nat) (k : Nat) (v : Word) : Sys2Proof.Laws.Enc.Statement (.tokkWrite c k v) := enc_none rfl
theorem Sys2Proof.Laws.Enc.srseedWrite (c : Nat) (k : Nat) (v : Word) : Sys2Proof.Laws.Enc.Statement (.srseedWrite c k v) := enc_none rfl
theorem Sys2Proof.Laws.Enc.accmapWrite (c : Nat) (k : Nat) (v : Word) : Sys2Proof.Laws.Enc.Statement (.accmapWrite c k v) := enc_none rfl
theorem Sys2Proof.Laws.Enc.registerWrite (c : Nat) (k : Nat) (reg : Nat) (v : Word) : Sys2Proof.Laws.Enc.Statement (.registerWrite c k reg v) := enc_none rfl
theorem Sys2Proof.Laws.Enc.dispatchPass : Sys2Proof.Laws.Enc.Statement (.dispatchPass) := enc_none rfl
theorem Sys2Proof.Laws.Enc.wakeMessage (c : Nat) (n : Nat) : Sys2Proof.Laws.Enc.Statement (.wakeMessage c n) := enc_none rfl
theorem Sys2Proof.Laws.Enc.launchStart (c : Nat) : Sys2Proof.Laws.Enc.Statement (.launchStart c) := enc_none rfl
theorem Sys2Proof.Laws.Enc.counterWindowStore (cid : Nat) (n : Nat) (v : Word) : Sys2Proof.Laws.Enc.Statement (.counterWindowStore cid n v) := enc_none rfl
theorem Sys2Proof.Laws.Enc.counterWindowAmoadd (c : Nat) (k : Nat) (cid : Nat) (n : Nat) (rd : GReg) (v : Word) : Sys2Proof.Laws.Enc.Statement (.counterWindowAmoadd c k cid n rd v) := enc_none rfl
theorem Sys2Proof.Laws.Enc.counterWindowLoad (c : Nat) (k : Nat) (cid : Nat) (n : Nat) (rd : GReg) : Sys2Proof.Laws.Enc.Statement (.counterWindowLoad c k cid n rd) := enc_none rfl
theorem Sys2Proof.Laws.Enc.ageExpiry (n : Nat) : Sys2Proof.Laws.Enc.Statement (.ageExpiry n) := enc_none rfl
theorem Sys2Proof.Laws.Enc.pdelayExpiry (n : Nat) : Sys2Proof.Laws.Enc.Statement (.pdelayExpiry n) := enc_none rfl
theorem Sys2Proof.Laws.Enc.preemptMessage (n : Nat) : Sys2Proof.Laws.Enc.Statement (.preemptMessage n) := enc_none rfl
theorem Sys2Proof.Laws.Enc.switchOut (c : Nat) : Sys2Proof.Laws.Enc.Statement (.switchOut c) := enc_none rfl
theorem Sys2Proof.Laws.Enc.xmaxlenExpiry (n : Nat) : Sys2Proof.Laws.Enc.Statement (.xmaxlenExpiry n) := enc_none rfl
theorem Sys2Proof.Laws.Enc.resume (n : Nat) : Sys2Proof.Laws.Enc.Statement (.resume n) := enc_none rfl
theorem Sys2Proof.Laws.Enc.pageMigration (obj : Nat) (pg : Nat) (stack : Nat) (frame : Nat) : Sys2Proof.Laws.Enc.Statement (.pageMigration obj pg stack frame) := enc_none rfl
theorem Sys2Proof.Laws.Enc.migrationSwitch (obj : Nat) (pg : Nat) : Sys2Proof.Laws.Enc.Statement (.migrationSwitch obj pg) := enc_none rfl
theorem Sys2Proof.Laws.Enc.domainSplit (die : Nat) (d : Nat) (e : Nat) (slots : BitVec 16) : Sys2Proof.Laws.Enc.Statement (.domainSplit die d e slots) := enc_none rfl
theorem Sys2Proof.Laws.Enc.splitWalk (die : Nat) (d : Nat) (set : Nat) : Sys2Proof.Laws.Enc.Statement (.splitWalk die d set) := enc_none rfl
theorem Sys2Proof.Laws.Enc.snapshotDrain (obj : Nat) : Sys2Proof.Laws.Enc.Statement (.snapshotDrain obj) := enc_none rfl
theorem Sys2Proof.Laws.Enc.rampSlotBoundary : Sys2Proof.Laws.Enc.Statement (.rampSlotBoundary) := enc_none rfl
theorem Sys2Proof.Laws.Enc.pounceLevelDecay (oct : Nat) : Sys2Proof.Laws.Enc.Statement (.pounceLevelDecay oct) := enc_none rfl
theorem Sys2Proof.Laws.Enc.budgetControllerPass : Sys2Proof.Laws.Enc.Statement (.budgetControllerPass) := enc_none rfl
theorem Sys2Proof.Laws.Enc.powerSwitchOff (c : Nat) : Sys2Proof.Laws.Enc.Statement (.powerSwitchOff c) := enc_none rfl
theorem Sys2Proof.Laws.Enc.droopEvent (die : Nat) (row : Nat) : Sys2Proof.Laws.Enc.Statement (.droopEvent die row) := enc_none rfl
theorem Sys2Proof.Laws.Enc.prethrottleEnd (die : Nat) (row : Nat) : Sys2Proof.Laws.Enc.Statement (.prethrottleEnd die row) := enc_none rfl
theorem Sys2Proof.Laws.Enc.deviceLevelFault (cid : Nat) (kind : Nat) (addr : Word) (core : Nat) (ecause : Word) : Sys2Proof.Laws.Enc.Statement (.deviceLevelFault cid kind addr core ecause) := enc_none rfl
theorem Sys2Proof.Laws.Enc.patrolScrub (tv : ErrTarget) : Sys2Proof.Laws.Enc.Statement (.patrolScrub tv) := enc_none rfl
theorem Sys2Proof.Laws.Enc.linkRecalibration (l : LinkId) : Sys2Proof.Laws.Enc.Statement (.linkRecalibration l) := enc_none rfl
theorem Sys2Proof.Laws.Enc.hbmRecalibration (die : Nat) (stack : Nat) : Sys2Proof.Laws.Enc.Statement (.hbmRecalibration die stack) := enc_none rfl
theorem Sys2Proof.Laws.Enc.telemetry : Sys2Proof.Laws.Enc.Statement (.telemetry) := enc_none rfl
theorem Sys2Proof.Laws.Enc.linkTimeout (l : LinkId) : Sys2Proof.Laws.Enc.Statement (.linkTimeout l) := enc_none rfl
theorem Sys2Proof.Laws.Enc.routerTimeout (die : Nat) (r : Nat) : Sys2Proof.Laws.Enc.Statement (.routerTimeout die r) := enc_none rfl
theorem Sys2Proof.Laws.Enc.dieTimeout (die : Nat) : Sys2Proof.Laws.Enc.Statement (.dieTimeout die) := enc_none rfl
theorem Sys2Proof.Laws.Enc.moduleTimeout (m : Nat) : Sys2Proof.Laws.Enc.Statement (.moduleTimeout m) := enc_none rfl
theorem Sys2Proof.Laws.Enc.routeRecomputation (die : Nat) : Sys2Proof.Laws.Enc.Statement (.routeRecomputation die) := enc_none rfl
theorem Sys2Proof.Laws.Enc.attach (hv : Hdr) (vmin : Nat) (vmax : Nat) (feat : BitVec 32) (modno : Nat) (pods : Nat) : Sys2Proof.Laws.Enc.Statement (.attach hv vmin vmax feat modno pods) := enc_none rfl
theorem Sys2Proof.Laws.Enc.attest (hv : Hdr) (nonce : BitVec 256) : Sys2Proof.Laws.Enc.Statement (.attest hv nonce) := enc_none rfl
theorem Sys2Proof.Laws.Enc.fwload (hv : Hdr) (chunk : List (BitVec 8)) (last : Bool) (sigOk : Bool) : Sys2Proof.Laws.Enc.Statement (.fwload hv chunk last sigOk) := enc_none rfl
theorem Sys2Proof.Laws.Enc.start (hv : Hdr) (cold : Bool) : Sys2Proof.Laws.Enc.Statement (.start hv cold) := enc_none rfl
theorem Sys2Proof.Laws.Enc.startStageComplete (ok : Bool) : Sys2Proof.Laws.Enc.Statement (.startStageComplete ok) := enc_none rfl
theorem Sys2Proof.Laws.Enc.startTimeout : Sys2Proof.Laws.Enc.Statement (.startTimeout) := enc_none rfl
theorem Sys2Proof.Laws.Enc.powerOn (imageOk : Bool) : Sys2Proof.Laws.Enc.Statement (.powerOn imageOk) := enc_none rfl
theorem Sys2Proof.Laws.Enc.cidres (hv : Hdr) : Sys2Proof.Laws.Enc.Statement (.cidres hv) := enc_none rfl
theorem Sys2Proof.Laws.Enc.cidevict (hv : Hdr) : Sys2Proof.Laws.Enc.Statement (.cidevict hv) := enc_none rfl
theorem Sys2Proof.Laws.Enc.cidcfg (hv : Hdr) (weight : Nat) (quota : Nat) : Sys2Proof.Laws.Enc.Statement (.cidcfg hv weight quota) := enc_none rfl
theorem Sys2Proof.Laws.Enc.nodewrite (hv : Hdr) (n : Nat) (ws : List Word) : Sys2Proof.Laws.Enc.Statement (.nodewrite hv n ws) := enc_none rfl
theorem Sys2Proof.Laws.Enc.nodeready (hv : Hdr) (ns : List Nat) : Sys2Proof.Laws.Enc.Statement (.nodeready hv ns) := enc_none rfl
theorem Sys2Proof.Laws.Enc.nodefree (hv : Hdr) (n : Nat) : Sys2Proof.Laws.Enc.Statement (.nodefree hv n) := enc_none rfl
theorem Sys2Proof.Laws.Enc.nodeadd (hv : Hdr) (n : Nat) (inc : Nat) : Sys2Proof.Laws.Enc.Statement (.nodeadd hv n inc) := enc_none rfl
theorem Sys2Proof.Laws.Enc.objcreate (hv : Hdr) (obj : Nat) (die : Nat) (dom : Nat) (priv : Bool) (owncore : Nat) (owncid : Nat) (runs : List PageRun) : Sys2Proof.Laws.Enc.Statement (.objcreate hv obj die dom priv owncore owncid runs) := enc_none rfl
theorem Sys2Proof.Laws.Enc.objresize (hv : Hdr) (obj : Nat) (size : Nat) : Sys2Proof.Laws.Enc.Statement (.objresize hv obj size) := enc_none rfl
theorem Sys2Proof.Laws.Enc.objdelete (hv : Hdr) (obj : Nat) : Sys2Proof.Laws.Enc.Statement (.objdelete hv obj) := enc_none rfl
theorem Sys2Proof.Laws.Enc.memwrite (hv : Hdr) (addr : Word) (data : List (BitVec 8)) : Sys2Proof.Laws.Enc.Statement (.memwrite hv addr data) := enc_none rfl
theorem Sys2Proof.Laws.Enc.memread (hv : Hdr) (addr : Word) (n : Nat) : Sys2Proof.Laws.Enc.Statement (.memread hv addr n) := enc_none rfl
theorem Sys2Proof.Laws.Enc.snapshot (hv : Hdr) (obj : Nat) (tv : Word) (room : SnapRoom) : Sys2Proof.Laws.Enc.Statement (.snapshot hv obj tv room) := enc_none rfl
theorem Sys2Proof.Laws.Enc.regwrite (hv : Hdr) (reg : Nat) (v : Word) : Sys2Proof.Laws.Enc.Statement (.regwrite hv reg v) := enc_none rfl
theorem Sys2Proof.Laws.Enc.statread (hv : Hdr) (reg : Nat) (core : Nat) : Sys2Proof.Laws.Enc.Statement (.statread hv reg core) := enc_none rfl
theorem Sys2Proof.Laws.Enc.doorbell (hv : Hdr) (core : Nat) : Sys2Proof.Laws.Enc.Statement (.doorbell hv core) := enc_none rfl
theorem Sys2Proof.Laws.Enc.dieThrottle (die : Nat) : Sys2Proof.Laws.Enc.Statement (.dieThrottle die) := enc_none rfl
theorem Sys2Proof.Laws.Enc.dieTrip (die : Nat) : Sys2Proof.Laws.Enc.Statement (.dieTrip die) := enc_none rfl
theorem Sys2Proof.Laws.Enc.softError (tv : ErrTarget) (mask : BitVec 64) : Sys2Proof.Laws.Enc.Statement (.softError tv mask) := enc_none rfl
theorem Sys2Proof.Laws.Enc.prethrottleStart (die : Nat) (row : Nat) : Sys2Proof.Laws.Enc.Statement (.prethrottleStart die row) := enc_none rfl
theorem Sys2Proof.Laws.Enc.linkFailureNamed (l : LinkId) : Sys2Proof.Laws.Enc.Statement (.linkFailureNamed l) := enc_none rfl
end

