-- ==== Sys2Proof/Laws/Results.lean ====
section
/-!
SUPPORT. What completing with a result says, and when exceptions are taken: the lemmas that the statements about single
instructions rest on.
-/
namespace Sys2Proof.Machine

/-- Completing with a result. -/
theorem State.result_gives (s : State) (a : GReg) (v : Word) (h : s.me.eret ≠ 1) : s.gives (s.result a v) a v := by
  have hp := State.result_passed s a v h
  refine ⟨hp, fun r => ?_⟩
  rw [hp.g r, State.g_setG]

theorem State.me_dueIn (s : State) (n : Nat) (a : GReg) :
    (s.dueIn n a).me = if a = 0 then s.me else { s.me with due := sput s.me.due a.toNat (s.here.cycle + w64 n) } := by
  rw [State.dueIn, State.me_modMe]

theorem State.resultIn_eq (s : State) (n : Nat) (a : GReg) (v : Word) : s.resultIn n a v = (s.dueIn n a).result a v := rfl

/-- Completing with a result that is late. -/
theorem State.resultIn_gives (s : State) (n : Nat) (a : GReg) (v : Word) (h : s.me.eret ≠ 1) :
    (s.dueIn n a).gives (s.resultIn n a v) a v := by
  refine State.result_gives _ a v ?_
  rw [State.me_dueIn]; split <;> exact h

/-- The queue after an instruction that does not transfer. -/
theorem State.passed.queue {s t : State} (h : s.passed t) : t.me.q0 = s.me.q1 ∧ t.me.q1 = s.me.q2 := by
  have e := h.me; unfold Ctx.passed at e; rw [e]; exact ⟨rfl, rfl⟩

theorem Ctx.setReg_q (x : Ctx) (a : GReg) (v : Word) : (x.setReg a v).q0 = x.q0 ∧ (x.setReg a v).q1 = x.q1 ∧ (x.setReg a v).q2 = x.q2 := by
  unfold Ctx.setReg; split <;> exact ⟨rfl, rfl, rfl⟩

/-- A cause raised while the boundary is not ready waits. -/
theorem State.raise_wait (s : State) (z : Cause) (h : s.boundaryReady = false) : s.raise z = s := by simp [State.raise, h]
/-- A cause raised outside a trap enters the trap. -/
theorem State.raise_entry (s : State) (z : Cause) (h : s.boundaryReady = true) (hi : s.me.intrap = false) : s.raise z = s.trapEntry z := by
  simp [State.raise, h, hi]
/-- A cause raised inside a trap is a double trap. -/
theorem State.raise_double (s : State) (z : Cause) (h : s.boundaryReady = true) (hi : s.me.intrap = true) : s.raise z = s.doubleTrap z := by
  simp [State.raise, h, hi]

end Sys2Proof.Machine
end

