-- ==== Sys2Proof/Tests/Slice0.lean ====
section
/-!
SUPPORT. Tests: terms that the operand limits refuse, the encodings worked out by hand from the tables of spec/05 to spec/07,
single steps against the spec's own numbers, and states that meet the hypotheses of each statement.
-/
open Sys2Proof Sys2Proof.Machine

/-! ### Operand limits: a term outside each is refused -/

/-- R92, R94: shift amounts below 64 and fields within a word. -/
theorem smoke_wf_integer : [Instr.shli 1 2 64, .shrli 1 2 64, .shrai 1 2 0xFFFFFF, .bfx 1 2 32 32, .bfxS 1 2 63 1, .bfi 1 2 63 63].all
    (fun i => !i.wf) = true := by decide

/-- R99: no equal formats, no two integers, .RZ only to an integer, .SR only to a format of 16 bits or fewer. -/
theorem smoke_wf_fcvt : [Instr.fcvt .f32 .f32 .ne 1 2, .fcvt .i64 .n32 .ne 1 2, .fcvt .bf .f32 .rz 1 2, .fcvt .f32 .bf .sr 1 2].all
    (fun i => !i.wf) = true := by decide

/-- R131 to R133: a relaxed form names no scope, an ordered one does, loads do not release and stores do not acquire. -/
theorem smoke_wf_order : [Instr.ld .w .relaxed .die 1 2 0, .ld .w .acq .lane 1 2 0, .ld .w .rel .die 1 2 0, .ldn .d .relaxed .lane 1 2 0,
    .ldn .w .ar .die 1 2 0, .st .w .acq .die 1 2 0, .ldln .d 1 2 0, .amoadd false .relaxed .die 1 2 3 0, .amocas true .acq .lane 1 2 3 0,
    .famoadd .rel .lane 1 2 3 0, .fence .lane, .fenceAcq .lane, .fenceRel .lane].all (fun i => !i.wf) = true := by decide

/-- R122: bits of an injection's target. -/
theorem smoke_wf_inject : [Instr.injectAcc 1 2 31 true, .injectAcc 1 2 32 false, .injectLoc 1 2 63 true, .injectSlice 1 2 63 true,
    .injectDec 1 16 false, .injectDec 1 15 true].all (fun i => !i.wf) = true := by decide

/-- R157 to R176: scopes, barrier units, rings and status selectors. -/
theorem smoke_wf_sync : [Instr.xbar .pod 1, .xend .lane 1, .qsend .oct 0 1 2 3, .bar .oct 1 8, .bara .pod 1 4, .barw .lane 1 0, .tokw .die 1 8,
    .tokp .oct 1 0, .wit .lane 1, .witTok .pkg 1 2, .dstat .core 1 0, .dstat .die 1 9, .bil .plain .core none 1 0, .bil .plain .oct (some 0) 1 0,
    .coll .add .f32 .sys none 1 2 3].all (fun i => !i.wf) = true := by decide

/-- R188 to R226: element types and selectors of the vector and matrix units. -/
theorem smoke_wf_units : [Instr.vclaim 1 9, .vand .f32 1 2 3 0, .vshl .bf 1 2 3 0, .vcvt .w .w .ne 0 1 2 0 0, .vcvt .bf .f32 .ne 2 1 2 0 0,
    .vcvt .bf .f32 .ne 0 1 2 3 0, .vseq .b 1 2 3 0, .vslt .bf 1 2 3 0, .vsle .h 1 2 3 0, .vbcast .f32 1 2 0, .vlds .d 1 2 3 0 0,
    .vgath .d 1 2 3 0 0, .vscat .d 1 2 3 0 0, .vredadd .bf 1 2 0, .vmaxi .e4 1 2 3 0, .vmini .b 1 2 3 0, .ppsel 9,
    .mma .bf none 0 1 2].all (fun i => !i.wf) = true := by decide

/-! ### Encodings -/

/-- Whether every head and tail decodes to its instruction. -/
def readAs (l : List (Nat × Nat × Instr)) : Bool :=
  l.all (fun x => match decode x.1 x.2.1 with | .ok i => i == x.2.2 | .error _ => false)

/-- Encodings of R89. -/
theorem test_decode_two_address : readAs [(0x02AA, 0x0, .add2 21 10),
    (0x06AA, 0x0, .sub2 21 10),
    (0x0AAA, 0x0, .and2 21 10),
    (0x0EAA, 0x0, .or2 21 10),
    (0x12AA, 0x0, .xor2 21 10),
    (0x16AA, 0x0, .mov 21 10),
    (0x1AAA, 0x0, .shl2 21 10),
    (0x1EAA, 0x0, .shrl2 21 10)] = true := by decide

/-- Encodings of R90. -/
theorem test_decode_three_register_1 : readAs [(0x22AA, 0x9800, .add 21 10 19),
    (0x22AA, 0x9801, .sub 21 10 19),
    (0x22AA, 0x9802, .and 21 10 19),
    (0x22AA, 0x9803, .or 21 10 19),
    (0x22AA, 0x9804, .xor 21 10 19),
    (0x22AA, 0x9805, .andn 21 10 19),
    (0x22AA, 0x9806, .orn 21 10 19),
    (0x22AA, 0x9807, .shl 21 10 19),
    (0x22AA, 0x9808, .shrl 21 10 19),
    (0x22AA, 0x9809, .shra 21 10 19),
    (0x22AA, 0x980A, .rot 21 10 19),
    (0x22AA, 0x980B, .addw 21 10 19),
    (0x22AA, 0x980C, .subw 21 10 19),
    (0x22AA, 0x9810, .mul 21 10 19),
    (0x22AA, 0x9811, .mulh 21 10 19),
    (0x22AA, 0x9812, .mulhn 21 10 19)] = true := by decide

/-- Encodings of R90. -/
theorem test_decode_three_register_2 : readAs [(0x22AA, 0x9814, .div 21 10 19),
    (0x22AA, 0x9815, .divn 21 10 19),
    (0x22AA, 0x9816, .rem 21 10 19),
    (0x22AA, 0x9817, .remn 21 10 19),
    (0x22AA, 0x9818, .min 21 10 19),
    (0x22AA, 0x9819, .max 21 10 19),
    (0x22AA, 0x981A, .minn 21 10 19),
    (0x22AA, 0x981B, .maxn 21 10 19),
    (0x22AA, 0x9820, .seq 21 10 19),
    (0x22AA, 0x9821, .sne 21 10 19),
    (0x22AA, 0x9822, .slt 21 10 19),
    (0x22AA, 0x9823, .sltn 21 10 19),
    (0x22AA, 0x9824, .sle 21 10 19),
    (0x22AA, 0x9825, .slen 21 10 19),
    (0x22AA, 0x9828, .csel 21 10 19)] = true := by decide

/-- Encodings of R91, R92. -/
theorem test_decode_immediates : readAs [(0x26AA, 0xF0A5C3, .addi 21 10 0xF0A5C3),
    (0x26AA, 0x1F0A5C3, .andi 21 10 0xF0A5C3),
    (0x26AA, 0x2F0A5C3, .ori 21 10 0xF0A5C3),
    (0x26AA, 0x3F0A5C3, .xori 21 10 0xF0A5C3),
    (0x26AA, 0x400003F, .shli 21 10 63),
    (0x26AA, 0x5000011, .shrli 21 10 17),
    (0x26AA, 0x6000020, .shrai 21 10 32),
    (0x2AA0, 0x8123456789AB, .movi 21 0x8123456789AB)] = true := by decide

/-- Encodings of R93. -/
theorem test_decode_unary : readAs [(0x2EAA, 0x0, .not 21 10),
    (0x2EAA, 0x1, .clz 21 10),
    (0x2EAA, 0x2, .ctz 21 10),
    (0x2EAA, 0x3, .popc 21 10),
    (0x2EAA, 0x10, .sextB 21 10),
    (0x2EAA, 0x11, .sextH 21 10),
    (0x2EAA, 0x12, .sextW 21 10),
    (0x2EAA, 0x18, .zextB 21 10),
    (0x2EAA, 0x19, .zextH 21 10),
    (0x2EAA, 0x1A, .zextW 21 10)] = true := by decide

/-- Encodings of R94, R95. -/
theorem test_decode_fields_and_addresses : readAs [(0x32AA, 0x50B, .bfx 21 10 20 11),
    (0x32AA, 0x2000FC0, .bfxS 21 10 63 0),
    (0x32AA, 0x400003F, .bfi 21 10 0 63),
    (0x36AA, 0x98000000, .obj 21 10 19),
    (0x36AA, 0x2000000, .objId 21 10),
    (0x36AA, 0x4000000, .objOff 21 10),
    (0x36AA, 0x9F5A5A5A, .lea 21 10 19 2 0x5A5A5A)] = true := by decide

/-- Encodings of R97 to R99. -/
theorem test_decode_floating_point : readAs [(0x3AAA, 0x9800, .fadd .f32 21 10 19),
    (0x3AAA, 0x9901, .fsub .f16 21 10 19),
    (0x3AAA, 0x9A02, .fmul .bf 21 10 19),
    (0x3AAA, 0x9A03, .fmin .bf 21 10 19),
    (0x3AAA, 0x9A04, .fmax .bf 21 10 19),
    (0x3AAA, 0x9A05, .fseq .bf 21 10 19),
    (0x3AAA, 0x9A06, .fslt .bf 21 10 19),
    (0x3AAA, 0x9A07, .fsle .bf 21 10 19),
    (0x3AAA, 0x208, .fabs .bf 21 10),
    (0x3AAA, 0x209, .fneg .bf 21 10),
    (0x3AAA, 0x20A, .fclass .bf 21 10),
    (0x3EAA, 0x9B480000, .ffma .f16 21 10 19 13),
    (0x3EAA, 0x18480, .fcvt .e4 .f32 .sr 21 10)] = true := by decide

/-- Encodings of R101 to R105. -/
theorem test_decode_transfers : readAs [(0x8002, 0xA5C3, .b .nn 42435),
    (0x86AA, 0x6ABCDE, .beq .nt 21 10 0x2ABCDE),
    (0x86AA, 0x16ABCDE, .bne .nt 21 10 0x2ABCDE),
    (0x86AA, 0x26ABCDE, .blt .nt 21 10 0x2ABCDE),
    (0x86AA, 0x36ABCDE, .bge .nt 21 10 0x2ABCDE),
    (0x86AA, 0x46ABCDE, .bltn .nt 21 10 0x2ABCDE),
    (0x86AA, 0x56ABCDE, .bgen .nt 21 10 0x2ABCDE),
    (0x8AA2, 0xA5C3, .bz .nn 21 42435),
    (0x8AA6, 0xA5C3, .bnz .nn 21 42435),
    (0x8EA0, 0x5ABCDEF, .jal .nn 21 0x1ABCDEF),
    (0x92A2, 0x0, .jr .nn 21)] = true := by decide

/-- Encodings of R107. -/
theorem test_decode_helpers : readAs [(0x9EAA, 0x9800, .hstart 21 10 19),
    (0x9EAA, 0x1, .hjoin 21 10),
    (0x9EA0, 0x2, .hexit 21)] = true := by decide

/-- Encodings of R112. -/
theorem test_decode_system_1 : readAs [(0xA000, 0x6A5, .trap 1701),
    (0xA001, 0x2, .eret .nn),
    (0xA2A2, 0x6A5, .rdsys 21 1701),
    (0xA003, 0x9EA5, .wrsys 1701 19),
    (0xA004, 0x0, .ifence),
    (0xA005, 0x0, .park),
    (0xA2A6, 0x0, .wfe 21),
    (0xA2A7, 0x9A80, .injectAcc 21 19 20 false),
    (0xA2A7, 0x9FD1, .injectLoc 21 19 62 true),
    (0xA2A7, 0x9FE2, .injectSlice 21 19 63 false),
    (0xA2A7, 0x1D3, .injectDec 21 14 true)] = true := by decide

/-- Encodings of R112. -/
theorem test_decode_system_2 : readAs [(0xA2A8, 0x0, .rdid 21),
    (0xA2A8, 0x1, .rdidPod 21),
    (0xA2A8, 0x2, .rdidCtx 21),
    (0xA2A8, 0x3, .rdidPos 21),
    (0xA2A9, 0x0, .rdstep 21),
    (0xA2AA, 0x9EA5, .waitSt 21 19 1701),
    (0xA2AB, 0x0, .rdcyc 21)] = true := by decide

/-- Encodings of R135, R139. -/
theorem test_decode_memory : readAs [(0x42AA, 0x457FFFC, .ld .w .acq .oct 21 10 0x7FFFC),
    (0x42AA, 0x3000002, .ldn .h .relaxed .lane 21 10 2),
    (0x46AA, 0x6B40008, .st .d .rel .sys 21 10 0x40008),
    (0x4AAA, 0x5555, .ldl .h 21 10 5461),
    (0x4AAA, 0xB555, .ldln .w 21 10 5461),
    (0x4EAA, 0xD555, .stl .d 21 10 5461)] = true := by decide

/-- Encodings of R140. -/
theorem test_decode_atomics : readAs [(0x52AA, 0x9877ABC8, .amoadd true .ar .die 21 10 19 0x1ABC8),
    (0x52AA, 0x98F7ABC8, .amoand true .ar .die 21 10 19 0x1ABC8),
    (0x52AA, 0x9977ABC8, .amoor true .ar .die 21 10 19 0x1ABC8),
    (0x52AA, 0x99F7ABC8, .amoxor true .ar .die 21 10 19 0x1ABC8),
    (0x52AA, 0x9A77ABC8, .amomin true .ar .die 21 10 19 0x1ABC8),
    (0x52AA, 0x9AF7ABC8, .amomax true .ar .die 21 10 19 0x1ABC8),
    (0x52AA, 0x9B77ABC8, .amominn true .ar .die 21 10 19 0x1ABC8),
    (0x52AA, 0x9BF7ABC8, .amomaxn true .ar .die 21 10 19 0x1ABC8),
    (0x52AA, 0x9C77ABC8, .amoswap true .ar .die 21 10 19 0x1ABC8),
    (0x52AA, 0x9CF7ABC8, .amocas true .ar .die 21 10 19 0x1ABC8),
    (0x52AA, 0x9D000004, .famoadd .relaxed .lane 21 10 19 4)] = true := by decide

/-- Encodings of R143. -/
theorem test_decode_fences_and_cache : readAs [(0x5400, 0x18, .fence .sys),
    (0x5400, 0x28, .fenceAcq .oct),
    (0x5400, 0x44, .fenceRel .core),
    (0x5400, 0x80, .lbfence),
    (0x540A, 0x120, .pref .sl 10),
    (0x540A, 0x180, .cwb 10),
    (0x540A, 0x200, .cinv 10),
    (0x540A, 0x280, .cwbinv 10),
    (0x56AA, 0x300, .pinl 21 10),
    (0x540A, 0x380, .unpinl 10)] = true := by decide

/-- Encodings of R148. -/
theorem test_decode_wells : readAs [(0x580A, 0x5C, .give 5 10 6),
    (0x5AA0, 0xD0, .wstat 21 5),
    (0x5800, 0x150, .wwait 5),
    (0x5AAA, 0x1D0, .wmap 21 5 10),
    (0x5AA0, 0x250, .wunmap 21 5),
    (0x580A, 0x2D0, .expect 5 10),
    (0x5AAA, 0x350, .tagrd 21 5 10)] = true := by decide

/-- Encodings of R157. -/
theorem test_decode_exchange : readAs [(0x5EA0, 0x800000, .xbar .pkg 21),
    (0x5C0A, 0x99003FFF, .xsend 16383 10 19),
    (0x5C00, 0x9A12012C, .xsendr .max .f32 300 19),
    (0x5C0A, 0x300004D, .xrecv 77 10),
    (0x5EA0, 0x4400000, .xend .oct 21)] = true := by decide

/-- Encodings of R164. -/
theorem test_decode_messages : readAs [(0x62AA, 0x995F0000, .qsend .pod 31 21 10 19),
    (0x62A0, 0x9A000000, .qrecv 21 19),
    (0x62A0, 0x4000000, .qpoll 21)] = true := by decide

/-- Encodings of R169, R176. -/
theorem test_decode_barriers_and_rings : readAs [(0x96A0, 0xA3, .bar .pod 21 3),
    (0x96A0, 0x145, .bara .oct 21 5),
    (0x96A0, 0x26E, .barw .die 21 14),
    (0x96A0, 0x365, .tokw .die 21 5),
    (0x96A0, 0x467, .tokp .die 21 7),
    (0x96A0, 0x5A0, .wit .pod 21),
    (0x96A0, 0x591, .witTok .pkg 21 1),
    (0x96A0, 0x688, .dstat .pkg 21 8),
    (0x9AA1, 0x48CABCD, .bil .nt .pkg (some 1) 21 0x4ABCD)] = true := by decide

/-- Encodings of R177. -/
theorem test_decode_engines : readAs [(0x66AA, 0x9880BEEF0000, .cpy (some 0xBEEF) 21 10 19),
    (0x66A0, 0x10000000000, .cpyw 21),
    (0x66AA, 0x9A3600000000, .coll .min .bf .die none 21 10 19),
    (0x66A0, 0x30000000000, .collw 21)] = true := by decide

/-- Encodings of R193. -/
theorem test_decode_vector_arithmetic : readAs [(0xC126, 0x6843, .vadd .e2 9 6 13 3),
    (0xC126, 0x68BB, .vsub .e5 9 6 13 3),
    (0xC126, 0x6933, .vmul .e4 9 6 13 3),
    (0xC126, 0x69AB, .vmin .f16 9 6 13 3),
    (0xC126, 0x6A1B, .vmax .f32 9 6 13 3),
    (0xC126, 0x6A8B, .vand .h 9 6 13 3),
    (0xC126, 0x6B0B, .vor .h 9 6 13 3),
    (0xC126, 0x6B8B, .vxor .h 9 6 13 3),
    (0xC126, 0x6C0B, .vshl .h 9 6 13 3),
    (0xC126, 0x6C8B, .vshrl .h 9 6 13 3),
    (0xC126, 0x6D0B, .vshra .h 9 6 13 3),
    (0xC126, 0x5A3, .vabs .bf 9 6 3),
    (0xC126, 0x613, .vneg .w 9 6 3)] = true := by decide

/-- Encodings of R194. -/
theorem test_decode_vector_three_operand : readAs [(0xC526, 0x6AC1400C, .vfma .f16 9 6 13 11 3),
    (0xC526, 0x2C60EEC, .vcvt .e2 .f32 .sr 7 9 6 11 3),
    (0xC4A6, 0x6808800C, .vseq .w 5 6 13 3),
    (0xC4A6, 0x680CC00C, .vslt .f32 5 6 13 3),
    (0xC4A6, 0x6810800C, .vsle .w 5 6 13 3),
    (0xC526, 0x69540000, .vsel 9 6 13 5),
    (0xC52A, 0x18400C, .vbcast .h 9 10 3),
    (0xC6A6, 0x981C0000, .vext 21 6 19),
    (0xC526, 0x6820000C, .vperm 9 6 13 3)] = true := by decide

/-- Encodings of R199. -/
theorem test_decode_vector_memory : readAs [(0xC92A, 0x9D1234, .vld 9 10 0x51234 3),
    (0xC92A, 0x19D1234, .vst 9 10 0x51234 3),
    (0xC92A, 0x29D1234, .vldl 9 10 0x51234 3),
    (0xC92A, 0x39D1234, .vstl 9 10 0x51234 3),
    (0xC92A, 0x9C5D1234, .vlds .h 9 10 19 0x51234 3),
    (0xC92A, 0x6D1D1234, .vgath .b 9 10 13 0x51234 3),
    (0xC92A, 0x6E9D1234, .vscat .w 9 10 13 0x51234 3)] = true := by decide

/-- Encodings of R203, R205. -/
theorem test_decode_vector_reductions_and_masks : readAs [(0xCEA6, 0x36, .vredadd .f32 21 6 3),
    (0xCEA6, 0x126, .vredmax .w 21 6 3),
    (0xCEA6, 0x236, .vredmin .f32 21 6 3),
    (0xCEA6, 0x9B56, .vmaxi .f16 21 6 19 3),
    (0xCEA6, 0x9C46, .vmini .bf 21 6 19 3),
    (0xD0A2, 0x3000, .mand 5 2 6),
    (0xD0A2, 0x3001, .mor 5 2 6),
    (0xD0A2, 0x3002, .mxor 5 2 6),
    (0xD0A2, 0x3, .mnot 5 2),
    (0xD2A2, 0x4, .mpopc 21 2),
    (0xD2A2, 0x5, .mfirst 21 2),
    (0xD0AA, 0x6, .mset 5 10),
    (0xD0A2, 0x7, .mmov 5 2),
    (0xD2A2, 0x8, .mmovG 21 2)] = true := by decide

/-- Encodings of R187, R206. -/
theorem test_decode_lanes_and_polynomials : readAs [(0xD6A0, 0x8, .vclaim 21 8),
    (0xD400, 0x100, .vyield),
    (0xD6A0, 0x200, .vlen 21),
    (0xD80A, 0x0, .ppld 10),
    (0xD800, 0x180, .ppsel 8),
    (0xD926, 0x258, .ppev .bf 9 6 3)] = true := by decide

/-- Encodings of R212, R215. -/
theorem test_decode_matrix : readAs [(0xDD4A, 0x9CC00080, .mma .e2 (some 0x8001) 10 10 19),
    (0xE140, 0x0, .mzero 10),
    (0xE00A, 0x180, .mldb .quarter 10),
    (0xE000, 0x2CD, .mring (some 77)),
    (0xE140, 0x300, .mchk 10),
    (0xE14A, 0x400, .mst false 10 10),
    (0xE000, 0x502, .mmir .force),
    (0xE2A0, 0x600, .mwait 21),
    (0xE2A0, 0x700, .mqstat 21)] = true := by decide
/-! ### States for the witnesses -/

/-- A line of thirty heads, all zero but the control word. -/
def lineT : Line := List.replicate 62 0 ++ [30, 0]
/-- Core 0, context 0 with its PC queue in one line, changed by f. -/
def ctxT (f : Ctx → Ctx) : State :=
  let q (n : Nat) : QEnt := { addr := 0x100000040000 + w64 (2 * n), line := .ok lineT }
  State.reset.modMe (fun x => f { x with st := .live, q0 := q 0, q1 := q 1, q2 := q 2 })
/-- The same, with general registers given. -/
def regT (g : SMap Word) : State := ctxT (fun x => { x with g := g })
/-- Core 0 changed by f. -/
def coreT (f : Core → Core) : State := (ctxT id).modHere f
/-- An entry of the vector queue with VLEN 8. -/
def vT (i : Instr) (ops : List Word) (mask : Word) : VEntry := { instr := i, vlen := 8, ops := ops, mask := mask }
/-- The same state with nothing changed. -/
def sT : State := ctxT id


/-! ### Single steps against the spec's rules and its worked examples -/

/-- The register a after an instruction runs in core 0's context 0. -/
def regAfter (i : Instr) (s : State) (a : GReg) : Option Word := match exec i s with | .next t => some (t.g a) | _ => none

/-- R90, R91: sums wrap at 64 bits, and ADDW sign-extends bit 31. -/
theorem test_add_wraps : regAfter (.add 1 1 2) (regT [(1, 0xFFFFFFFFFFFFFFFF), (2, 2)]) 1 = some 1
    ∧ regAfter (.addw 3 1 2) (regT [(1, 0x7FFFFFFF), (2, 1)]) 3 = some 0xFFFFFFFF80000000
    ∧ regAfter (.addi 3 1 0x800000) (regT [(1, 1)]) 3 = some 0xFFFFFFFFFF800001 := by decide

/-- R47, R90: a quotient is cut toward zero, and division by 0 and of the least number by −1 have results. -/
theorem test_divide : regAfter (.div 3 1 2) (regT [(1, -7), (2, 2)]) 3 = some (-3) ∧ regAfter (.rem 3 1 2) (regT [(1, -7), (2, 2)]) 3 = some (-1)
    ∧ regAfter (.div 3 1 2) (regT [(1, 0x8000000000000000), (2, -1)]) 3 = some 0x8000000000000000
    ∧ regAfter (.remn 3 1 2) (regT [(1, 7), (2, 0)]) 3 = some 7 := by decide

/-- R48: shifts by 64 or more. -/
theorem test_wide_shifts : regAfter (.shl 3 1 2) (regT [(1, -1), (2, 64)]) 3 = some 0 ∧ regAfter (.shra 3 1 2) (regT [(1, -1), (2, 64)]) 3 = some (-1)
    ∧ regAfter (.rot 3 1 2) (regT [(1, 0x8000000000000001), (2, 65)]) 3 = some 3 := by decide

/-- R94: BFI keeps the other bits of a, which it also reads. -/
theorem test_bfi : regAfter (.bfi 1 2 8 7) (regT [(1, -1), (2, 0x12)]) 1 = some 0xFFFFFFFFFFFF12FF
    ∧ regAfter (.bfxS 3 1 4 3) (regT [(1, 0x90)]) 3 = some (-7) := by decide

/-- R95: LEA stays within its object. -/
theorem test_lea : regAfter (.lea 3 1 2 1 0) (regT [(1, 0x42FFFFFFFFF8), (2, 8)]) 3 = some 0x420000000008 := by decide

/-- R14: g0 takes no value. -/
theorem test_zero_register : regAfter (.movi 0 5) sT 0 = some 0 := by decide

/-- R97, R98: 1 + 1 in FP32, and the sign of −0 as FADD and FNEG leave it. -/
theorem test_float : regAfter (.fadd .f32 3 1 1) (regT [(1, 0x3F800000)]) 3 = some 0x40000000
    ∧ regAfter (.fneg .f32 3 1) (regT [(1, 0xFFFFFFFF00000000)]) 3 = some 0x80000000 := by decide

/-- R100 (the worked example of spec/05): BNE.NN taken; both slots stay, and Q2 is line T. -/
theorem test_branch :
    let q (a : Word) : QEnt := { addr := a, line := .ok lineT }
    let s := ctxT (fun x => { x with g := [(5, 1), (6, 2)], q0 := q 0x420000001004, q1 := q 0x420000001006, q2 := q 0x420000001040 })
    (match exec (.bne .nn 5 6 128) s with
    | .next t => t.me.q0.addr == 0x420000001006 && t.me.q1.addr == 0x420000001040 && t.me.q2.addr == 0x420000003000
        && !t.me.q0.annul && !t.me.q1.annul
    | _ => false) = true := by decide

/-- R126 (the worked example of spec/05): what the interrupt saves, Q2 being unformed. -/
theorem test_interrupt_saves :
    let q (a : Word) : QEnt := { addr := a, line := .ok (List.replicate 62 0 ++ [64 + 3, 0]) }
    let s := ctxT (fun x => { x with cstat := 0x11, q0 := q 0x420000001040, q1 := q 0x420000003000, q2 := {} })
    (match exec (.trapEntry 0 0 0x30 0) s with
    | .next t => t.me.epcq0 == 0x420000001040 && t.me.epcq1 == 0x420000003000 && t.me.epcq2 == 0 && t.me.ecause == 0x30
        && t.me.esig == 0x1FFFF
    | _ => false) = true := by decide

/-- R51 (the worked group of spec/02): 16,777,216 and 14.25 round to 0x4B800007. -/
theorem test_worked_group :
    let a := (mmaVals .e2 [0x12, 0xC7, 0x30, 0x95]).map (fun v => fMul (fMul v (decE3M5 0x60)) (dec .bf 0x3F80))
    let b := (mmaVals .e2 [0x22, 0x22, 0x22, 0x22]).map (fun v => fMul (fMul v (decE3M5 0x50)) (dec .bf 0x4000))
    (({ el := [(0, 0x4B800000)] } : Tile).step false 0 0 (groupSum a b 0)).at 0 0 = 0x4B800007 := by decide

/-- R403 (the worked negotiation of spec/21): versions 1 to 2 and features 0x1F give version 2 and 0x1F. -/
theorem test_attach : (match exec (.attach { conn := 1 } 1 2 0x1F 0 1) State.reset with
    | .next t => t.conns == [{ id := 1, ver := 2, feat := 0x1F, tele := 2 }] | _ => false) = true := by decide

/-- R19, R143: a store and a load of TCM, least significant byte first. -/
theorem test_store_load : (match exec (.stl .w 1 2 0) (regT [(1, 0x80000001), (2, 0x100)]) with
    | .next t => (t.localByte 0 0x100, t.localByte 0 0x103) == (1, 0x80) && regAfter (.ldl .w 3 2 0) t 3 == some 0xFFFFFFFF80000001
        && regAfter (.ldln .b 3 2 3) t 3 == some 0x80
    | _ => false) = true := by decide

/-! ### Witnesses: states and operands that meet the hypotheses of the statements -/

theorem witness_IntegerResults :
    sT.me.eret ≠ 1 ∧ intResult (.add 3 1 2) sT.g = some (3, 0) ∧ intResult (.addi 0 1 0x7FFFFF) sT.g = some (0, 0x7FFFFF) := by decide

theorem witness_RegisterFormsStoreNothing :
    sT.me.eret ≠ 1 ∧ sT.me.inLine = true ∧ intResult (.movi 31 0x800000000000) sT.g = some (31, 0xFFFF800000000000)
      ∧ signResult (.fneg .f32 3 0) sT.g = some (3, 0x80000000) ∧ lateResult (.mul 3 1 2) sT.g = some (3, 0, 3) := by decide

theorem witness_LateAndFloatResults :
    sT.me.eret ≠ 1 ∧ lateResult (.div 3 1 2) sT.g = some (3, BitVec.allOnes 64, 4) ∧ signResult (.fclass .bf 0 1) sT.g = some (0, 16)
      ∧ (1 ≤ 36 ∧ 36 ≤ 36 ∧ (3 : GReg) ≠ 0) := by decide

theorem witness_BranchesAndLinks :
    let u := ctxT (fun x => { x with q1 := { addr := 0x100000040040, line := .bad 2 }, q2 := {} })
    sT.me.eret = 0 ∧ sT.me.q0.annul = false ∧ branchOf (.bne .nt 1 2 5) sT = some (false, 0x100000040140, .nt)
      ∧ branchOf (.jr .nn 0) sT = some (true, 0, .nn) ∧ sT.me.q2.line ≠ .unformed
      ∧ u.me.eret = 0 ∧ u.me.q2.line = .unformed ∧ u.me.q1.line = .bad 2 ∧ 2 ≠ 3
      ∧ branchOf (.b .plain 0xFFFF) (ctxT (fun x => { x with eret := 2 })) = some (true, 0x10000003FFC0, .plain)
      ∧ (ctxT (fun x => { x with eret := 2 })).me.eret ≠ 0 := by decide

theorem witness_TrapEntrySavesAndEnters :
    sT.boundaryReady = true ∧ sT.me.intrap = false ∧ sT.here.evecDefault = false := by decide

theorem witness_DoubleTrap :
    let s := ctxT (fun x => { x with cstat := 1#64 ||| 4 })
    let h := (State.reset.at_ 0 10).modMe (fun x => { x with cstat := 1#64 ||| 4 })
    s.boundaryReady = true ∧ s.me.intrap = true ∧ s.ctx = 0 ∧ h.boundaryReady = true ∧ h.me.intrap = true ∧ h.ctx ≠ 0 := by decide

/-- The last of the three heads of a line with SIGEN at Q0, and the next line behind it. -/
def lastT : State :=
  ctxT (fun x => { x with q0 := { addr := 0x100000040004, line := .ok (List.replicate 62 0 ++ [64 + 3, 0]) },
                          q1 := { addr := 0x100000040040, line := .ok lineT }, q2 := { addr := 0x100000040042, line := .ok lineT } })

set_option maxRecDepth 20000 in
theorem witness_TrapInstructionAndEvents :
    let w := coreT (fun x => { x with vec := { x.vec with queue := [vT .vyield [] 0] } })
    sT.boundaryReady = true ∧ sT.me.intrap = false ∧ sT.here.evecDefault = false ∧ sT.me.eret ≠ 1 ∧ sT.retire.me.sigFault = none
      ∧ lastT.boundaryReady = true ∧ lastT.me.eret ≠ 1 ∧ lastT.retire.me.sigFault ≠ none ∧ w.boundaryReady = false
      ∧ (sT.at_ 0 10).boundaryReady = true ∧ (sT.ctxAt 0 10).intrap = false
      ∧ bits (0x60030 : Word) 7 0 = 0x30 ∧ (0 : Nat) = 0 := by decide

theorem witness_ReturnFromException :
    let r := ctxT (fun x => { x with eret := 1, epcq1 := 0x100000040002, epcq2 := 0x100000040005 })
    sT.me.priv = true ∧ sT.me.eret = 0 ∧ sT.me.q0.annul = false ∧ r.me.eret = 1 ∧ r.me.eret ≠ 0
      ∧ r.me.epcq1 &&& ~~~(1#64) ≠ 0 ∧ r.me.epcq2 &&& ~~~(1#64) ≠ 0 := by decide

theorem witness_PrivilegedFunctions :
    let s := ctxT (fun x => { x with cstat := 0 })
    s.me.priv = false ∧ sysAcc 0x001 = some .priv ∧ sysAcc 0x014 = some .priv := by decide

theorem witness_SystemRegisterAccess :
    let u := ctxT (fun x => { x with cstat := 0 })
    sT.me.eret ≠ 1 ∧ sT.mayAccess 0x000 = true ∧ u.mayAccess 0x010 = true ∧ sT.badWrite 0 0x007 (sT.g 3) = false
      ∧ sysAcc 0x010 = some .ro ∧ u.mayAccess 0x001 = false ∧ sT.mayAccess 0x7FF = false := by decide

theorem witness_IdentitiesAndWaitForStep :
    let s := ctxT (fun x => { x with wait := some (.waitSt 3 0 0), aux := 0 })
    sT.me.eret ≠ 1 ∧ (sT.here.taskstep + sT.g 0 + (0 : BitVec 11).setWidth 64).toNat ≤ (sT.stepOf sT.core).toNat
      ∧ (sT.stepOf sT.core).toNat < (sT.here.taskstep + sT.g 0 + (2047 : BitVec 11).setWidth 64).toNat
      ∧ (s.ctxAt 0 0).wait = some (.waitSt 3 0 0) ∧ (s.ctxAt 0 0).eret ≠ 1 ∧ (s.ctxAt 0 0).aux.toNat ≤ (s.stepOf 0).toNat := by decide

theorem witness_EventWaitsAndPark :
    let s := ctxT (fun x => { x with latch := 64, wait := some (.wfe 3) })
    let p := (ctxT (fun x => { x with wait := some .park })).modHere (fun x => { x with ipend := 64 })
    s.me.eret ≠ 1 ∧ s.me.latch ≠ 0 ∧ sT.me.latch = 0 ∧ (s.ctxAt 0 0).wait = some (.wfe 3)
      ∧ sT.me.priv = true ∧ sT.ctx = 0 ∧ sT.here.helpersIdle = true ∧ sT.here.vec.queue = [] ∧ sT.here.mat.queue = []
      ∧ sT.here.ipend = 0 ∧ (coreT (fun x => { x with ipend := 1 })).here.ipend ≠ 0
      ∧ (sT.at_ 0 10).ctx ≠ 0 ∧ (sT.at_ 0 10).me.priv = true
      ∧ (p.ctxAt 0 0).wait = some .park ∧ (p.ctxAt 0 0).eret ≠ 1 ∧ (p.coreAt 0).vec.queue = [] ∧ (p.coreAt 0).mat.queue = []
      ∧ (p.coreAt 0).ipend ≠ 0 := by decide

/-- An object of one page backed by HBM. -/
def objT : Obj := { size := 1, die := 0, dom := 0, ext := [⟨0, 1, .normal, false, 5, 0, 0⟩] }
/-- An object of one page that is absent. -/
def absT : Obj := { size := 1, die := 0, dom := 0, ext := [⟨0, 1, .normal, true, 0, 0, 0⟩] }
/-- A counter window of one page, of CID 7. -/
def winT : Obj := { size := 1, die := 0, dom := 0, owncid := 7, ext := [⟨0, 1, .device, false, 0, 0, 2⟩] }
/-- The state with those objects, numbers 9, 8 and 7. -/
def memT (g : SMap Word) : State := { regT g with objs := [(7, winT), (8, absT), (9, objT)] }
/-- The same with a line of object 9 resident at its home, its words poisoned or not. -/
def lineS (g : SMap Word) (poison : List Nat) : State :=
  match (memT g).homeOf 9 0 with
  | some h => (memT g).modDie h.die (fun d =>
      { d with slices := [(h.slot, { sets := [(h.set, [{ key := h.key, way := 0, valid := 0xFF, ecc := { poison := poison } }])] })] })
  | none => memT g

set_option maxRecDepth 20000 in
theorem witness_InjectErrors :
    let s := (regT [(1, 0x2FFF8)]).modHere (fun x => { x with mat := { x.mat with accmap := 0x100 } })
    let p := s.modHere (fun x => { x with loc := { x.loc with ecc := { poison := [0x5FFF] } } })
    let w := ((regT [(1, 0x4FFF8)]).modHere (fun x => { x with loc := { x.loc with bank := [(0, mkBank 0 0 2)] } }))
    let m := lineS [(1, 9 * 2 ^ 40 + 0xF8), (2, 9 * 2 ^ 40 + 0xFFF8), (3, 9 * 2 ^ 40 + 0x10000)] []
    s.me.priv = true ∧ s.me.eret ≠ 1 ∧ s.ctx = 0 ∧ s.here.mat.accmap.getLsbD (bits (s.g 1) 3 0) = true ∧ s.here.matRoom = true
      ∧ sT.here.mat.accmap.getLsbD (bits (sT.g 1) 3 0) = false ∧ (sT.at_ 0 10).ctx ≠ 0
      ∧ (s.g 1).toNat < 0x30000 ∧ (s.g 1).toNat % 8 = 0 ∧ s.here.loc.ecc.badWord ((s.g 1).toNat / 8) = false
      ∧ p.here.loc.ecc.badWord ((p.g 1).toNat / 8) = true
      ∧ 0x30000 ≤ (w.g 1).toNat ∧ w.checkLocal w.core (w.g 1).toNat 8 8 false = none
      ∧ (w.well w.core (bankWell (w.here.bankmap ((w.g 1).toNat / 0x10000 - 4)))).ecc.badWord ((w.g 1).toNat % 0x10000 / 8) = false
      ∧ (sT.checkLocal sT.core 0x30000 8 8 false).isSome = true ∧ (m.checkGlobal m.core m.cid (m.g 3) 8).isSome = true
      ∧ m.checkGlobal m.core m.cid (m.g 1) 8 = none ∧ m.checkGlobal m.core m.cid (m.g 2) 8 = none
      ∧ (match m.homeOf (idOf (m.g 1)) (offOf (m.g 1)) with
         | some h => (match ((m.die h.die).slice h.slot).find h.set h.key with
           | some l => l.valid.getLsbD (offOf (m.g 1) % 256 / 32) | none => false)
         | none => false) = true
      ∧ (match m.homeOf (idOf (m.g 2)) (offOf (m.g 2)) with
         | some h => (((m.die h.die).slice h.slot).find h.set h.key).isNone && !m.mustWait h
         | none => false) = true
      ∧ s.me.inLine = true ∧ s.me.q1.addr = s.me.q0.addr + 2 ∧ s.me.q0.line = .ok lineT
      ∧ headIdx s.me.q0.addr + 1 < lineH lineT := by decide

/-- The same, its page STRONG. -/
def strongS (g : SMap Word) : State :=
  { lineS g [] with objs := [(9, { objT with ext := [⟨0, 1, .strong, false, 5, 0, 0⟩] })] }

/-- Whether the home of an address holds its sector. -/
def atHomeB (s : State) (a : Word) : Bool :=
  match s.homeOf (idOf a) (offOf a) with
  | none => false
  | some h =>
    match ((s.die h.die).slice h.slot).find h.set h.key with
    | none => false
    | some l => !(s.die h.die).named && h.ext.back == 0 && h.ext.ty != .device && s.snaps.all (fun n => n.obj != idOf a)
        && l.valid.getLsbD (offOf a % 256 / 32) && l.ecc == {} && !l.tagged
        && (((s.die h.die).slice h.slot).lines h.set).all (fun m => (m.key == h.key) == (m.way == l.way))

theorem atHome_of_check (s : State) (a : Word) (h : atHomeB s a = true) : ∃ h l, s.atHome a h l := by
  unfold atHomeB at h
  split at h
  · cases h
  · rename_i m hm
    split at h
    · cases h
    · rename_i l hl
      simp only [Bool.and_eq_true, Bool.not_eq_true', beq_iff_eq, bne_iff_ne, List.all_eq_true, ne_eq] at h
      obtain ⟨⟨⟨⟨⟨⟨⟨h1, h2⟩, h3⟩, h4⟩, h5⟩, h6⟩, h7⟩, h8⟩ := h
      refine ⟨m, l, hm, h1, h2, h3, h4, hl, h5, h6, h7, fun x hx => ?_⟩
      have e := h8 x hx
      by_cases hk : x.key = m.key <;> by_cases hw : x.way = l.way <;> simp_all

/-- A core with empty queues and an empty buffer has nothing to release. -/
theorem drained_of_empty (s : State) (h1 : s.here.cache.cbuf = []) (h2 : s.here.vec.queue = []) (h3 : s.here.mat.queue = []) :
    s.drained := by
  simp [State.drained, h1, Core.vecRanges, Core.matRanges, h2, h3, Core.vecPending]

/-- The bytes of an answer. -/
def bytesOf (r : State × Ans) : Option (List Byte) := match r.2 with | .ok bs => some bs | _ => none

set_option maxRecDepth 20000 in
theorem witness_HelperContexts :
    let s := (regT [(1, 10), (2, 1), (4, 11)]).modCtx 0 1 (fun x => { x with st := .exited })
    let l := (regT [(1, 10)]).modCtx 0 10 (fun x => { x with st := .live })
    let w := (ctxT (fun x => { x with g := [(2, 1)], wait := some (.hjoin 3 2) })).modCtx 0 1 (fun x => { x with st := .exited })
    let m := { (memT []).modHere (fun x => { x with run := { x.run with node := some 4 } }) with
      sched := { sT.sched with nodes := [(4, { rec_ := { status := 9 * 2 ^ 40, lcores := 1 } })] } }
    s.ctx = 0 ∧ s.me.eret ≠ 1 ∧ (s.g 0).toNat < 1 ∧ 10 < (s.g 4).toNat ∧ 1 ≤ (s.g 1).toNat ∧ (s.g 1).toNat ≤ 10
      ∧ (s.ctxAt s.core (s.g 1).toNat).st = .idle ∧ s.here.cache.cbuf = [] ∧ s.here.vec.queue = [] ∧ s.here.mat.queue = []
      ∧ (s.ctxAt s.core (s.g 2).toNat).st = .exited ∧ (s.ctxAt s.core (s.g 2).toNat).st ≠ .idle
      ∧ (l.ctxAt l.core (l.g 1).toNat).st = .live
      ∧ w.me.wait = some (.hjoin 3 2) ∧ (w.ctxAt w.core (w.g 2).toNat).st = .exited
      ∧ sT.here.helpersIdle = true ∧ sT.here.quiet = true ∧ sT.statusAddr = none ∧ l.here.helpersIdle = false
      ∧ (coreT (fun x => { x with engs := [{ id := 1, ctx := 0, copy := true, dst := 0, src := 0, len := 8 }] })).here.quiet = false
      ∧ m.here.helpersIdle = true ∧ m.here.quiet = true ∧ m.statusAddr = some (9 * 2 ^ 40)
      ∧ (bytesOf (m.rawWrite m.core (9 * 2 ^ 40) (leBytes 8 (m.g 0).toNat) m.cid)).isSome = true
      ∧ (sT.at_ 0 3).ctx ≠ 0 := by decide

theorem witness_LocalLoads :
    let s := regT [(1, 0x2FFF0)]
    let p := s.modHere (fun x => { x with loc := { x.loc with ecc := { poison := [0x5FFF] } } })
    s.me.eret ≠ 1 ∧ s.localAddr 1 8 = 0x2FFF8 ∧ s.checkLocal s.core 0x2FFF8 8 8 false = none
      ∧ (s.localRead s.core 0x2FFF8 8).2.2 = none ∧ 0x2FFF8 + sizeBytes .d ≤ 0x30000 ∧ s.here.loc.ecc = {}
      ∧ p.checkLocal p.core 0x2FFF8 8 8 false = none ∧ (p.localRead p.core 0x2FFF8 8).2.2 ≠ none := by decide

theorem witness_LocalStore :
    let s := regT [(1, 0x2FFFF), (2, 0x1FF)]
    let w := (regT [(1, 0x4FFF8)]).modHere (fun x => { x with loc := { x.loc with bank := [(0, mkBank 0 0 2)] } })
    s.me.eret ≠ 1 ∧ s.me.inLine = true ∧ s.localAddr 1 0 + sizeBytes .b ≤ 0x30000 ∧ s.localAddr 1 0 % sizeBytes .b = 0
      ∧ s.here.loc.ecc = {} ∧ w.me.inLine = true ∧ 0x40000 ≤ w.localAddr 1 0 ∧ w.checkLocal w.core (w.localAddr 1 0) 8 8 true = none
      ∧ (w.well w.core (bankWell (w.here.bankmap (w.localAddr 1 0 / 0x10000 - 4)))).ecc = {} := by decide

theorem witness_LocalStoreThenLoad :
    let s := regT [(1, 0x100), (2, 0xFC)]
    s.me.eret = 0 ∧ s.me.inLine = true ∧ s.localAddr 1 0 = s.localAddr 2 4 ∧ s.localAddr 1 0 + sizeBytes .w ≤ 0x30000
      ∧ s.localAddr 1 0 % sizeBytes .w = 0 ∧ s.here.loc.ecc = {} := by decide

theorem witness_AccessFaults :
    let s := memT [(1, 1), (2, 0x100000), (3, 9 * 2 ^ 40 + 0xFFFC), (4, 9 * 2 ^ 40 + 0x10000), (5, 0x30000), (6, w64 (aliasId * 2 ^ 40 + 30720 * 2 ^ 20)),
      (7, 6 * 2 ^ 40)]
    let r := (regT [(1, 0xB0000)]).modHere (fun x => { x with loc := { x.loc with bank := [(7, mkBank 0 3 3)] } })
    let t := (regT [(1, 0x40000)]).modHere (fun x =>
      { x with loc := { x.loc with bank := [(0, mkBank 0 0 3)], armed := 1, expTag := [(0, 7)] } })
    s.localAddr 1 0 % sizeBytes .h ≠ 0 ∧ s.localAddr 2 0 % sizeBytes .b = 0 ∧ 2 ^ 20 ≤ s.localAddr 2 0
      ∧ s.localAddr 5 0 % sizeBytes .b = 0 ∧ (s.here.checkRegion (s.localAddr 5 0) 1).isSome = true
      ∧ r.localAddr 1 0 % sizeBytes .d = 0 ∧ r.here.checkRegion (r.localAddr 1 0) 8 = none ∧ (r.here.checkRing (r.localAddr 1 0) 8).isSome = true
      ∧ t.localAddr 1 0 % sizeBytes .d = 0 ∧ t.here.checkRegion (t.localAddr 1 0) 8 = none ∧ (t.checkTags t.core (t.localAddr 1 0) 8).isSome = true
      ∧ (accOf (.ld .d .relaxed .lane 5 3 0)).isSome = true ∧ (eaOf (s.g 3) 0).toNat % 8 ≠ 0
      ∧ (eaOf (s.g 0) 0).toNat % 8 = 0 ∧ idOf (s.g 0) = 0
      ∧ (s.g 7).toNat % 8 = 0 ∧ idOf (s.g 7) ≠ aliasId ∧ s.bounds s.core (idOf (s.g 7)) = none
      ∧ (s.g 4).toNat % 8 = 0 ∧ idOf (s.g 4) ≠ aliasId ∧ s.bounds s.core (idOf (s.g 4)) = some (objT.bounds 9)
      ∧ (objT.bounds 9).size * 65536 < offOf (s.g 4) + 8
      ∧ (s.g 6).toNat % 8 = 0 ∧ idOf (s.g 6) = aliasId ∧ coreCount * 2 ^ 20 < offOf (s.g 6) + 8 := by decide

set_option maxRecDepth 20000 in
theorem witness_GlobalAccesses :
    let s := memT [(1, 9 * 2 ^ 40 + 0xFFF8), (2, 0x1122334455667788), (3, 8 * 2 ^ 40)]
    let v := s.obbUse s.core 9
    let w := s.obbUse s.core 8
    let p := lineS [(1, 9 * 2 ^ 40 + 0xF8)] [31]
    let q := p.obbUse p.core 9
    s.checkGlobal s.core s.cid (s.g 1) 8 = none ∧ v.behindVector (s.g 1).toNat 8 = false ∧ v.windowOf (s.g 1) = none ∧ idOf (s.g 1) = 9
      ∧ v.here.cache.cbuf = [] ∧ v.here.vec.queue = [] ∧ v.here.mat.queue = []
      ∧ bytesOf (v.gLoad v.core v.ctx (s.g 1) 8 v.cid) = some [0, 0, 0, 0, 0, 0, 0, 0]
      ∧ (bytesOf (v.gStore v.core v.ctx (s.g 1) (leBytes 8 (v.g 2).toNat) v.cid)).isSome = true
      ∧ s.checkGlobal s.core s.cid (s.g 3) 8 = none ∧ w.behindVector (s.g 3).toNat 8 = false ∧ w.windowOf (s.g 3) = none ∧ idOf (s.g 3) = 8
      ∧ (w.gLoad w.core w.ctx (s.g 3) 8 w.cid).2 = .absent
      ∧ p.checkGlobal p.core p.cid (p.g 1) 8 = none ∧ q.behindVector (p.g 1).toNat 8 = false ∧ q.windowOf (p.g 1) = none ∧ idOf (p.g 1) = 9
      ∧ (q.gLoad q.core q.ctx (p.g 1) 8 q.cid).2 = .poison := by decide

set_option maxRecDepth 20000 in
theorem witness_GlobalAccessesAtHome :
    let s := strongS [(1, 9 * 2 ^ 40 + 0xF8), (2, 9 * 2 ^ 40 + 0x100)]
    let n := (memT [(1, 9 * 2 ^ 40 + 0xFFF8)]).modHere (fun x => { x with cache := { x.cache with
      lines := [{ addr := (9 * 2 ^ 40 + 0xFFF8) / 32, priv := false, data := List.replicate 32 1 }] } })
    atHomeB s (s.g 1) = true ∧ offOf (s.g 1) % 32 + (List.replicate 8 (0 : Byte)).length ≤ 32 ∧ askerDie 0 = 0
      ∧ s.me.eret = 0 ∧ s.me.inLine = true ∧ s.checkGlobal s.core s.cid (s.g 1) 8 = none ∧ s.windowOf (s.g 1) = none
      ∧ idOf (s.g 1) ≠ aliasId ∧ s.here.vec.queue = [] ∧ s.here.cache.cbuf = [] ∧ s.here.cache.lines = []
      ∧ (s.pageType (idOf (s.g 1)) (offOf (s.g 1))).1 = .strong ∧ eaOf (s.g 2) (-8) = s.g 1
      ∧ n.me.eret = 0 ∧ n.me.inLine = true ∧ n.checkGlobal n.core n.cid (n.g 1) 8 = none ∧ n.windowOf (n.g 1) = none
      ∧ n.here.vec.queue = [] ∧ n.here.cache.cbuf = []
      ∧ n.here.cache.lines.all (fun l => l.tagHurt.isNone && l.ecc == {} && l.data.length == 32) = true
      ∧ (n.pageType (idOf (n.g 1)) (offOf (n.g 1))).1 = .normal ∧ (n.here.l1Find ((n.g 1).toNat / 32)).isSome = true := by decide

set_option maxRecDepth 20000 in
theorem witness_AtomicResults :
    let s := memT [(1, 9 * 2 ^ 40 + 0xFFFC), (2, 7)]
    let v := s.obbUse s.core 9
    ((amoParts (.amoadd false .relaxed .lane 3 1 2 0)).map (fun p => p.2.1 == 4 && p.2.2.1 == .relaxed)) = some true
      ∧ s.checkGlobal s.core s.cid (s.g 1) 4 = none ∧ v.behindVector (s.g 1).toNat 4 = false ∧ v.windowOf (s.g 1) = none
      ∧ idOf (s.g 1) ≠ aliasId ∧ v.here.cache.cbuf = [] ∧ v.here.vec.queue = [] ∧ v.here.mat.queue = []
      ∧ bytesOf (v.gAtomic v.core v.ctx (s.g 1) 4 v.cid (amoBytesNew .add (v.g 2) (v.g 3))) = some [0, 0, 0, 0] := by decide

set_option maxRecDepth 20000 in
theorem witness_AtomicResultsAtHome :
    let s := lineS [(1, 9 * 2 ^ 40 + 0xFC), (2, 7)] []
    ((amoParts (.amocas false .ar .sys 3 1 2 0)).map (fun p => p.2.1 == 4)) = some true ∧ atHomeB s (s.g 1) = true
      ∧ s.me.eret = 0 ∧ s.me.inLine = true ∧ s.checkGlobal s.core s.cid (s.g 1) 4 = none ∧ s.windowOf (s.g 1) = none
      ∧ idOf (s.g 1) ≠ aliasId ∧ s.here.vec.queue = [] ∧ s.here.mat.queue = [] ∧ s.here.cache.cbuf = []
      ∧ s.here.cache.lines = [] := by decide

theorem witness_AliasAndCounterWindow :
    let i : Instr := .ldn .w .relaxed .lane 3 1 0
    let s := ctxT (fun x => { x with g := [(1, w64 (aliasId * 2 ^ 40 + 5 * 2 ^ 20 + 0x2FFFC))], wait := some i })
    let b := ctxT (fun x => { x with g := [(1, w64 (aliasId * 2 ^ 40 + 5 * 2 ^ 20 + 0x30000))], wait := some i })
    let n : State := { s with sched := { s.sched with nodes := [(4095, { rec_ := { cid := 7 }, st := .running })] } }
    let m := memT [(1, 7 * 2 ^ 40 + 0x7FF8)]
    let v := m.obbUse m.core 7
    s.checkGlobal s.core s.cid (s.g 1) 4 = none ∧ s.behindVector (s.g 1).toNat 4 = false ∧ idOf (s.g 1) = aliasId ∧ s.windowOf (s.g 1) = none
      ∧ s.here.cache.cbuf = [] ∧ s.here.vec.queue = [] ∧ s.here.mat.queue = []
      ∧ m.checkGlobal m.core m.cid (m.g 1) 8 = none ∧ m.checkGlobal m.core m.cid (m.g 1) 4 = none
      ∧ v.behindVector (m.g 1).toNat 8 = false ∧ v.windowOf (m.g 1) = some 7 ∧ v.here.cache.cbuf = []
      ∧ v.here.vec.queue = [] ∧ v.here.mat.queue = []
      ∧ (accOf (.ld .d .relaxed .lane 3 1 0)).map (fun m => m.n) = some 8 ∧ (accOf (.st .d .relaxed .lane 3 1 0)).map (fun m => m.kind) = some .store
      ∧ (accOf (.amoadd true .relaxed .lane 3 1 2 0)).map (fun m => (m.n, m.kind)) = some (8, .amo .add)
      ∧ (s.ctxAt 0 0).wait = some i ∧ (s.ctxAt 0 0).eret ≠ 1
      ∧ offOf (eaOf ((s.ctxAt 0 0).reg 1) 0) % 2 ^ 20 + sizeBytes .w ≤ 0x30000
      ∧ offOf (eaOf ((s.ctxAt 0 0).reg 1) 0) % 2 ^ 20 % sizeBytes .w = 0 ∧ (s.coreAt 5).loc.ecc = {} ∧ (s.ctxAt 0 0).inLine = true
      ∧ s.isHole 5 = false ∧ (b.portFault 5 (offOf (eaOf ((b.ctxAt 0 0).reg 1) 0) % 2 ^ 20) 4 false).isSome = true
      ∧ ((s.modDie 0 (fun d => { d with deadRouters := [0] })).portFault 5 0 4 false).isSome = true
      ∧ n.ownNode 7 4095 = true ∧ n.ownNode 8 4095 = false ∧ (n.ctxAt 0 0).wait = some i
      ∧ (accOf i).map (fun m => (m.o, m.n)) = some (.relaxed, 4) := by decide

set_option maxRecDepth 20000 in
theorem witness_FencesAndCacheOperations :
    let s := memT [(1, 9 * 2 ^ 40 + 0xFFE0), (2, w64 (aliasId * 2 ^ 40))]
    let u := s.obbUse s.core 9
    let d := s.modHere (fun x => { x with cache := { x.cache with
      lines := [{ addr := (9 * 2 ^ 40 + 0xFFE0) / 32, priv := true, dirty := true, data := List.replicate 32 1 }] } })
    let e := d.obbUse d.core 9
    let q := coreT (fun x => { x with vec := { x.vec with queue := [vT (.vst 4 1 0 0) [9 * 2 ^ 40] 0xFF] } })
    let v := coreT (fun x => { x with vec := { x.vec with queue := [vT (.vldl 4 1 0 0) [0x100] 0xFF] } })
    let w := (memT []).modHere (fun x => { x with cache := { x.cache with cbuf := [⟨0, 8 * 2 ^ 35, [(0, 1)], false, 0, 0, true⟩] } })
    s.me.eret ≠ 1 ∧ s.here.cache.cbuf = [] ∧ s.here.vec.queue = [] ∧ s.here.mat.queue = [] ∧ (q.release q.core q.ctx .oct).2 = false ∧ q.readsPending = true ∧ q.here.localPending = false
      ∧ (w.release w.core w.ctx .oct).2 = false ∧ w.readsPending = false ∧ s.readsPending = false ∧ v.here.localPending = true
      ∧ s.here.localPending = false
      ∧ (s.cacheCheck (s.g 0)).isSome = true ∧ s.cacheCheck (s.g 1) = none
      ∧ (∀ l ∈ u.here.cache.lines, l.addr = (u.g 1).toNat / 32 → l.dirty = false) ∧ idOf (s.g 1) ≠ aliasId
      ∧ d.cacheCheck (d.g 1) = none ∧ (e.here.cache.lines.find? (fun l => l.addr == (e.g 1).toNat / 32)).isSome = true
      ∧ (match e.here.cache.lines.find? (fun l => l.addr == (e.g 1).toNat / 32) with
         | some l => (bytesOf (e.l1WriteBack e.core l)).isSome | none => false) = true
      ∧ (bytesOf (u.homePin (idOf (s.g 1)) (offOf (s.g 1) / 256 * 256) u.cid)).isSome = true
      ∧ s.cacheCheck (s.g 2) = none ∧ idOf (s.g 2) = aliasId
      ∧ Scope.oct ≠ .lane ∧ Scope.oct ≠ .core ∧ ((coreT (fun x => { x with cache := { x.cache with epoch := 255 } })).here.cache.epoch + 1).toNat % 256 = 0 := by
  decide

/-- Core 0 with wells in slots 2 (owned) and 5 (incoming). -/
def wellT (g : SMap Word) : State :=
  (regT g).modHere (fun x => { x with loc := { x.loc with bank := [(2, mkBank 0 0 3), (5, mkBank 2 0 4)] } })

theorem witness_GiveAndWellWaits :
    let s := wellT [(1, 7)]
    let u := s.modCore 7 (fun x => { x with loc := { x.loc with bank := [(0, mkBank 0 0 9)] } })
    let w (i : Instr) : State := ctxT (fun x => { x with wait := some i })
    s.me.eret ≠ 1 ∧ (s.g 1).toNat ≤ 7 ∧ (s.g 1).toNat ≠ s.core % 8 ∧ bankMode (s.here.bankmap 2) = 0 ∧ bankV (s.here.bankmap 2) = true
      ∧ bankSt (s.here.bankmap 2) = 0 ∧ s.giveReady 2 7 0 = true ∧ u.giveReady 2 7 0 = false ∧ bankV (s.here.bankmap 5) = true
      ∧ bankSt (s.here.bankmap 5) = 2 ∧ bankSt (s.here.bankmap 2) ≠ 2 ∧ bankV (s.here.bankmap 7) = false
      ∧ ((w (.give 2 1 0)).ctxAt 0 0).wait = some (.give 2 1 0)
      ∧ ((w (.wwait 7)).ctxAt 0 0).wait = some (.wwait 7) ∧ ((w (.wunmap 3 7)).ctxAt 0 0).wait = some (.wunmap 3 7)
      ∧ ((w (.wunmap 3 7)).ctxAt 0 0).priv = true := by decide

theorem witness_WellStatusAndMapping :
    let s := wellT [(1, 31), (2, 256), (3, 0xFE), (4, 0xFF)]
    let b := s.modHere (fun x => { x with engs := [{ id := 1, ctx := 0, copy := true, dst := 0x60000, src := 0x100, len := 8 }] })
    s.me.eret ≠ 1 ∧ s.me.priv = true ∧ s.wmapCode 0 (s.g 1) = 0 ∧ s.wmapCode 0 (s.g 2) ≠ 0 ∧ s.here.slotBusy s.core 2 = false
      ∧ b.here.slotBusy b.core 2 = true ∧ bits (s.g 3) 7 0 ≠ 0xFF ∧ bits (s.g 4) 7 0 = 0xFF
      ∧ bankOpen (s.here.bankmap 2) = true ∧ bankOpen (s.here.bankmap 7) = false := by decide

/-- Core 0 as a member of unit 3 of its octet and of its exchange barrier, with its flags. -/
def unitT (f arrived : Bool) : State :=
  let m : Memb := { mb := true, f := f }
  (ctxT (fun x => { x with arrived := arrived })).modInst ⟨.oct, 0⟩ (fun d =>
    { d with units := [(3, { mask := [0], mem := [(0, m)] }), (31, { mask := [0], mem := [(0, m)] })] })

theorem witness_BarrierInstructions :
    let s := unitT false false
    let a := unitT false true
    let f := unitT true false
    let fa := unitT true true
    let fx := f.modInst ⟨.oct, 0⟩ (fun d => { d with units := [(3, { mask := [0], mem := [(0, { mb := true, f := true, x := true })] })] })
    s.here.cache.cbuf = [] ∧ s.here.vec.queue = [] ∧ s.here.mat.queue = [] ∧ s.here.toklost = false ∧ s.me.eret ≠ 1
      ∧ instOf .oct s.core = ⟨.oct, 0⟩
      ∧ (s.membAt ⟨.oct, 0⟩ 3 0).mb = true ∧ (s.membAt ⟨.oct, 0⟩ 3 0).f = false ∧ s.me.arrived = false ∧ s.me.inLine = true
      ∧ (a.membAt ⟨.oct, 0⟩ 3 0).f = false ∧ a.me.arrived = true ∧ (f.membAt ⟨.oct, 0⟩ 3 0).f = true
      ∧ (f.membAt ⟨.oct, 0⟩ 3 0).x = false ∧ f.me.arrived = false ∧ (fx.membAt ⟨.oct, 0⟩ 3 0).f = true
      ∧ (fx.membAt ⟨.oct, 0⟩ 3 0).x = true ∧ (fa.membAt ⟨.oct, 0⟩ 3 0).f = true ∧ fa.me.arrived = true
      ∧ (s.membAt ⟨.oct, 0⟩ 7 0).mb = false ∧ (s.membAt ⟨.oct, 0⟩ 7 0).f = false := by decide

theorem witness_BarrierEvents :
    let s := unitT false false
    let d := s.modInst ⟨.oct, 0⟩ (fun d => { d with units := [(3, { mask := [0], cnt := 1, mem := [(0, { mb := true, f := true })] })] })
    let w := (unitT true false).modCtx 0 0 (fun x => { x with wait := some (.bar .oct 3 3) })
    ((s.inst ⟨.oct, 0⟩).unit 3).mask ≠ [] ∧ ((s.inst ⟨.oct, 0⟩).unit 3).held = false
      ∧ ((s.inst ⟨.oct, 0⟩).unit 3).mask.length ≤ ((s.inst ⟨.oct, 0⟩).unit 3).cnt + 1
      ∧ (let t := s.modInst ⟨.oct, 0⟩ (fun d => { d with units := [(3, { mask := [0, 1] })] })
         ((t.inst ⟨.oct, 0⟩).unit 3).cnt + 1 < ((t.inst ⟨.oct, 0⟩).unit 3).mask.length)
      ∧ ((s.inst ⟨.oct, 0⟩).unit 3).due = false ∧ ((d.inst ⟨.oct, 0⟩).unit 3).due = true
      ∧ ((s.inst ⟨.oct, 0⟩).unit 3).members.count 0 = 1
      ∧ (w.ctxAt 0 0).wait = some (.bar .oct 3 3) ∧ barrierOf (.bar .oct 3 3) = some (.oct, 3) := by decide

/-- Core 0 in ring 2 of its die with core 1, node 0 holding the token or not. -/
def ringT (x0 : Nat) : State := (ctxT id).modRing ⟨0, 2⟩ (fun r => { r with mb := [0, 1], x := [(0, x0), (1, 0)] })

theorem witness_TokensAndWitnesses :
    let s := ringT 0
    let n := ringT 1
    let l := s.modHere (fun x => { x with toklost := true })
    let u := (unitT false true).modHere (fun x => { x with toklost := true })
    let w := n.modCtx 0 0 (fun x => { x with wait := some (.tokw .die 3 2) })
    s.here.cache.cbuf = [] ∧ s.here.vec.queue = [] ∧ s.here.mat.queue = [] ∧ s.here.toklost = false ∧ s.me.eret ≠ 1
      ∧ ringOf .die 0 2 = ⟨0, 2⟩
      ∧ (s.ring ⟨0, 2⟩).mb.contains 0 = true ∧ (s.ring ⟨0, 2⟩).grants 0 = true ∧ (n.ring ⟨0, 2⟩).grants 0 = false
      ∧ (s.ring (ringOf .die 0 7)).mb.contains 0 = false ∧ (w.ctxAt 0 0).wait = some (.tokw .die 3 2)
      ∧ l.here.toklost = true ∧ l.me.eret ≠ 1 ∧ (l.ring ⟨0, 2⟩).mb.contains 0 = true ∧ (l.ring ⟨0, 2⟩).grants 0 = true
      ∧ l.here.cache.cbuf = [] ∧ l.here.vec.queue = [] ∧ l.here.mat.queue = []
      ∧ u.here.toklost = true ∧ u.me.arrived = true ∧ (u.membAt (instOf .oct u.core) 3 u.core).f = false
      ∧ (u.membAt (instOf .oct u.core) 3 u.core).mb = true := by decide

theorem witness_StatusAndBranchOnWitness :
    let g := regT [(1, 0x10000)]
    let r := (ringT 0).modMe (fun x => { x with g := [(1, 0x10000)] })
    sT.me.eret = 0 ∧ unitsOf .die ≤ 16 ∧ (sT.dstat .pod sT.core 8).isSome = true ∧ 9 ≤ (9 : BitVec 5).toNat ∧ (8 : BitVec 5).toNat < 9
      ∧ (g.inst (instOf .oct g.core)).cLegit = true ∧ (g.g 1).setWidth 16 = (g.inst (instOf .oct g.core)).cGen
      ∧ (g.g 1).getLsbD 16 = true ∧ bits (g.g 1) 31 17 = 0 ∧ (sT.g 0).getLsbD 16 = false
      ∧ r.me.eret = 0 ∧ (r.ring (ringOf .die r.core 2)).mb.contains r.core = true ∧ (r.ring (ringOf .die r.core 2)).cLegit = true
      ∧ (r.g 1).setWidth 16 = (r.ring (ringOf .die r.core 2)).cGen
      ∧ (r.ring (ringOf .die r.core 7)).mb.contains r.core = false
      ∧ (r.modMe (fun x => { x with eret := 1 })).me.eret ≠ 0
      ∧ ((r.modMe (fun x => { x with eret := 1 })).ring (ringOf .die 0 2)).mb.contains 0 = true := by decide

theorem witness_PhaseInstructions :
    let s := unitT false false
    let f := unitT true false
    let o := s.modHere (fun x => { x with xch := { x.xch with xtag := 0x500 } })
    let b := o.modHere (fun x => { x with xch := { x.xch with wins := [{ n := 0, src := 1 }] } })
    let h := s.modDie 0 (fun d => { d with xhold := true })
    let no := o.modInst ⟨.oct, 0⟩ (fun d => { d with units := [] })
    let a := unitT false true
    let e := a.modHere (fun x => { x with xch := { x.xch with xfail := 0x10001 } })
    let fa := unitT true true
    s.here.cache.cbuf = [] ∧ s.here.vec.queue = [] ∧ s.here.mat.queue = [] ∧ s.me.arrived = false ∧ s.here.xopen = false
      ∧ o.here.xopen = true ∧ o.here.xscope = .oct ∧ o.here.xscope ≠ .die
      ∧ (s.membAt (instOf .oct s.core) 31 s.core).mb = true ∧ (s.membAt (instOf .oct s.core) 31 s.core).f = false
      ∧ (f.membAt (instOf .oct f.core) 31 f.core).f = true ∧ (f.membAt (instOf .oct f.core) 31 f.core).x = false ∧ f.me.arrived = false
      ∧ (no.membAt (instOf .oct no.core) 31 no.core).mb = false ∧ (sT.membAt (instOf .oct sT.core) 31 sT.core).mb = false
      ∧ (s.die (dieOf s.core)).xhold = false ∧ (h.die (dieOf h.core)).xhold = true ∧ o.here.phaseIdle o.core = true
      ∧ b.here.phaseIdle b.core = false ∧ a.me.arrived = true ∧ a.me.eret ≠ 1
      ∧ bits a.here.xch.xfail 23 16 = 0 ∧ bits e.here.xch.xfail 23 16 ≠ 0 ∧ e.me.arrived = true
      ∧ (a.membAt (instOf .oct a.core) 31 a.core).f = false ∧ (fa.membAt (instOf .oct fa.core) 31 fa.core).f = true
      ∧ fa.me.arrived = true := by decide

theorem witness_PhaseReleases :
    let s := unitT false false
    let d := s.modInst ⟨.oct, 0⟩ (fun d => { d with units := [(31, { mask := [0], cnt := 1, mem := [(0, { mb := true, f := true })] })] })
    let r := (d.modHere (fun x => { x with fduty := { x.fduty with forced := true } })).modMe
      (fun x => { x with wait := some (.xbar .oct 3), aux := 1 })
    let p := coreT (fun x => { x with loc := { x.loc with bank := [(6, mkBank 0 1 3), (7, mkBank 0 2 4)] } })
    let l := { d with now := 2000000 }
    ((s.inst ⟨.oct, 0⟩).unit 31).due = false ∧ ((d.inst ⟨.oct, 0⟩).unit 31).due = true
      ∧ d.now < (d.inst ⟨.oct, 0⟩).xAt + 2 * d.roundLen .oct ∧ (d.xmembers ⟨.oct, 0⟩).all (fun c => (d.coreAt c).fduty.ready) = false
      ∧ ((r.inst ⟨.oct, 0⟩).unit 31).due = true ∧ (r.xmembers ⟨.oct, 0⟩).all (fun c => (r.coreAt c).fduty.ready) = true
      ∧ (r.ctxAt 0 0).wait = some (.xbar .oct 3) ∧ instOf .oct 0 = ⟨.oct, 0⟩ ∧ (r.ctxAt 0 0).aux = 1
      ∧ ((l.inst ⟨.oct, 0⟩).unit 31).due = true ∧ (l.inst ⟨.oct, 0⟩).xAt + 2 * l.roundLen .oct ≤ l.now
      ∧ (l.xmembers ⟨.oct, 0⟩).count 0 = 1 ∧ (l.coreAt 0).swappable 3 = false
      ∧ (p.coreAt 0).swappable 3 = true := by decide

/-- Core 0 inside an exchange phase of its octet with core 1, g1 the destination and g2 the transfer descriptor. -/
def phaseT : State :=
  (((regT [(1, 1), (2, 0x2FF00), (3, 2)]).modHere (fun x => { x with xch := { x.xch with xtag := 0x500 } })).modCore 1
    (fun x => { x with xch := { x.xch with xtag := 0x500 },
                       loc := { x.loc with bank := [(0, mkBank 0 1 3), (1, mkBank 0 2 4)] } })).modInst ⟨.oct, 0⟩ (fun d =>
    { d with units := [(31, { mask := [0, 1], mem := [(0, { mb := true }), (1, { mb := true })] })] })

/-- A contribution of core 1. -/
def contribT : Contrib := { ctx := 0, n := 0, op := .add, ty := .w, src := 0x100, pair := 0, off := 0 }
/-- That state with a send under way in core 0, and in core 1 a window and a contribution whose ports may be spoilt. -/
def sendT (bad : Bool) : State :=
  { (({ phaseT with now := 100 }.modHere (fun x => { x with xch := { x.xch with
      sends := [{ ctx := 0, n := 0, dst := 1, src := 0x2FF00, off := 0, pair := 0 }] } })).modCore 1 (fun x => { x with xch := { x.xch with
      wins := [{ ctx := 1, n := 0, src := 0 }], contrib := [contribT] } })) with
    occ := [{ inst := ⟨.oct, 0⟩, n := 0, first := 0, last := 48, bad := bad }] }

/-- The first beat of a payload from a core, of the label 0. -/
def beatT (sender k : Nat) : Beat :=
  { label := 0, sender := sender, ctx := 0, dst := 1, k := k, n := 0, src := 0x2FF00, off := 0, pair := 0, tag := 0, data := [] }

set_option maxRecDepth 20000 in
theorem witness_ExchangeTransfers :
    let s := phaseT
    let v := { s with now := 20000 }
    let x := sendT false
    let send : Xfer := { ctx := 0, n := 0, dst := 1, src := 0x2FF00, off := 0, pair := 0 }
    let one (b : Beat) : State := { sT with beats := [b] }
    let two : State := { sT with beats := [beatT 0 0, { beatT 0 0 with sender := 2 }] }
    let met : State := { phaseT with beats := [beatT 0 0], occ := [{ inst := ⟨.oct, 0⟩, n := 0, first := 0, last := 48 }] }
    let f := { (ctxT (fun x => { x with wait := some (.xsend 0 1 2) })) with beats := [beatT 0 3] }
    let r := ({ phaseT with now := 100 }.modCtx 1 0 (fun x => { x with wait := some (.xrecv 0 3) })).modCore 1
      (fun x => { x with xch := { x.xch with wins := [{ n := 0, src := 0 }] } })
    s.sendCheck 0 (some (s.g 1)) (s.g 2) = none ∧ s.sendCheck 16383 none (s.g 2) = none
      ∧ s.here.xopen = true ∧ (s.xmembers (s.phaseOf s.core)).contains (s.g 1).toNat = true
      ∧ (s.xmembers (s.phaseOf s.core)).contains (s.g 3).toNat = false
      ∧ (s.stepOf s.core).toNat ≤ s.here.label 0 ∧ v.here.label 0 < (v.stepOf v.core).toNat ∧ sT.here.xopen = false
      ∧ (v.xmembers (v.phaseOf v.core)).contains (v.g 1).toNat = true
      ∧ (s.sendCheck 0 (some (s.g 3)) (s.g 2)).isSome = true ∧ (s.sendCheck 0 none (s.g 1)).isSome = true
      ∧ (x.coreAt 0).xch.sends.find? (fun (e : Xfer) => e.of 0) = some send ∧ send.beat < 4
      ∧ (x.coreAt 0).label 0 + 0 ≤ (x.stepOf 0).toNat
      ∧ (x.coreAt 1).xch.sends.find? (fun (e : Xfer) => e.of 0) = none
      ∧ (x.coreAt 1).xch.contrib.find? (fun (e : Contrib) => e.ctx == 0 && decide (e.data.length < 256)) = some contribT
      ∧ (x.coreAt 1).label 0 + 0 / 64 ≤ (x.stepOf 1).toNat
      ∧ s.occ.any (fun o => o.of (s.phaseOf 1) 0) = false
      ∧ (one (beatT 0 0)).past = [] ∧ (one (beatT 0 0)).occ.any ((one (beatT 0 0)).occMeets (beatT 0 0)) = false
      ∧ met.past = [] ∧ met.occ.any (met.occMeets (beatT 0 0)) = true
      ∧ two.past = [] ∧ two.occ = [] ∧ two.collide (beatT 0 0) { beatT 0 0 with sender := 2 } = true
      ∧ (f.ctxAt 0 0).wait = some (.xsend 0 1 2)
      ∧ (x.coreAt 1).openWindow 0 = some { ctx := 1, n := 0, src := 0 } ∧ (x.coreAt 1).swappable 0 = true
      ∧ x.spoilt (beatT 0 3) = false ∧ (sT.coreAt 1).openWindow 0 = none ∧ sT.spoilt (beatT 0 0) = false
      ∧ (sT.coreAt 0).xch.sends.any (fun (e : Xfer) => (beatT 0 0).isOf e && e.unmatched) = false
      ∧ (r.ctxAt 1 0).wait = some (.xrecv 0 3) ∧ (r.coreAt 1).label 0 + 4 ≤ (r.stepOf 1).toNat
      ∧ (∀ w ∈ (r.coreAt 1).xch.wins, w.got = 0) := by decide

set_option maxRecDepth 20000 in
theorem witness_ReducingSends :
    let i : Inst := ⟨.oct, 0⟩
    let found (s : State) : Option Contrib := s.cores.findSome? (fun (c, x) => x.xch.contrib.find? (fun e =>
      s.phaseOf c == i && decide (x.label e.n + combineSpan i.scope ≤ (s.stepOf c).toNat)))
    let bad (s : State) : Bool := s.occ.any (fun o => o.of i 0 && o.bad)
    let alone := (sendT false).modInst ⟨.oct, 0⟩ (fun d => { d with units := [(31, { mask := [1], mem := [(1, { mb := true })] })] })
    found (sendT false) = some contribT ∧ found (sendT true) = some contribT ∧ bad (sendT false) = false ∧ bad (sendT true) = true
      ∧ (sendT false).xmembers i = [0, 1] ∧ (sendT false).contribOf 0 0 = none
      ∧ found alone = some contribT ∧ bad alone = false ∧ alone.xmembers i = [1] ∧ (alone.coreAt 1).swappable 0 = true := by decide

/-- Core 0 with a receive ring in slot 7, a full one or not. -/
def boxT (recs : Nat) (g : SMap Word) : State :=
  (regT g).modHere (fun x => { x with loc := { x.loc with bank := [(7, mkBank 0 3 3)], recs := recs } })

/-- The offer that a QSEND of 8 bytes at g1 makes to the core of g2. -/
def offerT (s : State) : State × Option Nat :=
  let r := s.localRead s.core (s.g 1).toNat 8
  (r.1.markTiles s.core (s.g 1).toNat 8).sendOnce .pkg (s.g 2) r.2.1

set_option maxRecDepth 20000 in
theorem witness_Messages :
    let s := boxT 0 [(1, 0x2FFF8), (2, 30719), (3, 1920), (4, 30720), (5, 0x2FFFC)]
    let e := s.modHere (fun x => { x with loc := { x.loc with ecc := { poison := [0x5FFF] } } })
    let f := boxT 64 [(1, 0x2FFF8)]
    let z := f.modHere (fun x => { x with loc := { x.loc with qbound := 0 } })
    let n := 8 * ((0 : BitVec 5).toNat + 1)
    let u := boxT 1 [(1, 0x2FFF8), (2, 0x2FFFC)]
    let w (x : Core → Core) : State := (ctxT (fun x => { x with wait := some (.qsend .pkg 0 3 1 2), payload := [0, 0, 0, 0, 0, 0, 0, 0] })).modHere x
    let q := w (fun x => { x with loc := { x.loc with qbound := 0 } })
    let full := w (fun x => { x with loc := { x.loc with bank := [(7, mkBank 0 3 3)], recs := 64 } })
    let r := ctxT (fun x => { x with wait := some (.qrecv 3 4) })
    s.here.cache.cbuf = [] ∧ s.here.vec.queue = [] ∧ s.here.mat.queue = [] ∧ s.me.eret ≠ 1
      ∧ s.checkLocal s.core (s.g 1).toNat n 8 false = none ∧ (s.checkLocal s.core (s.g 5).toNat n 8 false).isSome = true
      ∧ (s.localRead s.core (s.g 1).toNat n).2.2 = none
      ∧ e.checkLocal e.core (e.g 1).toNat n 8 false = none ∧ (e.localRead e.core (e.g 1).toNat n).2.2 ≠ none
      ∧ (offerT s).2 = some 2 ∧ (offerT f).2 = none ∧ 0 < f.here.loc.qbound.toNat ∧ (offerT z).2 = none ∧ z.here.loc.qbound.toNat = 0
      ∧ s.destOf .pkg 30720 = none ∧ s.destOf .pkg 0 = some (some 0)
      ∧ (s.offer 0 false .pkg 0 [0]).2 = .written ∧ (f.offer 0 false .pkg 0 [0]).2 = .refused ∧ (s.offer 30719 false .pkg 0 [0]).2 = .noRing
      ∧ (s.g 2).toNat < 30720 ∧ 30720 ≤ (s.g 4).toNat ∧ (s.g 3).toNat < 30720
      ∧ (s.coreAt 0).ringSlot = some 7 ∧ 8 ≤ 64512 - (s.coreAt 0).loc.inUse ∧ (s.coreAt 0).loc.recs < 64
      ∧ 64512 - (s.coreAt 0).loc.inUse < 64520 ∧ 64 ≤ (f.coreAt 0).loc.recs
      ∧ sT.here.ringSlot = none ∧ u.here.ringSlot = some 7 ∧ u.here.loc.recs ≠ 0
      ∧ u.checkLocal u.core (u.g 1).toNat 0 8 true = none ∧ (u.checkLocal u.core (u.g 2).toNat 0 8 true).isSome = true
      ∧ (r.ctxAt 0 0).wait = some (.qrecv 3 4) ∧ (q.ctxAt 0 0).wait = some (.qsend .pkg 0 3 1 2)
      ∧ (q.coreAt 0).loc.qbound.toNat ≤ (q.stepOf 0).toNat - (q.ctxAt 0 0).aux.toNat
      ∧ (full.stepOf 0).toNat - (full.ctxAt 0 0).aux.toNat < (full.coreAt 0).loc.qbound.toNat
      ∧ ((full.at_ 0 0).sendOnce .pkg ((full.at_ 0 0).g 1) (full.ctxAt 0 0).payload).2 = none := by decide

/-- A copy of 8 bytes within TCM. -/
def cmdT (id : Nat) : EngCmd := { id := id, ctx := 0, copy := true, dst := 0x100, src := 0x200, len := 8 }

theorem witness_EngineInstructions :
    let s := regT [(1, 0x2FFF8), (2, 0x2FFF0), (3, 8), (4, 0), (5, 9)]
    let l := s.modMe (fun x => { x with lateCpy := some 1, lateColl := some 2 })
    let f := s.modHere (fun x => { x with engs := (List.range 4).map cmdT })
    let k := s.modHere (fun x => { x with engs := [{ cmdT 1 with copy := false }] })
    let o := s.modHere (fun x => { x with collOwed := [0xE1] })
    let g := memT [(1, 9 * 2 ^ 40), (2, 9 * 2 ^ 40 + 0xFFF8), (3, 8), (4, 0)]
    let w (i : Instr) : State := ctxT (fun x => { x with wait := some i })
    g.here.cache.cbuf = [] ∧ g.here.vec.queue = [] ∧ g.here.mat.queue = [] ∧ g.engCheck (g.g 1) (g.g 2) (g.g 3) none = none
      ∧ g.me.eret ≠ 1 ∧ (g.here.engsOf true).length < 4 ∧ (g.here.engsOf false).length < 4 ∧ bits (g.g 3) 31 0 ≠ 0 ∧ bits (g.g 4) 31 0 = 0
      ∧ g.here.collOwed = [] ∧ s.engCheck (s.g 1) (s.g 2) (s.g 3) (some (s.here.taskstep + 65535)) = none
      ∧ g.engCheck (g.g 1) (g.g 2) (g.g 4) none = none ∧ (s.engCheck (s.g 1) (s.g 2) (s.g 5) none).isSome = true
      ∧ 4 ≤ (f.here.engsOf true).length ∧ 4 ≤ ((s.modHere (fun x =>
          { x with engs := (List.range 4).map (fun k => { cmdT k with copy := false }) })).here.engsOf false).length
      ∧ (o.here.engsOf false).length < 4 ∧ o.engCheck (o.g 1) (o.g 2) (o.g 3) none = none ∧ o.here.collOwed = 0xE1 :: []
      ∧ o.here.cache.cbuf = [] ∧ o.here.vec.queue = [] ∧ o.here.mat.queue = []
      ∧ (s.here.engsOf true).any (fun e => e.ctx == s.ctx) = false ∧ s.me.lateCpy = none ∧ s.me.lateColl = none
      ∧ (f.here.engsOf true).any (fun e => e.ctx == f.ctx) = true ∧ (s.here.engsOf false).any (fun e => e.ctx == s.ctx) = false
      ∧ (k.here.engsOf false).any (fun e => e.ctx == k.ctx) = true ∧ l.me.lateCpy = some 1 ∧ l.me.lateColl = some 2
      ∧ l.boundaryReady = true
      ∧ ((w (.cpyw 3)).ctxAt 0 0).wait = some (.cpyw 3) ∧ ((w (.collw 3)).ctxAt 0 0).wait = some (.collw 3) := by decide

set_option maxRecDepth 20000 in
theorem witness_EngineEvents :
    let with_ (s : State) (l : List EngCmd) : State := s.modHere (fun x => { x with engs := l })
    let s := with_ sT [cmdT 1]
    let e : EngCmd := { cmdT 1 with dst := 0x40000 }
    let d : EngCmd := { cmdT 1 with dst := w64 (aliasId * 2 ^ 40 + 5 * 2 ^ 20 + 0x30000) }
    let b := with_ sT [d]
    let t := with_ sT [{ cmdT 1 with start := some 0 }]
    let y := with_ sT [cmdT 0, { cmdT 1 with start := some 0 }]
    let z := with_ sT [{ e with start := some 0 }]
    let q := s.modHere (fun x => { x with loc := { x.loc with ecc := { poison := [0x40] } } })
    let p := with_ sT [{ cmdT 1 with page := some (9, 0) }]
    let g (d : EngCmd) : State := with_ (memT []) [d]
    let from_ : EngCmd := { cmdT 1 with src := 8 * 2 ^ 40 }
    let into : EngCmd := { cmdT 1 with dst := 8 * 2 ^ 40 }
    let reads (s : State) (e : EngCmd) : State × List Byte × EngRes := s.engReadAll 0 (s.coreAt 0).cid e e.src e.len
    let writes (s : State) (e : EngCmd) : EngRes := ((reads s e).1.engWriteAll 0 (s.coreAt 0).cid e e.dst (reads s e).2.1).2.1
    let fails (r : EngRes) : Bool := match r with | .fail _ => true | _ => false
    let late := { t with now := 5 }
    (sT.coreAt 0).engHead true = none ∧ (s.coreAt 0).engHead true = some (cmdT 1) ∧ (cmdT 1).page = none ∧ (cmdT 1).hurt = none
      ∧ (s.engFlush 0 (cmdT 1)).2 = .done ∧ (cmdT 1).bad = none
      ∧ ((p.coreAt 0).engHead true).bind (fun e => e.page) = some (9, 0)
      ∧ (reads s (cmdT 1)).2.2 = .done ∧ writes s (cmdT 1) = .done
      ∧ (b.coreAt 0).engHead true = some d ∧ (b.engFlush 0 d).2 = .done ∧ (reads b d).2.2 = .done ∧ fails (writes b d) = true
      ∧ (q.coreAt 0).engHead true = some (cmdT 1) ∧ fails (reads q (cmdT 1)).2.2 = true ∧ writes q (cmdT 1) = .done
      ∧ ((g from_).coreAt 0).engHead true = some from_ ∧ ((g from_).engFlush 0 from_).2 = .done
      ∧ (reads (g from_) from_).2.2 = .page 8 0
      ∧ ((g into).coreAt 0).engHead true = some into ∧ (reads (g into) into).2.2 = .done ∧ writes (g into) into = .page 8 0
      ∧ ((t.coreAt 0).engsOf true).find? (fun e => e.id == 1) = some { cmdT 1 with start := some 0 } ∧ t.stepOf 0 = 0
      ∧ (t.coreAt 0).engHead true = none ∧ t.timedBeside 0 ((cmdT 1).ranges 0) (some 1) = false
      ∧ ([(cmdT 1).dst, (cmdT 1).src].filter isLocal).any (fun a => ((t.coreAt 0).checkRegion a.toNat 8).isSome) = false
      ∧ ((y.coreAt 0).engsOf true).find? (fun e => e.id == 1) = some { cmdT 1 with start := some 0 } ∧ (y.coreAt 0).engHead true ≠ none
      ∧ ((z.coreAt 0).engsOf true).find? (fun d => d.id == 1) = some { e with start := some 0 }
      ∧ ([e.dst, e.src].filter isLocal).any (fun a => ((z.coreAt 0).checkRegion a.toNat 8).isSome) = true
      ∧ ((late.coreAt 0).engsOf true).find? (fun e => e.id == 1) = some { cmdT 1 with start := some 0 }
      ∧ (0 : Word).toNat < (late.stepOf 0).toNat := by decide

/-- A launch of octet 0 whose core 0 has a COLL at the head of its engine. -/
def collT (cores since now : Nat) (running : Bool) (gen : Option (List (BitVec 16))) : State :=
  let e : EngCmd := { id := 1, ctx := 0, copy := false, dst := 9 * 2 ^ 40, src := 9 * 2 ^ 40, len := 8, since := since, running := running, gen := gen }
  let sc : Sched := { nodes := [(4, { rec_ := { lcores := cores, cid := 7 }, st := .running })] }
  { (coreT (fun x => { x with engs := [e], run := { x.run with node := some 4 } })) with now := now, sched := sc }

/-- The members of node 4's launch in an instance, and those that have joined. -/
def membersT (i : Inst) (s : State) : List Nat × List (Nat × EngCmd) :=
  let all := s.launchMembers i 4
  (all, all.filterMap (fun c => (s.collHead i 4 c).map (fun e => (c, e))))

/-- Core 1 in the same launch, with an engine of its own. -/
def secondT (s : State) (es : List EngCmd) : State := s.modCore 1 (fun x => { x with engs := es, run := { x.run with node := some 4 } })

set_option maxRecDepth 20000 in
theorem witness_Collectives :
    let i : Inst := ⟨.oct, 0⟩
    let j : Inst := ⟨.die, 0⟩
    let a := collT 1 0 0 false none
    let other (len : Nat) (sc : Scope) : EngCmd := { id := 2, ctx := 0, copy := false, dst := 0, src := 0, len := len, scope := sc }
    let differ := secondT (collT 2 0 0 false none) [other 16 .oct]
    let cross := secondT (collT 2 0 0 false none) [other 8 .die]
    let less := secondT (collT 2 0 1400000 false none) []
    let early := collT 1 0 1 true (some [0])
    let stale := collT 1 0 100000 true (some [7])
    let good := collT 1 0 100000 true (some [0])
    let wrote := good.modHere (fun x => { x with engs := x.engs.map (fun e => { e with wrote := 8 }) })
    let away := a.modHere (fun x => { x with run := { x.run with preempt := true } })
    let all (s : State) : List Nat := (membersT i s).1
    let ready (s : State) : Bool := (membersT i s).2.any (fun p => (p.2.start.isSome && !p.2.begun) || p.2.page.isSome
      || decide (s.now < p.2.notBefore)) == false && (membersT i s).2.length == (all s).length && (membersT i s).2.all (fun p => p.2.hurt.isNone)
    let wait := (all less).filter (fun c => (less.collHead i 4 c).isSome)
    [a, differ, cross, less, early, stale, good, wrote, away].all (fun s => s.collNodes i == [4] && (membersT i s).2.head?.map (·.1) == some 0) = true
      ∧ [a, differ, less, early, stale, good, wrote, away].all (fun s => s.crossed i 4 (all s) 0 == []) = true
      ∧ cross.crossed i 4 (all cross) 0 = [j]
      ∧ [a, early, stale, good, wrote, away].all ready = true
      ∧ (membersT i a).2.map (fun p => (p.2.running, p.2.wrote)) = [(false, 0)] ∧ (a.coreAt 0).leaving = false ∧ (away.coreAt 0).leaving = true
      ∧ (membersT i wrote).2.map (fun p => p.2.wrote) = [8]
      ∧ (membersT i differ).2.map (fun p => p.2.len) = [8, 16] ∧ (membersT i less).2.length < (all less).length
      ∧ early.now < 0 + 2 * early.roundLen .oct ∧ 0 + 2 * stale.roundLen .oct ≤ stale.now
      ∧ stale.pathGen i (all stale) ≠ some [7] ∧ good.pathGen i (all good) = some [0] ∧ good.foreign i = false
      ∧ wait.length < (all less).length
      ∧ wait.any (fun c => match less.collHead i 4 c with | some e => decide (e.since + less.timeout i ≤ less.now) | none => false) = true := by decide

set_option maxRecDepth 20000 in
theorem witness_EngineEventsOfPods :
    let s := (collT 1 0 28000 true (some [0, 0])).modHere (fun x => { x with engs := x.engs.map (fun e => { e with scope := .pod }) })
    s.collNodes ⟨.pod, 0⟩ = [4]
      ∧ (membersT ⟨.pod, 0⟩ s).2.any (fun p => p.2.gen.isSome && decide (p.2.since + 4 * s.roundLen .pod ≤ s.now)) = true := by decide

theorem witness_VectorInstructions :
    let q (n : Nat) : State := coreT (fun x => { x with vec := { x.vec with queue := List.replicate n (vT .vyield [] 0) } })
    vecRegOps (.vadd .w 1 2 3 7) sT.g = some [] ∧ sT.ctx = 0 ∧ (q 7).here.vec.queue.length < 8 ∧ sT.me.eret ≠ 1
      ∧ 8 ≤ (q 8).here.vec.queue.length ∧ (sT.at_ 0 10).ctx ≠ 0 := by decide

set_option maxRecDepth 20000 in
theorem witness_VectorMemory :
    let s := (regT [(1, 0x2FFE0), (2, 0x2F000), (3, 8), (4, 0x30000)]).modHere (fun x => { x with vec := { x.vec with vlen := 8 } })
    let m := vmemOf s.here (.vldl 4 1 0 0) [s.g 1]
    (vecMemOps (.vldl 4 1 0 0) s.g).isSome = true ∧ s.ctx = 0 ∧ s.here.vec.queue.length < 8 ∧ s.me.eret ≠ 1 ∧ m.isSome = true
      ∧ (m.map (fun m => (activeOf s.here.vec.vlen (s.here.gov 0)).findSome? (s.vmemCheck m))) = some none
      ∧ m.map (fun m => (m.local_, m.store)) = some (true, false)
      ∧ ((vmemOf s.here (.vldl 4 1 4 0) [s.g 1]).map (fun m => (activeOf s.here.vec.vlen (s.here.gov 0)).findSome? (s.vmemCheck m)))
          = some (some { code := 0x07, addr := 0x30000 })
      ∧ (s.g 2).toNat % 16 = 0 ∧ s.checkRange (s.g 2).toNat 1296 false = none ∧ (s.g 3).toNat % 16 ≠ 0
      ∧ (s.g 4).toNat % 16 = 0 ∧ (s.checkRange (s.g 4).toNat 1296 false).isSome = true := by decide

theorem witness_LaneGrants :
    sT.ctx = 0 ∧ sT.here.vec.queue = [] ∧ sT.me.eret ≠ 1 ∧ (sT.at_ 0 10).ctx ≠ 0
      ∧ ((octCores (octOf sT.core)).map (fun q => (sT.coreAt q).vec.grant)).sum ≤ 16
      ∧ (coreT (fun x => { x with vec := { x.vec with queue := [vT .vyield [] 0] } })).here.vec.queue ≠ [] := by decide

/-- Core 0 with one entry in its vector queue. -/
def queueT (s : State) (e : VEntry) : State := s.modHere (fun x => { x with vec := { x.vec with queue := [e] } })

theorem witness_VectorQueueRuns :
    let e := vT (.vadd .w 1 2 3 0) [] 0
    let q (e : VEntry) : State := queueT sT e
    ((q e).coreAt 0).vec.queue = e :: [] ∧ e.fin = none ∧ e.vlen ≠ 0 ∧ ({ e with vlen := 0 } : VEntry).vlen = 0
      ∧ ((q { e with fin := some 1 }).coreAt 0).vec.queue = { e with fin := some 1 } :: [] ∧ (q { e with fin := some 1 }).now < 1 := by
  decide

/-- An entry of any instruction that is to complete now. -/
theorem witness_VectorQueueCompletes (i : Instr) (ops : List Word) (mask : Word) :
    let e : VEntry := { vT i ops mask with fin := some 0 }
    let s := queueT sT e
    (s.coreAt 0).vec.queue = e :: [] ∧ e.instr = i ∧ e.fin = some 0 ∧ 0 ≤ s.now ∧ (s.coreAt 0).vec.page = none ∧ (s.coreAt 0).vec.hurt = []
      ∧ (s.coreAt 0).vec.tableHurt = none ∧ e.hurt = none ∧ e.vlen ≠ 0 ∧ e.buf = [] ∧ (s.coreAt 0).loc.ecc = {}
      ∧ activeOf e.vlen ((s.coreAt 0).gov 0) ≠ [] := by
  refine ⟨rfl, rfl, rfl, Nat.le_refl _, rfl, rfl, rfl, rfl, ?_, rfl, rfl, ?_⟩
  · show (8 : Nat) ≠ 0
    decide
  · show activeOf 8 ((sT.coreAt 0).gov 0) ≠ []
    decide

set_option maxRecDepth 20000 in
theorem witness_VectorQueueClauses :
    let l := queueT sT (vT (.vldl 4 1 0 0) [0x2FFE0] 0xFF)
    let m := coreT (fun x => { x with vec := { x.vec with m := [(2, 0x40)] } })
    let p := queueT (regT []) (vT (.ppld 1) [0x2F000] 0)
    let b := p.modHere (fun x => { x with loc := { x.loc with ecc := { poison := [0x2F000 / 8] } } })
    let g := queueT (strongS []) (vT (.vld 4 1 0 0) [9 * 2 ^ 40 + 0xF8] 1)
    let a := queueT (memT []) (vT (.vld 4 1 0 0) [8 * 2 ^ 40] 1)
    let d := queueT (sT.modHere (fun x => { x with loc := { x.loc with ecc := { poison := [0x20] } } })) (vT (.vldl 4 1 0 0) [0x100] 1)
    let mem (s : State) : Option VMem := (s.here.vec.queue.head?).bind (fun e => vmemOf s.here e.instr e.ops)
    let left (s : State) : List Nat := ((s.here.vec.queue.head?).map (fun e => activeOf e.vlen (e.mask &&& ~~~e.did))).getD []
    let elem (s : State) : Option (State × VRes) := (mem s).map (s.vmemElem 0 s.cid · 0)
    (mem l).map (fun m => (m.local_, m.store, (left l).all (fun j => decide ((m.addr j).toNat + 4 ≤ 0x30000)))) = some (true, false, true)
      ∧ (m.here.mreg 2).getLsbD 6 = true ∧ (List.range 6).all (fun i => !(m.here.mreg 2).getLsbD i) = true
      ∧ (List.range 8).all (fun i => !(m.here.mreg 3).getLsbD i) = true
      ∧ (p.localRead 0 0x2F000 1296).2.2 = none ∧ (b.localRead 0 0x2F000 1296).2.2.isSome = true
      ∧ left g = [0] ∧ (mem g).map (fun m => (m.local_, (m.addr 0).toNat % m.z, (g.pageType (idOf (m.addr 0)) (offOf (m.addr 0))).1,
          atHomeB g (m.addr 0))) = some (false, 0, .strong, true)
      ∧ g.here.cache.cbuf = [] ∧ g.here.cache.lines = []
      ∧ left d = [0] ∧ (elem d).map (fun r => match r.2 with | .fault .. => true | _ => false) = some true
      ∧ left a = [0] ∧ (elem a).map (fun r => r.2) = some (.page 8 0) := by decide

set_option maxRecDepth 20000 in
theorem witness_MatrixCommands :
    let s := (regT [(1, 0x2E000), (2, 0x2FF80), (3, 0x30000), (4, 0x800000000)]).modHere (fun x => { x with mat := { x.mat with accmap := 0x8000 } })
    let e : MEntry := { instr := .mzero 0, ops := [], mirror := .off }
    let late := { s with now := 5000 }
    s.ctx = 0 ∧ s.here.matRoom = true ∧ s.me.eret ≠ 1 ∧ s.here.mat.accmap.getLsbD (15 : AReg).toNat = true
      ∧ (s.g 1).toNat % 256 = 0 ∧ s.checkRange (s.g 1).toNat (mmaBytes .i8) false = none ∧ s.scaleCheck .i8 (s.g 0) = none
      ∧ s.checkRange (s.g 1).toNat (mmaBytes .e2) false = none ∧ (s.scaleCheck .e2 (s.g 4)).isSome = true
      ∧ s.checkRange (s.g 1).toNat (mstBytes true) true = none ∧ (s.g 2).toNat % 256 ≠ 0 ∧ (s.g 3).toNat % 256 = 0
      ∧ (s.checkRange (s.g 3).toNat (mmaBytes .i8) false).isSome = true ∧ (s.checkRange (s.g 3).toNat (mstBytes true) true).isSome = true
      ∧ (s.checkRange (s.g 3).toNat (latchBytes .quarter) false).isSome = true
      ∧ s.here.mat.accmap.getLsbD (14 : AReg).toNat = false ∧ s.checkRange (s.g 1).toNat (latchBytes .quarter) false = none
      ∧ (s.stepOf s.core).toNat ≤ (s.here.taskstep + (65535 : BitVec 16).setWidth 64).toNat
      ∧ (late.here.taskstep + (127 : BitVec 7).setWidth 64 * 32).toNat < (late.stepOf late.core).toNat
      ∧ (s.at_ 0 10).ctx ≠ 0 ∧ (s.modHere (fun x => { x with mat := { x.mat with queue := List.replicate 8 e } })).here.matRoom = false := by
  decide

theorem witness_MatrixStatus :
    let e : MEntry := { instr := .mzero 0, ops := [], mirror := .off }
    let s := ctxT (fun x => { x with wait := some (.mwait 3) })
    let f := s.modHere (fun x => { x with mat := { x.mat with fault := some (0x0B, 0) } })
    sT.ctx = 0 ∧ (sT.at_ 0 10).ctx ≠ 0 ∧ sT.me.eret ≠ 1 ∧ sT.here.mat.queue = []
      ∧ (coreT (fun x => { x with mat := { x.mat with queue := [e] } })).here.mat.queue ≠ []
      ∧ (s.ctxAt 0 0).wait = some (.mwait 3) ∧ (s.coreAt 0).mat.queue = [] ∧ (s.coreAt 0).queueFaulted (s.ctxAt 0 0).intrap = false
      ∧ (f.ctxAt 0 0).wait = some (.mwait 3) ∧ (f.coreAt 0).queueFaulted (f.ctxAt 0 0).intrap = true := by decide

/-- Core 0 with commands in its matrix queue. -/
def matT (s : State) (l : List MEntry) : State := s.modHere (fun x => { x with mat := { x.mat with queue := l } })
/-- A command of an operand or two that is to complete now. -/
def mT (i : Instr) (ops : List Word) : MEntry := { instr := i, ops := ops, mirror := .off, fin := some 0 }
/-- A timed one, not started, of a step and a half. -/
def tT (i : Instr) (at_ : Word) : MEntry := { instr := i, ops := [0x1000, 0], mirror := .off, start := some at_, half := some 0 }

set_option maxRecDepth 40000 in
theorem witness_MatrixEvents :
    let e := mT (.mzero 2) []
    let q (e : MEntry) : State := matT sT [e]
    let tile (t : Tile) : State := (q (mT (.mchk 2) [])).modOct 0 (fun o => o.modTile 2 (fun _ => t))
    let judged (t : Tile) : Verdict := (((tile t).oct 0).tile 2).judge
    let ld := mT (.mldb .quarter 1) [0]
    let bad (e : MEntry) : State := (q e).modHere (fun x => { x with loc := { x.loc with ecc := { poison := [0] } } })
    let m8 := mT (.mma .i8 none 2 1 0) [0, 0]
    let m2 := mT (.mma .e2 none 2 1 0) [0x1000, 0x20000 * 2 ^ 32]
    let inc (s : State) : State := s.modHere (fun x => { x with mat := { x.mat with full := true } })
    let fly := (q e).modHere (fun x => { x with mat := { x.mat with fly := some ([], {}) } })
    ((q e).coreAt 0).mat.queue = e :: [] ∧ e.fin = some 0 ∧ e.hurt = none ∧ 0 ≤ (q e).now ∧ (q e).now < 1
      ∧ judged {} = .pass ∧ judged { void := true } = .void ∧ judged { kind := .int, el := [(0, 1), (65, 1)] } = .failed false
      ∧ (match judged { kind := .int, el := [(0, 1)] } with | .fixed _ => true | _ => false) = true
      ∧ ((q ld).localRead 0 0 (latchBytes .quarter)).2.2 = none ∧ ((bad ld).localRead 0 0 (latchBytes .quarter)).2.2 = some 0
      ∧ ((q m8).localRead 0 0 (mmaBytes .i8)).2.2 = none ∧ ((bad m8).localRead 0 0 (mmaBytes .i8)).2.2 = some 0
      ∧ ((q m8).readLatch 0 (mmaBytes .i8)).2.isSome = true ∧ m8.mirrored = false
      ∧ ((q m2).localRead 0 0x1000 (mmaBytes .e2)).2.2 = none ∧ bits (opAt m2.ops 1) 51 32 = 0x20000
      ∧ ((q m2).localRead 0 0x20000 1024).2.2 = none ∧ ((q m2).readLatch 0 (mmaBytes .e2)).2.isSome = true
      ∧ { m8 with mirrored := true }.mirrored = true ∧ { m8 with mirrored := true }.retry = false
      ∧ { m8 with mirrored := true, retry := true }.retry = true
      ∧ ((q (mT (.mring none) [])).coreAt 0).mat.full = false ∧ ((inc (q (mT (.mring none) []))).coreAt 0).mat.full = true
      ∧ (fly.coreAt 0).mat.fly = some ([], {}) := by decide

theorem witness_MirrorsOfAMatrixCommand (n : Nat) : Config.mirrorAgrees n = true ∨ Config.mirrorAgrees n = false := by
  cases Config.mirrorAgrees n <;> simp

set_option maxRecDepth 40000 in
theorem witness_MatrixStarts :
    let q (l : List MEntry) : State := matT sT l
    let late (l : List MEntry) : State := { q l with now := 5 }
    let busy (s : State) : State := s.modOct 0 (fun o => { o with busy := [(0, (1, 50)), (1, (1, 50)), (2, (1, 50))] })
    let full (s : State) : State := s.modCore (s.nextRing 0) (fun x => { x with mat := { x.mat with full := true } })
    let idle (s : State) (p : Nat) : Bool := (List.range 8).all (fun k => !s.wants 0 p (8 * 0 + k))
    let due (s : State) (i : Nat) (g : MEntry) : Bool := decide (s.timedDue 0 = some (i, g)) && (List.range 7).all (fun k => (s.timedDue (k + 1)).isNone)
    let z : MEntry := { mT (.mzero 2) [] with fin := none }
    let r : MEntry := { mT (.mring none) [] with fin := none }
    let mma := tT (.mma .i8 (some 0) 2 1 0) 0
    let ring := tT (.mring (some 0)) 0
    (r.start = none ∧ ((q [r]).coreAt 0).mat.full = false
        ∧ (let s := { q [r] with now := 1400001 }; r.queued + s.timeout (instOf .oct 0) < s.now)
        ∧ { ring with fin := some 0 }.start ≠ none ∧ { ring with fin := some 0 }.fin = some 0)
      ∧ ((∀ d ∈ octCores 0, (q [z]).timedDue d = none) ∧ idle (q [z]) 0 = true
        ∧ (arbitrate ((q [z]).oct 0).mshare ((List.range 8).filter (fun k => (q [z]).wants 0 2 (8 * 0 + k)))
            (fun k => sget 0 ((q [z]).oct 0).credit (8 + k))).1 = some 0 ∧ z.start = none ∧ ((q [z]).coreAt 0).leaving = false)
      ∧ (due (q [z, mma]) 1 mma = true ∧ idle (matT sT []) 2 = true ∧ z.fin = none
        ∧ due (late [mma]) 0 mma = true ∧ (0 : Word).toNat < ((late [mma]).stepOf 0).toNat
        ∧ due (q [mma]) 0 mma = true ∧ ¬((0 : Word).toNat < ((q [mma]).stepOf 0).toNat) ∧ mma.half = some 0 ∧ mma.mirror = .off
        ∧ due (busy (q [mma])) 0 mma = true ∧ (busy (q [mma])).resFree 0 0 = false
        ∧ (busy (q [mma])).resOpen 0 (1 - 0) (matDuration mma.instr) = false
        ∧ (q [mma]).resFree 0 0 = true ∧ onHalf mma.instr = true ∧ onHalf ring.instr = false
        ∧ due (q [ring]) 0 ring = true ∧ (busy (q [ring])).resFree 0 2 = false ∧ due (busy (q [ring])) 0 ring = true
        ∧ (q [ring]).resFree 0 2 = true ∧ ((q [ring]).coreAt ((q [ring]).nextRing 0)).latchEmpty = true
        ∧ due (full (q [ring])) 0 ring = true ∧ ((full (q [ring])).coreAt ((full (q [ring])).nextRing 0)).latchEmpty = false) := by decide

theorem witness_DuctusRounds :
    let i : Inst := ⟨.die, 0⟩
    let at_ (n : Nat) (sampled : Bool) : State := { (ringT 0).modRing ⟨0, 2⟩ (fun r => { r with sampled := sampled }) with now := n }
    let h := ({ sT with now := 70000 }).modRing ⟨0, 2⟩ (fun r => { r with mb := [0, 1], held := [(0, 0)] })
    let rr := tokkRrnd ((at_ 0 false).ring ⟨0, 2⟩).tokk0
    sT.uneven i = false ∧ (sT.roundPos i).1 = 0
      ∧ (at_ 28 true).ringPos ⟨0, 2⟩ ≠ 0 ∧ (at_ 28 true).ringPos ⟨0, 2⟩ = 7 * rr ∧ ((at_ 28 true).ring ⟨0, 2⟩).sampled = true
      ∧ (at_ 28 false).ringPos ⟨0, 2⟩ ≠ 15 * rr ∧ ((at_ 28 false).ring ⟨0, 2⟩).sampled = false
      ∧ (at_ 60 true).ringPos ⟨0, 2⟩ ≠ 0 ∧ (at_ 60 true).ringPos ⟨0, 2⟩ = 15 * rr
      ∧ (at_ 0 false).ringPos ⟨0, 2⟩ = 0 ∧ ((at_ 0 false).ring ⟨0, 2⟩).pend = [] ∧ ((at_ 0 false).ring ⟨0, 2⟩).frozen = false
      ∧ (h.ringNow ⟨0, 2⟩).overdue h.now 0 = true ∧ (h.ringNow ⟨0, 2⟩).overdue h.now 1 = false
      ∧ (∀ n ∈ h.sched.nodes, n.2.areas = []) := by
  decide

/-- A die one of whose routers has an offset of its own, one step into a round. -/
def unevenT : State := { sT.modDie 0 (fun d => { d with stepOff := [(3, 0)] }) with now := 1 }

theorem witness_UnevenRounds : unevenT.uneven ⟨.die, 0⟩ = true ∧ (unevenT.roundPos ⟨.die, 0⟩).1 ≠ 0 := by
  refine ⟨by decide, ?_⟩
  have h : ∀ v, unevenT.nodeStep ⟨.die, 0⟩ v = 1 := by
    intro v
    show w64 1 + sget 0 [(3, 0)] v = 1
    unfold sget sget
    split <;> decide
  show (unevenT.nodeStep ⟨.die, 0⟩ _).toNat % _ ≠ 0
  rw [h]
  decide

theorem witness_PokesAndRegisterWrites :
    let f := coreT (fun x => { x with fduty := { x.fduty with forced := true } })
    let d := coreT (fun x => { x with fduty := { x.fduty with newDiv := some 3, divTo := 3, divDue := some 64 } })
    let o := sT.modCore 1 (fun x => { x with mat := { x.mat with accmap := 1 } })
    ((ringT 0).ring ⟨0, 2⟩).mb.contains 1 = true ∧ ((ringT 0).ring ⟨0, 2⟩).mb.contains 2 = false
      ∧ (∀ sc ∈ [Scope.oct, .die, .pkg, .pod], (⟨sc, 0⟩ : Inst).scope = sc)
      ∧ (2#64).setWidth 16 &&& o.othersTiles 0 = 0 ∧ (1#64).setWidth 16 &&& o.othersTiles 0 ≠ 0
      ∧ sysAcc 0x010 = some .ro
      ∧ (sT.coreAt 0).fduty.forced = false ∧ (f.coreAt 0).fduty.forced = true
      ∧ (d.coreAt 0).fduty.forced = false ∧ (d.coreAt 0).fduty.newDiv = some 3 ∧ 3 ≠ (d.coreAt 0).fduty.div
      ∧ (d.coreAt 0).fduty.divDue.isSome = true := by decide

/-- An object of one page that the host backs, absent or not. -/
def backT (absent : Bool) : Obj := { size := 1, die := 0, dom := 0, ext := [⟨0, 1, .normal, absent, 5, 0, 1⟩] }

set_option maxRecDepth 20000 in
theorem witness_PageEvents :
    let s := memT []
    let w := s.modCtx 0 1 (fun x => { x with st := .waiting, page := some (9, 0) })
    let b : State := sT.modHere (fun x => { x with cache := { x.cache with cbuf := [⟨0, 0, [], false, 0, 0, false⟩] } })
    let q := match s.homeOf 9 0 with
      | some h => s.modSlice h.die h.slot (fun sl => { sl with quar := (List.range 16).map (fun w => (h.set, w)) })
      | none => s
    s.bypassed (9 * 2 ^ 40) = false ∧ q.bypassed (9 * 2 ^ 40) = true ∧ s.obj 9 = some objT ∧ objT.extent 0 = some ⟨0, 1, .normal, false, 5, 0, 0⟩ ∧ absT.extent 0 = some ⟨0, 1, .normal, true, 0, 0, 0⟩
      ∧ (absT.remap 0 id).isSome = true ∧ (backT true).extent 0 = some ⟨0, 1, .normal, true, 5, 0, 1⟩ ∧ ((backT true).remap 0 id).isSome = true
      ∧ (∀ n ∈ s.sched.nodes, n.2.areas = []) ∧ (∀ d ∈ s.dies, d.2.faults = [])
      ∧ (w.ctxAt 0 1).page = some (9, 0) ∧ (w.ctxAt 0 1).st = .waiting
      ∧ (w.ctxAt 0 0).page ≠ some (9, 0) ∧ (w.modCtx 0 0 (fun x => { x with page := some (9, 0) })).ctxAt 0 0 = { w.ctxAt 0 0 with page := some (9, 0) }
      ∧ (b.coreAt 0).cache.cbuf = [⟨0, 0, [], false, 0, 0, false⟩] ∧ 0 ≤ b.now ∧ b.now < 1
      ∧ (match s.homeOf 9 0 with
         | some h => (s.die h.die).named == false && h.ext.back == 0 && h.ext.ty != .device && !s.mustWait h
             && ((s.die h.die).slice h.slot).lines h.set == [] && ((s.die h.die).slice h.slot).quar == []
             && (s.die h.die).pinsLost == [] && s.hbmEcc == {} && !((s.die h.die).mask h.obj.dom).getLsbD 20
         | none => false) = true
      ∧ (s.obj 9).isSome = true ∧ s.obj 6 = none := by decide

/-- The state with that object, number 9. -/
def absS : State := { sT with objs := [(9, absT)] }

theorem witness_PageEventsOfAbsentPages : ∃ u f n r, absS.pickFrames 0 1 = (u, some ((f, n) :: r)) := by
  have e : absS.freeRuns 0 = [(0, 1048576), (1048576, 1048576)] := by decide
  have h : ∀ k, k < 2 → ∃ f n r, takeRuns 1 (([(0, 1048576), (1048576, 1048576)] : List (Nat × Nat)).drop k
      ++ ([(0, 1048576), (1048576, 1048576)] : List (Nat × Nat)).take k) = ((f, n) :: r, 0) := by
    intro k hk
    interval_cases k <;> exact ⟨_, _, _, rfl⟩
  obtain ⟨f, n, r, h⟩ := h (Config.framePick absS.fresh % 2) (Nat.mod_lt _ (by decide))
  refine ⟨absS.tick1, f, n, r, ?_⟩
  unfold State.pickFrames
  simp only [e]
  rw [show max 1 ([(0, 1048576), (1048576, 1048576)] : List (Nat × Nat)).length = 2 from rfl, h]
  rfl

set_option maxRecDepth 20000 in
theorem witness_PagesOnTheMove :
    let move : Migration := { obj := 9, pg := 0, stack := 1, frame := 6 }
    let m := (memT []).modDie 0 (fun d => { d with migr := [move] })
    let a := memT []
    objT.extent 0 = some ⟨0, 1, .normal, false, 5, 0, 0⟩ ∧ (objT.remap 0 id).isSome = true ∧ (absT.remap 0 id).isSome = true
      ∧ absT.extent 0 = some ⟨0, 1, .normal, true, 0, 0, 0⟩ ∧ (a.die 0).migr = [] ∧ a.snaps = []
      ∧ (m.die 0).migr = [move] ∧ m.hbmEcc = {} ∧ m.hbm.wf = true ∧ (∀ n ∈ m.sched.nodes, n.2.areas = [])
      ∧ (∀ d ∈ m.dies, d.2.faults = [])
      ∧ bits ((a.die 0).mask 15) 15 0 = 0 ∧ (0x8000 : BitVec 16) ≠ 0 ∧ 0x8000 &&& ~~~(((a.die 0).mask 0).setWidth 16) = (0 : BitVec 16)
      ∧ 0x8000 ≠ ((a.die 0).mask 0).setWidth 16 ∧ 0xFFFF = ((a.die 0).mask 0).setWidth 16
      ∧ bits ((a.die 0).mask 14) 15 0 ≠ 0 := by decide

set_option maxRecDepth 20000 in
theorem witness_SplitWalks :
    let s : State := { sT with objs := [(1023, objT)] }
    let l : SliceLine := { key := 1023 * 2 ^ 32, way := 0 }
    let o := match s.homeOf 1023 0 with | some h => h.slot + 1 | none => 0
    let sl : Slice := { sets := [(1023, [l])] }
    let w (sp : List (Nat × Nat)) : State := s.modDie 0 (fun d => { d with slices := [(o, sl)], splits := sp })
    ((w []).die 0).slices = [(o, sl)] ∧ sl.lines 1023 = [l]
      ∧ (match (w []).homeOf (l.key / 2 ^ 32) (l.key % 2 ^ 32 * 256) with
         | some h => h.die == 0 && h.set == 1023 && h.obj.dom == 0 && h.slot != o
         | none => false) = true ∧ l.dirty = 0
      ∧ ((w [(0, 15)]).die 0).splits = [(0, 15)] ∧ ((w [(0, 15), (0, 16)]).die 0).splits = [(0, 15), (0, 16)] ∧ (15 : Nat) ≠ 0 ∧ (15 : Nat) ≠ 16 := by
  decide

set_option maxRecDepth 20000 in
theorem witness_SnapshotDrains :
    let a := memT []
    let n : Snap := { obj := 9, cid := 7, t := 0, pool := 64, copies := [(0, ([], 0))] }
    let past : State := { a with now := 33 }
    let end_ : Snap := { n with next := 256 }
    [n].find? (fun m => m.obj == 9) = some n ∧ [end_].find? (fun m => m.obj == 9) = some end_ ∧ a.obj 9 = some objT ∧ objT.size ≤ end_.next / 256
      ∧ (a.homesOf 9).any (fun p => decide ((a.stepAt p.1 p.2).toNat ≤ n.t + 32)) = true
      ∧ (past.homesOf 9).all (fun p => decide (n.t + 32 < (past.stepAt p.1 p.2).toNat)) = true
      ∧ n.next / 256 < objT.size ∧ sfind n.copies n.next = some ([], 0)
      ∧ (match a.homeOf 9 (n.next * 256) with | some h => decide (n.t ≤ (a.stepAt h.die h.slot).toNat) && !h.ext.absent | none => false) = true
      ∧ (match a.homeOf 8 (n.next * 256) with | some h => decide (n.t ≤ (a.stepAt h.die h.slot).toNat) && h.ext.absent | none => false) = true := by
  decide

/-- A node record of core 0 alone. -/
def recT : NodeRec := { entry := w64 (aliasId * 2 ^ 40), lcores := 1, cid := 7, nopreempt := true }
/-- Node 4095 with that record in a state, its CID resident. -/
def nodeT (st : NodeSt) (f : NodeRec → NodeRec) : State :=
  { sT with cores := [], sched := { sT.sched with nodes := [(4095, { rec_ := f recT, st := st })], resident := [7] } }

set_option maxRecDepth 20000 in
theorem witness_LaunchesStart :
    let s := nodeT .ready id
    let r (st : NodeSt) (f : NodeRec → NodeRec) : State := (nodeT st f).modCore 0 (fun x => { x with run := { x.run with next := some (4095, 0) } })
    let p := r .running (fun n => { n with pinned := true })
    let two : State := sT.modCore 1 id
    (∀ e ∈ sT.sched.nodes, e.2.waits = false) ∧ s.sched.nodes = [(4095, { rec_ := recT, st := .ready })] ∧ s.dispatchable 4095 = true
      ∧ (s.node 4095).level < 8 ∧ (s.node 4095).rec_.hasCore 0 = true ∧ (s.node 4095).rec_.hasCore 1 = false
      ∧ ((r .running id).coreAt 0).run.next = some (4095, 0) ∧ ((r .running id).node 4095).st = .running
      ∧ ((r .draining id).coreAt 0).run.next = some (4095, 0) ∧ ((r .draining id).node 4095).st = .draining
      ∧ (p.coreAt 0).run.next = some (4095, 0) ∧ (p.node 4095).st = .running ∧ (p.node 4095).rec_.pinned = true
      ∧ ((r .done id).coreAt 0).run.next = some (4095, 0) ∧ ((r .done id).node 4095).st ≠ .running ∧ ((r .done id).node 4095).st ≠ .draining
      ∧ (s.coreAt 0).run.next = none ∧ (1 : Nat) ≠ 0 ∧ (sfind two.cores 1).isSome = true ∧ rowOf 1 = rowOf 0 ∧ dieOf 1 = dieOf 0 := by decide

set_option maxRecDepth 40000 in
theorem witness_LaunchesAreSwitched :
    let s := (nodeT .draining (fun r => { r with nopreempt := false, carea := 0 })).modCore 0
      (fun x => { x with run := { x.run with node := some 4095, preempt := true } })
    let a : Area := { core := (State.reset.coreAt 0), wells := [], tiles := [] }
    let r : State := { sT with sched := { sT.sched with nodes := [(4095, { rec_ := recT, st := .saved, areas := [(0, a)] })] } }
    ((nodeT .ready id).node 4095).waits = true ∧ ((nodeT .done id).node 4095).waits = false
      ∧ ((nodeT .running (fun r => { r with nopreempt := false })).node 4095).st = .running
      ∧ ((nodeT .running (fun r => { r with nopreempt := false })).node 4095).rec_.nopreempt = false
      ∧ ((nodeT .running id).node 4095).rec_.nopreempt = true ∧ (s.node 4095).st = .draining ∧ ((nodeT .running id).node 4095).st ≠ .draining
      ∧ ((nodeT .running id).node 4095).st ≠ .saved ∧ (r.node 4095).st = .saved ∧ (r.node 4095).areas = [(0, a)]
      ∧ (s.coreAt 0).run.node = some 4095 ∧ (sT.coreAt 0).run.node = none ∧ (sT.coreAt 0).run.preempt = false
      ∧ (({ sT with cores := [(0, { sT.coreAt 0 with xch := { (sT.coreAt 0).xch with xtag := 256 } })] }).coreAt 0).mayLeave = false := by decide

/-- A draining launch of core 0 whose area is that object. -/
def leaveT : State :=
  let r : NodeRec := { entry := w64 (aliasId * 2 ^ 40), lcores := 1, cid := 7, carea := w64 (5 * 2 ^ 40) }
  { sT with
    cores := [(0, { sT.coreAt 0 with run := { (sT.coreAt 0).run with node := some 4095, lcid := 7, preempt := true } })]
    objs := [(5, areaO)]
    sched := { sT.sched with nodes := [(4095, { rec_ := r, st := .draining })], resident := [7] } }

set_option maxRecDepth 40000 in
theorem leaveT_ready :
    let m := leaveT.meetAll 0
    let u := m.1.bufDrainAll 0 (fun _ => true)
    let v := u.1.flushPrivate 0
    m.2 = false ∧ u.2 = true ∧ v.2 = true ∧ areaBase (v.1.node 4095).rec_ 0 = w64 (5 * 2 ^ 40) ∧ v.1.obj 5 = some areaO
      ∧ (v.1.die 0).named = false ∧ (v.1.coreAt 0).mat.queue = [] ∧ (v.1.coreAt 0).engs = [] ∧ (v.1.coreAt 0).vec.queue = []
      ∧ (v.1.coreAt 0).loc.bank = [] ∧ (v.1.coreAt 0).mat.accmap = 0 ∧ (v.1.coreAt 0).replays = []
      ∧ (leaveT.coreAt 0).run.node = some 4095 ∧ (leaveT.coreAt 0).run.preempt = true ∧ (leaveT.coreAt 0).mayLeave = true
      ∧ leaveT.lastOfShared 0 = true := by decide

theorem pair_of {α : Type} {b : Bool} (p : α × Bool) (h : p.2 = b) : p = (p.1, b) := by rw [← h]

theorem witness_ACoreLeaves : ∃ m u v w, (leaveT.coreAt 0).run.node = some 4095 ∧ (leaveT.coreAt 0).run.preempt = true
    ∧ (leaveT.coreAt 0).mayLeave = true ∧ leaveT.lastOfShared 0 = true ∧ leaveT.meetAll 0 = (m, false)
    ∧ m.bufDrainAll 0 (fun _ => true) = (u, true) ∧ u.flushPrivate 0 = (v, true) ∧ v.writeArea 0 4095 = (w, true) := by
  obtain ⟨h1, h2, h3, h4, h5, h6, h7, h8, h9, h10, h11, h12, h13, h14, h15, h16⟩ := leaveT_ready
  have hb : ∀ k, bankV (((((leaveT.meetAll 0).1.bufDrainAll 0 (fun _ => true)).1.flushPrivate 0).1.coreAt 0).bankmap k) = false := by
    intro k
    unfold Core.bankmap
    rw [h10, sget]
    decide
  exact ⟨_, _, _, _, h13, h14, h15, h16, pair_of _ h1, pair_of _ h2, pair_of _ h3,
    pair_of _ (areaO_accepts _ _ h4 ⟨rfl, h5, h6⟩ (areaO_image _ _ h7 h8 h9 hb h11 h12))⟩

/-- Core 0 alone, with nothing to run. -/
def idleT (now : Nat) : State := { State.reset with now := now, cores := [(0, State.reset.coreAt 0)] }

theorem witness_GovernorEvents :
    let s : State := { idleT 7000 with gov := { State.reset.gov with loose := false } }
    let pin := (nodeT .running (fun n => { n with pinned := true })).modCore 0 (fun x => { x with run := { x.run with node := some 4095 } })
    let o (l : Nat) : State := { s with octets := [(0, { s.oct 0 with level := l, levelAt := 6300 })] }
    let f : State := { s with gov := { s.gov with falls := [(0, 0, 1)] } }
    s.gov.loose = false ∧ (∀ e ∈ s.sched.nodes, e.2.rec_.pinned = false)
      ∧ ((o 0).oct 0).level = 0 ∧ ((o 1).oct 0).level ≠ 0 ∧ 700 ≤ (o 1).now - ((o 1).oct 0).levelAt
      ∧ ({ o 1 with now := 6999 } : State).now - ((o 1).oct 0).levelAt < 700
      ∧ s.cores = [(0, State.reset.coreAt 0)] ∧ pin.rowPinned 0 0 = true ∧ s.rowPinned 0 0 = false
      ∧ 15 ≤ ((s.die 0).row 0).duty ∧ 16 ≤ ((s.die 0).row 0).duty
      ∧ (((s.modDie 0 (fun d => { d with rows := [(0, { d.row 0 with duty := 15 })] })).die 0).row 0).duty < 16
      ∧ (s.coreAt 0).switchable = true ∧ 7000 ≤ s.now - (s.coreAt 0).idleSince
      ∧ (sT.coreAt 0).switchable = false ∧ (idleT 6999).now - ((idleT 6999).coreAt 0).idleSince < 7000
      ∧ (((s.modDie 0 (fun d => { d with rows := [(0, { d.row 0 with table := [0] })] })).die 0).row 0).table.contains 0 = true
      ∧ ((s.die 0).row 0).table.contains ((s.die 0).row 0).sig = false ∧ 0 ∈ s.rowListed 0 0 ∧ f.gov.falls = [(0, 0, 1)] := by decide

/-- A row's duty above whatever the controllers' free value asks. -/
def dutyT : State := (idleT 0).modDie 0 (fun d => { d with rows := [(0, { d.row 0 with duty := 17 })] })

theorem witness_DieThrottle : (0, 0) ∈ dutyT.rowsListed ∧ dutyT.rowPinned 0 0 = false
    ∧ 1 + Config.throttleDuty dutyT.fresh % 16 < ((dutyT.die 0).row 0).duty := by
  refine ⟨by decide, by decide, ?_⟩
  have := Nat.mod_lt (Config.throttleDuty dutyT.fresh) (show 0 < 16 by decide)
  rw [show ((dutyT.die 0).row 0).duty = 17 from by decide]
  omega

set_option maxRecDepth 20000 in
theorem witness_DeviceFaultsAndScrubbing :
    let r := { sT with cores := [(0, { sT.coreAt 0 with run := { (sT.coreAt 0).run with node := some 4095, lcid := 7 } })] }
    let n := nodeT .saved id
    let f (x : BitVec 64) : State := { sT with hbmEcc := { flips := [((3 * 2 ^ 37 + 13 / 8 * 8) / 8, x)] } }
    let p := sT.modHere (fun x => { x with xch := { x.xch with xtag := 256 }, run := { x.run with node := some 4095 } })
    let c := sT.modHere (fun x => { x with loc := { x.loc with ecc := { flips := [(5, 1)] } } })
    (3 : Nat) ≠ 13 ∧ terminates 5 = true ∧ (r.coreAt 0).run.node.isSome = true ∧ (r.coreAt 0).cid = 7 ∧ (n.node 4095).rec_.cid = 7
      ∧ (n.node 4095).st = .saved ∧ (n.node 4095).st ≠ .free
      ∧ p.scrubDie (.hbm 0 0) = some 0 ∧ p.phaseOpen 0 = true ∧ sT.phaseOpen 0 = false
      ∧ (f 1).hbmEcc.poison.contains ((3 * 2 ^ 37 + 13 / 8 * 8) / 8) = false ∧ sfind (f 1).hbmEcc.flips ((3 * 2 ^ 37 + 13 / 8 * 8) / 8) = some 1
      ∧ sfind (f 3).hbmEcc.flips ((3 * 2 ^ 37 + 13 / 8 * 8) / 8) = some 3 ∧ popcount (1 : BitVec 64) = 1 ∧ popcount (3 : BitVec 64) = 2
      ∧ (c.coreAt 0).loc.ecc.poison.contains (43 / 8) = false ∧ sfind (c.coreAt 0).loc.ecc.flips (43 / 8) = some 1
      ∧ (∀ d ∈ linkDies (.dieLink 0 1), sT.phaseOpen d = false) ∧ (0 ∈ linkDies (.dieLink 0 1) ∧ p.phaseOpen 0 = true) := by decide

/-- The progress of a scrub pass, a free value, either stands at or above the progress before or has fallen. -/
theorem witness_ScrubPass (s : State) (die : Nat) :
    bits (s.die die).rasstat 15 0 ≤ Config.scrubPass s.fresh % 65536 ∨ Config.scrubPass s.fresh % 65536 < bits (s.die die).rasstat 15 0 :=
  Nat.lt_or_ge _ _ |>.symm

set_option maxRecDepth 20000 in
theorem witness_NamedFailuresAndSoftErrors :
    let l : LinkId := .router 15 0 239
    let p : State := { sT with pendingLinks := [l] }
    let d := sT.modDie 15 (fun d => { d with deadRouters := [239] })
    let x := sT.modHere (fun x => { x with xch := { x.xch with xtag := 256 }, run := { x.run with node := some 4095 } })
    let pod : State := { sT with podsize := 3, modno := 1 }
    let gone : State := { pod with deadMods := [2] }
    let cut := ({ sT with deadLinks := [.router 0 240 241] }).modDie 0 (fun d => { d with deadRouters := List.range 240 })
    let q := queueT sT (vT .vyield [] 0)
    let k : State := { sT with cores := [(0, { sT.coreAt 0 with run := { (sT.coreAt 0).run with node := some 4095 } })] }
    let h (s : State) (dbl : Bool) : State := (s.at_ 0 0).modMe (fun x =>
      { x with hurt := [(6, dbl)], q0 := { x.q0 with line := .ok (oneLine 0x00A6 0) } })
    l ∉ sT.pendingLinks ∧ l ∉ sT.deadLinks ∧ l ∈ p.pendingLinks ∧ 239 ∉ (sT.die 15).deadRouters ∧ 239 ∈ (d.die 15).deadRouters
      ∧ 2 < pod.podsize ∧ 2 ≠ pod.modno ∧ 2 ∉ pod.deadMods ∧ 2 ∈ gone.deadMods ∧ sT.podsize ≤ 2
      ∧ x.phaseOpen 0 = true ∧ sT.phaseOpen 0 = false ∧ dieOf 0 = 0 ∧ (sfind sT.cores 0).isSome = true
      ∧ cut.phaseOpen 0 = false ∧ (cut.modDie 0 Die.routed).dieConnects 0 = false
      ∧ (0x8000000000000000 : BitVec 64) ≠ 0 ∧ popcount (0x8000000000000000 : BitVec 64) = 1
      ∧ (q.coreAt 0).vec.queue[0]? = some (vT .vyield [] 0)
      ∧ (k.coreAt 0).run.node.isSome = true ∧ true ∉ [false] ∧ true ∈ [true]
      ∧ (h sT false).me.hurt = [(6, false)] ∧ (genReads (h sT false).me.shown (.add2 5 6)).contains 6 = true
      ∧ (h sT false).tagUse (.add2 5 6) = [] ∧ (h k true).me.hurt = [(6, true)] ∧ (h k true).here.run.node.isSome = true := by decide

/-- A header of connection 1 in version 3. -/
def hdrT (cid : Nat) : Hdr := { conn := 1, ver := 3, cid := cid }
/-- The state with that connection, of some features. -/
def linkT (feat : BitVec 32) (s : State) : State := { s with conns := [{ id := 1, ver := 3, feat := feat }] }
/-- The state with that connection. -/
def hostT (s : State) : State := linkT 0x3F s
theorem linkT_serves (feat : BitVec 32) (s : State) (cid : Nat) (hs : s.boot.stage = none) (ho : s.boot.off = false)
    (hc : cid ≤ 1023) :
    (linkT feat s).serves (hdrT cid) := ⟨{ id := 1, ver := 3, feat := feat }, rfl, rfl, by simp [Hdr.legal, hdrT, hc], rfl, rfl, hs, ho⟩
theorem linkT_romServes (feat : BitVec 32) (s : State) (cid : Nat) (hc : cid ≤ 1023) : (linkT feat s).romServes (hdrT cid) :=
  ⟨{ id := 1, ver := 3, feat := feat }, rfl, rfl, by simp [Hdr.legal, hdrT, hc], rfl, rfl⟩

theorem witness_AttachAndStart :
    let s := hostT sT
    let b (k : Nat) : State := { s with boot := { s.boot with stage := some k } }
    let off : State := { s with boot := { s.boot with off := true } }
    let full : State := { s with conns := (List.range 8).map (fun k => { id := k + 2, ver := 3, feat := 0 }) }
    let older : State := { s with conns := [{ id := 1, ver := 2, feat := 0 }] }
    let joined : State := { s with attached := true, modno := 5, podsize := 9 }
    let held : State := { s with conns := [{ id := 1, ver := 3, feat := 0, waits := some (.start (hdrT 0) true) }] }
    State.reset.conns.length < 8 ∧ max 1 1 ≤ min 3 3 ∧ State.reset.attached = false ∧ 16383 < 16384 ∧ min 3 3 < max 1 4
      ∧ max 1 3 ≤ min 3 9 ∧ 16384 ≤ 16384 ∧ 8 ≤ full.conns.length ∧ full.conn (hdrT 0) = none
      ∧ s.romServes (hdrT 0) ∧ (linkT 0 sT).romServes (hdrT 0)
      ∧ (linkT 0 sT).conn (hdrT 0) = some { id := 1, ver := 3, feat := 0 } ∧ (0 : BitVec 32).getLsbD 5 = false
      ∧ (List.replicate 4080 (0 : Byte)).length ≤ 4080 ∧ 4080 < (List.replicate 4081 (0 : Byte)).length
      ∧ s.conn (hdrT 0) = some { id := 1, ver := 3, feat := 0x3F } ∧ s.boot.off = false ∧ s.boot.stage = none
      ∧ (b 0).conn (hdrT 0) = some { id := 1, ver := 3, feat := 0x3F } ∧ (b 0).boot.off = false ∧ (b 0).boot.stage = some 0
      ∧ (b 1).boot.stage = some (0 + 1) ∧ off.conn (hdrT 0) = some { id := 1, ver := 3, feat := 0x3F } ∧ off.boot.off = true
      ∧ (hdrT 0).legal = true ∧ (hdrT 1024).legal = false ∧ s.conn (hdrT 1024) = some { id := 1, ver := 3, feat := 0x3F }
      ∧ State.reset.conn (hdrT 0) = none ∧ older.conn (hdrT 0) = some { id := 1, ver := 2, feat := 0 } ∧ 2 ≠ (hdrT 0).ver
      ∧ ({ id := 1, ver := 3, feat := 0x3F } : Conn).waits = none ∧ ({ id := 1, ver := 3, feat := 0x3F } : Conn).behind = false
      ∧ joined.attached = true ∧ 5 = joined.modno ∧ 9 = joined.podsize ∧ (6 : Nat) ≠ joined.modno ∧ 6 < 9
      ∧ (held.conn (hdrT 0)).map (·.waits) = some (some (.start (hdrT 0) true)) ∧ Event.start (hdrT 0) true ≠ .start (hdrT 0) false
      ∧ imageOk false [] = false := by
  refine ⟨by decide, ?_⟩
  repeat' apply And.intro
  all_goals first
    | rw [List.length_replicate]; decide
    | exact List.length_replicate.le
    | decide
    | exact linkT_romServes _ _ _ (by decide)

/-- What a free value of the machine decides has one of its two outcomes: an image's version, a pod's formats, a drain's frames. -/
theorem witness_FreeOutcomes (img : List Byte) (k modno pods : Nat) (o : Iface) (m : Nat → BitVec 32) :
    (imageOk true img = true ∨ imageOk true img = false)
      ∧ (podFormat k modno pods o m = none ∨ ∃ a, podFormat k modno pods o m = some a) := by
  constructor
  · cases imageOk true img <;> simp
  · cases podFormat k modno pods o m <;> simp

set_option maxRecDepth 20000 in
theorem witness_StartStages :
    let b (k : Nat) (cold : Bool) (now : Nat) : State := { sT with now := now, boot := { sT.boot with stage := some k, cold := cold, began := 0 } }
    (∀ k ∈ [1, 2, 3, 4, 5], (b k true 0).boot.stage = some k) ∧ (b 2 false 0).boot.cold = false
      ∧ imageOk false (b 1 true 0).boot.image = false ∧ (b 6 true 0).boot.stage = some 6 ∧ (b 6 true 0).boot.cold = true
      ∧ (b 6 false 0).boot.stage = some 6 ∧ (b 6 false 0).boot.cold = false ∧ sT.boot.stage = none ∧ (b 0 true 0).boot.stage = some 0
      ∧ (b 1 true fiveSeconds).boot.stage = some (0 + 1) ∧ (b 1 true fiveSeconds).boot.began + fiveSeconds ≤ (b 1 true fiveSeconds).now
      ∧ (b 1 true 0).now < (b 1 true 0).boot.began + fiveSeconds := by decide

/-- Node 4095 of CID 7 in a state, with the host's connection. -/
def schedT (st : NodeSt) : State := hostT { sT with sched := { sT.sched with nodes := [(4095, { rec_ := recT, st := st })], resident := [7] } }
/-- The sixteen words of that node's record. -/
def wordsT : List Word := [w64 (aliasId * 2 ^ 40), 0x10000, 0, 0, 0x4000007, 0, 0, 0, 0, 0, 0, 0, 0, 0, 0, 0]

set_option maxRecDepth 20000 in
theorem witness_SchedulerCommands :
    let f : State := hostT { sT with sched := { sT.sched with resident := List.range 64 } }
    let target := (schedT .done).modCore 0 (fun x => { x with loc := { x.loc with tcm := [(62, 0x20)] } })
    (∀ st, (schedT st).serves (hdrT 7)) ∧ f.serves (hdrT 1023) ∧ (hostT sT).serves (hdrT 1)
      ∧ (hdrT 1).cid ∉ (hostT sT).sched.resident
      ∧ (hostT sT).sched.resident.length < 64 ∧ (hdrT 1023).cid ∉ f.sched.resident ∧ 64 ≤ f.sched.resident.length
      ∧ (hdrT 7).cid ∈ (schedT .done).sched.resident
      ∧ (∀ e ∈ (schedT .done).sched.nodes, e.2.rec_.cid = 7 → e.2.st ≠ .running ∧ e.2.st ≠ .draining)
      ∧ (4095, { rec_ := recT, st := .running }) ∈ (schedT .running).sched.nodes
      ∧ NodeRec.ofWords wordsT = some recT ∧ NodeRec.ofWords (wordsT.set 12 0x100000000) = none ∧ NodeRec.ofWords [] = none
      ∧ recT.legal = true ∧ (hdrT 7).cid = recT.cid ∧ recT.xlen ≤ (schedT .done).sched.xmaxlen.toNat
      ∧ recT.cores.any (schedT .done).isHole = false ∧ (schedT .done).pageFailed (hdrT 7) = false
      ∧ ((schedT .done).entryLine recT.entry 7).2 = .ok (List.replicate 64 0) ∧ lineTgt (List.replicate 64 0) = false
      ∧ (match (target.entryLine recT.entry 7).2 with | .ok bs => lineTgt bs | _ => false) = true
      ∧ ((hostT (memT [])).entryLine (9 * 2 ^ 40) 7).2 = .ok (List.replicate 64 0)
      ∧ ((hostT (memT [])).entryLine (8 * 2 ^ 40) 7).2 = .absent ∧ ((hostT (memT [])).entryLine (6 * 2 ^ 40) 7).2 = .object
      ∧ ((schedT .done).node 0).st = .free ∧ ((schedT .done).node 4095).st ≠ .free
      ∧ (∀ st ∈ [NodeSt.waiting, .running, .done, .failed],
          (schedT st).ownsNode (hdrT 7) 4095 = true ∧ ((schedT st).node 4095).st = st) := by
  refine ⟨fun st => linkT_serves _ _ _ rfl rfl (by decide), linkT_serves _ _ _ rfl rfl (by decide),
    linkT_serves _ _ _ rfl rfl (by decide), ?_⟩
  decide

set_option maxRecDepth 40000 in
theorem witness_MemoryAndRegisterCommands :
    let s := hostT (memT [])
    let u := linkT 0 (memT [])
    let f : State := { s with dies := [(0, { faults := [{ obj := 8, pg := 0, slot := 0 }] })] }
    let a : Word := 9 * 2 ^ 40 + 0xFFF8
    let r : PageRun := ⟨16777215, .normal, false, 2⟩
    let c : Conn := { id := 2, ver := 3, feat := 0x3F, waits := some (.memread { hdrT 7 with conn := 2 } a 8) }
    let other : State := { s with conns := s.conns ++ [c] }
    let w := s.writeSome (outsider (s.homeDie a)) a (List.replicate 8 1) 7
    s.serves (hdrT 7) ∧ u.serves (hdrT 7) ∧ (∀ obj, s.objectFree obj) ∧ other.serves (hdrT 7) ∧ c ∈ other.conns ∧ r.count ≠ 0 ∧ r.count ≤ 16777215 ∧ 0 < r.back ∧ r.back < 3 ∧ (6 : Nat) ≠ 0 ∧ 6 < aliasId
      ∧ s.obj 6 = none ∧ bits ((s.die 15).mask 14) 15 0 ≠ 0 ∧ s.objs.length < 1048576 ∧ s.obj 9 = some objT ∧ 1 ≤ objT.size
      ∧ (∀ g ∈ (f.die objT.die).faults, g.obj ≠ 9)
      ∧ s.snaps = [] ∧ (s.stepAt objT.die 0).toNat + 7000 ≤ (7000 : Word).toNat ∧ s.feature (hdrT 7) 0 = true ∧ u.feature (hdrT 7) 0 = false
      ∧ s.hostRange a 8 = true ∧ s.hostRange a 9 = false ∧ s.hostRange 0 1 = false ∧ s.pageFailed (hdrT 7) = false
      ∧ w.2 = (List.replicate 8 (1 : Byte)).length
      ∧ sectorPieces a.toNat 8 = [(a.toNat, 8)]
      ∧ (s.rawRead (outsider (s.homeDie a)) a 8 7).2 = .ok (List.replicate 8 0)
      ∧ s.mayForget 7 0 31 = true ∧ s.mayForget 7 16 0 = false
      ∧ c.id ≠ (hdrT 7).conn ∧ c.behind = false ∧ c.waits = some (.memread { hdrT 7 with conn := 2 } a 8)
      ∧ hostObj (.memread { hdrT 7 with conn := 2 } a 8) = some (idOf a)
      ∧ (sysAcc 0x000).isSome = true ∧ (s.ctxAt 0 0).st = .live := by
  refine ⟨linkT_serves _ _ _ rfl rfl (by decide), linkT_serves _ _ _ rfl rfl (by decide), ?_, ?_, List.mem_append_right _ List.mem_cons_self, ?_⟩
  · intro obj c hc w hw
    rcases List.mem_singleton.1 hc with rfl
    cases hw
  · exact ⟨{ id := 1, ver := 3, feat := 0x3F }, rfl, rfl, by decide, rfl, rfl, rfl, rfl⟩
  · decide

/-- An object that takes every frame of die 0. -/
def wholeDie : Obj := { size := 2 ^ 21, die := 0, dom := 0, ext := [⟨0, 2 ^ 20, .normal, false, 0, 0, 0⟩, ⟨2 ^ 20, 2 ^ 20, .normal, false, 0, 1, 0⟩] }

theorem witness_SnapshotPools : (∃ u runs, (hostT sT).pickFrames 0 64 = (u, some runs))
    ∧ ∃ u, (hostT { sT with objs := [(9, wholeDie)] }).pickFrames 0 64 = (u, none) := by
  constructor
  · have e : (hostT sT).freeRuns 0 = [(0, 1048576), (1048576, 1048576)] := by decide
    have h : ∀ k, k < 2 → ∃ r, takeRuns 64 (([(0, 1048576), (1048576, 1048576)] : List (Nat × Nat)).drop k
        ++ ([(0, 1048576), (1048576, 1048576)] : List (Nat × Nat)).take k) = (r, 0) := by
      intro k hk
      interval_cases k <;> exact ⟨_, rfl⟩
    obtain ⟨r, h⟩ := h (Config.framePick (hostT sT).fresh % 2) (Nat.mod_lt _ (by decide))
    refine ⟨(hostT sT).tick1, r, ?_⟩
    unfold State.pickFrames
    simp only [e]
    rw [show max 1 ([(0, 1048576), (1048576, 1048576)] : List (Nat × Nat)).length = 2 from rfl, h]
    rfl
  · have e : (hostT { sT with objs := [(9, wholeDie)] }).freeRuns 0 = [] := by decide
    refine ⟨(hostT { sT with objs := [(9, wholeDie)] }).tick1, ?_⟩
    unfold State.pickFrames
    simp only [e, List.drop_nil, List.take_nil, List.append_nil, takeRuns]

theorem witness_DecodeInvertsEncode :
    encode (.vld 9 10 0x51234 3) = some ⟨0xC92A, 0x9D1234⟩ ∧ (Instr.vld 9 10 0x51234 3).wf = true := by decide

/-- The state after reset with ADD g5, g6 (or another head) where the next fetch reads. -/
def stepT (head : Nat) : State := State.reset.withFetchWord 16 head

set_option maxRecDepth 20000 in
theorem witness_StepRunsTheInstruction :
    let s := stepT 0x00A6
    let n := (stepT 0x00A6).modCtx 0 0 (fun x => { x with q0 := { x.q0 with annul := true } })
    let r := stepT 0xE400
    let h := (stepT 0x00A6).modCtx 0 0 (fun x => { x with hurt := [(6, false)] })
    let u := s.chosen 0 0 10
    let v := r.chosen 0 0 10
    let m := n.chosen 0 0 10
    let w := h.chosen 0 0 10
    s.agenda = [] ∧ s.nextIssue = some (0, 0, 10) ∧ (∀ e ∈ u.here.struck, e.ctx ≠ 0) ∧ u.me.sigFault = none ∧ u.me.pending = none
      ∧ u.here.vec.fault = none ∧ u.me.awaits = false ∧ u.irqDue 0 = false
      ∧ u.me.page = none ∧ u.me.q0.fault = none ∧ u.me.q0.line = .ok (oneLine 0x00A6 0) ∧ u.me.q0.annul = false ∧ u.owed = none
      ∧ u.me.decFlip = 0 ∧ lineDecode (oneLine 0x00A6 0) (headIdx u.me.q0.addr) = .ok (.add2 5 6) ∧ u.whole (.add2 5 6) = true
      ∧ h.agenda = [] ∧ h.nextIssue = some (0, 0, 10) ∧ w.me.pending = none ∧ w.me.q0.line = .ok (oneLine 0x00A6 0)
      ∧ w.whole (.add2 5 6) = false
      ∧ r.agenda = [] ∧ r.nextIssue = some (0, 0, 10) ∧ (∀ e ∈ v.here.struck, e.ctx ≠ 0) ∧ v.me.sigFault = none ∧ v.me.pending = none
      ∧ v.here.vec.fault = none ∧ v.irqDue 0 = false ∧ v.me.page = none ∧ v.me.q0.fault = none
      ∧ v.me.q0.line = .ok (oneLine 0xE400 0) ∧ v.me.q0.annul = false ∧ v.owed = none ∧ v.me.decFlip = 0
      ∧ lineDecode (oneLine 0xE400 0) (headIdx v.me.q0.addr) = .error .reservedMajor
      ∧ n.agenda = [] ∧ n.nextIssue = some (0, 0, 10) ∧ (∀ e ∈ m.here.struck, e.ctx ≠ 0) ∧ m.me.sigFault = none ∧ m.me.pending = none
      ∧ m.here.vec.fault = none ∧ m.irqDue 0 = false ∧ m.me.page = none ∧ m.me.q0.fault = none
      ∧ m.me.q0.line = .ok (oneLine 0x00A6 0) ∧ m.me.q0.annul = true
      ∧ (u.modMe (fun x => { x with arrived := true })).ctxAt 0 0 ≠ u.ctxAt 0 0
      ∧ u.agenda = [] ∧ ({ s with agenda := [Event.alarm 0] } : State).agenda ≠ []
      ∧ ({ s with agenda := [Event.alarm 0] } : State).agenda = Event.alarm 0 :: [] ∧ (Event.alarm 0).is (.alarm 0) := by
  refine ⟨by decide, ?_⟩
  repeat' apply And.intro
  all_goals first | decide | rfl

theorem witness_LegalIsKept : State.reset.legal ∧ step State.reset = .next (State.reset.endIssue) :=
  ⟨legal_reset, rfl⟩
end

section
/-!
PROOFS. The statements on the scope of the machine (spec/00): decoder and encoder (spec/03 R61, R72), privileged functions and
system registers (spec/05 R112, R115), the step of the machine (spec/05 R124) and the state after a cold start (R408).
-/

/-! ### Decoder and encoder (R8, R61, R72) -/

namespace Sys2Proof.Laws

/-- Every instruction with a head and tail is what they decode to, before must-be-zero fields and limits are looked at. -/
theorem rawDecode_encode (i : Instr) : Enc.Statement i := by
  cases i with
  | add2 a b => exact Enc.add2 a b | sub2 a b => exact Enc.sub2 a b | and2 a b => exact Enc.and2 a b
  | or2 a b => exact Enc.or2 a b | xor2 a b => exact Enc.xor2 a b | mov a b => exact Enc.mov a b
  | shl2 a b => exact Enc.shl2 a b | shrl2 a b => exact Enc.shrl2 a b
  | add a b c => exact Enc.add a b c | sub a b c => exact Enc.sub a b c | and a b c => exact Enc.and a b c
  | or a b c => exact Enc.or a b c | xor a b c => exact Enc.xor a b c | andn a b c => exact Enc.andn a b c
  | orn a b c => exact Enc.orn a b c | shl a b c => exact Enc.shl a b c | shrl a b c => exact Enc.shrl a b c
  | shra a b c => exact Enc.shra a b c | rot a b c => exact Enc.rot a b c | addw a b c => exact Enc.addw a b c
  | subw a b c => exact Enc.subw a b c | mul a b c => exact Enc.mul a b c | mulh a b c => exact Enc.mulh a b c
  | mulhn a b c => exact Enc.mulhn a b c | div a b c => exact Enc.div a b c | divn a b c => exact Enc.divn a b c
  | rem a b c => exact Enc.rem a b c | remn a b c => exact Enc.remn a b c | min a b c => exact Enc.min a b c
  | max a b c => exact Enc.max a b c | minn a b c => exact Enc.minn a b c | maxn a b c => exact Enc.maxn a b c
  | seq a b c => exact Enc.seq a b c | sne a b c => exact Enc.sne a b c | slt a b c => exact Enc.slt a b c
  | sltn a b c => exact Enc.sltn a b c | sle a b c => exact Enc.sle a b c | slen a b c => exact Enc.slen a b c
  | csel a b c => exact Enc.csel a b c
  | addi a b imm => exact Enc.addi a b imm | andi a b imm => exact Enc.andi a b imm | ori a b imm => exact Enc.ori a b imm
  | xori a b imm => exact Enc.xori a b imm | shli a b imm => exact Enc.shli a b imm | shrli a b imm => exact Enc.shrli a b imm
  | shrai a b imm => exact Enc.shrai a b imm
  | movi a imm => exact Enc.movi a imm
  | not a b => exact Enc.not a b | clz a b => exact Enc.clz a b | ctz a b => exact Enc.ctz a b | popc a b => exact Enc.popc a b
  | sextB a b => exact Enc.sextB a b | sextH a b => exact Enc.sextH a b | sextW a b => exact Enc.sextW a b
  | zextB a b => exact Enc.zextB a b | zextH a b => exact Enc.zextH a b | zextW a b => exact Enc.zextW a b
  | bfx a b pos len1 => exact Enc.bfx a b pos len1 | bfxS a b pos len1 => exact Enc.bfxS a b pos len1
  | bfi a b pos len1 => exact Enc.bfi a b pos len1
  | obj a b c => exact Enc.obj a b c | objId a b => exact Enc.objId a b | objOff a b => exact Enc.objOff a b
  | lea a b c s imm => exact Enc.lea a b c s imm
  | fadd tv a b c => exact Enc.fadd tv a b c | fsub tv a b c => exact Enc.fsub tv a b c
  | fmul tv a b c => exact Enc.fmul tv a b c | fmin tv a b c => exact Enc.fmin tv a b c
  | fmax tv a b c => exact Enc.fmax tv a b c | fseq tv a b c => exact Enc.fseq tv a b c
  | fslt tv a b c => exact Enc.fslt tv a b c | fsle tv a b c => exact Enc.fsle tv a b c | fabs tv a b => exact Enc.fabs tv a b
  | fneg tv a b => exact Enc.fneg tv a b | fclass tv a b => exact Enc.fclass tv a b
  | ffma tv a b c d => exact Enc.ffma tv a b c d | fcvt dst src mode a b => exact Enc.fcvt dst src mode a b
  | b n disp => exact Enc.b n disp
  | beq n a b disp => exact Enc.beq n a b disp | bne n a b disp => exact Enc.bne n a b disp
  | blt n a b disp => exact Enc.blt n a b disp | bge n a b disp => exact Enc.bge n a b disp
  | bltn n a b disp => exact Enc.bltn n a b disp | bgen n a b disp => exact Enc.bgen n a b disp
  | bz n a disp => exact Enc.bz n a disp | bnz n a disp => exact Enc.bnz n a disp
  | jal n a disp => exact Enc.jal n a disp
  | jr n a => exact Enc.jr n a
  | hstart a b c => exact Enc.hstart a b c | hjoin a b => exact Enc.hjoin a b | hexit a => exact Enc.hexit a
  | trap code => exact Enc.trap code | eret n => exact Enc.eret n | rdsys a reg => exact Enc.rdsys a reg
  | wrsys reg c => exact Enc.wrsys reg c | ifence => exact Enc.ifence | park => exact Enc.park | wfe a => exact Enc.wfe a
  | injectAcc a c bit dbl => exact Enc.injectAcc a c bit dbl | injectLoc a c bit dbl => exact Enc.injectLoc a c bit dbl
  | injectSlice a c bit dbl => exact Enc.injectSlice a c bit dbl | injectDec a bit dbl => exact Enc.injectDec a bit dbl
  | rdid a => exact Enc.rdid a | rdidPod a => exact Enc.rdidPod a | rdidCtx a => exact Enc.rdidCtx a
  | rdidPos a => exact Enc.rdidPos a | rdstep a => exact Enc.rdstep a | waitSt a c n => exact Enc.waitSt a c n
  | rdcyc a => exact Enc.rdcyc a
  | ld s o sc a b imm => exact Enc.ld s o sc a b imm | ldn s o sc a b imm => exact Enc.ldn s o sc a b imm
  | st s o sc a b imm => exact Enc.st s o sc a b imm
  | ldl s a b imm => exact Enc.ldl s a b imm | ldln s a b imm => exact Enc.ldln s a b imm
  | stl s a b imm => exact Enc.stl s a b imm
  | amoadd dw o sc a b c imm => exact Enc.amoadd dw o sc a b c imm
  | amoand dw o sc a b c imm => exact Enc.amoand dw o sc a b c imm
  | amoor dw o sc a b c imm => exact Enc.amoor dw o sc a b c imm
  | amoxor dw o sc a b c imm => exact Enc.amoxor dw o sc a b c imm
  | amomin dw o sc a b c imm => exact Enc.amomin dw o sc a b c imm
  | amomax dw o sc a b c imm => exact Enc.amomax dw o sc a b c imm
  | amominn dw o sc a b c imm => exact Enc.amominn dw o sc a b c imm
  | amomaxn dw o sc a b c imm => exact Enc.amomaxn dw o sc a b c imm
  | amoswap dw o sc a b c imm => exact Enc.amoswap dw o sc a b c imm
  | amocas dw o sc a b c imm => exact Enc.amocas dw o sc a b c imm | famoadd o sc a b c imm => exact Enc.famoadd o sc a b c imm
  | fence sc => exact Enc.fence sc | fenceAcq sc => exact Enc.fenceAcq sc | fenceRel sc => exact Enc.fenceRel sc
  | lbfence => exact Enc.lbfence | pref lvl b => exact Enc.pref lvl b | cwb b => exact Enc.cwb b | cinv b => exact Enc.cinv b
  | cwbinv b => exact Enc.cwbinv b | pinl a b => exact Enc.pinl a b | unpinl b => exact Enc.unpinl b
  | give s b tv => exact Enc.give s b tv | wstat a s => exact Enc.wstat a s | wwait s => exact Enc.wwait s
  | wmap a s b => exact Enc.wmap a s b | wunmap a s => exact Enc.wunmap a s | expect s b => exact Enc.expect s b
  | tagrd a s b => exact Enc.tagrd a s b
  | xbar sc a => exact Enc.xbar sc a | xsend n b c => exact Enc.xsend n b c | xsendr op ty n c => exact Enc.xsendr op ty n c
  | xrecv n b => exact Enc.xrecv n b | xend sc a => exact Enc.xend sc a
  | qsend sc len1 a b c => exact Enc.qsend sc len1 a b c | qrecv a c => exact Enc.qrecv a c | qpoll a => exact Enc.qpoll a
  | bar sc a u => exact Enc.bar sc a u | bara sc a u => exact Enc.bara sc a u | barw sc a u => exact Enc.barw sc a u
  | tokw sc a k => exact Enc.tokw sc a k | tokp sc a k => exact Enc.tokp sc a k | wit sc a => exact Enc.wit sc a
  | witTok sc a k => exact Enc.witTok sc a k | dstat sc a sel => exact Enc.dstat sc a sel
  | bil n sc tok a disp => exact Enc.bil n sc tok a disp
  | cpy atn a b c => exact Enc.cpy atn a b c | cpyw a => exact Enc.cpyw a
  | coll op ty sc atn a b c => exact Enc.coll op ty sc atn a b c | collw a => exact Enc.collw a
  | vclaim a n8 => exact Enc.vclaim a n8 | vyield => exact Enc.vyield | vlen a => exact Enc.vlen a
  | vadd tv a b c k => exact Enc.vadd tv a b c k | vsub tv a b c k => exact Enc.vsub tv a b c k
  | vmul tv a b c k => exact Enc.vmul tv a b c k | vmin tv a b c k => exact Enc.vmin tv a b c k
  | vmax tv a b c k => exact Enc.vmax tv a b c k | vand tv a b c k => exact Enc.vand tv a b c k
  | vor tv a b c k => exact Enc.vor tv a b c k | vxor tv a b c k => exact Enc.vxor tv a b c k
  | vshl tv a b c k => exact Enc.vshl tv a b c k | vshrl tv a b c k => exact Enc.vshrl tv a b c k
  | vshra tv a b c k => exact Enc.vshra tv a b c k | vabs tv a b k => exact Enc.vabs tv a b k
  | vneg tv a b k => exact Enc.vneg tv a b k
  | vfma tv a b c d k => exact Enc.vfma tv a b c d k | vcvt dst src mode p a b d k => exact Enc.vcvt dst src mode p a b d k
  | vseq tv a b c k => exact Enc.vseq tv a b c k | vslt tv a b c k => exact Enc.vslt tv a b c k
  | vsle tv a b c k => exact Enc.vsle tv a b c k | vsel a b c d => exact Enc.vsel a b c d
  | vbcast tv a b k => exact Enc.vbcast tv a b k | vext a b c => exact Enc.vext a b c | vperm a b c k => exact Enc.vperm a b c k
  | vld a b imm k => exact Enc.vld a b imm k | vst a b imm k => exact Enc.vst a b imm k
  | vldl a b imm k => exact Enc.vldl a b imm k | vstl a b imm k => exact Enc.vstl a b imm k
  | vlds z a b c imm k => exact Enc.vlds z a b c imm k | vgath z a b c imm k => exact Enc.vgath z a b c imm k
  | vscat z a b c imm k => exact Enc.vscat z a b c imm k
  | vredadd tv a b k => exact Enc.vredadd tv a b k | vredmax tv a b k => exact Enc.vredmax tv a b k
  | vredmin tv a b k => exact Enc.vredmin tv a b k | vmaxi tv a b c k => exact Enc.vmaxi tv a b c k
  | vmini tv a b c k => exact Enc.vmini tv a b c k
  | mand a b c => exact Enc.mand a b c | mor a b c => exact Enc.mor a b c | mxor a b c => exact Enc.mxor a b c
  | mnot a b => exact Enc.mnot a b | mpopc a b => exact Enc.mpopc a b | mfirst a b => exact Enc.mfirst a b
  | mset a b => exact Enc.mset a b | mmov a b => exact Enc.mmov a b | mmovG a b => exact Enc.mmovG a b
  | ppld b => exact Enc.ppld b | ppsel s => exact Enc.ppsel s | ppev tv a b k => exact Enc.ppev tv a b k
  | mma f atn a b c => exact Enc.mma f atn a b c
  | mzero a => exact Enc.mzero a | mldb z b => exact Enc.mldb z b | mring atn => exact Enc.mring atn
  | mchk a => exact Enc.mchk a | mst bf a b => exact Enc.mst bf a b | mmir m => exact Enc.mmir m | mwait a => exact Enc.mwait a
  | mqstat a => exact Enc.mqstat a
  -- a machine event has no head
  | _ => exact enc_none rfl

/-- Re-encoding and the operand limits are the only further checks of the decoder (R8). -/
theorem decode_encode {i : Instr} {h t : Nat} (he : encode i = some ⟨h, t⟩) (hw : i.wf = true) : decode h t = .ok i := by
  obtain ⟨hMajor, hRaw⟩ := rawDecode_encode i _ he
  simp [decode, hMajor, hRaw, he, hw]

/-- Settles O56: by cases on the instruction, each from the fields of its own encoding. -/
theorem decodeInvertsEncode : Obligations.DecodeInvertsEncode := by
  intro i e he hw
  exact decode_encode he hw

/-- Settles O57: each word is the encoding of its instruction, which meets its limits. -/
theorem workedEncodings : Obligations.WorkedEncodings := by
  unfold Obligations.WorkedEncodings
  refine ⟨decode_encode rfl rfl, decode_encode rfl rfl, decode_encode rfl rfl, decode_encode rfl rfl, decode_encode rfl rfl,
    decode_encode rfl rfl, decode_encode rfl rfl, decode_encode rfl rfl, decode_encode rfl rfl, decode_encode rfl rfl,
    decode_encode rfl rfl, decode_encode rfl rfl, decode_encode rfl rfl, decode_encode rfl rfl, decode_encode rfl rfl,
    decode_encode rfl rfl, decode_encode rfl rfl, decode_encode rfl rfl, decode_encode rfl rfl, decode_encode rfl rfl, ?_, ?_⟩
  · rfl
  · rfl

end Sys2Proof.Laws

namespace Sys2Proof.Machine

/-! ### Privileged functions (R112, R152, R153) -/

/-- An unprivileged context takes ILLEGAL in place of a privileged function (R112). -/
theorem State.privileged_of_unprivileged {s : State} (hp : s.me.priv = false) (f : State → State) :
    s.privileged f = s.illegal := by
  simp [State.privileged, hp]

/-- A register is out of reach if it does not exist, or has a PRIV field and the context is unprivileged (R7, R115). -/
theorem State.mayAccess_eq_false_iff (s : State) (n : Nat) :
    s.mayAccess n = false ↔ sysAcc n = none ∨ (sysAcc n = some .priv ∧ s.me.priv = false) := by
  unfold State.mayAccess
  cases sysAcc n with
  | none => simp
  | some a => cases a <;> simp

theorem exec_rdsys_of_mayAccess {s : State} {reg : BitVec 11} (h : s.mayAccess reg.toNat = true) (a : GReg) :
    exec (.rdsys a reg) s = .next (s.resultIn 2 a (s.readSys s.core s.ctx reg.toNat)) := by
  simp [exec, execRdsys, h]

theorem exec_rdsys_of_not_mayAccess {s : State} {reg : BitVec 11} (h : s.mayAccess reg.toNat = false) (a : GReg) :
    exec (.rdsys a reg) s = .next s.illegal := by
  simp [exec, execRdsys, h]

theorem exec_wrsys_of_not_mayAccess {s : State} {reg : BitVec 11} (h : s.mayAccess reg.toNat = false) (c : GReg) :
    exec (.wrsys reg c) s = .next s.illegal := by
  simp [exec, execWrsys, h]

theorem exec_wrsys_of_mayAccess {s : State} {reg : BitVec 11} {c : GReg} (h : s.mayAccess reg.toNat = true)
    (hb : s.badWrite s.core reg.toNat (s.g c) = false) :
    exec (.wrsys reg c) s = .next (s.writeSys s.core s.ctx reg.toNat (s.g c)).retire := by
  simp [exec, execWrsys, h, hb]

/-- Settles O9: each privileged function is guarded by `State.privileged`, and RDSYS and WRSYS by `State.mayAccess`. -/
theorem privilegedFunctions : Obligations.PrivilegedFunctions := by
  intro s hp
  have guarded (f : State → State) : Host.Outcome.next (s.privileged f) = (.next s.illegal : Result) := by
    rw [State.privileged_of_unprivileged hp]
  have unreachable (reg : BitVec 11) (h : sysAcc reg.toNat = some .priv) : s.mayAccess reg.toNat = false :=
    (s.mayAccess_eq_false_iff _).2 (.inr ⟨h, hp⟩)
  exact ⟨fun _ => guarded _, guarded _, fun _ _ _ _ => guarded _, fun _ _ _ _ => guarded _, fun _ _ _ _ => guarded _,
    fun _ _ _ => guarded _, fun _ _ _ => guarded _, fun _ _ => guarded _,
    fun a reg h => exec_rdsys_of_not_mayAccess (unreachable reg h) a,
    fun reg c h => exec_wrsys_of_not_mayAccess (unreachable reg h) c⟩

/-! ### System registers (R7, R22, R115) -/

/-- The registers that a write can change: those with a field that is neither RO nor RZ (R7, R115). -/
def writtenRegs : List Nat :=
  [0x000, 0x001, 0x002, 0x003, 0x004, 0x005, 0x006, 0x007, 0x008, 0x014, 0x017, 0x018, 0x019, 0x030, 0x031, 0x040, 0x041, 0x043,
    0x044, 0x05A, 0x070, 0x071, 0x072, 0x073, 0x074, 0x075, 0x076, 0x077, 0x078, 0x079, 0x085]

theorem sysAcc_ne_ro_of_mem_writtenRegs : ∀ n ∈ writtenRegs, sysAcc n ≠ some .ro := by decide

theorem State.writeSys_of_not_mem_writtenRegs {n : Nat} (h : n ∉ writtenRegs) (s : State) (c k : Nat) (v : Word) :
    s.writeSys c k n v = s := by
  simp only [writtenRegs, List.mem_cons, List.not_mem_nil, or_false, not_or] at h
  have hTokk : ¬(0x070 ≤ n ∧ n ≤ 0x079) := by omega
  simp [State.writeSys, h, hTokk]

/-- A write of a register whose fields are all RO or RZ is ignored (R7, R115). -/
theorem State.writeSys_of_ro {n : Nat} (h : sysAcc n = some .ro) (s : State) (c k : Nat) (v : Word) : s.writeSys c k n v = s :=
  s.writeSys_of_not_mem_writtenRegs (fun hm => sysAcc_ne_ro_of_mem_writtenRegs n hm h) c k v

/-- The general registers and the pending return of the issuing context are as before. -/
structure State.KeepsIssuer (s t : State) : Prop where
  genRegs : t.me.g = s.me.g
  eret : t.me.eret = s.me.eret

theorem State.keepsIssuer_of_me_eq {s t : State} (h : t.me = s.me) : s.KeepsIssuer t := ⟨by rw [h], by rw [h]⟩

theorem State.keepsIssuer_modMe (s : State) {f : Ctx → Ctx} (hg : (f s.me).g = s.me.g) (he : (f s.me).eret = s.me.eret) :
    s.KeepsIssuer (s.modMe f) :=
  ⟨by rw [State.me_modMe, hg], by rw [State.me_modMe, he]⟩

theorem State.keepsIssuer_modHere (s : State) {f : Core → Core} (hf : (f s.here).ctxs = s.here.ctxs) :
    s.KeepsIssuer (s.modHere f) := by
  refine State.keepsIssuer_of_me_eq ?_
  change (s.modHere f).here.ctxAt s.ctx = s.here.ctxAt s.ctx
  rw [State.here_modHere, Core.ctxAt, hf, Core.ctxAt]

/-- A write of a register leaves the general registers and the pending return of the context that makes it. -/
theorem State.writeSys_keepsIssuer (s : State) (n : Nat) (v : Word) : s.KeepsIssuer (s.writeSys s.core s.ctx n v) := by
  unfold State.writeSys
  refine iteInduction (fun _ => s.keepsIssuer_modMe rfl rfl) fun _ => ?_  -- CSTAT
  refine iteInduction (fun _ => s.keepsIssuer_modMe rfl rfl) fun _ => ?_  -- EPCQ0
  refine iteInduction (fun _ => s.keepsIssuer_modMe rfl rfl) fun _ => ?_  -- EPCQ1
  refine iteInduction (fun _ => s.keepsIssuer_modMe rfl rfl) fun _ => ?_  -- EPCQ2
  refine iteInduction (fun _ => s.keepsIssuer_modMe rfl rfl) fun _ => ?_  -- ESIG
  refine iteInduction (fun _ => s.keepsIssuer_modMe rfl rfl) fun _ => ?_  -- ECAUSE
  refine iteInduction (fun _ => s.keepsIssuer_modMe rfl rfl) fun _ => ?_  -- EADDR
  refine iteInduction (fun _ => s.keepsIssuer_modHere rfl) fun _ => ?_  -- EVEC
  refine iteInduction (fun _ => s.keepsIssuer_modMe rfl rfl) fun _ => ?_  -- SRSEED
  refine iteInduction (fun _ => s.keepsIssuer_modHere rfl) fun _ => ?_  -- ACCMAP
  refine iteInduction (fun _ => s.keepsIssuer_modHere rfl) fun _ => ?_  -- IPEND
  refine iteInduction (fun _ => s.keepsIssuer_modHere rfl) fun _ => ?_  -- IMASK
  refine iteInduction (fun _ => s.keepsIssuer_modHere rfl) fun _ => ?_  -- IALARM
  refine iteInduction (fun _ => s.keepsIssuer_modHere rfl) fun _ => ?_  -- XTAG
  refine iteInduction (fun _ => s.keepsIssuer_modHere rfl) fun _ => ?_  -- QBOUND
  refine iteInduction (fun _ => State.keepsIssuer_of_me_eq rfl) fun _ => ?_  -- VSHARE
  refine iteInduction (fun _ => State.keepsIssuer_of_me_eq rfl) fun _ => ?_  -- MSHARE
  refine iteInduction (fun _ => State.keepsIssuer_of_me_eq rfl) fun _ => ?_  -- RINGCFG
  refine iteInduction (fun _ => s.keepsIssuer_modHere rfl) fun _ => ?_  -- MERR
  refine iteInduction (fun _ => ?_) fun _ => ?_
  · -- DPOKE
    split
    · exact State.keepsIssuer_of_me_eq rfl
    · exact State.keepsIssuer_of_me_eq rfl
  refine iteInduction (fun _ => ?_) fun _ => ?_
  · -- TOKK
    unfold State.writeTokk
    exact iteInduction (fun _ => State.keepsIssuer_of_me_eq rfl) fun _ => State.keepsIssuer_of_me_eq rfl
  exact iteInduction (fun _ => State.keepsIssuer_of_me_eq rfl) fun _ => State.keepsIssuer_of_me_eq rfl

theorem State.KeepsIssuer.g {s t : State} (h : s.KeepsIssuer t) (r : GReg) : t.g r = s.g r := by
  simp only [State.g, Ctx.reg, h.genRegs]

/-- Settles O10: RDSYS is one result two cycles late, and WRSYS is its write followed by a retirement. -/
theorem systemRegisterAccess : Obligations.SystemRegisterAccess := by
  refine ⟨fun s a reg he ha => ?_, fun s reg c he ha hb => ⟨?_, fun hro => s.writeSys_of_ro hro _ _ _⟩, fun s a reg ha =>
    ⟨exec_rdsys_of_not_mayAccess ha a, exec_wrsys_of_not_mayAccess ha a⟩, State.mayAccess_eq_false_iff⟩
  · exact ⟨_, exec_rdsys_of_mayAccess ha a, s.resultIn_gives 2 a _ he⟩
  · have hkeeps := s.writeSys_keepsIssuer reg.toNat (s.g c)
    have hpassed := State.retire_passed (s.writeSys s.core s.ctx reg.toNat (s.g c)) (by rw [hkeeps.eret]; exact he)
    exact ⟨_, exec_wrsys_of_mayAccess ha hb, hpassed, fun r => (hpassed.g r).trans (hkeeps.g r)⟩

/-! ### The step of the machine (R13, R124) -/

/-- An event has the effect of its row of the opcode table. -/
theorem runEvent_eq_exec {e : Event} {i : Instr} (h : e.is i) (s : State) : runEvent e s = exec i s := by
  cases e with
  | otherCommand => exact h.elim
  | _ => cases h; rfl

/-- With nothing flipped, the instruction at Q0 is what its line decodes to (R68). -/
theorem Ctx.decoded_of_line {x : Ctx} {l : Line} (hl : x.q0.line = .ok l) (hf : x.decFlip = 0) :
    x.decoded = (lineDecode l (headIdx x.q0.addr)).toOption := by
  have hshown : x.shown = ⟨lineHead l (headIdx x.q0.addr), lineTail l (headIdx x.q0.addr)⟩ := by
    simp [Ctx.shown, hl, hf]
  rw [Ctx.decoded, hshown, lineDecode]
  cases decode (lineHead l (headIdx x.q0.addr)) (lineTail l (headIdx x.q0.addr)) <;> rfl

/-- Nothing stands before the entry at Q0 at the boundary of the issuing context, and its line has been read (R124). -/
structure State.AtQ0 (s : State) (l : Line) : Prop where
  sigFault : s.me.sigFault = none
  pending : s.me.pending = none
  vecFault : s.ctx = 0 → s.here.vec.fault = none ∨ s.me.awaits = false
  irq : s.ctx = 0 → s.irqDue s.core = false
  page : s.me.page = none
  fault : s.me.q0.fault = none
  line : s.me.q0.line = .ok l

/-- No error in the PC queue or the checker of the issuing context is to be met (R377). -/
theorem State.issue_of_unstruck {s : State} (h : ∀ e ∈ s.here.struck, e.ctx ≠ s.ctx) : s.issue = s.boundary := by
  have hmine : s.here.struck.filter (fun e => e.ctx == s.ctx) = [] := by
    simpa [List.filter_eq_nil_iff] using h
  simp [State.issue, State.meetQueue, hmine]

namespace State.AtQ0
variable {s : State} {l : Line} (h : s.AtQ0 l)
include h

theorem irq_not_taken : ¬(s.ctx = 0 ∧ s.irqDue s.core = true) := fun ⟨hk, hd⟩ => by simp [h.irq hk] at hd

theorem vecFault_not_taken : s.here.vec.fault = none ∨ ¬(s.ctx = 0 ∧ s.me.awaits = true) := by
  by_cases hk : s.ctx = 0
  · simpa [hk] using h.vecFault hk
  · simp [hk]

/-- An annulled entry only retires (R17). -/
theorem boundary_of_annul (ha : s.me.q0.annul = true) : s.boundary = .next s.retire := by
  rcases h.vecFault_not_taken with hv | hv <;>
    simp [State.boundary, h.sigFault, h.pending, hv, h.irq_not_taken, h.fault, h.page, h.line, ha]

/-- The instruction that the line decodes to issues (R124). -/
theorem boundary_of_decode {i : Instr} (ha : s.me.q0.annul = false) (ho : s.owed = none) (hf : s.me.decFlip = 0)
    (hd : lineDecode l (headIdx s.me.q0.addr) = .ok i) :
    s.boundary = if s.whole i then exec i s else s.issueHurt i := by
  have hi : s.me.decoded = some i := by rw [Ctx.decoded_of_line h.line hf, hd]; rfl
  rcases h.vecFault_not_taken with hv | hv <;>
    simp [State.boundary, h.sigFault, h.pending, hv, h.irq_not_taken, h.fault, h.page, h.line, ha, ho, hi]

/-- An undefined encoding is ILLEGAL (R8). -/
theorem boundary_of_undefined {e : DecodeError} (ha : s.me.q0.annul = false) (ho : s.owed = none) (hf : s.me.decFlip = 0)
    (hd : lineDecode l (headIdx s.me.q0.addr) = .error e) : s.boundary = .next s.illegal := by
  have hi : s.me.decoded = none := by rw [Ctx.decoded_of_line h.line hf, hd]; rfl
  rcases h.vecFault_not_taken with hv | hv <;>
    simp [State.boundary, h.sigFault, h.pending, hv, h.irq_not_taken, h.fault, h.page, h.line, ha, ho, hi]

end State.AtQ0

/-- With no event due, a step is the issue of the context chosen (R12, R13). -/
theorem step_eq_issueAt {s : State} {c k hptr : Nat} (ha : s.agenda = []) (hn : s.nextIssue = some (c, k, hptr)) :
    step s = s.issueAt c k hptr := by
  simp [step, ha, hn]

theorem State.issueAt_of_next {s t : State} {c k hptr : Nat} (h : (s.chosen c k hptr).issue = .next t) :
    s.issueAt c k hptr = .next (t.settleIssue s c k hptr) := by
  simp [State.issueAt, h]

/-- An issue that changed its context, or made an event due, has been served by its sub-banks (R227). -/
theorem State.settleIssue_of_moved {s t : State} {c k hptr : Nat}
    (h : t.ctxAt c k ≠ (s.chosen c k hptr).ctxAt c k ∨ t.agenda ≠ []) : t.settleIssue s c k hptr = t.serve (s.claims c k) := by
  refine if_neg fun hc => ?_
  simp only [Bool.and_eq_true, beq_iff_eq, List.isEmpty_iff] at hc
  exact h.elim (· hc.1) (· hc.2)

theorem State.coreAt_blocked_modCtx_modCore (s : State) (c k : Nat) (f : Core → Core) (g : Ctx → Ctx) (l : List (Nat × Nat)) :
    ({ (s.modCore c f).modCtx c k g with blocked := l } : State).coreAt c = (f (s.coreAt c)).modCtx k g := by
  change ((s.modCore c f).modCtx c k g).coreAt c = _
  rw [State.modCtx, State.coreAt_modCore_self, State.coreAt_modCore_self]

/-- An issue that left its context as it was, with nothing due, has taken no slot and is not tried again (R13; log 42). -/
theorem State.settleIssue_of_stayed {s t : State} {c k hptr : Nat} (hctx : t.ctxAt c k = (s.chosen c k hptr).ctxAt c k)
    (ha : t.agenda = []) :
    ((t.settleIssue s c k hptr).coreAt c).last = (s.coreAt c).last ∧ ((t.settleIssue s c k hptr).coreAt c).issued = false
      ∧ (c, k) ∈ (t.settleIssue s c k hptr).blocked ∧ (t.settleIssue s c k hptr).served = t.served := by
  have hc : (t.ctxAt c k == (s.chosen c k hptr).ctxAt c k && t.agenda.isEmpty) = true := by simp [hctx, ha]
  rw [State.settleIssue, if_pos hc, State.coreAt_blocked_modCtx_modCore]
  exact ⟨rfl, rfl, List.mem_cons_self, rfl⟩

/-- Settles O58: the step is the issue at a boundary that nothing else claims, or the effect of the event. -/
theorem stepRunsTheInstruction : Obligations.StepRunsTheInstruction := by
  refine ⟨fun s c k hptr l hagenda hnext hstruck hsig hpend hvec hirq hpage hfault hline => ?_, fun s e i rest hagenda hi => ?_⟩
  · have hq : (s.chosen c k hptr).AtQ0 l := ⟨hsig, hpend, hvec, hirq, hpage, hfault, hline⟩
    have hissue : (s.chosen c k hptr).issue = (s.chosen c k hptr).boundary := State.issue_of_unstruck hstruck
    have hstep : step s = s.issueAt c k hptr := step_eq_issueAt hagenda hnext
    refine ⟨fun i ha ho hf hd => ?_, fun e ha ho hf hd => ?_, fun ha => ?_, fun t h => State.settleIssue_of_moved h,
      fun t hctx ha => State.settleIssue_of_stayed hctx ha⟩
    · rw [← hq.boundary_of_decode ha ho hf hd, ← hissue]
      exact hstep
    · exact hstep.trans (State.issueAt_of_next (hissue.trans (hq.boundary_of_undefined ha ho hf hd)))
    · exact hstep.trans (State.issueAt_of_next (hissue.trans (hq.boundary_of_annul ha)))
  · rw [step, hagenda]
    exact runEvent_eq_exec hi _

/-! ### The state after a cold start (R7, R408) -/

/-- Start-up writes zero into TCM and wells (R408). -/
theorem State.reset_localByte (c la : Nat) : State.reset.localByte c la = 0 := by
  unfold State.localByte
  split
  · rfl
  · rfl

/-- Every general register reads as zero (log 1). -/
theorem Ctx.reset_reg (k : Nat) (r : GReg) : (Ctx.reset k).reg r = 0 := by
  unfold Ctx.reg
  split
  · rfl
  · rfl

/-- The trap registers and EVEC (R23, R24). -/
theorem State.reset_trapRegs (c k n : Nat) (h1 : 0x001 ≤ n) (h7 : n ≤ 0x007) : State.reset.readSys c k n = 0 := by
  interval_cases n <;> rfl

/-- BANKMAP of every slot (R30). -/
theorem State.reset_bankmap (c k n : Nat) (h0 : 0x020 ≤ n) (h7 : n ≤ 0x027) : State.reset.readSys c k n = 0 := by
  interval_cases n <;> rfl

/-- HASHMASK of every die (R341). -/
theorem State.reset_hashmask (c k d : Nat) (h : d < 32) :
    State.reset.readSys c k (0x0C0 + d) = if d ≤ 14 then w64 (d * 65536 + 0xFFFF) else 0 := by
  interval_cases d <;> rfl

/-- FDUTY: full duty, no divider, not FORCED (R28). -/
theorem Fduty.word_reset : ({} : Fduty).word = 16 := by decide

/-- Settles O60: by evaluation where the statement names one register, and by a lemma for each range of registers. -/
theorem resetIsColdStart : Obligations.ResetIsColdStart :=
  ⟨legal_reset, rfl, rfl, fun _ => rfl, State.reset_localByte, fun c k _ =>
    ⟨rfl, State.reset_trapRegs c k, Fduty.word_reset, rfl, rfl, rfl, State.reset_bankmap c k, rfl, rfl, rfl, rfl, rfl, rfl,
      State.reset_hashmask c k, rfl, rfl, Ctx.reset_reg k⟩⟩

end Sys2Proof.Machine
end

section

/-! PROOFS. The statements on the core's state, its local and global accesses and the queues of its units (spec/01). -/

namespace Sys2Proof.Machine

/-! ### Integer instructions (R89 to R95) -/

/-- Every instruction of R89 to R95 is one write of its result and a retirement. -/
theorem exec_of_intResult {i : Instr} {s : State} {a : GReg} {v : Word} (h : intResult i s.g = some (a, v)) :
    exec i s = .next (s.result a v) := by
  cases i with
  | _ => cases h <;> rfl

/-- A result leaves the queue to its retirement, which moves it up (R17). -/
theorem State.result_queue (s : State) (a : GReg) (v : Word) (h : s.me.eret ≠ 1) :
    (s.result a v).me.q0 = s.me.q1 ∧ (s.result a v).me.q1 = s.me.q2 := by
  obtain ⟨h0, h1⟩ := (s.result_passed a v h).queue
  obtain ⟨-, e1, e2⟩ := s.me.setReg_q a v
  rw [State.me_setG] at h0 h1
  exact ⟨h0.trans e1, h1.trans e2⟩

/-- Settles O1: each instruction writes its result and retires. -/
theorem integerResults : Obligations.IntegerResults := fun _ s a v he h =>
  ⟨_, exec_of_intResult h, s.result_gives a v he, s.result_queue a v he⟩

/-! ### Registers written and read back (R23, R24, R44, R125) -/

/-- A register of the context, read back after a write. -/
theorem State.readSys_writeSys_ctx {s : State} {c k n : Nat} {v : Word} (f : Ctx → Ctx) (r : Ctx → Word)
    (hw : s.writeSys c k n v = s.modCtx c k f) (hr : ∀ t : State, t.readSys c k n = r (t.ctxAt c k)) :
    (s.writeSys c k n v).readSys c k n = r (f (s.ctxAt c k)) := by
  rw [hw, hr, State.ctxAt_modCtx_self]

/-- A register of the core, read back after a write. -/
theorem State.readSys_writeSys_core {s : State} {c k n : Nat} {v : Word} (f : Core → Core) (r : Core → Word)
    (hw : s.writeSys c k n v = s.modCore c f) (hr : ∀ t : State, t.readSys c k n = r (t.coreAt c)) :
    (s.writeSys c k n v).readSys c k n = r (f (s.coreAt c)) := by
  rw [hw, hr, State.coreAt_modCore_self]

/-- Settles O11: each register is one field of its context or core, which the write sets and the read delivers. -/
theorem writtenRegistersReadBack : Obligations.WrittenRegistersReadBack := fun _ _ _ v =>
  ⟨State.readSys_writeSys_ctx (fun y => { y with epcq0 := v, marks := y.marks &&& 6 }) Ctx.epcq0 rfl fun _ => rfl,
    State.readSys_writeSys_ctx (fun y => { y with epcq1 := v, marks := y.marks &&& 5 }) Ctx.epcq1 rfl fun _ => rfl,
    State.readSys_writeSys_ctx (fun y => { y with epcq2 := v, marks := y.marks &&& 3 }) Ctx.epcq2 rfl fun _ => rfl,
    State.readSys_writeSys_ctx (fun y => { y with eaddr := v }) Ctx.eaddr rfl fun _ => rfl,
    State.readSys_writeSys_ctx (fun y => { y with esig := v &&& 0x3FFFF }) Ctx.esig rfl fun _ => rfl,
    State.readSys_writeSys_ctx (fun y => { y with ecause := v &&& 0xFFFFFFFFFFFF00FF }) Ctx.ecause rfl fun _ => rfl,
    State.readSys_writeSys_core (fun x => { x with evec := lineOf v, evecDefault := x.evecDefault && lineOf v == x.evec })
      Core.evec rfl fun _ => rfl,
    State.readSys_writeSys_ctx (fun y => { y with srseed := v.setWidth 32, sr := [] }) (fun y => y.srseed.setWidth 64) rfl
      fun _ => rfl,
    State.readSys_writeSys_core (fun x => { x with mat := { x.mat with accmap := v.setWidth 16 } })
      (fun x => x.mat.accmap.setWidth 64) rfl fun _ => rfl,
    State.readSys_writeSys_core (fun x => { x with imask := v &&& 0x7F }) Core.imask rfl fun _ => rfl,
    State.readSys_writeSys_core (fun x => { x with ialarm := v }) Core.ialarm rfl fun _ => rfl,
    State.readSys_writeSys_core (fun x => { x with ipend := x.ipend &&& ~~~v }) Core.ipend rfl fun _ => rfl,
    State.readSys_writeSys_ctx (fun y => { y with cstat := cstatWrite y v }) Ctx.cstat rfl fun _ => rfl⟩

/-! ### Trap entry (R126) -/

/-- An entry formed behind another is not annulled (R17). -/
theorem State.formSucc_annul (s : State) (c k : Nat) (e : QEnt) : (s.formSucc c k e).2.annul = false := by
  unfold State.formSucc
  split
  · split
    · rfl
    · rfl
  · rfl

/-- A context set to begin at a line (R18, R126): its queue starts there, not annulled, with a fresh P, and nothing else
changes but what reading the lines changes. -/
theorem State.beginAt_spec (s : State) (c k : Nat) (a : Word) (tgt : Bool) :
    ∃ u q0 q1 q2, s.fetchOnly u ∧ s.beginAt c k a tgt = u.modCtx c k (fun x => { x with q0 := q0, q1 := q1, q2 := q2, p := 0xFFFF })
      ∧ q0.addr = a ∧ q0.annul = false ∧ q0.target = tgt ∧ q1.annul = false ∧ q2.annul = false := by
  have h0 := State.formTarget_fetch c k a (State.fetchOnly.refl s)
  have h1 := State.formSucc_fetch c k (s.formTarget c k a).2 h0
  have h2 := State.formSucc_fetch c k ((s.formTarget c k a).1.formSucc c k (s.formTarget c k a).2).2 h1
  exact ⟨_, _, _, _, h2, rfl, rfl, rfl, rfl, State.formSucc_annul _ _ _ _, State.formSucc_annul _ _ _ _⟩

/-- With a handler of its own the context enters at the line of EVEC, from its saved registers (R126). -/
theorem State.trapEntry_handler (s : State) (z : Cause) (h : s.here.evecDefault = false) :
    s.trapEntry z = (s.modMe (fun x => x.saved z)).beginAt s.core s.ctx (lineOf s.here.evec) false := by
  have hh : (s.modMe (fun x => x.saved z)).here = s.here.modCtx s.ctx (fun x => x.saved z) := State.coreAt_modCore_self _ _ _
  rw [State.trapEntry, hh, show (s.here.modCtx s.ctx _).evecDefault = s.here.evecDefault from rfl, h]
  rfl

/-- Settles O5: a cause at a boundary outside a trap saves the context and begins it at the line of EVEC. -/
theorem trapEntrySavesAndEnters : Obligations.TrapEntrySavesAndEnters := by
  intro s z hb hi hd
  obtain ⟨u, q0, q1, q2, hu, he, ha, hn0, ht, hn1, hn2⟩ :=
    (s.modMe (fun x => x.saved z)).beginAt_spec s.core s.ctx (lineOf s.here.evec) false
  have hraise : s.raise z = _ := (s.raise_entry z hb hi).trans ((s.trapEntry_handler z hd).trans he)
  have hctx : ∀ c k, u.ctxAt c k = if c = s.core ∧ k = s.ctx then s.me.saved z else s.ctxAt c k := fun c k =>
    (hu.ctxAt c k).trans (State.ctxAt_modCtx _ _ _ _ _ _)
  have hme : (s.raise z).me = { s.me.saved z with q0 := q0, q1 := q1, q2 := q2, p := 0xFFFF } := by
    rw [hraise, State.me, State.modCtx_core, State.modCtx_ctx, hu.core, hu.ctx]
    exact (State.ctxAt_modCtx_self _ _ _ _).trans (by rw [hctx, if_pos ⟨rfl, rfl⟩])
  dsimp only
  rw [hme]
  refine ⟨rfl, rfl, rfl, rfl, rfl, rfl, rfl, ha, hn0, ht, hn1, hn2, rfl, rfl, rfl, fun r => by rw [State.g, hme]; rfl, fun c k hck => ?_⟩
  rw [hraise, State.ctxAt_modCtx, if_neg hck, hctx, if_neg hck]

/-! ### Changes beside the issuing context, and the retirement that follows them -/

/-- Changes of the module that leave the issuing context and the clock as they are. -/
structure State.SameIssuer (s t : State) : Prop where
  core : t.core = s.core
  ctx : t.ctx = s.ctx
  now : t.now = s.now
  me : t.me = s.me

namespace State.SameIssuer

theorem refl (s : State) : s.SameIssuer s := ⟨rfl, rfl, rfl, rfl⟩

theorem trans {s t u : State} (h : s.SameIssuer t) (k : t.SameIssuer u) : s.SameIssuer u :=
  ⟨k.core.trans h.core, k.ctx.trans h.ctx, k.now.trans h.now, k.me.trans h.me⟩

theorem g {s t : State} (h : s.SameIssuer t) (r : GReg) : t.g r = s.g r := by rw [State.g, h.me, State.g]

theorem here {s t : State} (h : s.SameIssuer t) : t.here = t.coreAt s.core := by rw [State.here, h.core]

theorem eret_ne {s t : State} (h : s.SameIssuer t) (he : s.me.eret ≠ 1) : t.me.eret ≠ 1 := by rwa [h.me]

/-- What reading lines of code changes. -/
theorem of_fetchOnly {s t : State} (h : s.fetchOnly t) : s.SameIssuer t := ⟨h.core, h.ctx, h.fields.1, h.me⟩

end State.SameIssuer

/-- A change of a core outside its contexts leaves every context. -/
theorem State.ctxAt_modCore_of_ctxs {s : State} {c : Nat} {f : Core → Core} (hf : (f (s.coreAt c)).ctxs = (s.coreAt c).ctxs)
    (d k : Nat) : (s.modCore c f).ctxAt d k = s.ctxAt d k := by
  rw [State.ctxAt, State.coreAt_modCore]
  split
  · rename_i h; subst h; rw [Core.ctxAt, hf]; rfl
  · rfl

theorem State.sameIssuer_modCore {s : State} {c : Nat} {f : Core → Core} (hf : (f (s.coreAt c)).ctxs = (s.coreAt c).ctxs) :
    s.SameIssuer (s.modCore c f) := ⟨rfl, rfl, rfl, State.ctxAt_modCore_of_ctxs hf _ _⟩

theorem State.sameIssuer_modHere {s : State} {f : Core → Core} (hf : (f s.here).ctxs = s.here.ctxs) : s.SameIssuer (s.modHere f) :=
  State.sameIssuer_modCore hf

/-- A part of the issuing core that neither its contexts hold nor reading code changes is as before a retirement. -/
theorem State.passed.here_eq {s t : State} (h : s.passed t) {α : Type} (p : Core → α)
    (hp : ∀ (y : Core) tcm ecc n m obb cs, p
      { y with
        loc := { y.loc with tcm := tcm, ecc := ecc }
        eccstat := n, eccAt := m
        cache := { y.cache with obb := obb }
        ctxs := cs } = p y) : p t.here = p s.here := by
  obtain ⟨u, hu, -, ht⟩ := h
  have hhere : t.here = u.here.modCtx u.ctx (fun _ => t.me) := (congrArg State.here ht).trans (State.coreAt_modCore_self _ _ _)
  have hcode : s.here.codeOnly u.here := by
    change (s.coreAt s.core).codeOnly (u.coreAt u.core)
    rw [hu.core]
    exact hu.2.1 s.core
  rw [Core.codeOnly] at hcode
  rw [hhere, hcode]
  exact hp s.here u.here.loc.tcm u.here.loc.ecc u.here.eccstat u.here.eccAt u.here.cache.obb _

section
variable {s u : State} (h : s.SameIssuer u) (he : s.me.eret ≠ 1)
include h he

theorem State.SameIssuer.retire_passed : u.passed u.retire := State.retire_passed u (h.eret_ne he)

theorem State.SameIssuer.retire_g (r : GReg) : u.retire.g r = s.g r := ((h.retire_passed he).g r).trans (h.g r)

theorem State.SameIssuer.retire_q0 : u.retire.me.q0 = s.me.q1 := by rw [(h.retire_passed he).queue.1, h.me]

end

/-! ### The vector queue (R183) -/

/-- The core of the issuing context with an entry more in its vector queue. -/
def State.vecQueued (s : State) (e : VEntry) : State := s.modHere (fun x => { x with vec := { x.vec with queue := x.vec.queue ++ [e] } })

/-- With room in the queue an instruction of context 0 enters it and retires. -/
theorem State.queueVec_entered {s : State} (hk : s.ctx = 0) (hr : s.here.vec.queue.length < 8) (he : s.me.eret ≠ 1) (i : Instr)
    (ops : List Word) (mask : Word) : s.vecEntered (s.queueVec i ops mask) i ops mask := by
  have hroom : s.here.vecRoom = true := by simpa [Core.vecRoom] using hr
  have hq : s.queueVec i ops mask = (s.vecQueued { instr := i, vlen := s.here.vec.vlen, ops := ops, mask := mask, pc := s.me.q0.addr }).retire := by
    simp [State.queueVec, hk, hroom, State.vecQueued]
  have hs (e : VEntry) : s.SameIssuer (s.vecQueued e) := State.sameIssuer_modHere rfl
  have hvec (e : VEntry) : (s.vecQueued e).retire.here.vec = { s.here.vec with queue := s.here.vec.queue ++ [e] } :=
    (((hs e).retire_passed he).here_eq Core.vec fun _ _ _ _ _ _ _ => rfl).trans (congrArg Core.vec (State.here_modHere _ _))
  rw [hq]
  exact ⟨by rw [hvec], by rw [hvec], by rw [hvec], (hs _).retire_g he, (hs _).retire_q0 he⟩

/-- With eight entries it waits (R183). -/
theorem State.queueVec_full {s : State} (hk : s.ctx = 0) (hr : 8 ≤ s.here.vec.queue.length) (i : Instr) (ops : List Word)
    (mask : Word) : s.queueVec i ops mask = s := by
  have hroom : s.here.vecRoom = false := by simpa [Core.vecRoom] using hr
  simp [State.queueVec, hk, hroom]

/-- A helper has no vector unit (R10). -/
theorem State.queueVec_helper {s : State} (hk : s.ctx ≠ 0) (i : Instr) (ops : List Word) (mask : Word) :
    s.queueVec i ops mask = s.illegal := if_pos hk

/-- Every register instruction of the vector unit is queued as it issues. -/
theorem exec_of_vecRegOps {i : Instr} {s : State} {ops : List Word} (h : vecRegOps i s.g = some ops) :
    exec i s = .next (s.queueVec i ops 0) := by
  cases i with
  | _ => cases h <;> rfl

/-- Settles O36: each instruction is one entry of the vector queue. -/
theorem vectorInstructionsEnterTheQueue : Obligations.VectorInstructionsEnterTheQueue := by
  intro i s ops h
  rw [exec_of_vecRegOps h]
  exact ⟨fun hk hr he => ⟨_, rfl, State.queueVec_entered hk hr he i ops 0⟩, fun hk hr => by rw [State.queueVec_full hk hr],
    fun hk => by rw [State.queueVec_helper hk]⟩

/-! ### The state of the matrix unit (R219, R220) -/

/-- MWAIT of context 0 whose queue is empty delivers its counts and clears them (R220). -/
theorem State.mwaitDone_gives {s : State} (he : s.me.eret ≠ 1) (a : GReg) :
    (s.modHere (fun x => { x with mat := { x.mat with corr := 0, retr := 0 } })).gives (s.mwaitDone a) a
      (w64 (s.here.mat.corr.toNat + s.here.mat.retr.toNat * 65536)) :=
  State.result_gives _ a _ ((State.sameIssuer_modHere rfl).eret_ne he)

theorem exec_mwait_empty {s : State} (hk : s.ctx = 0) (hq : s.here.mat.queue = []) (a : GReg) :
    exec (.mwait a) s = .next (s.mwaitDone a) := by
  simp [exec, execMwait, hk, hq]

/-- Settles O41: each is its write of the unit's state, once the context may issue it. -/
theorem matrixStatus : Obligations.MatrixStatus := by
  intro s a m
  refine ⟨fun hk => ?_, fun hk he => ⟨?_, fun hq => ?_, ?_⟩, fun hk hq => ?_, fun c hw => ⟨fun hq hf => ?_, fun h => ?_⟩⟩
  · simp [exec, execMmir, execMwait, execMqstat, hk]
  · have hs : s.SameIssuer (s.modHere (fun x => { x with mat := { x.mat with mirror := m } })) := State.sameIssuer_modHere rfl
    exact ⟨_, by simp [exec, execMmir, hk], hs.retire_passed he, hs.retire_g he⟩
  · exact ⟨_, exec_mwait_empty hk hq a, State.mwaitDone_gives he a⟩
  · exact ⟨_, by simp [exec, execMqstat, hk], s.result_gives a _ he⟩
  · simp [exec, execMwait, hk, hq]
  · rw [exec_mwait_empty (s := s.at_ c 0) rfl hq]
    simp [exec, execMwaitComplete, hw, hq, hf]
  · have hstay : ((s.coreAt c).mat.queue.isEmpty && !(s.coreAt c).queueFaulted (s.ctxAt c 0).intrap) = false := by
      rcases h with h | h
      · simp [h]
      · simp [h]
    simp [exec, execMwaitComplete, hw, hstay]

/-! ### Tiles marked as checked (R155) -/

/-- Between two states only tiles of local memory have been marked. -/
def State.marked (s t : State) : Prop :=
  t = { s with cores := t.cores }
    ∧ ∀ c, t.coreAt c = { s.coreAt c with loc := { (s.coreAt c).loc with checked := (t.coreAt c).loc.checked } }

theorem State.marked.refl (s : State) : s.marked s := ⟨rfl, fun _ => rfl⟩

theorem State.modLoc_marked {s0 s : State} (c : Nat) (f : Local → Local) (h : s0.marked s)
    (hf : ∀ l : Local, f l = { l with checked := (f l).checked }) : s0.marked (s.modLoc c f) := by
  obtain ⟨h1, h2⟩ := h
  refine ⟨?_, fun d => ?_⟩
  · rw [State.modLoc, State.modCore, h1]
  · rw [State.modLoc, State.coreAt_modCore]
    split
    · rename_i e
      subst e
      rw [hf, h2 d]
    · exact h2 d

theorem State.markTiles_marked {s0 s : State} (c la n : Nat) (h : s0.marked s) : s0.marked (s.markTiles c la n) := by
  refine each_inv s0.marked _ _ _ (fun t x ht => State.modLoc_marked c _ ht fun l => ?_) h
  split
  · rfl
  · rfl

theorem State.marked.sameIssuer {s t : State} (h : s.marked t) : s.SameIssuer t := by
  have hcore : t.core = s.core := by rw [h.1]
  have hctx : t.ctx = s.ctx := by rw [h.1]
  refine ⟨hcore, hctx, by rw [h.1], ?_⟩
  rw [State.me, State.me, State.ctxAt, State.ctxAt, hcore, hctx, h.2]
  rfl

/-- Marking tiles changes no part of a core but its local memory's. -/
theorem State.marked.here_eq {s t : State} (h : s.marked t) {α : Type} (p : Core → α)
    (hp : ∀ (y : Core) m, p { y with loc := { y.loc with checked := m } } = p y) : p t.here = p s.here := by
  rw [h.sameIssuer.here, h.2]
  exact hp _ _

/-! ### The matrix queue (R183, R212 to R217) -/

@[simp] theorem State.checked_none (s : State) (f : State → State) : s.checked none f = f s := rfl
@[simp] theorem State.checked_some (s : State) (z : Cause) (f : State → State) : s.checked (some z) f = s.raise z := rfl

theorem State.checked_congr {s : State} (z : Option Cause) {f g : State → State} (h : f s = g s) : s.checked z f = s.checked z g := by
  cases z with
  | none => exact h
  | some _ => rfl

theorem State.matReady_helper {s : State} (hk : s.ctx ≠ 0) (f : State → State) : s.matReady f = s.illegal := if_pos hk

theorem State.matReady_full {s : State} (hk : s.ctx = 0) (hr : s.here.matRoom = false) (f : State → State) : s.matReady f = s := by
  simp [State.matReady, hk, hr]

theorem State.matReady_room {s : State} (hk : s.ctx = 0) (hr : s.here.matRoom = true) (f : State → State) : s.matReady f = f s := by
  simp [State.matReady, hk, hr]

theorem State.mapped_of {s : State} {a : AReg} (h : s.here.mat.accmap.getLsbD a.toNat = true) (f : State → State) :
    s.mapped a f = f s := if_pos h

theorem State.mapped_of_not {s : State} {a : AReg} (h : s.here.mat.accmap.getLsbD a.toNat = false) (f : State → State) :
    s.mapped a f = s.illegal := if_neg (by simp [h])

theorem State.aligned256_of {s : State} {b : Word} (h : b.toNat % 256 = 0) (f : State → State) : s.aligned256 b f = f s :=
  if_neg (by simp [h])

theorem State.aligned256_of_not {s : State} {b : Word} (h : b.toNat % 256 ≠ 0) (f : State → State) :
    s.aligned256 b f = s.raise { code := 0x06, addr := b } := if_pos h

theorem State.pastCheck_untimed (s : State) : s.pastCheck none = none := rfl

theorem State.pastCheck_of_past {s : State} {t : Word} (h : t.toNat < (s.stepOf s.core).toNat) :
    s.pastCheck (some t) = some { code := 0x0D } := if_pos h

theorem State.pastCheck_of_ahead {s : State} {t : Word} (h : (s.stepOf s.core).toNat ≤ t.toNat) : s.pastCheck (some t) = none :=
  if_neg (Nat.not_lt.2 h)

theorem Fduty.forced_force (f : Fduty) (now : Nat) : (f.force now).forced = true := by
  unfold Fduty.force Fduty.change
  split
  · assumption
  · split
    · rfl
    · rfl

theorem State.sameIssuer_force (s : State) (c : Nat) : s.SameIssuer (s.force c) :=
  State.sameIssuer_modCore (f := fun x => { x with fduty := x.fduty.force s.now }) rfl

theorem State.coreAt_force_self (s : State) (c : Nat) :
    (s.force c).coreAt c = { s.coreAt c with fduty := (s.coreAt c).fduty.force s.now } := State.coreAt_modCore_self _ _ _

/-- The entry of a command that issues now (R183, R213). -/
def State.matEntry (s : State) (i : Instr) (ops : List Word) (start : Option Word) (half : Option Nat) : MEntry :=
  { instr := i, ops := ops, mirror := s.here.mat.mirror, start := start, half := half, queued := s.now, pc := s.me.q0.addr }

/-- A command that enters the queue after its tiles have been marked: its entry, FORCED where it is timed, and the registers
and the queue of the context as its retirement leaves them. -/
theorem State.marked.enterMat {s u : State} (h : s.marked u) (he : s.me.eret ≠ 1) (i : Instr) (ops : List Word) (start : Option Word)
    (half : Option Nat) :
    (u.enterMat i ops start half).here.mat.queue = s.here.mat.queue ++ [s.matEntry i ops start half]
      ∧ (start.isSome = true → (u.enterMat i ops start half).here.fduty.forced = true)
      ∧ (∀ r, (u.enterMat i ops start half).g r = s.g r) ∧ (u.enterMat i ops start half).me.q0 = s.me.q1 := by
  have hmat : u.here.mat = s.here.mat := h.here_eq Core.mat fun _ _ => rfl
  have hs := h.sameIssuer
  obtain ⟨w, hw⟩ : ∃ w, w = u.queueMatrix { s.matEntry i ops start half with queued := 0 } := ⟨_, rfl⟩
  have hsw : s.SameIssuer w := by rw [hw]; exact hs.trans (State.sameIssuer_modHere rfl)
  have hqueue : w.here.mat.queue = s.here.mat.queue ++ [s.matEntry i ops start half] := by
    rw [hw, State.queueMatrix, State.here_modHere, ← hmat, hs.now]
    rfl
  have hcall : u.enterMat i ops start half = (if start.isSome then w.force w.core else w).retire := by
    rw [hw, State.matEntry, ← hmat, ← hs.me]
    rfl
  rw [hcall]
  split
  · have hsf := hsw.trans (w.sameIssuer_force w.core)
    have hhere : (w.force w.core).here = _ := w.coreAt_force_self w.core
    have hpassed := hsf.retire_passed he
    refine ⟨?_, fun _ => ?_, hsf.retire_g he, hsf.retire_q0 he⟩
    · rw [hpassed.here_eq Core.mat fun _ _ _ _ _ _ _ => rfl, hhere, ← hqueue]
      rfl
    · rw [hpassed.here_eq Core.fduty fun _ _ _ _ _ _ _ => rfl, hhere]
      exact Fduty.forced_force _ _
  · rename_i hn
    refine ⟨?_, fun hp => absurd hp hn, hsw.retire_g he, hsw.retire_q0 he⟩
    rw [(hsw.retire_passed he).here_eq Core.mat fun _ _ _ _ _ _ _ => rfl, hqueue]

/-- An untimed command enters the matrix queue (R183). -/
theorem State.marked.matEntered {s u : State} (h : s.marked u) (he : s.me.eret ≠ 1) (i : Instr) (ops : List Word) :
    s.matEntered (u.enterMat i ops none none) i ops := by
  obtain ⟨hq, -, hg, h0⟩ := h.enterMat he i ops none none
  exact ⟨hq, hg, h0⟩

/-- A timed command enters it with its step, and FORCED set (R213, R274). -/
theorem State.marked.timedEntered {s u : State} (h : s.marked u) (he : s.me.eret ≠ 1) (i : Instr) (ops : List Word) (t0 : Word)
    (half : Option Nat) :
    ∃ t e, (.next (u.enterMat i ops (some t0) half) : Result) = .next t ∧ t.here.mat.queue = s.here.mat.queue ++ [e] ∧ e.instr = i
      ∧ e.ops = ops ∧ e.start = some t0 ∧ e.mirror = s.here.mat.mirror ∧ t.here.fduty.forced = true ∧ (∀ r, t.g r = s.g r)
      ∧ t.me.q0 = s.me.q1 := by
  obtain ⟨hq, hf, hg, h0⟩ := h.enterMat he i ops (some t0) half
  exact ⟨_, _, rfl, hq, rfl, rfl, rfl, rfl, hf rfl, hg, h0⟩

/-- The matrix commands that enter the queue are guarded by `State.matReady` (R10, R183). -/
theorem exec_matrixCommand (s : State) (f : MmaFmt) (a : AReg) (b c : GReg) (z : LatchSize) (bf : Bool) (m : BitVec 7)
    (o : Option (BitVec 16)) :
    ∀ i ∈ [Instr.mzero a, .mchk a, .mma f o a b c, .mst bf a b, .mldb z b, .mring none, .mring (some m)],
      ∃ g, exec i s = .next (s.matReady g) := by
  simp only [List.forall_mem_cons, List.not_mem_nil, false_implies, implies_true, and_true]
  exact ⟨⟨_, rfl⟩, ⟨_, rfl⟩, ⟨_, rfl⟩, ⟨_, rfl⟩, ⟨_, rfl⟩, ⟨_, rfl⟩, ⟨_, rfl⟩⟩

/-- MMA with its operands checked goes on to its start (R213 items 1 to 4). -/
theorem exec_mma_of_checks {s : State} {f : MmaFmt} {a : AReg} {b c : GReg} (o : Option (BitVec 16)) (hk : s.ctx = 0)
    (hr : s.here.matRoom = true) (ha : s.here.mat.accmap.getLsbD a.toNat = true) (hb : (s.g b).toNat % 256 = 0)
    (hrange : s.checkRange (s.g b).toNat (mmaBytes f) false = none) (hscale : s.scaleCheck f (s.g c) = none) :
    ∃ u half, s.marked u ∧ (o = none → half = none) ∧ exec (.mma f o a b c) s =
      .next (s.checked (s.pastCheck (o.map (fun n => s.here.taskstep + n.setWidth 64))) (fun _ =>
        u.enterMat (.mma f o a b c) [s.g b, s.g c] (o.map (fun n => s.here.taskstep + n.setWidth 64)) half)) := by
  obtain ⟨u, hu⟩ : ∃ u, u = if f = .e2 then (s.markTiles s.core (s.g b).toNat (mmaBytes f)).markTiles s.core (bits (s.g c) 51 32) 1024
      else s.markTiles s.core (s.g b).toNat (mmaBytes f) := ⟨_, rfl⟩
  have hm : s.marked u := by
    have h1 := State.markTiles_marked s.core (s.g b).toNat (mmaBytes f) (.refl s)
    rw [hu]
    split
    · exact State.markTiles_marked _ _ _ h1
    · exact h1
  have h1 := (State.markTiles_marked s.core (s.g b).toNat (mmaBytes f) (.refl s)).sameIssuer
  refine ⟨u, (o.map (fun n => s.here.taskstep + n.setWidth 64)).bind
    (fun t => u.chooseHalf u.here.mat.mirror t (matDuration (.mma f o a b c))), hm, fun ho => by rw [ho]; rfl, ?_⟩
  simp only [exec, execMma, State.matReady_room hk hr, State.mapped_of ha, State.aligned256_of hb, hrange, hscale, State.checked_none]
  refine congrArg _ (State.checked_congr _ ?_)
  rw [h1.core, h1.g, ← hu, hm.sameIssuer.g, hm.sameIssuer.g]

section
variable {s : State} {f : MmaFmt} {a : AReg} {b c : GReg} {z : LatchSize} {bf : Bool} {o : Option (BitVec 16)} {m : Option (BitVec 7)}
  (hk : s.ctx = 0) (hr : s.here.matRoom = true)
include hk hr

theorem exec_mzero_of_mapped (ha : s.here.mat.accmap.getLsbD a.toNat = true) :
    exec (.mzero a) s = .next (s.enterMat (.mzero a) [] none none) := by
  simp only [exec, execMzero, State.matReady_room hk hr, State.mapped_of ha]

theorem exec_mchk_of_mapped (ha : s.here.mat.accmap.getLsbD a.toNat = true) :
    exec (.mchk a) s = .next (s.enterMat (.mchk a) [] none none) := by
  simp only [exec, execMchk, State.matReady_room hk hr, State.mapped_of ha]

/-- MST behind its tile and its alignment (R216). -/
theorem exec_mst_of_aligned (ha : s.here.mat.accmap.getLsbD a.toNat = true) (hb : (s.g b).toNat % 256 = 0) :
    exec (.mst bf a b) s = .next (s.checked (s.checkRange (s.g b).toNat (mstBytes bf) true) fun s =>
      s.enterMat (.mst bf a b) [s.g b] none none) := by
  simp only [exec, execMst, State.matReady_room hk hr, State.mapped_of ha, State.aligned256_of hb]

/-- MMA behind its tile and its alignment takes the first failing check of its A tile (R213). -/
theorem exec_mma_of_range {x : Cause} (ha : s.here.mat.accmap.getLsbD a.toNat = true) (hb : (s.g b).toNat % 256 = 0)
    (hx : s.checkRange (s.g b).toNat (mmaBytes f) false = some x) : exec (.mma f o a b c) s = .next (s.raise x) := by
  simp only [exec, execMma, State.matReady_room hk hr, State.mapped_of ha, State.aligned256_of hb, hx, State.checked_some]

/-- Then that of its scales (R213 item 4). -/
theorem exec_mma_of_scale {x : Cause} (ha : s.here.mat.accmap.getLsbD a.toNat = true) (hb : (s.g b).toNat % 256 = 0)
    (hc : s.checkRange (s.g b).toNat (mmaBytes f) false = none) (hx : s.scaleCheck f (s.g c) = some x) :
    exec (.mma f o a b c) s = .next (s.raise x) := by
  simp only [exec, execMma, State.matReady_room hk hr, State.mapped_of ha, State.aligned256_of hb, hc, hx, State.checked_none,
    Option.orElse_some, State.checked_some]

/-- An operand that is no multiple of 256 is ALIGN (R213, R216). -/
theorem exec_mma_mst_of_not_aligned (ha : s.here.mat.accmap.getLsbD a.toNat = true) (hb : (s.g b).toNat % 256 ≠ 0) :
    exec (.mma f o a b c) s = .next (s.raise { code := 0x06, addr := s.g b })
      ∧ exec (.mst bf a b) s = .next (s.raise { code := 0x06, addr := s.g b }) := by
  simp only [exec, execMma, execMst, State.matReady_room hk hr, State.mapped_of ha, State.aligned256_of_not hb, and_self]

/-- A tile outside ACCMAP is illegal (R16, R215). -/
theorem exec_of_not_mapped (ha : s.here.mat.accmap.getLsbD a.toNat = false) :
    exec (.mzero a) s = .next s.illegal ∧ exec (.mchk a) s = .next s.illegal ∧ exec (.mma f o a b c) s = .next s.illegal
      ∧ exec (.mst bf a b) s = .next s.illegal := by
  simp only [exec, execMzero, execMchk, execMma, execMst, State.matReady_room hk hr, State.mapped_of_not ha, and_self]

/-- MLDB behind its alignment (R216). -/
theorem exec_mldb_of_aligned (hb : (s.g b).toNat % 256 = 0) :
    exec (.mldb z b) s = .next (s.checked (s.checkRange (s.g b).toNat (latchBytes z) false) fun s =>
      (s.markTiles s.core (s.g b).toNat (latchBytes z)).enterMat (.mldb z b)
        [s.g b] none none) := by
  simp only [exec, execMldb, State.matReady_room hk hr, State.aligned256_of hb]

theorem exec_mldb_of_not_aligned (hb : (s.g b).toNat % 256 ≠ 0) :
    exec (.mldb z b) s = .next (s.raise { code := 0x06, addr := s.g b }) := by
  simp only [exec, execMldb, State.matReady_room hk hr, State.aligned256_of_not hb]

/-- MRING (R217). -/
theorem exec_mring_of_room : exec (.mring m) s =
    .next (s.checked (s.pastCheck (m.map (fun n => s.here.taskstep + n.setWidth 64 * 32))) fun u =>
      u.enterMat (.mring m) [] (m.map (fun n => s.here.taskstep + n.setWidth 64 * 32)) none) := by
  simp only [exec, execMring, State.matReady_room hk hr]

end

/-- Settles O40: each command's checks in order, then its entry. -/
theorem matrixCommandsEnterTheQueue : Obligations.MatrixCommandsEnterTheQueue := by
  intro s f a b c z bf n m o at_ ring la timed enters l
  have hself := State.marked.refl s
  refine ⟨fun hk i hi => ?_, fun hk hr i hi => ?_, fun hk hr => ⟨fun ha => ⟨fun he => ?_, fun he => ?_, fun hb hc hs => ⟨fun he => ?_, ?_⟩,
    fun hb x hx => exec_mma_of_range hk hr ha hb hx, fun hb hc x hx => exec_mma_of_scale hk hr ha hb hc hx, fun hb hc he => ?_,
    fun hb x hx => ?_, fun hb => exec_mma_mst_of_not_aligned hk hr ha hb⟩, exec_of_not_mapped hk hr, fun hb hc he => ?_, fun hb x hx => ?_,
    exec_mldb_of_not_aligned hk hr, fun he => ?_, fun hp => ?_, fun hp he => ?_⟩⟩
  · obtain ⟨g, hg⟩ := exec_matrixCommand s f a b c z bf m o i hi
    rw [hg, State.matReady_helper hk]
  · obtain ⟨g, hg⟩ := exec_matrixCommand s f a b c z bf m o i hi
    rw [hg, State.matReady_full hk hr]
  · rw [exec_mzero_of_mapped hk hr ha]
    exact ⟨_, rfl, hself.matEntered he _ _⟩
  · rw [exec_mchk_of_mapped hk hr ha]
    exact ⟨_, rfl, hself.matEntered he _ _⟩
  · obtain ⟨u, half, hu, hhalf, hmma⟩ := exec_mma_of_checks none hk hr ha hb hc hs
    rw [hmma, Option.map_none, State.pastCheck_untimed, State.checked_none, hhalf rfl]
    exact ⟨_, rfl, hu.matEntered he _ _⟩
  · obtain ⟨u, half, hu, -, hmma⟩ := exec_mma_of_checks (some n) hk hr ha hb hc hs
    refine ⟨fun hp => ?_, fun hp he => ?_⟩
    · rw [hmma, Option.map_some, State.pastCheck_of_past hp, State.checked_some]
    · rw [hmma, Option.map_some, State.pastCheck_of_ahead hp, State.checked_none]
      exact hu.timedEntered he _ _ _ _
  · rw [exec_mst_of_aligned hk hr ha hb, hc]
    exact ⟨_, rfl, hself.matEntered he _ _⟩
  · rw [exec_mst_of_aligned hk hr ha hb, hx, State.checked_some]
  · have hm := State.markTiles_marked s.core (s.g b).toNat (latchBytes z) hself
    rw [exec_mldb_of_aligned hk hr hb, hc, State.checked_none]
    exact ⟨_, rfl, hm.matEntered he _ _⟩
  · rw [exec_mldb_of_aligned hk hr hb, hx, State.checked_some]
  · rw [exec_mring_of_room hk hr, Option.map_none, State.pastCheck_untimed, State.checked_none]
    exact ⟨_, rfl, hself.matEntered he _ _⟩
  · rw [exec_mring_of_room hk hr, Option.map_some, State.pastCheck_of_past hp, State.checked_some]
  · rw [exec_mring_of_room hk hr, Option.map_some, State.pastCheck_of_ahead hp, State.checked_none]
    exact hself.timedEntered he _ _ _ _

/-! ### Transfers (R17, R100 to R105) -/

/-- The entry that a retired instruction leaves in Q2 (R17): its target, or the successor of the last entry. -/
def State.thirdEnt (s : State) (target : Option Word) : State × QEnt :=
  match target with
  | some t => s.formTarget s.core s.ctx t
  | none => s.formSucc s.core s.ctx s.me.q2

theorem State.thirdEnt_fetch (s : State) (target : Option Word) : s.fetchOnly (s.thirdEnt target).1 := by
  cases target with
  | some t => exact State.formTarget_fetch _ _ _ (.refl s)
  | none => exact State.formSucc_fetch _ _ _ (.refl s)

/-- The context behind the transfer at Q0: its delay slots move up and lose or keep their turn (R17, R100). -/
def Ctx.jumped (x : Ctx) (nul : Bool) (q2 : QEnt) : Ctx :=
  let q0 := { x.q1 with annul := x.q1.annul || nul }
  let m := sigMove x.q0 x.sigAfter q0 0
  { x.settle with
    q0 := q0, q1 := { x.q2 with annul := x.q2.annul || nul }, q2 := q2
    p := m.p, sigFault := m.fault, decFlip := m.flip, eret := x.eret - 1 }

theorem State.transfer_eq {s : State} (he : s.me.eret = 0) (ha : s.me.q0.annul = false) (taken : Bool) (target : Word) (n : Nullify) :
    s.transfer taken target n = (s.thirdEnt (if taken then some target else none)).1.modMe (fun _ =>
      s.me.jumped (nullifies taken n) (s.thirdEnt (if taken then some target else none)).2) := by
  have hne : s.me.eret ≠ 1 := by omega
  cases taken with
  | true =>
    have hm := (s.thirdEnt_fetch (some target)).me
    simp only [State.transfer, State.retireWith, hne, if_false, if_true, ha, Bool.not_false, Bool.true_and, State.thirdEnt] at hm ⊢
    exact State.modMe_congr _ (by rw [hm]; rfl)
  | false =>
    have hm := (s.thirdEnt_fetch none).me
    simp only [State.transfer, State.retireWith, hne, if_false, Bool.false_eq_true, ha, Bool.not_false, Bool.true_and, State.thirdEnt] at hm ⊢
    exact State.modMe_congr _ (by rw [hm]; rfl)

/-- What a transfer of the issuing context does to its queue, and that it changes no register (R17, R100). -/
theorem State.transfer_spec {s : State} (he : s.me.eret = 0) (ha : s.me.q0.annul = false) (taken : Bool) (target : Word) (n : Nullify) :
    let t := s.transfer taken target n
    t.me.q0 = { s.me.q1 with annul := s.me.q1.annul || nullifies taken n }
      ∧ t.me.q1 = { s.me.q2 with annul := s.me.q2.annul || nullifies taken n }
      ∧ (taken = true → t.me.q2.addr = target ∧ t.me.q2.annul = false ∧ t.me.q2.target = true)
      ∧ (taken = false → t.me.q2 = (s.formSucc s.core s.ctx s.me.q2).2)
      ∧ s.transferred t ∧ ∀ r, t.g r = s.g r := by
  intro t
  have hf := s.thirdEnt_fetch (if taken then some target else none)
  have he' := State.transfer_eq he ha taken target n
  have ht : t.me = s.me.jumped (nullifies taken n) (s.thirdEnt (if taken then some target else none)).2 :=
    (congrArg State.me he').trans (State.me_modMe _ _)
  have hmod : t = (s.thirdEnt (if taken then some target else none)).1.modMe (fun _ => t.me) := by rw [ht]; exact he'
  refine ⟨by rw [ht]; rfl, by rw [ht]; rfl, fun h => ?_, fun h => ?_, ⟨_, hf, hmod, by rw [ht]; rfl⟩, fun r => by rw [State.g, ht]; rfl⟩
  · rw [ht, h]
    exact ⟨rfl, rfl, rfl⟩
  · rw [ht, h]
    rfl

/-- The branches and JR are transfers by their condition and target (R101 to R103, R105). -/
theorem exec_of_branchOf {i : Instr} {s : State} {taken : Bool} {target : Word} {n : Nullify} (h : branchOf i s = some (taken, target, n)) :
    exec i s = .next (s.jump taken target n) := by
  cases i with
  | bne | bnz => cases h; simp only [exec, execBne, execBnz, bne, beq_eq_decide, decide_not]; rfl
  | _ => cases h <;> rfl

theorem State.jump_of_eret {s : State} (h : s.me.eret ≠ 0) (taken : Bool) (target : Word) (n : Nullify) :
    s.jump taken target n = s.illegal := if_pos h

theorem State.jump_of_no_eret {s : State} (h : s.me.eret = 0) (taken : Bool) (target : Word) (n : Nullify) :
    s.jump taken target n = s.transfer taken target n := if_neg (by simp [h])

theorem Ctx.setReg_eret (x : Ctx) (a : GReg) (v : Word) : (x.setReg a v).eret = x.eret := by
  unfold Ctx.setReg
  split
  · rfl
  · rfl

/-- A transfer that is taken annuls its delay slots by .NT only (R100). -/
theorem nullifies_taken (n : Nullify) : nullifies true n = (n == .nt) := by cases n with | _ => rfl

/-- JAL whose second delay slot is formed is a transfer behind its link (R104). -/
theorem exec_jal_of_formed {s : State} (he : s.me.eret = 0) (h : s.me.q2.line ≠ .unformed) (n : Nullify) (a : GReg) (disp : BitVec 25) :
    exec (.jal n a disp) s = .next ((s.setG a s.me.link).transfer true (s.lineTarget disp) n) := by
  simp only [exec, execJal, he, ne_eq, not_true_eq_false, if_false]

/-- Settles O4: a branch or JR is a transfer, JAL one behind the write of its link. -/
theorem branchesAndLinks : Obligations.BranchesAndLinks := by
  refine ⟨fun i s taken target n he ha h => ?_, fun n a disp s he ha => ⟨fun hq => ?_, fun k h2 h1 hk => ?_⟩, fun s he => ⟨fun i p h => ?_, fun n a disp => ?_⟩⟩
  · rw [exec_of_branchOf h, State.jump_of_no_eret he]
    exact ⟨_, rfl, State.transfer_spec he ha taken target n⟩
  · obtain ⟨e0, e1, e2⟩ := s.me.setReg_q a s.me.link
    have hspec := State.transfer_spec (s := s.setG a s.me.link) (by rw [State.me_setG, Ctx.setReg_eret, he])
      (by rw [State.me_setG, e0, ha]) true (s.lineTarget disp) n
    rw [State.me_setG, e1, e2, nullifies_taken] at hspec
    obtain ⟨h0, h1, h2, -, ht, hg⟩ := hspec
    obtain ⟨h2a, h2n, h2t⟩ := h2 rfl
    exact ⟨_, exec_jal_of_formed he hq n a disp, h0, h1, h2a, h2n, h2t, ht, fun r => by rw [hg, State.g_setG]; rfl⟩
  · simp [exec, execJal, State.fetchFate, he, h2, h1]
  · obtain ⟨taken, target, n⟩ := p
    rw [exec_of_branchOf h, State.jump_of_eret he]
  · simp [exec, execJal, he]

/-! ### Local memory (R19, R139, R155) -/

theorem each_fix {α β : Type} {f : β → α → β} {s : β} (hf : ∀ x, f s x = s) (xs : List α) : each xs s f = s := by
  induction xs with
  | nil => rfl
  | cons x xs ih => exact (congrArg (fun t => each xs t f) (hf x)).trans ih

/-- Words without errors are read as they stand (R375). -/
theorem eccRead_clean (m : Memory) (a n : Nat) : eccRead m {} a n = { mem := m, ecc := {} } := each_fix (fun _ => rfl) _

/-- A write where no error stands replaces its bytes and meets none (R376). -/
theorem eccWrite_clean (m : Memory) (a : Nat) (bs : List Byte) : eccWrite m {} a bs = { mem := m.writeN a bs, ecc := {} } := by
  unfold eccWrite
  rw [each_fix]
  intro w
  split
  · rfl
  · rfl

theorem Core.countEcc_zero (x : Core) (now src : Nat) : x.countEcc now 0 0 src = x := rfl

/-- Bytes that do not cross a boundary of 64 KiB are one piece. -/
theorem localPieces_single {la n : Nat} (hn : 0 < n) (h : la % 0x10000 + n ≤ 0x10000) : localPieces la n = [(la, n)] := by
  have h1 : (la + n + 0xFFFF) / 0x10000 - la / 0x10000 = 1 := by omega
  have h2 : max la (la / 0x10000 * 0x10000) = la := by omega
  have h3 : min (la + n) ((la / 0x10000 + 1) * 0x10000) = la + n := by omega
  unfold localPieces
  rw [h1]
  simp [List.range_succ, h2, h3]

theorem sizeBytes_pos (z : Size) : 0 < sizeBytes z := by cases z with | _ => decide

/-- An access aligned to its size lies in one piece of local memory. -/
theorem localPieces_aligned {la : Nat} {z : Size} (h : la % sizeBytes z = 0) : localPieces la (sizeBytes z) = [(la, sizeBytes z)] := by
  refine localPieces_single (sizeBytes_pos z) ?_
  cases z with
  | _ => simp only [sizeBytes] at h ⊢; omega

/-- TCM has no tiles (R155). -/
theorem tilesOf_tcm {la n : Nat} (hn : 0 < n) (h : la + n ≤ 0x30000) : tilesOf la n = [] := by
  unfold tilesOf
  rw [List.filter_eq_nil_iff]
  intro e he
  obtain ⟨i, hi, rfl⟩ := List.mem_map.1 he
  have := List.mem_range.1 hi
  simp only [Bool.and_eq_true, decide_eq_true_eq]
  omega

theorem Core.byteFault_tcm (x : Core) {la : Nat} (h : la < 0x30000) : x.byteFault la = none := if_pos h

/-- An aligned access of TCM passes every check of R19. -/
theorem State.checkLocal_tcm (s : State) (c : Nat) {la : Nat} {z : Size} (store : Bool) (ha : la % sizeBytes z = 0)
    (h : la + sizeBytes z ≤ 0x30000) : s.checkLocal c la (sizeBytes z) (sizeBytes z) store = none := by
  have hn := sizeBytes_pos z
  have hp := localPieces_aligned ha
  have hregion : (s.coreAt c).checkRegion la (sizeBytes z) = none := by
    simp [Core.checkRegion, hp, Core.byteFault_tcm _ (show la < 0x30000 by omega), show la < 1048576 by omega]
  have hring : (s.coreAt c).checkRing la (sizeBytes z) = none := by
    simp [Core.checkRing, hp, show ¬0x40000 ≤ la by omega]
  have htags : s.checkTags c la (sizeBytes z) = none := by rw [State.checkTags, tilesOf_tcm hn h]; rfl
  simp [State.checkLocal, ha, hregion, hring, htags]

/-- A checked access is aligned. -/
theorem State.mod_of_checkLocal {s : State} {c la n unit : Nat} {store : Bool} (h : s.checkLocal c la n unit store = none) :
    la % unit = 0 := by
  by_contra hne
  simp [State.checkLocal, hne] at h

theorem State.modCore_congr (s : State) (c : Nat) {f g : Core → Core} (h : f (s.coreAt c) = g (s.coreAt c)) :
    s.modCore c f = s.modCore c g := by rw [State.modCore, State.modCore, h]

/-- A read of TCM where no error stands delivers the bytes as they are, and changes nothing. -/
theorem State.localRead_tcm {s : State} {c la n : Nat} (hp : localPieces la n = [(la, n)]) (h : la < 0x30000)
    (he : (s.coreAt c).loc.ecc = {}) :
    s.localRead c la n = (s.modCore c (fun x => x), (s.coreAt c).loc.tcm.readN la n, none) := by
  have hcore : s.modCore c (fun x =>
      { x with loc := { x.loc with tcm := (s.coreAt c).loc.tcm, ecc := {} } }) = s.modCore c (fun x => x) :=
    State.modCore_congr _ _ (by rw [← he])
  simp only [State.localRead, State.localReadBy, hp, each, List.foldl_cons, List.foldl_nil, h, if_true, he, eccRead_clean,
    Core.countEcc_zero, List.nil_append, hcore]
  rfl

/-- A write of TCM where no error stands replaces its bytes. -/
theorem State.localWrite_tcm {s : State} {c la : Nat} {bs : List Byte} (cid : Nat) (hp : localPieces la bs.length = [(la, bs.length)])
    (h : la < 0x30000) (he : (s.coreAt c).loc.ecc = {}) :
    s.localWrite c la bs cid = s.modLoc c (fun l => { l with tcm := l.tcm.writeN la bs }) := by
  have hcore : s.modCore c (fun x =>
      { x with loc := { x.loc with tcm := (s.coreAt c).loc.tcm.writeN la bs, ecc := {} } })
        = s.modLoc c (fun l => { l with tcm := l.tcm.writeN la bs }) := State.modCore_congr _ _ (by rw [← he])
  simp only [State.localWrite, State.localWriteBy, hp, each, List.foldl_cons, List.foldl_nil, h, if_true, he, Nat.sub_self,
    List.drop_zero, List.take_length, eccWrite_clean, Core.countEcc_zero, State.storeLost, hcore]

/-- A write of a well where no error stands replaces its bytes. -/
theorem State.localWrite_well {s : State} {c la w : Nat} {bs : List Byte} (cid : Nat)
    (hp : localPieces la bs.length = [(la, bs.length)]) (h : 0x40000 ≤ la) (hw : w = bankWell ((s.coreAt c).bankmap (la / 0x10000 - 4)))
    (he : (s.well c w).ecc = {}) :
    s.localWrite c la bs cid
      = (s.modWell c w (fun v => { v with data := (s.well c w).data.writeN (la % 0x10000) bs, ecc := {} })).modCore c (fun x => x) := by
  subst hw
  simp only [State.localWrite, State.localWriteBy, hp, each, List.foldl_cons, List.foldl_nil, show ¬la < 0x30000 by omega, if_false, he,
    Nat.sub_self, List.drop_zero, List.take_length, eccWrite_clean, Core.countEcc_zero, State.storeLost, if_true]

/-- Taking a core as it is changes no core. -/
theorem State.coreAt_modCore_id (s : State) (c d : Nat) : (s.modCore c (fun x => x)).coreAt d = s.coreAt d := by
  rw [State.coreAt_modCore]
  split
  · rename_i e; rw [e]
  · rfl

/-- A local load that passes its checks is its read, the marking of its tiles and one result. -/
theorem State.localLoad_of_read {s u : State} {a b : GReg} {imm : BitVec 13} {n : Nat} {zero : Bool} {bs : List Byte}
    (hc : s.checkLocal s.core (s.localAddr b imm) n n false = none) (hr : s.localRead s.core (s.localAddr b imm) n = (u, bs, none)) :
    s.localLoad a b imm n zero = (u.markTiles u.core (s.localAddr b imm) n).result a (extendLoad zero n bs) := by
  rw [State.localLoad, hc, State.checked_none, hr]

/-- One that meets an uncorrectable word is POISONED (R139, R376). -/
theorem State.localLoad_poisoned {s u : State} {a b : GReg} {imm : BitVec 13} {n x : Nat} {zero : Bool} {bs : List Byte}
    (hc : s.checkLocal s.core (s.localAddr b imm) n n false = none) (hr : s.localRead s.core (s.localAddr b imm) n = (u, bs, some x)) :
    s.localLoad a b imm n zero = u.raise { code := 0x0B, addr := w64 (s.localAddr b imm) } := by
  rw [State.localLoad, hc, State.checked_none, hr]

/-- The read and the marking of its tiles leave the issuing context. -/
theorem State.localLoad_gives {s u : State} {a b : GReg} {imm : BitVec 13} {n : Nat} {zero : Bool} {bs : List Byte} (he : s.me.eret ≠ 1)
    (hc : s.checkLocal s.core (s.localAddr b imm) n n false = none) (hr : s.localRead s.core (s.localAddr b imm) n = (u, bs, none)) :
    (u.markTiles s.core (s.localAddr b imm) n).gives (s.localLoad a b imm n zero) a (extendLoad zero n bs) := by
  have hread : s.SameIssuer u := State.SameIssuer.of_fetchOnly (by
    have hf := State.localRead_fetch s.core (s.localAddr b imm) n (.refl s)
    rwa [hr] at hf)
  have hmark := (State.markTiles_marked s.core (s.localAddr b imm) n (.refl u)).sameIssuer
  rw [State.localLoad_of_read hc hr, hread.core]
  exact State.result_gives _ a _ ((hread.trans hmark).eret_ne he)

theorem exec_ldl (s : State) (z : Size) (a b : GReg) (imm : BitVec 13) :
    exec (.ldl z a b imm) s = .next (s.localLoad a b imm (sizeBytes z) false) := rfl
theorem exec_ldln (s : State) (z : Size) (a b : GReg) (imm : BitVec 13) :
    exec (.ldln z a b imm) s = .next (s.localLoad a b imm (sizeBytes z) true) := rfl

/-- Settles O16: a load that passes its checks is its read, the marking of its tiles and one result. -/
theorem localLoads : Obligations.LocalLoads := by
  intro s z a b imm he
  dsimp only
  intro hc
  obtain ⟨⟨u, bs, bad⟩, hr⟩ : ∃ r, s.localRead s.core (s.localAddr b imm) (sizeBytes z) = r := ⟨_, rfl⟩
  rw [hr, exec_ldl, exec_ldln]
  refine ⟨fun hb => ?_, fun hb => ?_, fun hl hecc => ?_⟩
  · cases hb
    exact ⟨⟨_, rfl, State.localLoad_gives he hc hr⟩, ⟨_, rfl, State.localLoad_gives he hc hr⟩⟩
  · obtain ⟨x, rfl⟩ := Option.ne_none_iff_exists'.1 hb
    rw [State.localLoad_poisoned hc hr, State.localLoad_poisoned hc hr]
    exact ⟨rfl, rfl⟩
  · have hn := sizeBytes_pos z
    have hread := State.localRead_tcm (localPieces_aligned (State.mod_of_checkLocal hc)) (by omega) hecc
    have htiles : u.markTiles s.core (s.localAddr b imm) (sizeBytes z) = u := by
      rw [State.markTiles, tilesOf_tcm hn hl]
      rfl
    obtain ⟨rfl, rfl, rfl⟩ : u = s.modCore s.core (fun x => x) ∧ bs = (s.coreAt s.core).loc.tcm.readN (s.localAddr b imm) (sizeBytes z) ∧ bad = none := by
      simpa only [Prod.mk.injEq] using hr.symm.trans hread
    rw [htiles]
    exact ⟨rfl, rfl, rfl, State.coreAt_modCore_id _ _⟩

/-! ### Bytes of local memory -/

/-- A byte of local memory depends on the local part of its core and on the wells. -/
theorem State.localByte_congr {s t : State} (hloc : ∀ c, (t.coreAt c).loc = (s.coreAt c).loc) (hoct : t.octets = s.octets) (c la : Nat) :
    t.localByte c la = s.localByte c la := by
  simp only [State.localByte, State.well, State.oct, Core.bankmap, hloc, hoct]

theorem State.stepped_loc (s : State) (c : Nat) : (s.stepped.coreAt c).loc = (s.coreAt c).loc := by
  rw [State.stepped, State.modMe, State.modCtx, State.coreAt_modCore]
  split
  · rename_i e; rw [e]; rfl
  · rfl

theorem State.stepped_localByte (s : State) (c la : Nat) : s.stepped.localByte c la = s.localByte c la :=
  State.localByte_congr s.stepped_loc rfl c la

/-- CSTAT is as before a retirement. -/
theorem State.passed.cstat {s t : State} (h : s.passed t) : t.me.cstat = s.me.cstat := by
  have e := h.me
  rw [Ctx.passed] at e
  rw [e]
  rfl

theorem State.passed.eret {s t : State} (h : s.passed t) : t.me.eret = s.me.eret - 1 := by
  have e := h.me
  rw [Ctx.passed] at e
  rw [e]

/-- A local store that passes its checks is its write and a retirement. -/
theorem exec_stl_of_checked {s : State} {z : Size} {a b : GReg} {imm : BitVec 13}
    (hc : s.checkLocal s.core (s.localAddr b imm) (sizeBytes z) (sizeBytes z) true = none) :
    exec (.stl z a b imm) s
      = .next (s.localWrite s.core (s.localAddr b imm) (leBytes (sizeBytes z) (s.g a).toNat) s.cid).retire := by
  simp only [exec, execStl, hc, State.checked_none]

theorem State.SameIssuer.inLine {s u : State} (h : s.SameIssuer u) (hl : s.me.inLine = true) : u.me.inLine = true := by rwa [h.me]

/-- The bytes of TCM of a core, with a string written at an address. -/
def State.tcmStored (s : State) (la : Nat) (bs : List Byte) : State := s.modLoc s.core (fun l => { l with tcm := l.tcm.writeN la bs })

theorem State.sameIssuer_tcmStored (s : State) (la : Nat) (bs : List Byte) : s.SameIssuer (s.tcmStored la bs) :=
  State.sameIssuer_modCore (f := fun x => { x with loc := { x.loc with tcm := x.loc.tcm.writeN la bs } }) rfl

theorem State.coreAt_tcmStored (s : State) (la : Nat) (bs : List Byte) (c : Nat) : (s.tcmStored la bs).coreAt c =
    if c = s.core then { s.coreAt c with loc := { (s.coreAt c).loc with tcm := (s.coreAt c).loc.tcm.writeN la bs } } else s.coreAt c := by
  rw [State.tcmStored, State.modLoc, State.coreAt_modCore]
  split
  · rename_i e; rw [e]
  · rfl

theorem State.localByte_tcmStored_of_lt {s : State} {la x : Nat} {bs : List Byte} (h : x < 0x30000) :
    (s.tcmStored la bs).localByte s.core x = (s.here.loc.tcm.writeN la bs).read x := by
  simp only [State.localByte, State.coreAt_tcmStored, h, if_true]
  rfl

/-- A byte that the string does not cover is as before. -/
theorem State.localByte_tcmStored_ne {s : State} {la c x : Nat} {bs : List Byte} (h : ¬(c = s.core ∧ la ≤ x ∧ x < la + bs.length)) :
    (s.tcmStored la bs).localByte c x = s.localByte c x := by
  simp only [State.localByte, State.coreAt_tcmStored]
  by_cases hc : c = s.core
  · have hx : x < la ∨ la + bs.length ≤ x := by omega
    simp only [hc, if_true, Memory.read_writeN_ne _ _ _ _ hx]
    rfl
  · simp only [hc, if_false]
    rfl

/-- A byte of a stored value. -/
theorem getElem_leBytes {n i v : Nat} (h : i < (leBytes n v).length) : (leBytes n v)[i] = BitVec.ofNat 8 (v / 2 ^ (8 * i)) := by
  induction n generalizing i v with
  | zero => simp [leBytes] at h
  | succ n ih =>
    cases i with
    | zero => simp [leBytes]
    | succ i =>
      have hi : i < (leBytes n (v / 256)).length := by simpa [leBytes] using h
      simp only [leBytes, List.getElem_cons_succ, ih hi]
      rw [Nat.div_div_eq_div_mul, show 8 * (i + 1) = 8 + 8 * i by omega, pow_add]
      rfl

theorem getElem_leBytes_toNat {n i : Nat} {v : Word} (h : i < (leBytes n v.toNat).length) : (leBytes n v.toNat)[i] = v.extractLsb' (8 * i) 8 := by
  rw [getElem_leBytes h]
  apply BitVec.eq_of_toNat_eq
  simp [Nat.shiftRight_eq_div_pow]

/-- The store of O17 and O18 to TCM: its bytes are written and it retires inside its line. -/
theorem exec_stl_tcm {s : State} {z : Size} {a b : GReg} {imm : BitVec 13} (he : s.me.eret ≠ 1) (hl : s.me.inLine = true)
    (ha : s.localAddr b imm % sizeBytes z = 0) (h : s.localAddr b imm + sizeBytes z ≤ 0x30000) (hecc : s.here.loc.ecc = {}) :
    exec (.stl z a b imm) s = .next (s.tcmStored (s.localAddr b imm) (leBytes (sizeBytes z) (s.g a).toNat)).stepped := by
  have hn := sizeBytes_pos z
  have hs := s.sameIssuer_tcmStored (s.localAddr b imm) (leBytes (sizeBytes z) (s.g a).toNat)
  rw [exec_stl_of_checked (s.checkLocal_tcm _ true ha h), State.localWrite_tcm _ _ (by omega) hecc]
  · exact congrArg _ (State.retire_inLine _ (hs.eret_ne he) (hs.inLine hl))
  · rw [length_leBytes]
    exact localPieces_aligned ha

/-- What a context and the frame of a store keep: its registers and CSTAT. -/
theorem State.SameIssuer.stepped_keeps {s u : State} (h : s.SameIssuer u) (he : s.me.eret ≠ 1) (hl : s.me.inLine = true) :
    (∀ r, u.stepped.g r = s.g r) ∧ u.stepped.me.cstat = s.me.cstat ∧ u.stepped.me.eret = s.me.eret - 1 := by
  have hp := h.retire_passed he
  rw [State.retire_inLine u (h.eret_ne he) (h.inLine hl)] at hp
  exact ⟨fun r => (hp.g r).trans (h.g r), hp.cstat.trans (by rw [h.me]), hp.eret.trans (by rw [h.me])⟩

theorem State.well_modWell (s : State) (c w d v : Nat) (f : Well → Well) :
    (s.modWell c w f).well d v = if octOf d = octOf c ∧ v = w then f (s.well c w) else s.well d v := by
  simp only [State.well, State.modWell, State.modOct, State.oct, sget_smod]
  by_cases ho : octOf d = octOf c
  · simp only [ho, if_true, Octet.well_modWell, true_and]
  · simp only [ho, if_false, false_and]

/-- A well of the octet, with a string written at an address of it. -/
def State.wellStored (s : State) (w la : Nat) (bs : List Byte) : State :=
  (s.modWell s.core w (fun v => { v with data := (s.well s.core w).data.writeN (la % 0x10000) bs, ecc := {} })).modCore s.core (fun x => x)

theorem State.sameIssuer_wellStored (s : State) (w la : Nat) (bs : List Byte) : s.SameIssuer (s.wellStored w la bs) :=
  have hw : s.SameIssuer (s.modWell s.core w
      (fun v => { v with data := (s.well s.core w).data.writeN (la % 0x10000) bs, ecc := {} })) := ⟨rfl, rfl, rfl, rfl⟩
  hw.trans (State.sameIssuer_modCore (f := fun x => x) rfl)

theorem State.well_wellStored (s : State) (w la : Nat) (bs : List Byte) (c v : Nat) : (s.wellStored w la bs).well c v =
    if octOf c = octOf s.core ∧ v = w then { s.well s.core w with data := (s.well s.core w).data.writeN (la % 0x10000) bs, ecc := {} }
    else s.well c v := State.well_modWell _ _ _ _ _ _

theorem State.localByte_wellStored_of_lt {s : State} {w la c x : Nat} {bs : List Byte} (h : x < 0x30000) :
    (s.wellStored w la bs).localByte c x = s.localByte c x := by
  simp only [State.localByte, h, if_true, State.wellStored, State.coreAt_modCore_id]
  rfl

/-- The store of O17 to a slot: its bytes are written to the well mapped there, and it retires inside its line. -/
theorem exec_stl_well {s : State} {z : Size} {a b : GReg} {imm : BitVec 13} {w : Nat} (he : s.me.eret ≠ 1) (hl : s.me.inLine = true)
    (h : 0x40000 ≤ s.localAddr b imm) (hc : s.checkLocal s.core (s.localAddr b imm) (sizeBytes z) (sizeBytes z) true = none)
    (hw : w = bankWell (s.here.bankmap (s.localAddr b imm / 0x10000 - 4))) (hecc : (s.well s.core w).ecc = {}) :
    exec (.stl z a b imm) s = .next (s.wellStored w (s.localAddr b imm) (leBytes (sizeBytes z) (s.g a).toNat)).stepped := by
  have hs := s.sameIssuer_wellStored w (s.localAddr b imm) (leBytes (sizeBytes z) (s.g a).toNat)
  rw [exec_stl_of_checked hc, State.localWrite_well _ _ h hw hecc]
  · exact congrArg _ (State.retire_inLine _ (hs.eret_ne he) (hs.inLine hl))
  · rw [length_leBytes]
    exact localPieces_aligned (State.mod_of_checkLocal hc)

/-- Settles O17: the store writes its bytes into one memory, and its retirement reads no line. -/
theorem localStore : Obligations.LocalStore := by
  intro s z a b imm he hl la n w
  have hlen : (leBytes n (s.g a).toNat).length = n := length_leBytes _ _
  have hn : 0 < n := sizeBytes_pos z
  refine ⟨fun h ha hecc => ?_, fun h hc hecc => ?_⟩
  · obtain ⟨hg, hst, -⟩ := (s.sameIssuer_tcmStored la (leBytes n (s.g a).toNat)).stepped_keeps he hl
    refine ⟨_, exec_stl_tcm he hl ha h hecc, fun i hi => ?_, fun c x hx => ?_, fun x => rfl, hg, hst⟩
    · rw [State.stepped_localByte]
      refine (State.localByte_tcmStored_of_lt (by omega)).trans ?_
      rw [Memory.read_writeN _ _ _ _ (hlen.symm ▸ hi), getElem_leBytes_toNat]
    · rw [State.stepped_localByte]
      exact State.localByte_tcmStored_ne (by rwa [hlen])
  · obtain ⟨hg, hst, -⟩ := (s.sameIssuer_wellStored w la (leBytes n (s.g a).toNat)).stepped_keeps he hl
    have hself := s.well_wellStored w la (leBytes n (s.g a).toNat) s.core w
    rw [if_pos ⟨rfl, rfl⟩] at hself
    refine ⟨_, exec_stl_well he hl h hc rfl hecc, fun i hi => ?_, fun x hx => ?_, fun c v hv => ?_, fun c x hx => ?_, fun x => rfl, hg, hst⟩
    · refine (congrArg (fun v : Well => v.data.read (la % 0x10000 + i)) hself).trans ?_
      rw [Memory.read_writeN _ _ _ _ (hlen.symm ▸ hi), getElem_leBytes_toNat]
    · refine (congrArg (fun v : Well => v.data.read x) hself).trans ?_
      exact Memory.read_writeN_ne _ _ _ _ (by omega)
    · exact (s.well_wellStored w la _ c v).trans (if_neg hv)
    · rw [State.stepped_localByte]
      exact State.localByte_wellStored_of_lt hx

/-! ### A local load after a local store (R20, R135, R139) -/

/-- The bytes of a value are the value below their number (R6). -/
theorem leNat_leBytes (n v : Nat) : leNat (leBytes n v) = v % 2 ^ (8 * n) := by
  induction n generalizing v with
  | zero => simp [leBytes, leNat, Nat.mod_one]
  | succ n ih =>
    have hcons : leNat (leBytes (n + 1) v) = v % 256 + 256 * leNat (leBytes n (v / 256)) := by simp [leBytes, leNat]
    rw [hcons, ih, show 8 * (n + 1) = 8 + 8 * n by omega, pow_add, Nat.mod_mul]
    rfl

/-- What is extended is the value itself (R58, R135). -/
theorem extendLoad_leBytes (zero : Bool) (n v : Nat) :
    extendLoad zero n (leBytes n v) = if zero then zext v (8 * n) else sext v (8 * n) := by
  have h : BitVec.ofNat (8 * n) (v % 2 ^ (8 * n)) = BitVec.ofNat (8 * n) v := by
    apply BitVec.eq_of_toNat_eq
    simp
  simp only [extendLoad, leNat_leBytes, zext, sext, h]

/-- A register that a result was written to. -/
theorem State.gives.g_self {s t : State} {a : GReg} {v : Word} (h : s.gives t a v) : t.g a = if a = 0 then 0 else v := by
  rw [h.2 a]
  by_cases ha : a = 0
  · rw [ha]
    rfl
  · rw [if_pos ⟨rfl, ha⟩, if_neg ha]

/-- A load of TCM where no error stands returns its bytes, extended. -/
theorem State.localLoad_tcm {s : State} {z : Size} {d e : GReg} {jmm : BitVec 13} (zero : Bool) (he : s.me.eret ≠ 1)
    (h : s.localAddr e jmm + sizeBytes z ≤ 0x30000) (ha : s.localAddr e jmm % sizeBytes z = 0) (hecc : s.here.loc.ecc = {}) :
    (s.localLoad d e jmm (sizeBytes z) zero).g d
      = if d = 0 then 0 else extendLoad zero (sizeBytes z) (s.here.loc.tcm.readN (s.localAddr e jmm) (sizeBytes z)) := by
  have hn := sizeBytes_pos z
  have hread := State.localRead_tcm (localPieces_aligned ha) (by omega) hecc
  exact (State.localLoad_gives he (s.checkLocal_tcm s.core false ha h) hread).g_self

/-- A load of the bytes that a store has just put into TCM. -/
theorem State.localLoad_stepped {s : State} {z : Size} {bs : List Byte} {d e : GReg} {jmm : BitVec 13} (zero : Bool)
    (he : s.me.eret = 0) (hl : s.me.inLine = true) (h : s.localAddr e jmm + sizeBytes z ≤ 0x30000)
    (ha : s.localAddr e jmm % sizeBytes z = 0) (hbs : bs.length = sizeBytes z) (hecc : s.here.loc.ecc = {}) :
    ((s.tcmStored (s.localAddr e jmm) bs).stepped.localLoad d e jmm (sizeBytes z) zero).g d
      = if d = 0 then 0 else extendLoad zero (sizeBytes z) bs := by
  obtain ⟨hg, -, her⟩ := (s.sameIssuer_tcmStored (s.localAddr e jmm) bs).stepped_keeps (by omega) hl
  have hloc : (s.tcmStored (s.localAddr e jmm) bs).stepped.here.loc
      = { s.here.loc with tcm := s.here.loc.tcm.writeN (s.localAddr e jmm) bs } := by
    have hcore : (s.tcmStored (s.localAddr e jmm) bs).stepped.core = s.core := rfl
    rw [State.here, hcore, State.stepped_loc, State.coreAt_tcmStored, if_pos rfl]
    rfl
  have hla : (s.tcmStored (s.localAddr e jmm) bs).stepped.localAddr e jmm = s.localAddr e jmm := by rw [State.localAddr, hg, State.localAddr]
  have hload := State.localLoad_tcm (s := (s.tcmStored (s.localAddr e jmm) bs).stepped) (d := d) (e := e) (jmm := jmm) (z := z) zero
    (by omega) (by rwa [hla]) (by rwa [hla]) (by rw [hloc, hecc])
  rw [hload, hla, hloc, ← hbs, Memory.readN_writeN]

/-- Settles O18: the load reads the bytes just written, and their extension is that of the value. -/
theorem localStoreThenLoad : Obligations.LocalStoreThenLoad := by
  intro s z a b d e imm jmm he hl hla h ha hecc
  have hstore := exec_stl_tcm (a := a) (by omega) hl ha h hecc
  rw [hla] at h ha hstore
  have hload (zero : Bool) := State.localLoad_stepped (d := d) zero he hl h ha (length_leBytes _ (s.g a).toNat) hecc
  simp only [extendLoad_leBytes] at hload
  exact ⟨⟨_, _, hstore, rfl, hload true⟩, ⟨_, _, hstore, rfl, hload false⟩⟩

/-! ### Accesses that fail a check (R19, R137, R229) -/

/-- The cause of a failing check is raised by the loads and by the store (R19, R139). -/
theorem exec_local_of_checkLocal {s : State} {z : Size} {a b : GReg} {imm : BitVec 13} {x : Cause} :
    (s.checkLocal s.core (s.localAddr b imm) (sizeBytes z) (sizeBytes z) false = some x →
        exec (.ldl z a b imm) s = .next (s.raise x) ∧ exec (.ldln z a b imm) s = .next (s.raise x))
      ∧ (s.checkLocal s.core (s.localAddr b imm) (sizeBytes z) (sizeBytes z) true = some x → exec (.stl z a b imm) s = .next (s.raise x)) := by
  refine ⟨fun h => ?_, fun h => ?_⟩
  · rw [exec_ldl, exec_ldln, State.localLoad, State.localLoad, h, State.checked_some, State.checked_some]
    exact ⟨rfl, rfl⟩
  · simp only [exec, execStl, h, State.checked_some]

theorem State.checkLocal_of_not_aligned {s : State} {c la n : Nat} (h : la % n ≠ 0) (store : Bool) :
    s.checkLocal c la n n store = some { code := 0x06, addr := w64 la } := if_pos h

theorem State.checkLocal_of_region {s : State} {c la n : Nat} {x : Cause} (h : la % n = 0) (hx : (s.coreAt c).checkRegion la n = some x)
    (store : Bool) : s.checkLocal c la n n store = some x := by
  simp [State.checkLocal, h, hx]

theorem State.checkLocal_behind_region {s : State} {c la n : Nat} (h : la % n = 0) (hx : (s.coreAt c).checkRegion la n = none)
    (store : Bool) : s.checkLocal c la n n store = if store then (s.coreAt c).checkRing la n else s.checkTags c la n := by
  simp [State.checkLocal, h, hx]

theorem Core.checkRegion_of_beyond (x : Core) {la : Nat} (h : 2 ^ 20 ≤ la) (n : Nat) :
    x.checkRegion la n = some { code := 0x07, addr := w64 la } := if_pos h

/-- Every scalar global access is checked before anything else, with the entry of its object used (R137, R338). -/
theorem exec_of_accOf {i : Instr} {m : GAcc} (h : accOf i = some m) (s : State) : exec i s = .next (s.globalAccess i) := by
  cases i with
  | ld | ldn | st | amoadd | amoand | amoor | amoxor | amomin | amomax | amominn | amomaxn | amoswap | amocas | famoadd => rfl
  | _ => cases h

theorem exec_of_checkGlobal {i : Instr} {m : GAcc} {s : State} {x : Cause} (h : accOf i = some m)
    (hx : s.checkGlobal s.core s.cid (eaOf (s.g m.b) m.imm) m.n = some x) :
    exec i s = .next ((s.obbUse s.core (idOf (eaOf (s.g m.b) m.imm))).raise x) := by
  rw [exec_of_accOf h, State.globalAccess, h]
  simp only [hx, State.checked_some]

theorem State.checkGlobal_of_not_aligned {s : State} {c cid n : Nat} {p : Word} (h : p.toNat % n ≠ 0) :
    s.checkGlobal c cid p n = some { code := 0x06, addr := p } := if_pos h

/-- The null object, a reserved identifier, and an identifier that no object has (R229). -/
theorem State.checkGlobal_of_no_object {s : State} {c cid n : Nat} {p : Word} (ha : p.toNat % n = 0)
    (h : idOf p = 0 ∨ aliasId < idOf p ∨ (idOf p ≠ aliasId ∧ s.bounds c (idOf p) = none)) :
    s.checkGlobal c cid p n = some { code := 0x09, addr := p } := by
  have hid : idOf p ≠ aliasId := by
    rcases h with h | h | h
    · simp [h, aliasId]
    · omega
    · exact h.1
  simp only [State.checkGlobal, State.checkObject, ha, hid, if_false, ne_eq, not_true_eq_false]
  split
  · rfl
  · rw [show s.bounds c (idOf p) = none by tauto]

/-- Bytes beyond the end of an object, or of an object that belongs to another context (R229). -/
theorem State.checkGlobal_of_bounds {s : State} {c cid n : Nat} {p : Word} {o : Bounds} (ha : p.toNat % n = 0) (hid : idOf p ≠ aliasId)
    (ho : s.bounds c (idOf p) = some o)
    (h : o.size * 65536 < offOf p + n ∨ (o.priv = true ∧ (o.owncore ≠ c ∨ o.owncid ≠ cid))) :
    s.checkGlobal c cid p n = some { code := 0x09, addr := p } := by
  simp only [State.checkGlobal, State.checkObject, ha, hid, ho, if_false, ne_eq, not_true_eq_false]
  split
  · rfl
  · rcases h with h | ⟨hp, h⟩
    · exact if_pos h
    · split
      · rfl
      · exact if_pos (by simpa [hp, bne_iff_ne] using h)

/-- Bytes beyond the end of the object that maps the mesh (R230). -/
theorem State.checkGlobal_of_beyond_alias {s : State} {c cid n : Nat} {p : Word} (ha : p.toNat % n = 0) (hid : idOf p = aliasId)
    (h : coreCount * 2 ^ 20 < offOf p + n) : s.checkGlobal c cid p n = some { code := 0x09, addr := p } := by
  have hd : decide (offOf p + n ≤ coreCount * 2 ^ 20) = false := decide_eq_false (Nat.not_le.2 h)
  simp only [State.checkGlobal, State.checkObject, ha, hid, hd, if_true, if_false, ne_eq, not_true_eq_false, Bool.false_and,
    Bool.false_eq_true]

/-- Settles O19: each check is a cause of the access, and its cause is raised. -/
theorem accessFaults : Obligations.AccessFaults := by
  refine ⟨fun s z a b imm x => ?_, fun i m s hm => ⟨fun h => exec_of_checkGlobal hm (State.checkGlobal_of_not_aligned h),
    fun ha h => exec_of_checkGlobal hm (State.checkGlobal_of_no_object ha h),
    fun o ha hid ho h => exec_of_checkGlobal hm (State.checkGlobal_of_bounds ha hid ho h),
    fun ha hid h => exec_of_checkGlobal hm (State.checkGlobal_of_beyond_alias ha hid h)⟩⟩
  have all {x : Cause} (hx : ∀ store, s.checkLocal s.core (s.localAddr b imm) (sizeBytes z) (sizeBytes z) store = some x) :
      exec (.ldl z a b imm) s = .next (s.raise x) ∧ exec (.ldln z a b imm) s = .next (s.raise x)
        ∧ exec (.stl z a b imm) s = .next (s.raise x) :=
    have hload := exec_local_of_checkLocal.1 (hx false)
    ⟨hload.1, hload.2, exec_local_of_checkLocal.2 (hx true)⟩
  refine ⟨fun h => all (State.checkLocal_of_not_aligned h), fun ha h => all (State.checkLocal_of_region ha (Core.checkRegion_of_beyond _ h _)),
    fun ha h => all (State.checkLocal_of_region ha h), fun ha hr => ⟨fun h => ?_, fun h => ?_⟩⟩
  · exact exec_local_of_checkLocal.2 ((State.checkLocal_behind_region ha hr true).trans h)
  · exact exec_local_of_checkLocal.1 ((State.checkLocal_behind_region ha hr false).trans h)

/-! ### The object bounds buffer (R229, R338) -/

/-- Between two states only object bounds that cores keep, and what an error in them brings about, differ. -/
def State.obbOnly (s t : State) : Prop :=
  t = { s with cores := t.cores, agenda := t.agenda }
    ∧ ∀ d, t.coreAt d = { s.coreAt d with cache := { (s.coreAt d).cache with obb := (t.coreAt d).cache.obb } }

theorem State.obbOnly.refl (s : State) : s.obbOnly s := ⟨rfl, fun _ => rfl⟩

/-- An error of the buffer is not counted, but may be a device-level fault (R377). -/
theorem State.suffer_obb (s : State) (c : Nat) (errs : List Bool) : ∃ ag, (s.suffer c 0 errs).1 = { s with agenda := ag } := by
  unfold State.suffer
  split
  · exact ⟨s.agenda, rfl⟩
  · dsimp only
    rw [if_pos rfl]
    split
    · exact ⟨_, rfl⟩
    · exact ⟨s.agenda, rfl⟩

theorem State.obbUse_obbOnly (s : State) (c id : Nat) : s.obbOnly (s.obbUse c id) := by
  unfold State.obbUse
  split
  · exact .refl s
  · rename_i e _
    obtain ⟨ag, hag⟩ := s.suffer_obb c e.hurt.toList
    rw [hag]
    refine ⟨rfl, fun d => ?_⟩
    rw [State.modCache, State.coreAt_modCore]
    split
    · rename_i hd
      rw [hd]
      rfl
    · rfl

theorem State.obbOnly.sameIssuer {s t : State} (h : s.obbOnly t) : s.SameIssuer t := by
  have hcore : t.core = s.core := by rw [h.1]
  have hctx : t.ctx = s.ctx := by rw [h.1]
  refine ⟨hcore, hctx, by rw [h.1], ?_⟩
  rw [State.me, State.me, State.ctxAt, State.ctxAt, hcore, hctx, h.2]
  rfl

/-- A part of a core beside its object bounds is as before. -/
theorem State.obbOnly.here_eq {s t : State} (h : s.obbOnly t) {α : Type} (p : Core → α)
    (hp : ∀ (y : Core) o, p { y with cache := { y.cache with obb := o } } = p y) : p t.here = p s.here := by
  rw [h.sameIssuer.here, h.2]
  exact hp _ _

theorem find?_drop_append {α : Type} (p : α → Bool) (l : List α) (e : α) (n : Nat) (hl : ∀ x ∈ l, p x = false) (he : p e = true)
    (hn : n ≤ l.length) : ((l ++ [e]).drop n).find? p = some e := by
  rw [List.drop_append_of_le_length hn, List.find?_append, List.find?_eq_none.2 (fun x hx => by simp [hl x (List.mem_of_mem_drop hx)])]
  simp [he]

theorem State.bounds_id {s : State} {c id : Nat} {e : Bounds} (h : s.bounds c id = some e) : e.id = id := by
  unfold State.bounds at h
  cases hf : (s.coreAt c).cache.obb.find? (fun e => e.id == id) with
  | some x =>
    rw [hf] at h
    cases h
    simpa using List.find?_some hf
  | none =>
    rw [hf] at h
    obtain ⟨o, -, rfl⟩ := Option.map_eq_some_iff.1 h
    rfl

/-- An object whose bounds have been used is found with the same bounds, without an error. -/
theorem State.bounds_obbUse (s : State) (c id : Nat) :
    (s.obbUse c id).bounds c id = (s.bounds c id).map (fun e => { e with hurt := none }) := by
  cases h : s.bounds c id with
  | none => simp only [State.obbUse, h, Option.map_none]
  | some e =>
    have hfind : ((s.obbUse c id).coreAt c).cache.obb.find? (fun e => e.id == id) = some { e with hurt := none } := by
      obtain ⟨ag, hag⟩ := s.suffer_obb c e.hurt.toList
      simp only [State.obbUse, h, State.modCache, State.coreAt_modCore_self]
      refine find?_drop_append _ _ _ _ (fun x hx => ?_) (by simp [State.bounds_id h]) ?_
      · simpa using (List.mem_filter.1 hx).2
      · simp only [List.length_append, List.length_singleton]
        omega
    rw [State.bounds, hfind]
    rfl

/-- The object checks are the same after the use of the object's bounds (R229, R338). -/
theorem State.checkGlobal_obbUse (s : State) (c cid : Nat) (a : Word) (n : Nat) :
    (s.obbUse c (idOf a)).checkGlobal c cid a n = s.checkGlobal c cid a n := by
  have hhole (d : Nat) : (s.obbUse c (idOf a)).isHole d = s.isHole d := by
    have hdies : (s.obbUse c (idOf a)).dies = s.dies := by rw [(s.obbUse_obbOnly c (idOf a)).1]
    simp only [State.isHole, State.die, hdies]
  simp only [State.checkGlobal, State.checkObject, hhole, State.bounds_obbUse]
  cases s.bounds c (idOf a) with
  | none => rfl
  | some e => rfl

theorem State.windowOf_obbUse (s : State) (c id : Nat) (a : Word) : (s.obbUse c id).windowOf a = s.windowOf a := by
  have hobjs : (s.obbUse c id).objs = s.objs := by rw [(s.obbUse_obbOnly c id).1]
  simp only [State.windowOf, State.obj, hobjs]

theorem State.cid_obbUse (s : State) (c id : Nat) : (s.obbUse c id).cid = s.cid :=
  (s.obbUse_obbOnly c id).here_eq Core.cid fun _ _ => rfl

/-! ### Vector memory (R199 to R201, R207) -/

theorem getLsbD_objectMask : ∀ i < 64, (w64 (2 ^ 64 - 2 ^ 40)).getLsbD i = decide (40 ≤ i) := by decide
theorem getLsbD_offsetMask : ∀ i < 64, (w64 (2 ^ 40 - 1)).getLsbD i = decide (i < 40) := by decide

/-- EA keeps the object of its base (R134). -/
theorem idOf_eaOf (b off : Word) : idOf (eaOf b off) = idOf b := by
  have h : eaOf b off >>> 40 = b >>> 40 := by
    ext i hi
    by_cases hb : 40 + i < 64
    · rw [BitVec.getElem_ushiftRight, BitVec.getElem_ushiftRight, eaOf, BitVec.getLsbD_or, BitVec.getLsbD_and, BitVec.getLsbD_and,
        getLsbD_objectMask _ hb, getLsbD_offsetMask _ hb]
      simp
    · simp [BitVec.getLsbD_of_ge _ _ (Nat.not_lt.1 hb)]
  have hn := congrArg BitVec.toNat h
  simpa [idOf, Nat.shiftRight_eq_div_pow] using hn

/-- Every element of a global form lies in the object of its base (R200). -/
theorem idOf_addr_of_vmemOf {x : Core} {i : Instr} {ops : List Word} {m : VMem} (h : vmemOf x i ops = some m) (hl : m.local_ = false)
    (j : Nat) : idOf (m.addr j) = idOf (opAt ops 0) := by
  cases i with
  | vld | vst | vlds | vgath | vscat => cases h; exact idOf_eaOf _ _
  | vldl | vstl => cases h; cases hl
  | _ => cases h

/-- The checks of an element are the same after the use of the object's bounds (R201). -/
theorem State.vmemCheck_obbUse {s : State} {m : VMem} {id : Nat} (hl : m.local_ = false) (hid : ∀ j, idOf (m.addr j) = id) (j : Nat) :
    (s.obbUse s.core id).vmemCheck m j = s.vmemCheck m j := by
  have hcore := (s.obbUse_obbOnly s.core id).sameIssuer.core
  have hglobal := s.checkGlobal_obbUse s.core s.cid (m.addr j) m.z
  rw [hid j] at hglobal
  simp only [State.vmemCheck, hl, Bool.false_eq_true, if_false, hcore, State.cid_obbUse, hglobal, State.windowOf_obbUse]

/-- The state in which the elements of a vector memory instruction are checked: the object's bounds are in use (R338). -/
def State.vmemState (s : State) (m : VMem) (ops : List Word) : State := if m.local_ then s else s.obbUse s.core (idOf (opAt ops 0))

theorem State.vmemState_obbOnly (s : State) (m : VMem) (ops : List Word) : s.obbOnly (s.vmemState m ops) := by
  unfold State.vmemState
  split
  · exact .refl s
  · exact s.obbUse_obbOnly _ _

theorem State.vmemCheck_vmemState {s : State} {i : Instr} {ops : List Word} {m : VMem} (h : vmemOf s.here i ops = some m) :
    (s.vmemState m ops).vmemCheck m = s.vmemCheck m := by
  funext j
  unfold State.vmemState
  split
  · rfl
  · rename_i hl
    exact State.vmemCheck_obbUse (by simpa using hl) (idOf_addr_of_vmemOf h (by simpa using hl)) j

/-- The tiles that the elements of a local load read are marked (R155). -/
def State.vmemMarked (s : State) (m : VMem) (act : List Nat) : State :=
  if m.local_ && !m.store then each act s (fun s j => s.markTiles s.core (m.addr j).toNat 4) else s

theorem State.vmemMarked_marked (s : State) (m : VMem) (act : List Nat) : s.marked (s.vmemMarked m act) := by
  unfold State.vmemMarked
  split
  · exact each_inv s.marked _ _ _ (fun t j ht => State.markTiles_marked _ _ _ ht) (.refl s)
  · exact .refl s

theorem exec_of_vecMemOps {i : Instr} {s : State} {k : MReg} {ops : List Word} (h : vecMemOps i s.g = some (k, ops)) :
    exec i s = .next (s.queueVmem i k ops) := by
  cases i with
  | _ => cases h <;> rfl

section
variable {s : State} {i : Instr} {k : MReg} {ops : List Word} {m : VMem}

theorem State.queueVmem_helper (hk : s.ctx ≠ 0) : s.queueVmem i k ops = s.illegal := if_pos hk

theorem State.queueVmem_full (hk : s.ctx = 0) (hr : 8 ≤ s.here.vec.queue.length) : s.queueVmem i k ops = s := by
  have hroom : s.here.vecRoom = false := by simpa [Core.vecRoom] using hr
  simp [State.queueVmem, hk, hroom]

/-- With room, the elements are checked, tiles are marked, and the instruction is queued (R199 to R201). -/
theorem State.queueVmem_room (hk : s.ctx = 0) (hr : s.here.vec.queue.length < 8) (hm : vmemOf s.here i ops = some m) :
    s.queueVmem i k ops = (s.vmemState m ops).checked ((activeOf s.here.vec.vlen (s.here.gov k)).findSome? (s.vmemCheck m)) (fun u =>
      (u.vmemMarked m (activeOf s.here.vec.vlen (s.here.gov k))).queueVec i ops (s.here.gov k)) := by
  have hroom : s.here.vecRoom = true := by simpa [Core.vecRoom] using hr
  rw [← State.vmemCheck_vmemState hm]
  simp only [State.queueVmem, hk, hroom, hm, ne_eq, not_true_eq_false, if_false, Bool.not_true, Bool.false_eq_true]
  rfl

end

/-- What has entered the vector queue of a state has entered that of one with the same queue and issuing context. -/
theorem State.vecEntered_of_same {s u t : State} {i : Instr} {ops : List Word} {mask : Word} (hs : s.SameIssuer u)
    (hv : u.here.vec = s.here.vec) (h : u.vecEntered t i ops mask) : s.vecEntered t i ops mask := by
  obtain ⟨hq, hve, hvm, hg, h0⟩ := h
  rw [hv, hs.me] at hq
  exact ⟨hq, hve.trans (by rw [hv]), hvm.trans (by rw [hv]), fun r => (hg r).trans (hs.g r), h0.trans (by rw [hs.me])⟩

/-- Queueing changes no local memory's checked tiles. -/
theorem State.queueVec_checked {s : State} (hk : s.ctx = 0) (hr : s.here.vec.queue.length < 8) (he : s.me.eret ≠ 1) (i : Instr)
    (ops : List Word) (mask : Word) : (s.queueVec i ops mask).here.loc.checked = s.here.loc.checked := by
  have hroom : s.here.vecRoom = true := by simpa [Core.vecRoom] using hr
  have hq : s.queueVec i ops mask = (s.vecQueued { instr := i, vlen := s.here.vec.vlen, ops := ops, mask := mask, pc := s.me.q0.addr }).retire := by
    simp [State.queueVec, hk, hroom, State.vecQueued]
  have hs (e : VEntry) : s.SameIssuer (s.vecQueued e) := State.sameIssuer_modHere rfl
  rw [hq, ((hs _).retire_passed he).here_eq (fun x => x.loc.checked) fun _ _ _ _ _ _ _ => rfl, State.vecQueued, State.here_modHere]

/-- The checked instruction enters the queue, and a local load leaves its tiles marked. -/
theorem State.queueVmem_entered {s : State} {i : Instr} {k : MReg} {ops : List Word} {m : VMem} (hk : s.ctx = 0)
    (hr : s.here.vec.queue.length < 8) (hm : vmemOf s.here i ops = some m)
    (hc : (activeOf s.here.vec.vlen (s.here.gov k)).findSome? (s.vmemCheck m) = none) (he : s.me.eret ≠ 1) :
    s.vecEntered (s.queueVmem i k ops) i ops (s.here.gov k)
      ∧ (m.local_ = true → m.store = false → (s.queueVmem i k ops).here.loc.checked =
          (each (activeOf s.here.vec.vlen (s.here.gov k)) s (fun s j => s.markTiles s.core (m.addr j).toNat 4)).here.loc.checked) := by
  obtain ⟨u, hu⟩ : ∃ u, (s.vmemState m ops).vmemMarked m (activeOf s.here.vec.vlen (s.here.gov k)) = u := ⟨_, rfl⟩
  have hobb := s.vmemState_obbOnly m ops
  have hmark : (s.vmemState m ops).marked u := hu ▸ State.vmemMarked_marked _ _ _
  have hs : s.SameIssuer u := hobb.sameIssuer.trans hmark.sameIssuer
  have hv : u.here.vec = s.here.vec := (hmark.here_eq Core.vec fun _ _ => rfl).trans (hobb.here_eq Core.vec fun _ _ => rfl)
  have hku : u.ctx = 0 := hs.ctx.trans hk
  have hru : u.here.vec.queue.length < 8 := by rwa [hv]
  rw [State.queueVmem_room hk hr hm, hc, State.checked_none, hu]
  refine ⟨State.vecEntered_of_same hs hv (State.queueVec_entered hku hru (hs.eret_ne he) _ _ _), fun hl hst => ?_⟩
  rw [State.queueVec_checked hku hru (hs.eret_ne he), ← hu, State.vmemMarked, State.vmemState, hl, hst]
  rfl

/-- PPLD with room: its alignment, then its check and its entry with its tiles marked (R207). -/
theorem exec_ppld_of_not_aligned {s : State} {b : GReg} (hk : s.ctx = 0) (hr : s.here.vec.queue.length < 8)
    (ha : (s.g b).toNat % 16 ≠ 0) : exec (.ppld b) s = .next (s.raise { code := 0x06, addr := s.g b }) := by
  have hroom : s.here.vecRoom = true := by simpa [Core.vecRoom] using hr
  simp [exec, execPpld, hk, hroom, ha]

theorem exec_ppld_of_aligned {s : State} {b : GReg} (hk : s.ctx = 0) (hr : s.here.vec.queue.length < 8)
    (ha : (s.g b).toNat % 16 = 0) : exec (.ppld b) s = .next (s.checked (s.checkRange (s.g b).toNat 1296 false) (fun t =>
      (t.markTiles t.core (s.g b).toNat 1296).queueVec (.ppld b) [t.g b] 0)) := by
  have hroom : s.here.vecRoom = true := by simpa [Core.vecRoom] using hr
  simp [exec, execPpld, hk, hroom, ha]

theorem exec_ppld_waits {s : State} {b : GReg} (hk : s.ctx = 0) (hr : 8 ≤ s.here.vec.queue.length) : exec (.ppld b) s = .next s := by
  have hroom : s.here.vecRoom = false := by simpa [Core.vecRoom] using hr
  simp [exec, execPpld, hk, hroom]

/-- Settles O37: the checks of every element, the marking of tiles, and one entry of the queue. -/
theorem vectorMemoryEntersTheQueue : Obligations.VectorMemoryEntersTheQueue := by
  refine ⟨fun i s k ops m h hm => ?_, fun s b => ⟨fun hk => ?_, exec_ppld_waits, fun hk hr => ?_⟩⟩
  · rw [exec_of_vecMemOps h]
    refine ⟨fun hk => by rw [State.queueVmem_helper hk], fun hk hr => by rw [State.queueVmem_full hk hr], fun hk hr =>
      ⟨fun hc he => ⟨_, rfl, State.queueVmem_entered hk hr hm hc he⟩, fun z hz => ?_⟩⟩
    rw [State.queueVmem_room hk hr hm, hz, State.checked_some]
    rfl
  · simp [exec, execPpld, hk]
  · refine ⟨fun ha hc he => ?_, fun ha => exec_ppld_of_not_aligned hk hr ha, fun z ha hz => ?_⟩
    · have hmark := State.markTiles_marked s.core (s.g b).toNat 1296 (.refl s)
      have hs := hmark.sameIssuer
      have hv : (s.markTiles s.core (s.g b).toNat 1296).here.vec = s.here.vec := hmark.here_eq Core.vec fun _ _ => rfl
      have hentered := State.queueVec_entered (s := s.markTiles s.core (s.g b).toNat 1296) (hs.ctx.trans hk) (by rwa [hv]) (hs.eret_ne he)
        (.ppld b) [s.g b] 0
      rw [exec_ppld_of_aligned hk hr ha, hc, State.checked_none]
      exact ⟨_, rfl, State.vecEntered_of_same hs hv hentered⟩
    · rw [exec_ppld_of_aligned hk hr ha, hz, State.checked_some]

/-! ### Releases with nothing to release (R136) -/

theorem Core.queueHolds_of_no_ranges {x : Core} (hv : x.vecRanges = []) (hm : x.matRanges = []) (core : Bool) :
    x.queueHolds core = false := by
  have hv' : ∀ e ∈ x.vec.queue, e.ranges = [] := by simpa [Core.vecRanges, List.flatMap_eq_nil_iff] using hv
  have hm' : ∀ e ∈ x.mat.queue, e.ranges = [] := by simpa [Core.matRanges, List.flatMap_eq_nil_iff] using hm
  simp only [Core.queueHolds, Bool.or_eq_false_iff, List.any_eq_false]
  refine ⟨fun e he => ?_, fun e he => ?_⟩
  · simp [hv' e he, Core.releaseWaits]
  · simp [hm' e he, Core.releaseWaits]

/-- No buffered store of a core is left to drain. -/
theorem State.bufDrainCtx_of_empty {s : State} {c : Nat} (h : (s.coreAt c).cache.cbuf = []) (k : Nat) : s.bufDrainCtx c k = (s, true) := by
  simp [State.bufDrainCtx, h, withOlder, each]

theorem State.combDrain_of_empty {s : State} {c : Nat} (h : (s.coreAt c).cache.cbuf = []) (k : Nat) : s.combDrain c k = (s, true) := by
  simp [State.combDrain, State.bufDrainAll, h, each]

theorem State.onRelease_of_drained {s : State} (h : s.drained) (sc : Scope) (f : State → State) : s.onRelease sc f = f s := by
  obtain ⟨hb, hv, hm, hp⟩ := h
  have hpend : (s.ctx == 0 && (s.coreAt s.core).vecPending) = false := by
    by_cases hk : s.ctx = 0
    · rw [show (s.coreAt s.core).vecPending = false from hp hk, Bool.and_false]
    · simp [hk]
  have hrel : s.release s.core s.ctx sc = (s, true) := by
    unfold State.release
    rw [State.bufDrainCtx_of_empty hb]
    simp only [hpend, Core.queueHolds_of_no_ranges (x := s.coreAt s.core) hv hm, Bool.or_self, Bool.not_false, Bool.and_self]
  simp only [State.onRelease, hrel]

theorem State.obbOnly.trans {s t u : State} (h : s.obbOnly t) (k : t.obbOnly u) : s.obbOnly u := by
  obtain ⟨h1, h2⟩ := h
  obtain ⟨k1, k2⟩ := k
  refine ⟨?_, fun d => by rw [k2 d, h2 d]⟩
  rw [k1, h1]

/-- Nothing of what a release waits for changes with the object bounds. -/
theorem State.obbOnly.drained {s t : State} (h : s.obbOnly t) (hd : s.drained) : t.drained := by
  obtain ⟨hb, hv, hm, hp⟩ := hd
  refine ⟨?_, ?_, ?_, fun hk => ?_⟩
  · rwa [h.here_eq (fun x => x.cache.cbuf) fun _ _ => rfl]
  · rwa [h.here_eq Core.vecRanges fun _ _ => rfl]
  · rwa [h.here_eq Core.matRanges fun _ _ => rfl]
  · rw [h.here_eq Core.vecPending fun _ _ => rfl]
    exact hp (h.sameIssuer.ctx ▸ hk)

/-! ### Engine commands (R178 to R181) -/

theorem State.here_modMe (s : State) (f : Ctx → Ctx) : (s.modMe f).here = s.here.modCtx s.ctx f := State.coreAt_modCore_self _ _ _

/-- A command is counted, and the tiles of its local source are marked (R155, R178, R179). -/
def State.engCounted (s : State) (e : EngCmd) : State :=
  (if isLocal e.src && e.len != 0 then s.markTiles s.core e.src.toNat e.len else s).modMe
    (fun x => { x with cpyCount := if e.copy then x.cpyCount + 1 else x.cpyCount })

/-- A part of the core outside its contexts and its checked tiles is as before. -/
theorem State.here_engCounted (s : State) (e : EngCmd) {α : Type} (p : Core → α)
    (hp : ∀ (y : Core) m cs, p { y with loc := { y.loc with checked := m }, ctxs := cs } = p y) : p (s.engCounted e).here = p s.here := by
  have hmark : s.marked (if isLocal e.src && e.len != 0 then s.markTiles s.core e.src.toNat e.len else s) := by
    split
    · exact State.markTiles_marked _ _ _ (.refl s)
    · exact .refl s
  rw [State.engCounted, State.here_modMe]
  refine Eq.trans ?_ (hmark.here_eq p fun y m => hp y m y.ctxs)
  exact hp _ _ _

theorem State.engCounted_issuer (s : State) (e : EngCmd) : (s.engCounted e).core = s.core ∧ (s.engCounted e).ctx = s.ctx
    ∧ (s.engCounted e).me = { s.me with cpyCount := if e.copy then s.me.cpyCount + 1 else s.me.cpyCount } := by
  have hmark : s.marked (if isLocal e.src && e.len != 0 then s.markTiles s.core e.src.toNat e.len else s) := by
    split
    · exact State.markTiles_marked _ _ _ (.refl s)
    · exact .refl s
  obtain ⟨hcore, hctx, -, hme⟩ := hmark.sameIssuer
  exact ⟨hcore, hctx, by rw [State.engCounted, State.me_modMe, hme]⟩

/-- A command of length 0 only retires. -/
theorem State.acceptEng_of_empty {s : State} {e : EngCmd} (h : e.len = 0) : s.acceptEng e = (s.engCounted e).retire := by
  simp only [State.acceptEng, h, if_true]
  rw [State.engCounted, h]

/-- A collective that has stopped in every member stops as it is issued (R181). -/
theorem State.acceptEng_of_owed {s : State} {e : EngCmd} {v : Nat} {l : List Nat} (h : e.len ≠ 0) (hc : e.copy = false)
    (ho : s.here.collOwed = v :: l) : s.acceptEng e =
      (((s.engCounted e).modHere (fun x => { x with collOwed := l })).modMe (fun x => { x with collFail := some (x.collFail.getD v) })).retire := by
  have howed : (s.engCounted e).here.collOwed = v :: l := (s.here_engCounted e Core.collOwed fun _ _ _ => rfl).trans ho
  unfold State.acceptEng
  dsimp only
  rw [if_neg h]
  split
  · rename_i st l' _ ho'
    obtain ⟨rfl, rfl⟩ : st = v ∧ l' = l := by simpa only [List.cons.injEq] using ho'.symm.trans howed
    rfl
  · rename_i hn
    exact absurd howed (hn v l hc)

/-- The command is put behind those of its core. -/
def State.engEntered (s : State) (e : EngCmd) : State := s.tick1.modEngs s.core (fun l => l ++ [e])

/-- A command that enters its engine. -/
theorem State.acceptEng_of_enters {s : State} {e : EngCmd} (h : e.len ≠ 0) (ho : e.copy = true ∨ s.here.collOwed = []) :
    s.acceptEng e = (if e.start.isSome then ((s.engCounted e).engEntered e).force (s.engCounted e).core
      else (s.engCounted e).engEntered e).retire := by
  have howed := s.here_engCounted e Core.collOwed fun _ _ _ => rfl
  unfold State.acceptEng
  dsimp only
  rw [if_neg h]
  split
  · rename_i hc ho'
    rcases ho with ho | ho
    · rw [ho] at hc
      cases hc
    · cases ho'.symm.trans (howed.trans ho)
  · rfl

/-- A retirement that follows counts of the context's commands leaves its registers and moves its queue up. -/
theorem State.retire_counted {s x : State} {n : Nat} {cf : Option Nat} (hx : x.me = { s.me with cpyCount := n, collFail := cf })
    (he : s.me.eret ≠ 1) : x.passed x.retire ∧ (∀ r, x.retire.g r = s.g r) ∧ x.retire.me.q0 = s.me.q1 ∧ x.retire.me.collFail = cf := by
  have hp := State.retire_passed x (by rw [hx]; exact he)
  refine ⟨hp, fun r => ?_, ?_, ?_⟩
  · rw [hp.g, State.g, hx]
    rfl
  · rw [hp.queue.1, hx]
  · have hm := hp.me
    rw [Ctx.passed] at hm
    rw [hm, hx]
    rfl

section
variable {s : State} {e : EngCmd} (he : s.me.eret ≠ 1)
include he

theorem State.acceptEng_empty_spec (h : e.len = 0) :
    (s.acceptEng e).here.engs = s.here.engs ∧ ∀ r, (s.acceptEng e).g r = s.g r := by
  obtain ⟨hp, hg, -, -⟩ := State.retire_counted (s.engCounted_issuer e).2.2 he
  rw [State.acceptEng_of_empty h]
  exact ⟨(hp.here_eq Core.engs fun _ _ _ _ _ _ _ => rfl).trans (s.here_engCounted e Core.engs fun _ _ _ => rfl), hg⟩

theorem State.acceptEng_owed_spec {v : Nat} {l : List Nat} (h : e.len ≠ 0) (hc : e.copy = false) (ho : s.here.collOwed = v :: l) :
    (s.acceptEng e).here.engs = s.here.engs ∧ (s.acceptEng e).here.collOwed = l
      ∧ (s.acceptEng e).me.collFail = some (s.me.collFail.getD v) ∧ ∀ r, (s.acceptEng e).g r = s.g r := by
  obtain ⟨w, hw⟩ : ∃ w, (s.engCounted e).modHere (fun x => { x with collOwed := l }) = w := ⟨_, rfl⟩
  have hsame : (s.engCounted e).SameIssuer w := hw ▸ State.sameIssuer_modHere rfl
  have hme : (w.modMe (fun x => { x with collFail := some (x.collFail.getD v) })).me =
      { s.me with cpyCount := if e.copy then s.me.cpyCount + 1 else s.me.cpyCount, collFail := some (s.me.collFail.getD v) } := by
    rw [State.me_modMe, hsame.me, (s.engCounted_issuer e).2.2]
  have hhere : w.here = { (s.engCounted e).here with collOwed := l } := by rw [← hw, State.here_modHere]
  obtain ⟨hp, hg, -, hcf⟩ := State.retire_counted hme he
  rw [State.acceptEng_of_owed h hc ho, hw]
  refine ⟨?_, ?_, hcf, hg⟩
  · rw [hp.here_eq Core.engs fun _ _ _ _ _ _ _ => rfl, State.here_modMe, hhere]
    exact s.here_engCounted e Core.engs fun _ _ _ => rfl
  · rw [hp.here_eq Core.collOwed fun _ _ _ _ _ _ _ => rfl, State.here_modMe, hhere]
    rfl

theorem State.acceptEng_enters_spec (h : e.len ≠ 0) (ho : e.copy = true ∨ s.here.collOwed = []) :
    (s.acceptEng e).here.engs = s.here.engs ++ [e] ∧ (e.start ≠ none → (s.acceptEng e).here.fduty.forced = true)
      ∧ (∀ r, (s.acceptEng e).g r = s.g r) ∧ (s.acceptEng e).me.q0 = s.me.q1 := by
  obtain ⟨w, hw⟩ : ∃ w, (s.engCounted e).engEntered e = w := ⟨_, rfl⟩
  have hsame : (s.engCounted e).SameIssuer w := by
    rw [← hw]
    exact State.SameIssuer.trans (t := (s.engCounted e).tick1) ⟨rfl, rfl, rfl, rfl⟩
      (State.sameIssuer_modCore (f := fun x => { x with engs := x.engs ++ [e] }) rfl)
  have hengs : w.here.engs = s.here.engs ++ [e] := by
    rw [← hw, ← s.here_engCounted e Core.engs fun _ _ _ => rfl]
    exact congrArg Core.engs (State.coreAt_modCore_self (s.engCounted e).tick1 _ _)
  have hforce := hsame.trans (w.sameIssuer_force (s.engCounted e).core)
  have hhere : (w.force (s.engCounted e).core).here = { w.here with fduty := w.here.fduty.force w.now } := by
    rw [← hsame.core]
    exact w.coreAt_force_self w.core
  rw [State.acceptEng_of_enters h ho, hw]
  split
  · obtain ⟨hp, hg, h0, -⟩ := State.retire_counted (hforce.me.trans (s.engCounted_issuer e).2.2) he
    refine ⟨?_, fun _ => ?_, hg, h0⟩
    · rw [hp.here_eq Core.engs fun _ _ _ _ _ _ _ => rfl, hhere, ← hengs]
    · rw [hp.here_eq Core.fduty fun _ _ _ _ _ _ _ => rfl, hhere]
      exact Fduty.forced_force _ _
  · rename_i hn
    obtain ⟨hp, hg, h0, -⟩ := State.retire_counted (hsame.me.trans (s.engCounted_issuer e).2.2) he
    exact ⟨(hp.here_eq Core.engs fun _ _ _ _ _ _ _ => rfl).trans hengs, fun hs => absurd (Option.isSome_iff_ne_none.2 hs) hn, hg, h0⟩

end

/-- The state in which an engine command is checked: the bounds of both operands' objects are in use (R338). -/
def State.engState (s : State) (dst src : Word) : State := (s.obbUse s.core (idOf dst)).obbUse s.core (idOf src)

/-- A command as it enters its engine: its operands and BANKMAP as they stand (R21, R178). -/
def State.engCmd (s : State) (id : Nat) (n : Option (BitVec 16)) (dst src len : Word) (e : EngCmd) : EngCmd :=
  { e with
    id := id, ctx := s.ctx, dst := dst, src := src, len := bits len 31 0
    start := n.map (fun n => s.here.taskstep + n.setWidth 64)
    n := (n.getD 0).toNat, idx := s.me.cpyCount, since := s.now, bank := s.here.loc.bank }

theorem State.engState_obbOnly (s : State) (dst src : Word) : s.obbOnly (s.engState dst src) :=
  (s.obbUse_obbOnly _ _).trans (State.obbUse_obbOnly _ _ _)

section
variable {s : State} {n : Option (BitVec 16)} {dst src len : Word} {e : EngCmd}

theorem State.issueEng_full (h : 4 ≤ (s.here.engsOf e.copy).length) : s.issueEng n dst src len e = s := if_pos h

theorem State.issueEng_fault {z : Cause} (h : (s.here.engsOf e.copy).length < 4)
    (hz : s.engCheck dst src len (n.map (fun n => s.here.taskstep + n.setWidth 64)) = some z) :
    s.issueEng n dst src len e = (s.engState dst src).raise z := by
  unfold State.issueEng
  dsimp only
  rw [if_neg (by omega), hz]
  rfl

/-- A command that passes its checks, with nothing to release, is accepted. -/
theorem State.issueEng_accepts (h : (s.here.engsOf e.copy).length < 4)
    (hz : s.engCheck dst src len (n.map (fun n => s.here.taskstep + n.setWidth 64)) = none) (hd : s.drained) :
    s.issueEng n dst src len e = (s.engState dst src).acceptEng (s.engCmd (s.engState dst src).fresh n dst src len e) := by
  have hobb := s.engState_obbOnly dst src
  have hbank := hobb.here_eq (fun x => x.loc.bank) fun _ _ => rfl
  obtain ⟨-, hctx, hnow, hme⟩ := hobb.sameIssuer
  unfold State.issueEng
  dsimp only
  rw [if_neg (by omega), hz, State.checked_none]
  change (s.engState dst src).onRelease _ _ = _
  rw [State.onRelease_of_drained (hobb.drained hd), hctx, hnow, hme, hbank]
  rfl

end

/-- The issue of an engine command, whichever its instruction (R178, R180). -/
theorem State.issueEng_spec {s : State} {n : Option (BitVec 16)} {dst src len : Word} {e : EngCmd} (he : s.me.eret ≠ 1)
    (h : (s.here.engsOf e.copy).length < 4)
    (hz : s.engCheck dst src len (n.map (fun n => s.here.taskstep + n.setWidth 64)) = none) (hd : s.drained) :
    let t := s.issueEng n dst src len e
    let x := s.engCmd (s.engState dst src).fresh n dst src len e
    (bits len 31 0 = 0 → t.here.engs = s.here.engs ∧ ∀ r, t.g r = s.g r)
      ∧ (bits len 31 0 ≠ 0 → e.copy = true ∨ s.here.collOwed = [] → t.here.engs = s.here.engs ++ [x]
          ∧ (x.start ≠ none → t.here.fduty.forced = true) ∧ (∀ r, t.g r = s.g r) ∧ t.me.q0 = s.me.q1)
      ∧ ∀ v l, bits len 31 0 ≠ 0 → e.copy = false → s.here.collOwed = v :: l → t.here.engs = s.here.engs ∧ t.here.collOwed = l
          ∧ t.me.collFail = some (s.me.collFail.getD v) ∧ ∀ r, t.g r = s.g r := by
  have hobb := s.engState_obbOnly dst src
  have hs := hobb.sameIssuer
  have hengs := hobb.here_eq Core.engs fun _ _ => rfl
  have howed := hobb.here_eq Core.collOwed fun _ _ => rfl
  have heu := hs.eret_ne he
  dsimp only
  rw [State.issueEng_accepts h hz hd]
  refine ⟨fun hl => ?_, fun hl ho => ?_, fun v l hl hc ho => ?_⟩
  · obtain ⟨h1, h2⟩ := State.acceptEng_empty_spec (s := s.engState dst src) (e := s.engCmd (s.engState dst src).fresh n dst src len e) heu hl
    exact ⟨h1.trans hengs, fun r => (h2 r).trans (hs.g r)⟩
  · obtain ⟨h1, h2, h3, h4⟩ := State.acceptEng_enters_spec (s := s.engState dst src)
      (e := s.engCmd (s.engState dst src).fresh n dst src len e) heu hl (howed.symm ▸ ho)
    exact ⟨by rw [h1, hengs], h2, fun r => (h3 r).trans (hs.g r), by rw [h4, hs.me]⟩
  · obtain ⟨h1, h2, h3, h4⟩ := State.acceptEng_owed_spec (s := s.engState dst src)
      (e := s.engCmd (s.engState dst src).fresh n dst src len e) heu hl hc (howed.trans ho)
    exact ⟨h1.trans hengs, h2, by rw [h3, hs.me], fun r => (h4 r).trans (hs.g r)⟩

/-! ### The waits of CPYW and COLLW (R179, R181) -/

section
variable {s : State} (a : GReg)

theorem State.cpyw_waits (h : (s.here.engsOf true).any (fun e => e.ctx == s.ctx) = true) : s.cpyw a = s.hold (.cpyw a) 0 := if_pos h
theorem State.collw_waits (h : (s.here.engsOf false).any (fun e => e.ctx == s.ctx) = true) : s.collw a = s.hold (.collw a) 0 := if_pos h

/-- A timed command that was not ready at its step is TIMING at the wait (R180). -/
theorem State.lateWait_of_ready (h : s.boundaryReady = true) (n : Nat) (clear : Ctx → Ctx) :
    s.lateWait n clear = (s.modMe clear).raise { code := 0x0D, detail := n } := if_pos h

/-- An acquire changes the cache, the epoch and the gateways, and no context. -/
theorem State.acquire_sameIssuer (s : State) (c : Nat) (sc : Scope) : s.SameIssuer (s.acquire c sc) := by
  have hepoch : s.SameIssuer (s.advanceEpoch c) := State.sameIssuer_modCore (f := fun x => { x with cache := _ }) rfl
  cases sc with
  | lane | core => exact .refl s
  | oct | die => exact hepoch
  | pkg | pod | sys => exact hepoch.trans ⟨rfl, rfl, rfl, rfl⟩

theorem State.cpyw_late {n : Nat} (h : (s.here.engsOf true).any (fun e => e.ctx == s.ctx) = false) (hl : s.me.lateCpy = some n) :
    s.cpyw a = s.lateWait n (fun x => { x with lateCpy := none }) := by
  simp [State.cpyw, h, hl]

theorem State.collw_late {n : Nat} (h : (s.here.engsOf false).any (fun e => e.ctx == s.ctx) = false) (hl : s.me.lateColl = some n) :
    s.collw a = s.lateWait n (fun x => { x with lateColl := none }) := by
  simp [State.collw, h, hl]

/-- CPYW with no copy outstanding delivers the status gathered and clears it (R179). -/
theorem State.cpyw_gives (h : (s.here.engsOf true).any (fun e => e.ctx == s.ctx) = false) (hl : s.me.lateCpy = none)
    (he : s.me.eret ≠ 1) : ((s.acquire s.core .die).modMe (fun x => { x with cpyCount := 0, cpyFail := none })).gives (s.cpyw a) a
      (w64 (match s.me.cpyFail with | some (code, idx) => code + idx % 256 * 256 | none => 0)) := by
  have heret : ((s.acquire s.core .die).modMe (fun x => { x with cpyCount := 0, cpyFail := none })).me.eret ≠ 1 := by
    rw [State.me_modMe]
    exact (s.acquire_sameIssuer s.core .die).eret_ne he
  unfold State.cpyw
  rw [if_neg (by simp [h]), hl]
  exact State.result_gives _ a _ heret

/-- COLLW with no collective outstanding delivers the first status and the redo count (R181). -/
theorem State.collw_gives (h : (s.here.engsOf false).any (fun e => e.ctx == s.ctx) = false) (hl : s.me.lateColl = none)
    (he : s.me.eret ≠ 1) : ((s.acquire s.core .pod).modMe (fun x => { x with collFail := none, collRedo := 0 })).gives (s.collw a) a
      (w64 (s.me.collFail.getD 0 + s.me.collRedo % 2 ^ 32 * 256)) := by
  have heret : ((s.acquire s.core .pod).modMe (fun x => { x with collFail := none, collRedo := 0 })).me.eret ≠ 1 := by
    rw [State.me_modMe]
    exact (s.acquire_sameIssuer s.core .pod).eret_ne he
  unfold State.collw
  rw [if_neg (by simp [h]), hl]
  exact State.result_gives _ a _ heret

end

/-- Settles O34: the engine commands by what their issue does, CPYW and COLLW by what stands in their engine. -/
theorem engineInstructions : Obligations.EngineInstructions := by
  refine ⟨?_, fun s a he => ⟨fun h => ?_, fun h => ⟨fun hl => ?_, fun m hl hb => ?_⟩, fun h => ?_,
    fun h => ⟨fun hl => ?_, fun m hl hb => ?_⟩, fun c k => ⟨fun hw => ?_, fun hw => ?_⟩⟩⟩
  · intro s a b c op ty sc n he start u issues
    have hissues (copy : Bool) (i : Instr) (e : EngCmd) (is : EngCmd → Prop) (hc : e.copy = copy)
        (hi : exec i s = .next (s.issueEng n (s.g a) (s.g b) (s.g c) e))
        (his : ∀ id, is (s.engCmd id n (s.g a) (s.g b) (s.g c) e)) : issues copy i is := by
      subst hc
      refine ⟨fun h => by rw [hi, State.issueEng_full h], fun h => ⟨fun z hz => by rw [hi, State.issueEng_fault h hz]; rfl, fun hz hd => ?_⟩⟩
      obtain ⟨hempty, henters, -⟩ := State.issueEng_spec he h hz hd
      refine ⟨fun hl => ⟨_, hi, hempty hl⟩, fun hl ho => ?_⟩
      obtain ⟨h1, h2, h3, h4⟩ := henters hl ho
      exact ⟨_, _, hi, h1, rfl, rfl, rfl, rfl, rfl, rfl, rfl, his _, h2, h3, h4⟩
    refine ⟨hissues true _ _ _ rfl rfl fun _ => rfl, hissues false _ _ _ rfl rfl fun _ => ⟨rfl, rfl, rfl⟩, fun v l h hz hd hl ho => ?_⟩
    obtain ⟨-, -, howed⟩ := State.issueEng_spec (e :=
      { id := 0, instr := some (.coll op ty sc n a b c), ctx := 0, copy := false, dst := 0, src := 0, len := 0, op := op, ty := ty, scope := sc })
      he h hz hd
    exact ⟨_, rfl, howed v l hl rfl ho⟩
  · exact congrArg _ (State.cpyw_waits a h)
  · exact ⟨_, rfl, State.cpyw_gives a h hl he⟩
  · exact congrArg _ ((State.cpyw_late a h hl).trans (State.lateWait_of_ready hb _ _))
  · exact congrArg _ (State.collw_waits a h)
  · exact ⟨_, rfl, State.collw_gives a h hl he⟩
  · exact congrArg _ ((State.collw_late a h hl).trans (State.lateWait_of_ready hb _ _))
  · simp only [exec, execCpywComplete, State.me_at, hw, execCpyw]
  · simp only [exec, execCollwComplete, State.me_at, hw, execCollw]

/-! ### Instances, rings and clocks (R283, R285, R294, R296) -/

theorem State.inst_modInst (s : State) (i : Inst) (f : DInst → DInst) : (s.modInst i f).inst i = f (s.inst i) := by
  simp only [State.inst, State.modInst, sget_smod, if_true]

theorem State.unit_modUnit (s : State) (i : Inst) (u : Nat) (f : DUnit → DUnit) :
    ((s.modUnit i u f).inst i).unit u = f ((s.inst i).unit u) := by
  rw [State.modUnit, State.inst_modInst]
  simp only [DInst.unit, sget_smod, if_true]

theorem State.membAt_modMembAt (s : State) (i : Inst) (u c : Nat) (f : Memb → Memb) :
    (s.modMembAt i u c f).membAt i u c = f (s.membAt i u c) := by
  rw [State.membAt, State.modMembAt, State.unit_modUnit]
  simp only [DUnit.memb, DUnit.modMemb, sget_smod, if_true]
  rfl

theorem State.ring_modRing (s : State) (r : RingId) (f : Ring → Ring) : (s.modRing r f).ring r = f (s.ring r) := by
  simp only [State.ring, State.modRing, sget_smod, if_true]

/-- STEP of a router after a move of one of its die's routers (R283). -/
theorem State.stepAt_shiftStep (s : State) (d r q : Nat) (by_ : Word) :
    (s.shiftStep d r by_).stepAt d q = if q = r then s.stepAt d q + by_ else s.stepAt d q := by
  simp only [State.stepAt, State.shiftStep, State.modDie, State.die, sget_smod, if_true, sget_sputD]
  split
  · rename_i h
    rw [h]
    exact (BitVec.add_assoc _ _ _).symm
  · rfl

theorem State.stepAt_each_shiftStep {d q : Nat} {l : List Nat} (h : q ∉ l) (by_ : Word) (s : State) :
    (each l s (fun s r => s.shiftStep d r by_)).stepAt d q = s.stepAt d q := by
  induction l generalizing s with
  | nil => rfl
  | cons r l ih =>
    obtain ⟨hr, hl⟩ := not_or.1 (mt List.mem_cons.2 h)
    exact (ih hl _).trans ((s.stepAt_shiftStep d r q by_).trans (if_neg hr))

theorem each_cons {α β : Type} (x : α) (xs : List α) (s : β) (f : β → α → β) : each (x :: xs) s f = each xs (f s x) f := rfl

/-- STEP of a die's first router moves with every router of the die (R284, R296). -/
theorem State.stepAt_shiftDie (s : State) (d : Nat) (by_ : Word) : (s.shiftDie d by_).stepAt d 0 = s.stepAt d 0 + by_ := by
  have hrange : List.range 242 = 0 :: (List.range 241).map Nat.succ := List.range_succ_eq_map
  rw [State.shiftDie, hrange, each_cons, State.stepAt_each_shiftStep (by simp), State.stepAt_shiftStep, if_pos rfl]

/-- The difference that makes the low word of a count a value (R296). -/
def lowBy (v : BitVec 32) (x : Word) : Word := v.setWidth 64 - (x.setWidth 32).setWidth 64

theorem setWidth_add_lowBy (v : BitVec 32) (x : Word) : (x + lowBy v x).setWidth 32 = v := by
  apply BitVec.eq_of_toNat_eq
  have := v.isLt
  simp only [lowBy, BitVec.toNat_setWidth, BitVec.toNat_add, BitVec.toNat_sub]
  omega

theorem add_lowBy_high (v : BitVec 32) (x : Word) : (x + lowBy v x) >>> 32 = x >>> 32 := by
  apply BitVec.eq_of_toNat_eq
  have := v.isLt
  have := x.isLt
  simp only [lowBy, BitVec.toNat_setWidth, BitVec.toNat_add, BitVec.toNat_sub, BitVec.toNat_ushiftRight, Nat.shiftRight_eq_div_pow]
  omega

/-! ### The edge sets of an Inst (R281) -/

/-- The edge sets depend on the Inst's Ductus state only by which of them the firmware has computed. -/
theorem State.trueDist_modInst (s : State) (i : Inst) (f : DInst → DInst) (hf : (f (s.inst i)).edges = (s.inst i).edges) (t v : Nat) :
    (s.modInst i f).trueDist i t v = s.trueDist i t v := by
  have hedges : ((s.modInst i f).inst i).edges = (s.inst i).edges := by rw [State.inst_modInst, hf]
  have hnodes : (s.modInst i f).nodes i = s.nodes i := rfl
  have hroot (t : Nat) : (s.modInst i f).draftRoot i t = s.draftRoot i t := by simp only [State.draftRoot, hnodes, hedges]
  have hup (t v : Nat) : (s.modInst i f).draftUp i t v = s.draftUp i t v := by simp only [State.draftUp, hnodes, hedges, hroot]
  have hes (t : Nat) : (s.modInst i f).draftEdges i t = s.draftEdges i t := by simp only [State.draftEdges, hnodes, hroot, hup]
  have hports : (s.modInst i f).portsOk i = s.portsOk i := by simp only [State.portsOk, hnodes, hes]
  have hcarries : (s.modInst i f).carries i = s.carries i := rfl
  have hok : (s.modInst i f).draftOk i = s.draftOk i := by simp only [State.draftOk, hnodes, hes, hports, hcarries]
  have hplainRoot (t : Nat) : (s.modInst i f).plainRoot i t = s.plainRoot i t := rfl
  have hplainUp (t v : Nat) : (s.modInst i f).plainUp i t v = s.plainUp i t v := rfl
  have hrootOf (t : Nat) : (s.modInst i f).rootOf i t = s.rootOf i t := by simp only [State.rootOf, hok, hroot, hplainRoot]
  have hparent (t v : Nat) : (s.modInst i f).parentOf i t v = s.parentOf i t v := by
    simp only [State.parentOf, hok, hup, hrootOf, hplainUp]
  simp only [State.trueDist, hrootOf, hparent]

/-- A poked distance reads back (R296). -/
theorem State.distOf_poked (s : State) (i : Inst) (n x : Nat) :
    (s.modInst i (fun d => { d with dist := sputD (s.trueDist i 0 n) d.dist (treeKey 0 n) x })).distOf i 0 n = x := by
  rw [State.distOf, State.inst_modInst, State.trueDist_modInst]
  · exact (sget_sputD _ _ _ _ _).trans (if_pos rfl)
  · rfl

/-- DPOKE's events write the value they name (R296). -/
theorem dpoke_writes (s : State) (i : Inst) (r : RingId) (u c : Nat) (v : BitVec 32) :
    (∃ t, exec (.dpokeCnt i u v) s = .next t ∧ ((t.inst i).unit u).cnt = v.toNat ∧ t.cores = s.cores)
      ∧ (∃ t, exec (.dpokeF i u c v) s = .next t ∧ (t.membAt i u c).f = v.getLsbD 0 ∧ t.cores = s.cores)
      ∧ ((s.ring r).mb.contains c = true → ∃ t, exec (.dpokeXv r c v) s = .next t ∧ (t.ring r).xv c = v.toNat % 256)
      ∧ ((s.ring r).mb.contains c = false → exec (.dpokeXv r c v) s = .next s) := by
  refine ⟨⟨_, rfl, ?_, rfl⟩, ⟨_, rfl, ?_, rfl⟩, fun h => ?_, fun h => ?_⟩
  · rw [State.unit_modUnit]
  · rw [State.membAt_modMembAt]
  · refine ⟨s.modRing r (fun x => { x with x := sputD 0 x.x c (v.toNat % 256) }), by simp only [exec, execDpokeXv, h, if_true], ?_⟩
    rw [State.ring_modRing]
    exact (sget_sputD _ _ _ _ _).trans (if_pos rfl)
  · simp only [exec, execDpokeXv, h, Bool.false_eq_true, if_false]

/-- DPOKE_STEP writes the low word of the clock node of its scope (R283, R296). -/
theorem dpokeStep_writes (s : State) (i : Inst) (c : Nat) (v : BitVec 32) :
    (i.scope = .oct ∨ i.scope = .die → ∃ t, exec (.dpokeStep i c v) s = .next t ∧ (t.stepOf c).setWidth 32 = v
        ∧ t.stepOf c >>> 32 = s.stepOf c >>> 32)
      ∧ (i.scope = .pkg → ∃ t, exec (.dpokeStep i c v) s = .next t ∧ (t.stepAt (dieOf c) 0).setWidth 32 = v)
      ∧ (i.scope = .pod → ∃ t, exec (.dpokeStep i c v) s = .next t ∧ (w64 (t.now / 700) + t.podOff).setWidth 32 = v
          ∧ t.stepOf c = s.stepOf c) := by
  refine ⟨fun h => ⟨s.shiftStep (dieOf c) (routerOf c) (lowBy v (s.stepOf c)), ?_, ?_⟩,
    fun h => ⟨s.shiftDie (dieOf c) (lowBy v (s.stepAt (dieOf c) 0)), ?_, ?_⟩,
    fun h => ⟨{ s with podOff := s.podOff + lowBy v (w64 (s.now / 700) + s.podOff) }, ?_, ?_, rfl⟩⟩
  · rcases h with h | h
    · simp only [exec, execDpokeStep, h]; rfl
    · simp only [exec, execDpokeStep, h]; rfl
  · rw [State.stepOf, State.stepAt_shiftStep, if_pos rfl]
    exact ⟨setWidth_add_lowBy _ _, add_lowBy_high _ _⟩
  · simp only [exec, execDpokeStep, h]; rfl
  · rw [State.stepAt_shiftDie]
    exact setWidth_add_lowBy _ _
  · simp only [exec, execDpokeStep, h]; rfl
  · rw [← BitVec.add_assoc]
    exact setWidth_add_lowBy _ _

/-! ### Register writes (R16, R28, R44, R115, R294) -/

theorem State.badWrite_accmap (s : State) (c : Nat) (v : Word) : s.badWrite c 0x014 v = (v.setWidth 16 &&& s.othersTiles c != 0) := by
  simp [State.badWrite]

theorem Fduty.change_keeps (f : Fduty) (d now : Nat) : (f.change d now).duty = f.duty ∧ (f.change d now).newDuty = f.newDuty
    ∧ (f.change d now).div = f.div ∧ (f.change d now).newDiv = f.newDiv := by
  unfold Fduty.change
  split
  · exact ⟨rfl, rfl, rfl, rfl⟩
  · exact ⟨rfl, rfl, rfl, rfl⟩

theorem Fduty.change_of_ne {f : Fduty} {d : Nat} (h : d ≠ f.div) (now : Nat) :
    (f.change d now).divTo = d ∧ (f.change d now).divDue = some (now + 64) := by
  rw [Fduty.change, if_neg h]
  exact ⟨rfl, rfl⟩

/-- A window boundary without FORCED (R28). -/
theorem Fduty.window_of_unforced {f : Fduty} (h : f.forced = false) (now : Nat) :
    (f.window now).duty = f.newDuty.getD f.duty ∧ (f.window now).newDuty = none ∧ (f.window now).div = f.div
      ∧ (f.window now).newDiv = none
      ∧ ∀ d, f.newDiv = some d → d ≠ f.div → (f.window now).divTo = d ∧ (f.window now).divDue = some (now + 64) := by
  obtain ⟨duty, div, forced, newDuty, newDiv, divTo, divDue⟩ := f
  cases h
  cases newDiv with
  | none => exact ⟨rfl, rfl, rfl, rfl, nofun⟩
  | some e =>
    obtain ⟨h1, h2, h3, h4⟩ := Fduty.change_keeps
      { duty := newDuty.getD duty, div := div, forced := false, newDuty := none, newDiv := none, divTo := divTo, divDue := divDue } e now
    refine ⟨h1, h2, h3, h4, fun d hd hne => ?_⟩
    cases hd
    exact Fduty.change_of_ne (f :=
      { duty := newDuty.getD duty, div := div, forced := false, newDuty := none, newDiv := none, divTo := divTo, divDue := divDue }) hne now

theorem State.fduty_modDuty (s : State) (c : Nat) (f : Fduty → Fduty) : ((s.modDuty c f).coreAt c).fduty = f (s.coreAt c).fduty := by
  rw [State.modDuty, State.coreAt_modCore_self]

/-- The register events follow the rules of their registers (R16, R44, R115, R294). -/
theorem registerEvents_write (s : State) (c k reg : Nat) (v : Word) :
    let id : RingId := if k < 8 then ⟨dieOf c, k⟩ else ⟨0, k⟩
    ((s.ring id).mb.contains c = true → ∃ t, exec (.tokkWrite c k v) s = .next t
        ∧ (t.ring id).tokkOf c = tokkClamp (s.ring id).mb.length v)
      ∧ ((s.ring id).mb.contains c = false → exec (.tokkWrite c k v) s = .next s)
      ∧ (∃ t, exec (.srseedWrite c k v) s = .next t ∧ (t.ctxAt c k).srseed = v.setWidth 32 ∧ (t.ctxAt c k).sr = [])
      ∧ (v.setWidth 16 &&& s.othersTiles c = 0 → ∃ t, exec (.accmapWrite c k v) s = .next t
          ∧ (t.coreAt c).mat.accmap = v.setWidth 16)
      ∧ (v.setWidth 16 &&& s.othersTiles c ≠ 0 → exec (.accmapWrite c k v) s = .next (s.at_ c k).illegal)
      ∧ (∃ t, exec (.registerWrite c k 0x017 v) s = .next t ∧ (t.coreAt c).ipend = (s.coreAt c).ipend &&& ~~~v)
      ∧ (∃ t, exec (.registerWrite c k 0x018 v) s = .next t ∧ (t.coreAt c).imask = v &&& 0x7F)
      ∧ (sysAcc reg = some .ro → exec (.registerWrite c k reg v) s = .next s) := by
  intro id
  have htiles : (s.at_ c k).badWrite c 0x014 v = (v.setWidth 16 &&& s.othersTiles c != 0) := State.badWrite_accmap _ _ _
  refine ⟨fun h => ⟨s.modRing id (fun r => { r with
      tokk := sput r.tokk c (tokkClamp (s.ring id).mb.length v)
      pend := r.pend.filter (fun e => e.1 != c) ++ [(c, tokkClamp (s.ring id).mb.length v)] }), ?_, ?_⟩, fun h => ?_, ⟨_, rfl, ?_⟩,
    fun h => ⟨(s.at_ c k).writeSys c k 0x014 v, ?_, ?_⟩, fun h => ?_, ⟨_, rfl, ?_⟩, ⟨_, rfl, ?_⟩,
    fun h => congrArg _ (State.writeSys_of_ro h s c k v)⟩
  · simp only [exec, execTokkWrite, State.writeTokk]
    rw [if_neg (by simpa using h)]
  · rw [State.ring_modRing]
    exact sget_sput_self _ _ _ _
  · simp only [exec, execTokkWrite, State.writeTokk]
    rw [if_pos (by simpa using h)]
  · rw [State.writeSeed, State.ctxAt_modCtx_self]
    exact ⟨rfl, rfl⟩
  · simp only [exec, execAccmapWrite, htiles, h, bne_self_eq_false, Bool.false_eq_true, if_false]
  · exact congrArg (fun x : Core => x.mat.accmap) (State.coreAt_modCore_self (s.at_ c k) c (fun x =>
      { x with mat := { x.mat with accmap := v.setWidth 16 } }))
  · simp only [exec, execAccmapWrite, htiles, bne_iff_ne.2 h, if_true]
  · exact congrArg Core.ipend (State.coreAt_modCore_self s c (fun x => { x with ipend := x.ipend &&& ~~~v }))
  · exact congrArg Core.imask (State.coreAt_modCore_self s c (fun x => { x with imask := v &&& 0x7F }))

/-- Settles O44: each event is one write of what it names. -/
theorem pokesAndRegisterWrites : Obligations.PokesAndRegisterWrites := by
  refine ⟨fun s i r u c v => ?_, registerEvents_write, fun s c => ⟨fun hf => ⟨_, rfl, ?_⟩, fun hf => ⟨_, rfl, ?_⟩, ⟨_, rfl, ?_⟩⟩⟩
  · obtain ⟨hcnt, hf, hx, hxn⟩ := dpoke_writes s i r u c v
    obtain ⟨hrouter, hdie, hpod⟩ := dpokeStep_writes s i c v
    refine ⟨hcnt, hf, hx, hxn, hrouter, hdie, hpod, ⟨_, rfl, s.distOf_poked i _ _⟩, ⟨_, rfl, ?_⟩⟩
    rw [State.inst_modInst]
    exact ⟨rfl, rfl⟩
  · rw [State.fduty_modDuty]
    exact Fduty.window_of_unforced hf s.now
  · rw [State.fduty_modDuty]
    exact if_pos hf
  · rw [State.fduty_modDuty]
    exact ⟨rfl, rfl⟩

/-! ### Lines at their homes (R238, R340, R342) -/

/-- The lines of a set of a slice. -/
def State.linesAt (s : State) (d o set : Nat) : List SliceLine := ((s.die d).slice o).lines set

/-- Between two states homes are where they were and hold for their lines what they held, but for the lines that are resident. -/
structure State.SameHomes (s t : State) : Prop where
  objs : t.objs = s.objs
  hbm : t.hbm = s.hbm
  hash : ∀ d, (t.die d).hash = (s.die d).hash
  migr : ∀ d, (t.die d).migr = (s.die d).migr
  named : ∀ d, (t.die d).named = (s.die d).named
  snaps : t.snaps.map (·.obj) = s.snaps.map (·.obj)

/-- Every set of every slice holds the lines it held. -/
def State.SameLines (s t : State) : Prop := ∀ d o set, t.linesAt d o set = s.linesAt d o set

theorem State.SameHomes.refl (s : State) : s.SameHomes s := ⟨rfl, rfl, fun _ => rfl, fun _ => rfl, fun _ => rfl, rfl⟩

theorem State.SameHomes.trans {s t u : State} (h : s.SameHomes t) (k : t.SameHomes u) : s.SameHomes u :=
  ⟨k.objs.trans h.objs, k.hbm.trans h.hbm, fun d => (k.hash d).trans (h.hash d), fun d => (k.migr d).trans (h.migr d),
    fun d => (k.named d).trans (h.named d), k.snaps.trans h.snaps⟩

theorem State.SameLines.trans {s t u : State} (h : s.SameLines t) (k : t.SameLines u) : s.SameLines u := fun d o set =>
  (k d o set).trans (h d o set)

/-- What dies, objects, HBM and snapshots of two states agree in. -/
theorem State.sameHomes_of_eq {s t : State} (ho : t.objs = s.objs) (hd : t.dies = s.dies) (hh : t.hbm = s.hbm) (hs : t.snaps = s.snaps) :
    s.SameHomes t ∧ s.SameLines t := by
  have hdie (d : Nat) : t.die d = s.die d := by rw [State.die, hd, State.die]
  exact ⟨⟨ho, hh, fun d => by rw [hdie], fun d => by rw [hdie], fun d => by rw [hdie], by rw [hs]⟩, fun d o set => by rw [State.linesAt, hdie, State.linesAt]⟩

theorem State.SameHomes.homeOf {s t : State} (h : s.SameHomes t) (id off : Nat) : t.homeOf id off = s.homeOf id off := by
  simp only [State.homeOf, State.obj, h.objs, Die.mask, h.hash]

theorem Slice.find_eq (s : State) (d o set key : Nat) :
    ((s.die d).slice o).find set key = (s.linesAt d o set).find? (fun l => l.key == key) := rfl

/-- The line that a home holds depends on its frame, on what the move of its page holds back, and on its resident line. -/
theorem State.SameHomes.lineNow {s t : State} (h : s.SameHomes t) (m : Home)
    (hl : (t.linesAt m.die m.slot m.set).find? (fun l => l.key == m.key) = (s.linesAt m.die m.slot m.set).find? (fun l => l.key == m.key)) :
    t.lineNow m = s.lineNow m := by
  simp only [State.lineNow, State.heldBack, h.hbm, h.migr, Slice.find_eq, hl]

/-- No byte of global memory differs where every home finds the line it found. -/
theorem State.SameHomes.globalByte {s t : State} (h : s.SameHomes t)
    (hl : ∀ d o set key, (t.linesAt d o set).find? (fun l => l.key == key) = (s.linesAt d o set).find? (fun l => l.key == key)) (x : Word) :
    t.globalByte x = s.globalByte x := by
  have hline : t.lineNow = s.lineNow := funext fun m => h.lineNow m (hl _ _ _ _)
  rw [State.globalByte, State.globalByte, h.homeOf, hline]

theorem State.SameHomes.globalByte_of_lines {s t : State} (h : s.SameHomes t) (hl : s.SameLines t) (x : Word) :
    t.globalByte x = s.globalByte x := h.globalByte (fun d o set key => by rw [hl]) x

theorem State.die_modDie (s : State) (d e : Nat) (f : Die → Die) : (s.modDie d f).die e = if e = d then f (s.die d) else s.die e :=
  sget_smod _ _ _ _ _

theorem State.sameHomes_modDie {s : State} {d : Nat} {f : Die → Die}
    (hf : (f (s.die d)).hash = (s.die d).hash ∧ (f (s.die d)).migr = (s.die d).migr ∧ (f (s.die d)).named = (s.die d).named) :
    s.SameHomes (s.modDie d f) := by
  obtain ⟨h1, h2, h3⟩ := hf
  refine ⟨rfl, rfl, fun e => ?_, fun e => ?_, fun e => ?_, rfl⟩
  · rw [State.die_modDie]
    split
    · rename_i he
      rw [h1, he]
    · rfl
  · rw [State.die_modDie]
    split
    · rename_i he
      rw [h2, he]
    · rfl
  · rw [State.die_modDie]
    split
    · rename_i he
      rw [h3, he]
    · rfl

theorem State.sameLines_modDie {s : State} {d : Nat} {f : Die → Die} (hf : (f (s.die d)).slices = (s.die d).slices) :
    s.SameLines (s.modDie d f) := by
  intro e o set
  rw [State.linesAt, State.die_modDie]
  split
  · rename_i he
    rw [Die.slice, hf, he]
    rfl
  · rfl

theorem State.sameHomes_modSlice (s : State) (d o : Nat) (f : Slice → Slice) : s.SameHomes (s.modSlice d o f) :=
  State.sameHomes_modDie ⟨rfl, rfl, rfl⟩

theorem State.linesAt_modSlice (s : State) (d o : Nat) (f : Slice → Slice) (e q set : Nat) :
    (s.modSlice d o f).linesAt e q set = if e = d ∧ q = o then (f ((s.die d).slice o)).lines set else s.linesAt e q set := by
  rw [State.linesAt, State.modSlice, State.die_modDie]
  by_cases he : e = d
  · simp only [he, if_true, Die.slice, sget_smod, true_and]
    split
    · rfl
    · rfl
  · simp only [he, if_false, false_and]
    rfl

theorem State.sameLines_modSlice {s : State} {d o : Nat} {f : Slice → Slice} (hf : (f ((s.die d).slice o)).sets = ((s.die d).slice o).sets) :
    s.SameLines (s.modSlice d o f) := by
  intro e q set
  rw [State.linesAt_modSlice]
  split
  · rename_i h
    rw [Slice.lines, hf, h.1, h.2]
    rfl
  · rfl

/-- A line put into its way: the others of its set stay, and every other set. -/
theorem State.linesAt_putLine (s : State) (h : Home) (l : SliceLine) (d o set : Nat) : (s.putLine h l).linesAt d o set =
    if d = h.die ∧ o = h.slot ∧ set = h.set then (s.linesAt h.die h.slot h.set).filter (fun x => x.way != l.way) ++ [l]
    else s.linesAt d o set := by
  rw [State.putLine, State.linesAt_modSlice]
  by_cases hd : d = h.die ∧ o = h.slot
  · obtain ⟨rfl, rfl⟩ := hd
    simp only [and_self, if_true, true_and, Slice.lines, Slice.put, sget_sput]
    split
    · rfl
    · rfl
  · rw [if_neg hd, if_neg (fun h => hd ⟨h.1, h.2.1⟩)]

theorem State.touch_same (s : State) (h : Home) (w : Nat) : s.SameHomes (s.touch h w) ∧ s.SameLines (s.touch h w) :=
  ⟨State.sameHomes_modSlice _ _ _ _, State.sameLines_modSlice rfl⟩

theorem State.noteCid_same (s : State) (h : Home) (cid : Nat) : s.SameHomes (s.noteCid h cid) ∧ s.SameLines (s.noteCid h cid) := by
  refine ⟨State.sameHomes_modDie ?_, State.sameLines_modDie ?_⟩
  · dsimp only
    split
    · exact ⟨rfl, rfl, rfl⟩
    · exact ⟨rfl, rfl, rfl⟩
  · dsimp only
    split
    · rfl
    · rfl

theorem State.charge_same (s : State) (cid n : Nat) : s.SameHomes (s.charge cid n) ∧ s.SameLines (s.charge cid n) :=
  State.sameHomes_of_eq rfl rfl rfl rfl

theorem State.unstall_same (s : State) (obj : Nat) (key : Nat × Nat) : s.SameHomes (s.unstall obj key) ∧ s.SameLines (s.unstall obj key) := by
  refine ⟨⟨rfl, rfl, fun _ => rfl, fun _ => rfl, fun _ => rfl, ?_⟩, fun _ _ _ => rfl⟩
  simp only [State.unstall, List.map_map]
  refine List.map_congr_left fun n _ => ?_
  simp only [Function.comp_apply]
  split
  · rfl
  · rfl

/-! ### A resident line written and read -/

/-- The ways of a set name its lines: each key has its own way. -/
theorem find?_put {ls : List SliceLine} {l m : SliceLine} {key : Nat} (hu : ∀ x ∈ ls, x.key = l.key ↔ x.way = l.way) (hk : m.key = l.key)
    (hw : m.way = l.way) : (ls.filter (fun x => x.way != m.way) ++ [m]).find? (fun x => x.key == key)
      = if key = l.key then some m else ls.find? (fun x => x.key == key) := by
  rw [List.find?_append, List.find?_filter]
  by_cases h : key = l.key
  · subst h
    have hnone : ls.find? (fun x => decide ((x.way != m.way) = true ∧ (x.key == l.key) = true)) = none := by
      rw [List.find?_eq_none]
      intro x hx
      have := hu x hx
      simp only [bne_iff_ne, ne_eq, beq_iff_eq, decide_eq_true_eq, hw]
      tauto
    simp only [hnone, Option.none_or, List.find?_singleton, hk, beq_self_eq_true, if_true]
  · have hsame : ls.find? (fun x => decide ((x.way != m.way) = true ∧ (x.key == key) = true)) = ls.find? (fun x => x.key == key) := by
      refine List.find?_congr fun x hx => ?_
      have hx' := hu x hx
      by_cases hxk : x.key = key
      · have hway : x.way ≠ m.way := fun e => h (hxk.symm.trans (hx'.2 (e.trans hw)))
        simp [hxk, hway]
      · simp [hxk]
    have hm : m.key ≠ key := fun e => h (e.symm.trans hk)
    rw [hsame, if_neg h, List.find?_singleton, if_neg (by simpa using hm), Option.or_none]

/-- The sector of a line that a piece of global memory lies in. -/
theorem sectorsOf_single {o n : Nat} (h : o % 32 + n ≤ 32) : ∀ j ∈ sectorsOf o n, j = o / 32 := by
  intro j hj
  have := (List.mem_filter.1 hj).2
  simp only [Bool.and_eq_true, decide_eq_true_eq] at this
  omega

/-- A line without errors takes a run of bytes of one of its sectors. -/
def SliceLine.written (l : SliceLine) (cid off : Nat) (bs : List Byte) : SliceLine := (l.accept cid (off % 256 / 32) [(off, bs)]).1

theorem SliceLine.accept_clean {l : SliceLine} (he : l.ecc = {}) (cid off : Nat) (bs : List Byte) :
    (l.accept cid (off % 256 / 32) [(off, bs)]).2 = [] ∧ (l.written cid off bs).data = l.data.writeN (off % 256) bs
      ∧ (l.written cid off bs).ecc = {} ∧ (l.written cid off bs).valid = l.valid ||| (1#8 <<< (off % 256 / 32)) := by
  simp only [SliceLine.written, SliceLine.accept, each, List.foldl_cons, List.foldl_nil, he, eccWrite_clean, List.nil_append, and_self]

theorem State.id_of_homeOf {s : State} {id off : Nat} {h : Home} (hh : s.homeOf id off = some h) :
    h.id = id ∧ h.key = (id * 2 ^ 40 + off) / 256 ∧ s.obj id = some h.obj ∧ h.die = h.obj.die ∧ h.obj.extent (off / 65536) = some h.ext := by
  simp only [State.homeOf, Option.bind_eq_bind, Option.bind_eq_some_iff] at hh
  obtain ⟨o, ho, hh⟩ := hh
  split at hh
  · cases hh
  · obtain ⟨e, he, hh⟩ := Option.bind_eq_some_iff.1 hh
    cases hh
    exact ⟨rfl, rfl, ho, rfl, he⟩

/-- No snapshot of the object is in flight: a write goes ahead without a copy (R355). -/
theorem State.snapBefore_of_none {s : State} {h : Home} (hs : ∀ n ∈ s.snaps, n.obj ≠ h.id) : s.snapBefore h = some s := by
  have hf : s.snaps.find? (fun n => n.obj == h.id) = none := List.find?_eq_none.2 fun n hn => by simp [hs n hn]
  rw [State.snapBefore, hf]

/-- A state in which a home has a line in place of the one it had. -/
structure State.Relined (s t : State) (h : Home) (l m : SliceLine) : Prop where
  homes : s.SameHomes t
  lines : ∀ d o set, t.linesAt d o set =
    if d = h.die ∧ o = h.slot ∧ set = h.set then (s.linesAt h.die h.slot h.set).filter (fun x => x.way != m.way) ++ [m] else s.linesAt d o set

/-- A line put and touched, between changes that keep every line. -/
theorem State.relined_putLine {s u v : State} {h : Home} {l m : SliceLine} (hu : s.SameHomes u ∧ s.SameLines u)
    (hv : ((u.putLine h m).touch h l.way).SameHomes v ∧ ((u.putLine h m).touch h l.way).SameLines v) : s.Relined v h l m := by
  obtain ⟨hu1, hu2⟩ := hu
  obtain ⟨hv1, hv2⟩ := hv
  obtain ⟨ht1, ht2⟩ := (u.putLine h m).touch_same h l.way
  refine ⟨hu1.trans ((State.sameHomes_modSlice _ _ _ _).trans (ht1.trans hv1)), fun d o set => ?_⟩
  rw [hv2, ht2, State.linesAt_putLine]
  simp only [hu2 _ _ _]

/-- A resident line takes a write of one of its sectors at its home (R238, R342). -/
theorem State.homeWrite_atHome {s : State} {p : Word} {h : Home} {l : SliceLine} (hh : s.atHome p h l) (w cid : Nat) (bs : List Byte) :
    ∃ t, s.homeWrite w (idOf p) (offOf p) [(offOf p, bs)] cid = (t, .ok []) ∧ s.Relined t h l (l.written cid (offOf p) bs) := by
  obtain ⟨hhome, hnamed, hback, hty, hsnap, hfind, hvalid, hecc, htag, hway⟩ := hh
  obtain ⟨hid, -, -, -, -⟩ := State.id_of_homeOf hhome
  obtain ⟨hbad, -, -, -⟩ := SliceLine.accept_clean hecc cid (offOf p) bs
  obtain ⟨hn1, hn2⟩ := s.noteCid_same h cid
  obtain ⟨u, hu⟩ : ∃ u, s.noteCid h cid = u := ⟨_, rfl⟩
  have hsnaps : u.snaps = s.snaps := by rw [← hu]; rfl
  have hfindu : ((u.die h.die).slice h.slot).find h.set h.key = some l := by
    rw [← hfind, Slice.find_eq, Slice.find_eq, ← hu, hn2]
  have hnamedu : (u.die h.die).named = false := by rw [← hu, hn1.named, hnamed]
  have hsnapu : u.snapBefore h = some u := State.snapBefore_of_none (by rw [hsnaps, hid]; exact hsnap)
  refine ⟨((u.unstall (idOf p) (w, offOf p)).putLine h (l.written cid (offOf p) bs)).touch h l.way, ?_, ?_⟩
  · unfold State.homeWrite
    rw [hhome]
    dsimp only
    rw [hu]
    simp only [hnamedu, hback, hfindu, hvalid, hsnapu, hty, Bool.false_eq_true, if_false, ne_eq, not_true_eq_false]
    rw [if_neg (by simp), if_neg (by simp)]
    simp only [Bool.or_true, if_true, hbad, htag, List.isEmpty_nil, Bool.not_false, Bool.and_self, State.storeLost, List.length_nil]
    rfl
  · refine State.relined_putLine (l := l) ⟨?_, ?_⟩ ⟨.refl _, fun _ _ _ => rfl⟩
    · exact (hu ▸ hn1).trans (u.unstall_same _ _).1
    · exact State.SameLines.trans (hu ▸ hn2) (u.unstall_same _ _).2

/-! ### The bytes of a resident line (R134, R238) -/

theorem State.Relined.trans_same {s t v : State} {h : Home} {l m : SliceLine} (hr : s.Relined t h l m) (hv : t.SameHomes v ∧ t.SameLines v) :
    s.Relined v h l m := ⟨hr.homes.trans hv.1, fun d o set => (hv.2 d o set).trans (hr.lines d o set)⟩

/-- A write through the memory system passes to the home (R238, R240). -/
theorem State.rawWrite_atHome {s : State} {p : Word} {h : Home} {l : SliceLine} (hh : s.atHome p h l) (w cid : Nat) (bs : List Byte) :
    ∃ t, s.rawWrite w p bs cid = (t, .ok []) ∧ s.Relined t h l (l.written cid (offOf p) bs) := by
  obtain ⟨t, ht, hr⟩ := State.homeWrite_atHome hh w cid bs
  rw [State.rawWrite, State.dieWrite, ht]
  dsimp only
  split
  · exact ⟨_, rfl, hr⟩
  · refine ⟨_, rfl, hr.trans_same ?_⟩
    split
    · exact ⟨.refl _, fun _ _ _ => rfl⟩
    · exact ⟨State.sameHomes_modDie ⟨rfl, rfl, rfl⟩, State.sameLines_modDie rfl⟩

section
variable {s t : State} {p : Word} {h : Home} {l m : SliceLine}

/-- What a home finds for a line, where one line has been put in place of another of the same key and way. -/
theorem State.Relined.find (hr : s.Relined t h l m) (hh : s.atHome p h l) (hk : m.key = l.key) (hw : m.way = l.way) (d o set key : Nat) :
    (t.linesAt d o set).find? (fun x => x.key == key) =
      if d = h.die ∧ o = h.slot ∧ set = h.set ∧ key = h.key then some m else (s.linesAt d o set).find? (fun x => x.key == key) := by
  obtain ⟨-, -, -, -, -, hfind, -, -, -, hway⟩ := hh
  have hkey : l.key = h.key := by simpa using List.find?_some hfind
  rw [hr.lines]
  by_cases hd : d = h.die ∧ o = h.slot ∧ set = h.set
  · obtain ⟨rfl, rfl, rfl⟩ := hd
    rw [if_pos ⟨rfl, rfl, rfl⟩, find?_put (l := l) (fun x hx => by rw [hkey]; exact hway x hx) hk hw, hkey]
    simp only [true_and]
  · rw [if_neg hd, if_neg (fun h => hd ⟨h.1, h.2.1, h.2.2.1⟩)]

/-- The home still holds the sector after its line has been replaced by one that is as sound. -/
theorem State.Relined.atHome (hr : s.Relined t h l m) (hh : s.atHome p h l) (hk : m.key = l.key) (hw : m.way = l.way)
    (hv : m.valid.getLsbD (offOf p % 256 / 32) = true) (he : m.ecc = {}) (ht : m.tagged = false) : t.atHome p h m := by
  have hfind := hr.find hh hk hw h.die h.slot h.set h.key
  rw [if_pos ⟨rfl, rfl, rfl, rfl⟩] at hfind
  obtain ⟨hhome, hnamed, hback, hty, hsnap, hfound, -, -, -, hway⟩ := hh
  have hkey : l.key = h.key := by simpa using List.find?_some hfound
  refine ⟨(hr.homes.homeOf _ _).trans hhome, (hr.homes.named _).trans hnamed, hback, hty, fun n hn => ?_, hfind, hv, he, ht, fun x hx => ?_⟩
  · have hn' : n.obj ∈ s.snaps.map (·.obj) := hr.homes.snaps ▸ List.mem_map_of_mem hn
    obtain ⟨n', hn'', e⟩ := List.mem_map.1 hn'
    exact e ▸ hsnap n' hn''
  · have hx' : x ∈ t.linesAt h.die h.slot h.set := hx
    rw [hr.lines, if_pos ⟨rfl, rfl, rfl⟩, List.mem_append, List.mem_singleton] at hx'
    rcases hx' with hx' | rfl
    · rw [hw]
      exact hway x (List.mem_of_mem_filter hx')
    · exact ⟨fun _ => rfl, fun _ => hk.trans hkey⟩

/-- A line taken as it is changes no byte. -/
theorem State.Relined.globalByte_self (hr : s.Relined t h l l) (hh : s.atHome p h l) (x : Word) : t.globalByte x = s.globalByte x := by
  refine hr.homes.globalByte (fun d o set key => ?_) x
  rw [hr.find hh rfl rfl]
  obtain ⟨-, -, -, -, -, hfound, -, -, -, -⟩ := hh
  split
  · rename_i hd
    obtain ⟨rfl, rfl, rfl, rfl⟩ := hd
    exact hfound.symm
  · rfl

end

/-- A read of bytes of a resident sector at its home (R238, R342). -/
theorem State.homeRead_atHome {s : State} {p : Word} {h : Home} {l : SliceLine} (hh : s.atHome p h l) (w n cid : Nat)
    (hn : offOf p % 32 + n ≤ 32) :
    ∃ t, s.homeRead w (idOf p) (offOf p) n cid = (t, .ok (l.data.readN (offOf p % 256) n)) ∧ s.Relined t h l l := by
  obtain ⟨hhome, hnamed, hback, hty, hsnap, hfind, hvalid, hecc, htag, hway⟩ := hh
  obtain ⟨hn1, hn2⟩ := s.noteCid_same h cid
  obtain ⟨u, hu⟩ : ∃ u, s.noteCid h cid = u := ⟨_, rfl⟩
  rw [hu] at hn1 hn2
  have hfindu : ((u.die h.die).slice h.slot).find h.set h.key = some l := by
    rw [← hfind, Slice.find_eq, Slice.find_eq, hn2]
  have hnamedu : (u.die h.die).named = false := by rw [hn1.named, hnamed]
  have hneed : (sectorsOf (offOf p % 256) n).all (fun j => l.valid.getLsbD j) = true := by
    rw [List.all_eq_true]
    intro j hj
    rw [sectorsOf_single (by omega) j hj, hvalid]
  obtain ⟨v, hv⟩ : ∃ v, (if l.owner = some cid then u.charge cid 1
      else u.modSlice h.die h.slot (fun sl => { sl with sharedHits := (sl.sharedHits + 1) % 2 ^ 48 })) = v := ⟨_, rfl⟩
  have huv : u.SameHomes v ∧ u.SameLines v := by
    rw [← hv]
    split
    · exact u.charge_same _ _
    · exact ⟨State.sameHomes_modSlice _ _ _ _, State.sameLines_modSlice rfl⟩
  have hline : { l with data := l.data, ecc := {} } = l := by rw [← hecc]
  refine ⟨(v.putLine h l).touch h l.way, ?_, State.relined_putLine ⟨hn1.trans huv.1, State.SameLines.trans hn2 huv.2⟩ ⟨.refl _, fun _ _ _ => rfl⟩⟩
  unfold State.homeRead
  rw [hhome]
  dsimp only
  rw [hu]
  simp only [hnamedu, hback, hfindu, hneed, hty, Bool.false_eq_true, if_false, ne_eq, not_true_eq_false, if_true, hv, hecc, eccRead_clean, htag, hline]
  rw [if_neg (by simp)]
  rfl

/-- A read through the memory system from the home's own die (R238, R240). -/
theorem State.rawRead_atHome {s : State} {p : Word} {h : Home} {l : SliceLine} (hh : s.atHome p h l) {w n : Nat} (cid : Nat)
    (hn : offOf p % 32 + n ≤ 32) (hd : askerDie w = h.die) :
    ∃ t, s.rawRead w p n cid = (t, .ok (l.data.readN (offOf p % 256) n)) ∧ s.Relined t h l l := by
  obtain ⟨t, ht, hr⟩ := State.homeRead_atHome hh w n cid hn
  obtain ⟨hhome, -⟩ := hh
  obtain ⟨-, -, hobj, hdie, -⟩ := State.id_of_homeOf hhome
  refine ⟨t, ?_, hr⟩
  rw [State.rawRead, State.dieRead, hobj]
  dsimp only
  rw [if_pos (by rw [hd, hdie]), ht]

/-- Offsets of one line have one home. -/
theorem State.homeOf_congr (s : State) {id off off' : Nat} (h : off' / 256 = off / 256) : s.homeOf id off' = s.homeOf id off := by
  have h1 : off' / 65536 = off / 65536 := by omega
  have h2 : (id * 2 ^ 40 + off') / 256 = (id * 2 ^ 40 + off) / 256 := by omega
  have h3 : off' % 65536 / 256 = off % 65536 / 256 := by omega
  simp only [State.homeOf, h, h1, h2, h3]

/-- The byte of a sector that is valid in its resident line is the line's. -/
theorem State.globalByte_resident {s : State} {x : Word} {h : Home} {l : SliceLine} (hh : s.homeOf (idOf x) (offOf x) = some h)
    (hf : (s.linesAt h.die h.slot h.set).find? (fun l => l.key == h.key) = some l) (hv : l.valid.getLsbD (offOf x % 256 / 32) = true) :
    s.globalByte x = some (l.data.read (offOf x % 256)) := by
  have hlt : offOf x % 256 < 256 := Nat.mod_lt _ (by decide)
  simp only [State.globalByte, hh, Option.map_some, State.lineNow, Slice.find_eq, hf, List.getD_eq_getElem?_getD, List.getElem?_map,
    List.getElem?_range hlt, Option.map_some, Option.getD_some, hv, if_true]

/-- Bytes of one sector lie behind each other in its object. -/
theorem addr_in_sector {p : Word} {i : Nat} (h : offOf p % 32 + i < 32) : idOf (p + w64 i) = idOf p ∧ offOf (p + w64 i) = offOf p + i := by
  have hp := p.isLt
  have hi : (w64 i).toNat = i := by
    rw [w64, BitVec.toNat_ofNat]
    omega
  have hadd : (p + w64 i).toNat = p.toNat + i := by
    rw [BitVec.toNat_add, hi]
    unfold offOf at h
    omega
  unfold idOf offOf at *
  rw [hadd]
  omega

/-- The line number of an address within its memory, from its object and offset. -/
theorem addr_div_line (p : Word) : (idOf p * 2 ^ 40 + offOf p) / 256 = p.toNat / 256 := by
  unfold idOf offOf
  omega

/-- An address that differs from those of a run in its own line lies outside the run. -/
theorem offset_outside_run {p x : Word} {n : Nat} (hl : x.toNat / 256 = p.toNat / 256) (hx : ∀ i, i < n → x ≠ p + w64 i) :
    offOf x % 256 < offOf p % 256 ∨ offOf p % 256 + n ≤ offOf x % 256 := by
  by_contra hcon
  have hpx : offOf p % 256 = p.toNat % 256 ∧ offOf x % 256 = x.toNat % 256 := by
    unfold offOf
    omega
  refine hx (x.toNat - p.toNat) (by omega) (BitVec.eq_of_toNat_eq ?_)
  have := x.isLt
  rw [BitVec.toNat_add, w64, BitVec.toNat_ofNat]
  omega

/-- A byte of a line as its home holds it, where one of its lines is resident. -/
theorem State.lineNow_getD {s : State} {m : Home} {l : SliceLine} {i : Nat} (hi : i < 256)
    (hf : (s.linesAt m.die m.slot m.set).find? (fun l => l.key == m.key) = some l) :
    (s.lineNow m).getD i 0 = if l.valid.getLsbD (i / 32) then l.data.read i
      else (putAt (s.hbm.readN m.hbm 256) (s.heldBack m)).getD i 0 := by
  simp only [State.lineNow, Slice.find_eq, hf, List.getD_eq_getElem?_getD, List.getElem?_map, List.getElem?_range hi, Option.map_some,
    Option.getD_some]

/-- Setting a bit that is set changes nothing. -/
theorem or_bit_of_getLsbD {v : BitVec 8} {j : Nat} (h : v.getLsbD j = true) : v ||| (1#8 <<< j) = v := by
  ext i hi
  rw [BitVec.getElem_or, BitVec.getElem_shiftLeft]
  by_cases hij : i = j
  · subst hij
    rw [show v[i] = true from h, Bool.true_or]
  · have hbit : (!decide (i < j) && (1#8).getLsbD (i - j)) = false := by
      simp only [BitVec.getLsbD_one, Bool.and_eq_false_iff, Bool.not_eq_false', decide_eq_true_eq]
      by_cases hlt : i < j
      · exact .inl hlt
      · exact .inr (by simp; omega)
    exact (congrArg (v[i] || ·) hbit).trans (Bool.or_false _)

/-- A write of bytes of a resident sector stores them, and no other byte of global memory changes (R134, R238). -/
theorem State.Relined.stored {s t : State} {p : Word} {h : Home} {l : SliceLine} {cid : Nat} {bs : List Byte}
    (hr : s.Relined t h l (l.written cid (offOf p) bs)) (hh : s.atHome p h l) (hn : offOf p % 32 + bs.length ≤ 32) : s.stored t p bs := by
  have hfind := hr.find hh rfl rfl
  obtain ⟨hhome, -, -, -, -, hfound, hvalid, hecc, -, -⟩ := hh
  obtain ⟨-, hdata, -, hval⟩ := SliceLine.accept_clean hecc cid (offOf p) bs
  rw [or_bit_of_getLsbD hvalid] at hval
  refine ⟨fun i hi => ?_, fun x hx => ?_⟩
  · obtain ⟨hid, hoff⟩ := addr_in_sector (p := p) (i := i) (by omega)
    have hhome' : t.homeOf (idOf (p + w64 i)) (offOf (p + w64 i)) = some h := by
      rw [hr.homes.homeOf, hid, s.homeOf_congr (show offOf (p + w64 i) / 256 = offOf p / 256 by omega), hhome]
    rw [State.globalByte_resident hhome' ((hfind _ _ _ _).trans (if_pos ⟨rfl, rfl, rfl, rfl⟩))
      (by rw [hval, show offOf (p + w64 i) % 256 / 32 = offOf p % 256 / 32 by omega, hvalid])]
    rw [hdata, show offOf (p + w64 i) % 256 = offOf p % 256 + i by omega, Memory.read_writeN _ _ _ _ hi, List.getD_eq_getElem _ _ hi]
  · rw [State.globalByte, State.globalByte, hr.homes.homeOf]
    cases hm : s.homeOf (idOf x) (offOf x) with
    | none => rfl
    | some m =>
      rw [Option.map_some, Option.map_some]
      refine congrArg some ?_
      by_cases hsame : m.die = h.die ∧ m.slot = h.slot ∧ m.set = h.set ∧ m.key = h.key
      · obtain ⟨h1, h2, h3, h4⟩ := hsame
        obtain ⟨-, hkm, -⟩ := State.id_of_homeOf hm
        obtain ⟨-, hkh, -⟩ := State.id_of_homeOf hhome
        have hline : x.toNat / 256 = p.toNat / 256 := by rw [← addr_div_line, ← addr_div_line, ← hkm, ← hkh, h4]
        have hi : offOf x % 256 < 256 := Nat.mod_lt _ (by decide)
        have hfs : (s.linesAt m.die m.slot m.set).find? (fun l => l.key == m.key) = some l := by rw [h1, h2, h3, h4]; exact hfound
        rw [State.lineNow_getD hi ((hfind _ _ _ _).trans (if_pos ⟨h1, h2, h3, h4⟩)), State.lineNow_getD hi hfs, hdata,
          Memory.read_writeN_ne _ _ _ _ (offset_outside_run hline hx), State.heldBack, State.heldBack, hr.homes.hbm, hr.homes.migr, hval]
      · exact congrArg (fun bs : List Byte => bs.getD (offOf x % 256) 0) (hr.homes.lineNow m ((hfind _ _ _ _).trans (if_neg hsame)))

/-! ### Global loads and stores (R133 to R137) -/

section
variable {s : State} {m : GAcc}

/-- An access that is no atomic goes ahead where it has nothing to release, and no WCOMB store of its context to pass. -/
theorem State.relIf_of_free {o : Order} (ho : o = .relaxed ∨ s.drained) (sc : Scope) (f : State → State) : s.relIf o sc f = f s := by
  unfold State.relIf
  split
  · rename_i hr
    rcases ho with rfl | hd
    · cases hr
    · exact State.onRelease_of_drained hd sc f
  · rfl

theorem State.drainFor_of_free (ho : m.o = .relaxed ∨ s.drained) (hk : ∀ op, m.kind ≠ .amo op) (f : State → State) :
    s.drainFor m f = f s := by
  unfold State.drainFor
  cases hkind : m.kind with
  | amo op => exact absurd hkind (hk op)
  | load | store =>
    dsimp only
    split
    · rfl
    · rename_i hne
      obtain ⟨hb, -⟩ := ho.resolve_left hne
      rw [State.combDrain_of_empty hb]
      rfl

/-- A load or store that passes its checks and waits for nothing is performed (R135 to R138). -/
theorem exec_of_checked_access {i : Instr} {p : Word} (hm : accOf i = some m) (hp : eaOf (s.g m.b) m.imm = p)
    (hc : s.checkGlobal s.core s.cid p m.n = none) (hb : (s.obbUse s.core (idOf p)).behindVector p.toNat m.n = false)
    (ho : m.o = .relaxed ∨ (s.obbUse s.core (idOf p)).drained) (hk : ∀ op, m.kind ≠ .amo op) :
    exec i s = .next ((s.obbUse s.core (idOf p)).performAcc i m p) := by
  rw [exec_of_accOf hm, State.globalAccess, hm]
  dsimp only
  rw [hp, hc, State.checked_none, hb, if_neg (by simp), State.relIf_of_free ho, State.drainFor_of_free ho hk]

/-- It is what the memory system answers, and what follows from the answer (R137). -/
theorem State.performAcc_load {i : Instr} {p : Word} {zero : Bool} (hk : m.kind = .load zero) (hw : s.windowOf p = none)
    (ha : idOf p ≠ aliasId) : s.performAcc i m p =
      (s.gLoad s.core s.ctx p m.n s.cid).1.onAns (s.gLoad s.core s.ctx p m.n s.cid).2 p (fun s bs => s.doneAcc m bs) := by
  simp only [State.performAcc, hw, ha, hk, if_false]

theorem State.performAcc_store {i : Instr} {p : Word} (hk : m.kind = .store) (hw : s.windowOf p = none)
    (ha : idOf p ≠ aliasId) : s.performAcc i m p =
      (s.gStore s.core s.ctx p (leBytes m.n (s.g m.a).toNat) s.cid).1.onAns
        (s.gStore s.core s.ctx p (leBytes m.n (s.g m.a).toNat) s.cid).2 p (fun s bs => s.doneAcc m bs) := by
  simp only [State.performAcc, hw, ha, hk, if_false]

end

/-- An order of a load that acquires (R133). -/
theorem State.acqIf_eq (s : State) (o : Order) (sc : Scope) :
    s.acqIf o sc = if o = .acq ∨ o = .ar then s.acquire s.core sc else s := by
  cases o with
  | _ => rfl

/-- Loads, LD with the sign and LDN with zeros, as one instruction. -/
def loadInstr (zero : Bool) (z : Size) (o : Order) (sc : Scope) (a b : GReg) (imm : BitVec 19) : Instr :=
  if zero then .ldn z o sc a b imm else .ld z o sc a b imm

theorem accOf_loadInstr (zero : Bool) (z : Size) (o : Order) (sc : Scope) (a b : GReg) (imm : BitVec 19) :
    accOf (loadInstr zero z o sc a b imm) = some ⟨.load zero, sizeBytes z, o, sc, a, b, 0, imm.signExtend 64⟩ := by
  cases zero with
  | _ => rfl

section
variable {s u : State} {z : Size} {o : Order} {sc : Scope} {a b : GReg} {imm : BitVec 19} {r : Ans} {p : Word}
  (hp : eaOf (s.g b) (imm.signExtend 64) = p) (hc : s.checkGlobal s.core s.cid p (sizeBytes z) = none)
  (hb : (s.obbUse s.core (idOf p)).behindVector p.toNat (sizeBytes z) = false) (hw : (s.obbUse s.core (idOf p)).windowOf p = none)
  (ha : idOf p ≠ aliasId) (ho : o = .relaxed ∨ (s.obbUse s.core (idOf p)).drained)
include hp hc hb hw ha ho

/-- A load is what its home answers, and what follows from the answer (R135, R137). -/
theorem exec_load_answered (zero : Bool) (hg : (s.obbUse s.core (idOf p)).gLoad (s.obbUse s.core (idOf p)).core (s.obbUse s.core (idOf p)).ctx p
      (sizeBytes z) (s.obbUse s.core (idOf p)).cid = (u, r)) :
    exec (loadInstr zero z o sc a b imm) s = .next (u.onAns r p (fun t bs => (t.acqIf o sc).result a (extendLoad zero (sizeBytes z) bs))) := by
  rw [exec_of_checked_access (accOf_loadInstr zero z o sc a b imm) hp hc hb ho (fun op => by simp),
    State.performAcc_load (zero := zero) rfl hw ha, hg]
  rfl

/-- A store that its home, cache or buffer takes retires (R135). -/
theorem exec_store_answered {bs : List Byte} (hg : (s.obbUse s.core (idOf p)).gStore (s.obbUse s.core (idOf p)).core
      (s.obbUse s.core (idOf p)).ctx p (leBytes (sizeBytes z) ((s.obbUse s.core (idOf p)).g a).toNat) (s.obbUse s.core (idOf p)).cid = (u, .ok bs)) :
    exec (.st z o sc a b imm) s = .next u.retire := by
  rw [exec_of_checked_access (m := ⟨.store, sizeBytes z, o, sc, a, b, 0, imm.signExtend 64⟩) rfl hp hc hb ho (fun op => by simp),
    State.performAcc_store rfl hw ha, hg]
  rfl

end

/-! ### Bytes of a cached sector (R232 to R234) -/

/-- Bytes by their places, as a buffer holds them. -/
def byteTable (at_ : Nat) (bs : List Byte) : SMap Byte := each ((List.range bs.length).zip bs) [] (fun m e => sput m (at_ + e.1) e.2)

/-- Bytes put from one place on leave the places before it. -/
theorem sget_each_sput_lt (d : Byte) (at_ : Nat) (bs : List Byte) {k i : Nat} (m : SMap Byte) (hi : i < k) :
    sget d (each ((List.range' k bs.length).zip bs) m (fun m e => sput m (at_ + e.1) e.2)) (at_ + i) = sget d m (at_ + i) := by
  induction bs generalizing k m with
  | nil => rfl
  | cons b bs ih =>
    rw [List.length_cons, List.range'_succ, List.zip_cons_cons, each_cons, ih _ (by omega), sget_sput_ne _ _ (by omega)]

theorem sget_each_sput (d : Byte) (at_ : Nat) (bs : List Byte) (k : Nat) (m : SMap Byte) (i : Nat) (hi : i < bs.length) :
    sget d (each ((List.range' k bs.length).zip bs) m (fun m e => sput m (at_ + e.1) e.2)) (at_ + (k + i)) = bs[i] := by
  induction bs generalizing k m i with
  | nil => cases hi
  | cons b bs ih =>
    rw [List.length_cons, List.range'_succ, List.zip_cons_cons, each_cons]
    cases i with
    | zero => rw [show k + 0 = k from rfl, sget_each_sput_lt _ _ _ _ (show k < k + 1 by omega), sget_sput_self, List.getElem_cons_zero]
    | succ i =>
      rw [show k + (i + 1) = k + 1 + i by omega, ih _ _ _ (by simpa using hi), List.getElem_cons_succ]

theorem sget_byteTable (d : Byte) (at_ : Nat) {bs : List Byte} {i : Nat} (hi : i < bs.length) :
    sget d (byteTable at_ bs) (at_ + i) = bs[i] := by
  have h := sget_each_sput d at_ bs 0 [] i hi
  rwa [Nat.zero_add, ← List.range_eq_range'] at h

theorem length_overlay (buf : SMap Byte) (at_ : Nat) (bs : List Byte) : (overlay buf at_ bs).length = bs.length := by
  simp [overlay]

theorem getElem_overlay {buf : SMap Byte} {at_ : Nat} {bs : List Byte} {i : Nat} (hi : i < (overlay buf at_ bs).length) :
    (overlay buf at_ bs)[i] = sget (bs[i]'(by rwa [length_overlay] at hi)) buf (at_ + i) := by
  simp [overlay]

/-- Bytes in the buffer stand over those of the cached sector. -/
theorem overlay_byteTable {at_ : Nat} {bs data : List Byte} (h : at_ + bs.length ≤ data.length) :
    overlay (byteTable at_ bs) at_ ((data.drop at_).take bs.length) = bs := by
  have hlen : ((data.drop at_).take bs.length).length = bs.length := by
    rw [List.length_take, List.length_drop]
    omega
  refine List.ext_getElem (by rw [length_overlay, hlen]) fun i h1 h2 => ?_
  rw [getElem_overlay, sget_byteTable _ _ h2]

/-- Bytes written into the cached sector are read back from it. -/
theorem overlay_written {at_ : Nat} {bs data : List Byte} (h : at_ + bs.length ≤ data.length) :
    overlay [] at_ (((overlay (byteTable at_ bs) 0 data).drop at_).take bs.length) = bs := by
  have hlen : (((overlay (byteTable at_ bs) 0 data).drop at_).take bs.length).length = bs.length := by
    rw [List.length_take, List.length_drop, length_overlay]
    omega
  refine List.ext_getElem (by rw [length_overlay, hlen]) fun i h1 h2 => ?_
  rw [getElem_overlay]
  simp only [List.getElem_take, List.getElem_drop, getElem_overlay, Nat.zero_add, sget_byteTable _ _ h2]
  rfl

/-! ### The first-level cache and the buffer (R233, R234, R237) -/

/-- A set whose tags hold no error is looked up as it is (R375). -/
theorem State.l1Tags_of_clean {s : State} {c : Nat} (h : ∀ l ∈ (s.coreAt c).cache.lines, l.tagHurt = none) (sector : Nat) :
    s.l1Tags c sector = s := by
  have hnone : (s.coreAt c).cache.lines.filter (fun l => l.tagHurt.isSome && l1SetOf l.addr == l1SetOf sector) = [] := by
    rw [List.filter_eq_nil_iff]
    intro l hl
    simp [h l hl]
  simp only [State.l1Tags, hnone, each, List.foldl_nil]

/-- A line of the cache with bytes of its sector written (R233). -/
def L1Line.written (l : L1Line) (at_ : Nat) (bs : List Byte) : L1Line :=
  { l with
    dirty := true, ecc := (eccWrite (bytesMem l.data) l.ecc at_ bs).ecc
    data := overlay (byteTable at_ bs) 0 l.data }

section
variable {s w : State} {c k n cid : Nat} {p : Word} {bs : List Byte} {l : L1Line} (hw : (s.obbUse c (idOf p)).l1Tags c (p.toNat / 32) = w)
include hw

theorem State.gLoad_strong (hty : (w.pageType (idOf p) (offOf p)).1 = .strong) (hb : (w.coreAt c).cache.cbuf = []) :
    s.gLoad c k p n cid = w.dieRead (asker c k) (idOf p) (offOf p) n cid := by
  unfold State.gLoad
  dsimp only
  rw [hw, hty, if_pos (by simp), State.bufDrainCtx_of_empty hb]

theorem State.gStore_strong (hty : (w.pageType (idOf p) (offOf p)).1 = .strong) (hb : (w.coreAt c).cache.cbuf = []) :
    s.gStore c k p bs cid = w.rawWrite (asker c k) p bs cid := by
  unfold State.gStore
  dsimp only
  rw [hw, hty, if_pos (by simp), State.bufDrainCtx_of_empty hb]
  rfl

/-- A load whose sector the cache holds is answered from it, with what the context has buffered over it (R233, R234). -/
theorem State.gLoad_hit (hty : (w.pageType (idOf p) (offOf p)).1 = .normal) (hl : (w.coreAt c).l1Find (p.toNat / 32) = some l)
    (he : l.ecc = {}) : s.gLoad c k p n cid =
      (w, .ok (overlay ((w.coreAt c).buffered k (p.toNat / 32)) (offOf p % 32) ((l.data.drop (offOf p % 32)).take n))) := by
  unfold State.gLoad
  dsimp only
  rw [hw, hty, if_neg (by simp), hl]
  simp only [State.l1Read, he, if_true]

/-- A store to a NORMAL page of its context alone whose sector the cache holds is kept there (R233). -/
theorem State.gStore_writeBack (hty : (w.pageType (idOf p) (offOf p)).1 = .normal) (hwb : (w.pageType (idOf p) (offOf p)).2 = true)
    (hl : (w.coreAt c).l1Find (p.toNat / 32) = some l) (he : l.ecc = {}) : s.gStore c k p bs cid =
      (w.modCache c (fun x => { x with lines := x.lines.map (fun y => if y.addr = l.addr then y.written (offOf p % 32) bs else y) }), .ok []) := by
  unfold State.gStore
  dsimp only
  rw [hw, hty, if_neg (by simp), hwb, if_pos rfl, hl]
  dsimp only
  rw [if_pos (.inl he)]
  rfl

/-- Any other store to a NORMAL page enters the buffer, here as its only entry (R234). -/
theorem State.gStore_buffered (hty : (w.pageType (idOf p) (offOf p)).1 = .normal) (hwb : (w.pageType (idOf p) (offOf p)).2 = false)
    (hb : (w.coreAt c).cache.cbuf = []) : ∃ e : CbEntry, e.ctx = k ∧ e.sector = p.toNat / 32 ∧ e.bytes = byteTable (offOf p % 32) bs
      ∧ s.gStore c k p bs cid = (w.tick1.modCache c (fun x => { x with cbuf := x.cbuf ++ [e] }), .ok []) := by
  refine ⟨{ ctx := k, sector := p.toNat / 32, bytes := byteTable (offOf p % 32) bs, wcomb := false,
            due := w.now + 1 + Config.drainRaw w.fresh % 64, cid := cid }, rfl, rfl, rfl, ?_⟩
  unfold State.gStore
  dsimp only
  rw [hw, hty, if_neg (by simp), hwb, if_neg (by simp)]
  unfold State.bufStore
  dsimp only
  rw [hb, if_neg (by simp), if_pos (by simp)]
  rfl

end

/-- A line that a write keeps in its place is found where it was. -/
theorem Core.l1Find_written {x y : Core} {sector at_ : Nat} {l : L1Line} {bs : List Byte} (hl : x.l1Find sector = some l)
    (hlines : y.cache.lines = x.cache.lines.map (fun z => if z.addr = l.addr then z.written at_ bs else z))
    (hep : y.cache.epoch = x.cache.epoch) : y.l1Find sector = some (l.written at_ bs) := by
  have hfun : ((fun z : L1Line => z.addr == sector && (z.priv || z.stamp.toNat == y.cache.epoch.toNat % 256)) ∘
      (fun z => if z.addr = l.addr then z.written at_ bs else z))
        = fun z : L1Line => z.addr == sector && (z.priv || z.stamp.toNat == x.cache.epoch.toNat % 256) := by
    funext z
    rw [hep, Function.comp_apply]
    split
    · rfl
    · rfl
  rw [Core.l1Find, hlines, List.find?_map, hfun]
  rw [Core.l1Find] at hl
  rw [hl, Option.map_some, if_pos rfl]

/-- An access of a page whose accesses are all performed at its home (R237, R252). -/
theorem State.dieRead_uncached {s : State} {id off : Nat} {h : Home} (hh : s.homeOf id off = some h) (hty : (s.pageType id off).1 = .strong)
    (w n cid : Nat) : s.dieRead w id off n cid = s.homeRead w id off n cid := by
  obtain ⟨-, -, hobj, -, hext⟩ := State.id_of_homeOf hh
  have hun : h.obj.uncached off = true := by
    simp only [State.pageType, hobj, hext] at hty
    simp [Obj.uncached, hext, hty]
  rw [State.dieRead, hobj]
  dsimp only
  split
  · rfl
  · rfl

/-! ### A plain store and the loads after it -/

theorem State.obbOnly.same {s t : State} (h : s.obbOnly t) : s.SameHomes t ∧ s.SameLines t :=
  State.sameHomes_of_eq (by rw [h.1]) (by rw [h.1]) (by rw [h.1]) (by rw [h.1])

theorem State.stepped_same (s : State) : s.SameHomes s.stepped ∧ s.SameLines s.stepped := State.sameHomes_of_eq rfl rfl rfl rfl

theorem State.pageType_congr {s t : State} (h : t.objs = s.objs) (id off : Nat) : t.pageType id off = s.pageType id off := by
  simp only [State.pageType, State.obj, h]

/-- A home holds a sector in a state whose homes and lines are the same. -/
theorem State.atHome_congr {s t : State} {p : Word} {h : Home} {l : SliceLine} (hs : s.SameHomes t ∧ s.SameLines t) (hh : s.atHome p h l) :
    t.atHome p h l := by
  obtain ⟨hhomes, hlines⟩ := hs
  obtain ⟨hhome, hnamed, hback, hty, hsnap, hfind, hvalid, hecc, htag, hway⟩ := hh
  refine ⟨(hhomes.homeOf _ _).trans hhome, (hhomes.named _).trans hnamed, hback, hty, fun n hn => ?_, ?_, hvalid, hecc, htag, ?_⟩
  · obtain ⟨n', hn', e⟩ := List.mem_map.1 (hhomes.snaps ▸ List.mem_map_of_mem hn : n.obj ∈ s.snaps.map (·.obj))
    exact e ▸ hsnap n' hn'
  · rw [Slice.find_eq, hlines, ← Slice.find_eq, hfind]
  · have e : ((t.die h.die).slice h.slot).lines h.set = ((s.die h.die).slice h.slot).lines h.set := hlines h.die h.slot h.set
    rwa [e]

/-- An access of the issuing context passes its checks, and nothing of its core stands in its way (R137, R202, R375). -/
structure State.Ready (s : State) (p : Word) (n : Nat) : Prop where
  eret : s.me.eret = 0
  check : s.checkGlobal s.core s.cid p n = none
  window : s.windowOf p = none
  device : idOf p ≠ aliasId
  queue : s.here.vec.queue = []
  tags : ∀ l ∈ s.here.cache.lines, l.tagHurt = none

theorem State.Ready.obbUse {s : State} {p : Word} {n : Nat} (h : s.Ready p n) : (s.obbUse s.core (idOf p)).Ready p n := by
  have hobb := s.obbUse_obbOnly s.core (idOf p)
  obtain ⟨hcore, -, -, hme⟩ := hobb.sameIssuer
  exact ⟨by rw [hme, h.eret], by rw [hcore, State.cid_obbUse, State.checkGlobal_obbUse, h.check], by rw [State.windowOf_obbUse, h.window],
    h.device, (hobb.here_eq (fun x => x.vec.queue) fun _ _ => rfl).trans h.queue,
    by rw [hobb.here_eq (fun x => x.cache.lines) fun _ _ => rfl]; exact h.tags⟩

/-- The state in which the memory system sees an access: its object's bounds are in use (R338). -/
def State.viewed (s : State) (p : Word) : State := (s.obbUse s.core (idOf p)).obbUse s.core (idOf p)

theorem State.viewed_obbOnly (s : State) (p : Word) : s.obbOnly (s.viewed p) := (s.obbUse_obbOnly _ _).trans (State.obbUse_obbOnly _ _ _)

theorem State.Ready.viewed {s : State} {p : Word} {n : Nat} (h : s.Ready p n) : (s.viewed p).Ready p n := by
  have hobb := h.obbUse.obbUse
  rwa [(s.obbUse_obbOnly _ _).sameIssuer.core] at hobb

/-- The tags of the set that an access looks up hold no error. -/
theorem State.Ready.l1Tags {s : State} {p : Word} {n : Nat} (h : s.Ready p n) :
    ((s.obbUse s.core (idOf p)).obbUse s.core (idOf p)).l1Tags s.core (p.toNat / 32) = s.viewed p := by
  refine State.l1Tags_of_clean (fun l hl => h.viewed.tags l ?_) _
  rwa [(s.viewed_obbOnly p).sameIssuer.here]

theorem State.behindVector_of_empty {s : State} (h : s.here.vec.queue = []) (a n : Nat) : s.behindVector a n = false := by
  simp [State.behindVector, Core.vecPending, h]

section
variable {s u : State} {z : Size} {p : Word} {bs : List Byte}

theorem State.Ready.exec_st (h : s.Ready p (sizeBytes z)) {sc : Scope} {a b : GReg} {imm : BitVec 19} (hp : eaOf (s.g b) (imm.signExtend 64) = p)
    (hg : (s.obbUse s.core (idOf p)).gStore s.core s.ctx p (leBytes (sizeBytes z) (s.g a).toNat) s.cid = (u, .ok [])) :
    exec (.st z .relaxed sc a b imm) s = .next u.retire := by
  have hs := (s.obbUse_obbOnly s.core (idOf p)).sameIssuer
  exact exec_store_answered hp h.check (State.behindVector_of_empty h.obbUse.queue _ _) h.obbUse.window h.device (.inl rfl)
    (by rw [hs.core, hs.ctx, hs.g, State.cid_obbUse, hg])

theorem State.Ready.exec_load (h : s.Ready p (sizeBytes z)) {sc : Scope} {d e : GReg} {jmm : BitVec 19} (hp : eaOf (s.g e) (jmm.signExtend 64) = p)
    (hu : s.SameIssuer u) (hg : (s.obbUse s.core (idOf p)).gLoad s.core s.ctx p (sizeBytes z) s.cid = (u, .ok bs)) (zero : Bool) :
    ∃ v, exec (loadInstr zero z .relaxed sc d e jmm) s = .next v ∧ v.g d = if d = 0 then 0 else extendLoad zero (sizeBytes z) bs := by
  have hs := (s.obbUse_obbOnly s.core (idOf p)).sameIssuer
  have hexec := exec_load_answered (sc := sc) (a := d) hp h.check (State.behindVector_of_empty h.obbUse.queue _ _) h.obbUse.window h.device (.inl rfl) zero
    (by rw [hs.core, hs.ctx, State.cid_obbUse, hg])
  have he : u.me.eret ≠ 1 := hu.eret_ne (by rw [h.eret]; decide)
  exact ⟨_, hexec, (u.result_gives d (extendLoad zero (sizeBytes z) bs) he).g_self⟩

end

/-- Between two states a store of the issuing core has been taken by a home, its cache or its buffer: local memory, and what the
checks of an access rest on, are as before. -/
structure State.StoreTaken (s t : State) : Prop where
  issuer : s.SameIssuer t
  objs : t.objs = s.objs
  octets : t.octets = s.octets
  loc : ∀ c, (t.coreAt c).loc = (s.coreAt c).loc
  run : t.here.run = s.here.run
  vec : t.here.vec = s.here.vec
  obb : t.here.cache.obb = s.here.cache.obb

theorem State.here_stepped (s : State) {α : Type} (q : Core → α) (hq : ∀ (y : Core) cs, q { y with ctxs := cs } = q y) :
    q s.stepped.here = q s.here := by
  rw [State.stepped, State.here_modMe]
  exact hq _ _

theorem State.stepped_eret (s : State) : s.stepped.me.eret = s.me.eret - 1 := by
  rw [State.stepped, State.me_modMe]

/-- After a store another access of its address is as ready (R137). -/
theorem State.StoreTaken.ready {s t : State} {p : Word} {n : Nat} (ht : s.StoreTaken t) (h : s.Ready p n)
    (htags : ∀ l ∈ t.here.cache.lines, l.tagHurt = none) : t.stepped.Ready p n := by
  have hcore : t.stepped.core = s.core := ht.issuer.core
  have hobj : t.stepped.obj = s.obj := by funext id; simp only [State.obj, show t.stepped.objs = s.objs from ht.objs]
  have hcid : t.stepped.cid = s.cid := by
    rw [State.cid, State.cid, t.here_stepped Core.cid fun _ _ => rfl, Core.cid, ht.run, Core.cid]
  have hobb : (t.stepped.coreAt s.core).cache.obb = (s.coreAt s.core).cache.obb := by
    have hhere := t.here_stepped (fun x => x.cache.obb) fun _ _ => rfl
    rw [State.here, hcore] at hhere
    exact hhere.trans ht.obb
  refine ⟨?_, ?_, ?_, h.device, ?_, ?_⟩
  · rw [t.stepped_eret, ht.issuer.me, h.eret]
  · have hcheck := h.check
    simp only [State.checkGlobal, State.checkObject, h.device, if_false, State.bounds, hcore, hcid, hobb, hobj] at hcheck ⊢
    exact hcheck
  · have hwindow := h.window
    simpa only [State.windowOf, hobj] using hwindow
  · rw [t.here_stepped (fun x => x.vec.queue) fun _ _ => rfl, ht.vec, h.queue]
  · rw [t.here_stepped (fun x => x.cache.lines) fun _ _ => rfl]
    exact htags

/-- The memory system takes bytes stored at an address, and answers the issuing core's next load of them with the same bytes
(R20, R135). -/
structure State.Delivers (s t : State) (p : Word) (bs : List Byte) : Prop where
  store : (s.obbUse s.core (idOf p)).gStore s.core s.ctx p bs s.cid = (t, .ok [])
  taken : (s.viewed p).StoreTaken t
  tags : ∀ l ∈ t.here.cache.lines, l.tagHurt = none
  load : ∀ cid, ∃ u, (t.stepped.viewed p).SameIssuer u
    ∧ (t.stepped.obbUse t.stepped.core (idOf p)).gLoad t.stepped.core t.stepped.ctx p bs.length cid = (u, .ok bs)

/-- A store that is taken retires, and a load that follows delivers its bytes. -/
theorem State.Ready.store_then_load {s t : State} {z : Size} {sc : Scope} {a b : GReg} {imm : BitVec 19} {p : Word}
    (h : s.Ready p (sizeBytes z)) (hl : s.me.inLine = true) (hp : eaOf (s.g b) (imm.signExtend 64) = p)
    (ht : s.Delivers t p (leBytes (sizeBytes z) (s.g a).toNat)) :
    exec (.st z .relaxed sc a b imm) s = .next t.stepped ∧ (∀ c la, t.stepped.localByte c la = s.localByte c la)
      ∧ (∀ r, t.stepped.g r = s.g r) ∧ t.stepped.me.cstat = s.me.cstat
      ∧ ∀ (d e : GReg) (jmm : BitVec 19), eaOf (s.g e) (jmm.signExtend 64) = p → ∀ zero,
        ∃ v, exec (loadInstr zero z .relaxed sc d e jmm) t.stepped = .next v
          ∧ v.g d = if d = 0 then 0 else extendLoad zero (sizeBytes z) (leBytes (sizeBytes z) (s.g a).toNat) := by
  have hview := s.viewed_obbOnly p
  have hs : s.SameIssuer t := hview.sameIssuer.trans ht.taken.issuer
  have he : s.me.eret ≠ 1 := by rw [h.eret]; decide
  obtain ⟨hgs, hcstat, -⟩ := hs.stepped_keeps he hl
  refine ⟨?_, fun c la => ?_, hgs, hcstat, fun d e jmm hq zero => ?_⟩
  · rw [h.exec_st hp ht.store, State.retire_inLine t (hs.eret_ne he) (hs.inLine hl)]
  · refine (t.stepped_localByte c la).trans (State.localByte_congr (fun c => (ht.taken.loc c).trans ?_) (ht.taken.octets.trans ?_) c la)
    · rw [hview.2]
    · rw [hview.1]
  · obtain ⟨u, hu, hload⟩ := ht.load t.stepped.cid
    rw [length_leBytes] at hload
    exact (ht.taken.ready h.viewed ht.tags).exec_load (by rw [hgs, hq]) ((t.stepped.viewed_obbOnly p).sameIssuer.trans hu) hload zero

/-! ### The three places where a store is taken -/

/-- An access aligned to its size lies in one sector. -/
theorem sector_of_aligned {p : Word} {z : Size} (h : p.toNat % sizeBytes z = 0) : offOf p % 32 + sizeBytes z ≤ 32 := by
  unfold offOf
  cases z with
  | _ => simp only [sizeBytes] at h ⊢; omega

theorem State.Ready.sector {s : State} {p : Word} {z : Size} (h : s.Ready p (sizeBytes z)) : offOf p % 32 + sizeBytes z ≤ 32 := by
  refine sector_of_aligned ?_
  by_contra hne
  have hcheck := h.check
  simp [State.checkGlobal, hne] at hcheck

/-- Requests at homes change no core and no well. -/
theorem State.StoreTaken.of_memOnly {s t : State} (h : s.memOnly t) (ho : t.objs = s.objs) : s.StoreTaken t := by
  have hcore (c : Nat) : t.coreAt c = s.coreAt c := by rw [State.coreAt, h, State.coreAt]
  have hs := State.SameIssuer.of_fetchOnly h.fetchOnly
  have hhere : t.here = s.here := by rw [hs.here, hcore, State.here]
  exact ⟨hs, ho, by rw [h], fun c => by rw [hcore], by rw [hhere], by rw [hhere], by rw [hhere]⟩

theorem State.StoreTaken.trans {s t u : State} (h : s.StoreTaken t) (k : t.StoreTaken u) : s.StoreTaken u :=
  ⟨h.issuer.trans k.issuer, k.objs.trans h.objs, k.octets.trans h.octets, fun c => (k.loc c).trans (h.loc c), k.run.trans h.run,
    k.vec.trans h.vec, k.obb.trans h.obb⟩

theorem State.here_modCache {s : State} {c : Nat} (hc : s.core = c) (f : Cache → Cache) :
    (s.modCache c f).here = { s.here with cache := f s.here.cache } := hc ▸ State.here_modHere _ _

theorem State.modCache_same (s : State) (c : Nat) (f : Cache → Cache) : s.SameHomes (s.modCache c f) ∧ s.SameLines (s.modCache c f) :=
  State.sameHomes_of_eq rfl rfl rfl rfl

theorem State.tick1_same (s : State) : s.SameHomes s.tick1 ∧ s.SameLines s.tick1 := State.sameHomes_of_eq rfl rfl rfl rfl

theorem State.cache_modCache {s : State} {c : Nat} (hc : s.core = c) (f : Cache → Cache) : (s.modCache c f).here.cache = f s.here.cache := by
  rw [State.here_modCache hc]

/-- A change of the issuing core's cache outside its object bounds. -/
theorem State.StoreTaken.of_modCache {s : State} {c : Nat} (hc : s.core = c) {f : Cache → Cache} (hf : (f s.here.cache).obb = s.here.cache.obb) :
    s.StoreTaken (s.modCache c f) := by
  have hhere := s.here_modCache hc f
  refine ⟨State.sameIssuer_modCore rfl, rfl, rfl, fun c => ?_, by rw [hhere], by rw [hhere], by rw [hhere, hf]⟩
  rw [State.modCache, State.coreAt_modCore]
  split
  · rename_i hc
    rw [hc]
  · rfl

/-- The state in which a load after a store is seen: the store's, but for the issuing context and object bounds. -/
theorem State.here_viewed_stepped (t : State) (p : Word) {α : Type} (q : Core → α)
    (hq : ∀ (y : Core) o cs, q { y with cache := { y.cache with obb := o }, ctxs := cs } = q y) : q (t.stepped.viewed p).here = q t.here :=
  ((t.stepped.viewed_obbOnly p).here_eq q fun y o => hq y o y.ctxs).trans (t.here_stepped q fun y cs => hq y y.cache.obb cs)

theorem State.objs_viewed (s : State) (p : Word) : (s.viewed p).objs = s.objs := by rw [(s.viewed_obbOnly p).1]

theorem State.viewed_stepped_same (t : State) (p : Word) : t.SameHomes (t.stepped.viewed p) ∧ t.SameLines (t.stepped.viewed p) :=
  ⟨t.stepped_same.1.trans (t.stepped.viewed_obbOnly p).same.1, t.stepped_same.2.trans (t.stepped.viewed_obbOnly p).same.2⟩

/-- The home holds the bytes written to its line. -/
theorem State.Relined.atHome_written {s t : State} {p : Word} {h : Home} {l : SliceLine} {cid : Nat} {bs : List Byte}
    (hr : s.Relined t h l (l.written cid (offOf p) bs)) (hh : s.atHome p h l) :
    t.atHome p h (l.written cid (offOf p) bs) ∧ (l.written cid (offOf p) bs).data = l.data.writeN (offOf p % 256) bs := by
  have hh' := hh
  obtain ⟨-, -, -, -, -, -, hvalid, hecc, htag, -⟩ := hh
  obtain ⟨-, hdata, hecc', hvalid'⟩ := SliceLine.accept_clean hecc cid (offOf p) bs
  exact ⟨hr.atHome hh' rfl rfl (by rw [hvalid', or_bit_of_getLsbD hvalid, hvalid]) hecc' htag, hdata⟩

/-- A load of a STRONG page reads the line that its home holds (R237). -/
theorem State.gLoad_atHome {s w : State} {c k n : Nat} {p : Word} {h : Home} {l : SliceLine}
    (hw : (s.obbUse c (idOf p)).l1Tags c (p.toNat / 32) = w) (hty : (w.pageType (idOf p) (offOf p)).1 = .strong)
    (hb : (w.coreAt c).cache.cbuf = []) (hh : w.atHome p h l) (hn : offOf p % 32 + n ≤ 32) (cid : Nat) :
    ∃ u, w.SameIssuer u ∧ s.gLoad c k p n cid = (u, .ok (l.data.readN (offOf p % 256) n)) := by
  obtain ⟨u, hu, -⟩ := State.homeRead_atHome hh (asker c k) n cid hn
  have hmem := State.homeRead_mem w (asker c k) (idOf p) (offOf p) n cid (.refl w)
  rw [hu] at hmem
  refine ⟨u, .of_fetchOnly hmem.fetchOnly, ?_⟩
  obtain ⟨hhome, -⟩ := hh
  rw [State.gLoad_strong hw hty hb, State.dieRead_uncached hhome hty, hu]

theorem Core.buffered_of_empty {x : Core} (h : x.cache.cbuf = []) (k sector : Nat) : x.buffered k sector = [] := by
  rw [Core.buffered, h]
  rfl

theorem Core.buffered_single {x : Core} {e : CbEntry} {k sector : Nat} (h : x.cache.cbuf = [e]) (hk : e.ctx = k) (hs : e.sector = sector) :
    x.buffered k sector = e.bytes := by
  simp [Core.buffered, h, hk, hs]

/-- A store to a NORMAL page whose sector the cache holds: the loads of it are answered from the cache and the buffer (R233, R234). -/
theorem State.Ready.delivers_cached {s t : State} {p : Word} {bs : List Byte} {l : L1Line} (hr : s.Ready p bs.length)
    (hty : (s.pageType (idOf p) (offOf p)).1 = .normal)
    (hstore : (s.obbUse s.core (idOf p)).gStore s.core s.ctx p bs s.cid = (t, .ok [])) (htaken : (s.viewed p).StoreTaken t)
    (hsame : (s.viewed p).SameHomes t ∧ (s.viewed p).SameLines t) (htags : ∀ l ∈ t.here.cache.lines, l.tagHurt = none)
    (hl : t.here.l1Find (p.toNat / 32) = some l) (he : l.ecc = {})
    (hbytes : overlay (t.here.buffered s.ctx (p.toNat / 32)) (offOf p % 32) ((l.data.drop (offOf p % 32)).take bs.length) = bs) :
    s.Delivers t p bs ∧ ∀ x, t.globalByte x = s.globalByte x := by
  have hview := (s.viewed_obbOnly p).same
  have hobjs : (t.stepped.viewed p).objs = s.objs := (State.objs_viewed _ p).trans (htaken.objs.trans (s.objs_viewed p))
  have hhere : (t.stepped.viewed p).coreAt t.stepped.core = (t.stepped.viewed p).here := (t.stepped.viewed_obbOnly p).sameIssuer.here.symm
  have hctx : t.stepped.ctx = s.ctx := htaken.issuer.ctx.trans (s.viewed_obbOnly p).sameIssuer.ctx
  have hfind := t.here_viewed_stepped p (fun x => x.l1Find (p.toNat / 32)) fun _ _ _ => rfl
  have hbuf := t.here_viewed_stepped p (fun x => x.buffered s.ctx (p.toNat / 32)) fun _ _ _ => rfl
  refine ⟨⟨hstore, htaken, htags, fun cid => ⟨_, .refl _, ?_⟩⟩, fun x =>
    (hsame.1.globalByte_of_lines hsame.2 x).trans (hview.1.globalByte_of_lines hview.2 x)⟩
  rw [State.gLoad_hit (htaken.ready hr.viewed htags).l1Tags (by rw [State.pageType_congr hobjs, hty]) (by rw [hhere, hfind, hl]) he,
    hhere, hctx, hbuf, hbytes]

section
variable {s : State} {p : Word} {bs : List Byte} (hr : s.Ready p bs.length) (hn : offOf p % 32 + bs.length ≤ 32) (hb : s.here.cache.cbuf = [])
include hr hn hb

/-- A store to a STRONG page is performed at its home, and so are the loads of it (R237). -/
theorem State.Ready.delivers_strong {h : Home} {l : SliceLine} (hty : (s.pageType (idOf p) (offOf p)).1 = .strong) (hh : s.atHome p h l) :
    ∃ t, s.Delivers t p bs ∧ s.stored t.stepped p bs := by
  have hview := s.viewed_obbOnly p
  have hhv := State.atHome_congr hview.same hh
  obtain ⟨t, ht, hrel⟩ := State.rawWrite_atHome hhv (asker s.core s.ctx) s.cid bs
  have hmem : (s.viewed p).memOnly t := by
    have h := State.dieWrite_mem (s.viewed p) (asker s.core s.ctx) (idOf p) (offOf p) [(offOf p, bs)] s.cid (.refl _)
    rwa [← State.rawWrite, ht] at h
  have htaken := State.StoreTaken.of_memOnly hmem hrel.homes.objs
  have hhere : t.here = (s.viewed p).here := by
    rw [htaken.issuer.here, State.coreAt, hmem]
    rfl
  have hbuf : (s.viewed p).here.cache.cbuf = [] := (hview.here_eq (fun x => x.cache.cbuf) fun _ _ => rfl).trans hb
  have htags : ∀ l ∈ t.here.cache.lines, l.tagHurt = none := by rw [hhere]; exact hr.viewed.tags
  have hlater := hrel.trans_same (t.viewed_stepped_same p)
  obtain ⟨hhome, hdata⟩ := hlater.atHome_written hhv
  have hobjs : (t.stepped.viewed p).objs = s.objs := hlater.homes.objs.trans (s.objs_viewed p)
  refine ⟨t, ⟨?_, htaken, htags, fun cid => ?_⟩, ?_⟩
  · rw [State.gStore_strong hr.l1Tags (by rw [State.pageType_congr (s.objs_viewed p), hty]) (by rw [← hview.sameIssuer.here, hbuf]), ht]
  · have hload := State.gLoad_atHome (k := t.stepped.ctx) (htaken.ready hr.viewed htags).l1Tags (by rw [State.pageType_congr hobjs, hty])
      (by rw [← (t.stepped.viewed_obbOnly p).sameIssuer.here, t.here_viewed_stepped p (fun x => x.cache.cbuf) fun _ _ _ => rfl, hhere, hbuf])
      hhome hn cid
    rwa [hdata, Memory.readN_writeN] at hload
  · obtain ⟨hin, hout⟩ := (hrel.trans_same t.stepped_same).stored hhv hn
    exact ⟨hin, fun x hx => (hout x hx).trans (hview.same.1.globalByte_of_lines hview.same.2 x)⟩

/-- A store to a NORMAL page of its context alone stays in the sector that the cache holds (R233). -/
theorem State.Ready.delivers_writeBack {l : L1Line} (hty : (s.pageType (idOf p) (offOf p)).1 = .normal)
    (hwb : (s.pageType (idOf p) (offOf p)).2 = true) (hl : s.here.l1Find (p.toNat / 32) = some l) (he : l.ecc = {}) (hlen : l.data.length = 32) :
    ∃ t, s.Delivers t p bs ∧ ∀ x, t.globalByte x = s.globalByte x := by
  have hview := s.viewed_obbOnly p
  have hcore := hview.sameIssuer.core
  have hlv : (s.viewed p).here.l1Find (p.toNat / 32) = some l := by rw [hview.here_eq (fun x => x.l1Find _) fun _ _ => rfl, hl]
  have hbuf : (s.viewed p).here.cache.cbuf = [] := (hview.here_eq (fun x => x.cache.cbuf) fun _ _ => rfl).trans hb
  have hpage := State.pageType_congr (s.objs_viewed p)
  have hstore := State.gStore_writeBack (k := s.ctx) (cid := s.cid) (bs := bs) hr.l1Tags (by rw [hpage, hty]) (by rw [hpage, hwb])
    (by rw [← hview.sameIssuer.here, hlv]) he
  have hcache := State.cache_modCache hcore (fun x =>
    { x with lines := x.lines.map (fun y => if y.addr = l.addr then y.written (offOf p % 32) bs else y) })
  refine ⟨_, hr.delivers_cached (l := l.written (offOf p % 32) bs) hty hstore (.of_modCache hcore rfl)
    ((s.viewed p).modCache_same _ _) (fun x hx => ?_) ?_ ?_ ?_⟩
  · rw [hcache] at hx
    obtain ⟨y, hy, rfl⟩ := List.mem_map.1 hx
    have hy' := hr.viewed.tags y hy
    split
    · exact hy'
    · exact hy'
  · exact Core.l1Find_written hlv (by rw [hcache]) (by rw [hcache])
  · simp only [L1Line.written, he, eccWrite_clean]
  · rw [Core.buffered_of_empty (by rw [hcache]; exact hbuf)]
    exact overlay_written (by omega)

/-- Any other store to a NORMAL page waits in the buffer (R234). -/
theorem State.Ready.delivers_buffered {l : L1Line} (hty : (s.pageType (idOf p) (offOf p)).1 = .normal)
    (hwb : (s.pageType (idOf p) (offOf p)).2 = false) (hl : s.here.l1Find (p.toNat / 32) = some l) (he : l.ecc = {}) (hlen : l.data.length = 32) :
    ∃ t, s.Delivers t p bs ∧ ∀ x, t.globalByte x = s.globalByte x := by
  have hview := s.viewed_obbOnly p
  have hcore := hview.sameIssuer.core
  have hlv : (s.viewed p).here.l1Find (p.toNat / 32) = some l := by rw [hview.here_eq (fun x => x.l1Find _) fun _ _ => rfl, hl]
  have hbuf : (s.viewed p).here.cache.cbuf = [] := (hview.here_eq (fun x => x.cache.cbuf) fun _ _ => rfl).trans hb
  have hpage := State.pageType_congr (s.objs_viewed p)
  obtain ⟨e, hctx, hsector, hbytes, hstore⟩ := State.gStore_buffered (k := s.ctx) (cid := s.cid) (bs := bs) hr.l1Tags (by rw [hpage, hty])
    (by rw [hpage, hwb]) (by rw [← hview.sameIssuer.here, hbuf])
  have hcache := State.cache_modCache (s := (s.viewed p).tick1) hcore (fun x => { x with cbuf := x.cbuf ++ [e] })
  have htaken : (s.viewed p).StoreTaken ((s.viewed p).tick1.modCache s.core (fun x => { x with cbuf := x.cbuf ++ [e] })) :=
    (State.StoreTaken.of_memOnly (State.tick1_mem _ (.refl _)) rfl).trans (.of_modCache (s := (s.viewed p).tick1) hcore rfl)
  refine ⟨_, hr.delivers_cached (l := l) hty hstore htaken
    ⟨(s.viewed p).tick1_same.1.trans (State.modCache_same _ _ _).1, (s.viewed p).tick1_same.2.trans (State.modCache_same _ _ _).2⟩ (fun x hx => ?_) ?_ he ?_⟩
  · rw [hcache] at hx
    exact hr.viewed.tags x hx
  · rw [Core.l1Find, hcache]
    exact hlv
  · rw [Core.buffered_single (e := e) (by rw [hcache]; exact congrArg (· ++ [e]) hbuf) hctx hsector, hbytes]
    exact overlay_byteTable (by omega)

end

/-- A plain store to a page whose accesses its home or the core's cache takes, and the loads of it (R20, R233, R234, R237). -/
theorem State.Ready.delivers {s : State} {p : Word} {bs : List Byte} (hr : s.Ready p bs.length)
    (hn : offOf p % 32 + bs.length ≤ 32) (hb : s.here.cache.cbuf = []) (hc : s.cleanCache)
    (h : (s.pageType (idOf p) (offOf p)).1 = .strong ∧ (∃ h l, s.atHome p h l)
      ∨ (s.pageType (idOf p) (offOf p)).1 = .normal ∧ (s.here.l1Find (p.toNat / 32)).isSome = true) :
    ∃ t, s.Delivers t p bs ∧ ((s.pageType (idOf p) (offOf p)).1 = .strong → s.stored t.stepped p bs)
      ∧ ((s.pageType (idOf p) (offOf p)).1 = .normal → ∀ x, t.stepped.globalByte x = s.globalByte x) := by
  rcases h with ⟨hty, hm, l, hh⟩ | ⟨hty, hl⟩
  · obtain ⟨t, ht, hst⟩ := hr.delivers_strong hn hb hty hh
    exact ⟨t, ht, fun _ => hst, fun h => by rw [hty] at h; cases h⟩
  · obtain ⟨l, hl⟩ := Option.isSome_iff_exists.1 hl
    obtain ⟨-, hecc, hlen⟩ := hc l (List.mem_of_find?_eq_some hl)
    obtain ⟨t, ht, hg⟩ : ∃ t, s.Delivers t p bs ∧ ∀ x, t.globalByte x = s.globalByte x := by
      cases hwb : (s.pageType (idOf p) (offOf p)).2 with
      | true => exact hr.delivers_writeBack hn hb hty hwb hl hecc hlen
      | false => exact hr.delivers_buffered hn hb hty hwb hl hecc hlen
    exact ⟨t, ht, fun h => (by rw [hty] at h; cases h), fun _ x => (t.stepped_same.1.globalByte_of_lines t.stepped_same.2 x).trans (hg x)⟩

/-- Settles O20: an access is what the memory system answers; a write replaces bytes of a resident line; and the store that is
taken at its home, in the cache or in the buffer is what the next load finds. -/
theorem globalAccesses : Obligations.GlobalAccesses := by
  refine ⟨fun s u z o sc a b imm r => ?_, fun s u z o sc a b imm bs => ?_, fun s w cid p h l hh => ⟨fun bs _ hn => ?_, fun n _ hn hd => ?_⟩,
    fun s z sc a b imm he hl => ?_⟩
  · intro p v hc hb hw ha ho hg
    have hload (zero : Bool) := exec_load_answered (a := a) (sc := sc) (imm := imm) rfl hc hb hw ha ho zero hg
    rw [← State.acqIf_eq]
    refine ⟨fun bs hr => ?_, fun hr => ?_, fun hr => ?_⟩
    all_goals
      subst hr
      exact ⟨hload false, hload true⟩
  · intro p v hc hb hw ha ho hg
    exact exec_store_answered rfl hc hb hw ha ho hg
  · obtain ⟨t, ht, hr⟩ := State.rawWrite_atHome hh w cid bs
    exact ⟨t, ht, hr.stored hh hn⟩
  · obtain ⟨t, ht, hr⟩ := State.rawRead_atHome hh cid hn hd
    exact ⟨t, ht, hr.globalByte_self hh⟩
  · intro p n hc hw ha hq hb hclean hty
    have hready : s.Ready p n := ⟨he, hc, hw, ha, hq, fun l hl => (hclean l hl).1⟩
    have hlen : (leBytes n (s.g a).toNat).length = n := length_leBytes _ _
    obtain ⟨t, ht, hstrong, hnormal⟩ := State.Ready.delivers (bs := leBytes n (s.g a).toNat) (by rwa [hlen]) (by rw [hlen]; exact hready.sector)
      hb hclean hty
    obtain ⟨hexec, hlocal, hg, hcstat, hload⟩ := hready.store_then_load (sc := sc) hl rfl ht
    simp only [extendLoad_leBytes] at hload
    exact ⟨t.stepped, hexec, hstrong, hnormal, hlocal, hg, hcstat, fun d e jmm hp => ⟨hload d e jmm hp true, hload d e jmm hp false⟩⟩

end Sys2Proof.Machine
end

section

/-! PROOFS. The statements on numbers: late results, sign operations and stochastic rounding (spec/02). -/

namespace Sys2Proof.Machine

/-! ### Late results (R88, R90, R97 to R99) -/

/-- Every instruction with a latency of its own is one late write of its result and a retirement. -/
theorem exec_of_lateResult {i : Instr} {s : State} {a : GReg} {v : Word} {n : Nat} (h : lateResult i s.g = some (a, v, n)) :
    exec i s = .next (s.resultIn n a v) := by
  cases i with
  | fcvt dst src mode _ _ =>
    cases mode with
    | _ => cases h <;> rfl
  | _ => cases h <;> rfl

/-- A register whose result is late is so while its cycle lies ahead, by no more than the longest latency (R88). -/
theorem State.late_dueIn (s : State) (n : Nat) {a : GReg} (ha : a ≠ 0) (cycle : Word) :
    (s.dueIn n a).me.late cycle a.toNat
      = decide (0 < (s.here.cycle + w64 n - cycle).toNat ∧ (s.here.cycle + w64 n - cycle).toNat ≤ 36) := by
  rw [State.me_dueIn, if_neg ha, Ctx.late, sfind_sput, if_pos rfl]

/-- The cycles still to wait at a cycle within the longest latency: none once the latency has passed, where the difference
wraps far beyond it. -/
theorem wait_left_iff {n m : Nat} (cycle : Word) (hn : n ≤ 36) (hm : m ≤ 36) :
    (0 < (cycle + w64 n - (cycle + w64 m)).toNat ∧ (cycle + w64 n - (cycle + w64 m)).toNat ≤ 36) ↔ m < n := by
  have hleft : (cycle + w64 n - (cycle + w64 m)).toNat = (2 ^ 64 - m + n) % 2 ^ 64 := by
    rw [add_sub_add_left_eq_sub, BitVec.toNat_sub, w64, w64, BitVec.toNat_ofNat, BitVec.toNat_ofNat]
    omega
  rw [hleft]
  omega

/-! ### Sign operations and the class (R39, R97) -/

/-- The sign bit is the topmost bit of a code (R33). -/
theorem Fmt.two_mul_signBit (F : Fmt) : 2 * F.signBit = 2 ^ F.width := by
  rw [Fmt.signBit, Fmt.width, ← pow_succ', Nat.add_assoc 1, Nat.add_comm 1]

/-- FABS, FNEG and FCLASS are one write of their result and a retirement. -/
theorem exec_of_signResult {i : Instr} {s : State} {a : GReg} {v : Word} (h : signResult i s.g = some (a, v)) :
    exec i s = .next (s.result a v) := by
  cases i with
  | fabs t _ b =>
    cases h
    change execFabs t a b s = _
    rw [execFabs, clearSign, codeOf, ← Fmt.two_mul_signBit, Nat.mod_mul_left_mod]
  | fneg t _ b =>
    cases h
    change execFneg t a b s = _
    rw [execFneg, flipSign, Fmt.two_mul_signBit, codeOf]
  | _ => cases h <;> rfl

/-! ### Stochastic rounding (R43, R44, R99) -/

/-- A draw steps its generator, and is the state it steps to (R44). -/
theorem State.gen_srDraw (s : State) (i : Nat) : (s.srDraw i).1.me.gen i = (s.srDraw i).2 := by
  rw [State.srDraw, State.me_modMe, Ctx.gen, sget_sput_self]

/-- A draw changes the generators of the issuing context and nothing else. -/
theorem State.srDraw_eq (s : State) (i : Nat) :
    (s.srDraw i).1 = s.modMe (fun x => { x with sr := (s.srDraw i).1.me.sr }) := by
  refine State.modMe_congr s ?_
  rw [State.srDraw, State.me_modMe]

theorem State.eret_srDraw (s : State) (i : Nat) : (s.srDraw i).1.me.eret = s.me.eret := by
  rw [State.srDraw, State.me_modMe]

/-- FCVT.SR is one draw of generator 0 and a late result rounded by it. -/
theorem exec_fcvt_sr (dst src : CvtFmt) (a b : GReg) (s : State) :
    exec (.fcvt dst src .sr a b) s
      = .next ((s.srDraw 0).1.resultIn 3 a (cvtImg dst (cvtVal src (s.g b)) (.sr (s.srDraw 0).2))) := rfl

/-- Settles O3: each instruction is one result, late by its cycles; FCVT.SR draws before it; and a register is late while its
cycle lies ahead. -/
theorem lateAndFloatResults : Obligations.LateAndFloatResults := by
  refine ⟨fun i s a v n he h => ?_, fun i s a v he h => ?_, fun dst src a b s he => ?_, fun s n m a _ hn hm ha => ?_, fun s n => ?_⟩
  · exact ⟨_, exec_of_lateResult h, s.resultIn_gives n a v he⟩
  · exact ⟨_, exec_of_signResult h, s.result_gives a v he⟩
  · have he' : (s.srDraw 0).1.me.eret ≠ 1 := by rwa [State.eret_srDraw]
    exact ⟨_, (s.srDraw 0).1, exec_fcvt_sr dst src a b s, s.srDraw_eq 0, s.gen_srDraw 0, State.resultIn_gives _ 3 a _ he'⟩
  · rw [s.late_dueIn n ha, decide_eq_true_iff, wait_left_iff _ hn hm]
  · rw [State.me_dueIn, if_pos rfl]

end Sys2Proof.Machine
end

section

/-! PROOFS. The statement on the frame of instructions inside a line (spec/03). -/

namespace Sys2Proof.Machine

/-! ### States that differ in the issuing context only -/

/-- The second state is the first with its issuing context changed. -/
def State.InContext (s t : State) : Prop := ∃ f, t = s.modMe f

theorem State.InContext.trans {s t u : State} (h : s.InContext t) (k : t.InContext u) : s.InContext u := by
  obtain ⟨f, rfl⟩ := h
  obtain ⟨g, rfl⟩ := k
  exact ⟨_, s.modMe_modMe f g⟩

theorem State.setG_inContext (s : State) (a : GReg) (v : Word) : s.InContext (s.setG a v) := ⟨_, rfl⟩

theorem State.dueIn_inContext (s : State) (n : Nat) (a : GReg) : s.InContext (s.dueIn n a) := ⟨_, rfl⟩

theorem State.stepped_inContext (s : State) : s.InContext s.stepped := ⟨_, rfl⟩

/-- A context holds no byte of local memory: that is in its core's local part and in the wells (R19). -/
theorem State.InContext.loc {s t : State} (h : s.InContext t) (c : Nat) : (t.coreAt c).loc = (s.coreAt c).loc := by
  obtain ⟨f, rfl⟩ := h
  rw [State.modMe, State.modCtx, State.coreAt_modCore]
  split
  · rename_i e; rw [e]; rfl
  · rfl

theorem State.InContext.octets {s t : State} (h : s.InContext t) : t.octets = s.octets := by
  obtain ⟨f, rfl⟩ := h; exact s.modMe_octets f

theorem State.InContext.dies {s t : State} (h : s.InContext t) : t.dies = s.dies := by
  obtain ⟨f, rfl⟩ := h; exact s.modMe_dies f

theorem State.InContext.agenda {s t : State} (h : s.InContext t) : t.agenda = s.agenda := by
  obtain ⟨f, rfl⟩ := h; exact s.modMe_agenda f

theorem State.InContext.coreAt_ne {s t : State} (h : s.InContext t) (c : Nat) (hc : c ≠ s.core) : t.coreAt c = s.coreAt c := by
  obtain ⟨f, rfl⟩ := h
  rw [State.modMe, State.modCtx, State.coreAt_modCore, if_neg hc]

/-- Every home and every line of the slices is as it was. -/
theorem State.InContext.same {s t : State} (h : s.InContext t) : s.SameHomes t ∧ s.SameLines t := by
  obtain ⟨f, rfl⟩ := h
  exact State.sameHomes_of_eq rfl rfl rfl rfl

theorem State.InContext.sameMemory {s t : State} (h : s.InContext t) : s.sameMemory t :=
  ⟨h.same.1.globalByte_of_lines h.same.2, State.localByte_congr h.loc h.octets⟩

/-! ### Results inside a line (R67, R88) -/

/-- Writing a register moves no entry of the queue. -/
theorem State.setG_inLine (s : State) (a : GReg) (v : Word) : (s.setG a v).me.inLine = s.me.inLine := by
  obtain ⟨-, -, h2⟩ := s.me.setReg_q a v
  rw [State.me_setG, Ctx.inLine, Ctx.inLine, h2]

theorem State.setG_eret (s : State) (a : GReg) (v : Word) : (s.setG a v).me.eret = s.me.eret := by
  rw [State.me_setG, Ctx.setReg]; split <;> rfl

theorem State.dueIn_inLine (s : State) (n : Nat) (a : GReg) : (s.dueIn n a).me.inLine = s.me.inLine := by
  rw [State.me_dueIn]; split <;> rfl

theorem State.dueIn_eret (s : State) (n : Nat) (a : GReg) : (s.dueIn n a).me.eret = s.me.eret := by
  rw [State.me_dueIn]; split <;> rfl

/-- Inside a line a result is the write of its register and one step of the queue. -/
theorem State.result_inLine (s : State) (a : GReg) (v : Word) (he : s.me.eret ≠ 1) (hl : s.me.inLine = true) :
    s.result a v = (s.setG a v).stepped :=
  State.retire_inLine _ (by rwa [s.setG_eret]) (by rwa [s.setG_inLine])

/-- A result reads back as written, and as zero from g0 (R14). -/
theorem State.result_g (s : State) (a : GReg) (v : Word) (he : s.me.eret ≠ 1) : (s.result a v).g a = if a = 0 then 0 else v := by
  rw [(s.result_gives a v he).2 a]
  by_cases ha : a = 0
  · rw [if_neg (fun h => h.2 ha), if_pos ha, ha, State.g, Ctx.reg_zero]
  · rw [if_pos ⟨rfl, ha⟩, if_neg ha]

/-- The instructions of R89 to R95 have no latency of their own. -/
theorem lateResult_of_intResult {i : Instr} {g : GReg → Word} {a : GReg} {v : Word} (h : intResult i g = some (a, v)) :
    lateResult i g = none := by
  cases i with
  | _ => cases h <;> rfl

/-- FABS, FNEG and FCLASS have no latency of their own. -/
theorem lateResult_of_signResult {i : Instr} {g : GReg → Word} {a : GReg} {v : Word} (h : signResult i g = some (a, v)) :
    lateResult i g = none := by
  cases i with
  | _ => cases h <;> rfl

/-- Settles O2: inside a line each instruction is the write of its result, late or not, and one step of the queue, all in the
issuing context. -/
theorem registerFormsStoreNothing : Obligations.RegisterFormsStoreNothing := by
  intro i s a v he hl h
  suffices hres : ∃ u : State, s.InContext (u.setG a v) ∧ u.me.eret ≠ 1 ∧ u.me.inLine = true ∧ exec i s = .next (u.result a v)
      ∧ ((lateResult i s.g = none ∧ u = s) ∨ ∃ n, lateResult i s.g = some (a, v, n) ∧ u = s.dueIn n a) by
    obtain ⟨u, hu, hue, hul, hx, hlate⟩ := hres
    have hc := hu.trans (State.stepped_inContext _)
    have hg := u.result_g a v hue
    rw [u.result_inLine a v hue hul] at hx hg
    refine ⟨_, hx, hc.sameMemory, hc.octets, hc.dies, hc.agenda, hc.coreAt_ne, hg, ?_⟩
    obtain ⟨hn, rfl⟩ | ⟨n, hn, rfl⟩ := hlate
    · exact .inl ⟨hn, rfl⟩
    · exact .inr ⟨n, hn, rfl⟩
  obtain h | h | ⟨n, h⟩ := h
  · exact ⟨s, s.setG_inContext a v, he, hl, exec_of_intResult h, .inl ⟨lateResult_of_intResult h, rfl⟩⟩
  · exact ⟨s, s.setG_inContext a v, he, hl, exec_of_signResult h, .inl ⟨lateResult_of_signResult h, rfl⟩⟩
  · exact ⟨s.dueIn n a, (s.dueIn_inContext n a).trans (State.setG_inContext _ a v), by rwa [s.dueIn_eret], by rwa [s.dueIn_inLine],
      exec_of_lateResult h, .inr ⟨n, h, rfl⟩⟩

end Sys2Proof.Machine
end

section
/-! PROOFS. The statements on traps, returns and the waits of a context (spec/05 R113 to R128). -/

namespace Sys2Proof.Machine

/-! ### Event bits in the latches (R120, R125) -/

/-- A table changed entry by entry, where what it does not list stays so. -/
theorem sget_map {α : Type} {d : α} {g : Nat → α → α} {k : Nat} (hd : g k d = d) (m : SMap α) :
    sget d (m.map (fun e => (e.1, g e.1 e.2))) k = g k (sget d m k) := by
  induction m with
  | nil => exact hd.symm
  | cons e r ih =>
    obtain ⟨j, v⟩ := e
    simp only [List.map_cons, sget, ih]
    split
    · rename_i h; subst h; rfl
    · rfl

/-- Context k of a core in which an event has come (R120). -/
def Ctx.latched (x : Ctx) (k b : Nat) : Ctx :=
  if x.st = .live ∧ (k = 0 ∨ (b ≠ 3 ∧ b ≠ 4)) then { x with latch := x.latch ||| (1#7 <<< b) } else x

theorem Core.ctxAt_latchEvent (x : Core) (b k : Nat) : (x.latchEvent b).ctxAt k = (x.ctxAt k).latched k b :=
  sget_map (d := Ctx.reset k) (g := fun k y => y.latched k b) (if_neg (by simp [Ctx.reset])) x.ctxs

theorem Core.ctxAt_raiseIrq (x : Core) (b k : Nat) :
    (x.raiseIrq b).ctxAt k = if x.imask.getLsbD b && b != 4 then (x.ctxAt k).latched k 4 else x.ctxAt k := by
  unfold Core.raiseIrq
  split
  · exact Core.ctxAt_latchEvent _ _ _
  · rfl

/-- Event bits 3 and 4 are set in no helper (R120). -/
theorem Ctx.latched_helper {k b : Nat} (hk : k ≠ 0) (hb : b = 3 ∨ b = 4) (x : Ctx) : x.latched k b = x :=
  if_neg (by omega)

/-- In context 0 any event bit is set while it is LIVE (R120). -/
theorem Ctx.latch_latched_job (x : Ctx) (b : Nat) :
    (x.latched 0 b).latch = if x.st = .live then x.latch ||| (1#7 <<< b) else x.latch := by
  unfold Ctx.latched
  simp only [true_or, and_true]
  split
  · rfl
  · rfl

/-- HELPER, as an event and as an interrupt, leaves the helpers themselves (R120, R125). -/
theorem State.ctxAt_event_helper (s : State) (c d : Nat) {k : Nat} (hk : k ≠ 0) : (s.event c 3).ctxAt d k = s.ctxAt d k := by
  have hcore (x : Core) : ((x.latchEvent 3).raiseIrq 3).ctxAt k = x.ctxAt k := by
    rw [Core.ctxAt_raiseIrq, Core.ctxAt_latchEvent, Ctx.latched_helper hk (.inl rfl), Ctx.latched_helper hk (.inr rfl), ite_self]
  rw [State.ctxAt, State.event, State.coreAt_modCore]
  split
  · rename_i h; subst h; exact hcore _
  · rfl

/-! ### Helpers that stop for good (R11, R110, R128) -/

theorem State.ctxAt_exitHelper (s : State) (c d : Nat) {j : Nat} (hj : j ≠ 0) (k : Nat) (v : Word) :
    (s.exitHelper c k v).ctxAt d j = if d = c ∧ j = k then (s.ctxAt c k).ended v else s.ctxAt d j := by
  rw [State.exitHelper, State.ctxAt_event_helper _ _ _ hj, State.ctxAt_modCtx]

theorem State.me_exitHelper {s : State} (hk : s.ctx ≠ 0) (v : Word) : (s.exitHelper s.core s.ctx v).me = s.me.ended v :=
  (s.ctxAt_exitHelper s.core s.core hk s.ctx v).trans (if_pos ⟨rfl, rfl⟩)

/-! ### Double traps (R128) -/

theorem State.doubleTrap_job {s : State} (hk : s.ctx = 0) (z : Cause) :
    s.doubleTrap z = s.failLaunch s.core 3 z.addr s.me.ecause := if_pos hk

/-- A helper's double trap ends it, whether or not its launch drains. -/
theorem State.me_doubleTrap_helper {s : State} (hk : s.ctx ≠ 0) (z : Cause) :
    (s.doubleTrap z).me = s.me.ended (w64 (2 ^ 63 + 0xFF)) := by
  rw [← State.me_exitHelper hk, State.doubleTrap, if_neg hk]
  dsimp only
  split
  · rfl
  · rfl

/-- Settles O6: the double trap is a due event in context 0 and the end of a helper, and neither writes a save register. -/
theorem doubleTrap : Obligations.DoubleTrap := by
  intro s z hb hi
  rw [s.raise_double z hb hi]
  by_cases hk : s.ctx = 0
  · rw [State.doubleTrap_job hk]
    exact ⟨rfl, rfl, rfl, rfl, rfl, rfl, fun _ => ⟨rfl, rfl⟩, fun h => absurd hk h⟩
  · dsimp only
    rw [State.me_doubleTrap_helper hk]
    exact ⟨rfl, rfl, rfl, rfl, rfl, rfl, fun h => absurd h hk, fun _ => ⟨rfl, rfl⟩⟩

/-! ### Trap entry by TRAP and as an event (R113, R125, R126) -/

/-- A part of a core that reading code does not change. -/
theorem State.fetchOnly.coreAt_eq {s u : State} (h : s.fetchOnly u) (c : Nat) {α : Type} (p : Core → α)
    (hp : ∀ (y : Core) tcm ecc n m obb, p
      { y with
        loc := { y.loc with tcm := tcm, ecc := ecc }
        eccstat := n, eccAt := m
        cache := { y.cache with obb := obb } } = p y) : p (u.coreAt c) = p (s.coreAt c) := by
  have hcode : (s.coreAt c).codeOnly (u.coreAt c) := h.2.1 c
  rw [Core.codeOnly] at hcode
  rw [hcode]
  exact hp _ _ _ _ _ _

/-- Entry at a handler: the saved context begins at the line of EVEC, and nothing else changes but what reading code
changes (R126). -/
theorem State.trapEntry_enters {s : State} (z : Cause) (h : s.here.evecDefault = false) :
    ∃ u q0 q1 q2, (s.modMe (fun x => x.saved z)).fetchOnly u ∧ q0.addr = lineOf s.here.evec ∧ q0.annul = false
      ∧ s.trapEntry z = u.modMe (fun _ => { s.me.saved z with q0 := q0, q1 := q1, q2 := q2, p := 0xFFFF }) := by
  obtain ⟨u, q0, q1, q2, hu, he, ha, hn, -⟩ :=
    (s.modMe (fun x => x.saved z)).beginAt_spec s.core s.ctx (lineOf s.here.evec) false
  have hme : u.me = s.me.saved z := hu.me.trans (State.me_modMe _ _)
  have hmod (f : Ctx → Ctx) : u.modCtx s.core s.ctx f = u.modMe f := by rw [State.modMe, hu.core, hu.ctx]; rfl
  refine ⟨u, q0, q1, q2, hu, ha, hn, ((s.trapEntry_handler z h).trans he).trans ((hmod _).trans (State.modMe_congr _ ?_))⟩
  rw [hme]

section
variable {s : State} (z : Cause) (h : s.here.evecDefault = false)
include h

theorem State.me_trapEntry : ∃ q0 q1 q2, q0.addr = lineOf s.here.evec ∧ q0.annul = false
    ∧ (s.trapEntry z).me = { s.me.saved z with q0 := q0, q1 := q1, q2 := q2, p := 0xFFFF } := by
  obtain ⟨u, q0, q1, q2, -, ha, hn, he⟩ := State.trapEntry_enters z h
  exact ⟨q0, q1, q2, ha, hn, by rw [he, State.me_modMe]⟩

theorem State.trapEntry_issuer : (s.trapEntry z).core = s.core ∧ (s.trapEntry z).ctx = s.ctx := by
  obtain ⟨u, q0, q1, q2, hu, -, -, he⟩ := State.trapEntry_enters z h
  rw [he]
  exact ⟨hu.core, hu.ctx⟩

theorem State.ipend_trapEntry : (s.trapEntry z).here.ipend = s.here.ipend := by
  obtain ⟨u, q0, q1, q2, hu, -, -, he⟩ := State.trapEntry_enters z h
  rw [he, State.here_modMe]
  change (u.coreAt u.core).ipend = _
  rw [hu.core, State.modMe_core, hu.coreAt_eq s.core Core.ipend fun _ _ _ _ _ _ => rfl]
  exact (congrArg Core.ipend (s.here_modMe fun x => x.saved z)).trans rfl

end

/-- Whether a boundary is ready does not change with a retirement (R88, R186). -/
theorem State.passed.boundaryReady {s t : State} (h : s.passed t) : t.boundaryReady = s.boundaryReady := by
  have hdue : t.me.allRead = s.me.allRead := by
    rw [show t.me = _ from h.me]
    rfl
  rw [State.boundaryReady, State.boundaryReady, hdue, h.ctx, h.here_eq Core.cycle fun _ _ _ _ _ _ _ => rfl,
    h.here_eq Core.vec fun _ _ _ _ _ _ _ => rfl]

theorem exec_trap_of_ready {s : State} (hb : s.boundaryReady = true) (code : BitVec 11) :
    exec (.trap code) s = .next (s.retire.raiseAfter { code := 0x20, detail := code.toNat }) := by
  simp [exec, execTrap, hb]

theorem exec_trap_waits {s : State} (hb : s.boundaryReady = false) (code : BitVec 11) : exec (.trap code) s = .next s := by
  simp [exec, execTrap, hb]

theorem State.raiseAfter_of_sigFault {s : State} (h : s.me.sigFault ≠ none) (z : Cause) : s.raiseAfter z = s :=
  if_pos (Option.isSome_iff_ne_none.2 h)

/-- At a ready boundary outside a trap, with no wrong signature, a cause after retirement is taken at once (R113). -/
theorem State.raiseAfter_enters {s : State} (hs : s.me.sigFault = none) (hb : s.boundaryReady = true) (hi : s.me.intrap = false)
    (z : Cause) : s.raiseAfter z = s.trapEntry z := by
  simp [State.raiseAfter, hs, hb, s.raise_entry z hb hi]

/-- TRAP at a ready boundary outside a trap: the entry is made from the context behind it (R113). -/
theorem exec_trap_enters {s : State} {code : BitVec 11} (he : s.me.eret ≠ 1) (hb : s.boundaryReady = true) (hi : s.me.intrap = false)
    (hs : s.retire.me.sigFault = none) :
    exec (.trap code) s = .next (s.retire.trapEntry { code := 0x20, detail := code.toNat }) := by
  have hp := s.retire_passed he
  have hi' : s.retire.me.intrap = false := by rw [Ctx.intrap, hp.cstat]; exact hi
  rw [exec_trap_of_ready hb, State.raiseAfter_enters hs (hp.boundaryReady.trans hb) hi']

/-- The context that a taken interrupt enters its handler from (R125, R225). -/
def State.bitTaken (s : State) (b : Nat) : State :=
  s.modHere (fun x => { x with ipend := x.ipend &&& ~~~(1#64 <<< b), xch := x.xch.withdraw })

/-- The state from which TRAP_ENTRY enters the handler: an interrupt of context 0 has been consumed (R126, R225). -/
def State.entryFrom (s : State) (c k : Nat) (cause : Word) : State :=
  if bits cause 7 0 = 0x30 ∧ k = 0 then (s.at_ c k).bitTaken (bits cause 63 16) else s.at_ c k

/-- Its cause: an interrupt has no address (R24). -/
def entryCause (k : Nat) (cause addr : Word) : Cause :=
  { code := bits cause 7 0, detail := bits cause 63 16, addr := if bits cause 7 0 = 0x30 ∧ k = 0 then 0 else addr }

theorem exec_trapEntry_enters {s : State} {c k : Nat} (cause addr : Word) (hb : (s.at_ c k).boundaryReady = true)
    (hi : (s.ctxAt c k).intrap = false) :
    exec (.trapEntry c k cause addr) s = .next ((s.entryFrom c k cause).trapEntry (entryCause k cause addr)) := by
  have hi' : (s.at_ c k).me.intrap = false := hi
  by_cases hq : bits cause 7 0 = 0x30 ∧ k = 0
  · obtain ⟨h30, rfl⟩ := hq
    simp [exec, execTrapEntry, State.entryFrom, entryCause, h30, hi, hb, State.takeBit, State.bitTaken]
  · have hn : ¬((bits cause 7 0 = 0x30 ∧ k = 0) ∧ (s.at_ c k).me.intrap = false) := fun h => hq h.1
    simp [exec, execTrapEntry, State.entryFrom, entryCause, hq, hb, hi, (s.at_ c k).raise_entry _ hb hi']

theorem State.entryFrom_issuer (s : State) (c k : Nat) (cause : Word) :
    (s.entryFrom c k cause).core = c ∧ (s.entryFrom c k cause).ctx = k ∧ (s.entryFrom c k cause).me = s.ctxAt c k := by
  unfold State.entryFrom
  split
  · exact ⟨rfl, rfl, (State.sameIssuer_modHere rfl).me⟩
  · exact ⟨rfl, rfl, rfl⟩

theorem State.here_entryFrom (s : State) (c k : Nat) (cause : Word) :
    (s.entryFrom c k cause).here.evec = (s.coreAt c).evec ∧ (s.entryFrom c k cause).here.evecDefault = (s.coreAt c).evecDefault
      ∧ (s.entryFrom c k cause).here.ipend = if bits cause 7 0 = 0x30 ∧ k = 0
          then (s.coreAt c).ipend &&& ~~~(1#64 <<< bits cause 63 16) else (s.coreAt c).ipend := by
  unfold State.entryFrom
  split
  · simp [State.bitTaken]
  · exact ⟨rfl, rfl, rfl⟩

/-- An alarm that is not masked: IPEND bit 6, IALARM disarmed, and event bit 4 (R120, R125). -/
theorem exec_alarm (s : State) (c : Nat) : exec (.alarm c) s =
    .next (s.modCore c (fun x => if x.imask.getLsbD 6 then { x.raiseIrq 6 with ialarm := 0 } else x)) := rfl

theorem Core.raiseIrq_of_unmasked {x : Core} {b : Nat} (h : x.imask.getLsbD b = true) (hb : b ≠ 4) :
    x.raiseIrq b = { x with ipend := x.ipend ||| (1#64 <<< b) }.latchEvent 4 := by
  simp [Core.raiseIrq, h, hb]

/-- Settles O7: TRAP and TRAP_ENTRY are the trap entry from the state that each leaves, and ALARM is one change of its core. -/
theorem trapInstructionAndEvents : Obligations.TrapInstructionAndEvents := by
  refine ⟨fun s code he => ⟨fun hb hi hd hs => ?_, fun hb hs => ?_, fun hb => exec_trap_waits hb code⟩, fun s c k cause addr hb hi hd => ?_,
    fun s c => ⟨_, exec_alarm s c, ?_⟩⟩
  · have hp := s.retire_passed he
    obtain ⟨hq0, hq1⟩ := hp.queue
    have hevec : s.retire.here.evec = s.here.evec := hp.here_eq Core.evec fun _ _ _ _ _ _ _ => rfl
    have hdef : s.retire.here.evecDefault = false := (hp.here_eq Core.evecDefault fun _ _ _ _ _ _ _ => rfl).trans hd
    obtain ⟨q0, q1, q2, ha, hn, hme⟩ := State.me_trapEntry { code := 0x20, detail := code.toNat } hdef
    refine ⟨_, exec_trap_enters he hb hi hs, ?_⟩
    rw [hme]
    refine ⟨rfl, rfl, congrArg QEnt.save hq0, congrArg QEnt.save hq1, rfl, ha.trans (by rw [hevec]), hn, rfl, ?_, fun r => ?_⟩
    · change cstatEntry s.retire.me = cstatEntry s.me
      rw [cstatEntry, Ctx.num, Ctx.priv, Ctx.ie, hp.cstat]
      rfl
    · rw [State.g, hme]
      exact hp.g r
  · rw [exec_trap_of_ready hb, State.raiseAfter_of_sigFault hs]
  · obtain ⟨hcore, hctx, hfrom⟩ := s.entryFrom_issuer c k cause
    obtain ⟨hevec, hdef, hip⟩ := s.here_entryFrom c k cause
    obtain ⟨q0, q1, q2, ha, -, hme⟩ := State.me_trapEntry (entryCause k cause addr) (hdef.trans hd)
    obtain ⟨htc, htk⟩ := State.trapEntry_issuer (entryCause k cause addr) (hdef.trans hd)
    have hipend := State.ipend_trapEntry (entryCause k cause addr) (hdef.trans hd)
    rw [State.me, htc, htk, hcore, hctx, hfrom] at hme
    rw [State.here, htc, hcore, hip] at hipend
    refine ⟨_, exec_trapEntry_enters cause addr hb hi, ?_⟩
    rw [hme, hipend]
    refine ⟨rfl, rfl, rfl, rfl, rfl, ha.trans (by rw [hevec]), fun h => ?_, fun h30 hk => ?_⟩
    · have hq : ¬(bits cause 7 0 = 0x30 ∧ k = 0) := by omega
      exact ⟨if_neg hq, if_neg hq⟩
    · exact ⟨if_pos ⟨h30, hk⟩, if_pos ⟨h30, hk⟩⟩
  · rw [State.ctxAt, State.coreAt_modCore_self]
    by_cases hm : (s.coreAt c).imask.getLsbD 6 = true
    · rw [if_pos hm, if_pos hm]
      refine ⟨rfl, ?_, ?_⟩
      · rw [Core.raiseIrq_of_unmasked hm (by decide)]
        rfl
      · change (((s.coreAt c).raiseIrq 6).ctxAt 0).latch = _
        rw [Core.ctxAt_raiseIrq, hm]
        exact Ctx.latch_latched_job _ _
    · rw [if_neg hm, if_neg hm]

/-! ### ERET and the return (R114) -/

theorem State.privileged_of {s : State} (hp : s.me.priv = true) (f : State → State) : s.privileged f = f s := if_pos hp

/-- Retirement outside a return, of an entry that is not annulled: the queue moves up behind it (R17, R100). -/
theorem State.retireWith_eq {s : State} (he : s.me.eret = 0) (ha : s.me.q0.annul = false) (taken : Bool) (target : Option Word)
    (n : Nullify) :
    s.retireWith taken target n = (s.thirdEnt target).1.modMe (fun _ => s.me.jumped (nullifies taken n) (s.thirdEnt target).2) := by
  have hne : s.me.eret ≠ 1 := by omega
  have hm := (s.thirdEnt_fetch target).me
  cases target with
  | none | some =>
    simp only [State.retireWith, hne, if_false, ha, Bool.not_false, Bool.true_and, State.thirdEnt] at hm ⊢
    exact State.modMe_congr _ (by rw [hm]; rfl)

theorem exec_eret_begins {s : State} (hp : s.me.priv = true) (he : s.me.eret = 0) (n : Nullify) :
    exec (.eret n) s = .next ((s.retireWith true none n).modMe (fun x => { x with eret := 2, q2 := {} })) := by
  simp [exec, execEret, State.privileged_of hp, he]

theorem exec_eret_of_eret {s : State} (hp : s.me.priv = true) (he : s.me.eret ≠ 0) (n : Nullify) :
    exec (.eret n) s = .next s.illegal := by
  simp [exec, execEret, State.privileged_of hp, he]

theorem State.restoreEnt_fetch {s0 s : State} (h : s0.fetchOnly s) (c k : Nat) (v : Word) (before : Option QEnt) (t : Bool) :
    s0.fetchOnly (s.restoreEnt c k v before t).1 := by
  unfold State.restoreEnt
  cases before with
  | none => exact State.fetch_fetch _ _ _ h
  | some b =>
    dsimp only
    split
    · exact State.formSucc_fetch _ _ _ h
    · split
      · exact h
      · exact State.fetch_fetch _ _ _ h

/-- An entry restored from an EPCQ that is not 0, or as the first one, has its address and its annul bit (R114, R130). -/
theorem State.restoreEnt_saved (s : State) (c k : Nat) (v : Word) (before : Option QEnt) (t : Bool)
    (h : before = none ∨ v &&& ~~~(1#64) ≠ 0) :
    (s.restoreEnt c k v before t).2.addr = v &&& ~~~(1#64) ∧ (s.restoreEnt c k v before t).2.annul = v.getLsbD 0 := by
  unfold State.restoreEnt
  cases before with
  | none => exact ⟨rfl, rfl⟩
  | some b =>
    have hv : v &&& ~~~(1#64) ≠ 0 := h.resolve_left (by simp)
    dsimp only
    rw [if_neg hv]
    split
    · exact ⟨rfl, rfl⟩
    · exact ⟨rfl, rfl⟩

/-- The queue restored from the saved registers of a context (R114). -/
structure Ctx.Restores (x : Ctx) (q0 q1 q2 : QEnt) : Prop where
  addr0 : q0.addr = x.epcq0 &&& ~~~(1#64)
  annul0 : q0.annul = x.epcq0.getLsbD 0
  entry1 : x.epcq1 &&& ~~~(1#64) ≠ 0 → q1.addr = x.epcq1 &&& ~~~(1#64) ∧ q1.annul = x.epcq1.getLsbD 0
  entry2 : x.epcq2 &&& ~~~(1#64) ≠ 0 → q2.addr = x.epcq2 &&& ~~~(1#64) ∧ q2.annul = x.epcq2.getLsbD 0

theorem State.restoreQueue_restores (s : State) (x : Ctx) :
    let r := s.restoreQueue s.core s.ctx x.epcq0 x.epcq1 x.epcq2 x.marks
    s.fetchOnly r.1 ∧ x.Restores r.2.1 r.2.2.1 r.2.2.2 := by
  let r0 := s.restoreEnt s.core s.ctx x.epcq0 none (x.marks.getLsbD 0)
  let r1 := r0.1.restoreEnt s.core s.ctx x.epcq1 (some r0.2) (x.marks.getLsbD 1)
  let r2 := r1.1.restoreEnt s.core s.ctx x.epcq2 (some r1.2) (x.marks.getLsbD 2)
  have h0 : r0.2.addr = _ ∧ r0.2.annul = _ := s.restoreEnt_saved _ _ _ _ _ (.inl rfl)
  have h1 (h : x.epcq1 &&& ~~~(1#64) ≠ 0) : r1.2.addr = _ ∧ r1.2.annul = _ := r0.1.restoreEnt_saved _ _ _ _ _ (.inr h)
  have h2 (h : x.epcq2 &&& ~~~(1#64) ≠ 0) : r2.2.addr = _ ∧ r2.2.annul = _ := r1.1.restoreEnt_saved _ _ _ _ _ (.inr h)
  have hf : s.fetchOnly r2.1 :=
    State.restoreEnt_fetch (State.restoreEnt_fetch (State.restoreEnt_fetch (.refl s) _ _ _ _ _) _ _ _ _ _) _ _ _ _ _
  have hr : s.restoreQueue s.core s.ctx x.epcq0 x.epcq1 x.epcq2 x.marks = (r2.1, r0.2, r1.2, r2.2) := rfl
  rw [hr]
  exact ⟨hf, h0.1, h0.2, h1, h2⟩

/-- Retirement of the second delay slot of an ERET is the return (R114). -/
theorem State.retire_returns {s : State} (he : s.me.eret = 1) :
    ∃ u q0 q1 q2 f d, s.fetchOnly u ∧ s.me.Restores q0 q1 q2
      ∧ s.retire = u.modMe (fun _ => { s.me.returned q0 q1 q2 with sigFault := f, decFlip := d }) := by
  obtain ⟨hu, hq⟩ := s.restoreQueue_restores s.me
  let m := sigMove s.me.q0 s.me.sigAfter (s.restoreQueue s.core s.ctx s.me.epcq0 s.me.epcq1 s.me.epcq2 s.me.marks).2.1 0
  refine ⟨_, _, _, _, m.fault, m.flip, hu, hq, ?_⟩
  unfold State.retire State.retireWith
  simp only [he, if_true]
  exact State.modMe_congr _ (by rw [hu.me])

/-- Settles O8: ERET is a transfer without a target, and the return is the retirement of its second delay slot. -/
theorem returnFromException : Obligations.ReturnFromException := by
  refine ⟨fun s n hp ha => ⟨fun he => ?_, fun he => exec_eret_of_eret hp he n⟩, fun s he => ?_⟩
  · have hme : ((s.retireWith true none n).modMe (fun x => { x with eret := 2, q2 := {} })).me
        = { s.me.jumped (nullifies true n) (s.thirdEnt none).2 with eret := 2, q2 := {} } := by
      rw [State.me_modMe, State.retireWith_eq he ha, State.me_modMe]
    refine ⟨_, exec_eret_begins hp he n, ?_⟩
    rw [hme, ← nullifies_taken]
    exact ⟨rfl, rfl, rfl, rfl, rfl, fun r => by rw [State.g, hme]; rfl⟩
  · obtain ⟨u, q0, q1, q2, f, d, -, hq, ht⟩ := State.retire_returns he
    have hme : s.retire.me = { s.me.returned q0 q1 q2 with sigFault := f, decFlip := d } := by rw [ht, State.me_modMe]
    dsimp only
    rw [hme]
    exact ⟨hq.addr0, hq.annul0, hq.entry1, hq.entry2, rfl, rfl, rfl, rfl, fun r => by rw [State.g, hme]; rfl⟩

/-! ### Identities, the clock and waits for a step (R116, R117) -/

/-- WAIT.ST whose step has come delivers the lateness (R117). -/
theorem exec_waitSt_of_reached {s : State} {a c : GReg} {n : BitVec 11}
    (h : (s.here.taskstep + s.g c + n.setWidth 64).toNat ≤ (s.stepOf s.core).toNat) :
    exec (.waitSt a c n) s = .next (s.result a (s.stepOf s.core - (s.here.taskstep + s.g c + n.setWidth 64))) := by
  simp only [exec, execWaitSt, h, if_true]

theorem exec_waitSt_of_ahead {s : State} {a c : GReg} {n : BitVec 11}
    (h : (s.stepOf s.core).toNat < (s.here.taskstep + s.g c + n.setWidth 64).toNat) :
    exec (.waitSt a c n) s = .next (s.hold (.waitSt a c n) (s.here.taskstep + s.g c + n.setWidth 64)) := by
  simp only [exec, execWaitSt, Nat.not_le.2 h, if_false]

theorem exec_waitStComplete_of_reached {s : State} {k j : Nat} {a c : GReg} {n : BitVec 11} (hw : (s.ctxAt k j).wait = some (.waitSt a c n))
    (h : (s.ctxAt k j).aux.toNat ≤ (s.stepOf k).toNat) :
    exec (.waitStComplete k j) s = .next ((s.at_ k j).result a (s.stepOf k - (s.ctxAt k j).aux)) := by
  have hstep : (s.at_ k j).stepOf k = s.stepOf k := rfl
  simp [exec, execWaitStComplete, hw, hstep, h]

/-- A retirement ends the wait of its context (R13). -/
theorem State.passed.wait {s t : State} (h : s.passed t) : t.me.wait = none := by
  rw [show t.me = _ from h.me]
  rfl

theorem State.passed.ctxAt_self {s t : State} (h : s.passed t) : t.ctxAt s.core s.ctx = t.me := by
  rw [State.me, h.core, h.ctx]

/-- Settles O12: each is one result, WAIT.ST's in the step that has reached its target. -/
theorem identitiesAndWaitForStep : Obligations.IdentitiesAndWaitForStep := by
  refine ⟨fun s a he => ?_, fun s a c n he => ⟨fun h => ⟨_, exec_waitSt_of_reached h, s.result_gives a _ he⟩, exec_waitSt_of_ahead,
    fun k j hw hek h => ?_⟩⟩
  · exact ⟨⟨_, rfl, s.resultIn_gives 2 a _ he⟩, ⟨_, rfl, s.resultIn_gives 2 a _ he⟩, ⟨_, rfl, s.resultIn_gives 2 a _ he⟩,
      ⟨_, rfl, s.resultIn_gives 2 a _ he⟩, ⟨_, rfl, s.resultIn_gives 2 a _ he⟩, ⟨_, rfl, s.resultIn_gives 2 a _ he⟩⟩
  · have hg := (s.at_ k j).result_gives a (s.stepOf k - (s.ctxAt k j).aux) hek
    exact ⟨_, exec_waitStComplete_of_reached hw h, hg, (congrArg Ctx.wait hg.1.ctxAt_self).trans hg.1.wait⟩

/-! ### WFE, PARK and IFENCE (R119 to R121) -/

theorem exec_wfe_of_latch {s : State} (h : s.me.latch ≠ 0) (a : GReg) : exec (.wfe a) s = .next (s.takeLatch a) :=
  congrArg Host.Outcome.next (if_pos h)

theorem exec_wfe_waits {s : State} (h : s.me.latch = 0) (a : GReg) : exec (.wfe a) s = .next (s.hold (.wfe a) 0) :=
  congrArg Host.Outcome.next (if_neg (not_not_intro h))

/-- Taking the latch is one result behind its clearing (R120). -/
theorem State.takeLatch_gives {s : State} (he : s.me.eret ≠ 1) (a : GReg) :
    (s.modMe (fun x => { x with latch := 0 })).gives (s.takeLatch a) a (s.me.latch.setWidth 64) :=
  State.result_gives _ a _ (by rw [State.me_modMe]; exact he)

theorem State.latch_takeLatch {s : State} (he : s.me.eret ≠ 1) (a : GReg) : (s.takeLatch a).me.latch = 0 := by
  have hkeep (x : Ctx) (v : Word) : (x.setReg a v).latch = x.latch := by
    unfold Ctx.setReg
    split
    · rfl
    · rfl
  rw [show (s.takeLatch a).me = _ from (State.takeLatch_gives he a).1.me]
  change ((s.modMe (fun x => { x with latch := 0 })).setG a _).me.latch = 0
  rw [State.me_setG, hkeep, State.me_modMe]

theorem exec_wfeTimeoutEvent (s : State) (k j : Nat) :
    exec (.wfeTimeoutEvent k j) s = .next (s.modCtx k j (fun x => { x with latch := x.latch ||| 64 })) := rfl

theorem exec_ifence (s : State) : exec .ifence s = .next (s.retire.rereadQueue (lineOf s.me.q0.addr)) := rfl

theorem exec_wfeComplete_of_latch {s : State} {k j : Nat} {a : GReg} (hw : (s.ctxAt k j).wait = some (.wfe a)) (h : (s.ctxAt k j).latch ≠ 0) :
    exec (.wfeComplete k j) s = .next ((s.at_ k j).takeLatch a) := by
  simp only [exec, execWfeComplete, State.me_at, hw]
  exact congrArg Host.Outcome.next (if_pos h)

section
variable {s : State} (hp : s.me.priv = true)
include hp

theorem exec_park (hk : s.ctx = 0) (hh : s.here.helpersIdle = true) : exec .park s = .next (
    if s.here.ipend ≠ 0 && s.here.vec.queue.isEmpty && s.here.mat.queue.isEmpty then s.retire
    else (s.modHere (fun x => { x with parked := true })).hold .park 0) := by
  simp [exec, execPark, State.privileged_of hp, hk, hh]

theorem exec_park_of_awake (hk : s.ctx = 0) (hh : s.here.helpersIdle = true) (hv : s.here.vec.queue = []) (hm : s.here.mat.queue = [])
    (hi : s.here.ipend ≠ 0) : exec .park s = .next s.retire :=
  (exec_park hp hk hh).trans (congrArg Host.Outcome.next (if_pos (by rw [hv, hm]; simpa using hi)))

theorem exec_park_parks (hk : s.ctx = 0) (hh : s.here.helpersIdle = true)
    (h : s.here.ipend = 0 ∨ s.here.vec.queue ≠ [] ∨ s.here.mat.queue ≠ []) :
    exec .park s = .next ((s.modHere (fun x => { x with parked := true })).hold .park 0) := by
  refine (exec_park hp hk hh).trans (congrArg Host.Outcome.next (if_neg fun hc => ?_))
  simp only [Bool.and_eq_true, decide_eq_true_eq, List.isEmpty_iff] at hc
  obtain ⟨⟨hi, hv⟩, hm⟩ := hc
  exact h.elim hi (fun h => h.elim (· hv) (· hm))

theorem exec_park_illegal (h : s.ctx ≠ 0 ∨ s.here.helpersIdle = false) : exec .park s = .next s.illegal := by
  simp [exec, execPark, State.privileged_of hp, h]

end

theorem exec_parkWake_of_awake {s : State} {k : Nat} (hw : (s.ctxAt k 0).wait = some .park) (hv : (s.coreAt k).vec.queue = [])
    (hm : (s.coreAt k).mat.queue = []) (hi : (s.coreAt k).ipend ≠ 0 ∨ (s.ctxAt k 0).aux ≠ 0) :
    exec (.parkWake k) s = .next ((s.at_ k 0).modHere (fun x => { x with parked := false })).retire := by
  simp only [exec, execParkWake, State.me_at, State.here_at, hw, hv, hm]
  exact congrArg Host.Outcome.next (if_pos (by simpa using hi))

/-- What reading the lines of the queue again leaves: the address of the instruction at Q0 and every register (R119). -/
structure State.Reread (s t : State) : Prop where
  addr : t.me.q0.addr = s.me.q0.addr
  regs : ∀ r, t.me.reg r = s.me.reg r

theorem State.Reread.trans {s t u : State} (h : s.Reread t) (k : t.Reread u) : s.Reread u :=
  ⟨k.addr.trans h.addr, fun r => (k.regs r).trans (h.regs r)⟩

theorem State.reread_of_me {s t : State} (h : t.me = s.me) : s.Reread t := ⟨by rw [h], fun _ => by rw [h]⟩

theorem State.reread_modMe (s : State) {f : Ctx → Ctx} (hq : (f s.me).q0.addr = s.me.q0.addr) (hg : (f s.me).g = s.me.g) :
    s.Reread (s.modMe f) := by
  refine ⟨by rw [State.me_modMe, hq], fun r => ?_⟩
  rw [State.me_modMe, Ctx.reg, hg, Ctx.reg]

theorem State.formAgain_me (s : State) (before e : QEnt) : (s.formAgain before e).1.me = s.me := by
  unfold State.formAgain
  split
  · exact (State.formSucc_fetch _ _ _ (.refl s)).me
  · rfl

theorem State.reform_reread (s : State) : s.Reread s.reform := by
  have h1 := s.formAgain_me s.me.q0 s.me.q1
  have h2 := (s.formAgain s.me.q0 s.me.q1).1.formAgain_me (s.formAgain s.me.q0 s.me.q1).2 s.me.q2
  exact (State.reread_of_me (h2.trans h1)).trans (State.reread_modMe _ rfl rfl)

theorem State.rereadQueue_reread (s : State) (own : Word) : s.Reread (s.rereadQueue own) := by
  refine State.Reread.trans (each_inv (fun t : State => s.Reread t) [0, 1, 2] s _ (fun t i ht => ht.trans ?_) (State.reread_of_me rfl))
    (State.reform_reread _)
  extract_lets x e put
  have hput (u : State) (r : LineRead) : u.Reread (put u r) := by
    by_cases h0 : i = 0
    · simp only [put, h0, if_true]
      exact u.reread_modMe rfl rfl
    by_cases h1 : i = 1
    · simp only [put, h1, if_true]
      exact u.reread_modMe rfl rfl
    · simp only [put, h0, h1, if_false]
      exact u.reread_modMe rfl rfl
  refine iteInduction (fun _ => State.reread_of_me rfl) fun _ => ?_
  refine iteInduction (fun _ => hput _ _) fun _ => ?_
  refine iteInduction (fun _ => hput _ _) fun _ => ?_
  exact (State.reread_of_me (State.fetch_fetch _ _ _ (.refl t)).me).trans (hput _ _)

/-- Settles O13: the latch is one result, PARK a retirement or a wait, and IFENCE a retirement and another reading of the queue. -/
theorem eventWaitsAndPark : Obligations.EventWaitsAndPark := by
  refine ⟨fun s a he => ⟨fun h => ⟨_, exec_wfe_of_latch h a, State.latch_takeLatch he a, State.takeLatch_gives he a⟩,
    fun h => exec_wfe_waits h a, fun k j => ⟨_, exec_wfeTimeoutEvent s k j, congrArg Ctx.latch (s.ctxAt_modCtx_self _ _ _)⟩, fun k j hw hl hek => ?_⟩, fun s he =>
    ⟨fun hp hk hh hv hm hi => ⟨_, exec_park_of_awake hp hk hh hv hm hi, s.retire_passed he⟩, exec_park_parks, exec_park_illegal,
      fun k hw hek hv hm hi => ?_, ?_⟩⟩
  · have hg := State.takeLatch_gives (s := s.at_ k j) hek a
    have hme : ((s.at_ k j).takeLatch a).ctxAt k j = ((s.at_ k j).takeLatch a).me := hg.1.ctxAt_self
    have hl0 := State.latch_takeLatch (s := s.at_ k j) hek a
    exact ⟨_, exec_wfeComplete_of_latch hw hl, (congrArg Ctx.latch hme).trans hl0, (congrArg Ctx.wait hme).trans hg.1.wait, hg⟩
  · have hsame : (s.at_ k 0).SameIssuer ((s.at_ k 0).modHere (fun x => { x with parked := false })) := State.sameIssuer_modHere rfl
    have hp := hsame.retire_passed hek
    have hpark : ((s.at_ k 0).modHere (fun x => { x with parked := false })).retire.here.parked = false :=
      (hp.here_eq Core.parked fun _ _ _ _ _ _ _ => rfl).trans (congrArg Core.parked (State.here_modHere _ _))
    rw [State.here, hp.core] at hpark
    exact ⟨_, exec_parkWake_of_awake hw hv hm hi, hpark, (congrArg Ctx.wait hp.ctxAt_self).trans hp.wait, hp⟩
  · have hp := s.retire_passed he
    have hr := s.retire.rereadQueue_reread (lineOf s.me.q0.addr)
    exact ⟨_, exec_ifence s, rfl, hr.addr.trans (congrArg QEnt.addr hp.queue.1), fun r => (hr.regs r).trans (hp.g r)⟩

end Sys2Proof.Machine
end

section
/-! PROOFS. The statement on INJECT (spec/05 R122). -/

namespace Sys2Proof.Machine

/-! ### INJECT (R122) -/

/-- A change beside the issuing context, and one result behind it. -/
theorem State.SameIssuer.result_gives {s u : State} (h : s.SameIssuer u) (he : s.me.eret ≠ 1) (a : GReg) (v : Word) :
    u.gives (u.result a v) a v := State.result_gives u a v (h.eret_ne he)

section
variable {s : State} {a c : GReg} {bit : BitVec 6} {dbl : Bool} (hp : s.me.priv = true)
include hp

theorem exec_injectAcc_of_room (hk : s.ctx = 0) (ha : s.here.mat.accmap.getLsbD (bits (s.g c) 3 0) = true) (hr : s.here.matRoom = true) :
    exec (.injectAcc a c bit dbl) s
      = .next ((s.queueMatrix { instr := .injectAcc a c bit dbl, ops := [s.g c], mirror := .off, pc := s.me.q0.addr }).result a 1) := by
  simp [exec, execInjectAcc, State.privileged_of hp, hk, ha, hr]

theorem exec_injectAcc_illegal (h : s.ctx ≠ 0 ∨ s.here.mat.accmap.getLsbD (bits (s.g c) 3 0) = false) :
    exec (.injectAcc a c bit dbl) s = .next s.illegal := by
  simp only [exec, execInjectAcc, State.privileged_of hp]
  exact congrArg Host.Outcome.next (if_pos (by simpa using h))

theorem exec_injectLoc_of_fault {z : Cause} (h : s.checkLocal s.core (s.g c).toNat 8 8 false = some z) :
    exec (.injectLoc a c bit dbl) s = .next (s.raise z) := by
  simp [exec, execInjectLoc, State.privileged_of hp, h]

theorem exec_injectLoc_tcm (ha : (s.g c).toNat % 8 = 0) (h : (s.g c).toNat < 0x30000) :
    exec (.injectLoc a c bit dbl) s = .next (
      if s.here.loc.ecc.badWord ((s.g c).toNat / 8) then s.raise { code := 0x0B, addr := s.g c }
      else (s.modLoc s.core (fun l => { l with ecc := eccFlip l.ecc (s.g c).toNat (injectMask bit dbl) })).result a 1) := by
  have hc : s.checkLocal s.core (s.g c).toNat 8 8 false = none :=
    s.checkLocal_tcm s.core (z := .d) false ha (by rw [sizeBytes]; omega)
  simp [exec, execInjectLoc, State.privileged_of hp, hc, h]

theorem exec_injectLoc_well {w : Nat} (h : 0x30000 ≤ (s.g c).toNat) (hc : s.checkLocal s.core (s.g c).toNat 8 8 false = none)
    (hw : w = bankWell (s.here.bankmap ((s.g c).toNat / 0x10000 - 4)))
    (hb : (s.well s.core w).ecc.badWord ((s.g c).toNat % 0x10000 / 8) = false) :
    exec (.injectLoc a c bit dbl) s = .next ((s.modWell s.core w (fun v =>
      { v with ecc := eccFlip v.ecc ((s.g c).toNat % 0x10000) (injectMask bit dbl) })).result a 1) := by
  subst hw
  simp [exec, execInjectLoc, State.privileged_of hp, hc, Nat.not_lt.2 h, hb]

theorem exec_injectDec : exec (.injectDec a bit dbl) s
    = .next ((s.setG a 1).retireWith false none .plain ((injectMask bit dbl).setWidth 16)) := by
  simp [exec, execInjectDec, State.privileged_of hp]

end

/-- INJECT.SLICE on a word without a resident sector: the page is waited for, the word cannot be read, or 0 is delivered
(R122). -/
def State.injectAbsent (s : State) (h : Home) (p : Word) (a : GReg) : State :=
  if s.mustWait h then
    let (s, r) := s.openFault h
    s.onAns r p (fun s _ => s)
  else if h.ext.back == 0 && s.hbmEcc.badWord ((h.hbm + offOf p % 256) / 8) then s.raise { code := 0x0B, addr := p }
  else s.result a 0

/-- INJECT.SLICE behind its checks (R122). -/
def State.injectAt (s : State) (p : Word) (a : GReg) (m : BitVec 64) : State :=
  match s.homeOf (idOf p) (offOf p) with
  | none => s.result a 0
  | some h =>
    match ((s.die h.die).slice h.slot).find h.set h.key with
    | none => s.injectAbsent h p a
    | some l =>
      if !l.valid.getLsbD (offOf p % 256 / 32) then s.injectAbsent h p a
      else if l.ecc.badWord (offOf p % 256 / 8) then s.raise { code := 0x0B, addr := p }
      else (s.putLine h { l with ecc := eccFlip l.ecc (offOf p % 256) m }).result a 1

/-- The checks of INJECT.SLICE: those of a load, and where the address names a core also those of that core (R122, R230). -/
def State.injectCheck (s : State) (p : Word) : Option Cause :=
  (s.checkGlobal s.core s.cid p 8).orElse (fun _ => if idOf p = aliasId then s.aliasFault p else none)

theorem exec_injectSlice {s : State} (hp : s.me.priv = true) (a c : GReg) (bit : BitVec 6) (dbl : Bool) :
    exec (.injectSlice a c bit dbl) s = .next ((s.obbUse s.core (idOf (s.g c))).checked (s.injectCheck (s.g c))
      (fun u => u.injectAt (s.g c) a (injectMask bit dbl))) := by
  simp only [exec, execInjectSlice, State.privileged_of hp]
  rfl

section
variable {s u : State} (hu : s.obbOnly u)
include hu

theorem State.obbOnly.dies : u.dies = s.dies := by rw [hu.1]

theorem State.obbOnly.die (d : Nat) : u.die d = s.die d := by rw [State.die, hu.dies, State.die]

theorem State.obbOnly.homeOf (id off : Nat) : u.homeOf id off = s.homeOf id off := hu.same.1.homeOf id off

variable {p : Word} {a : GReg} {m : BitVec 64}

/-- Outside every object nothing is resident. -/
theorem State.obbOnly.injectAt_homeless (hh : s.homeOf (idOf p) (offOf p) = none) : u.injectAt p a m = u.result a 0 := by
  rw [State.injectAt, hu.homeOf, hh]

variable {h : Home} (hh : s.homeOf (idOf p) (offOf p) = some h)
include hh

theorem State.obbOnly.injectAt_resident {l : SliceLine} (hl : ((s.die h.die).slice h.slot).find h.set h.key = some l)
    (hv : l.valid.getLsbD (offOf p % 256 / 32) = true) : u.injectAt p a m =
      if l.ecc.badWord (offOf p % 256 / 8) then u.raise { code := 0x0B, addr := p }
      else (u.putLine h { l with ecc := eccFlip l.ecc (offOf p % 256) m }).result a 1 := by
  simp only [State.injectAt, hu.homeOf, hh, hu.die, hl, hv, Bool.not_true, Bool.false_eq_true, if_false]

theorem State.obbOnly.injectAt_absent (hl : ((s.die h.die).slice h.slot).find h.set h.key = none) (hw : s.mustWait h = false) :
    u.injectAt p a m = if h.ext.back = 0 ∧ s.hbmEcc.badWord ((h.hbm + offOf p % 256) / 8) = true then u.raise { code := 0x0B, addr := p }
      else u.result a 0 := by
  have hwait : u.mustWait h = false := by rw [State.mustWait, hu.die]; exact hw
  have hecc : u.hbmEcc = s.hbmEcc := by rw [hu.1]
  simp only [State.injectAt, hu.homeOf, hh, hu.die, hl, State.injectAbsent, hwait, hecc, Bool.and_eq_true, beq_iff_eq,
    Bool.false_eq_true, if_false]

end

/-- Inside a line, with the next head in Q1, the flips that an INJECT.DEC orders wait for the next decode word (R122). -/
theorem sigMove_flip {q next : QEnt} {l : Line} (p flip : BitVec 16) (hl : q.line = .ok l) (hn : next.addr = q.addr + 2)
    (hi : headIdx q.addr + 1 < lineH l) : (sigMove q p next flip).flip = flip := by
  simp [sigMove, hl, hn, hi]

theorem State.decFlip_retireWith {s : State} (he : s.me.eret ≠ 1) (f : BitVec 16) {l : Line} (hl : s.me.q0.line = .ok l)
    (hn : s.me.q1.addr = s.me.q0.addr + 2) (hi : headIdx s.me.q0.addr + 1 < lineH l) :
    (s.retireWith false none .plain f).me.decFlip = f := by
  simp only [State.retireWith, he, if_false, State.me_modMe]
  exact sigMove_flip _ _ hl hn hi

/-- Settles O14: each target is its checks, a change of the stored bits alone, and one result. -/
theorem injectErrors : Obligations.InjectErrors := by
  intro s a c bit dbl hp he u
  have hu : s.obbOnly u := s.obbUse_obbOnly _ _
  have hslice {z : Option Cause} (hz : s.injectCheck (s.g c) = z) : exec (.injectSlice a c bit dbl) s
      = .next (u.checked z (fun u => u.injectAt (s.g c) a (injectMask bit dbl))) := by
    rw [exec_injectSlice hp, hz]
  have hplain (hc : s.checkGlobal s.core s.cid (s.g c) 8 = none) (hid : idOf (s.g c) ≠ aliasId) : s.injectCheck (s.g c) = none := by
    simp [State.injectCheck, hc, hid]
  have halias (hc : s.checkGlobal s.core s.cid (s.g c) 8 = none) (hid : idOf (s.g c) = aliasId) :
      s.injectCheck (s.g c) = s.aliasFault (s.g c) := by
    simp [State.injectCheck, hc, hid]
  refine ⟨fun hk ha hr => ?_, exec_injectAcc_illegal hp, fun h ha hb => ?_, fun h ha hb => ?_, fun h hc hb => ?_,
    fun z hz => exec_injectLoc_of_fault hp hz, fun z hz => ?_, fun h l hc hid hh hl hv => ?_, fun h hc hid hh hl hw => ?_,
    fun hc hid ho => ⟨fun z hz => ?_, fun hz => ?_⟩, ?_⟩
  · exact ⟨_, exec_injectAcc_of_room hp hk ha hr, (State.sameIssuer_modHere rfl).result_gives he a 1⟩
  · exact ⟨_, (exec_injectLoc_tcm hp ha h).trans (by rw [hb]; rfl), (State.sameIssuer_modCore rfl).result_gives he a 1⟩
  · rw [exec_injectLoc_tcm hp ha h, hb]
    rfl
  · exact ⟨_, exec_injectLoc_well hp h hc rfl hb, State.result_gives _ a 1 he⟩
  · rw [hslice (z := some z) (by simp [State.injectCheck, hz]), State.checked_some]
  · rw [hslice (hplain hc hid), State.checked_none, hu.injectAt_resident hh hl hv]
  · rw [hslice (hplain hc hid), State.checked_none, hu.injectAt_absent hh hl hw]
  · rw [hslice ((halias hc hid).trans hz), State.checked_some]
  · rw [hslice ((halias hc hid).trans hz), State.checked_none, hu.injectAt_homeless]
    simp [State.homeOf, hid, ho]
  · have he1 : (s.setG a 1).me.eret ≠ 1 := by rwa [State.setG_eret]
    have hpass := State.retireWith_passed (s.setG a 1) ((injectMask bit dbl).setWidth 16) he1
    obtain ⟨hq0, hq1, -⟩ := s.me.setReg_q a 1
    refine ⟨_, exec_injectDec hp, ⟨hpass, fun r => by rw [hpass.g, State.g_setG]⟩, fun _ hn ⟨l, hl, hi⟩ => ?_⟩
    refine State.decFlip_retireWith he1 _ (l := l) ?_ ?_ ?_
    · rw [State.me_setG, hq0, hl]
    · rw [State.me_setG, hq0, hq1, hn]
    · rw [State.me_setG, hq0]
      exact hi

end Sys2Proof.Machine
end

section
/-! PROOFS. The statement on helper contexts (spec/05 R107 to R111). -/

namespace Sys2Proof.Machine

/-! ### HSTART and HJOIN (R107 to R109) -/

/-- Several registers copied into a table of registers. -/
theorem sget_each_sput_copy (from0 g : SMap Word) (lo r n : Nat) :
    sget 0 (each (List.range n) g (fun g i => sput g (lo + i) (sget 0 from0 (lo + i)))) r
      = if lo ≤ r ∧ r < lo + n then sget 0 from0 r else sget 0 g r := by
  induction n with
  | zero =>
    rw [if_neg (by omega)]
    rfl
  | succ n ih =>
    rw [each] at ih ⊢
    rw [List.range_succ, List.foldl_append]
    simp only [List.foldl_cons, List.foldl_nil, sget_sput, ih]
    by_cases h : r = lo + n
    · rw [if_pos h, if_pos (by omega), h]
    · rw [if_neg h]
      exact if_congr (by omega) rfl rfl

/-- The registers of a helper that starts: g3 to g10 of context 0, the others its own (R108). -/
theorem reg_startedHelper (k : Nat) (from0 y : Ctx) (r : GReg) :
    (startedHelper k from0 y).reg r = if 3 ≤ r.toNat ∧ r.toNat ≤ 10 then from0.reg r else y.reg r := by
  have hg := sget_each_sput_copy from0.g y.g 3 r.toNat 8
  by_cases h0 : r = 0
  · subst h0
    rfl
  · simp only [Ctx.reg, h0, if_false]
    exact hg.trans (if_congr (by omega) rfl rfl)

theorem State.ctxAt_setG_ne {s : State} {c k : Nat} (h : ¬(c = s.core ∧ k = s.ctx)) (a : GReg) (v : Word) :
    (s.setG a v).ctxAt c k = s.ctxAt c k :=
  (State.ctxAt_modCtx _ _ _ _ _ _).trans (if_neg h)

/-- The state in which HSTART has begun a helper (R108). -/
def State.helperBegun (s : State) (k : Nat) (line : Word) : State :=
  (s.modCtx s.core k (startedHelper k s.me)).beginAt s.core k line true

section
variable {s : State} (hk : s.ctx = 0)
include hk

theorem exec_hstart {a b c : GReg} : exec (.hstart a b c) s = .next (
    if (s.g b).toNat < 1 ∨ 10 < (s.g b).toNat then s.result a 2
    else if (s.ctxAt s.core (s.g b).toNat).st ≠ .idle then s.result a 1
    else s.onRelease .core (fun u => (u.helperBegun (s.g b).toNat (u.g c)).result a 0)) := by
  simp only [exec, execHstart, State.helperBegun, State.modCtx_core]
  rw [if_neg (not_not_intro hk)]

/-- A helper that starts changes its own context only, and what reading its lines changes. -/
theorem State.helperBegun_spec {k : Nat} (h1 : 1 ≤ k) (line : Word) :
    s.SameIssuer (s.helperBegun k line) ∧ ∃ q0 q1 q2, q0.addr = line ∧ q0.target = true
      ∧ (s.helperBegun k line).ctxAt s.core k
          = { startedHelper k s.me (s.ctxAt s.core k) with q0 := q0, q1 := q1, q2 := q2, p := 0xFFFF } := by
  obtain ⟨u, q0, q1, q2, hu, he, ha, -, ht, -⟩ :=
    (s.modCtx s.core k (startedHelper k s.me)).beginAt_spec s.core k line true
  have hne : ¬(s.core = s.core ∧ s.ctx = k) := by omega
  have hme : (s.helperBegun k line).me = s.me := by
    rw [State.helperBegun, he, State.me, State.modCtx_core, State.modCtx_ctx, hu.core, hu.ctx, State.ctxAt_modCtx]
    exact (if_neg hne).trans ((hu.ctxAt _ _).trans ((State.ctxAt_modCtx _ _ _ _ _ _).trans (if_neg hne)))
  refine ⟨⟨?_, ?_, ?_, hme⟩, q0, q1, q2, ha, ht, ?_⟩
  · rw [State.helperBegun, he]
    exact hu.core
  · rw [State.helperBegun, he]
    exact hu.ctx
  · rw [State.helperBegun, he]
    exact hu.fields.1
  · rw [State.helperBegun, he, State.ctxAt_modCtx_self, hu.ctxAt, State.ctxAt_modCtx_self]

theorem exec_hjoin {a b : GReg} : exec (.hjoin a b) s = .next (
    if (s.g b).toNat < 1 ∨ 10 < (s.g b).toNat then s.result a (w64 (2 ^ 64 - 2))
    else match (s.ctxAt s.core (s.g b).toNat).st with
      | .idle => s.result a (w64 (2 ^ 64 - 1))
      | .exited => s.collect a (s.g b).toNat
      | _ => s.hold (.hjoin a b) 0) :=
  (congrArg Host.Outcome.next (if_neg (not_not_intro hk))).trans rfl

/-- A helper collected becomes IDLE, and its status is one result (R109). -/
theorem State.collect_gives (he : s.me.eret ≠ 1) {k : Nat} (h1 : 1 ≤ k) (a : GReg) :
    (s.modCtx s.core k (fun y => { y with st := .idle })).gives (s.collect a k) a (s.ctxAt s.core k).status
      ∧ ((s.collect a k).ctxAt s.core k).st = .idle := by
  have hne : ¬(s.core = s.core ∧ s.ctx = k) := by omega
  have hme : (s.modCtx s.core k (fun y => { y with st := .idle })).me = s.me :=
    (State.ctxAt_modCtx _ _ _ _ _ _).trans (if_neg hne)
  have hg := State.result_gives (s.modCtx s.core k (fun y => { y with st := .idle })) a (s.ctxAt s.core k).status (by rwa [hme])
  refine ⟨hg, ?_⟩
  have hne' : ¬(s.core = s.core ∧ k = s.ctx) := by omega
  have hother : (s.collect a k).ctxAt s.core k = _ :=
    (hg.1.ctxAt_ne s.core k hne').trans (State.ctxAt_setG_ne (s := s.modCtx s.core k (fun y => { y with st := .idle })) hne' a _)
  rw [hother, State.ctxAt_modCtx_self]

section
variable {a b : GReg} (h1 : 1 ≤ (s.g b).toNat) (h10 : (s.g b).toNat ≤ 10)
include h1 h10

theorem exec_hjoin_idle (h : (s.ctxAt s.core (s.g b).toNat).st = .idle) :
    exec (.hjoin a b) s = .next (s.result a (w64 (2 ^ 64 - 1))) := by
  rw [exec_hjoin hk, if_neg (by omega), h]

theorem exec_hjoin_exited (h : (s.ctxAt s.core (s.g b).toNat).st = .exited) :
    exec (.hjoin a b) s = .next (s.collect a (s.g b).toNat) := by
  rw [exec_hjoin hk, if_neg (by omega), h]

theorem exec_hjoin_waits (h : (s.ctxAt s.core (s.g b).toNat).st = .live ∨ (s.ctxAt s.core (s.g b).toNat).st = .waiting) :
    exec (.hjoin a b) s = .next (s.hold (.hjoin a b) 0) := by
  rw [exec_hjoin hk, if_neg (by omega)]
  rcases h with h | h
  · rw [h]
  · rw [h]

end

/-- The end of the wait is HJOIN again (R109). -/
theorem exec_hjoinComplete {a b : GReg} (hw : s.me.wait = some (.hjoin a b)) (h : (s.ctxAt s.core (s.g b).toNat).st = .exited) :
    exec (.hjoinComplete s.core) s = .next (s.collect a (s.g b).toNat) := by
  have hs : s.at_ s.core 0 = s := by rw [State.at_, ← hk]
  simp only [exec, execHjoinComplete, hs, hw]
  exact congrArg Host.Outcome.next (if_pos h)

end

/-! ### HEXIT and the end of a core's part (R110, R317) -/

/-- Between two states no core differs, nor the issuing context, nor the clock. -/
structure State.SameCores (s t : State) : Prop where
  core : t.core = s.core
  ctx : t.ctx = s.ctx
  coreAt : ∀ c, t.coreAt c = s.coreAt c

theorem State.SameCores.refl (s : State) : s.SameCores s := ⟨rfl, rfl, fun _ => rfl⟩

theorem State.SameCores.trans {s t u : State} (h : s.SameCores t) (k : t.SameCores u) : s.SameCores u :=
  ⟨k.core.trans h.core, k.ctx.trans h.ctx, fun c => (k.coreAt c).trans (h.coreAt c)⟩

theorem State.SameCores.me {s t : State} (h : s.SameCores t) : t.me = s.me := by
  rw [State.me, State.ctxAt, h.coreAt, h.core, h.ctx, State.me, State.ctxAt]

theorem State.SameCores.each {α : Type} {s0 : State} {f : State → α → State} (hf : ∀ (s : State) (x : α), s.SameCores (f s x)) (xs : List α) {s : State}
    (h : s0.SameCores s) : s0.SameCores (each xs s f) :=
  each_inv (fun t : State => s0.SameCores t) xs s f (fun t x ht => ht.trans (hf t x)) h

theorem State.releaseUnits_sameCores (s : State) (n : Nat) : s.SameCores (s.releaseUnits n) := by
  have hunits := State.SameCores.each (f := fun (s : State) (e : Inst × Nat × List Nat) => s.askUnit e.1 e.2.1 e.2.2 false)
    (fun _ _ => ⟨rfl, rfl, fun _ => rfl⟩) (nodeUnits (s.node n).rec_) (.refl s)
  exact .each (f := fun (s : State) (e : RingId × List Nat) => s.askRing e.1 e.2 false)
    (fun _ _ => ⟨rfl, rfl, fun _ => rfl⟩) (nodeRings (s.node n).rec_) hunits

theorem State.nodeDone_sameCores (s : State) (n : Nat) : s.SameCores (s.nodeDone n) := by
  have h1 : s.SameCores (s.modNode n (fun x => { x with st := .done })) := ⟨rfl, rfl, fun _ => rfl⟩
  have h2 := h1.trans (State.releaseUnits_sameCores _ n)
  have h3 := h2.trans (.each (f := fun (s : State) (e : Nat × Nat) => s.addCounter e.1 e.2) (fun s _ => ⟨rfl, rfl, fun _ => rfl⟩)
    (s.node n).rec_.succ (.refl _))
  unfold State.nodeDone
  dsimp only
  refine iteInduction (fun _ => h3.trans ⟨rfl, rfl, fun _ => rfl⟩) fun _ => h3.trans ⟨rfl, rfl, fun _ => rfl⟩

theorem State.drainCheck_sameCores (s : State) (n : Nat) : s.SameCores (s.drainCheck n) := by
  unfold State.drainCheck
  refine iteInduction (fun _ => .refl s) fun _ => ?_
  exact iteInduction (fun _ => s.nodeDone_sameCores n) fun _ => ⟨rfl, rfl, fun _ => rfl⟩

/-- The end of a core's part leaves its core idle and no other core changed (R317). -/
theorem State.endPart_sameCores (s : State) (c : Nat) (v : Word) : (s.idleCore c).SameCores (s.endPart c v) := by
  unfold State.endPart
  split
  · exact .refl _
  · dsimp only
    refine State.SameCores.trans ?_ (State.drainCheck_sameCores _ _)
    exact ⟨rfl, rfl, fun _ => rfl⟩

theorem State.node_endPart (s : State) (c : Nat) (v : Word) : ((s.endPart c v).coreAt c).run.node = none := by
  rw [(s.endPart_sameCores c v).coreAt, State.idleCore, State.coreAt_modCore_self]

theorem State.st_idleCore (s : State) (c k : Nat) : ((s.idleCore c).ctxAt c k).st = .idle := by
  rw [State.ctxAt, State.idleCore, State.coreAt_modCore_self]
  generalize s.coreAt c = x
  change (sget (Ctx.reset k) (x.ctxs.map _) k).st = _
  induction x.ctxs with
  | nil => rfl
  | cons e r ih =>
    simp only [List.map_cons, sget]
    split
    · rfl
    · exact ih

theorem State.st_endPart (s : State) (v : Word) : (s.endPart s.core v).me.st = .idle := by
  rw [(s.endPart_sameCores s.core v).me]
  exact s.st_idleCore s.core s.ctx

/-- With its queues empty and no store buffered a core has nothing to release (R136). -/
theorem State.drained_of_quiet {s : State} (hq : s.here.quiet = true) (hb : s.here.cache.cbuf = []) : s.drained := by
  simp only [Core.quiet, Bool.and_eq_true, List.isEmpty_iff] at hq
  obtain ⟨⟨hv, hm⟩, -⟩ := hq
  refine ⟨hb, ?_, ?_, fun _ => ?_⟩
  · simp [Core.vecRanges, hv]
  · simp [Core.matRanges, hm]
  · simp [Core.vecPending, hv]

section
variable {s : State} (a : GReg)

theorem exec_hexit_helper (hk : s.ctx ≠ 0) (hd : s.drained) : exec (.hexit a) s = .next (s.exitHelper s.core s.ctx (s.g a)) :=
  (congrArg Host.Outcome.next (if_pos hk)).trans (congrArg Host.Outcome.next (State.onRelease_of_drained hd _ _))

variable (hk : s.ctx = 0)
include hk

theorem exec_hexit_illegal (hh : s.here.helpersIdle = false) : exec (.hexit a) s = .next s.illegal := by
  simp [exec, execHexit, hk, hh]

variable (hh : s.here.helpersIdle = true)
include hh

theorem exec_hexit_waits (hq : s.here.quiet = false) : exec (.hexit a) s = .next s := by
  simp [exec, execHexit, hk, hh, hq]

variable (hq : s.here.quiet = true) (hb : s.here.cache.cbuf = [])
include hq hb

theorem exec_hexit_unstored (hp : s.statusAddr = none) : exec (.hexit a) s = .next (s.endPart s.core (s.g a)) := by
  simp [exec, execHexit, hk, hh, hq, State.onRelease_of_drained (State.drained_of_quiet hq hb), hp]

theorem exec_hexit_stored {p : Word} {u : State} {bs : List Byte} (hp : s.statusAddr = some p)
    (hw : s.rawWrite s.core p (leBytes 8 (s.g a).toNat) s.cid = (u, .ok bs)) :
    exec (.hexit a) s = .next (u.endPart s.core (s.g a)) := by
  have hm : s.memOnly u := State.dieWrite_mem_eq (.refl s) hw
  have hu := State.SameIssuer.of_fetchOnly hm.fetchOnly
  simp [exec, execHexit, hk, hh, hq, State.onRelease_of_drained (State.drained_of_quiet hq hb), hp, hw, State.onAns, hu.core, hu.g]

end

/-- Settles O15: HSTART and HJOIN by the state of the helper that they name, HEXIT by what is left to do for its core. -/
theorem helperContexts : Obligations.HelperContexts := by
  refine ⟨fun s a b c hk he => ⟨fun h => ?_, fun h1 h10 h => ?_, fun h1 h10 h hd => ?_⟩, fun s a b hk he => ⟨fun h1 h10 h => ?_, fun h1 h10 h => ?_,
    fun h => ?_, fun h1 h10 h => exec_hjoin_waits hk h1 h10 h, fun h1 h10 hw h => ?_⟩, fun s a b c hk => ⟨?_, ?_⟩,
    fun s a => ⟨fun hk hd => ?_, fun hk hh => exec_hexit_illegal a hk hh, fun hk hh hq => exec_hexit_waits a hk hh hq, fun hk hh hq hb =>
      ⟨fun hp => ?_, fun p u bs hp hw => ?_⟩⟩⟩
  · rw [exec_hstart hk, if_pos h]
  · rw [exec_hstart hk, if_neg (by omega), if_pos h]
  · obtain ⟨hs, q0, q1, q2, ha, ht, hbegun⟩ := State.helperBegun_spec hk h1 (s.g c)
    have hg := hs.result_gives he a 0
    have hne : ¬(s.core = (s.helperBegun (s.g b).toNat (s.g c)).core ∧ (s.g b).toNat = (s.helperBegun (s.g b).toNat (s.g c)).ctx) := by
      rw [hs.ctx]
      omega
    have hctx := (hg.1.ctxAt_ne s.core (s.g b).toNat hne).trans (State.ctxAt_setG_ne hne a 0)
    have hexec : exec (.hstart a b c) s = .next ((s.helperBegun (s.g b).toNat (s.g c)).result a 0) := by
      rw [exec_hstart hk, if_neg (by omega), if_neg (not_not_intro h), State.onRelease_of_drained hd]
    refine ⟨_, hexec, ?_⟩
    rw [hctx, hbegun]
    refine ⟨rfl, ha, ht, rfl, reg_startedHelper (s.g b).toNat s.me _, fun r => ?_⟩
    rw [hg.2 r, hs.g]
    by_cases hr : r = a
    · subst hr
      by_cases h0 : r = 0
      · subst h0
        rfl
      · rw [if_pos ⟨rfl, h0⟩, if_pos rfl]
    · rw [if_neg (fun h => hr h.1), if_neg hr]
  · obtain ⟨hg, hst⟩ := State.collect_gives hk he h1 a
    exact ⟨_, exec_hjoin_exited hk h1 h10 h, hst, hg⟩
  · exact ⟨_, exec_hjoin_idle hk h1 h10 h, s.result_gives a _ he⟩
  · exact ⟨_, (exec_hjoin hk).trans (congrArg Host.Outcome.next (if_pos h)), s.result_gives a _ he⟩
  · rw [exec_hjoinComplete hk hw h, exec_hjoin_exited hk h1 h10 h]
  · exact congrArg Host.Outcome.next (if_pos hk)
  · exact congrArg Host.Outcome.next (if_pos hk)
  · refine ⟨_, exec_hexit_helper a hk hd, ?_⟩
    rw [State.me_exitHelper hk]
    refine ⟨rfl, rfl, rfl, rfl, rfl, fun c k hc => ?_⟩
    rw [State.ctxAt, State.exitHelper, State.event, State.coreAt_modCore, if_neg hc, State.modCtx, State.coreAt_modCore, if_neg hc]
    rfl
  · refine ⟨_, exec_hexit_unstored a hk hh hq hb hp, rfl, ?_, s.st_endPart _⟩
    rw [State.here, (s.endPart_sameCores s.core (s.g a)).core]
    exact s.node_endPart _ _
  · exact ⟨_, exec_hexit_stored a hk hh hq hb hp hw, rfl, State.node_endPart _ _ _⟩

end Sys2Proof.Machine
end

section
/-! PROOFS. The statement on DSTAT and BIL (spec/06 R175, R176; spec/12 R293). -/

namespace Sys2Proof.Machine

/-! ### Fields of a word made of parts -/

/-- A field of the word of a number (spec/00). -/
theorem bits_w64 (n : Nat) {hi : Nat} (lo : Nat) (h : hi < 64) : bits (w64 n) hi lo = n / 2 ^ lo % 2 ^ (hi + 1 - lo) := by
  rw [bits, BitVec.toNat_ofNat]
  by_cases hl : lo ≤ hi
  · rw [show 2 ^ 64 = 2 ^ lo * 2 ^ (64 - lo) by rw [← Nat.pow_add]; congr 1; omega, Nat.mod_mul_right_div_self,
      Nat.mod_mod_of_dvd _ (Nat.pow_dvd_pow 2 (by omega))]
  · rw [show hi + 1 - lo = 0 by omega, Nat.pow_zero, Nat.mod_one, Nat.mod_one]

theorem getLsbD_w64 (n : Nat) {j : Nat} (hj : j < 64) : (w64 n).getLsbD j = n.testBit j := by
  rw [BitVec.getLsbD_ofNat, decide_eq_true hj, Bool.true_and]

/-- Bits below i of a number that starts at bit i again. -/
theorem testBit_low {b i j : Nat} (a : Nat) (hb : b < 2 ^ i) (hj : j < i) : (a * 2 ^ i + b).testBit j = b.testBit j := by
  rw [Nat.mul_comm, Nat.testBit_two_pow_mul_add _ hb, if_pos hj]

theorem testBit_high {b i : Nat} (a j : Nat) (hb : b < 2 ^ i) : (a * 2 ^ i + b).testBit (i + j) = a.testBit j := by
  rw [Nat.mul_comm, Nat.testBit_two_pow_mul_add _ hb, if_neg (by omega), Nat.add_sub_cancel_left]

/-- A number of given bits. -/
def bitSum (b : Nat → Bool) (n : Nat) : Nat := ((List.range n).map (fun u => (b u).toNat * 2 ^ u)).sum

theorem bitSum_succ (b : Nat → Bool) (n : Nat) : bitSum b (n + 1) = (b n).toNat * 2 ^ n + bitSum b n := by
  rw [bitSum, List.range_succ, List.map_append, List.sum_append, Nat.add_comm, bitSum]
  simp

theorem bitSum_lt (b : Nat → Bool) (n : Nat) : bitSum b n < 2 ^ n := by
  induction n with
  | zero => simp [bitSum]
  | succ n ih =>
    have hb : (b n).toNat * 2 ^ n ≤ 1 * 2 ^ n := Nat.mul_le_mul_right _ (Bool.toNat_le _)
    rw [bitSum_succ, Nat.pow_succ]
    omega

theorem testBit_bitSum (b : Nat → Bool) (n u : Nat) : (bitSum b n).testBit u = (decide (u < n) && b u) := by
  induction n with
  | zero => simp [bitSum]
  | succ n ih =>
    rw [bitSum_succ, Nat.mul_comm, Nat.testBit_two_pow_mul_add _ (bitSum_lt b n), ih]
    by_cases hu : u < n
    · simp [hu, Nat.lt_succ_of_lt hu]
    · by_cases he : u = n
      · subst he
        cases b u with
        | _ => simp
      · have hn : ¬u < n + 1 := by omega
        have hp : u - n ≠ 0 := by omega
        cases b n with
        | false => simp [hu, hn]
        | true =>
          have hone : Nat.testBit 1 (u - n) = false := Bool.eq_false_iff.2 (mt Nat.testBit_one_eq_true_iff_self_eq_zero.1 hp)
          simp [hu, hn, hone]

/-! ### DSTAT and the status block (R175, R293) -/

theorem exec_dstat_of_some {s : State} {sc : Scope} {sel : BitVec 5} {v : Word} (h : s.dstat sc s.core sel.toNat = some v) (a : GReg) :
    exec (.dstat sc a sel) s = .next (s.result a v) := by
  simp only [exec, execDstat, h]

theorem exec_dstat_illegal {s : State} {sc : Scope} {sel : BitVec 5} (h : s.dstat sc s.core sel.toNat = none) (a : GReg) :
    exec (.dstat sc a sel) s = .next s.illegal := by
  simp only [exec, execDstat, h]

/-- The status block has nine words (R293). -/
theorem State.dstat_isSome (s : State) (sc : Scope) (c sel : Nat) : (s.dstat sc c sel).isSome = decide (sel < 9) := by
  match sel with
  | 0 | 1 | 2 | 3 | 4 | 5 | 6 | 7 | 8 => rfl
  | n + 9 => simp [State.dstat]

theorem State.unitBits_lt (s : State) {i : Inst} (h : unitsOf i.scope ≤ 16) (c : Nat) (f : Memb → Bool) : s.unitBits i c f < 2 ^ 16 :=
  (bitSum_lt _ _).trans_le (Nat.pow_le_pow_right (by decide) h)

/-- A bit of a core's bits at the units of its scope (R293). -/
theorem State.testBit_unitBits (s : State) (i : Inst) (c u : Nat) (f : Memb → Bool) :
    (s.unitBits i c f).testBit u = (decide (u < unitsOf i.scope) && f (((s.inst i).unit u).memb c)) := testBit_bitSum _ _ _

/-- Four numbers of 16 bits in one word. -/
theorem getLsbD_quarters {p x f m u : Nat} (hx : x < 2 ^ 16) (hf : f < 2 ^ 16) (hm : m < 2 ^ 16) (hu : u < 16) :
    let v := w64 (p * 2 ^ 48 + x * 2 ^ 32 + f * 2 ^ 16 + m)
    v.getLsbD (48 + u) = p.testBit u ∧ v.getLsbD (32 + u) = x.testBit u ∧ v.getLsbD (16 + u) = f.testBit u
      ∧ v.getLsbD u = m.testBit u := by
  have hv : p * 2 ^ 48 + x * 2 ^ 32 + f * 2 ^ 16 + m = ((p * 2 ^ 16 + x) * 2 ^ 16 + f) * 2 ^ 16 + m := by ring
  dsimp only
  rw [hv]
  refine ⟨?_, ?_, ?_, ?_⟩
  · rw [getLsbD_w64 _ (by omega), show 48 + u = 16 + (16 + (16 + u)) by omega, testBit_high _ _ hm, testBit_high _ _ hf, testBit_high _ _ hx]
  · rw [getLsbD_w64 _ (by omega), show 32 + u = 16 + (16 + u) by omega, testBit_high _ _ hm, testBit_high _ _ hf, testBit_low _ hx hu]
  · rw [getLsbD_w64 _ (by omega), testBit_high _ _ hm, testBit_low _ hf hu]
  · rw [getLsbD_w64 _ (by omega), testBit_low _ hm hu]

/-- The bits of a core at the exchange barrier above those that it missed (R293). -/
theorem getLsbD_barrier {m : Nat} (hm : m < 2 ^ 16) (p f b x : Bool) :
    let v := w64 (p.toNat * 2 ^ 19 + f.toNat * 2 ^ 18 + b.toNat * 2 ^ 17 + x.toNat * 2 ^ 16 + m)
    bits v 63 20 = 0 ∧ (∀ u, u < 16 → v.getLsbD u = m.testBit u)
      ∧ v.getLsbD 19 = p ∧ v.getLsbD 18 = f ∧ v.getLsbD 17 = b ∧ v.getLsbD 16 = x := by
  have hv : p.toNat * 2 ^ 19 + f.toNat * 2 ^ 18 + b.toNat * 2 ^ 17 + x.toNat * 2 ^ 16 + m
      = (p.toNat * 8 + f.toNat * 4 + b.toNat * 2 + x.toNat) * 2 ^ 16 + m := by ring
  have hnibble : ∀ p f b x : Bool, (p.toNat * 8 + f.toNat * 4 + b.toNat * 2 + x.toNat).testBit 3 = p
      ∧ (p.toNat * 8 + f.toNat * 4 + b.toNat * 2 + x.toNat).testBit 2 = f
      ∧ (p.toNat * 8 + f.toNat * 4 + b.toNat * 2 + x.toNat).testBit 1 = b
      ∧ (p.toNat * 8 + f.toNat * 4 + b.toNat * 2 + x.toNat).testBit 0 = x := by decide
  obtain ⟨h3, h2, h1, h0⟩ := hnibble p f b x
  dsimp only
  rw [hv]
  refine ⟨?_, fun u hu => ?_, ?_, ?_, ?_, ?_⟩
  · have := p.toNat_le
    have := f.toNat_le
    have := b.toNat_le
    have := x.toNat_le
    rw [bits_w64 _ _ (by decide)]
    omega
  · rw [getLsbD_w64 _ (by omega), testBit_low _ hm hu]
  · rw [getLsbD_w64 _ (by decide), testBit_high (i := 16) _ 3 hm, h3]
  · rw [getLsbD_w64 _ (by decide), testBit_high (i := 16) _ 2 hm, h2]
  · rw [getLsbD_w64 _ (by decide), testBit_high (i := 16) _ 1 hm, h1]
  · rw [getLsbD_w64 _ (by decide), testBit_high (i := 16) _ 0 hm, h0]

/-- The parts of word 0 (R293). -/
theorem bits_ownWord {lost clean layers gen : Nat} (legit : Bool) (hl : lost < 2 ^ 32) (hy : layers < 2 ^ 3) (hg : gen < 2 ^ 16) :
    let v := w64 (lost * 2 ^ 32 + clean % 16 * 2 ^ 28 + layers * 2 ^ 24 + legit.toNat * 2 ^ 16 + gen)
    bits v 63 32 = lost ∧ bits v 31 28 = clean % 16 ∧ bits v 27 27 = 0 ∧ bits v 26 24 = layers ∧ bits v 23 17 = 0
      ∧ bits v 16 16 = legit.toNat ∧ bits v 15 0 = gen := by
  have := legit.toNat_le
  dsimp only
  simp only [bits_w64 _ _ (show 63 < 64 by decide), bits_w64 _ _ (show 31 < 64 by decide), bits_w64 _ _ (show 27 < 64 by decide),
    bits_w64 _ _ (show 26 < 64 by decide), bits_w64 _ _ (show 23 < 64 by decide), bits_w64 _ _ (show 16 < 64 by decide),
    bits_w64 _ _ (show 15 < 64 by decide)]
  omega

/-- The parts of words 4 and 5 (R293). -/
theorem bits_treeWord (root par dist : Nat) :
    let v := w64 (root % 65536 * 2 ^ 32 + par % 65536 * 2 ^ 16 + dist % 16)
    bits v 63 48 = 0 ∧ bits v 47 32 = root % 65536 ∧ bits v 31 16 = par % 65536 ∧ bits v 15 4 = 0 ∧ bits v 3 0 = dist % 16 := by
  dsimp only
  simp only [bits_w64 _ _ (show 63 < 64 by decide), bits_w64 _ _ (show 47 < 64 by decide), bits_w64 _ _ (show 31 < 64 by decide),
    bits_w64 _ _ (show 15 < 64 by decide), bits_w64 _ _ (show 3 < 64 by decide)]
  omega

/-- The halves of word 6 (R293). -/
theorem bits_halves (x y : BitVec 32) :
    bits (w64 (x.toNat * 2 ^ 32 + y.toNat)) 63 32 = x.toNat ∧ bits (w64 (x.toNat * 2 ^ 32 + y.toNat)) 31 0 = y.toNat := by
  have := x.isLt
  have := y.isLt
  rw [bits_w64 _ _ (by decide), bits_w64 _ _ (by decide)]
  omega

/-! ### BIL (R176) -/

/-- BIL is not taken exactly where the witness stands (R176). -/
theorem bilTaken_eq_false_iff (legit : Bool) (gen : BitVec 16) (w : Word) :
    bilTaken legit gen w = false ↔ legit = true ∧ w.setWidth 16 = gen ∧ w.getLsbD 16 = true ∧ bits w 31 17 = 0 := by
  simp only [bilTaken, Bool.or_eq_false_iff, Bool.not_eq_false', bne_eq_false_iff_eq, and_assoc, eq_comm (a := gen)]

theorem exec_bil (s : State) (n : Nullify) (sc : Scope) (a : GReg) (disp : BitVec 19) :
    exec (.bil n sc none a disp) s = .next (s.jump
      (bilTaken (s.inst (instOf sc s.core)).cLegit (s.inst (instOf sc s.core)).cGen (s.g a)) (s.lineTarget disp) n) := rfl

theorem exec_bil_tok {s : State} {sc : Scope} {k : BitVec 4} (hm : (s.ring (ringOf sc s.core k.toNat)).mb.contains s.core = true)
    (n : Nullify) (a : GReg) (disp : BitVec 19) :
    exec (.bil n sc (some k) a disp) s = .next (s.jump
      (bilTaken (s.ring (ringOf sc s.core k.toNat)).cLegit (s.ring (ringOf sc s.core k.toNat)).cGen (s.g a)) (s.lineTarget disp) n) := by
  simp only [exec, execBil, hm]
  rfl

theorem exec_bil_nonmember {s : State} {sc : Scope} {k : BitVec 4} (hm : (s.ring (ringOf sc s.core k.toNat)).mb.contains s.core = false)
    (n : Nullify) (a : GReg) (disp : BitVec 19) : exec (.bil n sc (some k) a disp) s = .next (s.raise { code := 0x0F }) := by
  simp only [exec, execBil, hm]
  rfl

/-- Outside the delay slots of an ERET a transfer by a witness goes where the witness does not stand (R114, R176). -/
theorem State.jump_of_witness {s : State} (he : s.me.eret = 0) (legit : Bool) (gen : BitVec 16) (w target : Word) (n : Nullify) :
    let good := legit = true ∧ w.setWidth 16 = gen ∧ w.getLsbD 16 = true ∧ bits w 31 17 = 0
    (good → s.jump (bilTaken legit gen w) target n = s.transfer false target n)
      ∧ (¬good → s.jump (bilTaken legit gen w) target n = s.transfer true target n) := by
  refine ⟨fun h => ?_, fun h => ?_⟩
  · rw [(bilTaken_eq_false_iff _ _ _).2 h, State.jump_of_no_eret he]
  · rw [← bilTaken_eq_false_iff, Bool.not_eq_false] at h
    rw [h, State.jump_of_no_eret he]

/-- Settles O29: the words of the status block part by part, and BIL as a transfer by its witness. -/
theorem statusAndBranchOnWitness : Obligations.StatusAndBranchOnWitness := by
  intro s sc a sel n k disp d r good
  refine ⟨fun v hv he => ⟨_, exec_dstat_of_some hv a, s.result_gives a v he⟩, fun h => exec_dstat_illegal ?_ a, fun h => ?_,
    fun he hn => ?_, fun he => ⟨fun hg => ?_, fun hg => ?_, fun hm => ⟨fun hg => ?_, fun hg => ?_⟩⟩, fun hm => exec_bil_nonmember hm n a disp,
    fun he => ⟨?_, fun hm => ?_⟩⟩
  · have := s.dstat_isSome sc s.core sel.toNat
    simpa [Nat.not_lt.2 h] using this
  · rw [s.dstat_isSome, decide_eq_true h]
  · intro reads bit x i node clock clockNode
    have hread {m : BitVec 5} {v : Word} {P : Word → Prop} (hv : s.dstat sc s.core m.toNat = some v) (hP : P v) : reads m P :=
      ⟨_, v, exec_dstat_of_some hv a, s.result_gives a v he, hP⟩
    have hbit (f : Memb → Bool) : s.unitBits i s.core f < 2 ^ 16 := s.unitBits_lt hn s.core f
    refine ⟨hread rfl ?_, fun t ht => ?_, hread rfl ?_, hread rfl fun u hu => ?_, hread rfl ?_⟩
    · exact bits_ownWord _ d.lost.isLt d.layers.isLt d.cGen.isLt
    · obtain rfl | rfl : t = 0 ∨ t = 1 := by omega
      · exact hread rfl (bits_treeWord _ _ _)
      · exact hread rfl (bits_treeWord _ _ _)
    · have hclock : clock = s.inst (if sc = .oct then instOf .die s.core else i) := (apply_ite s.inst _ _ _).symm
      rw [hclock]
      exact bits_halves _ _
    · obtain ⟨h3, h2, h1, h0⟩ := getLsbD_quarters (p := s.unitBits i s.core (·.phase)) (hbit (·.x)) (hbit (·.f)) (hbit (·.mb)) hu
      exact ⟨h3.trans (s.testBit_unitBits _ _ _ _), h2.trans (s.testBit_unitBits _ _ _ _), h1.trans (s.testBit_unitBits _ _ _ _),
        h0.trans (s.testBit_unitBits _ _ _ _)⟩
    · have hmissed (u : Nat) := s.testBit_unitBits i s.core u (·.missed)
      by_cases hp : sc = .pod
      · rw [if_pos hp, if_pos hp, Nat.zero_add]
        have hm : s.unitBits (instOf sc s.core) s.core (·.missed) < 2 ^ 16 := hbit _
        refine ⟨?_, fun u hu => (getLsbD_w64 _ (by omega)).trans (hmissed u), ?_⟩
        · rw [bits_w64 _ _ (by decide)]
          omega
        · rw [bits_w64 _ _ (by decide)]
          omega
      · rw [if_neg hp, if_neg hp]
        obtain ⟨h0, hlow, hbar⟩ := getLsbD_barrier (hbit (·.missed)) x.phase x.f x.mb x.missed
        exact ⟨h0, fun u hu => (hlow u hu).trans (hmissed u), hbar⟩
  · rw [exec_bil]
    exact congrArg Host.Outcome.next ((State.jump_of_witness he _ _ _ _ _).1 hg)
  · rw [exec_bil]
    exact congrArg Host.Outcome.next ((State.jump_of_witness he _ _ _ _ _).2 hg)
  · rw [exec_bil_tok hm]
    exact congrArg Host.Outcome.next ((State.jump_of_witness he _ _ _ _ _).1 hg)
  · rw [exec_bil_tok hm]
    exact congrArg Host.Outcome.next ((State.jump_of_witness he _ _ _ _ _).2 hg)
  · rw [exec_bil, State.jump_of_eret he]
  · rw [exec_bil_tok hm, State.jump_of_eret he]

end Sys2Proof.Machine
end

section
/-! PROOFS. The statement on the events of the matrix unit (spec/07 R210, R213 to R219; spec/06 R122). -/

namespace Sys2Proof.Machine

/-! ### A field written (spec/00) -/

/-- A bit of a word with a field written: the new value's in the field, the old word's elsewhere. -/
theorem getLsbD_setBits (x : Word) {hi lo j : Nat} (v : Nat) (hl : lo ≤ hi) (hj : j < 64) :
    (setBits x hi lo v).getLsbD j = if lo ≤ j ∧ j ≤ hi then v.testBit (j - lo) else x.getLsbD j := by
  have hmask : 2 ^ (hi + 1) - 2 ^ lo = (2 ^ (hi + 1 - lo) - 1) * 2 ^ lo := by
    rw [Nat.sub_one_mul, ← Nat.pow_add]
    congr 2
    omega
  rw [setBits, BitVec.getLsbD_or, BitVec.getLsbD_and, BitVec.getLsbD_not, hmask, getLsbD_w64 _ hj, getLsbD_w64 _ hj,
    Nat.testBit_mul_two_pow, Nat.testBit_mul_two_pow, Nat.testBit_two_pow_sub_one, Nat.testBit_mod_two_pow]
  by_cases h1 : lo ≤ j
  · by_cases h2 : j ≤ hi
    · simp [h1, h2, hj, show j - lo < hi + 1 - lo by omega]
    · simp [h1, h2, hj, show ¬ j - lo < hi + 1 - lo by omega]
  · simp [h1, hj]

/-- A field reads as it was written. -/
theorem bits_setBits (x : Word) {hi lo : Nat} (v : Nat) (h : hi < 64) (hl : lo ≤ hi) :
    bits (setBits x hi lo v) hi lo = v % 2 ^ (hi + 1 - lo) := by
  rw [bits_eq_extract, ← BitVec.toNat_ofNat]
  refine congrArg BitVec.toNat (BitVec.eq_of_getLsbD_eq fun i hi' => ?_)
  rw [BitVec.getLsbD_extractLsb', getLsbD_setBits x v hl (by omega), if_pos (by omega), BitVec.getLsbD_ofNat, Nat.add_sub_cancel_left]

/-- A field apart from the one written reads as it was. -/
theorem bits_setBits_of_disjoint (x : Word) {hi lo hi' lo' : Nat} (v : Nat) (h : hi' < 64) (hl : lo ≤ hi)
    (hd : hi' < lo ∨ hi < lo') : bits (setBits x hi lo v) hi' lo' = bits x hi' lo' := by
  rw [bits_eq_extract, bits_eq_extract]
  refine congrArg BitVec.toNat (BitVec.eq_of_getLsbD_eq fun i hi'' => ?_)
  rw [BitVec.getLsbD_extractLsb', BitVec.getLsbD_extractLsb', getLsbD_setBits x v hl (by omega), if_neg (by omega)]

/-- A counter of MERR rises by one, modulo its 16 bits (R221). -/
theorem bits_bumpMerr (v : Word) {lo : Nat} (h : lo ≤ 48) :
    bits (bumpMerr v lo) (lo + 15) lo = (bits v (lo + 15) lo + 1) % 65536 := by
  rw [bumpMerr, bits_setBits _ _ (by omega) (by omega), show lo + 15 + 1 - lo = 16 by omega]
  rfl

/-! ### A command completes (R213 to R219) -/

theorem State.oct_modOct (s : State) (o p : Nat) (f : Octet → Octet) :
    (s.modOct o f).oct p = if p = o then f (s.oct o) else s.oct p := sget_smod _ _ _ _ _

theorem State.oct_modOct_self (s : State) (o : Nat) (f : Octet → Octet) : (s.modOct o f).oct o = f (s.oct o) := sget_sput_self _ _ _ _

/-- Resources taken change only what an octet says of its resources. -/
theorem State.oct_occupy (s : State) (o c : Nat) (rs : List Nat) (d p : Nat) :
    (s.occupy o c rs d).oct p = { s.oct p with busy := ((s.occupy o c rs d).oct p).busy } := by
  rw [State.occupy, State.oct_modOct]
  split
  · next h => subst h; rfl
  · rfl

theorem Octet.tile_modTile (o : Octet) (t u : Nat) (f : Tile → Tile) :
    (o.modTile t f).tile u = if u = t then f (o.tile t) else o.tile u := sget_smod _ _ _ _ _

theorem State.tile_putTile (s : State) (o k : Nat) (f : Tile → Tile) :
    ((s.modOct o (fun p => p.modTile k f)).oct o).tile k = f ((s.oct o).tile k) := by
  rw [State.oct_modOct_self, Octet.tile_modTile, if_pos rfl]

/-- MLDB as it completes: its bytes go to the current latch (R216). -/
def State.mldbRun (s : State) (c : Nat) (e : MEntry) (z : LatchSize) : State :=
  match s.localRead c (opAt e.ops 0).toNat (latchBytes z) with
  | (s, _, some w) => s.matFault c 0x0B 4 (w64 w) e.pc false
  | (s, bs, none) => (s.modMat c (fun m =>
      let o := eccWrite m.cur m.curEcc 0 bs
      { m with cur := o.mem, curEcc := o.ecc })).matPop c

/-- What the effect of a command without an error in its entry is: each command's own. -/
def State.matRun (s : State) (c : Nat) (e : MEntry) : State :=
  match e.instr with
  | .mma f _ a _ _ => s.mmaRun c e f a
  | .mzero a => (s.modOct (octOf c) (fun o => o.modTile a.toNat (fun _ => {}))).matPop c
  | .mldb z _ => s.mldbRun c e z
  | .mring _ => s.mringRun c
  | .mchk a => s.mchkRun c e a
  | .mst bf a _ =>
    (s.localWrite c (opAt e.ops 0).toNat (mstImage bf ((s.oct (octOf c)).tile a.toNat)) (s.coreAt c).cid).matPop c
  | .injectAcc _ _ bit dbl =>
    let g := opAt e.ops 0
    (s.modOct (octOf c) (fun o => o.modTile (bits g 3 0) (fun t =>
      { t with el := smod 0 t.el (64 * bits g 9 4 + bits g 15 10) (· ^^^ (injectMask bit dbl).setWidth 32) }))).matPop c
  | _ => s.matPop c

section
variable {s : State} {c : Nat} {e : MEntry} {r : List MEntry}

theorem exec_matrixCommandComplete_early (hq : (s.coreAt c).mat.queue = e :: r) {n : Nat} (hf : e.fin = some n) (hn : s.now < n) :
    exec (.matrixCommandComplete c) s = .next s := by
  change execMatrixCommandComplete c s = _
  rw [execMatrixCommandComplete, hq]
  change Host.Outcome.next (match e.fin with | none => _ | some _ => _) = _
  rw [hf]
  exact congrArg Host.Outcome.next (if_pos hn)

theorem exec_matrixCommandComplete_due (hq : (s.coreAt c).mat.queue = e :: r) {n : Nat} (hf : e.fin = some n) (hn : n ≤ s.now)
    (hh : e.hurt = none) : exec (.matrixCommandComplete c) s = .next (s.matRun c e) := by
  change execMatrixCommandComplete c s = _
  rw [execMatrixCommandComplete, hq]
  change Host.Outcome.next (match e.fin with | none => _ | some _ => _) = _
  rw [hf, hh]
  exact congrArg Host.Outcome.next (if_neg (Nat.not_lt.2 hn))

/-- What each command does (R214 to R218, R122). -/
theorem State.matRun_mma {f : MmaFmt} {x : Option (BitVec 16)} {a : AReg} {b d : GReg} (h : e.instr = .mma f x a b d) :
    s.matRun c e = s.mmaRun c e f a := by rw [State.matRun, h]
theorem State.matRun_mchk {a : AReg} (h : e.instr = .mchk a) : s.matRun c e = s.mchkRun c e a := by rw [State.matRun, h]
theorem State.matRun_mring {q : Option (BitVec 7)} (h : e.instr = .mring q) : s.matRun c e = s.mringRun c := by rw [State.matRun, h]
theorem State.matRun_mldb {z : LatchSize} {b : GReg} (h : e.instr = .mldb z b) : s.matRun c e = s.mldbRun c e z := by
  rw [State.matRun, h]
theorem State.matRun_mzero {a : AReg} (h : e.instr = .mzero a) :
    s.matRun c e = (s.modOct (octOf c) (fun o => o.modTile a.toNat (fun _ => {}))).matPop c := by rw [State.matRun, h]
theorem State.matRun_mst {bf : Bool} {a : AReg} {b : GReg} (h : e.instr = .mst bf a b) :
    s.matRun c e = (s.localWrite c (opAt e.ops 0).toNat (mstImage bf ((s.oct (octOf c)).tile a.toNat)) (s.coreAt c).cid).matPop c := by
  rw [State.matRun, h]

theorem State.matRun_injectAcc {b d : GReg} {bit : BitVec 6} {dbl : Bool} (h : e.instr = .injectAcc b d bit dbl) :
    s.matRun c e = (s.modOct (octOf c) (fun o => o.modTile (bits (opAt e.ops 0) 3 0) (fun t =>
      { t with el := smod 0 t.el (64 * bits (opAt e.ops 0) 9 4 + bits (opAt e.ops 0) 15 10)
                (· ^^^ (injectMask bit dbl).setWidth 32) }))).matPop c := by
  rw [State.matRun, h]

theorem State.mldbRun_read {z : LatchSize} {u : State} {bs : List Byte}
    (hl : s.localRead c (opAt e.ops 0).toNat (latchBytes z) = (u, bs, none)) :
    s.mldbRun c e z = (u.modMat c (fun m =>
      { m with cur := (eccWrite m.cur m.curEcc 0 bs).mem, curEcc := (eccWrite m.cur m.curEcc 0 bs).ecc })).matPop c := by
  rw [State.mldbRun, hl]

theorem State.mldbRun_badWord {z : LatchSize} {u : State} {bs : List Byte} {w : Nat}
    (hl : s.localRead c (opAt e.ops 0).toNat (latchBytes z) = (u, bs, some w)) :
    s.mldbRun c e z = u.matFault c 0x0B 4 (w64 w) e.pc false := by
  rw [State.mldbRun, hl]

/-- What is left behind a head that leaves its queue in a step: the next command is the head since then. -/
def headSince (now : Nat) (r : List MEntry) : List MEntry :=
  match r with
  | h :: l => { h with queued := now } :: l
  | [] => []

theorem State.mat_matPop (s : State) (c : Nat) :
    ((s.matPop c).coreAt c).mat = { (s.coreAt c).mat with queue := headSince s.now (s.coreAt c).mat.queue.tail } :=
  congrArg Core.mat (State.coreAt_modCore_self _ _ _)

theorem State.mat_modMat (s : State) (c : Nat) (f : MatUnit → MatUnit) : ((s.modMat c f).coreAt c).mat = f (s.coreAt c).mat :=
  congrArg Core.mat (State.coreAt_modCore_self _ _ _)

/-- Reading code or local memory changes no matrix unit. -/
theorem State.fetchOnly.mat {s t : State} (h : s.fetchOnly t) (c : Nat) : (t.coreAt c).mat = (s.coreAt c).mat := by
  have hc := h.2.1 c
  rw [Core.codeOnly] at hc
  rw [hc]

/-- MCHK of a tile that passes (R218). -/
theorem State.mchkRun_pass {a : AReg} (h : ((s.oct (octOf c)).tile a.toNat).judge = .pass) :
    s.mchkRun c e a = (s.modOct (octOf c) (fun x => x.modTile a.toNat (fun t => { t with chk := true }))).matPop c := by
  simp only [State.mchkRun, h]

theorem State.mchkRun_fixed {a : AReg} {t : Tile} (h : ((s.oct (octOf c)).tile a.toNat).judge = .fixed t) :
    s.mchkRun c e a = ((s.modOct (octOf c) (fun x => x.modTile a.toNat (fun _ => t))).modMat c MatUnit.corrects).matPop c := by
  simp only [State.mchkRun, h]

theorem State.mchkRun_void {a : AReg} (h : ((s.oct (octOf c)).tile a.toNat).judge = .void) :
    s.mchkRun c e a =
      (s.modOct (octOf c) (fun x => x.modTile a.toNat (fun t => { t with chk := false }))).matFault c 0x11 3 0 e.pc false := by
  simp only [State.mchkRun, h]

theorem State.mchkRun_failed {a : AReg} {q : Bool} (h : ((s.oct (octOf c)).tile a.toNat).judge = .failed q) :
    s.mchkRun c e a =
      (s.modOct (octOf c) (fun x => x.modTile a.toNat (fun t => { t with chk := false }))).matFault c 0x11 1 0 e.pc false := by
  simp only [State.mchkRun, h]

/-- A corrected tile is counted in MERR and for MWAIT, and its MCHK leaves the queue (R218, R220). -/
theorem State.mchkRun_fixed_spec {a : AReg} {t : Tile} (hq : (s.coreAt c).mat.queue = e :: r)
    (h : ((s.oct (octOf c)).tile a.toNat).judge = .fixed t) :
    ((s.mchkRun c e a).coreAt c).mat.queue = headSince s.now r
      ∧ ((s.mchkRun c e a).oct (octOf c)).tile a.toNat = t
      ∧ ((s.mchkRun c e a).coreAt c).mat.corr = (s.coreAt c).mat.corr + 1
      ∧ bits ((s.mchkRun c e a).coreAt c).mat.merr 15 0 = (bits (s.coreAt c).mat.merr 15 0 + 1) % 65536 := by
  have hmat : ((s.mchkRun c e a).coreAt c).mat = { (s.coreAt c).mat.corrects with queue := headSince s.now r } := by
    rw [State.mchkRun_fixed h, State.mat_matPop, State.mat_modMat]
    change { (s.coreAt c).mat.corrects with queue := headSince s.now (s.coreAt c).mat.queue.tail } = _
    rw [hq, List.tail_cons]
  refine ⟨by rw [hmat], ?_, by rw [hmat]; rfl, by rw [hmat]; exact bits_bumpMerr _ (Nat.zero_le _)⟩
  rw [State.mchkRun_fixed h]
  exact State.tile_putTile s _ _ _

/-- MRING's end takes the incoming latch, and empties it (R217). -/
theorem State.mringRun_full (h : (s.coreAt c).mat.full = true) (hq : (s.coreAt c).mat.queue = e :: r) :
    ((s.mringRun c).coreAt c).mat = { (s.coreAt c).mat with
      cur := (s.coreAt c).mat.inc, curEcc := (s.coreAt c).mat.incEcc, inc := [], incEcc := {}, full := false,
      queue := headSince s.now r } := by
  rw [State.mringRun, if_pos h, State.mat_matPop, State.mat_modMat]
  change { (s.coreAt c).mat with
    cur := (s.coreAt c).mat.inc, curEcc := (s.coreAt c).mat.incEcc, inc := [], incEcc := {}, full := false,
    queue := headSince s.now (s.coreAt c).mat.queue.tail } = _
  rw [hq, List.tail_cons]

/-! ### A multiply (R213, R214, R219) -/

/-- Reading the latch keeps the step, the queue and the octets, and only counts errors and mends the latch. -/
theorem State.readLatch_fst (s : State) (c n : Nat) :
    (s.readLatch c n).1.now = s.now ∧ ((s.readLatch c n).1.coreAt c).mat.queue = (s.coreAt c).mat.queue := by
  refine ⟨rfl, ?_⟩
  rw [State.readLatch, State.coreAt_modCore_self]
  have hmat : ∀ (x : Core) (corr unc : Nat), (x.countEcc s.now corr unc 9).mat = x.mat := fun x corr unc => by
    have hc := Core.countEcc_code x x s.now corr unc 9 rfl
    rw [Core.codeOnly] at hc
    rw [hc]
  rw [hmat]

/-- The tile after a multiply by the latch, with its scales where the format has them. -/
def State.multiplied (s : State) (c : Nat) (e : MEntry) (f : MmaFmt) (a : AReg) (ab sb ls : List Byte) : State :=
  s.modOct (octOf c) (fun p => p.modTile a.toNat (fun t => t.multiply (f == .i8)
    (mmaRows f ab (sb.take 512) (dec .bf (bits (opAt e.ops 1) 15 0)))
    (mmaRows f ls (sb.drop 512) (dec .bf (bits (opAt e.ops 1) 31 16)))))

/-- A multiply once its operands are read: the mirror is asked, and the tile updated once it agrees (R219). -/
def State.mmaEnd (s : State) (c : Nat) (e : MEntry) (f : MmaFmt) (a : AReg) (ab sb ls : List Byte) : State :=
  let agree := !e.mirrored || Config.mirrorAgrees s.fresh
  let s := if e.mirrored then s.tick1 else s
  if !agree then
    if e.retry then s.matFault c 0x11 2 0 e.pc false
    else
      let d := matDuration e.instr
      (s.occupy (octOf c) c [0, 1] d).modMat c (fun m =>
        { m with queue := { e with retry := true, fin := some (s.now + d) } :: m.queue.tail })
  else
    let s := s.multiplied c e f a ab sb ls
    (if e.mirrored then s.modMat c (fun m => m.agrees e.retry) else s).matPop c

theorem State.mmaRun_badWord {f : MmaFmt} (a : AReg) {u : State} {ab : List Byte} {w : Nat} (hf : f ≠ .e2)
    (h1 : s.localRead c (opAt e.ops 0).toNat (mmaBytes f) = (u, ab, some w)) :
    s.mmaRun c e f a = u.matFault c 0x0B 4 (w64 w) e.pc false := by
  rw [State.mmaRun, h1]
  dsimp only
  rw [if_neg hf]
  rfl

section
variable {f : MmaFmt} (a : AReg) {u w v : State} {ab sb ls : List Byte}
  (h1 : s.localRead c (opAt e.ops 0).toNat (mmaBytes f) = (u, ab, none))
  (h2 : (if f = .e2 then u.localRead c (bits (opAt e.ops 1) 51 32) 1024 else (u, [], none)) = (w, sb, none))
  (h3 : w.readLatch c (mmaBytes f) = (v, some ls))
include h1 h2 h3

/-- The reads of a multiply keep the step and the queue. -/
theorem State.mmaReads_keep : v.now = s.now ∧ (v.coreAt c).mat.queue = (s.coreAt c).mat.queue := by
  have hu : s.fetchOnly u := by
    have h := State.localRead_fetch c (opAt e.ops 0).toNat (mmaBytes f) (State.fetchOnly.refl s)
    rwa [h1] at h
  have hw : s.fetchOnly w := by
    split at h2
    · have h := State.localRead_fetch c (bits (opAt e.ops 1) 51 32) 1024 hu
      rwa [h2] at h
    · cases h2
      exact hu
  obtain ⟨hnow, hqueue⟩ := State.readLatch_fst w c (mmaBytes f)
  rw [h3] at hnow hqueue
  exact ⟨hnow.trans hw.fields.1, hqueue.trans (congrArg MatUnit.queue (hw.mat c))⟩

theorem State.mmaRun_of_reads : s.mmaRun c e f a = v.mmaEnd c e f a ab sb ls := by
  rw [State.mmaRun, h1]
  dsimp only
  rw [h2]
  dsimp only [Option.orElse]
  rw [h3]
  rfl

end

section
variable (s c e) (f : MmaFmt) (a : AReg) (ab sb ls : List Byte)

theorem State.mmaEnd_unmirrored (hm : e.mirrored = false) :
    s.mmaEnd c e f a ab sb ls = (s.multiplied c e f a ab sb ls).matPop c := by
  rw [State.mmaEnd, hm]
  rfl

theorem State.mmaEnd_agreed (hm : e.mirrored = true) (hg : Config.mirrorAgrees s.fresh = true) :
    s.mmaEnd c e f a ab sb ls = ((s.tick1.multiplied c e f a ab sb ls).modMat c (fun m => m.agrees e.retry)).matPop c := by
  rw [State.mmaEnd, hm, hg]
  rfl

theorem State.mmaEnd_again (hm : e.mirrored = true) (hg : Config.mirrorAgrees s.fresh = false) (hr : e.retry = false) :
    s.mmaEnd c e f a ab sb ls = (s.tick1.occupy (octOf c) c [0, 1] (matDuration e.instr)).modMat c (fun m =>
      { m with queue := { e with retry := true, fin := some (s.now + matDuration e.instr) } :: m.queue.tail }) := by
  rw [State.mmaEnd, hm, hg, hr]
  rfl

theorem State.mmaEnd_disagreed (hm : e.mirrored = true) (hg : Config.mirrorAgrees s.fresh = false) (hr : e.retry = true) :
    s.mmaEnd c e f a ab sb ls = s.tick1.matFault c 0x11 2 0 e.pc false := by
  rw [State.mmaEnd, hm, hg, hr]
  rfl

/-- Counting that a mirror agreed: at once in bits 47 to 32, on the retry in bits 31 to 16 and for MWAIT (R219, R220). -/
theorem MatUnit.agrees_spec (m : MatUnit) (retry : Bool) :
    (m.agrees retry).queue = m.queue
      ∧ (retry = false → bits (m.agrees retry).merr 47 32 = (bits m.merr 47 32 + 1) % 65536)
      ∧ (retry = true → bits (m.agrees retry).merr 31 16 = (bits m.merr 31 16 + 1) % 65536
          ∧ (m.agrees retry).retr = m.retr + 1) := by
  cases retry with
  | false => exact ⟨rfl, fun _ => bits_bumpMerr _ (by decide), nofun⟩
  | true => exact ⟨rfl, nofun, fun _ => ⟨bits_bumpMerr _ (by decide), rfl⟩⟩

/-- A mirrored multiply whose halves agree updates its tile once, is counted, and leaves the queue (R219). -/
theorem State.mmaEnd_agreed_spec (hq : (s.coreAt c).mat.queue = e :: r) (hm : e.mirrored = true)
    (hg : Config.mirrorAgrees s.fresh = true) :
    ((s.mmaEnd c e f a ab sb ls).coreAt c).mat = { (s.coreAt c).mat.agrees e.retry with queue := headSince s.now r }
      ∧ (s.mmaEnd c e f a ab sb ls).octets = (s.multiplied c e f a ab sb ls).octets := by
  rw [State.mmaEnd_agreed s c e f a ab sb ls hm hg]
  refine ⟨?_, rfl⟩
  rw [State.mat_matPop, State.mat_modMat]
  change { (s.coreAt c).mat.agrees e.retry with queue := headSince s.now ((s.coreAt c).mat.agrees e.retry).queue.tail } = _
  rw [(MatUnit.agrees_spec _ _).1, hq, List.tail_cons]

/-- A mirrored multiply whose halves disagree runs once more, and no tile has changed (R219). -/
theorem State.mmaEnd_again_spec (hq : (s.coreAt c).mat.queue = e :: r) (hm : e.mirrored = true)
    (hg : Config.mirrorAgrees s.fresh = false) (hr : e.retry = false) :
    ((s.mmaEnd c e f a ab sb ls).coreAt c).mat.queue =
        { e with retry := true, fin := some (s.now + matDuration e.instr) } :: r
      ∧ ∀ k, ((s.mmaEnd c e f a ab sb ls).oct (octOf c)).tile k = (s.oct (octOf c)).tile k := by
  rw [State.mmaEnd_again s c e f a ab sb ls hm hg hr]
  refine ⟨?_, fun k => ?_⟩
  · rw [State.mat_modMat]
    change _ :: (s.coreAt c).mat.queue.tail = _
    rw [hq, List.tail_cons]
  · change ((s.tick1.occupy (octOf c) c [0, 1] (matDuration e.instr)).oct (octOf c)).tile k = _
    rw [State.oct_occupy]
    rfl

end

/-! ### Starts (R210, R213, R217, R219) -/

/-- Of the other cores, what decides whether a timed command of theirs is due is as before. -/
def State.othersKeep (c : Nat) (s t : State) : Prop :=
  t.now = s.now ∧ t.dies = s.dies
    ∧ ∀ d, d ≠ c → (t.coreAt d).mat.queue = (s.coreAt d).mat.queue ∧ (t.coreAt d).leaving = (s.coreAt d).leaving

theorem State.othersKeep.trans {s t u : State} (h : State.othersKeep c s t) (k : State.othersKeep c t u) : State.othersKeep c s u := by
  obtain ⟨hnow, hdies, hcore⟩ := h
  obtain ⟨know, kdies, kcore⟩ := k
  exact ⟨know.trans hnow, kdies.trans hdies, fun d hd =>
    ⟨(kcore d hd).1.trans (hcore d hd).1, (kcore d hd).2.trans (hcore d hd).2⟩⟩

theorem State.othersKeep.timedDue {s t : State} (h : State.othersKeep c s t) {d : Nat} (hd : d ≠ c) : t.timedDue d = s.timedDue d := by
  obtain ⟨hnow, hdies, hcore⟩ := h
  obtain ⟨hqueue, hleaving⟩ := hcore d hd
  have hstep : t.stepOf d = s.stepOf d := by simp only [State.stepOf, State.stepAt, State.die, hnow, hdies]
  simp only [State.timedDue, hqueue, hleaving, hstep]

/-- A change of the core itself, and one of another core that leaves its queue and whether it is leaving. -/
theorem State.othersKeep_modCore (s : State) {n : Nat} {f : Core → Core}
    (h : n ≠ c → (f (s.coreAt n)).mat.queue = (s.coreAt n).mat.queue ∧ (f (s.coreAt n)).leaving = (s.coreAt n).leaving) :
    State.othersKeep c s (s.modCore n f) := by
  refine ⟨rfl, rfl, fun d hd => ?_⟩
  rw [State.coreAt_modCore]
  split
  · next hdn => subst hdn; exact h hd
  · exact ⟨rfl, rfl⟩

theorem State.unforce_othersKeep (s : State) (c : Nat) : State.othersKeep c s (s.unforce c) := by
  rw [State.unforce]
  exact iteInduction (fun _ => ⟨rfl, rfl, fun _ _ => ⟨rfl, rfl⟩⟩) fun _ => State.othersKeep_modCore s (fun h => absurd rfl h)

theorem State.matFault_othersKeep (s : State) (c code sub : Nat) (addr pc : Word) (keep : Bool) :
    State.othersKeep c s (s.matFault c code sub addr pc keep) :=
  (State.othersKeep_modCore s (fun h => absurd rfl h)).trans (State.unforce_othersKeep _ c)

/-- A core's latch is under way to the next core of its ring. -/
def State.sending (s : State) (c : Nat) : State :=
  s.modCore (s.nextRing c) (fun x => { x with mat := { x.mat with fly := some ((s.coreAt c).mat.cur, (s.coreAt c).mat.curEcc) } })

theorem State.sendLatch_eq (s : State) (c : Nat) : s.sendLatch c = (s.sending c).after 16 (.mringLanding (s.nextRing c)) := rfl

theorem State.after_othersKeep (s : State) (c n : Nat) (i : Event) : State.othersKeep c s (s.after n i) :=
  ⟨rfl, rfl, fun _ _ => ⟨rfl, rfl⟩⟩

theorem State.sendLatch_othersKeep (s : State) (c : Nat) : State.othersKeep c s (s.sendLatch c) := by
  rw [State.sendLatch_eq]
  exact State.othersKeep.trans (State.othersKeep_modCore s (fun _ => ⟨rfl, rfl⟩)) (State.after_othersKeep _ _ _ _)

/-- The head of a queue that has taken its resources. -/
def State.headStarted (s : State) (c : Nat) (e : MEntry) (rs : List Nat) (mirrored : Bool) : State :=
  (s.occupy (octOf c) c rs (s.startDuration c e.instr)).modCore c (fun x => { x with mat := { x.mat with queue :=
    { e with fin := some (s.now + s.startDuration c e.instr), mirrored := mirrored, half := if rs.length = 2 then some 3 else rs.head? }
      :: x.mat.queue.tail } })

/-- A command starts: it takes its resources, an MRING sends its latch, and a timed one no longer holds FORCED (R210, R217, R274). -/
theorem State.startMat_eq (s : State) (c : Nat) (e : MEntry) (rs : List Nat) (mirrored : Bool) :
    s.startMat c e rs mirrored =
      (let t := match e.instr with | .mring _ => (s.headStarted c e rs mirrored).sendLatch c | _ => s.headStarted c e rs mirrored
       if e.start.isSome then t.unforce c else t) := rfl

theorem State.headStarted_othersKeep (s : State) (c : Nat) (e : MEntry) (rs : List Nat) (mirrored : Bool) :
    State.othersKeep c s (s.headStarted c e rs mirrored) := by
  refine State.othersKeep.trans (t := s.occupy (octOf c) c rs (s.startDuration c e.instr)) ⟨rfl, rfl, fun _ _ => ⟨rfl, rfl⟩⟩ ?_
  exact State.othersKeep_modCore _ (fun h => absurd rfl h)

theorem State.startMat_othersKeep (s : State) (c : Nat) (e : MEntry) (rs : List Nat) (mirrored : Bool) :
    State.othersKeep c s (s.startMat c e rs mirrored) := by
  have hhead := State.headStarted_othersKeep s c e rs mirrored
  rw [State.startMat_eq]
  extract_lets t
  have ht : State.othersKeep c s t := by
    unfold t
    split
    · exact hhead.trans (State.sendLatch_othersKeep _ c)
    · exact hhead
  exact iteInduction (fun _ => ht.trans (State.unforce_othersKeep t c)) fun _ => ht

theorem State.startMma_othersKeep (s : State) (c : Nat) (e : MEntry) (h : Nat) : State.othersKeep c s (s.startMma c e h) := by
  rw [State.startMma]
  exact iteInduction (fun _ => State.startMat_othersKeep _ _ _ _ _) fun _ => State.startMat_othersKeep _ _ _ _ _

theorem State.startHalf_othersKeep {s t : State} {c : Nat} {e : MEntry} (h : s.startHalf c e = some t) : State.othersKeep c s t := by
  rw [State.startHalf] at h
  split at h
  · split at h
    · cases h; exact State.startMat_othersKeep _ _ _ _ _
    · cases h
  · split at h
    · cases h; exact State.startMma_othersKeep _ _ _ _
    · split at h
      · cases h; exact State.startMma_othersKeep _ _ _ _
      · cases h
  · obtain ⟨k, -, rfl⟩ := Option.map_eq_some_iff.1 h
    exact State.startMma_othersKeep _ _ _ _

theorem State.startTimed_othersKeep (s : State) (c i : Nat) (g : MEntry) : State.othersKeep c s (s.startTimed c i g) := by
  have hfault : ∀ code sub keep, State.othersKeep c s (s.matFault c code sub 0 g.pc keep) := fun _ _ _ =>
    State.matFault_othersKeep _ _ _ _ _ _ _
  rw [State.startTimed]
  refine iteInduction (fun _ => hfault _ _ _) fun _ => iteInduction (fun _ => hfault _ _ _) fun _ => ?_
  split
  · split
    · next t ht => exact State.startHalf_othersKeep ht
    · exact hfault _ _ _
  · exact iteInduction (fun _ => hfault _ _ _) fun _ => iteInduction (fun _ => hfault _ _ _) fun _ => State.startMat_othersKeep _ _ _ _ _

/-- Giving up FORCED changes no matrix unit, and no event (R274). -/
theorem State.unforce_mat (s : State) (c d : Nat) : ((s.unforce c).coreAt d).mat = (s.coreAt d).mat := by
  rw [State.unforce]
  refine iteInduction (motive := fun t : State => (t.coreAt d).mat = _) (fun _ => rfl) fun _ => ?_
  rw [State.modDuty, State.coreAt_modCore]
  split
  · next h => subst h; rfl
  · rfl

theorem State.unforce_timers (s : State) (c : Nat) : (s.unforce c).timers = s.timers := by
  rw [State.unforce]
  exact iteInduction (motive := fun t : State => t.timers = _) (fun _ => rfl) fun _ => rfl

/-- The ring a core sends along is set by the cuts of its octets alone (R217). -/
theorem State.nextRing_congr {s t : State} (h : ∀ o, (t.oct o).cut = (s.oct o).cut) (c : Nat) : t.nextRing c = s.nextRing c := by
  simp only [State.nextRing, State.nextOctet, h]

theorem State.nextRing_headStarted (s : State) (c : Nat) (e : MEntry) (rs : List Nat) (m : Bool) :
    (s.headStarted c e rs m).nextRing c = s.nextRing c := by
  refine State.nextRing_congr (fun o => ?_) c
  change ((s.occupy (octOf c) c rs (s.startDuration c e.instr)).oct o).cut = _
  rw [State.oct_occupy]

/-- The latches of a core as its MRING takes its resource. -/
theorem State.mat_headStarted (s : State) (c : Nat) (e : MEntry) (rs : List Nat) (m : Bool) :
    ((s.headStarted c e rs m).coreAt c).mat.cur = (s.coreAt c).mat.cur
      ∧ ((s.headStarted c e rs m).coreAt c).mat.curEcc = (s.coreAt c).mat.curEcc := by
  rw [State.headStarted, State.coreAt_modCore_self]
  exact ⟨rfl, rfl⟩

theorem State.coreAt_after (s : State) (n c : Nat) (i : Event) : (s.after n i).coreAt c = s.coreAt c := by
  simp only [State.coreAt, State.after]

/-- A send is on its way to the next core of the ring, and lands 16 steps later (R217). -/
theorem State.sendLatch_spec (s : State) (c : Nat) :
    ((s.sendLatch c).coreAt (s.nextRing c)).mat.fly = some ((s.coreAt c).mat.cur, (s.coreAt c).mat.curEcc)
      ∧ (s.sendLatch c).timers = s.timers ++ [(s.now + 16, Event.mringLanding (s.nextRing c))] := by
  have hfly : ((s.sending c).coreAt (s.nextRing c)).mat.fly = some ((s.coreAt c).mat.cur, (s.coreAt c).mat.curEcc) := by
    rw [State.sending, State.coreAt_modCore_self]
  have htimers : (s.sending c).timers = s.timers := rfl
  have hnow : (s.sending c).now = s.now := rfl
  rw [State.sendLatch_eq, State.coreAt_after]
  refine ⟨hfly, ?_⟩
  rw [State.after, htimers, hnow]

/-- MRING sends as it starts (R217). -/
theorem State.startMat_mring {q : Option (BitVec 7)} (h : e.instr = .mring q) (rs : List Nat) (m : Bool) :
    ((s.startMat c e rs m).coreAt (s.nextRing c)).mat.fly = some ((s.coreAt c).mat.cur, (s.coreAt c).mat.curEcc)
      ∧ (s.startMat c e rs m).timers = s.timers ++ [(s.now + 16, Event.mringLanding (s.nextRing c))] := by
  obtain ⟨hfly, htimers⟩ := State.sendLatch_spec (s.headStarted c e rs m) c
  obtain ⟨hcur, hecc⟩ := State.mat_headStarted s c e rs m
  rw [State.nextRing_headStarted] at hfly htimers
  rw [hcur, hecc] at hfly
  rw [State.startMat_eq, h]
  refine iteInduction (motive := fun t : State => (t.coreAt (s.nextRing c)).mat.fly = _ ∧ t.timers = _) (fun _ => ?_)
    fun _ => ⟨hfly, htimers⟩
  exact ⟨(congrArg MatUnit.fly (State.unforce_mat _ _ _)).trans hfly, (State.unforce_timers _ _).trans htimers⟩

/-- What is on its way lands in the incoming latch (R217). -/
theorem exec_mringLanding {l : Memory × Ecc} (h : (s.coreAt c).mat.fly = some l) :
    ∃ t, exec (.mringLanding c) s = .next t ∧ (t.coreAt c).mat.inc = l.1 ∧ (t.coreAt c).mat.full = true
      ∧ (t.coreAt c).mat.fly = none := by
  have hexec : exec (.mringLanding c) s = .next (s.modCore c (fun x =>
      match x.mat.fly with
      | some (m, e) => { x with mat := { x.mat with inc := m, incEcc := e, full := true, fly := none } }
      | none => x)) := rfl
  refine ⟨_, hexec, ?_⟩
  rw [State.coreAt_modCore_self, h]
  exact ⟨rfl, rfl, rfl⟩

/-- An MRING whose incoming latch is empty past its time is a queue fault (R217). -/
theorem exec_mringTimeout {q : Option (BitVec 7)} (hq : (s.coreAt c).mat.queue = e :: r) (hi : e.instr = .mring q)
    (hfull : (s.coreAt c).mat.full = false)
    (hlate : (match e.start, e.fin with
      | some _, some t => decide (t ≤ s.now)
      | some _, none => false
      | none, _ => decide (e.queued + s.timeout (instOf .oct c) < s.now)) = true) :
    exec (.mringTimeout c) s = .next (s.matFault c 0x0D 7 0 e.pc false) := by
  change execMringTimeout c s = _
  rw [execMringTimeout, hq]
  dsimp only
  rw [hi, hfull]
  exact congrArg Host.Outcome.next (if_pos hlate)

/-! ### The arbiter (R210, R213) -/

/-- A core's timed command, if one is due and its kind of resource is asked for, starts or fails. -/
def State.dueStep (s : State) (r c : Nat) : State :=
  match s.timedDue c with
  | some (i, e) => if i ≠ 0 ∨ (onHalf e.instr ↔ r ≠ 2) then s.startTimed c i e else s
  | none => s

/-- The timed commands of an octet that are due start, or fail. -/
def State.startDue (s : State) (o r : Nat) : State := each (octCores o) s (fun s c => s.dueStep r c)

/-- The credit of a position: one for the halves together and one for the tile port. -/
def creditKey (r q : Nat) : Nat := (if r = 2 then 8 else 0) + q

/-- The untimed head of a core's queue starts on a resource. -/
def State.startHead (s : State) (o r c : Nat) : State :=
  match (s.coreAt c).untimedHead with
  | none => s
  | some e =>
    let d := matDuration e.instr
    if r = 2 then s.startMat c e [2] false
    else if e.mirror = .force then s.startMat c e [0, 1] true
    else s.startMma c e (if s.resOpen o (1 - r) d then (s.oct o).fresher else r)

/-- One untimed command starts on the resource, if one wants it. -/
def State.startWanted (s : State) (o r : Nat) : State :=
  match arbitrate (s.oct o).mshare ((List.range 8).filter (fun q => s.wants o r (8 * o + q)))
    (fun q => sget 0 (s.oct o).credit (creditKey r q)) with
  | (none, _) => s
  | (some q, credit) => (s.modOct o (fun x => { x with
      credit := each (List.range 8) x.credit (fun m p => sputD 0 m (creditKey r p) (credit p)) })).startHead o r (8 * o + q)

theorem exec_matrixDispatch (s : State) (o r : Nat) :
    exec (.matrixDispatch o r) s = .next ((s.startDue o r).startWanted o r) := by
  change execMatrixDispatch o r s = _
  unfold execMatrixDispatch
  extract_lets t R key
  have ht : t = s.startDue o r := rfl
  rw [← ht]
  clear_value t
  rfl

/-- Where no command wants a resource nothing starts (R210). -/
theorem State.startWanted_none {o p : Nat} (h : ∀ q < 8, s.wants o p (8 * o + q) = false) : s.startWanted o p = s := by
  have hnone : (List.range 8).filter (fun q => s.wants o p (8 * o + q)) = [] :=
    List.filter_eq_nil_iff.2 fun q hq => by simp [h q (List.mem_range.1 hq)]
  rw [State.startWanted, hnone]
  rfl

/-- The head of a queue starts on the tile port, when it has not started and waits for no step (R210). -/
theorem State.startHead_port (hq : (s.coreAt c).mat.queue = e :: r) (hf : e.fin = none) (hs : e.start = none)
    (hl : (s.coreAt c).leaving = false) (o : Nat) : s.startHead o 2 c = s.startMat c e [2] false := by
  have hhead : (s.coreAt c).untimedHead = some e := by
    rw [Core.untimedHead, hq]
    simp only [hf, hs, hl, Option.isNone_none, Bool.not_false, Bool.and_self, if_true]
  rw [State.startHead, hhead]
  exact if_pos rfl

/-- The command chosen for the tile port starts on it (R210). -/
theorem State.startWanted_port {o q : Nat} {credit : Nat → Int} (hc : c = 8 * o + q)
    (ha : arbitrate (s.oct o).mshare ((List.range 8).filter (fun q => s.wants o 2 (8 * o + q)))
      (fun q => sget 0 (s.oct o).credit (8 + q)) = (some q, credit))
    (hq : (s.coreAt c).mat.queue = e :: r) (hf : e.fin = none) (hs : e.start = none) (hl : (s.coreAt c).leaving = false) :
    s.startWanted o 2 = (s.modOct o (fun x => { x with
      credit := each (List.range 8) x.credit (fun m p => sputD 0 m (creditKey 2 p) (credit p)) })).startMat c e [2] false := by
  have hcredit : arbitrate (s.oct o).mshare ((List.range 8).filter (fun q => s.wants o 2 (8 * o + q)))
      (fun q => sget 0 (s.oct o).credit (creditKey 2 q)) = (some q, credit) := ha
  rw [State.startWanted, hcredit, hc]
  exact State.startHead_port (c := 8 * o + q) (by rw [← hc]; exact hq) hf hs (by rw [← hc]; exact hl) o

theorem State.dueStep_none {r d : Nat} (h : s.timedDue d = none) : s.dueStep r d = s := by rw [State.dueStep, h]

/-- Where no timed command is due none starts. -/
theorem State.each_dueStep_none {ds : List Nat} (p : Nat) (h : ∀ d ∈ ds, s.timedDue d = none) :
    each ds s (fun s d => s.dueStep p d) = s := by
  induction ds with
  | nil => rfl
  | cons d ds ih =>
    rw [each_cons, State.dueStep_none (h d List.mem_cons_self)]
    exact ih fun d hd => h d (List.mem_cons_of_mem _ hd)

/-- Where the timed command of one core alone is due, that one starts or fails, and no other. -/
theorem State.each_dueStep_one {ds : List Nat} {i p : Nat} {g : MEntry} (hdue : s.timedDue c = some (i, g))
    (hgo : i ≠ 0 ∨ (onHalf g.instr = true ↔ p ≠ 2)) (hnd : ds.Nodup) (hc : c ∈ ds)
    (h : ∀ d ∈ ds, d ≠ c → s.timedDue d = none) : each ds s (fun s d => s.dueStep p d) = s.startTimed c i g := by
  induction ds with
  | nil => cases hc
  | cons d ds ih =>
    obtain ⟨hd, hnd⟩ := List.nodup_cons.1 hnd
    rw [each_cons]
    by_cases hdc : d = c
    · subst hdc
      have hstep : s.dueStep p d = s.startTimed d i g := by
        rw [State.dueStep, hdue]
        exact if_pos hgo
      rw [hstep]
      refine State.each_dueStep_none p fun x hx => ?_
      have hxd : x ≠ d := fun hxd => hd (hxd ▸ hx)
      rw [(State.startTimed_othersKeep s d i g).timedDue hxd]
      exact h x (List.mem_cons_of_mem _ hx) hxd
    · rw [State.dueStep_none (h d List.mem_cons_self hdc)]
      exact ih hnd ((List.mem_cons.1 hc).resolve_left (Ne.symm hdc)) fun x hx => h x (List.mem_cons_of_mem _ hx)

theorem nodup_octCores (o : Nat) : (octCores o).Nodup :=
  List.Nodup.map (fun _ _ h => Nat.add_left_cancel h) List.nodup_range

theorem mem_octCores (c : Nat) : c ∈ octCores (c / 8) :=
  List.mem_map.2 ⟨c % 8, List.mem_range.2 (Nat.mod_lt _ (by decide)), Nat.div_add_mod c 8⟩

/-- A dispatch in which one timed command is due, and after which none wants the resource. -/
theorem exec_matrixDispatch_due {i p : Nat} {g : MEntry} {t : State} (hdue : s.timedDue c = some (i, g))
    (h : ∀ d ∈ octCores (c / 8), d ≠ c → s.timedDue d = none) (hgo : i ≠ 0 ∨ (onHalf g.instr = true ↔ p ≠ 2))
    (ht : s.startTimed c i g = t) (hw : ∀ q < 8, t.wants (c / 8) p (8 * (c / 8) + q) = false) :
    exec (.matrixDispatch (c / 8) p) s = .next t := by
  rw [exec_matrixDispatch, State.startDue, State.each_dueStep_one hdue hgo (nodup_octCores _) (mem_octCores c) h, ht,
    State.startWanted_none hw]

/-! ### A timed command at its step (R213, R217) -/

/-- Whether the start of a command is behind its core's STEP. -/
def State.startPast (s : State) (c : Nat) (g : MEntry) : Prop := ∃ t, g.start = some t ∧ t.toNat < (s.stepOf c).toNat

theorem State.startTimed_behind {i : Nat} (g : MEntry) (hq : (s.coreAt c).mat.queue = e :: r) (hi : i ≠ 0) :
    s.startTimed c i g = s.matFault c 0x0D 6 0 g.pc e.fin.isSome := by
  rw [State.startTimed, hq]
  exact if_pos hi

theorem State.startTimed_past {g : MEntry} (h : s.startPast c g) : s.startTimed c 0 g = s.matFault c 0x0D 6 0 g.pc false := by
  obtain ⟨t, hs, ht⟩ := h
  rw [State.startTimed, hs]
  exact (if_neg (by decide)).trans (if_pos (decide_eq_true ht))

section
variable {g : MEntry} (hp : ¬ s.startPast c g)
include hp

/-- At the head and in time, a command starts as its kind does. -/
theorem State.startTimed_inTime : s.startTimed c 0 g = (match g.instr with
    | .mma .. => (match s.startHalf c g with | some t => t | none => s.matFault c 0x0D 6 0 g.pc false)
    | _ =>
      if !s.resFree (octOf c) 2 then s.matFault c 0x0D 6 0 g.pc false
      else if !(s.coreAt (s.nextRing c)).latchEmpty then s.matFault c 0x0C 5 0 g.pc false
      else s.startMat c g [2] false) := by
  have hpast : ¬ (match g.start with | some t => decide (t.toNat < (s.stepOf c).toNat) | none => false) = true := by
    intro h
    split at h
    · next t hs => exact hp ⟨t, hs, of_decide_eq_true h⟩
    · cases h
  rw [State.startTimed]
  exact (if_neg (by decide)).trans (if_neg hpast)

theorem State.startTimed_mma {f : MmaFmt} {x : Option (BitVec 16)} {a : AReg} {b d : GReg} (hi : g.instr = .mma f x a b d) :
    s.startTimed c 0 g = (s.startHalf c g).getD (s.matFault c 0x0D 6 0 g.pc false) := by
  rw [State.startTimed_inTime hp, hi]
  cases s.startHalf c g <;> rfl

theorem State.startTimed_mring {q : Option (BitVec 7)} (hi : g.instr = .mring q) :
    s.startTimed c 0 g =
      if !s.resFree (c / 8) 2 then s.matFault c 0x0D 6 0 g.pc false
      else if !(s.coreAt (s.nextRing c)).latchEmpty then s.matFault c 0x0C 5 0 g.pc false
      else s.startMat c g [2] false := by
  rw [State.startTimed_inTime hp, hi]
  rfl

end

/-- A multiply held to a half: it starts there, or on the other, or not at all (R210). -/
theorem State.startHalf_held {g : MEntry} {h : Nat} (hh : h < 2) (hg : g.half = some h) : s.startHalf c g =
    if s.resFree (c / 8) h then some (s.startMma c g h)
    else if s.resOpen (c / 8) (1 - h) (matDuration g.instr) then some (s.startMma c g (1 - h)) else none := by
  rw [State.startHalf, hg]
  interval_cases h
  · rfl
  · rfl

/-- A multiply that asks for no mirror starts on its half alone (R219). -/
theorem State.startMma_off {g : MEntry} (h : Nat) (hm : g.mirror = .off) : s.startMma c g h = s.startMat c g [h] false := by
  rw [State.startMma, hm]
  rfl

end

/-! ### The statement -/

/-- Settles O42: each event is cut into what its command does as it completes, how it starts, and which one is due. -/
theorem matrixEvents : Obligations.MatrixEvents := by
  intro s c e r hq o
  refine ⟨fun n hf hn => exec_matrixCommandComplete_early hq hf hn, fun n hf hn hh => ?_, fun l hl => exec_mringLanding hl,
    fun q hi => ⟨fun hs hfull hlate => ?_, fun n hs hf hn hfull => ?_, State.startMat_mring hi [2] false⟩,
    fun hnone => ⟨fun p hw => ?_, fun q credit hc ha hf hs hl => ?_⟩, fun i g p hdue hothers => ?_⟩
  · intro la goes done rest a b d z bf f x tile put
    have hgoes : ∀ u : State, s.matRun c e = u → goes u := fun u hu => by
      rw [← hu]
      exact exec_matrixCommandComplete_due hq hf hn hh
    refine ⟨fun hi => hgoes _ (State.matRun_mzero hi), fun hi => hgoes _ (State.matRun_mst hi),
      fun hi => ⟨fun hj => hgoes _ ?_, fun t hj => ?_, fun hj => hgoes _ ?_, fun q hj => hgoes _ ?_⟩,
      fun bit dbl hi => hgoes _ (State.matRun_injectAcc hi),
      fun u bs hi hl => hgoes _ ((State.matRun_mldb hi).trans (State.mldbRun_read hl)),
      fun u bs w hi hl => hgoes _ ((State.matRun_mldb hi).trans (State.mldbRun_badWord hl)),
      fun hi => ⟨fun u bs w hne hl => hgoes _ ((State.matRun_mma hi).trans (State.mmaRun_badWord a hne hl)),
        fun u w v ab sb ls h1 h2 h3 => ?_⟩,
      fun q hi => ⟨fun hfull => hgoes _ ?_, fun hfull => ?_⟩⟩
    · exact (State.matRun_mchk hi).trans (State.mchkRun_pass hj)
    · exact ⟨_, hgoes _ (State.matRun_mchk hi), State.mchkRun_fixed_spec hq hj⟩
    · exact (State.matRun_mchk hi).trans (State.mchkRun_void hj)
    · exact (State.matRun_mchk hi).trans (State.mchkRun_failed hj)
    · have hrun : s.matRun c e = v.mmaEnd c e f a ab sb ls := (State.matRun_mma hi).trans (State.mmaRun_of_reads a h1 h2 h3)
      obtain ⟨hnow, hqueue⟩ := State.mmaReads_keep h1 h2 h3
      have hqv := hqueue.trans hq
      refine ⟨fun hm => hgoes _ (hrun.trans (State.mmaEnd_unmirrored v c e f a ab sb ls hm)), fun hm hg => ?_, fun hm hg hr => ?_,
        fun hm hg hr => hgoes _ (hrun.trans (State.mmaEnd_disagreed v c e f a ab sb ls hm hg hr))⟩
      · obtain ⟨hmat, hoct⟩ := State.mmaEnd_agreed_spec v c e f a ab sb ls hqv hm hg
        obtain ⟨-, hfirst, hretry⟩ := MatUnit.agrees_spec (v.coreAt c).mat e.retry
        refine ⟨_, hgoes _ hrun, ?_, ?_, fun h => ?_, fun h => ?_⟩
        · rw [hmat, hnow]; rfl
        · rw [State.oct, hoct]; rfl
        · rw [hmat]; exact hfirst h
        · rw [hmat]; exact hretry h
      · obtain ⟨hagain, htile⟩ := State.mmaEnd_again_spec v c e f a ab sb ls hqv hm hg hr
        rw [hnow] at hagain
        exact ⟨_, hgoes _ hrun, hagain, htile⟩
    · rw [State.matRun_mring hi, State.mringRun, hfull]; rfl
    · have hmat := State.mringRun_full hfull hq
      refine ⟨_, hgoes _ (State.matRun_mring hi), ?_⟩
      rw [hmat]
      exact ⟨rfl, rfl, rfl, rfl⟩
  · exact exec_mringTimeout hq hi hfull (by rw [hs]; exact decide_eq_true hlate)
  · obtain ⟨t, ht⟩ := Option.ne_none_iff_exists'.1 hs
    exact exec_mringTimeout hq hi hfull (by rw [ht, hf]; exact decide_eq_true hn)
  · rw [exec_matrixDispatch, State.startDue, State.each_dueStep_none p hnone, State.startWanted_none hw]
  · refine ⟨_, ?_, s.modOct o (fun x => { x with
      credit := each (List.range 8) x.credit (fun m p => sputD 0 m (creditKey 2 p) (credit p)) }), rfl, rfl⟩
    rw [exec_matrixDispatch, State.startDue, State.each_dueStep_none 2 hnone, State.startWanted_port hc ha hq hf hs hl]
  · intro late past
    refine ⟨fun hi hw => exec_matrixDispatch_due hdue hothers (.inl hi) (State.startTimed_behind g hq hi) hw, fun hi hres => ?_⟩
    subst hi
    have hlate : ∀ t : State, s.startTimed c 0 g = t → late t := fun t ht hw =>
      exec_matrixDispatch_due hdue hothers (.inr hres) ht hw
    refine ⟨fun hp => hlate _ (State.startTimed_past hp),
      fun hp f x a b d hi => ⟨fun h hh hg hfree hopen => hlate _ ?_, fun h hh hg hfree hm => hlate _ ?_⟩,
      fun hp q hi => ⟨fun hfree => hlate _ ?_, fun hfree hlatch => hlate _ ?_, fun hfree hlatch => hlate _ ?_⟩⟩
    · rw [State.startTimed_mma hp hi, State.startHalf_held hh hg, if_neg (ne_true_of_eq_false hfree),
        if_neg (ne_true_of_eq_false hopen), Option.getD_none]
    · rw [State.startTimed_mma hp hi, State.startHalf_held hh hg, if_pos hfree, Option.getD_some, State.startMma_off h hm]
    · rw [State.startTimed_mring hp hi, hfree]
      rfl
    · rw [State.startTimed_mring hp hi, hfree, hlatch]
      rfl
    · rw [State.startTimed_mring hp hi, hfree, hlatch]
      rfl

end Sys2Proof.Machine
end

section
/-! PROOFS. The statement on the host's commands on objects, memory and registers (spec/21 R399 to R401; spec/17 R336 to R354). -/

namespace Sys2Proof.Machine

/-! ### A command that is served (R399, R401) -/

section
variable {s : State} {h : Hdr}

theorem State.mustFollow_of_none {e : Event} (he : hostObj e = none) : s.mustFollow h e = false := by
  rw [State.mustFollow, he]
  rfl

/-- No command waits for the object, so one on it follows none (R401). -/
theorem State.mustFollow_of_free {e : Event} {obj : Nat} (he : hostObj e = some obj) (hfree : s.objectFree obj) :
    s.mustFollow h e = false := by
  rw [State.mustFollow, he, Bool.and_eq_false_iff]
  refine .inr (List.any_eq_false.2 fun c hc => ?_)
  rw [Bool.and_eq_true]
  rintro ⟨-, hw⟩
  split at hw
  · next w hcw => exact hfree c hc w hcw (eq_of_beq hw)
  · cases hw

/-- A command of another connection that waits for the object is followed (R401). -/
theorem State.mustFollow_of_waiting {e w : Event} {c : Conn} {obj : Nat} (hc : c ∈ s.conns) (hid : c.id ≠ h.conn)
    (hb : c.behind = false) (hw : c.waits = some w) (hwo : hostObj w = some obj) (he : hostObj e = some obj) :
    s.mustFollow h e = true := by
  rw [State.mustFollow, he, Bool.and_eq_true]
  refine ⟨rfl, List.any_eq_true.2 ⟨c, hc, ?_⟩⟩
  simp [hid, hb, hw, hwo]

/-- A served command has its turn at once, or follows the others of its object (R401). -/
theorem State.command_eq (hs : s.serves h) (op : Nat) (e : Event) (f : State → State) :
    s.command h op false e f = if s.mustFollow h e then s.waitBehind h e else f s := by
  obtain ⟨c, hc, hver, hlegal, hwaits, hbehind, hstage, hoff⟩ := hs
  rw [State.command, hc]
  simp only [hver, hlegal, hstage, hoff, State.inTurn, hwaits, hbehind, ne_eq, not_true_eq_false, if_false, Bool.not_false,
    Bool.and_false, Bool.false_and, Bool.not_true, Option.isSome_none, Bool.or_self, Bool.false_eq_true]

theorem State.command_served (hs : s.serves h) (op : Nat) {e : Event} (hf : s.mustFollow h e = false) (f : State → State) :
    s.command h op false e f = f s := by
  rw [State.command_eq hs, hf]
  rfl

theorem State.command_follows (hs : s.serves h) (op : Nat) {e : Event} (hf : s.mustFollow h e = true) (f : State → State) :
    s.command h op false e f = s.waitBehind h e := by
  rw [State.command_eq hs, if_pos hf]

theorem State.simple_served (hs : s.serves h) (op : Nat) {e : Event} (hf : s.mustFollow h e = false) (f : State → State × Nat) :
    s.simple h op e f = (f s).1.answer h op (f s).2 0 [] := State.command_served hs op hf _

/-! ### One reply (R399) -/

/-- The version under which a connection is answered. -/
def State.answersIn (s : State) (h : Hdr) : Nat := match s.conn h with | some c => c.ver | none => h.ver

theorem State.answer_empty (s : State) (h : Hdr) (op st : Nat) (v : Word) :
    s.answer h op st v [] = { s with outbox := s.outbox ++ [s.reply h op st v []] } := rfl

theorem valued_eq_true (op st : Nat) : valued op st = true ↔ st = 0 ∧ (op = 0x01 ∨ op = 0x30 ∨ op = 0x41) := by
  simp [valued]

/-- An answer without bytes is the one reply, when nothing else was sent before it. -/
theorem State.replied_answer {u : State} (hout : u.outbox = s.outbox) (hver : u.answersIn h = s.answersIn h) (op st : Nat) (v : Word) :
    s.replied (u.answer h op st v []) h op st v := by
  have hlen : (if valued op st = true then 8 else 0) = if st = 0 ∧ (op = 0x01 ∨ op = 0x30 ∨ op = 0x41) then 8 else 0 := by
    simp only [valued_eq_true]
  rw [State.replied, State.answer_empty]
  change u.outbox ++ [HostMsg.reply h.conn (u.answersIn h) (op ||| 0x80) (0 + if valued op st = true then 8 else 0) h.tag h.cid st v []]
    = _
  rw [hout, hver, hlen]
  rfl

/-- A connection as its command begins or ends waiting. -/
def Conn.setWaits (x : Conn) (h : Hdr) (e : Option Event) : Conn :=
  if x.id = h.conn then { x with waits := e, bad := false, behind := false } else x

theorem Conn.setWaits_keeps (x : Conn) (h : Hdr) (e : Option Event) : (x.setWaits h e).id = x.id ∧ (x.setWaits h e).ver = x.ver := by
  rw [Conn.setWaits]
  split
  · exact ⟨rfl, rfl⟩
  · exact ⟨rfl, rfl⟩

theorem State.conn_setWaits (s : State) (h : Hdr) (e : Option Event) :
    (s.setWaits h e).conn h = (s.conn h).map (fun x => x.setWaits h e) := by
  have hid : (fun c : Conn => c.id == h.conn) ∘ (fun x : Conn => x.setWaits h e) = fun c => c.id == h.conn :=
    funext fun x => congrArg (fun n => n == h.conn) (x.setWaits_keeps h e).1
  change (s.conns.map (fun x : Conn => x.setWaits h e)).find? (fun c => c.id == h.conn) = _
  rw [List.find?_map, hid]
  rfl

/-- Beginning or ending a wait keeps the version. -/
theorem State.answersIn_setWaits (s : State) (h : Hdr) (e : Option Event) : (s.setWaits h e).answersIn h = s.answersIn h := by
  rw [State.answersIn, State.answersIn, State.conn_setWaits]
  cases s.conn h with
  | none => rfl
  | some c => exact (c.setWaits_keeps h e).2

theorem State.replied_setWaits (s : State) (h : Hdr) (op st : Nat) : s.replied ((s.setWaits h none).answer h op st 0 []) h op st :=
  State.replied_answer (s := s) (u := s.setWaits h none) rfl (s.answersIn_setWaits h none) op st 0

/-! ### Objects (R336, R339) -/

theorem State.pickFrames_none_needed (s : State) (die : Nat) : (s.pickFrames die 0).2.isNone = false := by
  have htake : ∀ l, takeRuns 0 l = ([], 0) := fun l => by cases l <;> rfl
  rw [State.pickFrames, htake]
  rfl

/-- Taking frames only draws a free value. -/
theorem State.pickFrames_fst (s : State) (die n : Nat) : (s.pickFrames die n).1 = s.tick1 := by
  rw [State.pickFrames]
  split
  · rfl
  · rfl

theorem sfind_sdel_self {α : Type} (m : SMap α) (i : Nat) : sfind (sdel m i) i = none := by
  induction m with
  | nil => rfl
  | cons e r ih =>
    obtain ⟨k, v⟩ := e
    rw [sdel, List.filter_cons]
    split
    · next hk =>
      rw [sfind, if_neg (fun hik => by simp [hik] at hk)]
      exact ih
    · exact ih

/-- Dropping what depends on an object keeps the faults of every die (R339). -/
theorem State.faults_forgetObj (s : State) (id d : Nat) : ((s.forgetObj id).die d).faults = (s.die d).faults := by
  have hdie : (s.forgetObj id).die d = _ := sget_map (d := ({} : Die))
    (g := fun _ x => { x with gates := sall x.gates (fun g => g.filter (fun l => l.key / 2 ^ 32 != id)) }) rfl s.dies
  rw [hdie]
  rfl

/-- Where no request waits for a page of the object, cutting its pages ends with the change of the object table (R339). -/
theorem State.cutPages_of_noFaults {id : Nat} {o : Obj} (hno : ∀ f ∈ (s.die o.die).faults, f.obj ≠ id) (from_ : Nat)
    (f : State → State) : ∃ u, s.cutPages id o from_ f = f u := by
  unfold State.cutPages
  extract_lets t gone cut lost u v
  have hdies : t.dies = s.dies :=
    each_inv (fun x : State => x.dies = s.dies) _ _ _ (fun x n hx => hx) rfl
  have hgone : gone = [] := by
    unfold gone
    rw [List.map_eq_nil_iff, List.filter_eq_nil_iff]
    intro x hx
    have hdie : t.die o.die = s.die o.die := congrArg (fun l => sget ({} : Die) l o.die) hdies
    rw [hdie] at hx
    simp [hno x hx]
  rw [hgone]
  exact ⟨v, rfl⟩

/-- An object made shorter keeps its first pages (R339). -/
def Obj.cutTo (o : Obj) (size : Nat) : Obj :=
  { o with size := size, ext := cutExtents size o.ext, retired := o.retired.filter (· < size) }

theorem execObjresize_shorter (hs : s.serves h) {obj size : Nat} {o : Obj} (ho : s.obj obj = some o) (hfree : s.objectFree obj)
    (h0 : size ≠ 0) (hmax : size ≤ 16777215) (hle : size ≤ o.size) :
    exec (.objresize h obj size) s = .next ((if size = o.size then s.forgetObj obj else
      (s.forgetObj obj).cutPages obj o size (fun s => { s with objs := sput s.objs obj (o.cutTo size) })).answer h 0x31 stOk 0 []) := by
  change execObjresize h obj size s = _
  rw [execObjresize, State.simple_served hs _ (State.mustFollow_of_free rfl hfree)]
  dsimp only
  rw [ho]
  dsimp only
  have hlimit : (decide (size = 0) || decide (16777215 < size)) = false := by simp [h0, hmax]
  rw [hlimit, if_neg (by decide), if_pos hle]
  rfl

theorem execObjdelete_free (hs : s.serves h) {obj : Nat} {o : Obj} (ho : s.obj obj = some o) (hfree : s.objectFree obj) :
    exec (.objdelete h obj) s = .next (((s.forgetObj obj).cutPages obj o 0 (fun s => { s with objs := sdel s.objs obj })).answer h 0x32
      stOk 0 []) := by
  change execObjdelete h obj s = _
  rw [execObjdelete, State.simple_served hs _ (State.mustFollow_of_free rfl hfree), ho]

/-- An object with one more run that the host backs, which is one extent. -/
def Obj.withRun (o : Obj) (r : PageRun) : Obj :=
  { o with
    size := o.size + r.count
    ext := o.ext ++ [{ first := o.size, count := r.count, ty := r.ty, absent := r.absent, frame := 0, stack := 0, back := r.back }] }

/-- An object as OBJCREATE names it, before it has pages. -/
def pagelessObj (die dom : Nat) (priv : Bool) (owncore owncid : Nat) : Obj :=
  { size := 0, die := die, dom := dom, priv := priv, owncore := owncore, owncid := owncid, ext := [] }

/-- One run that the host backs takes no frame (R336). -/
theorem State.addRuns_backed (s : State) (id : Nat) (o : Obj) {r : PageRun} (hb : r.back ≠ 0) :
    s.addRuns id o [r] =
      (let o' := o.withRun r
       ({ s with objs := sput s.objs id o' }, some o')) := by
  have hnew : s.newPages o.die o.size r.count r.ty r.absent r.back =
      (s, some [{ first := o.size, count := r.count, ty := r.ty, absent := r.absent, frame := 0, stack := 0, back := r.back }]) :=
    if_pos hb
  rw [State.addRuns, hnew]
  rfl

theorem execObjcreate_backed (hs : s.serves h) {obj die dom owncore owncid : Nat} {r : PageRun} (priv : Bool)
    (hcount : r.count ≠ 0) (hmax : r.count ≤ 16777215) (hback : 0 < r.back) (hback3 : r.back < 3) (hdie : die < 16) (hdom : dom < 32)
    (hcore : owncore < 30720) (hcid : owncid < 1024) (hobj : obj ≠ 0) (hid : obj < aliasId) (hnone : s.obj obj = none)
    (hmask : bits ((s.die die).mask dom) 15 0 ≠ 0) (hroom : s.objs.length < 1048576) :
    ∃ u : State, u.outbox = s.outbox ∧ u.conns = s.conns
      ∧ u.obj obj = some { (pagelessObj die dom priv owncore owncid).withRun r with extlist := Config.extList obj s.fresh }
      ∧ exec (.objcreate h obj die dom priv owncore owncid [r]) s = .next (u.answer h 0x30 stOk (w64 obj) []) := by
  have hexec : exec (.objcreate h obj die dom priv owncore owncid [r]) s = execObjcreate h obj die dom priv owncore owncid [r] s := rfl
  have hruns : runsLegal [r] = true := by simp [runsLegal, hcount, hmax, hback3]
  have hpages : hbmPages [r] = 0 := by simp [hbmPages, Nat.ne_of_gt hback]
  have hlegal : (!runsLegal [r] || decide (16 ≤ die) || decide (32 ≤ dom) || decide (coreCount ≤ owncore)
      || decide (1024 ≤ owncid) || decide (obj = 0) || decide (aliasId ≤ obj) || (s.obj obj).isSome || decide (bits ((s.die die).mask dom) 15 0 = 0)) = false := by
    have hcoreCount : ¬ coreCount ≤ owncore := Nat.not_le.2 hcore
    simp [hruns, hdie, hdom, hcoreCount, hcid, hobj, hid, hnone, hmask]
  have hspace : (decide (1048576 ≤ s.objs.length) || (s.pickFrames die (hbmPages [r])).2.isNone) = false := by
    rw [hpages, State.pickFrames_none_needed]
    simp [hroom]
  rw [hexec, execObjcreate, State.command_served hs _ (State.mustFollow_of_none rfl)]
  dsimp only
  rw [if_neg hobj, if_neg hobj, hlegal, if_neg (by decide), hspace, if_neg (by decide), State.addRuns_backed _ _ _ (Nat.ne_of_gt hback)]
  have hext : ¬ extMax < 1 := by decide
  refine ⟨_, ?_, ?_, ?_, congrArg Host.Outcome.next (if_neg hext)⟩
  · rfl
  · rfl
  · exact (sfind_sput _ _ _ _).trans (if_pos rfl)

/-! ### Snapshots (R354) -/

section
variable {obj : Nat} {o : Obj} {T : Word} {n : Nat} (dest : Word)

theorem execSnapshot_unknown (hs : s.serves h) (hfree : s.objectFree obj) (hf : s.feature h 0 = false) :
    exec (.snapshot h obj T ⟨n, dest⟩) s = .next (s.answer h 0x35 stUnknown 0 []) := by
  have hexec : exec (.snapshot h obj T ⟨n, dest⟩) s = execSnapshot h obj T ⟨n, dest⟩ s := rfl
  rw [hexec, execSnapshot, State.simple_served hs _ (State.mustFollow_of_free rfl hfree), hf]
  rfl

/-- A snapshot is taken once its pool has its frames, and else there is no space (R354). -/
theorem execSnapshot_pool (hs : s.serves h) (hfree : s.objectFree obj) (hf : s.feature h 0 = true) (ho : s.obj obj = some o)
    (hnone : s.snaps = []) (hT : (s.stepAt o.die 0).toNat + 7000 ≤ T.toNat) (hn : n ≤ 4096) :
    exec (.snapshot h obj T ⟨n, dest⟩) s = .next (
      match s.pickFrames o.die (if n = 0 then 64 else n) with
      | (u, none) => u.answer h 0x35 stNoSpace 0 []
      | (u, some runs) =>
        let snap : Snap := { obj := obj, cid := h.cid, t := T.toNat, pool := if n = 0 then 64 else n, frames := runs, dest := dest }
        { u with snaps := u.snaps ++ [snap] }.answer h 0x35 stOk 0 []) := by
  have hexec : exec (.snapshot h obj T ⟨n, dest⟩) s = execSnapshot h obj T ⟨n, dest⟩ s := rfl
  have hlimit : (decide (T.toNat < (s.stepAt o.die 0).toNat + 7000) || decide (4096 < n)) = false := by
    simp only [Bool.or_eq_false_iff, decide_eq_false_iff_not, Nat.not_lt]
    exact ⟨hT, hn⟩
  rw [hexec, execSnapshot, State.simple_served hs _ (State.mustFollow_of_free rfl hfree), hf, ho, hnone]
  dsimp only
  rw [hlimit]
  rcases s.pickFrames o.die (if n = 0 then 64 else n) with ⟨u, _ | runs⟩
  · rfl
  · rfl

end

/-! ### Host bytes (R401) -/

section
variable {a : Word}

theorem execMemwrite_outOfRange (hs : s.serves h) (data : List Byte) (hfree : s.objectFree (idOf a))
    (hr : s.hostRange a data.length = false) :
    exec (.memwrite h a data) s = .next ((s.setWaits h none).answer h 0x33 stBadField 0 []) := by
  change execMemwrite h a data s = _
  rw [execMemwrite, State.command_served hs _ (State.mustFollow_of_free rfl hfree), hr]
  exact congrArg Host.Outcome.next (if_pos (by simp))

theorem execMemwrite_accepted (hs : s.serves h) {data : List Byte} {u : State} (hlen : data.length ≤ 4080)
    (hfree : s.objectFree (idOf a)) (hr : s.hostRange a data.length = true) (hp : s.pageFailed h = false)
    (hw : s.writeSome (outsider (s.homeDie a)) a data h.cid = (u, data.length)) :
    exec (.memwrite h a data) s = .next ((u.setWaits h none).answer h 0x33 stOk 0 []) := by
  change execMemwrite h a data s = _
  rw [execMemwrite, State.command_served hs _ (State.mustFollow_of_free rfl hfree), hr, hp, hw]
  exact congrArg Host.Outcome.next ((if_neg (by simp [hlen])).trans (if_pos rfl))

theorem execMemread_outOfRange (hs : s.serves h) (n : Nat) (hfree : s.objectFree (idOf a)) (hr : s.hostRange a n = false) :
    exec (.memread h a n) s = .next ((s.setWaits h none).answer h 0x34 stBadField 0 []) := by
  change execMemread h a n s = _
  rw [execMemread, State.command_served hs _ (State.mustFollow_of_free rfl hfree), hr]
  exact congrArg Host.Outcome.next (if_pos (by simp))

/-- Bytes of one sector that their home gives at once are answered. -/
theorem execMemread_given (hs : s.serves h) {n : Nat} {u : State} {bs : List Byte} (hlen : n ≤ 4080)
    (hfree : s.objectFree (idOf a)) (hr : s.hostRange a n = true) (hp : s.pageFailed h = false)
    (hpiece : sectorPieces a.toNat n = [(a.toNat, n)])
    (hread : s.rawRead (outsider (s.homeDie a)) a n h.cid = (u, .ok bs)) :
    exec (.memread h a n) s = .next ((u.setWaits h none).answer h 0x34 stOk 0 bs) := by
  have hword : w64 a.toNat = a := BitVec.eq_of_toNat_eq (Nat.mod_eq_of_lt a.isLt)
  change execMemread h a n s = _
  rw [execMemread, State.command_served hs _ (State.mustFollow_of_free rfl hfree), hr, hp, hpiece]
  refine congrArg Host.Outcome.next ((if_neg (by simp [Nat.not_lt.2 hlen])).trans ?_)
  simp only [each, List.foldl_cons, List.foldl_nil, hword, hread, List.nil_append]

end

/-! ### Registers (R295, R359, R384, R400) -/

/-- What REGWRITE does, and its status. -/
def State.regWritten (s : State) (h : Hdr) (reg : Nat) (v : Word) : State × Nat :=
  if reg = 0x090 then ({ s with gov := { s.gov with cfg := govStored v } }, stOk)
  else if reg = 0x086 then (s.modSched (fun x => { x with schedcfg := v &&& 0xFFFFFFFFFF }), stOk)
  else if reg = 0x085 then (s.modSched (fun x => { x with xmaxlen := v &&& 0xFFFFF }), stOk)
  else if reg = 0x05B then (s.setDuctcfg (ductStored v), stOk)
  else if reg = 0xA10 then ({ s with snapbw := clampTo 1 25 v.toNat }, stOk)
  else if 0x900 ≤ reg && reg < 0x920 && s.mayForget h.cid v.toNat (reg - 0x900) then
    (s.modDie v.toNat (fun d => { d with domcids := smod [] d.domcids (reg - 0x900) (fun l => l.filter (· != h.cid)) }), stOk)
  else (s, stBadField)

theorem execRegwrite_served (hs : s.serves h) (reg : Nat) (v : Word) :
    exec (.regwrite h reg v) s = .next ((s.regWritten h reg v).1.answer h 0x40 (s.regWritten h reg v).2 0 []) := by
  change execRegwrite h reg v s = _
  rw [execRegwrite, State.simple_served hs _ (State.mustFollow_of_none rfl)]
  rfl

/-- A DOMCIDS map's number is none of the others. -/
theorem State.regWritten_domain (s : State) (h : Hdr) {dom : Nat} (hd : dom < 32) (v : Word) :
    s.regWritten h (0x900 + dom) v =
      if s.mayForget h.cid v.toNat dom then
        (s.modDie v.toNat (fun d => { d with domcids := smod [] d.domcids dom (fun l => l.filter (· != h.cid)) }), stOk)
      else (s, stBadField) := by
  have hmap : (decide (0x900 ≤ 0x900 + dom) && decide (0x900 + dom < 0x920)) = true := by
    simp only [Bool.and_eq_true, decide_eq_true_eq]
    omega
  rw [State.regWritten, if_neg (by omega), if_neg (by omega), if_neg (by omega), if_neg (by omega), if_neg (by omega), hmap,
    Bool.true_and, Nat.add_sub_cancel_left]

/-- What a write of DUCTCFG keeps (R295). -/
theorem State.setDuctcfg_keeps (s : State) (v : Word) : (s.setDuctcfg v).ductcfg = v ∧ (s.setDuctcfg v).ductEff = s.ductEff := by
  rw [State.setDuctcfg]
  exact iteInduction (motive := fun t : State => t.ductcfg = v ∧ t.ductEff = s.ductEff) (fun _ => ⟨rfl, rfl⟩)
    fun _ => ⟨rfl, rfl⟩

theorem bits_lt {w : Nat} (x : BitVec w) (hi lo : Nat) : bits x hi lo < 2 ^ (hi + 1 - lo) := Nat.mod_lt _ (Nat.two_pow_pos _)

/-- A field written with a value that fits it, and not written again. -/
theorem bits_setBits_fits (x : Word) {hi lo v : Nat} (h : hi < 64) (hl : lo ≤ hi) (hv : v < 2 ^ (hi + 1 - lo)) :
    bits (setBits x hi lo v) hi lo = v := by rw [bits_setBits x v h hl, Nat.mod_eq_of_lt hv]

theorem clampTo_le {lo hi : Nat} (v : Nat) : clampTo lo hi v ≤ hi := Nat.min_le_left _ _
theorem le_clampTo {lo hi : Nat} (h : lo ≤ hi) (v : Nat) : lo ≤ clampTo lo hi v := Nat.le_min.2 ⟨h, Nat.le_max_left _ _⟩

/-- GOVCFG is stored within its limits (R359). -/
theorem govLegal_govStored (v : Word) : govLegal (govStored v) = true := by
  have hrowp : bits (govStored v) 31 20 = max 1 (bits v 31 20) := by
    have hfits : max 1 (bits v 31 20) < 2 ^ (31 + 1 - 20) := Nat.max_lt.2 ⟨by decide, bits_lt v 31 20⟩
    rw [govStored, bits_setBits_of_disjoint _ _ (by decide) (by decide) (.inr (by decide)),
      bits_setBits_of_disjoint _ _ (by decide) (by decide) (.inr (by decide)), bits_setBits_fits _ (by decide) (by decide) hfits]
  have hdecay : bits (govStored v) 19 18 = clampTo 1 2 (bits v 19 18) := by
    have hfits : clampTo 1 2 (bits v 19 18) < 2 ^ (19 + 1 - 18) := Nat.lt_of_le_of_lt (clampTo_le _) (by decide)
    rw [govStored, bits_setBits_of_disjoint _ _ (by decide) (by decide) (.inr (by decide)),
      bits_setBits_fits _ (by decide) (by decide) hfits]
  have hzero : bits (govStored v) 17 11 = 0 := by
    rw [govStored, bits_setBits_of_disjoint _ _ (by decide) (by decide) (.inr (by decide)),
      bits_setBits_of_disjoint _ _ (by decide) (by decide) (.inl (by decide)),
      bits_setBits_of_disjoint _ _ (by decide) (by decide) (.inl (by decide)),
      bits_setBits_fits _ (by decide) (by decide) (by decide)]
  have hrate : bits (govStored v) 10 0 = clampTo 100 1600 (bits v 10 0) := by
    have hfits : clampTo 100 1600 (bits v 10 0) < 2 ^ (10 + 1 - 0) := Nat.lt_of_le_of_lt (clampTo_le _) (by decide)
    rw [govStored, bits_setBits_fits _ (by decide) (by decide) hfits]
  have h1 : 1 ≤ clampTo 1 2 (bits v 19 18) := le_clampTo (by decide) _
  have h2 : clampTo 1 2 (bits v 19 18) ≤ 2 := clampTo_le _
  rw [govLegal, hrowp, hdecay, hzero, hrate]
  simp only [Bool.and_eq_true, Bool.or_eq_true, beq_iff_eq, decide_eq_true_eq]
  exact ⟨⟨⟨⟨Nat.le_max_left _ _, by omega⟩, trivial⟩, le_clampTo (by decide) _⟩, clampTo_le _⟩

/-- DUCTCFG is stored within its limits (R295). -/
theorem ductLegal_ductStored (v : Word) : ductLegal (ductStored v) = true := by
  have hrlen : bits (ductStored v) 63 48 = clampTo 700 65535 (bits v 63 48) := by
    have hfits : clampTo 700 65535 (bits v 63 48) < 2 ^ (63 + 1 - 48) := Nat.lt_of_le_of_lt (clampTo_le _) (by decide)
    rw [ductStored, bits_setBits_of_disjoint _ _ (by decide) (by decide) (.inr (by decide)),
      bits_setBits_of_disjoint _ _ (by decide) (by decide) (.inr (by decide)),
      bits_setBits_of_disjoint _ _ (by decide) (by decide) (.inr (by decide)), bits_setBits_fits _ (by decide) (by decide) hfits]
  have hdcap : bits (ductStored v) 47 44 = clampTo 2 15 (bits v 47 44) := by
    have hfits : clampTo 2 15 (bits v 47 44) < 2 ^ (47 + 1 - 44) := Nat.lt_of_le_of_lt (clampTo_le _) (by decide)
    rw [ductStored, bits_setBits_of_disjoint _ _ (by decide) (by decide) (.inr (by decide)),
      bits_setBits_of_disjoint _ _ (by decide) (by decide) (.inr (by decide)), bits_setBits_fits _ (by decide) (by decide) hfits]
  have hc : bits (ductStored v) 43 40 = max 1 (bits v 43 40) := by
    have hfits : max 1 (bits v 43 40) < 2 ^ (43 + 1 - 40) := Nat.max_lt.2 ⟨by decide, bits_lt v 43 40⟩
    rw [ductStored, bits_setBits_of_disjoint _ _ (by decide) (by decide) (.inr (by decide)),
      bits_setBits_fits _ (by decide) (by decide) hfits]
  have hzero : bits (ductStored v) 39 32 = 0 := by
    rw [ductStored, bits_setBits_of_disjoint _ _ (by decide) (by decide) (.inr (by decide)),
      bits_setBits_of_disjoint _ _ (by decide) (by decide) (.inl (by decide)),
      bits_setBits_of_disjoint _ _ (by decide) (by decide) (.inl (by decide)),
      bits_setBits_of_disjoint _ _ (by decide) (by decide) (.inl (by decide)),
      bits_setBits_fits _ (by decide) (by decide) (by decide)]
  have htimeout : bits (ductStored v) 31 0 = max 100 (bits v 31 0) := by
    have hfits : max 100 (bits v 31 0) < 2 ^ (31 + 1 - 0) := Nat.max_lt.2 ⟨by decide, bits_lt v 31 0⟩
    rw [ductStored, bits_setBits_fits _ (by decide) (by decide) hfits]
  rw [ductLegal, hrlen, hdcap, hc, hzero, htimeout]
  simp only [Bool.and_eq_true, beq_iff_eq, decide_eq_true_eq]
  exact ⟨⟨⟨⟨le_clampTo (by decide) _, le_clampTo (by decide) _⟩, Nat.le_max_left _ _⟩, trivial⟩, Nat.le_max_left _ _⟩

/-- A CID's bit is clear in the map it is cleared in (R384). -/
theorem State.domcids_forget (s : State) (d dom cid : Nat) :
    cid ∉ sget [] ((s.modDie d (fun x =>
      { x with domcids := smod [] x.domcids dom (fun l => l.filter (· != cid)) })).die d).domcids dom := by
  rw [State.die_modDie, if_pos rfl]
  change cid ∉ sget [] (smod [] (s.die d).domcids dom (fun l => l.filter (· != cid))) dom
  rw [sget_smod, if_pos rfl, List.mem_filter]
  simp

/-- STATREAD of a register of a core (R400). -/
theorem execStatread_register (hs : s.serves h) {reg c : Nat} (hr : reg < 0x800) (hc : c < 30720) (ha : (sysAcc reg).isSome = true) :
    exec (.statread h reg c) s = .next (s.answer h 0x41 stOk (s.readSys c 0 reg) []) := by
  change execStatread h reg c s = _
  rw [execStatread, State.command_served hs _ (State.mustFollow_of_none rfl)]
  refine congrArg Host.Outcome.next ((if_pos hr).trans (if_pos ?_))
  rw [ha, Bool.and_true]
  exact decide_eq_true hc

/-! ### DOORBELL (R120, R121, R400) -/

theorem execDoorbell_served (hs : s.serves h) {c : Nat} (hc : c < 30720) :
    exec (.doorbell h c) s = .next (((s.event c 5).unpark c).answer h 0x50 stOk 0 []) := by
  have hcore : ¬ coreCount ≤ c := Nat.not_le.2 hc
  change execDoorbell h c s = _
  rw [execDoorbell, State.simple_served hs _ (State.mustFollow_of_none rfl), if_neg hcore]

/-- Ending a PARK keeps the latch of context 0. -/
theorem State.latch_unpark (s : State) (c : Nat) : ((s.unpark c).ctxAt c 0).latch = (s.ctxAt c 0).latch := by
  rw [State.ctxAt, State.unpark, State.coreAt_modCore_self]
  split
  · rw [Core.ctxAt_modCtx, if_pos rfl]
    rfl
  · rfl

/-- An event sets its bit in a LIVE context 0 (R120). -/
theorem State.latch_event {c : Nat} (hlive : (s.ctxAt c 0).st = .live) : ((s.event c 5).ctxAt c 0).latch.getLsbD 5 = true := by
  have hset : ((s.coreAt c).ctxAt 0).latched 0 5 = { (s.coreAt c).ctxAt 0 with latch := ((s.coreAt c).ctxAt 0).latch ||| (1#7 <<< 5) } :=
    if_pos ⟨hlive, .inl rfl⟩
  rw [State.ctxAt, State.event, State.coreAt_modCore_self, Core.ctxAt_raiseIrq, Core.ctxAt_latchEvent, hset]
  split
  · rw [Ctx.latch_latched_job]
    split
    · simp
    · simp
  · simp

end

/-! ### The statement -/

/-- Settles O55: each command has its turn, and is its effect with one answer. -/
theorem memoryAndRegisterCommands : Obligations.MemoryAndRegisterCommands := by
  intro s h hs
  refine ⟨?_, fun obj o ho hfree => ⟨fun hno => ⟨?_, ?_⟩, fun T n dest hnone hT hn => ?_⟩,
    fun a data u hlen hfree hr hp hw => execMemwrite_accepted hs hlen hfree hr hp hw,
    fun a data n hfree => ⟨fun hr => ?_, fun hr => ?_⟩,
    fun a n u bs hlen hfree hr hp hpiece hread => execMemread_given hs hlen hfree hr hp hpiece hread,
    fun c w a data n hc hid hb hw hwo => ?_, fun v => ?_, fun reg c hr hc ha => ?_, fun c hc => ?_⟩
  · intro obj die dom priv owncore owncid r hcount hmax hback hback3 hdie hdom hcore hcid hobj hid hnone hmask hroom
    obtain ⟨u, hout, hconns, hu, hexec⟩ :=
      execObjcreate_backed hs priv hcount hmax hback hback3 hdie hdom hcore hcid hobj hid hnone hmask hroom
    have hver : u.answersIn h = s.answersIn h := by rw [State.answersIn, State.conn, hconns]; rfl
    exact ⟨_, _, hexec, hu, Nat.zero_add _, rfl, rfl, rfl, rfl, State.replied_answer hout hver _ _ _⟩
  · intro size h0 hle hmax
    have hexec := execObjresize_shorter hs ho hfree h0 hmax hle
    by_cases heq : size = o.size
    · rw [if_pos heq] at hexec
      exact ⟨_, o, hexec, ho, heq.symm, (if_pos heq).symm⟩
    · have hno' : ∀ f ∈ ((s.forgetObj obj).die o.die).faults, f.obj ≠ obj := by rwa [State.faults_forgetObj]
      obtain ⟨u, hu⟩ := State.cutPages_of_noFaults hno' size (fun s => { s with objs := sput s.objs obj (o.cutTo size) })
      rw [if_neg heq, hu] at hexec
      exact ⟨_, o.cutTo size, hexec, (sfind_sput _ _ _ _).trans (if_pos rfl), rfl, (if_neg heq).symm⟩
  · have hno' : ∀ f ∈ ((s.forgetObj obj).die o.die).faults, f.obj ≠ obj := by rwa [State.faults_forgetObj]
    obtain ⟨u, hu⟩ := State.cutPages_of_noFaults hno' 0 (fun s => { s with objs := sdel s.objs obj })
    have hexec := execObjdelete_free hs ho hfree
    rw [hu] at hexec
    exact ⟨_, hexec, sfind_sdel_self _ _⟩
  · intro pool
    refine ⟨fun hf u runs hu => ?_, fun hf u hu => ?_, fun hf => ?_⟩
    · have hexec := execSnapshot_pool dest hs hfree hf ho hnone hT hn
      have hdraw : u = s.tick1 := by rw [← State.pickFrames_fst s o.die pool, hu]
      rw [hu, hdraw] at hexec
      refine ⟨_, hexec, ?_, State.replied_answer rfl rfl _ _ _⟩
      change s.snaps ++ _ = _
      rw [hnone, List.nil_append]
    · have hexec := execSnapshot_pool dest hs hfree hf ho hnone hT hn
      have hdraw : u = s.tick1 := by rw [← State.pickFrames_fst s o.die pool, hu]
      rw [hu, hdraw] at hexec
      exact ⟨_, hexec, hnone, State.replied_answer rfl rfl _ _ _⟩
    · exact ⟨_, execSnapshot_unknown dest hs hfree hf, hnone, State.replied_answer rfl rfl _ _ _⟩
  · exact ⟨_, execMemwrite_outOfRange hs data hfree hr, rfl, State.replied_setWaits s h _ _⟩
  · exact ⟨_, execMemread_outOfRange hs n hfree hr, rfl, State.replied_setWaits s h _ _⟩
  · refine ⟨?_, ?_, ?_⟩
    · exact congrArg Host.Outcome.next (State.command_follows hs _ (State.mustFollow_of_waiting hc hid hb hw hwo rfl) _)
    · exact congrArg Host.Outcome.next (State.command_follows hs _ (State.mustFollow_of_waiting hc hid hb hw hwo rfl) _)
    · exact congrArg Host.Outcome.next (State.command_follows hs _ (State.mustFollow_of_waiting hc hid hb hw hwo rfl) _)
  · have hexec := fun reg => execRegwrite_served hs reg v
    obtain ⟨hcfg, heff⟩ := State.setDuctcfg_keeps s (ductStored v)
    refine ⟨⟨_, hexec 0x090, rfl, govLegal_govStored v, rfl⟩, ⟨_, hexec 0x05B, hcfg, ?_, heff⟩, ⟨_, hexec 0x086, rfl⟩,
      ⟨_, hexec 0x085, rfl⟩, ⟨_, hexec 0xA10, rfl, State.replied_answer rfl rfl _ _ _⟩,
      ⟨_, hexec 0x000, State.replied_answer rfl rfl _ _ _, rfl, rfl⟩, fun dom hdom => ⟨fun hmay => ?_, fun hmay => ?_⟩⟩
    · exact (congrArg (fun w => ductLegal w = true) hcfg).mpr (ductLegal_ductStored v)
    · refine ⟨_, hexec (0x900 + dom), ?_⟩
      rw [State.regWritten_domain s h hdom v, if_pos hmay]
      exact ⟨State.domcids_forget s _ _ _, State.replied_answer rfl rfl _ _ _⟩
    · refine ⟨_, hexec (0x900 + dom), ?_⟩
      rw [State.regWritten_domain s h hdom v, hmay]
      exact ⟨rfl, State.replied_answer rfl rfl _ _ _⟩
  · exact ⟨_, execStatread_register hs hr hc ha, rfl, State.replied_answer rfl rfl _ _ _⟩
  · refine ⟨_, execDoorbell_served hs hc, State.replied_answer rfl rfl _ _ _, fun hlive => ?_⟩
    change (((s.event c 5).unpark c).ctxAt c 0).latch.getLsbD 5 = true
    rw [State.latch_unpark, State.latch_event hlive]

end Sys2Proof.Machine
end
section

/-! PROOFS. The statements on wells (spec/06 R148 to R154). -/

namespace Sys2Proof.Machine

/-! ### Cores and wells beside a retirement -/

/-- A part of any core that neither its contexts hold nor reading code changes is as before a retirement. -/
theorem State.passed.coreAt_eq {s t : State} (h : s.passed t) (c : Nat) {α : Type} (p : Core → α)
    (hp : ∀ (y : Core) tcm ecc n m obb cs, p
      { y with
        loc := { y.loc with tcm := tcm, ecc := ecc }
        eccstat := n, eccAt := m
        cache := { y.cache with obb := obb }
        ctxs := cs } = p y) : p (t.coreAt c) = p (s.coreAt c) := by
  obtain ⟨u, hu, -, ht⟩ := h
  have hctx : p (t.coreAt c) = p (u.coreAt c) := by
    rw [ht, State.modMe, State.modCtx, State.coreAt_modCore]
    split
    · rename_i e
      subst e
      exact hp (u.coreAt u.core) (u.coreAt u.core).loc.tcm _ _ _ _ _
    · rfl
  exact hctx.trans (hu.coreAt_eq c p fun y tcm ecc n m obb => hp y tcm ecc n m obb y.ctxs)

/-- A retirement changes of a well at most its data and their errors, where the next line of code lies in it (R230). -/
theorem State.passed.well {s t : State} (h : s.passed t) (c w : Nat) :
    t.well c w = { s.well c w with data := (t.well c w).data, ecc := (t.well c w).ecc } := by
  obtain ⟨u, hu, -, ht⟩ := h
  have hwell : t.well c w = u.well c w := by rw [ht]; rfl
  rw [hwell]
  exact (hu.2.2 (octOf c)).2 w

theorem State.gives.coreAt_eq {s t : State} {a : GReg} {v : Word} (h : s.gives t a v) (c : Nat) {α : Type} (p : Core → α)
    (hp : ∀ (y : Core) tcm ecc n m obb cs, p
      { y with
        loc := { y.loc with tcm := tcm, ecc := ecc }
        eccstat := n, eccAt := m
        cache := { y.cache with obb := obb }
        ctxs := cs } = p y) : p (t.coreAt c) = p (s.coreAt c) := by
  refine (h.1.coreAt_eq c p hp).trans ?_
  rw [State.setG, State.modMe, State.modCtx, State.coreAt_modCore]
  split
  · rename_i e
    subst e
    exact hp (s.coreAt s.core) (s.coreAt s.core).loc.tcm _ _ _ _ _
  · rfl

theorem State.gives.well {s t : State} {a : GReg} {v : Word} (h : s.gives t a v) (c w : Nat) :
    t.well c w = { s.well c w with data := (t.well c w).data, ecc := (t.well c w).ecc } := h.1.well c w

theorem State.gives.core {s t : State} {a : GReg} {v : Word} (h : s.gives t a v) : t.core = s.core := h.1.core

/-- What an acquire leaves of a core: all but its cache (R136). -/
theorem State.coreAt_acquire (s : State) (c : Nat) (sc : Scope) (d : Nat) {α : Type} (p : Core → α)
    (hp : ∀ (y : Core) m, p { y with cache := m } = p y) : p ((s.acquire c sc).coreAt d) = p (s.coreAt d) := by
  have hepoch : p ((s.advanceEpoch c).coreAt d) = p (s.coreAt d) := by
    rw [State.advanceEpoch, State.modCache, State.coreAt_modCore]
    split
    · rename_i h
      subst h
      exact hp _ _
    · rfl
  cases sc with
  | lane | core => rfl
  | oct | die => exact hepoch
  | pkg | pod | sys => exact hepoch

/-! ### Slots and the marks of their tiles (R30, R152 to R154) -/

theorem State.coreAt_modLoc (s : State) (c d : Nat) (f : Local → Local) :
    (s.modLoc c f).coreAt d = if d = c then { s.coreAt c with loc := f (s.coreAt c).loc } else s.coreAt d :=
  State.coreAt_modCore _ _ _ _

theorem State.bankmap_setBank (s : State) (c slot : Nat) (v : Word) (d k : Nat) :
    ((s.setBank c slot v).coreAt d).bankmap k = if d = c ∧ k = slot then v else (s.coreAt d).bankmap k := by
  rw [State.setBank, State.coreAt_modCore]
  by_cases hd : d = c
  · subst hd
    simp only [if_true, true_and, Core.bankmap]
    by_cases hv : v = 0
    · rw [if_pos hv, sget_sdel, hv]
    · rw [if_neg hv, sget_sput]
  · simp only [hd, if_false, false_and]

/-- What a change of a core's local part keeps of its slots. -/
theorem State.bankmap_modLoc {s : State} {c : Nat} {f : Local → Local} (hf : (f (s.coreAt c).loc).bank = (s.coreAt c).loc.bank) (d k : Nat) :
    ((s.modLoc c f).coreAt d).bankmap k = (s.coreAt d).bankmap k := by
  rw [State.coreAt_modLoc]
  split
  · rename_i e
    subst e
    simp only [Core.bankmap, hf]
  · rfl

theorem State.bankmap_disarm (s : State) (c slot d k : Nat) : ((s.disarm c slot).coreAt d).bankmap k = (s.coreAt d).bankmap k :=
  State.bankmap_modLoc rfl d k

theorem State.bankmap_resetExpect (s : State) (c slot d k : Nat) :
    ((s.resetExpect c slot).coreAt d).bankmap k = (s.coreAt d).bankmap k :=
  (State.bankmap_modLoc rfl d k).trans (State.bankmap_disarm s c slot d k)

/-- A disarmed slot is not armed (R149, R152). -/
theorem getLsbD_disarmed (m : BitVec 8) {k : Nat} (hk : k < 8) : (m &&& ~~~(1#8 <<< k)).getLsbD k = false := by
  simp [hk]

theorem getLsbD_armed (m : BitVec 8) {k : Nat} (hk : k < 8) : (m ||| 1#8 <<< k).getLsbD k = true := by
  simp [hk]

theorem State.armed_disarm (s : State) (c : Nat) {slot : Nat} (hk : slot < 8) :
    ((s.disarm c slot).coreAt c).loc.armed.getLsbD slot = false := by
  rw [State.disarm, State.coreAt_modLoc, if_pos rfl]
  exact getLsbD_disarmed _ hk

theorem State.armed_resetExpect (s : State) (c : Nat) {slot : Nat} (hk : slot < 8) :
    ((s.resetExpect c slot).coreAt c).loc.armed.getLsbD slot = false := by
  rw [State.resetExpect, State.coreAt_modLoc, if_pos rfl]
  exact s.armed_disarm c hk

theorem State.sameIssuer_modLoc (s : State) (c : Nat) (f : Local → Local) : s.SameIssuer (s.modLoc c f) :=
  State.sameIssuer_modCore (f := fun x => { x with loc := f x.loc }) rfl

theorem State.sameIssuer_setBank (s : State) (c slot : Nat) (v : Word) : s.SameIssuer (s.setBank c slot v) :=
  State.sameIssuer_modLoc s c (fun l => { l with bank := if v = 0 then sdel l.bank slot else sput l.bank slot v })

theorem State.sameIssuer_modWell (s : State) (c w : Nat) (f : Well → Well) : s.SameIssuer (s.modWell c w f) := ⟨rfl, rfl, rfl, rfl⟩

theorem State.sameIssuer_disarm (s : State) (c slot : Nat) : s.SameIssuer (s.disarm c slot) := s.sameIssuer_modLoc c _

theorem State.sameIssuer_resetExpect (s : State) (c slot : Nat) : s.SameIssuer (s.resetExpect c slot) :=
  (s.sameIssuer_modLoc c _).trans (State.sameIssuer_modLoc _ c _)

/-! ### Mapping and unmapping a slot (R152, R153) -/

/-- A slot mapped, before a ring in it is emptied. -/
def State.slotMapped (s : State) (c slot w mode : Nat) (shared : Bool) : State :=
  ((s.setBank c slot (mkBank (if shared then 1 else 0) mode w)).modWell c w
    (fun v => { v with st := if shared then .shared else .owned, tags := [], tagErr := [] })).resetExpect c slot

theorem State.mapSlot_eq (s : State) (c slot w mode : Nat) (shared : Bool) : s.mapSlot c slot w mode shared =
    if mode = 3 then (s.slotMapped c slot w mode shared).modLoc c (fun l => { l with head := 0, tail := 0, recs := 0, recHead := 0, recScope := [] })
    else s.slotMapped c slot w mode shared := rfl

/-- What mapping a slot does to the slot, to the well and to EXPECT. -/
theorem State.mapSlot_spec (s : State) (c w mode : Nat) (shared : Bool) {slot : Nat} (hk : slot < 8) :
    let t := s.mapSlot c slot w mode shared
    s.SameIssuer t ∧ (t.coreAt c).bankmap slot = mkBank (if shared then 1 else 0) mode w
      ∧ (t.well c w).st = (if shared then .shared else .owned) ∧ (t.well c w).tags = [] ∧ (t.coreAt c).loc.armed.getLsbD slot = false := by
  have hs : s.SameIssuer (s.slotMapped c slot w mode shared) :=
    (s.sameIssuer_setBank c slot _).trans ((State.sameIssuer_modWell _ c w _).trans (State.sameIssuer_resetExpect _ c slot))
  have hbank : ((s.slotMapped c slot w mode shared).coreAt c).bankmap slot = mkBank (if shared then 1 else 0) mode w :=
    (State.bankmap_resetExpect _ c slot c slot).trans ((s.bankmap_setBank c slot _ c slot).trans (if_pos ⟨rfl, rfl⟩))
  have hwell : (s.slotMapped c slot w mode shared).well c w = { s.well c w with st := if shared then .shared else .owned, tags := [], tagErr := [] } :=
    (State.well_modWell _ _ _ _ _ _).trans (if_pos ⟨rfl, rfl⟩)
  have harmed := State.armed_resetExpect ((s.setBank c slot (mkBank (if shared then 1 else 0) mode w)).modWell c w
    (fun v => { v with st := if shared then .shared else .owned, tags := [], tagErr := [] })) c hk
  dsimp only
  rw [State.mapSlot_eq]
  split
  · refine ⟨hs.trans (State.sameIssuer_modLoc _ c _), (State.bankmap_modLoc rfl c slot).trans hbank, congrArg Well.st hwell,
      congrArg Well.tags hwell, ?_⟩
    rw [State.coreAt_modLoc, if_pos rfl]
    exact harmed
  · exact ⟨hs, hbank, congrArg Well.st hwell, congrArg Well.tags hwell, harmed⟩

/-- What unmapping a slot does to the slot and to EXPECT. -/
theorem State.unmapSlot_spec (s : State) (c : Nat) {slot : Nat} (hk : slot < 8) :
    let t := s.unmapSlot c slot
    s.SameIssuer t ∧ (bankV ((s.coreAt c).bankmap slot) = true → (t.coreAt c).bankmap slot = 0)
      ∧ (t.coreAt c).loc.armed.getLsbD slot = false := by
  have hs := s.sameIssuer_resetExpect c slot
  have harmed := s.armed_resetExpect c hk
  have hs' := hs.trans ((s.resetExpect c slot).sameIssuer_setBank c slot 0)
  have hbank := ((s.resetExpect c slot).bankmap_setBank c slot 0 c slot).trans (if_pos ⟨rfl, rfl⟩)
  have harmed' : (((s.resetExpect c slot).setBank c slot 0).coreAt c).loc.armed.getLsbD slot = false := by
    rw [State.setBank, State.coreAt_modCore_self]
    exact harmed
  unfold State.unmapSlot
  dsimp only
  split
  · rename_i hv
    exact ⟨hs, fun h => by simp [h] at hv, harmed⟩
  · split
    · exact ⟨hs', fun _ => hbank, harmed'⟩
    · exact ⟨hs'.trans (State.sameIssuer_modWell _ _ _ _), fun _ => hbank, harmed'⟩

theorem exec_wmap {s : State} (hp : s.me.priv = true) (a b : GReg) (slot : BitVec 3) : exec (.wmap a slot b) s = .next
    ((if s.wmapCode slot.toNat (s.g b) = 0
      then s.mapSlot s.core slot.toNat (bits (s.g b) 4 0) (bits (s.g b) 6 5) ((s.g b).getLsbD 7) else s).result a
      (w64 (s.wmapCode slot.toNat (s.g b)))) := by
  simp only [exec, execWmap, State.privileged_of hp]

theorem exec_wunmap {s : State} (hp : s.me.priv = true) (a : GReg) (slot : BitVec 3) :
    exec (.wunmap a slot) s = .next (s.wunmap a slot) := by
  simp only [exec, execWunmap, State.privileged_of hp]

/-- EXPECT as it arms a slot (R154). -/
def State.expecting (s : State) (slot tag : Nat) : State :=
  s.modLoc s.core (fun l => { l with
    expTag := sput l.expTag slot (BitVec.ofNat 8 tag), armed := l.armed ||| (1#8 <<< slot), checked := sdel l.checked slot })

theorem exec_expect_of_open {s : State} {b : GReg} {slot : BitVec 3} (ht : bits (s.g b) 7 0 ≠ 0xFF)
    (ho : bankOpen (s.here.bankmap slot.toNat) = true) :
    exec (.expect slot b) s = .next (s.expecting slot.toNat (bits (s.g b) 7 0)).retire := by
  simp [exec, execExpect, ht, ho, State.expecting]

/-- Settles O25: each instruction is one change of its slot, or none, and one result. -/
theorem wellStatusAndMapping : Obligations.WellStatusAndMapping := by
  intro s a b slot he v det
  have hk : slot.toNat < 8 := slot.isLt
  refine ⟨⟨_, rfl, s.result_gives a _ he⟩, fun hp hc => ?_, fun hp hc => ?_, fun hp hb => ?_, fun hp hb => ?_, fun ht => ?_,
    fun ho => ⟨?_, fun ht => ?_⟩, fun ht ho => ?_, fun ho => ?_⟩
  · obtain ⟨hs, hbank, hst, htags, harmed⟩ := s.mapSlot_spec s.core (bits v 4 0) (bits v 6 5) (v.getLsbD 7) hk
    have hg := hs.result_gives he a 0
    have hw := hg.well s.core (bits v 4 0)
    refine ⟨_, ?_, hg, ?_, (congrArg Well.st hw).trans hst, (congrArg Well.tags hw).trans htags, ?_⟩
    · rw [exec_wmap hp, if_pos hc, hc]
      rfl
    · rw [State.here, hg.core, hs.core, hg.coreAt_eq s.core (fun x => x.bankmap slot.toNat) fun _ _ _ _ _ _ _ => rfl]
      exact hbank
    · rw [State.here, hg.core, hs.core, hg.coreAt_eq s.core (fun x => x.loc.armed) fun _ _ _ _ _ _ _ => rfl]
      exact harmed
  · exact ⟨_, by rw [exec_wmap hp, if_neg hc], s.result_gives a _ he⟩
  · rw [exec_wunmap hp, State.wunmap, if_pos hb]
  · obtain ⟨hs, hbank, harmed⟩ := s.unmapSlot_spec s.core hk
    have hg := hs.result_gives he a (w64 (bits (s.here.bankmap slot.toNat) 15 0))
    refine ⟨_, ?_, hg, fun hv => ?_, ?_⟩
    · rw [exec_wunmap hp, State.wunmap, if_neg (by simp [hb])]
    · rw [State.here, hg.core, hs.core, hg.coreAt_eq s.core (fun x => x.bankmap slot.toNat) fun _ _ _ _ _ _ _ => rfl]
      exact hbank hv
    · rw [State.here, hg.core, hs.core, hg.coreAt_eq s.core (fun x => x.loc.armed) fun _ _ _ _ _ _ _ => rfl]
      exact harmed
  · simp only [exec, execExpect, show bits (s.g b) 7 0 = 0xFF from ht, if_true]
  · simp [exec, execTagrd, ho, detached, det]
  · simp [exec, execExpect, show bits (s.g b) 7 0 ≠ 0xFF from ht, ho, detached, det]
  · have hs : s.SameIssuer (s.expecting slot.toNat (bits v 7 0)) := s.sameIssuer_modLoc s.core _
    have hpassed := hs.retire_passed he
    have hloc : (s.expecting slot.toNat (bits v 7 0)).here.loc = { s.here.loc with
        expTag := sput s.here.loc.expTag slot.toNat (BitVec.ofNat 8 (bits v 7 0))
        armed := s.here.loc.armed ||| (1#8 <<< slot.toNat), checked := sdel s.here.loc.checked slot.toNat } := by
      rw [hs.here, State.expecting, State.coreAt_modLoc, if_pos rfl]
      rfl
    refine ⟨_, exec_expect_of_open ht ho, hs.retire_g he, ?_, ?_, ?_⟩
    · rw [hpassed.here_eq (fun x => x.loc.expTag) fun _ _ _ _ _ _ _ => rfl, hloc]
      exact sget_sput_self _ _ _ _
    · rw [hpassed.here_eq (fun x => x.loc.armed) fun _ _ _ _ _ _ _ => rfl, hloc]
      exact getLsbD_armed _ hk
    · rw [hpassed.here_eq (fun x => x.loc.checked) fun _ _ _ _ _ _ _ => rfl, hloc]
      exact (sget_sdel _ _ _ _).trans (if_pos rfl)
  · refine ⟨_, ?_, s.result_gives a _ he⟩
    simp only [exec, execTagrd, ho, Bool.not_true, Bool.false_eq_true, if_false]
    rfl

/-! ### GIVE and WWAIT (R149, R150) -/

/-- An event reaches contexts and IPEND, and no local memory (R120, R125). -/
theorem State.coreAt_event {s : State} (c b d : Nat) {α : Type} (p : Core → α) (hp : ∀ (y : Core) cs i, p { y with ctxs := cs, ipend := i } = p y) :
    p ((s.event c b).coreAt d) = p (s.coreAt d) := by
  rw [State.event, State.coreAt_modCore]
  split
  · rename_i e
    subst e
    unfold Core.raiseIrq
    split
    · exact hp (s.coreAt d) _ _
    · exact hp (s.coreAt d) _ (s.coreAt d).ipend
  · rfl

/-- An event at another core leaves the issuing context. -/
theorem State.sameIssuer_event {s : State} {c : Nat} (hc : c ≠ s.core) (b : Nat) : s.SameIssuer (s.event c b) := by
  refine ⟨rfl, rfl, rfl, ?_⟩
  rw [State.me, State.ctxAt, State.event, State.modCore_core, State.modCore_ctx, State.coreAt_modCore, if_neg (Ne.symm hc)]
  rfl

/-- The well of a slot on its way to another core: unmapped here, INCOMING there, EXPECT disarmed at both ends (R149). -/
def State.handedOver (s : State) (slot r t : Nat) : State :=
  ((((s.setBank s.core slot 0).setBank r t (mkBank 2 0 (bankWell (s.here.bankmap slot)))).modWell s.core
    (bankWell (s.here.bankmap slot)) (fun v => { v with st := .incoming })).disarm s.core slot).disarm r t

theorem State.giveStep_eq (s : State) (slot r t : Nat) : s.giveStep slot r t = ((s.handedOver slot r t).event r 0).retire := rfl

/-- What a GIVE to another core does, but for its event. -/
theorem State.handedOver_spec (s : State) {slot r t : Nat} (hr : r ≠ s.core) (hslot : slot < 8) (ht : t < 8) :
    let w := bankWell (s.here.bankmap slot)
    let u := s.handedOver slot r t
    s.SameIssuer u ∧ (u.coreAt s.core).bankmap slot = 0 ∧ (u.coreAt r).bankmap t = mkBank 2 0 w
      ∧ u.well s.core w = { s.well s.core w with st := .incoming }
      ∧ (u.coreAt s.core).loc.armed.getLsbD slot = false ∧ (u.coreAt r).loc.armed.getLsbD t = false := by
  intro w u
  have h1 := s.sameIssuer_setBank s.core slot 0
  have h2 := h1.trans (State.sameIssuer_setBank _ r t (mkBank 2 0 w))
  have h3 := h2.trans (State.sameIssuer_modWell _ s.core w (fun v => { v with st := .incoming }))
  have hs : s.SameIssuer u := (h3.trans (State.sameIssuer_disarm _ s.core slot)).trans (State.sameIssuer_disarm _ r t)
  have hbank (d k : Nat) : (u.coreAt d).bankmap k
      = if d = r ∧ k = t then mkBank 2 0 w else if d = s.core ∧ k = slot then 0 else (s.coreAt d).bankmap k := by
    refine (State.bankmap_disarm _ r t d k).trans ((State.bankmap_disarm _ s.core slot d k).trans ?_)
    exact ((s.setBank s.core slot 0).bankmap_setBank r t (mkBank 2 0 w) d k).trans (by rw [State.bankmap_setBank])
  refine ⟨hs, ?_, ?_, ?_, ?_, State.armed_disarm _ r ht⟩
  · rw [hbank, if_neg (fun h => hr h.1.symm), if_pos ⟨rfl, rfl⟩]
  · rw [hbank, if_pos ⟨rfl, rfl⟩]
  · exact (State.well_modWell _ _ _ _ _ _).trans (if_pos ⟨rfl, rfl⟩)
  · have hkeep : u.coreAt s.core = _ := (State.coreAt_modLoc _ r s.core _).trans (if_neg (Ne.symm hr))
    rw [hkeep]
    exact State.armed_disarm _ s.core hslot

theorem State.give_illegal {s : State} {slot t : BitVec 3} {b : GReg}
    (h : 7 < (s.g b).toNat ∨ (s.g b).toNat = s.core % 8 ∨ bankMode (s.here.bankmap slot.toNat) ≠ 0) : s.give slot t b = s.illegal := by
  refine if_pos ?_
  have h' : 7 < (s.g b).toNat ∨ (s.g b).toNat = posOf s.core ∨ bankMode (s.here.bankmap slot.toNat) ≠ 0 := h
  simpa only [Bool.or_eq_true, decide_eq_true_eq, or_assoc] using h'

section
variable {s : State} {slot t : BitVec 3} {b : GReg} (h7 : (s.g b).toNat ≤ 7) (hpos : (s.g b).toNat ≠ s.core % 8)
  (hm : bankMode (s.here.bankmap slot.toNat) = 0)
include h7 hpos hm

/-- GIVE of a plain slot to another core of the octet. -/
theorem State.give_eq : s.give slot t b =
    if bankV (s.here.bankmap slot.toNat) = false ∨ bankSt (s.here.bankmap slot.toNat) ≠ 0 then s.raise (detached slot.toNat)
    else if s.giveReady slot.toNat (8 * octOf s.core + (s.g b).toNat) t.toNat
      then s.giveStep slot.toNat (8 * octOf s.core + (s.g b).toNat) t.toNat
    else s.hold (.give slot b t) 0 := by
  have hno : ¬(7 < (s.g b).toNat) := by omega
  simp [State.give, posOf, hno, hpos, hm]

end

/-- The state in which WWAIT makes an INCOMING well OWNED (R150). -/
def State.received (s : State) (slot : Nat) : State :=
  ((s.setBank s.core slot (mkBank 0 (bankMode (s.here.bankmap slot)) (bankWell (s.here.bankmap slot)))).modWell s.core
    (bankWell (s.here.bankmap slot)) (fun v => { v with st := .owned }))

theorem State.wwait_incoming {s : State} {slot : BitVec 3} (hv : bankV (s.here.bankmap slot.toNat) = true)
    (hst : bankSt (s.here.bankmap slot.toNat) = 2) :
    s.wwait slot = ((s.received slot.toNat).acquire s.core .oct).retire := by
  simp [State.wwait, hv, hst, State.received]
  rfl

/-- GIVE with both its waits over (R149). -/
theorem State.give_spec {s : State} {slot t : BitVec 3} {b : GReg} (he : s.me.eret ≠ 1) (h7 : (s.g b).toNat ≤ 7)
    (hpos : (s.g b).toNat ≠ s.core % 8) (hm : bankMode (s.here.bankmap slot.toNat) = 0) (hv : bankV (s.here.bankmap slot.toNat) = true)
    (hst : bankSt (s.here.bankmap slot.toNat) = 0) (hr : s.giveReady slot.toNat (8 * octOf s.core + (s.g b).toNat) t.toNat = true) :
    let r := 8 * octOf s.core + (s.g b).toNat
    let w := bankWell (s.here.bankmap slot.toNat)
    let u := s.give slot t b
    u.here.bankmap slot.toNat = 0 ∧ (u.coreAt r).bankmap t.toNat = mkBank 2 0 w
      ∧ (u.well s.core w).st = .incoming ∧ (u.well s.core w).tags = (s.well s.core w).tags
      ∧ u.here.loc.armed.getLsbD slot.toNat = false ∧ (u.coreAt r).loc.armed.getLsbD t.toNat = false ∧ ∀ q, u.g q = s.g q := by
  intro r w u
  have hne : r ≠ s.core := by
    have : r = 8 * (s.core / 8) + (s.g b).toNat := rfl
    omega
  obtain ⟨hs, hhere, hthere, hwell, harmed, harmed'⟩ := s.handedOver_spec hne slot.isLt t.isLt
  have hse : s.SameIssuer ((s.handedOver slot.toNat r t.toNat).event r 0) := hs.trans (State.sameIssuer_event (by rwa [hs.core]) 0)
  have hpassed := hse.retire_passed he
  have hu : u = ((s.handedOver slot.toNat r t.toNat).event r 0).retire :=
    (State.give_eq h7 hpos hm).trans ((if_neg (by simp [hv, hst])).trans ((if_pos hr).trans (s.giveStep_eq _ _ _)))
  have hkeep (d : Nat) {α : Type} (q : Core → α) (hq : ∀ (y : Core) tcm ecc n m obb cs i, q
      { y with
        loc := { y.loc with tcm := tcm, ecc := ecc }
        eccstat := n, eccAt := m
        cache := { y.cache with obb := obb }
        ctxs := cs, ipend := i } = q y) : q (u.coreAt d) = q ((s.handedOver slot.toNat r t.toNat).coreAt d) := by
    rw [hu]
    exact (hpassed.coreAt_eq d q fun y tcm ecc n m obb cs => hq y tcm ecc n m obb cs y.ipend).trans
      (State.coreAt_event r 0 d q fun y cs i => hq y y.loc.tcm y.loc.ecc y.eccstat y.eccAt y.cache.obb cs i)
  have hcore : u.core = s.core := by rw [hu, hpassed.core, hse.core]
  have hw := hpassed.well s.core w
  rw [← hu] at hw
  have htags : ((s.handedOver slot.toNat r t.toNat).well s.core w).tags = (s.well s.core w).tags := by rw [hwell]
  refine ⟨?_, ?_, (congrArg Well.st hw).trans (congrArg Well.st hwell), (congrArg Well.tags hw).trans htags, ?_, ?_, ?_⟩
  · rw [State.here, hcore, hkeep s.core (fun x => x.bankmap slot.toNat) fun _ _ _ _ _ _ _ _ => rfl]
    exact hhere
  · rw [hkeep r (fun x => x.bankmap t.toNat) fun _ _ _ _ _ _ _ _ => rfl]
    exact hthere
  · rw [State.here, hcore, hkeep s.core (fun x => x.loc.armed) fun _ _ _ _ _ _ _ _ => rfl]
    exact harmed
  · rw [hkeep r (fun x => x.loc.armed) fun _ _ _ _ _ _ _ _ => rfl]
    exact harmed'
  · rw [hu]
    exact hse.retire_g he

/-- WWAIT of an INCOMING well (R150). -/
theorem State.wwait_spec {s : State} {slot : BitVec 3} (he : s.me.eret ≠ 1) (hv : bankV (s.here.bankmap slot.toNat) = true)
    (hst : bankSt (s.here.bankmap slot.toNat) = 2) :
    let w := bankWell (s.here.bankmap slot.toNat)
    let u := s.wwait slot
    u.here.bankmap slot.toNat = mkBank 0 (bankMode (s.here.bankmap slot.toNat)) w ∧ (u.well s.core w).st = .owned ∧ ∀ q, u.g q = s.g q := by
  intro w u
  have hs : s.SameIssuer (s.received slot.toNat) := (s.sameIssuer_setBank _ _ _).trans (State.sameIssuer_modWell _ _ _ _)
  have hsa := hs.trans ((s.received slot.toNat).acquire_sameIssuer s.core .oct)
  have hpassed := hsa.retire_passed he
  have hu : u = ((s.received slot.toNat).acquire s.core .oct).retire := State.wwait_incoming hv hst
  have hw := hpassed.well s.core w
  have hwell : ((s.received slot.toNat).acquire s.core .oct).well s.core w = { s.well s.core w with st := .owned } :=
    (State.well_modWell _ _ _ _ _ _).trans (if_pos ⟨rfl, rfl⟩)
  rw [hu]
  refine ⟨?_, (congrArg Well.st hw).trans (congrArg Well.st hwell), hsa.retire_g he⟩
  rw [hpassed.here_eq (fun x => x.bankmap slot.toNat) fun _ _ _ _ _ _ _ => rfl, hsa.here]
  refine (State.coreAt_acquire _ s.core .oct s.core (fun x => x.bankmap slot.toNat) fun _ _ => rfl).trans ?_
  exact (s.bankmap_setBank s.core slot.toNat _ s.core slot.toNat).trans (if_pos ⟨rfl, rfl⟩)

/-- Settles O24: GIVE and WWAIT by the entry of their slot, and their waits as the instructions at the waiting context. -/
theorem giveAndWellWaits : Obligations.GiveAndWellWaits := by
  refine ⟨?_, fun s c k slot t a b => ⟨fun hw => ?_, fun hw => ?_, fun hw hp => ?_⟩⟩
  · intro s slot t b he p r e w
    refine ⟨fun h => congrArg _ (State.give_illegal h), fun h7 hpos hm => ⟨fun h => ?_, fun hv hst hr => ?_, fun hv hst hr => ?_⟩,
      fun hv => ?_, fun hv hst => ⟨_, rfl, State.wwait_spec he hv hst⟩, fun hv hst => ?_⟩
    · exact congrArg _ ((State.give_eq h7 hpos hm).trans (if_pos h))
    · refine congrArg _ ((State.give_eq h7 hpos hm).trans ((if_neg ?_).trans (if_neg (by simpa using hr))))
      simp [show bankV (s.here.bankmap slot.toNat) = true from hv, show bankSt (s.here.bankmap slot.toNat) = 0 from hst]
    · exact ⟨_, rfl, State.give_spec he h7 hpos hm hv hst hr⟩
    · exact congrArg _ (if_pos (by simp [show bankV (s.here.bankmap slot.toNat) = false from hv]))
    · simp [exec, execWwait, State.wwait, show bankV (s.here.bankmap slot.toNat) = true from hv,
        show bankSt (s.here.bankmap slot.toNat) ≠ 2 from hst]
  · simp only [exec, execGiveIndivisibleStep, execGive, State.me_at, hw]
  · simp only [exec, execWwaitComplete, execWwait, State.me_at, hw]
  · rw [exec_wunmap (s := s.at_ c k) hp]
    simp only [exec, execWunmapComplete, State.me_at, hw]

end Sys2Proof.Machine
end
section

/-! PROOFS. The statements on barriers, token rings and witnesses (spec/06 R170 to R175) and on XBAR and XEND (R158, R162). -/

namespace Sys2Proof.Machine

/-! ### Instances and rings beside a retirement and an acquire -/

theorem State.passed.inst {s t : State} (h : s.passed t) (i : Inst) : t.inst i = s.inst i := by
  obtain ⟨u, hu, -, e⟩ := h
  obtain ⟨-, -, -, -, -, hinsts, -⟩ := hu.fields
  rw [e]
  exact congrArg (fun m => sget ({} : DInst) m i.key) hinsts

theorem State.passed.ring {s t : State} (h : s.passed t) (r : RingId) : t.ring r = s.ring r := by
  obtain ⟨u, hu, -, e⟩ := h
  obtain ⟨-, -, -, -, -, -, hrings, -⟩ := hu.fields
  rw [e]
  exact congrArg (fun m => sget ({} : Ring) m r.key) hrings

theorem State.gives.inst {s t : State} {a : GReg} {v : Word} (h : s.gives t a v) (i : Inst) : t.inst i = s.inst i := h.1.inst i

theorem State.gives.ring {s t : State} {a : GReg} {v : Word} (h : s.gives t a v) (r : RingId) : t.ring r = s.ring r := h.1.ring r

theorem State.gives.wait {s t : State} {a : GReg} {v : Word} (h : s.gives t a v) : t.me.wait = none := h.1.wait

/-- A retirement leaves ARRIVED (R172). -/
theorem State.gives.arrived {s t : State} {a : GReg} {v : Word} (h : s.gives t a v) : t.me.arrived = s.me.arrived := by
  have hme := h.1.me
  rw [State.me_setG] at hme
  rw [show t.me = _ from hme, Ctx.setReg]
  split
  · rfl
  · rfl

/-- An acquire reaches the caches of its core and the gateways of its die, and nothing of Ductus (R136). -/
theorem State.acquire_keeps (s : State) (c : Nat) (sc : Scope) :
    (s.acquire c sc).insts = s.insts ∧ (s.acquire c sc).rings = s.rings ∧ (s.acquire c sc).agenda = s.agenda := by
  cases sc with
  | lane | core => exact ⟨rfl, rfl, rfl⟩
  | oct | die => exact ⟨rfl, rfl, rfl⟩
  | pkg | pod | sys => exact ⟨rfl, rfl, rfl⟩

theorem State.stepAt_modDie (s : State) (d : Nat) (f : Die → Die) (hf : ∀ x : Die, (f x).stepOff = x.stepOff) (e r : Nat) :
    (s.modDie d f).stepAt e r = s.stepAt e r := by
  rw [State.stepAt, State.die_modDie]
  split
  · rename_i h
    subst h
    rw [hf]
    rfl
  · rfl

theorem State.stepAt_acquire (s : State) (c : Nat) (sc : Scope) (d r : Nat) : (s.acquire c sc).stepAt d r = s.stepAt d r := by
  cases sc with
  | lane | core => rfl
  | oct | die => rfl
  | pkg | pod | sys => exact State.stepAt_modDie (s.advanceEpoch c) (dieOf c) (fun x => { x with gates := [] }) (fun _ => rfl) d r

theorem State.witnessOf_acquire (s : State) (c : Nat) (sc : Scope) (d : Nat) (i : Inst) :
    (s.acquire c sc).witnessOf d i = s.witnessOf d i := by
  obtain ⟨hinsts, -, -⟩ := s.acquire_keeps c sc
  rw [State.witnessOf, State.stepOf, State.stepAt_acquire, State.inst, hinsts]
  rfl

/-! ### A witness, or TOKEN_LOST (R170) -/

section
variable {s : State} (he : s.me.eret ≠ 1) (a : GReg) (w : Word)
include he

omit he in
theorem State.witness_of_kept (hl : s.here.toklost = false) : s.witness a w = s.result a w := if_neg (ne_true_of_eq_false hl)

theorem State.witness_gives (hl : s.here.toklost = false) : s.gives (s.witness a w) a w := by
  rw [State.witness_of_kept a w hl]
  exact s.result_gives a w he

/-- While TOKLOST is set TOKEN_LOST is delivered and the flag is cleared. -/
theorem State.witness_lost (hl : s.here.toklost = true) : (s.witness a w).here.toklost = false
    ∧ ∀ x, (s.witness a w).g x = if x = a ∧ a ≠ 0 then BitVec.allOnes 64 else s.g x := by
  have hs : s.SameIssuer (s.modHere (fun x => { x with toklost := false })) := State.sameIssuer_modHere rfl
  have hg := hs.result_gives he a tokenLost
  rw [State.witness, if_pos hl]
  refine ⟨?_, fun x => ?_⟩
  · rw [State.here, hg.core, hg.coreAt_eq _ (·.toklost) fun _ _ _ _ _ _ _ => rfl]
    exact congrArg Core.toklost (State.coreAt_modCore_self _ _ _)
  · rw [hg.2 x, hs.g]
    rfl

end

/-! ### Arrivals (R171, R285) -/

/-- The core's F set at a unit. -/
def State.flagged (s : State) (i : Inst) (u c : Nat) : State := s.modMembAt i u c (fun m => { m with f := true })

/-- The core's X set at a unit. -/
def State.flaggedAgain (s : State) (i : Inst) (u c : Nat) : State := s.modMembAt i u c (fun m => { m with x := true })

section
variable {s : State} {i : Inst} {u c : Nat}

theorem State.arrive_first (hf : (s.membAt i u c).f = false) :
    s.arrive i u c = ((s.flagged i u c).push (.arrivalMessage i u c), 1) := if_pos (by simp [hf])

theorem State.arrive_second (hf : (s.membAt i u c).f = true) (hx : (s.membAt i u c).x = false) :
    s.arrive i u c = (s.flaggedAgain i u c, 2) := (if_neg (by simp [hf])).trans (if_pos (by simp [hx]))

theorem State.arrive_refused (hf : (s.membAt i u c).f = true) (hx : (s.membAt i u c).x = true) : s.arrive i u c = (s, 0) :=
  (if_neg (by simp [hf])).trans (if_neg (by simp [hx]))

/-- An arrival changes no context. -/
theorem State.arrive_sameIssuer (s : State) (i : Inst) (u c : Nat) : s.SameIssuer (s.arrive i u c).1 := by
  unfold State.arrive
  dsimp only
  split
  · exact ⟨rfl, rfl, rfl, rfl⟩
  · split
    · exact ⟨rfl, rfl, rfl, rfl⟩
    · exact .refl s

/-- Flags are not in a witness (R170). -/
theorem State.witnessOf_modMembAt (s : State) (i : Inst) (u c : Nat) (f : Memb → Memb) (d : Nat) :
    (s.modMembAt i u c f).witnessOf d i = s.witnessOf d i := by
  rw [State.witnessOf, State.modMembAt, State.modUnit, State.inst_modInst]
  rfl

theorem State.membAt_flagged : (s.flagged i u c).membAt i u c = { s.membAt i u c with f := true } := State.membAt_modMembAt _ _ _ _ _

theorem State.membAt_flaggedAgain : (s.flaggedAgain i u c).membAt i u c = { s.membAt i u c with x := true } :=
  State.membAt_modMembAt _ _ _ _ _

end

/-- The issuing context held with ARRIVED set (R172). -/
def State.heldArrived (s : State) (i : Instr) (n : Word) : State := (s.hold i n).modMe (fun x => { x with arrived := true })

theorem State.SameIssuer.heldArrived {s v : State} (hv : s.SameIssuer v) (i : Instr) (n : Word) :
    (v.heldArrived i n).me.wait = some i ∧ (v.heldArrived i n).me.arrived = true ∧ ∀ r, (v.heldArrived i n).g r = s.g r := by
  have hme : (v.heldArrived i n).me = { v.me with wait := some i, since := v.now, aux := n, arrived := true } := by
    rw [State.heldArrived, State.me_modMe, State.hold, State.me_modMe]
  refine ⟨by rw [hme], by rw [hme], fun r => ?_⟩
  rw [State.g, hme, State.g, hv.me]
  rfl

/-! ### BAR, BARA and BARW (R171, R172) -/

/-- The state in which a BAR or a BARW completes: an acquire made, and ARRIVED cleared by a BAR. -/
def State.barrierPast (s : State) (sc : Scope) (bar : Bool) : State :=
  (s.acquire s.core sc).modMe (fun x => { x with arrived := x.arrived && !bar })

theorem State.barrierPast_bar (s : State) (sc : Scope) :
    s.barrierPast sc true = (s.acquire s.core sc).modMe (fun x => { x with arrived := false }) := by
  simp [State.barrierPast]

theorem Ctx.keep_arrived (x : Ctx) : { x with arrived := x.arrived && !false } = x := by simp

/-- What a result gives past a change of the context that changes nothing of it. -/
theorem State.gives_of_modMe {s t : State} {f : Ctx → Ctx} (hf : f s.me = s.me) {a : GReg} {v : Word} (h : (s.modMe f).gives t a v) :
    s.gives t a v := by
  have hset : (s.modMe f).setG a v = s.setG a v := by
    rw [State.setG, State.modMe_modMe]
    exact State.modMe_congr s (congrArg (fun x => x.setReg a v) hf)
  obtain ⟨hp, hg⟩ := h
  refine ⟨hset ▸ hp, fun r => ?_⟩
  rw [hg r, State.g, State.me_modMe, hf, State.g]

section
variable {s : State} {sc : Scope} (bar : Bool)

theorem State.me_barrierPast : (s.barrierPast sc bar).me = { s.me with arrived := s.me.arrived && !bar } := by
  rw [State.barrierPast, State.me_modMe, (s.acquire_sameIssuer s.core sc).me]

theorem State.g_barrierPast (r : GReg) : (s.barrierPast sc bar).g r = s.g r := by
  rw [State.g, State.me_barrierPast]
  rfl

theorem State.toklost_barrierPast : (s.barrierPast sc bar).here.toklost = s.here.toklost := by
  have hcore := (s.acquire_sameIssuer s.core sc).core
  rw [State.barrierPast, State.here_modMe]
  refine Eq.trans (b := (s.acquire s.core sc).here.toklost) rfl ?_
  rw [State.here, hcore]
  exact s.coreAt_acquire s.core sc s.core (·.toklost) fun _ _ => rfl

theorem State.barrierDone_eq (a : GReg) :
    s.barrierDone sc a bar = (s.barrierPast sc bar).witness a (s.witnessOf s.core (instOf sc s.core)) := by
  have hcore := (s.acquire_sameIssuer s.core sc).core
  have hword : (s.acquire s.core sc).witnessOf (s.acquire s.core sc).core (instOf sc (s.acquire s.core sc).core)
      = s.witnessOf s.core (instOf sc s.core) := by
    rw [hcore, s.witnessOf_acquire]
  rw [← hword]
  rfl

end

section
variable {s : State} {sc : Scope} {a : GReg} {u : BitVec 5}

theorem exec_bar_arrived (ha : s.me.arrived = true) : exec (.bar sc a u) s = .next
    (if (s.membAt (instOf sc s.core) u.toNat s.core).f then s.hold (.bar sc a u) 3 else s.barrierDone sc a true) := by
  simp only [exec, execBar, ha, if_true]
  rfl

theorem exec_bar_member (ha : s.me.arrived = false) (hm : (s.membAt (instOf sc s.core) u.toNat s.core).mb = true) (hd : s.drained) :
    exec (.bar sc a u) s = .next (s.barArrive sc a u) := by
  simp [exec, execBar, ha, hm, State.onRelease_of_drained hd]

theorem exec_bara_member (hm : (s.membAt (instOf sc s.core) u.toNat s.core).mb = true) (hd : s.drained) :
    exec (.bara sc a u) s = .next (s.baraArrive sc a u) := by
  simp [exec, execBara, hm, State.onRelease_of_drained hd]

theorem exec_barw_clear (hf : (s.membAt (instOf sc s.core) u.toNat s.core).f = false) :
    exec (.barw sc a u) s = .next (s.barrierDone sc a false) := by
  simp [exec, execBarw, hf]

theorem State.barArrive_first (hf : (s.membAt (instOf sc s.core) u.toNat s.core).f = false) : s.barArrive sc a u =
    ((s.flagged (instOf sc s.core) u.toNat s.core).push (.arrivalMessage (instOf sc s.core) u.toNat s.core)).heldArrived (.bar sc a u) 1 := by
  rw [State.barArrive, State.arrive_first hf]
  rfl

theorem State.barArrive_second (hf : (s.membAt (instOf sc s.core) u.toNat s.core).f = true)
    (hx : (s.membAt (instOf sc s.core) u.toNat s.core).x = false) :
    s.barArrive sc a u = (s.flaggedAgain (instOf sc s.core) u.toNat s.core).heldArrived (.bar sc a u) 2 := by
  rw [State.barArrive, State.arrive_second hf hx]
  rfl

theorem State.barArrive_refused (hf : (s.membAt (instOf sc s.core) u.toNat s.core).f = true)
    (hx : (s.membAt (instOf sc s.core) u.toNat s.core).x = true) : s.barArrive sc a u = s.hold (.bar sc a u) 0 := by
  rw [State.barArrive, State.arrive_refused hf hx]
  rfl

theorem State.baraArrive_first (hf : (s.membAt (instOf sc s.core) u.toNat s.core).f = false) : s.baraArrive sc a u =
    ((s.flagged (instOf sc s.core) u.toNat s.core).push (.arrivalMessage (instOf sc s.core) u.toNat s.core)).witness a
      (s.witnessOf s.core (instOf sc s.core)) := by
  have hword : ((s.flagged (instOf sc s.core) u.toNat s.core).push (.arrivalMessage (instOf sc s.core) u.toNat s.core)).witnessOf s.core
      (instOf sc s.core) = s.witnessOf s.core (instOf sc s.core) := s.witnessOf_modMembAt _ _ _ _ _
  rw [← hword, State.baraArrive, State.arrive_first hf]
  rfl

theorem State.baraArrive_second (hf : (s.membAt (instOf sc s.core) u.toNat s.core).f = true)
    (hx : (s.membAt (instOf sc s.core) u.toNat s.core).x = false) : s.baraArrive sc a u =
    (s.flaggedAgain (instOf sc s.core) u.toNat s.core).witness a (s.witnessOf s.core (instOf sc s.core)) := by
  have hword : (s.flaggedAgain (instOf sc s.core) u.toNat s.core).witnessOf s.core (instOf sc s.core)
      = s.witnessOf s.core (instOf sc s.core) := s.witnessOf_modMembAt _ _ _ _ _
  rw [← hword, State.baraArrive, State.arrive_second hf hx]
  rfl

theorem State.baraArrive_refused (hf : (s.membAt (instOf sc s.core) u.toNat s.core).f = true)
    (hx : (s.membAt (instOf sc s.core) u.toNat s.core).x = true) : s.baraArrive sc a u = s.hold (.bara sc a u) 0 := by
  rw [State.baraArrive, State.arrive_refused hf hx]
  rfl

end

/-- Settles O26: BAR and BARA by the arrival they make, BARW by F. -/
theorem barrierInstructions : Obligations.BarrierInstructions := by
  intro s sc a u hd hl he i m
  have hme {v : State} (hv : s.SameIssuer v) : v.me.eret ≠ 1 := hv.eret_ne he
  have h1 : s.SameIssuer ((s.flagged i u.toNat s.core).push (.arrivalMessage i u.toNat s.core)) := ⟨rfl, rfl, rfl, rfl⟩
  have h2 : s.SameIssuer (s.flaggedAgain i u.toNat s.core) := ⟨rfl, rfl, rfl, rfl⟩
  refine ⟨fun hm ha => ⟨fun hf => ?_, fun hf hx => ?_, fun hf hx => ?_⟩, fun ha => ⟨fun hf => ?_, fun hf => ?_⟩,
    fun hm => ⟨fun hf => ?_, fun hf hx => ?_, fun hf hx => ?_⟩, fun hf => ?_, fun hf => ?_, fun hm ha => ?_, fun hm => ?_⟩
  · obtain ⟨hw, harr, hg⟩ := h1.heldArrived (.bar sc a u) 1
    exact ⟨_, (exec_bar_member ha hm hd).trans (congrArg _ (State.barArrive_first hf)),
      congrArg Memb.f (State.membAt_flagged (s := s)), hw, harr, rfl, hg⟩
  · obtain ⟨hw, harr, hg⟩ := h2.heldArrived (.bar sc a u) 2
    exact ⟨_, (exec_bar_member ha hm hd).trans (congrArg _ (State.barArrive_second hf hx)),
      (congrArg Memb.f (State.membAt_flaggedAgain (s := s))).trans hf, congrArg Memb.x (State.membAt_flaggedAgain (s := s)), hw, harr, rfl, hg⟩
  · exact (exec_bar_member ha hm hd).trans (congrArg _ (State.barArrive_refused hf hx))
  · have hpast := State.witness_gives (s := s.barrierPast sc true) (by rw [State.me_barrierPast]; exact he) a
      (s.witnessOf s.core (instOf sc s.core)) ((State.toklost_barrierPast true).trans hl)
    refine ⟨_, (exec_bar_arrived ha).trans (congrArg _ ((if_neg (ne_true_of_eq_false hf)).trans
      (State.barrierDone_eq true a))), ?_, ?_⟩
    · rw [hpast.arrived, State.me_barrierPast]
      exact Bool.and_false _
    · exact State.barrierPast_bar s sc ▸ hpast
  · exact (exec_bar_arrived ha).trans (congrArg _ (if_pos hf))
  · have hg := State.witness_gives (hme h1) a (s.witnessOf s.core i) hl
    refine ⟨_, (exec_bara_member hm hd).trans (congrArg _ (State.baraArrive_first hf)), ?_, hg.wait, fun hin => ?_, fun r => ?_⟩
    · rw [State.membAt, hg.inst]
      exact congrArg Memb.f (State.membAt_flagged (s := s))
    · rw [State.witness_of_kept (s := (s.flagged i u.toNat s.core).push (.arrivalMessage i u.toNat s.core)) a _ hl,
        State.result_inLine _ _ _ (hme h1) (h1.inLine hin)]
      rfl
    · rw [hg.2 r, h1.g]
  · have hg := State.witness_gives (hme h2) a (s.witnessOf s.core i) hl
    refine ⟨_, (exec_bara_member hm hd).trans (congrArg _ (State.baraArrive_second hf hx)), ?_, hg.wait, fun r => ?_⟩
    · rw [State.membAt, hg.inst]
      exact congrArg Memb.x (State.membAt_flaggedAgain (s := s))
    · rw [hg.2 r, h2.g]
  · exact (exec_bara_member hm hd).trans (congrArg _ (State.baraArrive_refused hf hx))
  · refine ⟨_, (exec_barw_clear hf).trans (congrArg _ (State.barrierDone_eq false a)), ?_⟩
    refine State.gives_of_modMe (Ctx.keep_arrived _) (State.witness_gives (s := s.barrierPast sc false) ?_ a _ ?_)
    · rw [State.me_barrierPast]
      exact he
    · exact (State.toklost_barrierPast false).trans hl
  · simp only [exec, execBarw, show (s.membAt (instOf sc s.core) u.toNat s.core).f = true from hf, if_true]
    rfl
  · simp [exec, execBar, ha, show (s.membAt (instOf sc s.core) u.toNat s.core).mb = false from hm, nonmember]
  · simp [exec, execBara, show (s.membAt (instOf sc s.core) u.toNat s.core).mb = false from hm, nonmember]

/-! ### Token rings (R174) -/

/-- The ring as a TOKW that is granted leaves it: a hold begins unless one stands. -/
def State.holdBegun (s : State) (r : RingId) : State :=
  s.modRing r (fun x => if (sfind x.held s.core).isSome then x else { x with held := sput x.held s.core s.now })

theorem State.holdBegun_held (s : State) (r : RingId) : (sfind ((s.holdBegun r).ring r).held s.core).isSome = true := by
  rw [State.holdBegun, State.ring_modRing]
  split
  · assumption
  · rw [sfind_sput, if_pos rfl]
    rfl

/-- The state in which a granted TOKW delivers its witness. -/
def State.tokenTaken (s : State) (sc : Scope) (r : RingId) : State := (s.holdBegun r).acquire s.core sc

theorem State.tokenTaken_sameIssuer (s : State) (sc : Scope) (r : RingId) : s.SameIssuer (s.tokenTaken sc r) :=
  State.SameIssuer.trans (t := s.holdBegun r) ⟨rfl, rfl, rfl, rfl⟩ ((s.holdBegun r).acquire_sameIssuer s.core sc)

theorem State.toklost_tokenTaken (s : State) (sc : Scope) (r : RingId) : (s.tokenTaken sc r).here.toklost = s.here.toklost := by
  rw [State.here, (s.tokenTaken_sameIssuer sc r).core]
  exact (s.holdBegun r).coreAt_acquire s.core sc s.core (·.toklost) fun _ _ => rfl

theorem State.ring_tokenTaken (s : State) (sc : Scope) (r : RingId) : (s.tokenTaken sc r).ring r = (s.holdBegun r).ring r :=
  congrArg (fun m => sget ({} : Ring) m r.key) ((s.holdBegun r).acquire_keeps s.core sc).2.1

/-- A hold that begins leaves the ring's LEGIT and GEN, and STEP. -/
theorem State.ringWitness_holdBegun (s : State) (r : RingId) : (s.holdBegun r).ringWitness s.core r = s.ringWitness s.core r := by
  have hring : (s.holdBegun r).ring r = { s.ring r with held := ((s.holdBegun r).ring r).held } := by
    rw [State.holdBegun, State.ring_modRing]
    split
    · rfl
    · rfl
  rw [State.ringWitness, hring]
  rfl

section
variable {s : State} {sc : Scope} {a : GReg} {k : BitVec 5}

theorem exec_tokw_granted (hm : (s.ring (ringOf sc s.core k.toNat)).mb.contains s.core = true)
    (hg : (s.ring (ringOf sc s.core k.toNat)).grants s.core = true) : exec (.tokw sc a k) s = .next
      ((s.tokenTaken sc (ringOf sc s.core k.toNat)).witness a (s.ringWitness s.core (ringOf sc s.core k.toNat))) := by
  rw [← s.ringWitness_holdBegun]
  simp only [exec, execTokw, State.tokw, hm, hg, Bool.not_true, Bool.false_eq_true, if_false, if_true]
  rfl

theorem exec_tokp_member (hm : (s.ring (ringOf sc s.core k.toNat)).mb.contains s.core = true) (hd : s.drained) :
    exec (.tokp sc a k) s = .next ((s.modRing (ringOf sc s.core k.toNat) (fun x => { x with held := sdel x.held s.core })).witness a
      (s.ringWitness s.core (ringOf sc s.core k.toNat))) := by
  simp only [exec, execTokp, hm, Bool.not_true, Bool.false_eq_true, if_false, State.onRelease_of_drained hd]

theorem exec_witTok_member {j : BitVec 4} (hm : (s.ring (ringOf sc s.core j.toNat)).mb.contains s.core = true) :
    exec (.witTok sc a j) s = .next (s.witness a (s.ringWitness s.core (ringOf sc s.core j.toNat))) := by
  simp only [exec, execWitTok, hm, Bool.not_true, Bool.false_eq_true, if_false]

end

/-- What an instruction of major 0x25 that delivers a witness does while TOKLOST is set (R170). -/
theorem lost_of_witness {s v : State} {i : Instr} {a : GReg} {w : Word} (hi : exec i s = .next (v.witness a w))
    (hl : v.here.toklost = true) (he : v.me.eret ≠ 1) (hg : ∀ r, v.g r = s.g r) :
    ∃ t, exec i s = .next t ∧ t.here.toklost = false ∧ ∀ x, t.g x = if x = a ∧ a ≠ 0 then BitVec.allOnes 64 else s.g x := by
  obtain ⟨hclear, hgs⟩ := State.witness_lost he a w hl
  exact ⟨_, hi, hclear, fun x => by rw [hgs x, hg]⟩

/-- Settles O28: each instruction delivers one witness, and TOKEN_LOST where the flag stands. -/
theorem tokensAndWitnesses : Obligations.TokensAndWitnesses := by
  constructor
  · intro s sc a k j he r q
    refine ⟨fun hl => ⟨fun hm hg => ?_, fun hm hd => ?_, ?_, fun hm => ?_⟩, fun hm hg => ?_, fun hm => ?_, fun hm => ?_, fun c x hw => ?_⟩
    · have hs := s.tokenTaken_sameIssuer sc r
      have hgive := State.witness_gives (hs.eret_ne he) a (s.ringWitness s.core r) ((s.toklost_tokenTaken sc r).trans hl)
      refine ⟨_, exec_tokw_granted hm hg, ?_, fun x => ?_⟩
      · rw [hgive.ring, State.ring_tokenTaken]
        exact s.holdBegun_held r
      · rw [hgive.2 x, hs.g]
    · have hgive := State.witness_gives (s := s.modRing r (fun x => { x with held := sdel x.held s.core })) he a (s.ringWitness s.core r) hl
      refine ⟨_, exec_tokp_member hm hd, ?_, hgive⟩
      rw [hgive.ring, State.ring_modRing]
    · exact ⟨_, rfl, State.witness_gives he a _ hl⟩
    · exact ⟨_, exec_witTok_member hm, State.witness_gives he a _ hl⟩
    · simp only [exec, execTokw, State.tokw, show (s.ring (ringOf sc s.core k.toNat)).mb.contains s.core = true from hm,
        show (s.ring (ringOf sc s.core k.toNat)).grants s.core = false from hg, Bool.not_true, Bool.false_eq_true, if_false]
    · have hno : (s.ring (ringOf sc s.core k.toNat)).mb.contains s.core = false := hm
      exact ⟨by simp only [exec, execTokw, State.tokw, hno, Bool.not_false, if_true]; rfl,
        by simp only [exec, execTokp, hno, Bool.not_false, if_true]; rfl⟩
    · simp only [exec, execWitTok, show (s.ring (ringOf sc s.core j.toNat)).mb.contains s.core = false from hm, Bool.not_false, if_true]
      rfl
    · simp only [exec, execTokwGrant, State.me_at, hw, execTokw]
  · intro s sc a k j hl he lost
    refine ⟨?_, fun hm => ?_, fun hm => ⟨fun hd => ?_, fun hg => ?_⟩, fun hf => ⟨?_, fun ha => ?_, fun hm hd => ?_⟩⟩
    · exact lost_of_witness rfl hl he fun _ => rfl
    · exact lost_of_witness (exec_witTok_member hm) hl he fun _ => rfl
    · exact lost_of_witness (exec_tokp_member hm hd) hl he fun _ => rfl
    · have hs := s.tokenTaken_sameIssuer sc (ringOf sc s.core k.toNat)
      exact lost_of_witness (exec_tokw_granted hm hg) ((s.toklost_tokenTaken sc _).trans hl) (hs.eret_ne he) hs.g
    · exact lost_of_witness ((exec_barw_clear hf).trans (congrArg _ (State.barrierDone_eq false a)))
        ((State.toklost_barrierPast false).trans hl) (by rw [State.me_barrierPast]; exact he) (State.g_barrierPast false)
    · exact lost_of_witness ((exec_bar_arrived ha).trans (congrArg _ ((if_neg (by simp [hf])).trans (State.barrierDone_eq true a))))
        ((State.toklost_barrierPast true).trans hl) (by rw [State.me_barrierPast]; exact he) (State.g_barrierPast true)
    · exact lost_of_witness ((exec_bara_member hm hd).trans (congrArg _ (State.baraArrive_first hf))) hl he fun _ => rfl

/-! ### XBAR and XEND (R158, R162) -/

/-- XBAR sets FORCED as it arrives, XEND does not (R274). -/
def State.forcedIf (s : State) (bar : Bool) : State := if bar then s.force s.core else s

theorem State.forcedIf_sameIssuer (s : State) (bar : Bool) : s.SameIssuer (s.forcedIf bar) := by
  cases bar with
  | true => exact s.sameIssuer_force s.core
  | false => exact .refl s

theorem State.forcedIf_keeps (s : State) (bar : Bool) : (s.forcedIf bar).insts = s.insts ∧ (s.forcedIf bar).agenda = s.agenda := by
  cases bar with
  | true => exact ⟨rfl, rfl⟩
  | false => exact ⟨rfl, rfl⟩

theorem State.xArrive_first {s : State} {i : Inst} (hf : (s.membAt i 31 s.core).f = false) (j : Instr) (bar : Bool) :
    s.xArrive j i bar = (((s.flagged i 31 s.core).push (.arrivalMessage i 31 s.core)).forcedIf bar).heldArrived j 1 := by
  rw [State.xArrive, State.arrive_first hf]
  rfl

theorem State.xArrive_second {s : State} {i : Inst} (hf : (s.membAt i 31 s.core).f = true) (hx : (s.membAt i 31 s.core).x = false)
    (j : Instr) (bar : Bool) : s.xArrive j i bar = ((s.flaggedAgain i 31 s.core).forcedIf bar).heldArrived j 2 := by
  rw [State.xArrive, State.arrive_second hf hx]
  rfl

/-- An arrival at the exchange barrier that is made: it waits, with its flag set and its message sent for F (R158, R285). -/
theorem State.xArrive_spec {s : State} {i : Inst} (hfx : (s.membAt i 31 s.core).f = false ∨ (s.membAt i 31 s.core).x = false) (j : Instr)
    (bar : Bool) : let t := s.xArrive j i bar
    t.me.wait = some j ∧ t.me.arrived = true ∧ (t.membAt i 31 s.core).f = true
      ∧ ((s.membAt i 31 s.core).f = false → t.agenda = s.agenda ++ [.arrivalMessage i 31 s.core])
      ∧ ((s.membAt i 31 s.core).f = true → (t.membAt i 31 s.core).x = true ∧ t.agenda = s.agenda) ∧ (∀ r, t.g r = s.g r)
      ∧ (bar = true → t.here.fduty.forced = true) := by
  have hforced (v : State) (hc : v.core = s.core) (n : Word) : ((v.forcedIf true).heldArrived j n).here.fduty.forced = true := by
    rw [State.heldArrived, State.here_modMe, State.hold, State.here_modMe]
    exact (congrArg (fun x : Core => x.fduty.forced) (v.coreAt_force_self v.core)).trans (Fduty.forced_force _ _)
  have hmemb (v : State) (n : Word) : ((v.forcedIf bar).heldArrived j n).membAt i 31 s.core = v.membAt i 31 s.core := by
    obtain ⟨hinsts, -⟩ := v.forcedIf_keeps bar
    exact congrArg (fun m => ((sget ({} : DInst) m i.key).unit 31).memb s.core) hinsts
  intro t
  cases hf : (s.membAt i 31 s.core).f with
  | false =>
    have ht : t = _ := State.xArrive_first hf j bar
    have hs : s.SameIssuer ((s.flagged i 31 s.core).push (.arrivalMessage i 31 s.core)) := ⟨rfl, rfl, rfl, rfl⟩
    obtain ⟨hw, ha, hg⟩ := (hs.trans (State.forcedIf_sameIssuer _ bar)).heldArrived j 1
    rw [ht]
    refine ⟨hw, ha, ?_, fun _ => (State.forcedIf_keeps _ bar).2, fun h => (by cases h), hg, fun h => ?_⟩
    · rw [hmemb]
      exact congrArg Memb.f (State.membAt_flagged (s := s))
    · rw [h]
      exact hforced _ rfl 1
  | true =>
    have hx : (s.membAt i 31 s.core).x = false := hfx.resolve_left (by simp [hf])
    have ht : t = _ := State.xArrive_second hf hx j bar
    have hs : s.SameIssuer (s.flaggedAgain i 31 s.core) := ⟨rfl, rfl, rfl, rfl⟩
    obtain ⟨hw, ha, hg⟩ := (hs.trans (State.forcedIf_sameIssuer _ bar)).heldArrived j 2
    rw [ht]
    refine ⟨hw, ha, ?_, fun h => by (cases h), fun _ => ⟨?_, (State.forcedIf_keeps _ bar).2⟩, hg, fun h => ?_⟩
    · rw [hmemb]
      exact (congrArg Memb.f (State.membAt_flaggedAgain (s := s))).trans hf
    · rw [hmemb]
      exact congrArg Memb.x (State.membAt_flaggedAgain (s := s))
    · rw [h]
      exact hforced _ rfl 2

/-- The state in which XBAR or XEND delivers its witness. -/
def State.xPast (s : State) (sc : Scope) : State := (s.acquire s.core sc).modMe (fun x => { x with arrived := false })

theorem State.xDone_gives {s : State} (he : s.me.eret ≠ 1) (sc : Scope) (a : GReg) :
    (s.xDone sc a).me.arrived = false ∧ (s.xPast sc).gives (s.xDone sc a) a (s.witnessOf s.core (instOf sc s.core)) := by
  have hs := s.acquire_sameIssuer s.core sc
  have hword : (s.xPast sc).witnessOf (s.xPast sc).core (instOf sc (s.xPast sc).core) = s.witnessOf s.core (instOf sc s.core) := by
    rw [show (s.xPast sc).core = s.core from hs.core]
    exact s.witnessOf_acquire s.core sc s.core _
  have hme : (s.xPast sc).me = { s.me with arrived := false } := by rw [State.xPast, State.me_modMe, hs.me]
  have hg : (s.xPast sc).gives (s.xDone sc a) a (s.witnessOf s.core (instOf sc s.core)) := by
    rw [← hword]
    exact (s.xPast sc).result_gives a _ (by rw [hme]; exact he)
  exact ⟨by rw [hg.arrived, hme], hg⟩

/-- Settles O30: XBAR and XEND by whether their arrival is still to be made, and by F once it is. -/
theorem phaseInstructions : Obligations.PhaseInstructions := by
  refine ⟨?_, ?_, ?_⟩
  · intro s sc a ha i m arrives
    refine ⟨fun ho => ?_, fun ho => ?_, fun hs => ?_, fun ho hm => ?_, fun ho hs hm => ?_, fun ho hm hh => ?_,
      fun ho hs hm hp => ?_, fun hd hm hfx => ⟨fun ho hh => ?_, fun ho hs hp => ?_⟩⟩
    · simp [exec, execXbar, ha, ho]
    · simp [exec, execXend, ha, ho]
    · simp [exec, execXend, ha, hs]
    · simp [exec, execXbar, ha, ho, show (s.membAt (instOf sc s.core) 31 s.core).mb = false from hm, nonmember]
    · simp [exec, execXend, ha, ho, hs, show (s.membAt (instOf sc s.core) 31 s.core).mb = false from hm, nonmember]
    · simp [exec, execXbar, ha, ho, hh, show (s.membAt (instOf sc s.core) 31 s.core).mb = true from hm]
    · simp [exec, execXend, ha, ho, hs, hp, show (s.membAt (instOf sc s.core) 31 s.core).mb = true from hm]
    · obtain ⟨hw, harr, hflag, hfirst, hsecond, hg, hforced⟩ := State.xArrive_spec hfx (.xbar sc a) true
      refine ⟨_, ⟨?_, hw, harr, hflag, hfirst, hsecond, hg⟩, hforced rfl⟩
      simp [exec, execXbar, ha, ho, hh, show (s.membAt (instOf sc s.core) 31 s.core).mb = true from hm, State.onRelease_of_drained hd]
      rfl
    · obtain ⟨hw, harr, hflag, hfirst, hsecond, hg, -⟩ := State.xArrive_spec hfx (.xend sc a) false
      refine ⟨_, ?_, hw, harr, hflag, hfirst, hsecond, hg⟩
      simp [exec, execXend, ha, ho, hs, hp, show (s.membAt (instOf sc s.core) 31 s.core).mb = true from hm, State.onRelease_of_drained hd]
      rfl
  · intro s sc a ha hf he u f
    refine ⟨?_, ?_⟩
    · obtain ⟨harr, hg⟩ := State.xDone_gives he sc a
      exact ⟨_, by simp [exec, execXbar, ha, hf], harr, hg⟩
    · obtain ⟨harr, hg⟩ := State.xDone_gives he sc a
      refine ⟨_, harr, hg, fun h => ?_, fun h => ?_⟩
      · simp [exec, execXend, ha, hf, State.xendDone, show bits s.here.xch.xfail 23 16 = 0 from h]
      · simp [exec, execXend, ha, hf, State.xendDone, show bits s.here.xch.xfail 23 16 ≠ 0 from h]
        rfl
  · intro s sc a ha hf
    refine ⟨?_, ?_⟩
    · simp [exec, execXbar, ha, hf, untilClear]
    · simp [exec, execXend, ha, hf, untilClear]

end Sys2Proof.Machine
end
section

/-! PROOFS. The statement on the events of the barrier units (spec/06 R171, R172; spec/12 R285). -/

namespace Sys2Proof.Machine

/-! ### One step of many -/

/-- A change made once among others that leave what it needs and what it makes. -/
theorem each_once {α β : Type} [DecidableEq α] {P Q : β → Prop} {f : β → α → β} {c : α} (hP : ∀ t x, x ≠ c → P t → P (f t x))
    (hc : ∀ t, P t → Q (f t c)) (hQ : ∀ t x, x ≠ c → Q t → Q (f t x)) (xs : List α) :
    ∀ s, xs.count c = 1 → P s → Q (each xs s f) := by
  have hrest (ys : List α) : ∀ s, c ∉ ys → Q s → Q (each ys s f) := by
    induction ys with
    | nil => exact fun _ _ h => h
    | cons y ys ih =>
      intro s hn h
      rw [List.mem_cons, not_or] at hn
      exact ih _ hn.2 (hQ s y (Ne.symm hn.1) h)
  induction xs with
  | nil => intro _ h; cases h
  | cons x xs ih =>
    intro s hcount hs
    by_cases hx : x = c
    · subst hx
      rw [List.count_cons_self] at hcount
      exact hrest xs _ (List.count_eq_zero.1 (by omega)) (hc s hs)
    · rw [List.count_cons_of_ne hx] at hcount
      exact ih _ hcount (hP s x hx hs)

/-! ### Flags at a release (R171, R285) -/

/-- The flags of a member passed on: its bits, its arrival sent again where X was set, and event bit 2. -/
def State.passFlags (s : State) (i : Inst) (u c : Nat) : State :=
  let again := (s.membAt i u c).x
  let s := s.modMembAt i u c (fun m =>
    { m with missed := m.missed || (m.mb && !m.f), f := m.x, x := false, phase := !m.phase, acked := false })
  (if again then s.push (.arrivalMessage i u c) else s).event c 2

/-- The unit itself at its release. -/
def State.unitReleased (s : State) (i : Inst) (u : Nat) : State := s.modUnit i u (fun x => { x with cnt := 0, released := true })

theorem State.releaseFlags_eq (s : State) (i : Inst) (u : Nat) : s.releaseFlags i u =
    ((each ((s.inst i).unit u).members (s.unitReleased i u) (fun s c => s.passFlags i u c)).redealMembers
      ((s.inst i).unit u).members).pounceAt ((s.inst i).unit u).members := rfl

theorem State.insts_redealMembers (s : State) (ms : List Nat) : (s.redealMembers ms).insts = s.insts :=
  each_inv (fun t : State => t.insts = s.insts) _ _ _ (fun _ _ h =>
    each_inv (fun w : State => w.insts = s.insts) _ _ _ (fun _ _ hw => hw) h) rfl

theorem State.insts_pounceAt (s : State) (ms : List Nat) : (s.pounceAt ms).insts = s.insts := by
  unfold State.pounceAt
  split
  · rfl
  · refine each_inv (fun t : State => t.insts = s.insts) _ _ _ (fun t o h => ?_) rfl
    split
    · exact h
    · exact h

/-- Re-dealt lanes and pounce leave the state of every scope of Ductus. -/
theorem State.inst_releaseFlags (s : State) (i : Inst) (u : Nat) (j : Inst) : (s.releaseFlags i u).inst j =
    (each ((s.inst i).unit u).members (s.unitReleased i u) (fun s c => s.passFlags i u c)).inst j := by
  rw [State.releaseFlags_eq, State.inst, State.insts_pounceAt, State.insts_redealMembers]
  rfl

theorem State.inst_passFlags (s : State) (i : Inst) (u c : Nat) (j : Inst) : (s.passFlags i u c).inst j =
    (s.modMembAt i u c (fun m => { m with missed := m.missed || (m.mb && !m.f), f := m.x, x := false, phase := !m.phase, acked := false })).inst j := by
  unfold State.passFlags
  dsimp only
  split
  · rfl
  · rfl

theorem State.membAt_modMembAt_ne (s : State) (i : Inst) (u : Nat) {c d : Nat} (h : d ≠ c) (f : Memb → Memb) :
    (s.modMembAt i u c f).membAt i u d = s.membAt i u d := by
  rw [State.membAt, State.modMembAt, State.unit_modUnit]
  exact (sget_smod _ _ _ _ _).trans (if_neg h)

/-- CNT of a released unit is 0. -/
theorem State.cnt_releaseFlags (s : State) (i : Inst) (u : Nat) : (((s.releaseFlags i u).inst i).unit u).cnt = 0 := by
  rw [State.inst_releaseFlags]
  refine each_inv (fun t : State => ((t.inst i).unit u).cnt = 0) _ _ _ (fun t c h => ?_) ?_
  · rw [State.inst_passFlags, State.modMembAt, State.unit_modUnit]
    exact h
  · rw [State.unitReleased, State.unit_modUnit]

/-- A member's bits after the release. -/
theorem State.membAt_releaseFlags (s : State) (i : Inst) (u c : Nat) (h : ((s.inst i).unit u).members.count c = 1) :
    (s.releaseFlags i u).membAt i u c = { s.membAt i u c with
      missed := (s.membAt i u c).missed || ((s.membAt i u c).mb && !(s.membAt i u c).f), f := (s.membAt i u c).x, x := false,
      phase := !(s.membAt i u c).phase, acked := false } := by
  have hself (t : State) : (t.passFlags i u c).membAt i u c = { t.membAt i u c with
      missed := (t.membAt i u c).missed || ((t.membAt i u c).mb && !(t.membAt i u c).f), f := (t.membAt i u c).x, x := false,
      phase := !(t.membAt i u c).phase, acked := false } := by
    rw [State.membAt, State.inst_passFlags]
    exact State.membAt_modMembAt _ _ _ _ _
  have hother (t : State) (x : Nat) (hx : x ≠ c) : (t.passFlags i u x).membAt i u c = t.membAt i u c := by
    rw [State.membAt, State.inst_passFlags]
    exact State.membAt_modMembAt_ne _ _ _ (Ne.symm hx) _
  have hstart : (s.unitReleased i u).membAt i u c = s.membAt i u c := by
    rw [State.membAt, State.unitReleased, State.unit_modUnit]
    rfl
  rw [State.membAt, State.inst_releaseFlags]
  refine each_once (P := fun t => t.membAt i u c = s.membAt i u c)
    (Q := fun t => t.membAt i u c = { s.membAt i u c with
      missed := (s.membAt i u c).missed || ((s.membAt i u c).mb && !(s.membAt i u c).f), f := (s.membAt i u c).x, x := false,
      phase := !(s.membAt i u c).phase, acked := false })
    (fun t x hx ht => (hother t x hx).trans ht) (fun t ht => ?_) (fun t x hx ht => (hother t x hx).trans ht) _ _ h hstart
  rw [hself, ht]

/-! ### Arrival messages (R285) -/

/-- A unit with an arrival counted and its member acknowledged. -/
def State.arrivalCounted (s : State) (i : Inst) (u m : Nat) : State :=
  s.modUnit i u (fun x => { x.modMemb m (fun y => { y with acked := true }) with cnt := x.cnt + 1 })

theorem State.unit_arrivalCounted (s : State) (i : Inst) (u m : Nat) : ((s.arrivalCounted i u m).inst i).unit u =
    { ((s.inst i).unit u).modMemb m (fun y => { y with acked := true }) with cnt := ((s.inst i).unit u).cnt + 1 } := State.unit_modUnit _ _ _ _

theorem State.releaseEvent_cases (s : State) (i : Inst) (u : Nat) :
    if u = 31 then s.releaseEvent i u = .xbarRelease i ∨ s.releaseEvent i u = .xendRelease i
    else s.releaseEvent i u = .barrierRelease i u := by
  by_cases hu : u = 31
  · rw [if_pos hu, State.releaseEvent, if_neg (not_not_intro hu)]
    split
    · exact .inr rfl
    · exact .inl rfl
  · rw [if_neg hu, State.releaseEvent, if_pos hu]

/-- When a unit is due (R285, R329). -/
theorem DUnit.due_iff (x : DUnit) : x.due = true ↔ x.mask ≠ [] ∧ x.mask.length ≤ x.cnt ∧ x.held = false := by
  simp [DUnit.due, and_assoc]

/-- Settles O27: arrivals by the unit they count in, releases by their members one by one. -/
theorem barrierEvents : Obligations.BarrierEvents := by
  refine ⟨fun s i u m => ?_, fun s i u => ⟨fun hdue => ?_, fun hdue => ?_, s.cnt_releaseFlags i u, fun c hc => ?_⟩, fun s c k j sc v hw hb => ?_⟩
  · have hunit := s.unit_arrivalCounted i u m
    have hacked : (((s.arrivalCounted i u m).inst i).unit u).memb m = { ((s.inst i).unit u).memb m with acked := true } := by
      rw [hunit]
      exact (sget_smod ({} : Memb) ((s.inst i).unit u).mem m m (fun y => { y with acked := true })).trans (if_pos rfl)
    by_cases hdue : (((s.arrivalCounted i u m).inst i).unit u).due = true
    · refine ⟨(s.arrivalCounted i u m).push ((s.arrivalCounted i u m).releaseEvent i u), congrArg Host.Outcome.next (if_pos hdue),
        congrArg DUnit.cnt hunit, congrArg Memb.acked hacked, fun _ _ _ => ⟨_, rfl, State.releaseEvent_cases _ i u⟩, fun hlt => ?_⟩
      have hle := ((DUnit.due_iff _).1 hdue).2.1
      rw [hunit] at hle
      exact absurd hlt (Nat.not_lt.2 hle)
    · refine ⟨s.arrivalCounted i u m, congrArg Host.Outcome.next (if_neg hdue), congrArg DUnit.cnt hunit, congrArg Memb.acked hacked,
        fun hm hh hle => absurd ((DUnit.due_iff _).2 ?_) hdue, fun _ => rfl⟩
      rw [hunit]
      exact ⟨hm, hle, hh⟩
  · exact congrArg Host.Outcome.next (if_pos (by simp [hdue]))
  · exact congrArg Host.Outcome.next (if_neg (by simp [hdue]))
  · dsimp only
    rw [s.membAt_releaseFlags i u c hc]
    exact ⟨rfl, rfl, rfl, rfl, rfl⟩
  · simp only [exec, execBarrierTimeout, State.me_at, hw, Option.bind_some, hb]
    rfl

end Sys2Proof.Machine
end
section

/-! PROOFS. The statement on atomics (spec/06 R136, R140, R141). -/

namespace Sys2Proof.Machine

/-! ### The access of an atomic -/

theorem accOf_of_amoParts {i : Instr} {op : AmoOp} {n : Nat} {o : Order} {sc : Scope} {a b c : GReg} {imm : BitVec 17}
    (h : amoParts i = some (op, n, o, sc, a, b, c, imm)) : accOf i = some ⟨.amo op, n, o, sc, a, b, c, imm.signExtend 64⟩ := by
  cases i with
  | amoadd | amoand | amoor | amoxor | amomin | amomax | amominn | amomaxn | amoswap | amocas | famoadd =>
    cases h
    rfl
  | _ => cases h

/-- An atomic has 4 or 8 bytes (R140). -/
theorem bytes_of_amoParts {i : Instr} {op : AmoOp} {n : Nat} {o : Order} {sc : Scope} {a b c : GReg} {imm : BitVec 17}
    (h : amoParts i = some (op, n, o, sc, a, b, c, imm)) : ∃ z : Size, n = sizeBytes z := by
  cases i with
  | amoadd d | amoand d | amoor d | amoxor d | amomin d | amomax d | amominn d | amomaxn d | amoswap d | amocas d =>
    cases h
    cases d with
    | true => exact ⟨.d, rfl⟩
    | false => exact ⟨.w, rfl⟩
  | famoadd =>
    cases h
    exact ⟨.w, rfl⟩
  | _ => cases h

theorem length_amoBytesNew {op : AmoOp} {x a : Word} {old new : List Byte} (h : amoBytesNew op x a old = some new) :
    new.length = old.length := by
  obtain ⟨v, -, rfl⟩ := Option.map_eq_some_iff.1 h
  exact length_leBytes _ _

theorem length_amoBytes (op : AmoOp) (x a : Word) (old : List Byte) : ((amoBytesNew op x a old).getD old).length = old.length := by
  cases h : amoBytesNew op x a old with
  | none => rfl
  | some new => exact length_amoBytesNew h

section
variable {s u : State} {m : GAcc} {p : Word}

/-- An atomic that has nothing to release goes ahead. -/
theorem State.relIf_of_order (ho : m.o = .relaxed ∨ m.o = .acq ∨ s.drained) (f : State → State) : s.relIf m.o m.sc f = f s := by
  rcases ho with h | h | h
  · exact State.relIf_of_free (.inl h) _ _
  · rw [h]
    rfl
  · exact State.relIf_of_free (.inr h) _ _

/-- An atomic that passes its checks, with no store buffered, is what its home answers (R141). -/
theorem exec_amo_answered {i : Instr} {op : AmoOp} {old : List Byte} (hm : accOf i = some m) (hk : m.kind = .amo op) (hp : eaOf (s.g m.b) m.imm = p)
    (hc : s.checkGlobal s.core s.cid p m.n = none) (hb : (s.obbUse s.core (idOf p)).behindVector p.toNat m.n = false)
    (hw : (s.obbUse s.core (idOf p)).windowOf p = none) (ha : idOf p ≠ aliasId) (hbuf : (s.obbUse s.core (idOf p)).here.cache.cbuf = [])
    (ho : m.o = .relaxed ∨ m.o = .acq ∨ (s.obbUse s.core (idOf p)).drained)
    (hg : (s.obbUse s.core (idOf p)).gAtomic (s.obbUse s.core (idOf p)).core (s.obbUse s.core (idOf p)).ctx p m.n (s.obbUse s.core (idOf p)).cid
      (amoBytesNew op ((s.obbUse s.core (idOf p)).g m.c) ((s.obbUse s.core (idOf p)).g m.a)) = (u, .ok old)) :
    exec i s = .next ((u.acqIf m.o m.sc).result m.a (amoImage op (8 * m.n) (leNat old))) := by
  rw [exec_of_accOf hm, State.globalAccess, hm]
  dsimp only
  rw [hp, hc, State.checked_none, hb, if_neg (by simp), State.relIf_of_order ho, State.drainFor, hk]
  dsimp only
  rw [State.bufDrainCtx_of_empty hbuf]
  simp only [if_true, State.performAcc, hw, ha, if_false, hk, hg, State.onAns, State.doneAcc]

end

/-- An atomic's image of the old value, by its operator (R141). -/
theorem amoImage_eq (op : AmoOp) (w v : Nat) : amoImage op w v = (match op with
    | .minn | .maxn | .fadd => zext v w
    | _ => sext v w) := by
  cases op with
  | _ => rfl

/-! ### An atomic at the home of a resident sector (R141, R238) -/

theorem State.modGate_same (s : State) (d g : Nat) (f : List GwLine → List GwLine) :
    s.SameHomes (s.modGate d g f) ∧ s.SameLines (s.modGate d g f) :=
  ⟨State.sameHomes_modDie ⟨rfl, rfl, rfl⟩, State.sameLines_modDie rfl⟩

theorem State.bypassAs_same (s t : State) (cid : Nat) : s.SameHomes (s.bypassAs t cid) ∧ s.SameLines (s.bypassAs t cid) := by
  unfold State.bypassAs
  dsimp only
  split
  · exact ⟨.refl s, fun _ _ _ => rfl⟩
  · exact State.sameHomes_of_eq rfl rfl rfl rfl

theorem State.SameHomes.obj {s t : State} (h : s.SameHomes t) (id : Nat) : t.obj id = s.obj id := by
  simp only [State.obj, h.objs]

theorem Memory.getD_readN (m : Memory) {n i : Nat} (h : i < n) (a : Nat) : (m.readN a n).getD i 0 = m.read (a + i) := by
  induction n generalizing a i with
  | zero => cases h
  | succ n ih =>
    cases i with
    | zero => rfl
    | succ i =>
      rw [Memory.readN, List.getD_cons_succ, ih (by omega), show a + 1 + i = a + (i + 1) by omega]

/-- The home of a sector still holds it once it has been read. -/
theorem State.Relined.atHome_self {s t : State} {p : Word} {h : Home} {l : SliceLine} (hr : s.Relined t h l l) (hh : s.atHome p h l) :
    t.atHome p h l := by
  have hh' := hh
  obtain ⟨-, -, -, -, -, -, hvalid, hecc, htag, -⟩ := hh
  exact hr.atHome hh' rfl rfl hvalid hecc htag

/-- Bytes stored stand in every state with the same homes and lines. -/
theorem State.stored.of_same {s t u v : State} {p : Word} {bs : List Byte} (h : t.stored u p bs) (hs : ∀ x, t.globalByte x = s.globalByte x)
    (hv : u.SameHomes v ∧ u.SameLines v) : s.stored v p bs := by
  obtain ⟨hin, hout⟩ := h
  have hbyte := hv.1.globalByte_of_lines hv.2
  exact ⟨fun i hi => (hbyte _).trans (hin i hi), fun x hx => (hbyte x).trans ((hout x hx).trans (hs x))⟩

/-- The bytes of a sector that its home holds stand stored there. -/
theorem State.stored_resident {s : State} {p : Word} {h : Home} {l : SliceLine} (hh : s.atHome p h l) {n : Nat} (hn : offOf p % 32 + n ≤ 32) :
    s.stored s p (l.data.readN (offOf p % 256) n) := by
  obtain ⟨hhome, -, -, -, -, hfound, hvalid, -, -, -⟩ := hh
  refine ⟨fun i hi => ?_, fun _ _ => rfl⟩
  rw [length_readN] at hi
  obtain ⟨hid, hoff⟩ := addr_in_sector (p := p) (i := i) (by omega)
  have hhome' : s.homeOf (idOf (p + w64 i)) (offOf (p + w64 i)) = some h := by
    rw [hid, s.homeOf_congr (show offOf (p + w64 i) / 256 = offOf p / 256 by omega), hhome]
  rw [State.globalByte_resident hhome' hfound (by rw [show offOf (p + w64 i) % 256 / 32 = offOf p % 256 / 32 by omega, hvalid]),
    Memory.getD_readN _ hi, show offOf (p + w64 i) % 256 = offOf p % 256 + i by omega]

/-- The gateway's copy of the line of an atomic is dropped (R240). -/
def State.gwDropped (s : State) (w id off : Nat) : State :=
  match s.obj id with
  | none => s
  | some o => s.modGate (askerDie w) (s.hop (askerDie w) o.die) (fun g => g.filter (fun l => l.key != (id * 2 ^ 40 + off) / 256))

theorem State.gwDropped_same (s : State) (w id off : Nat) : s.SameHomes (s.gwDropped w id off) ∧ s.SameLines (s.gwDropped w id off) := by
  unfold State.gwDropped
  split
  · exact ⟨.refl s, fun _ _ _ => rfl⟩
  · exact s.modGate_same _ _ _

theorem State.gwDropped_sameIssuer (s : State) (w id off : Nat) : s.SameIssuer (s.gwDropped w id off) := by
  unfold State.gwDropped
  split
  · exact .refl s
  · exact ⟨rfl, rfl, rfl, rfl⟩

theorem State.bypassAs_sameIssuer (s t : State) (cid : Nat) : s.SameIssuer (s.bypassAs t cid) := by
  unfold State.bypassAs
  dsimp only
  split
  · exact .refl s
  · exact ⟨rfl, rfl, rfl, rfl⟩

theorem State.dieAtomic_eq {s : State} {w id off n cid : Nat} {f : List Byte → Option (List Byte)} {o : Obj} (ho : s.obj id = some o)
    (hn : (s.die o.die).named = false) : s.dieAtomic w id off n cid f = (match s.homeRead w id off n cid with
      | (s1, .ok old) =>
        match f old with
        | none => (s1.gwDropped w id off, .ok old)
        | some new =>
          match s1.homeWrite w id off [(off, new)] cid with
          | (s2, .ok _) => ((s2.bypassAs s1 cid).gwDropped w id off, .ok old)
          | r => r
      | r => r) := by
  simp only [State.dieAtomic, ho, hn, Bool.false_eq_true, if_false]
  rfl

/-- What an atomic at the home of a resident sector answers, and what it leaves there. -/
theorem State.dieAtomic_atHome {s : State} {p : Word} {h : Home} {l : SliceLine} (hh : s.atHome p h l) {n : Nat}
    (hn : offOf p % 32 + n ≤ 32) (w cid : Nat) {f : List Byte → Option (List Byte)} (hf : ∀ old new, f old = some new → new.length = old.length) :
    ∃ t, s.dieAtomic w (idOf p) (offOf p) n cid f = (t, .ok (l.data.readN (offOf p % 256) n)) ∧ s.SameIssuer t
      ∧ s.stored t p ((f (l.data.readN (offOf p % 256) n)).getD (l.data.readN (offOf p % 256) n)) := by
  obtain ⟨u, hread, hru⟩ := State.homeRead_atHome hh w n cid hn
  have hsu : s.SameIssuer u := by
    have hmem := State.homeRead_mem s w (idOf p) (offOf p) n cid (.refl s)
    rw [hread] at hmem
    exact .of_fetchOnly hmem.fetchOnly
  have hhu := hru.atHome_self hh
  have hsame := hru.globalByte_self hh
  have hh' := hh
  obtain ⟨hhome, hnamed, -⟩ := hh
  obtain ⟨-, -, hobj, hdie, -⟩ := State.id_of_homeOf hhome
  rw [State.dieAtomic_eq hobj (by rw [← hdie, hnamed]), hread]
  dsimp only
  cases hnew : f (l.data.readN (offOf p % 256) n) with
  | none => exact ⟨_, rfl, hsu.trans (u.gwDropped_sameIssuer w _ _), (State.stored_resident hhu hn).of_same hsame (u.gwDropped_same w _ _)⟩
  | some new =>
    have hlen := hf _ _ hnew
    rw [length_readN] at hlen
    obtain ⟨v, hwrite, hrv⟩ := State.homeWrite_atHome hhu w cid new
    have hsv : u.SameIssuer v := by
      have hmem := State.homeWrite_mem u w (idOf p) (offOf p) [(offOf p, new)] cid (.refl u)
      rw [hwrite] at hmem
      exact .of_fetchOnly hmem.fetchOnly
    dsimp only
    rw [hwrite]
    have hstored := hrv.stored hhu (by omega)
    obtain ⟨hb1, hb2⟩ := v.bypassAs_same u cid
    obtain ⟨hd1, hd2⟩ := (v.bypassAs u cid).gwDropped_same w (idOf p) (offOf p)
    exact ⟨_, rfl, hsu.trans (hsv.trans ((v.bypassAs_sameIssuer u cid).trans (State.gwDropped_sameIssuer _ w _ _))), hstored.of_same hsame ⟨hb1.trans hd1, State.SameLines.trans hb2 hd2⟩⟩

/-- An acquire changes no line of a slice (R136). -/
theorem State.acquire_same (s : State) (c : Nat) (sc : Scope) : s.SameHomes (s.acquire c sc) ∧ s.SameLines (s.acquire c sc) := by
  have hepoch := s.modCache_same c (fun x =>
    { x with epoch := x.epoch + 1, lines := if (x.epoch + 1).toNat % 256 = 0 then x.lines.filter (·.priv) else x.lines })
  have hprune (t : State) (d : Nat) : t.SameHomes (t.gwPrune d) ∧ t.SameLines (t.gwPrune d) :=
    ⟨State.sameHomes_modDie ⟨rfl, rfl, rfl⟩, State.sameLines_modDie rfl⟩
  cases sc with
  | lane | core => exact ⟨.refl s, fun _ _ _ => rfl⟩
  | oct | die => exact hepoch
  | pkg | pod | sys => exact ⟨hepoch.1.trans (hprune _ _).1, State.SameLines.trans hepoch.2 (hprune _ _).2⟩

theorem State.acqIf_same (s : State) (o : Order) (sc : Scope) : s.SameHomes (s.acqIf o sc) ∧ s.SameLines (s.acqIf o sc) := by
  unfold State.acqIf
  split
  · exact s.acquire_same _ _
  · exact ⟨.refl s, fun _ _ _ => rfl⟩

theorem State.acqIf_sameIssuer (s : State) (o : Order) (sc : Scope) : s.SameIssuer (s.acqIf o sc) := by
  unfold State.acqIf
  split
  · exact s.acquire_sameIssuer _ _
  · exact .refl s

/-- A line that the cache does not hold need not leave it (R141). -/
theorem State.l1Flush_of_absent {s : State} {c sector : Nat} (h : ∀ m ∈ (s.coreAt c).cache.lines, m.addr ≠ sector) : s.l1Flush c sector = (s, .ok []) := by
  have hf : (s.coreAt c).cache.lines.find? (fun l => l.addr == sector) = none := List.find?_eq_none.2 fun m hm => by simp [h m hm]
  rw [State.l1Flush, hf]

/-- The atomic of a ready context is the one of its home. -/
theorem State.Ready.gAtomic {s : State} {p : Word} {n : Nat} (hr : s.Ready p n) (hb : s.here.cache.cbuf = [])
    (hl : ∀ m ∈ s.here.cache.lines, m.addr ≠ p.toNat / 32) (m cid : Nat) (f : List Byte → Option (List Byte)) :
    (s.obbUse s.core (idOf p)).gAtomic s.core s.ctx p m cid f = (s.viewed p).dieAtomic (asker s.core s.ctx) (idOf p) (offOf p) m cid f := by
  have hview := s.viewed_obbOnly p
  have hcache {α : Type} (q : Cache → α) (hq : ∀ y o, q { y with obb := o } = q y) :
      q ((s.viewed p).coreAt s.core).cache = q s.here.cache := by
    rw [← hview.sameIssuer.here]
    exact hview.here_eq (fun x => q x.cache) fun _ _ => hq _ _
  unfold State.gAtomic
  dsimp only
  rw [hr.l1Tags, State.bufDrainCtx_of_empty ((hcache (·.cbuf) fun _ _ => rfl).trans hb)]
  dsimp only
  rw [State.l1Flush_of_absent (fun x hx => hl x ((hcache (·.lines) fun _ _ => rfl) ▸ hx))]

/-- Settles O21: an atomic is what its home answers; and at the home of a resident sector it is a read of the line and a write
of it. -/
theorem atomicResults : Obligations.AtomicResults := by
  constructor
  · intro i s u op n o sc a b c imm old hi p v hc hb hw ha hbuf ho hg w
    have hexec := exec_amo_answered (accOf_of_amoParts hi) rfl rfl hc hb hw ha hbuf ho hg
    rw [hexec, amoImage_eq, State.acqIf_eq] <;> rfl
  · intro i s op n o sc a b c imm h l hi he hl p old hc hw ha hq hd hclean hlines hh
    obtain ⟨z, hz⟩ := bytes_of_amoParts hi
    subst hz
    have hr : s.Ready p (sizeBytes z) := ⟨he, hc, hw, ha, hq, fun l hl => (hclean l hl).1⟩
    have hobb := s.obbUse_obbOnly s.core (idOf p)
    have hissue := hobb.sameIssuer
    have hview := s.viewed_obbOnly p
    obtain ⟨u, hu, hus, hstored⟩ := State.dieAtomic_atHome (State.atHome_congr hview.same hh) hr.sector (asker s.core s.ctx) s.cid
      (f := amoBytesNew op (s.g c) (s.g a)) fun _ _ => length_amoBytesNew
    have hs := (hview.sameIssuer.trans hus).trans (u.acqIf_sameIssuer o sc)
    have he1 : s.me.eret ≠ 1 := by rw [he]; decide
    have hexec := exec_amo_answered (u := u) (accOf_of_amoParts hi) rfl rfl hc (State.behindVector_of_empty hr.obbUse.queue _ _) hr.obbUse.window ha
      ((hobb.here_eq (fun x => x.cache.cbuf) fun _ _ => rfl).trans hd.1) (.inr (.inr (hobb.drained hd)))
      (by rw [hissue.core, hissue.ctx, hissue.g, hissue.g, State.cid_obbUse, hr.gAtomic hd.1 hlines, hu])
    refine ⟨_, hexec, ?_, fun r => ?_⟩
    · rw [State.result_inLine _ _ _ (hs.eret_ne he1) (hs.inLine hl)]
      have hctx := (((u.acqIf o sc).setG_inContext a (amoImage op (8 * sizeBytes z) (leNat old))).trans (State.stepped_inContext _)).same
      exact hstored.of_same (hview.same.1.globalByte_of_lines hview.same.2)
        ⟨(u.acqIf_same o sc).1.trans hctx.1, State.SameLines.trans (u.acqIf_same o sc).2 hctx.2⟩
    · rw [(hs.result_gives he1 a _).2 r, hs.g, amoImage_eq] <;> rfl

end Sys2Proof.Machine
end
section

/-! PROOFS. The statement on fences, prefetch and cache operations (spec/06 R136, R143 to R147). -/

namespace Sys2Proof.Machine

/-! ### What the accesses of a core leave of its contexts (R232 to R237) -/

theorem State.sameIssuer_of_memOnly {s t : State} (h : s.memOnly t) : s.SameIssuer t := .of_fetchOnly h.fetchOnly

theorem State.sameIssuer_modCache (s : State) (c : Nat) (f : Cache → Cache) : s.SameIssuer (s.modCache c f) :=
  State.sameIssuer_modCore (f := fun x => { x with cache := f x.cache }) rfl

theorem State.SameIssuer.modCache_fst {α : Type} {s t : State} (h : s.SameIssuer t) (c : Nat) (f : Cache → Cache) (r : α) :
    s.SameIssuer (t.modCache c f, r).1 := h.trans (t.sameIssuer_modCache c f)

theorem State.sameIssuer_countEcc (s : State) (c now corr unc src : Nat) : s.SameIssuer (s.modCore c (fun x => x.countEcc now corr unc src)) :=
  State.sameIssuer_modCore (by
    unfold Core.countEcc
    split
    · rfl
    · rfl)

theorem State.sameIssuer_l1Read (s : State) (c : Nat) (l : L1Line) (a n : Nat) : s.SameIssuer (s.l1Read c l a n).1 := by
  unfold State.l1Read
  split
  · exact .refl s
  · exact (s.sameIssuer_modCache c _).trans (State.sameIssuer_countEcc _ c _ _ _ _)

theorem State.sameIssuer_dieRead (s : State) (w id off n cid : Nat) : s.SameIssuer (s.dieRead w id off n cid).1 :=
  State.sameIssuer_of_memOnly (State.dieRead_mem s w id off n cid (.refl s))

theorem State.sameIssuer_dieWrite (s : State) (w id off : Nat) (rs : List (Nat × List Byte)) (cid : Nat) :
    s.SameIssuer (s.dieWrite w id off rs cid).1 :=
  State.sameIssuer_of_memOnly (State.dieWrite_mem s w id off rs cid (.refl s))

theorem State.sameIssuer_poisonAt (s : State) (a : Word) : s.SameIssuer (s.poisonAt a) :=
  State.sameIssuer_of_memOnly (State.poisonAt_mem s a (.refl s))

/-- Changes of a state, one after the other, that leave the issuer. -/
theorem State.sameIssuer_each {α : Type} {s t : State} {f : State → α → State} (h : s.SameIssuer t) (hf : ∀ (u : State) (x : α), u.SameIssuer (f u x))
    (xs : List α) : s.SameIssuer (each xs t f) := each_inv (fun u : State => s.SameIssuer u) xs t f (fun u x hu => hu.trans (hf u x)) h

theorem State.sameIssuer_ite {α : Type} {s : State} {p : Prop} [Decidable p] {x y : State × α} (h : p → s.SameIssuer x.1)
    (k : ¬p → s.SameIssuer y.1) : s.SameIssuer (if p then x else y).1 := by
  split
  · rename_i hp
    exact h hp
  · rename_i hp
    exact k hp

/-- The state of an answered request, whatever the answer. -/
theorem State.sameIssuer_fst {α : Type} {s t : State} {x : State × α} {r : α} (h : s.SameIssuer x.1) (e : x = (t, r)) : s.SameIssuer t := by
  rwa [e] at h

theorem State.sameIssuer_l1WriteBack (s : State) (c : Nat) (l : L1Line) : s.SameIssuer (s.l1WriteBack c l).1 := by
  unfold State.l1WriteBack
  split
  · exact .refl s
  · have hread := s.sameIssuer_l1Read c l 0 32
    dsimp only
    split
    · rename_i t bs hw
      have ht := hread.trans (State.sameIssuer_fst (State.sameIssuer_dieWrite _ _ _ _ _ _) hw)
      exact (State.sameIssuer_each ht (fun u x => u.sameIssuer_poisonAt _) _).modCache_fst c _ _
    · exact hread.trans (State.sameIssuer_dieWrite _ _ _ _ _ _)

theorem State.sameIssuer_l1Drop (s : State) (c sector : Nat) : s.SameIssuer (s.l1Drop c sector) := s.sameIssuer_modCache c _

theorem State.sameIssuer_l1Tags (s : State) (c sector : Nat) : s.SameIssuer (s.l1Tags c sector) := by
  unfold State.l1Tags
  refine State.sameIssuer_each (.refl s) (fun u l => ?_) _
  have hu := (u.sameIssuer_modCache c (fun x =>
    { x with lines := x.lines.map (fun y => if y.addr = l.addr then { y with tagHurt := none } else y) })).trans
    (State.sameIssuer_countEcc _ c u.now (!(l.tagHurt == some true)).toNat (l.tagHurt == some true).toNat 3)
  dsimp only
  split
  · exact hu
  · split
    · exact hu.trans (State.sameIssuer_l1Drop _ c _)
    · exact State.sameIssuer_each ((hu.trans (State.sameIssuer_l1WriteBack _ c l)).trans (State.sameIssuer_l1Drop _ c _))
        (fun v x => v.sameIssuer_poisonAt _) _

theorem State.sameIssuer_l1Put (s : State) (c : Nat) (l : L1Line) : s.SameIssuer (s.l1Put c l).1 := by
  have hdrop := s.sameIssuer_l1Drop c l.addr
  unfold State.l1Put
  dsimp only
  split
  · exact hdrop.trans (State.sameIssuer_modCache _ c (fun x => { x with lines := x.lines ++ [l] }))
  · split
    · exact hdrop
    · rename_i v _
      have htick : s.SameIssuer (s.l1Drop c l.addr).tick1 := hdrop.trans ⟨rfl, rfl, rfl, rfl⟩
      have hback := htick.trans (State.sameIssuer_l1WriteBack _ c v)
      have hadd {t : State} (ht : s.SameIssuer t) : s.SameIssuer ((t.l1Drop c v.addr).modCache c (fun x => { x with lines := x.lines ++ [l] })) :=
        (ht.trans (t.sameIssuer_l1Drop c _)).trans (State.sameIssuer_modCache _ c _)
      split
      · rename_i t _ hw
        exact hadd (State.sameIssuer_fst hback hw)
      · rename_i t hw
        exact hadd (State.sameIssuer_fst hback hw)
      · rename_i t _ hw
        exact State.sameIssuer_fst hback hw

theorem State.sameIssuer_lostEntry (s : State) (c : Nat) (e : CbEntry) : s.SameIssuer (s.lostEntry c e) :=
  State.sameIssuer_each (.refl s) (fun u _ => State.sameIssuer_of_memOnly (State.storeLost_mem u _ _ _ _ (.refl u))) _

theorem State.sameIssuer_bufDrain (s : State) (c : Nat) (e : CbEntry) : s.SameIssuer (s.bufDrain c e).1 := by
  have hdrop (t : State) : t.SameIssuer (t.bufDrop c e) := t.sameIssuer_modCache c _
  have hheld (t : State) : t.SameIssuer (t.bufHold c e) := t.sameIssuer_modCache c _
  unfold State.bufDrain
  dsimp only
  refine State.sameIssuer_ite (fun _ => ?_) (fun _ => ?_)
  · exact (hdrop s).trans (State.sameIssuer_of_memOnly (State.failCid_mem _ _ _ _ _ (.refl _)))
  · have hwrite := State.sameIssuer_dieWrite s (asker c e.ctx) (e.sector / 2 ^ 35) (e.sector % 2 ^ 35 * 32)
      ((runsOf e.bytes).map (fun r => (e.sector % 2 ^ 35 * 32 + r.1, r.2))) e.cid
    split
    · rename_i t _ hw
      exact ((State.sameIssuer_fst hwrite hw).trans (hdrop t)).modCache_fst c _ _
    · rename_i t hw
      exact (State.sameIssuer_fst hwrite hw).trans (hheld t)
    · rename_i t hw
      exact State.sameIssuer_fst hwrite hw
    · rename_i t hw
      exact ((State.sameIssuer_fst hwrite hw).trans (hdrop t)).trans (State.sameIssuer_lostEntry _ c e)
    · rename_i t hw
      exact ((State.sameIssuer_fst hwrite hw).trans (hheld t)).trans
        (State.sameIssuer_of_memOnly (State.joinPage_mem _ _ _ _ (.refl _)))
    · rename_i t _ _ _ _ _ _ hw
      exact (State.sameIssuer_fst hwrite hw).trans (hheld t)

theorem State.sameIssuer_bufDrainCtx (s : State) (c k : Nat) : s.SameIssuer (s.bufDrainCtx c k).1 :=
  each_inv (fun p : State × Bool => s.SameIssuer p.1) _ _ _ (fun p e hp => hp.trans (p.1.sameIssuer_bufDrain c e)) (.refl s)

/-- A load fills the cache and asks the home, and changes no context (R135, R233 to R237). -/
theorem State.sameIssuer_gLoad (s : State) (c k : Nat) (a : Word) (n cid : Nat) : s.SameIssuer (s.gLoad c k a n cid).1 := by
  have hstart : s.SameIssuer ((s.obbUse c (idOf a)).l1Tags c (a.toNat / 32)) :=
    (s.obbUse_obbOnly c (idOf a)).sameIssuer.trans (State.sameIssuer_l1Tags _ c _)
  unfold State.gLoad
  dsimp only
  generalize (s.obbUse c (idOf a)).l1Tags c (a.toNat / 32) = w at hstart ⊢
  split
  · have hdrain := hstart.trans (w.sameIssuer_bufDrainCtx c k)
    split
    · rename_i t ht
      exact State.sameIssuer_fst hdrain ht
    · rename_i t ht
      exact (State.sameIssuer_fst hdrain ht).trans (t.sameIssuer_dieRead _ _ _ _ _)
  · split
    · rename_i l _
      have hread := hstart.trans (w.sameIssuer_l1Read c l (offOf a % 32) n)
      split
      · rename_i t _ ht
        exact State.sameIssuer_fst hread ht
      · rename_i t _ ht
        exact State.sameIssuer_fst hread ht
    · have hread := hstart.trans (w.sameIssuer_dieRead c (idOf a) (offOf a / 32 * 32) 32 cid)
      split
      · rename_i t _ ht
        exact (State.sameIssuer_fst hread ht).trans (t.sameIssuer_l1Put c _)
      · rename_i t ht
        have hagain := (State.sameIssuer_fst hread ht).trans (t.sameIssuer_dieRead c (idOf a) (offOf a) n cid)
        split
        · rename_i u _ hu
          exact State.sameIssuer_fst hagain hu
        · exact State.sameIssuer_fst hread ht
        · exact hagain
      · exact hread

/-! ### Fences (R144, R145) -/

theorem State.readsPending_of_drained {s : State} (h : s.drained) : s.readsPending = false := by
  obtain ⟨-, hv, hm, hp⟩ := h
  by_cases hk : s.ctx = 0
  · simp [State.readsPending, hv, hm, hp hk]
  · simp [State.readsPending, hv, hm, hk]

theorem State.onRelease_of_waits {s u : State} {sc : Scope} (h : s.release s.core s.ctx sc = (u, false)) (f : State → State) :
    s.onRelease sc f = u := by
  rw [State.onRelease, h]

/-! ### Prefetch (R146) -/

theorem State.sameIssuer_keepTree {s t : State} (h : s.SameIssuer t) (u : State) (a : Word) : s.SameIssuer (t.keepTree u a) := by
  unfold State.keepTree
  split
  · exact h
  · dsimp only
    split
    · split
      · exact h.trans ⟨rfl, rfl, rfl, rfl⟩
      · exact h
    · exact h

/-- A prefetch retires, whatever it has fetched. -/
theorem exec_pref (s : State) (lvl : PrefLevel) (b : GReg) : ∃ u, s.SameIssuer u ∧ exec (.pref lvl b) s = .next u.retire := by
  have hobb := (s.obbUse_obbOnly s.core (idOf (s.g b))).sameIssuer
  simp only [exec, execPref]
  split
  · exact ⟨_, hobb, rfl⟩
  · cases lvl with
    | l1 => exact ⟨_, State.sameIssuer_keepTree (hobb.trans (State.sameIssuer_gLoad _ _ _ _ _ _)) _ _, rfl⟩
    | sl =>
      dsimp only
      split
      · exact ⟨_, hobb, rfl⟩
      · exact ⟨_, State.sameIssuer_keepTree (hobb.trans (State.sameIssuer_of_memOnly (State.homeRead_mem _ _ _ _ _ _ (.refl _)))) _ _, rfl⟩

/-! ### Cache operations and pins (R146, R147) -/

section
variable {s : State} {a : Word}

theorem State.cacheOp_fault {z : Cause} (h : s.cacheCheck a = some z) (f : State → State) :
    s.cacheOp a f = (s.obbUse s.core (idOf a)).raise z := by
  rw [State.cacheOp, h, State.checked_some]

theorem State.cacheOp_passes (h : s.cacheCheck a = none) (f : State → State) : s.cacheOp a f = f (s.obbUse s.core (idOf a)) := by
  rw [State.cacheOp, h, State.checked_none]

/-- A line that is not dirty, or not there, is not written back. -/
theorem State.cleanLine_of_clean (h : ∀ l ∈ s.here.cache.lines, l.addr = a.toNat / 32 → l.dirty = false) (f : State → State) :
    s.cleanLine a f = f s := by
  unfold State.cleanLine
  split
  · rfl
  · rename_i l hl
    have hd := h l (List.mem_of_find?_eq_some hl) (by simpa using List.find?_some hl)
    rw [State.l1WriteBack, hd]
    rfl

theorem State.cleanLine_of_written {l : L1Line} {w : State} {bs : List Byte}
    (hl : s.here.cache.lines.find? (fun l => l.addr == a.toNat / 32) = some l) (hw : s.l1WriteBack s.core l = (w, .ok bs)) (f : State → State) :
    s.cleanLine a f = f w := by
  rw [State.cleanLine, hl]
  dsimp only
  rw [hw]

/-- The line named is not in the cache once dropped. -/
theorem State.addr_of_l1Drop (s : State) (c x : Nat) : ∀ l ∈ ((s.l1Drop c x).coreAt c).cache.lines, l.addr ≠ x := by
  rw [State.l1Drop, State.modCache, State.coreAt_modCore_self]
  intro l hl
  simpa using (List.mem_filter.1 hl).2

end

/-! ### Acquires (R136, R235) -/

theorem State.cache_advanceEpoch (s : State) (c : Nat) : ((s.advanceEpoch c).coreAt c).cache =
    { (s.coreAt c).cache with
      epoch := (s.coreAt c).cache.epoch + 1
      lines := if ((s.coreAt c).cache.epoch + 1).toNat % 256 = 0 then (s.coreAt c).cache.lines.filter (·.priv) else (s.coreAt c).cache.lines } := by
  rw [State.advanceEpoch, State.modCache, State.coreAt_modCore_self]

theorem State.cache_acquire (s : State) (c : Nat) {sc : Scope} (h1 : sc ≠ .lane) (h2 : sc ≠ .core) :
    ((s.acquire c sc).coreAt c).cache = ((s.advanceEpoch c).coreAt c).cache := by
  cases sc with
  | lane => exact absurd rfl h1
  | core => exact absurd rfl h2
  | oct | die | pkg | pod | sys => rfl

/-- Settles O23: fences by what is still to be performed, cache operations by their check and then by the line. -/
theorem fencesAndCacheOperations : Obligations.FencesAndCacheOperations := by
  refine ⟨fun s sc => ⟨fun hd => ⟨?_, ?_, ?_⟩, fun u hu => ⟨fun hr => ?_, ?_⟩, fun hr => ⟨?_, ?_⟩, rfl⟩, fun s lvl b he => ?_,
    fun s a b => ⟨fun z hz => ⟨?_, ?_, ?_, ?_, ?_⟩, fun hc => ⟨?_, fun hclean => ⟨?_, ?_⟩, fun l w bs hl hw => ⟨?_, ?_⟩, fun w bs ha hw => ?_,
      fun ha => ?_, ?_⟩, s.addr_of_l1Drop⟩, fun s c => ⟨rfl, rfl, fun sc h1 h2 => ⟨?_, fun hwrap l hl => ?_⟩⟩⟩
  · simp only [exec, execFence, State.readsPending_of_drained hd, Bool.false_eq_true, if_false, State.onRelease_of_drained hd]
  · simp only [exec, execFenceAcq, State.readsPending_of_drained hd, Bool.false_eq_true, if_false, State.combDrain_of_empty hd.1]
  · simp only [exec, execFenceRel, State.onRelease_of_drained hd]
  · simp only [exec, execFence, hr, Bool.false_eq_true, if_false, State.onRelease_of_waits hu]
  · simp only [exec, execFenceRel, State.onRelease_of_waits hu]
  · simp only [exec, execFence, hr, if_true]
  · simp only [exec, execFenceAcq, hr, if_true]
  · obtain ⟨t, hs, ht⟩ := exec_pref s lvl b
    obtain ⟨h0, h1⟩ := (hs.retire_passed he).queue
    exact ⟨_, ht, by rw [h0, hs.me], by rw [h1, hs.me], hs.retire_g he⟩
  · exact congrArg _ (State.cacheOp_fault hz _)
  · exact congrArg _ (State.cacheOp_fault hz _)
  · exact congrArg _ (State.cacheOp_fault hz _)
  · exact congrArg _ (State.cacheOp_fault hz _)
  · exact congrArg _ (State.cacheOp_fault hz _)
  · exact congrArg _ (State.cacheOp_passes hc _)
  · exact congrArg _ ((State.cacheOp_passes hc _).trans (State.cleanLine_of_clean hclean _))
  · exact congrArg _ ((State.cacheOp_passes hc _).trans (State.cleanLine_of_clean hclean _))
  · exact congrArg _ ((State.cacheOp_passes hc _).trans (State.cleanLine_of_written hl hw _))
  · have hback := State.sameIssuer_fst (State.sameIssuer_l1WriteBack _ _ l) hw
    exact congrArg _ ((State.cacheOp_passes hc _).trans (State.cleanLine_of_written hl hw _))
  · simp only [exec, execPinl, State.cacheOp_passes hc, ha, if_false, hw]
    rfl
  · simp only [exec, execPinl, State.cacheOp_passes hc, ha, if_true]
  · exact congrArg _ (State.cacheOp_passes hc _)
  · rw [State.cache_acquire s c h1 h2, State.cache_advanceEpoch]
  · rw [State.cache_acquire s c h1 h2, State.cache_advanceEpoch] at hl
    dsimp only at hl
    rw [if_pos hwrap] at hl
    exact (List.mem_filter.1 hl).2

end Sys2Proof.Machine
end
section

/-! PROOFS. Refutations: the releases of an exchange phase (spec/06 R158) and the rounds of a token ring (spec/12 R287). -/

namespace Sys2Proof.Machine

/-! ### An XBAR in the second delay slot of an ERET (R114, R158) -/

/-- Core 0 is the only member of its octet's exchange barrier, which is due, and is FORCED at divider 1; its context 0 waits in XBAR
in the second delay slot of an ERET, with ESIG[17], the ARRIVED of the code it returns to, set (R114, R126). -/
def xbarBehindEret : State :=
  { insts := [(Inst.key ⟨.oct, 0⟩, { units := [(31, { mask := [0], cnt := 1, mem := [(0, { mb := true, f := true })] })] })]
    cores := [(0, { fduty := { forced := true }
                    ctxs := [(0, { wait := some (.xbar .oct 0), aux := 1, arrived := true, eret := 1, esig := 0x20000, cstat := 0x101 })] })] }

/-- Refutes O31: where the XBAR that a release completes is the second delay slot of an ERET, its retirement is the return, which
restores ARRIVED from ESIG (R114); the statement has ARRIVED 0 in every context that completes. -/
theorem not_phaseReleases : ¬ Obligations.PhaseReleases := by
  intro h
  obtain ⟨-, -, -, hopens, -⟩ := h xbarBehindEret ⟨.oct, 0⟩
  obtain ⟨t, ht, hmembers⟩ := hopens (by decide) (by decide)
  obtain ⟨-, -, -, hctx⟩ := hmembers 0 (by decide)
  have harrived := (hctx 0 .oct 0 (by decide) (by decide) (by decide) (by decide)).2
  obtain rfl := Host.Outcome.next.inj ht
  exact absurd harrived (by decide)

/-! ### A ring that runs under a TOKK without a round (R287, R294) -/

/-- A ring of core 0 alone that runs under TOKK 0, whose RRND is 0, in step 0. -/
def ringWithoutRound : State := { rings := [(RingId.key ⟨0, 0⟩, { mb := [0], run := 0 })] }

/-- Refutes O43: a ring that runs under a TOKK of RRND 0 has its sample of step 0 judged in the same event, as step 7 * RRND is step
0 too; the statement has the sample stand. -/
theorem not_ductusRounds : ¬ Obligations.DuctusRounds := by
  intro h
  obtain ⟨-, -, -, hstart, -⟩ := h.2 ringWithoutRound ⟨0, 0⟩ 0
  obtain ⟨t, ht, hsample, -⟩ := hstart (by decide) (by decide)
  have hsampled := (hsample (by decide)).2
  obtain rfl := Host.Outcome.next.inj ht
  exact absurd hsampled (by decide)

end Sys2Proof.Machine
end

section

/-! PROOFS. The statement on pages away from an access: fault replies, drains, requests, fills and frames (spec/17 R338 to R343;
spec/09 R234, R239; spec/19 R386). -/

namespace Sys2Proof.Machine

/-! ### Visits of a list -/

/-- A change made at least once among others that leave what it needs, each of which leaves what it makes. -/
theorem each_reaches {α β : Type} [DecidableEq α] {P Q : β → Prop} {f : β → α → β} {c : α} (hP : ∀ t x, x ≠ c → P t → P (f t x))
    (hc : ∀ t, P t → Q (f t c)) (hQ : ∀ t x, Q t → Q (f t x)) (xs : List α) : ∀ s, c ∈ xs → P s → Q (each xs s f) := by
  induction xs with
  | nil => intro _ h; cases h
  | cons x xs ih =>
    intro s hmem hs
    by_cases hx : x = c
    · exact each_inv Q xs _ f hQ (hx ▸ hc s hs)
    · exact ih _ ((List.mem_cons.1 hmem).resolve_left (Ne.symm hx)) (hP s x hx hs)

/-- Changes of which none changes anything. -/
theorem each_fix_of_mem {α β : Type} {f : β → α → β} {s : β} {xs : List α} (hf : ∀ x ∈ xs, f s x = s) : each xs s f = s := by
  induction xs with
  | nil => rfl
  | cons x xs ih =>
    rw [each_cons, hf x (List.mem_cons_self ..)]
    exact ih fun y hy => hf y (List.mem_cons_of_mem _ hy)

theorem sget_of_not_mem {α : Type} (d : α) {m : SMap α} {i : Nat} (h : i ∉ m.map (·.1)) : sget d m i = d := by
  induction m with
  | nil => rfl
  | cons e m ih =>
    rw [List.map_cons, List.mem_cons, not_or] at h
    rw [sget, if_neg h.1, ih h.2]

theorem sfind_filter {α : Type} (p : Nat → Bool) (m : SMap α) (i : Nat) :
    sfind (m.filter (fun e => p e.1)) i = if p i then sfind m i else none := by
  induction m with
  | nil => simp [sfind]
  | cons e m ih =>
    obtain ⟨k, v⟩ := e
    by_cases hk : p k = true
    · rw [List.filter_cons_of_pos (by exact hk), sfind, sfind, ih]
      by_cases hi : i = k
      · rw [if_pos hi, if_pos hi, hi, if_pos hk]
      · rw [if_neg hi, if_neg hi]
    · rw [List.filter_cons_of_neg (by exact hk), ih, sfind]
      by_cases hi : i = k
      · rw [hi, if_neg hk, if_neg hk]
      · rw [if_neg hi]

/-! ### A context as a reply reaches it (R137, R343) -/

theorem Ctx.reply_of_ne {x : Ctx} {obj pg : Nat} (h : x.page ≠ some (obj, pg)) (r : Reply) : x.reply obj pg r = x := if_pos h

theorem Ctx.reply_resolved {x : Ctx} {obj pg : Nat} (h : x.page = some (obj, pg)) : x.reply obj pg .resolved =
    { x with page := none, fetching := false, st := if x.st = .waiting then .live else x.st } := if_neg (not_not.2 h)

/-- What an unresolved reply makes of a context: a WAITING helper has ended with 0x0A, another owes its fault (R137). -/
def Ctx.Unresolved (x y : Ctx) : Prop :=
  if x.st = .waiting then y.st = .exited ∧ y.status = w64 (2 ^ 63 + 0x0A) else y.pageBad = true ∧ y.st = x.st

theorem Ctx.unresolved_reply {x : Ctx} {obj pg : Nat} (h : x.page = some (obj, pg)) : x.Unresolved (x.reply obj pg .unresolved) := by
  rw [Ctx.reply, if_neg (not_not.2 h)]
  unfold Ctx.Unresolved
  split
  · exact ⟨rfl, rfl⟩
  · exact ⟨rfl, rfl⟩

/-- A second reply changes neither. -/
theorem Ctx.Unresolved.reply {x y : Ctx} (h : x.Unresolved y) (obj pg : Nat) : x.Unresolved (y.reply obj pg .unresolved) := by
  unfold Ctx.Unresolved at h ⊢
  unfold Ctx.reply
  by_cases hp : y.page = some (obj, pg)
  · by_cases hx : x.st = .waiting
    · rw [if_pos hx] at h ⊢
      simp [hp, h.1, h.2]
    · rw [if_neg hx] at h ⊢
      simp [hp, h.2, hx]
  · rwa [if_pos hp]

/-! ### A core as a reply reaches it (R179, R201, R343) -/

theorem Core.ctxs_vecReply (x : Core) (obj pg : Nat) (r : Reply) : (x.vecReply obj pg r).ctxs = x.ctxs := by
  unfold Core.vecReply
  split
  · rfl
  · split
    · rfl
    · rfl
    · rfl

theorem Core.ctxAt_reply (x : Core) (obj pg k : Nat) (r : Reply) : (x.reply obj pg (fun _ => r)).ctxAt k = (x.ctxAt k).reply obj pg r := by
  have hctxs : (x.reply obj pg (fun _ => r)).ctxs = sall x.ctxs (fun y => y.reply obj pg r) := by
    rw [Core.reply]
    exact Core.ctxs_vecReply _ _ _ _
  rw [Core.ctxAt, hctxs]
  exact sget_map (d := Ctx.reset k) (g := fun _ y => y.reply obj pg r) (Ctx.reply_of_ne (by simp [Ctx.reset]) r) x.ctxs

/-- An event changes no more of a context than its latch (R120). -/
theorem State.ctxAt_event (s : State) (c b d k : Nat) : ∃ l, (s.event c b).ctxAt d k = { s.ctxAt d k with latch := l } := by
  have hlatched (x : Ctx) (e : Nat) : ∃ l, x.latched k e = { x with latch := l } := by
    unfold Ctx.latched
    split
    · exact ⟨_, rfl⟩
    · exact ⟨x.latch, rfl⟩
  rw [State.ctxAt, State.event, State.coreAt_modCore]
  split
  · rename_i hd
    rw [hd, Core.ctxAt_raiseIrq, Core.ctxAt_latchEvent]
    obtain ⟨l, hl⟩ := hlatched ((s.coreAt c).ctxAt k) b
    obtain ⟨m, hm⟩ := hlatched (((s.coreAt c).ctxAt k).latched k b) 4
    split
    · exact ⟨m, by rw [hm, hl]; rfl⟩
    · exact ⟨l, hl⟩
  · exact ⟨_, rfl⟩

/-- Two states with the same contexts and the same objects. -/
def State.sameCtxs (s t : State) : Prop := (∀ d k, t.ctxAt d k = s.ctxAt d k) ∧ t.objs = s.objs

theorem State.sameCtxs.trans {s t u : State} (h : s.sameCtxs t) (k : t.sameCtxs u) : s.sameCtxs u :=
  ⟨fun d j => (k.1 d j).trans (h.1 d j), k.2.trans h.2⟩

theorem State.sameCtxs_modCache (s : State) (c : Nat) (f : Cache → Cache) : s.sameCtxs (s.modCache c f) :=
  ⟨State.ctxAt_modCore_of_ctxs rfl, rfl⟩

theorem State.sameCtxs_lostEntry (s : State) (c : Nat) (e : CbEntry) : s.sameCtxs (s.lostEntry c e) :=
  each_inv (fun t : State => s.sameCtxs t) _ _ _ (fun _ _ h => h.trans ⟨fun _ _ => rfl, rfl⟩) ⟨fun _ _ => rfl, rfl⟩

theorem State.sameCtxs_storeReply (s : State) (c obj pg : Nat) (ok : Bool) : s.sameCtxs (s.storeReply c obj pg ok) := by
  refine each_inv (fun t : State => s.sameCtxs t) _ _ _ (fun t e h => h.trans ?_) ⟨fun _ _ => rfl, rfl⟩
  split
  · exact t.sameCtxs_modCache _ _
  · exact (t.sameCtxs_modCache _ _).trans (State.sameCtxs_lostEntry _ _ _)

/-- What still waits in a core for a page is served (R343). -/
def State.wakeCore (s : State) (obj pg : Nat) (ok : Bool) (c : Nat) : State :=
  let before := ((s.coreAt c).ctxs.filter (fun e => e.2.st == .exited)).length
  let s := (s.modCore c (fun x => x.reply obj pg (fun _ => replyOf ok))).storeReply c obj pg ok
  if ((s.coreAt c).ctxs.filter (fun e => e.2.st == .exited)).length = before then s else s.event c 3

theorem State.wakeRest_eq (s : State) (obj pg : Nat) (ok : Bool) :
    s.wakeRest obj pg ok = each (s.cores.map (·.1)) s (fun s c => s.wakeCore obj pg ok c) := rfl

theorem State.objs_wakeCore (s : State) (obj pg : Nat) (ok : Bool) (c : Nat) : (s.wakeCore obj pg ok c).objs = s.objs := by
  have h : ((s.modCore c (fun x => x.reply obj pg (fun _ => replyOf ok))).storeReply c obj pg ok).objs = s.objs :=
    (State.sameCtxs_storeReply _ _ _ _ _).2
  unfold State.wakeCore
  dsimp only
  split
  · exact h
  · exact h

/-- Before the event of a helper's end, if any, the contexts of the core have had the reply. -/
theorem State.ctxAt_coreReply (s : State) (obj pg : Nat) (ok : Bool) (c d k : Nat) :
    ((s.modCore c (fun x => x.reply obj pg (fun _ => replyOf ok))).storeReply c obj pg ok).ctxAt d k
      = if d = c then (s.ctxAt c k).reply obj pg (replyOf ok) else s.ctxAt d k := by
  rw [(State.sameCtxs_storeReply _ _ _ _ _).1, State.ctxAt, State.coreAt_modCore]
  split
  · exact Core.ctxAt_reply _ _ _ _ _
  · rfl

theorem State.ctxAt_wakeCore_self (s : State) (obj pg : Nat) (ok : Bool) (c k : Nat) :
    ∃ l, (s.wakeCore obj pg ok c).ctxAt c k = { (s.ctxAt c k).reply obj pg (replyOf ok) with latch := l } := by
  have hctx := s.ctxAt_coreReply obj pg ok c c k
  rw [if_pos rfl] at hctx
  unfold State.wakeCore
  dsimp only
  rw [← hctx]
  split
  · exact ⟨_, rfl⟩
  · exact State.ctxAt_event _ _ _ _ _

theorem State.ctxAt_wakeCore_ne (s : State) (obj pg : Nat) (ok : Bool) {c d : Nat} (h : d ≠ c) (k : Nat) :
    (s.wakeCore obj pg ok c).ctxAt d k = s.ctxAt d k := by
  have hctx := s.ctxAt_coreReply obj pg ok c d k
  rw [if_neg h] at hctx
  unfold State.wakeCore
  dsimp only
  rw [← hctx]
  split
  · rfl
  · rw [State.ctxAt, State.event, State.coreAt_modCore, if_neg h]
    rfl

/-! ### A reply with no request in the service's own queue (R343) -/

section
variable {s : State} {obj pg : Nat}

/-- No saved launch keeps a replay record and no fault is open. -/
def State.noWaiters (s : State) : Prop := (∀ n ∈ s.sched.nodes, n.2.areas = []) ∧ ∀ d ∈ s.dies, d.2.faults = []

theorem State.noteReply_noWaiters (h : s.noWaiters) (ok : Bool) : s.noteReply obj pg ok = (s, true) := by
  refine each_fix_of_mem fun n hn => ?_
  obtain ⟨i, r⟩ := n
  have hr : r.areas = [] := h.1 _ hn
  dsimp only
  rw [hr]
  rfl

/-- The rest is what remains of the reply; it begins from the same cores and objects. -/
theorem State.wakePage_noWaiters (h : s.noWaiters) (ok : Bool) :
    ∃ u : State, s.wakePage obj pg ok = u.wakeRest obj pg ok ∧ u.cores = s.cores ∧ (∀ c k, u.ctxAt c k = s.ctxAt c k) ∧ u.objs = s.objs := by
  have hqueue (p : PageFault → Bool) : s.dies.flatMap (fun d => (d.2.faults.filter p).flatMap (·.waiters)) = [] :=
    List.flatMap_eq_nil_iff.2 fun d hd => by rw [h.2 d hd]; rfl
  rw [State.wakePage, State.noteReply_noWaiters h]
  dsimp only
  rw [hqueue, State.serveList]
  exact ⟨_, rfl, rfl, fun _ _ => rfl, rfl⟩

theorem State.objs_wakePage (h : s.noWaiters) (ok : Bool) : (s.wakePage obj pg ok).objs = s.objs := by
  obtain ⟨u, hu, -, -, hobjs⟩ := State.wakePage_noWaiters (obj := obj) (pg := pg) h ok
  rw [hu, State.wakeRest_eq, ← hobjs]
  exact each_inv (fun t : State => t.objs = u.objs) _ _ _ (fun t c ht => (t.objs_wakeCore _ _ _ _).trans ht) rfl

theorem State.core_mem_of_page {c k : Nat} (h : (s.ctxAt c k).page = some (obj, pg)) : c ∈ s.cores.map (·.1) := by
  by_contra hc
  rw [State.ctxAt, State.coreAt, sget_of_not_mem _ hc] at h
  exact absurd h (by simp [Core.reset, Core.ctxAt, Ctx.reset, sget])

/-- A context that waits for the page is reached: what the reply makes of it, if further replies and events keep that, holds at
the end. -/
theorem State.ctxAt_wakePage (h : s.noWaiters) {ok : Bool} {c k : Nat} (hp : (s.ctxAt c k).page = some (obj, pg)) {Q : Ctx → Prop}
    (hlatch : ∀ x l, Q x → Q { x with latch := l }) (hreply : Q ((s.ctxAt c k).reply obj pg (replyOf ok)))
    (hagain : ∀ x, Q x → Q (x.reply obj pg (replyOf ok))) : Q ((s.wakePage obj pg ok).ctxAt c k) := by
  obtain ⟨u, hu, hcores, hctx, -⟩ := State.wakePage_noWaiters (obj := obj) (pg := pg) h ok
  have hstep (t : State) (hr : Q ((t.ctxAt c k).reply obj pg (replyOf ok))) : Q ((t.wakeCore obj pg ok c).ctxAt c k) := by
    obtain ⟨l, hl⟩ := t.ctxAt_wakeCore_self obj pg ok c k
    rw [hl]
    exact hlatch _ _ hr
  rw [hu, State.wakeRest_eq]
  refine each_reaches (P := fun t : State => t.ctxAt c k = s.ctxAt c k) (Q := fun t : State => Q (t.ctxAt c k)) (c := c)
    (fun t d hd ht => ?_) (fun t ht => ?_) (fun t d ht => ?_) _ u (hcores ▸ State.core_mem_of_page hp) (hctx c k)
  · rw [t.ctxAt_wakeCore_ne obj pg ok (Ne.symm hd), ht]
  · exact hstep t (by rwa [ht])
  · by_cases hd : d = c
    · subst hd
      exact hstep t (hagain _ ht)
    · rwa [t.ctxAt_wakeCore_ne obj pg ok (Ne.symm hd)]

theorem State.serving_noWaiters (h : s.noWaiters) (ok : Bool) : s.serving obj pg ok = none := by
  rw [State.serving, List.findSome?_eq_none_iff]
  intro d hd
  rw [h.2 d hd]
  rfl

/-- Resolved, a context goes on; unresolved, it has the end or the fault of R137. -/
theorem State.resolved_wakePage (h : s.noWaiters) {c k : Nat} (hp : (s.ctxAt c k).page = some (obj, pg)) :
    ((s.wakePage obj pg true).ctxAt c k).page = none
      ∧ ((s.wakePage obj pg true).ctxAt c k).st = if (s.ctxAt c k).st = .waiting then .live else (s.ctxAt c k).st := by
  refine State.ctxAt_wakePage (Q := fun x => x.page = none ∧ x.st = if (s.ctxAt c k).st = .waiting then .live else (s.ctxAt c k).st)
    h hp (fun _ _ hx => hx) ?_ (fun x hx => ?_)
  · rw [replyOf, if_pos rfl, Ctx.reply_resolved hp]
    exact ⟨rfl, rfl⟩
  · rwa [Ctx.reply_of_ne (by rw [hx.1]; exact nofun)]

theorem State.unresolved_wakePage (h : s.noWaiters) {c k : Nat} (hp : (s.ctxAt c k).page = some (obj, pg)) :
    (s.ctxAt c k).Unresolved ((s.wakePage obj pg false).ctxAt c k) :=
  State.ctxAt_wakePage (Q := (s.ctxAt c k).Unresolved) h hp (fun _ _ hx => hx) (Ctx.unresolved_reply hp) (fun _ hx => hx.reply obj pg)

end

/-! ### A page mapped again (R336, R343) -/

/-- A page whose mapping has changed is found as it was changed. -/
theorem Obj.extent_mapPage {o : Obj} {pg : Nat} {e : Extent} (he : o.extent pg = some e) {f : Extent → Extent}
    (hf : ∀ x, (f x).first = x.first ∧ (f x).count = x.count) :
    (o.mapPage pg f).extent pg = some (f { e with first := pg, count := 1, frame := e.frame + (pg - e.first) }) := by
  unfold Obj.extent at he ⊢
  unfold Obj.mapPage
  dsimp only
  generalize o.ext = l at he
  induction l with
  | nil => cases he
  | cons x l ih =>
    rw [List.flatMap_cons, List.find?_append]
    by_cases hx : x.first ≤ pg ∧ pg < x.first + x.count
    · rw [List.find?_cons_of_pos (by simpa using hx)] at he
      cases he
      obtain ⟨h1, h2⟩ := hf { e with first := pg, count := 1, frame := e.frame + (pg - e.first) }
      have hbefore (y : Extent) : ((if e.first < pg then [{ e with count := pg - e.first }] else []).find? (fun e =>
          decide (e.first ≤ pg) && decide (pg < e.first + e.count))).or (some y) = some y := by
        split
        · rw [List.find?_cons_of_neg (by simp; omega)]
          rfl
        · rfl
      rw [if_pos (by simpa using hx), List.find?_append, List.find?_append,
        List.find?_cons_of_pos (by simp only [h1, h2, Bool.and_eq_true, decide_eq_true_eq]; omega)]
      rw [hbefore]
      rfl
    · rw [List.find?_cons_of_neg (by simpa using hx)] at he
      rw [if_neg (by simpa using hx), List.find?_cons_of_neg (by simpa using hx), List.find?_nil, Option.none_or]
      exact ih he

/-- Whether the list of extents can hold a change does not depend on what is changed. -/
theorem Obj.remap_of_isSome {o : Obj} {pg : Nat} (h : (o.remap pg id).isSome = true) (f : Extent → Extent) :
    o.remap pg f = some (o.mapPage pg f) := by
  have hlength : (o.mapPage pg f).ext.length = (o.mapPage pg id).ext.length := by
    simp only [Obj.mapPage, List.length_flatMap]
    refine congrArg List.sum (List.map_congr_left fun e _ => ?_)
    split
    · simp only [List.length_append, List.length_cons]
    · rfl
  unfold Obj.remap at h ⊢
  rw [hlength]
  split at h
  · rename_i hle
    rw [if_pos hle]
  · cases h

/-- A reply leaves the object as the mapping made it. -/
theorem State.extent_wakePage {s : State} {obj pg : Nat} {p : Obj} (h : s.noWaiters) (hobj : sfind s.objs obj = some p) (ok : Bool) :
    ((s.wakePage obj pg ok).obj obj).bind (fun o => o.extent pg) = p.extent pg := by
  rw [State.obj, State.objs_wakePage h, hobj, Option.bind_some]

/-- What the statement says of a page-fault reply. -/
theorem pageFaultReply_reaches {s : State} {obj pg : Nat} {o : Obj} {e : Extent} (ho : s.obj obj = some o) (he : o.extent pg = some e)
    (h : s.noWaiters) :
    (e.absent = false → exec (.pageFaultReply obj pg true) s = .next (s.wakePage obj pg true))
      ∧ exec (.pageFaultReply obj pg false) s = .next (s.wakePage obj pg false)
      ∧ (e.absent = true → (o.remap pg id).isSome = true →
          (e.back = 0 → ∀ u f n r, s.pickFrames o.die 1 = (u, some ((f, n) :: r)) →
            ∃ t, exec (.pageFaultReply obj pg true) s = .next t ∧ (t.obj obj).bind (fun o => o.extent pg)
              = some { e with first := pg, count := 1, absent := false, stack := f / 2 ^ 20, frame := f % 2 ^ 20 })
          ∧ (e.back ≠ 0 → ∃ t, exec (.pageFaultReply obj pg true) s = .next t ∧ (t.obj obj).bind (fun o => o.extent pg)
              = some { e with first := pg, count := 1, absent := false, frame := e.frame + (pg - e.first) })) := by
  have hreply (ok : Bool) : exec (.pageFaultReply obj pg ok) s = execPageFaultReply obj pg ok s := rfl
  refine ⟨fun ha => ?_, ?_, fun ha hr => ⟨fun hb u f n r hu => ?_, fun hb => ?_⟩⟩
  · rw [hreply, execPageFaultReply, State.serving_noWaiters h, ho]
    dsimp only
    rw [he]
    simp only [ha, Bool.not_true, Bool.false_eq_true, if_false, Bool.not_false, if_true]
  · rw [hreply, execPageFaultReply, State.serving_noWaiters h, ho]
    dsimp only
    rw [he]
    simp only [Bool.not_false, if_true]
  · rw [hreply, execPageFaultReply, State.serving_noWaiters h, ho]
    dsimp only
    rw [he]
    simp only [ha, hb, hu, Bool.not_true, Bool.false_eq_true, if_false, ne_eq, not_true_eq_false]
    rw [Obj.remap_of_isSome hr]
    obtain rfl : u = s.tick1 := (congrArg Prod.fst hu).symm.trans (s.pickFrames_fst o.die 1)
    refine ⟨_, rfl, (State.extent_wakePage (by exact h) ((sfind_sput _ _ _ _).trans (if_pos rfl)) true).trans ?_⟩
    exact (Obj.extent_mapPage (f := fun x => { x with absent := false, stack := f / 2 ^ 20, frame := f % 2 ^ 20 }) he
      (fun _ => ⟨rfl, rfl⟩)).trans (by rw [← hb])
  · rw [hreply, execPageFaultReply, State.serving_noWaiters h, ho]
    dsimp only
    rw [he]
    simp only [ha, hb, Bool.not_true, Bool.false_eq_true, if_false, ne_eq, not_false_eq_true, if_true]
    rw [Obj.remap_of_isSome hr]
    refine ⟨_, rfl, (State.extent_wakePage (by exact h) ((sfind_sput _ _ _ _).trans (if_pos rfl)) true).trans ?_⟩
    exact Obj.extent_mapPage (f := fun x => { x with absent := false }) he (fun _ => ⟨rfl, rfl⟩)

/-! ### A line filled where nothing stands in its way (R238, R239) -/

theorem State.hbmRead_clean {s : State} (h : s.hbmEcc = {}) (a n : Nat) : s.hbmRead a n = (s, { mem := s.hbm, ecc := {} }) := by
  rw [State.hbmRead, h, eccRead_clean]
  dsimp only
  rw [← h]

/-- A sector of a line taken from its frame. -/
def SliceLine.fillSector (l : SliceLine) (hbm : Memory) (base j : Nat) : SliceLine :=
  { l with
    valid := l.valid ||| (1#8 <<< j)
    data := l.data.writeN (32 * j) (hbm.readN (base + 32 * j) 32)
    ecc := { l.ecc with poison := l.ecc.poison ++ [] } }

/-- A line with its first n sectors taken from its frame. -/
def SliceLine.filled (l : SliceLine) (hbm : Memory) (base n : Nat) : SliceLine :=
  each (List.range n) l (fun l j => l.fillSector hbm base j)

theorem SliceLine.filled_succ (l : SliceLine) (hbm : Memory) (base n : Nat) :
    l.filled hbm base (n + 1) = (l.filled hbm base n).fillSector hbm base n := by
  simp only [SliceLine.filled, each, List.range_succ, List.foldl_append, List.foldl_cons, List.foldl_nil]

/-- A fill of a line none of whose sectors is valid takes all of them. -/
theorem State.fillLine_clean {s : State} (h : s.hbmEcc = {}) (m : Home) {l : SliceLine} (hl : l.valid = 0) :
    s.fillLine m l (List.range 8) = (s, l.filled s.hbm m.hbm 8) := by
  have hfilter : (List.range 8).filter (fun j => !l.valid.getLsbD j) = List.range 8 := List.filter_eq_self.2 fun j _ => by simp [hl]
  rw [State.fillLine, hfilter, SliceLine.filled]
  generalize List.range 8 = xs
  clear hl hfilter
  induction xs generalizing l with
  | nil => rfl
  | cons j xs ih =>
    rw [each_cons, each_cons]
    dsimp only
    rw [State.hbmRead_clean h]
    exact ih

/-- A fill keeps all of a line but its bytes and which of its sectors are valid. -/
theorem SliceLine.filled_keeps (l : SliceLine) (hbm : Memory) (base n : Nat) :
    l.filled hbm base n = { l with
      valid := (l.filled hbm base n).valid, data := (l.filled hbm base n).data, ecc := (l.filled hbm base n).ecc }
    ∧ (l.filled hbm base n).ecc = l.ecc := by
  induction n with
  | zero => exact ⟨rfl, rfl⟩
  | succ n ih =>
    obtain ⟨h, hecc⟩ := ih
    rw [SliceLine.filled_succ]
    refine ⟨?_, ?_⟩
    · unfold SliceLine.fillSector
      dsimp only
      rw [h]
    · rw [SliceLine.fillSector, List.append_nil, hecc]

theorem SliceLine.valid_filled {l : SliceLine} (hl : l.valid = 0) (hbm : Memory) (base : Nat) : (l.filled hbm base 8).valid = 0xFF := by
  have h (xs : List Nat) (m : SliceLine) :
      (each xs m (fun l j => l.fillSector hbm base j)).valid = each xs m.valid (fun v j => v ||| (1#8 <<< j)) := by
    induction xs generalizing m with
    | nil => rfl
    | cons j xs ih => exact ih (m.fillSector hbm base j)
  rw [SliceLine.filled, h, hl]
  decide

/-- A byte of a sector that has been filled is its frame's. -/
theorem SliceLine.read_filled (l : SliceLine) (hbm : Memory) (base n : Nat) {i : Nat} (hi : i < 32 * n) :
    (l.filled hbm base n).data.read i = hbm.read (base + i) := by
  induction n with
  | zero => omega
  | succ n ih =>
    rw [SliceLine.filled_succ, SliceLine.fillSector]
    dsimp only
    have hlength : (hbm.readN (base + 32 * n) 32).length = 32 := length_readN _ _ _
    by_cases hn : i < 32 * n
    · rw [Memory.read_writeN_ne _ _ _ _ (.inl hn), ih hn]
    · obtain ⟨k, rfl⟩ : ∃ k, i = 32 * n + k := ⟨i - 32 * n, by omega⟩
      rw [Memory.read_writeN _ _ _ _ (by omega), ← Nat.add_assoc, ← Memory.getD_readN hbm (show k < 32 by omega),
        List.getD_eq_getElem _ _ (by omega)]


/-- Nothing stands in the way of a line at a home: its set is empty, no way is quarantined, no pin is to be re-made, its domain
does not split, and HBM is without errors. -/
structure State.Vacant (s : State) (h : Home) : Prop where
  lines : s.linesAt h.die h.slot h.set = []
  quar : ((s.die h.die).slice h.slot).quar = []
  pins : (s.die h.die).pinsLost = []
  ecc : s.hbmEcc = {}
  whole : ((s.die h.die).mask h.obj.dom).getLsbD 20 = false

section
variable {s t : State} {h : Home}

/-- What a change of the dies leaves of it. -/
theorem State.Vacant.of_same (hv : s.Vacant h) (hs : s.SameHomes t ∧ s.SameLines t)
    (hq : ((t.die h.die).slice h.slot).quar = ((s.die h.die).slice h.slot).quar) (hp : (t.die h.die).pinsLost = (s.die h.die).pinsLost)
    (he : t.hbmEcc = s.hbmEcc) : t.Vacant h :=
  ⟨(hs.2 _ _ _).trans hv.lines, hq.trans hv.quar, hp.trans hv.pins, he.trans hv.ecc, by rw [Die.mask, hs.1.hash]; exact hv.whole⟩

theorem State.Vacant.noteCid (hv : s.Vacant h) (cid : Nat) : (s.noteCid h cid).Vacant h := by
  refine hv.of_same (s.noteCid_same h cid) ?_ ?_ rfl
  · rw [State.noteCid, State.die_modDie, if_pos rfl]
    dsimp only
    split
    · rfl
    · rfl
  · rw [State.noteCid, State.die_modDie, if_pos rfl]
    dsimp only
    split
    · rfl
    · rfl

theorem State.translate_same (s : State) (h : Home) : s.SameHomes (s.translate h) ∧ s.SameLines (s.translate h) :=
  ⟨State.sameHomes_modSlice _ _ _ _, State.sameLines_modSlice rfl⟩

theorem State.slice_modSlice_self (s : State) (d o : Nat) (f : Slice → Slice) :
    ((s.modSlice d o f).die d).slice o = f ((s.die d).slice o) := by
  rw [State.modSlice, State.die_modDie, if_pos rfl, Die.slice, sget_smod, if_pos rfl]
  rfl

theorem State.pinsLost_modSlice (s : State) (d o e : Nat) (f : Slice → Slice) : ((s.modSlice d o f).die e).pinsLost = (s.die e).pinsLost := by
  rw [State.modSlice, State.die_modDie]
  split
  · rename_i he
    rw [he]
  · rfl

theorem State.Vacant.translate (hv : s.Vacant h) : (s.translate h).Vacant h :=
  hv.of_same (s.translate_same h) (by rw [State.translate, State.slice_modSlice_self]) (s.pinsLost_modSlice _ _ _ _) rfl

/-- The old home of a line is asked only while a domain splits (R348). -/
theorem State.Vacant.pullOld (hv : s.Vacant h) : s.pullOld h = s := by
  rw [State.pullOld, hv.whole]
  rfl

theorem State.Vacant.way (hv : s.Vacant h) : ((s.die h.die).slice h.slot).way h.set = some 0 := by
  have hl : ((s.die h.die).slice h.slot).lines h.set = [] := hv.lines
  rw [Slice.way, hl, hv.quar]
  rfl

theorem State.Vacant.freeWay (hv : s.Vacant h) (n : Nat) : s.freeWay h (n + 1) = (s, some 0) := by
  have hl : ((s.die h.die).slice h.slot).lines h.set = [] := hv.lines
  rw [State.freeWay, hv.way]
  dsimp only
  rw [hl, List.find?_nil]
  dsimp only
  rw [hv.quar]
  rfl

/-- The line as it is allocated. -/
def Home.newLine (h : Home) (cid : Nat) : SliceLine := { key := h.key, way := 0, owner := some cid }

/-- A line is allocated in the empty set, and filled by a burst from its frame (R239). -/
theorem State.Vacant.allocLine (hv : s.Vacant h) (cid : Nat) : ∃ u, s.allocLine h cid = (u, some (h.newLine cid))
    ∧ u.linesAt h.die h.slot h.set = [h.newLine cid] ∧ u.hbmEcc = {} ∧ u.hbm = s.hbm := by
  have hp : ((s.putLine h (h.newLine cid)).die h.die).pinsLost = [] := (s.pinsLost_modSlice _ _ _ _).trans hv.pins
  obtain ⟨u, hu⟩ : ∃ u, (s.putLine h (h.newLine cid)).modDie h.die (fun d => { d with pinsLost := d.pinsLost.filter (fun p => p.1 != h.key) }) = u :=
    ⟨_, rfl⟩
  have hremade : (s.putLine h (h.newLine cid)).remakePins h = u := by
    rw [State.remakePins, hp, ← hu]
    rfl
  have hlines : u.linesAt h.die h.slot h.set = [h.newLine cid] := by
    rw [← hu, (State.sameLines_modDie (by rfl)) _ _ _, State.linesAt_putLine, if_pos ⟨rfl, rfl, rfl⟩, hv.lines]
    rfl
  refine ⟨u, ?_, hlines, by rw [← hu]; exact hv.ecc, by rw [← hu]; rfl⟩
  have hfind : ((u.die h.die).slice h.slot).find h.set h.key = some (h.newLine cid) := by
    rw [Slice.find_eq, hlines, List.find?_cons_of_pos (by simp [Home.newLine])]
  rw [State.allocLine, hv.freeWay]
  dsimp only
  change ((s.putLine h (h.newLine cid)).remakePins h,
    some ((((((s.putLine h (h.newLine cid)).remakePins h).die h.die).slice h.slot).find h.set h.key).getD (h.newLine cid))) = _
  rw [hremade, hfind]
  rfl

/-- A read of a line that is nowhere fills it whole, and leaves it clean (R238, R239). -/
theorem State.homeRead_fills {id off : Nat} (hh : s.homeOf id off = some h) (hv : s.Vacant h) (hn : (s.die h.die).named = false)
    (hb : h.ext.back = 0) (hty : h.ext.ty ≠ .device) (hw : s.mustWait h = false) (w n cid : Nat) :
    ∃ l, ((((s.homeRead w id off n cid).1).die h.die).slice h.slot).find h.set h.key = some l ∧ l.valid = 0xFF ∧ l.dirty = 0
      ∧ ∀ j, j < 256 → l.data.read j = s.hbm.read (h.hbm + j) := by
  obtain ⟨u, hu⟩ : ∃ u, s.noteCid h cid = u := ⟨_, rfl⟩
  obtain ⟨hnote, -⟩ := hu ▸ s.noteCid_same h cid
  have huv : u.Vacant h := hu ▸ hv.noteCid cid
  have hwait : u.mustWait h = false := by rw [State.mustWait, hnote.migr]; exact hw
  obtain ⟨v, hv, hlines, hecc, hhbm⟩ := huv.translate.allocLine cid
  have hfilled := State.fillLine_clean hecc h (l := h.newLine cid) rfl
  obtain ⟨l, hl⟩ : ∃ l, (h.newLine cid).filled v.hbm h.hbm 8 = l := ⟨_, rfl⟩
  obtain ⟨hkeeps, heccl⟩ := (h.newLine cid).filled_keeps v.hbm h.hbm 8
  rw [hl] at hkeeps heccl hfilled
  have hnone : ((u.die h.die).slice h.slot).find h.set h.key = none := by rw [Slice.find_eq, huv.lines, List.find?_nil]
  have hclean : l.ecc = {} := heccl
  have hserved : (s.homeRead w id off n cid).1 = ((v.charge cid 0).putLine h l).touch h l.way := by
    have htag : l.tagged = false := by rw [hkeeps]; rfl
    have hline : { l with data := l.data, ecc := {} } = l := by rw [← hclean]
    unfold State.homeRead
    rw [hh]
    dsimp only
    rw [hu]
    simp only [hnote.named, hn, hb, hty, hnone, hwait, huv.translate.pullOld, hv, hfilled, hclean, eccRead_clean, htag, hline,
      Bool.false_eq_true, if_false, ne_eq, not_true_eq_false]
    rfl
  refine ⟨l, ?_, ?_, ?_, fun j hj => ?_⟩
  · rw [hserved, Slice.find_eq, (State.touch_same _ _ _).2, State.linesAt_putLine, if_pos ⟨rfl, rfl, rfl⟩, (v.charge_same cid 0).2, hlines]
    have hway : l.way = 0 := by rw [hkeeps]; rfl
    have hkey : l.key = h.key := by rw [hkeeps]; rfl
    rw [List.filter_cons_of_neg (by simp [hway, Home.newLine]), List.filter_nil, List.nil_append,
      List.find?_cons_of_pos (by simp [hkey])]
  · rw [← hl, SliceLine.valid_filled rfl]
  · rw [hkeeps]
    rfl
  · rw [← hl, SliceLine.read_filled _ _ _ _ (by omega), hhbm]
    exact congrArg (fun m => Memory.read m _) (((State.translate_same _ _).1.hbm).trans hnote.hbm)

end

/-! ### The OBB and frame tests (R338, R386) -/

/-- An object that the table has is the latest of a core's OBB after its fill, which keeps 64. -/
theorem State.obb_obbUse {s : State} {obj : Nat} (ho : (s.obj obj).isSome = true) (c : Nat) :
    ((s.obbUse c obj).coreAt c).cache.obb.getLast?.map (fun e => e.id) = some obj ∧ ((s.obbUse c obj).coreAt c).cache.obb.length ≤ 64 := by
  obtain ⟨b, hb, hid⟩ : ∃ b, s.bounds c obj = some b ∧ b.id = obj := by
    obtain ⟨o, ho⟩ := Option.isSome_iff_exists.1 ho
    rw [State.bounds, ho]
    cases hf : (s.coreAt c).cache.obb.find? (fun e => e.id == obj) with
    | none => exact ⟨_, rfl, rfl⟩
    | some b => exact ⟨b, rfl, by simpa using List.find?_some hf⟩
  rw [State.obbUse, hb]
  dsimp only
  rw [State.modCache, State.coreAt_modCore_self]
  dsimp only
  generalize (((s.suffer c 0 b.hurt.toList).1.coreAt c).cache.obb.filter (fun y => y.id != obj)) = l
  refine ⟨?_, ?_⟩
  · rw [List.drop_append_of_le_length (by simp), List.getLast?_append]
    exact congrArg some hid
  · rw [List.length_drop]
    omega

/-- A frame that has been written whole has no error, and every other word the errors it had. -/
theorem Ecc.clearFrame_spec (e : Ecc) (key w : Nat) :
    if w / 8192 = key then sfind (e.clearFrame key).flips w = none ∧ w ∉ (e.clearFrame key).poison
    else sfind (e.clearFrame key).flips w = sfind e.flips w ∧ (w ∈ (e.clearFrame key).poison ↔ w ∈ e.poison) := by
  have hflips : sfind (e.clearFrame key).flips w = if w / 8192 != key then sfind e.flips w else none :=
    sfind_filter (fun v => v / 8192 != key) e.flips w
  have hpoison : w ∈ (e.clearFrame key).poison ↔ w ∈ e.poison ∧ w / 8192 ≠ key := by
    simp only [Ecc.clearFrame, List.mem_filter, bne_iff_ne]
  split
  · rename_i h
    exact ⟨by simpa [h] using hflips, by simp [hpoison, h]⟩
  · rename_i h
    exact ⟨by simpa [h] using hflips, by simp [hpoison, h]⟩

/-- A single entry of the coalescing buffer drains once its time has come (R234). -/
theorem exec_coalescingBufferDrain {s : State} {c : Nat} {e : CbEntry} (hbuf : (s.coreAt c).cache.cbuf = [e]) (hw : e.wcomb = false)
    (hh : e.held = false) : exec (.coalescingBufferDrain c) s = .next (if e.due ≤ s.now then (s.bufDrain c e).1 else s) := by
  change execCoalescingBufferDrain c s = _
  have hl : (s.coreAt c).cache.cbuf.filter (fun e => !e.wcomb) = [e] := by rw [hbuf]; simp [hw]
  rw [execCoalescingBufferDrain, hl]
  by_cases hd : e.due ≤ s.now
  · simp [hd, hh, each]
  · simp [hd, each]

/-- Settles O45. A reply visits every core of the table, and what it makes of a context no later visit or event takes back; a fill
takes the empty set's first way and reads eight sectors from the frame. -/
theorem pageEvents : Obligations.PageEvents := by
  unfold Obligations.PageEvents
  refine ⟨fun s obj pg o e ho he ha hf => ?_, fun s c e hbuf hw hh => ?_, fun s c cid n a data => ?_, fun s c obj die stack frame => ?_⟩
  · have h : s.noWaiters := ⟨ha, hf⟩
    obtain ⟨hresolved, hunresolved, hmapped⟩ := pageFaultReply_reaches ho he h
    exact ⟨fun hpresent => ⟨_, hresolved hpresent, fun c k hp => State.resolved_wakePage h hp⟩, hmapped,
      _, hunresolved, fun c k hp => State.unresolved_wakePage h hp⟩
  · rw [exec_coalescingBufferDrain hbuf hw hh]
    exact ⟨fun hd => by rw [if_pos hd], fun hd => by rw [if_neg (Nat.not_le.2 hd)]⟩
  · refine ⟨rfl, rfl, fun hb => ?_, fun hb => ?_, fun h hh hn hb hty hw hl hq hp he hm => ?_⟩
    · change execSliceRequest c cid a n .prefetch s = _
      simp only [execSliceRequest, hb, Bool.false_eq_true, if_false]
    · change execSliceRequest c cid a n .prefetch s = _
      simp only [execSliceRequest, hb, if_true]
    · obtain ⟨l, hspec⟩ := State.homeRead_fills hh ⟨hl, hq, hp, he, hm⟩ hn hb hty hw c 256 cid
      exact ⟨_, l, rfl, hspec⟩
  · refine ⟨fun ho => ⟨s.obbUse c obj, ?_, State.obb_obbUse ho c⟩, fun ho => ?_, fun pass => ?_⟩
    · change execObbFill c obj s = _
      rw [execObbFill, if_pos ho]
    · change execObbFill c obj s = _
      rw [execObbFill, ho]
      rfl
    · refine ⟨_, rfl, fun hpass => ?_, fun hpass => ?_, fun w => ?_⟩
      · subst hpass
        simp
      · subst hpass
        rfl
      · have hspec := s.hbmEcc.clearFrame_spec (frameKey die stack frame) w
        cases pass
        · exact hspec
        · exact hspec

end Sys2Proof.Machine
end

section

/-! PROOFS. The statement on queued messages (spec/06 R164 to R168). -/

namespace Sys2Proof.Machine

/-! ### Local memory read and written (R19, R139) -/

/-- A local write changes of a core what a local read may, and tells the host of what it met (R376). -/
theorem State.localWrite_fetch {s0 s : State} (c la : Nat) (bs : List Byte) (cid : Nat) (h : s0.fetchOnly s) :
    s0.fetchOnly (s.localWrite c la bs cid) := by
  have htold (t : State) (n cid w : Nat) (a : Word) (ht : s0.fetchOnly t) : s0.fetchOnly (t.storeLost n cid a w) := by
    unfold State.storeLost
    split
    · exact ht
    · exact ht.trans ⟨rfl, fun _ => rfl, fun _ => ⟨rfl, fun _ => rfl⟩⟩
  rw [State.localWrite, State.localWriteBy]
  refine each_inv (fun t : State => s0.fetchOnly t) _ _ _ (fun t x ht => ?_) h
  obtain ⟨a, m⟩ := x
  by_cases ha : a < 0x30000
  · simp only [ha, if_true]
    exact htold _ _ _ _ _ (State.modCore_fetch _ _ ht (fun x => Core.countEcc_code x _ _ _ _ _ rfl))
  · simp only [ha, if_false]
    exact htold _ _ _ _ _ (State.modCore_fetch _ _ (State.modWell_fetch _ _ _ ht (fun _ => rfl)) (fun x => Core.countEcc_code x _ _ _ _ _ rfl))

/-- A local read touches no die. -/
theorem State.dies_localRead (s : State) (c la n : Nat) : (s.localRead c la n).1.dies = s.dies := by
  refine each_inv (fun p : State × List Byte × Option Nat => p.1.dies = s.dies) _ _ _ (fun p x hp => ?_) rfl
  obtain ⟨t, bs, bad⟩ := p
  obtain ⟨a, m⟩ := x
  dsimp only
  split
  · exact hp
  · exact hp

/-- What reading code may change of a core leaves the rest of its local memory. -/
theorem State.fetchOnly.loc {s t : State} (h : s.fetchOnly t) (c : Nat) :
    (t.coreAt c).loc = { (s.coreAt c).loc with tcm := (t.coreAt c).loc.tcm, ecc := (t.coreAt c).loc.ecc } := by
  have hcore : t.coreAt c = _ := h.2.1 c
  rw [hcore]

/-- Between two states the sender is as it was, its clock, and the bound of its messages. -/
structure State.SameSender (s t : State) : Prop where
  issuer : s.SameIssuer t
  step : t.stepOf s.core = s.stepOf s.core
  bound : t.here.loc.qbound = s.here.loc.qbound

theorem State.SameSender.refl (s : State) : s.SameSender s := ⟨.refl s, rfl, rfl⟩

/-- The bytes of a message read and their tiles marked leave the sender. -/
theorem State.sameSender_read (s : State) (la n : Nat) : s.SameSender ((s.localRead s.core la n).1.markTiles s.core la n) := by
  obtain ⟨r, hr⟩ : ∃ r, (s.localRead s.core la n).1 = r := ⟨_, rfl⟩
  have hf : s.fetchOnly r := hr ▸ State.localRead_fetch _ _ _ (.refl s)
  have hdies : r.dies = s.dies := hr ▸ s.dies_localRead _ _ _
  have hm : r.marked (r.markTiles s.core la n) := State.markTiles_marked _ _ _ (.refl r)
  have hissuer := (State.SameIssuer.of_fetchOnly hf).trans hm.sameIssuer
  rw [hr]
  refine ⟨hissuer, ?_, ?_⟩
  · have hd : (r.markTiles s.core la n).dies = s.dies := by rw [hm.1]; exact hdies
    rw [State.stepOf, State.stepAt, State.die, hissuer.now, hd]
    rfl
  · rw [hm.here_eq (fun x => x.loc.qbound) fun _ _ => rfl, State.here, hf.core, hf.loc, State.here]

/-! ### A message written into a ring (R165, R166) -/

/-- Whether a message is written round the end of the data area of a core's ring. -/
def State.ringWraps (s : State) (c : Nat) (data : List Byte) : Bool := decide (ringBytes < (s.coreAt c).loc.tail + round8 data.length)

/-- The data of a message and its record, in the well of the ring. -/
def State.ringData (s : State) (c slot : Nat) (eth : Bool) (src : Word) (data : List Byte) : State :=
  let l := (s.coreAt c).loc
  let w := bankWell ((s.coreAt c).bankmap slot)
  let body := data ++ List.replicate (round8 data.length - data.length) 0
  let first := ringBytes - l.tail
  let word0 := data.length % 65536 + (s.ringWraps c data).toNat * 2 ^ 16 + eth.toNat * 2 ^ 17 + l.tail * 2 ^ 32
  let s := if s.ringWraps c data then (s.wellWrite c w l.tail (body.take first)).wellWrite c w 0 (body.drop first)
    else s.wellWrite c w l.tail body
  s.wellWrite c w (0xFC00 + 16 * ((l.recHead + l.recs) % 64)) (leBytes 8 word0 ++ leBytes 8 src.toNat)

/-- The ring of a core with a message more (R165). -/
def State.ringTaken (s : State) (c : Nat) (sc : Scope) (data : List Byte) (l : Local) : Local :=
  { l with
    tail := if s.ringWraps c data then round8 data.length - (ringBytes - (s.coreAt c).loc.tail)
      else ((s.coreAt c).loc.tail + round8 data.length) % ringBytes
    recs := l.recs + 1
    recScope := l.recScope ++ [sc] }

/-- A message written into a ring, before its event. -/
def State.ringPut (s : State) (c slot : Nat) (eth : Bool) (sc : Scope) (src : Word) (data : List Byte) : State :=
  (s.ringData c slot eth src data).modLoc c (s.ringTaken c sc data)

section
variable (s : State) (c slot : Nat) (eth : Bool) (sc : Scope) (src : Word) (data : List Byte)

/-- The cases of an offer (R165). -/
theorem State.offer_noRing (h : (s.coreAt c).ringSlot = none) :
    s.offer c eth sc src data = (s, if s.savedCore c then .refused else .noRing) := by
  rw [State.offer]
  dsimp only
  rw [h]

theorem State.offer_full (h : 64512 - (s.coreAt c).loc.inUse < round8 data.length ∨ 64 ≤ (s.coreAt c).loc.recs) :
    (s.offer c eth sc src data).1 = s := by
  rw [State.offer]
  dsimp only
  split
  · rfl
  · rw [if_pos (by simp only [Bool.or_eq_true, decide_eq_true_eq]; exact h)]

theorem State.offer_room {slot : Nat} (hs : (s.coreAt c).ringSlot = some slot) (hr : round8 data.length ≤ 64512 - (s.coreAt c).loc.inUse)
    (hn : (s.coreAt c).loc.recs < 64) : s.offer c eth sc src data = ((s.ringPut c slot eth sc src data).event c 1, .written) := by
  have hroom : (decide (ringBytes - (s.coreAt c).loc.inUse < round8 data.length) || decide ((s.coreAt c).loc.recs ≥ 64)) = false := by
    simp only [Bool.or_eq_false_iff, decide_eq_false_iff_not]
    exact ⟨Nat.not_lt.2 hr, Nat.not_le.2 hn⟩
  rw [State.offer]
  dsimp only
  rw [hs]
  dsimp only
  rw [if_neg (ne_true_of_eq_false hroom)]
  rfl

/-- Refused or unreceived, a message leaves everything; else it has been written. -/
theorem State.offer_cases : (s.offer c eth sc src data).1 = s ∧ (s.offer c eth sc src data).2 ≠ .written
    ∨ ∃ slot, s.offer c eth sc src data = ((s.ringPut c slot eth sc src data).event c 1, .written) := by
  rw [State.offer]
  dsimp only
  split
  · refine .inl ⟨rfl, ?_⟩
    dsimp only
    split
    · exact nofun
    · exact nofun
  · split
    · exact .inl ⟨rfl, nofun⟩
    · exact .inr ⟨_, rfl⟩

theorem State.ringData_eq : ∃ o, s.ringData c slot eth src data = { s with octets := o } := by
  unfold State.ringData
  dsimp only
  split
  · exact ⟨_, rfl⟩
  · exact ⟨_, rfl⟩

theorem State.loc_ringPut : ((s.ringPut c slot eth sc src data).coreAt c).loc = s.ringTaken c sc data (s.coreAt c).loc := by
  obtain ⟨o, ho⟩ := s.ringData_eq c slot eth src data
  rw [State.ringPut, ho, State.modLoc, State.coreAt_modCore_self]
  rfl

theorem State.ctxAt_ringPut (d k : Nat) : (s.ringPut c slot eth sc src data).ctxAt d k = s.ctxAt d k := by
  obtain ⟨o, ho⟩ := s.ringData_eq c slot eth src data
  rw [State.ringPut, ho]
  exact State.ctxAt_modCore_of_ctxs rfl d k

/-- A message that is offered leaves of every context all but its latch. -/
theorem State.ctxAt_offer (d k : Nat) : ∃ l, (s.offer c eth sc src data).1.ctxAt d k = { s.ctxAt d k with latch := l } := by
  rcases s.offer_cases c eth sc src data with ⟨h, -⟩ | ⟨slot, h⟩
  · exact ⟨_, by rw [h]⟩
  · obtain ⟨l, hl⟩ := (s.ringPut c slot eth sc src data).ctxAt_event c 1 d k
    exact ⟨l, by rw [h, hl, State.ctxAt_ringPut]⟩

theorem State.issuer_offer : (s.offer c eth sc src data).1.core = s.core ∧ (s.offer c eth sc src data).1.ctx = s.ctx := by
  rcases s.offer_cases c eth sc src data with ⟨h, -⟩ | ⟨slot, h⟩
  · rw [h]
    exact ⟨rfl, rfl⟩
  · obtain ⟨o, ho⟩ := s.ringData_eq c slot eth src data
    rw [h, State.ringPut, ho]
    exact ⟨rfl, rfl⟩

/-- What the statement says of a message's arrival. -/
theorem messageArrival_spec {slot : Nat} (hs : (s.coreAt c).ringSlot = some slot)
    (hr : round8 data.length ≤ 64512 - (s.coreAt c).loc.inUse) (hn : (s.coreAt c).loc.recs < 64) :
    ∃ t, exec (.messageArrival c eth src data) s = .next t ∧ (t.coreAt c).loc = s.ringTaken c .pod data (s.coreAt c).loc
      ∧ ∀ k r, (t.ctxAt c k).reg r = (s.ctxAt c k).reg r := by
  obtain ⟨t, ht⟩ : ∃ t, (s.offer c eth .pod src data).1 = t := ⟨_, rfl⟩
  refine ⟨t, congrArg Host.Outcome.next ht, ?_, fun k r => ?_⟩
  · rw [← ht, s.offer_room c eth .pod src data hs hr hn, State.coreAt_event _ _ _ Core.loc fun _ _ _ => rfl]
    exact s.loc_ringPut c slot eth .pod src data
  · obtain ⟨l, hl⟩ := s.ctxAt_offer c eth .pod src data c k
    rw [← ht, hl]
    rfl

end

/-! ### QSEND (R167) -/

section
variable {s : State}

/-- The status of a QSEND by the receiver's answer; none while it is refused (R167). -/
def Offer.status (o : Offer) : Option Nat := match o with | .written => some 0 | .refused => none | .noRing => some 2

/-- The message of this module's core. -/
def State.offered (s : State) (c : Nat) (sc : Scope) (data : List Byte) : State × Offer :=
  s.offer c false sc (w64 (s.modno * 30720 + s.core)) data

theorem State.sendOnce_outside {sc : Scope} {b : Word} (h : s.destOf sc b = none) (data : List Byte) : s.sendOnce sc b data = (s, some 2) := by
  rw [State.sendOnce, h]

theorem State.sendOnce_core {sc : Scope} {b : Word} {c : Nat} (h : s.destOf sc b = some (some c)) (data : List Byte) :
    s.sendOnce sc b data = ((s.offered c sc data).1, (s.offered c sc data).2.status) := by
  rw [State.sendOnce, h]
  change (match s.offered c sc data with
    | (s, .written) => (s, some 0)
    | (s, .refused) => (s, none)
    | (s, .noRing) => (s, some 2)) = _
  obtain ⟨t, v⟩ := s.offered c sc data
  cases v with
  | written | refused | noRing => rfl

theorem State.sendOnce_module {sc : Scope} {b : Word} (h : s.destOf sc b = some none) (data : List Byte) :
    (s.sendOnce sc b data).1 = s.tick1 := by
  rw [State.sendOnce, h]

/-- A message that is sent once leaves the context that sends but for its latch. -/
theorem State.me_sendOnce (s : State) (sc : Scope) (b : Word) (data : List Byte) :
    ∃ l, (s.sendOnce sc b data).1.me = { s.me with latch := l } := by
  rcases hd : s.destOf sc b with _ | _ | c
  · exact ⟨_, by rw [State.sendOnce_outside hd]⟩
  · exact ⟨_, by rw [State.sendOnce_module hd]; rfl⟩
  · obtain ⟨hcore, hctx⟩ := s.issuer_offer c false sc (w64 (s.modno * 30720 + s.core)) data
    rw [State.sendOnce_core hd, State.me]
    dsimp only [State.offered]
    rw [hcore, hctx]
    exact s.ctxAt_offer _ _ _ _ _ _ _

/-- A message refused leaves the sender as it was. -/
theorem State.sendOnce_refused {sc : Scope} {b : Word} {data : List Byte} (h : (s.sendOnce sc b data).2 = none) :
    s.SameSender (s.sendOnce sc b data).1 := by
  rcases hd : s.destOf sc b with _ | _ | c
  · rw [State.sendOnce_outside hd] at h
    cases h
  · rw [State.sendOnce_module hd]
    exact ⟨⟨rfl, rfl, rfl, rfl⟩, rfl, rfl⟩
  · rw [State.sendOnce_core hd] at h ⊢
    rcases s.offer_cases c false sc (w64 (s.modno * 30720 + s.core)) data with ⟨hsame, -⟩ | ⟨slot, hwritten⟩
    · rw [State.offered, hsame]
      exact .refl s
    · rw [State.offered, hwritten] at h
      cases h

/-- The message of a QSEND is offered, and it completes, waits or gives up (R167). -/
theorem State.tryQsend_answered {i : Instr} {sc : Scope} {bs : List Byte} {a : GReg} {b start : Word} {v : Nat}
    (h : (s.sendOnce sc b bs).2 = some v) : s.tryQsend i sc bs a b start = (s.sendOnce sc b bs).1.result a (w64 v) := by
  rw [State.tryQsend]
  split
  · rename_i heq
    rw [heq] at h ⊢
    cases h
    rfl
  · rename_i heq
    rw [heq] at h
    cases h

theorem State.tryQsend_refused {i : Instr} {sc : Scope} {bs : List Byte} {a : GReg} {b start : Word}
    (h : (s.sendOnce sc b bs).2 = none) : s.tryQsend i sc bs a b start =
      if (s.stepOf s.core).toNat - start.toNat < s.here.loc.qbound.toNat then
        ((s.sendOnce sc b bs).1.hold i start).modMe (fun x => { x with payload := bs })
      else (s.sendOnce sc b bs).1.result a 1 := by
  have hsame := State.sendOnce_refused h
  rw [State.tryQsend]
  split
  · rename_i heq
    rw [heq] at h
    cases h
  · rename_i heq
    rw [heq] at hsame ⊢
    rw [hsame.issuer.core, hsame.step, hsame.bound]

section
variable {sc : Scope} {len1 : BitVec 5} {a b c : GReg}

/-- A QSEND whose check has passed and whose stores are accepted (R167). -/
def State.sendRead (s : State) (sc : Scope) (len1 : BitVec 5) (a b c : GReg) (la n : Nat) : State :=
  match s.localRead s.core la n with
  | (s, _, some _) => s.raise { code := 0x0B, addr := s.g c }
  | (s, bs, none) => (s.markTiles s.core la n).tryQsend (.qsend sc len1 a b c) sc bs a (s.g b) (s.stepOf s.core)

theorem exec_qsend : exec (.qsend sc len1 a b c) s = .next (s.checked (s.checkLocal s.core (s.g c).toNat (8 * (len1.toNat + 1)) 8 false)
    (fun t => t.onRelease sc (fun t => t.sendRead sc len1 a b c (s.g c).toNat (8 * (len1.toNat + 1))))) := by
  rw [show exec (.qsend sc len1 a b c) s = execQsend sc len1 a b c s from rfl, execQsend]
  refine congrArg Host.Outcome.next (congrArg (State.checked s _) (funext fun t => congrArg (State.onRelease t sc) (funext fun t => ?_)))
  rw [State.sendRead]
  obtain ⟨r, bs, bad⟩ := t.localRead t.core (s.g c).toNat (8 * (len1.toNat + 1))
  cases bad with
  | none => rfl
  | some _ => rfl

/-- With nothing to release, a QSEND whose check passes reads and sends. -/
theorem exec_qsend_passes (h : s.checkLocal s.core (s.g c).toNat (8 * (len1.toNat + 1)) 8 false = none) (hd : s.drained) :
    exec (.qsend sc len1 a b c) s = .next (s.sendRead sc len1 a b c (s.g c).toNat (8 * (len1.toNat + 1))) := by
  refine exec_qsend.trans (congrArg Host.Outcome.next ?_)
  rw [h, State.checked_none]
  exact State.onRelease_of_drained hd _ _

variable {la n : Nat}

/-- The read leaves the registers and the clock of the sender. -/
theorem State.sendRead_poisoned (h : (s.localRead s.core la n).2.2 ≠ none) :
    s.sendRead sc len1 a b c la n = (s.localRead s.core la n).1.raise { code := 0x0B, addr := s.g c } := by
  have hissuer := State.SameIssuer.of_fetchOnly (State.localRead_fetch s.core la n (.refl s))
  rw [State.sendRead]
  split
  · rename_i t bs w heq
    rw [heq] at hissuer ⊢
    rw [hissuer.g]
  · rename_i heq
    rw [heq] at h
    exact absurd rfl h

theorem State.sendRead_read (h : (s.localRead s.core la n).2.2 = none) :
    s.sendRead sc len1 a b c la n = ((s.localRead s.core la n).1.markTiles s.core la n).tryQsend (.qsend sc len1 a b c) sc
      (s.localRead s.core la n).2.1 a (s.g b) (s.stepOf s.core) := by
  have hissuer := State.SameIssuer.of_fetchOnly (State.localRead_fetch s.core la n (.refl s))
  have hdies := s.dies_localRead s.core la n
  rw [State.sendRead]
  split
  · rename_i heq
    rw [heq] at h
    cases h
  · rename_i t bs heq
    rw [heq] at hissuer hdies ⊢
    dsimp only at hissuer hdies ⊢
    have hstep : t.stepOf s.core = s.stepOf s.core := by
      rw [State.stepOf, State.stepAt, State.die, hissuer.now, hdies]
      rfl
    rw [hissuer.g, hissuer.core, hstep]

/-- What the statement says of a QSEND that reads its bytes (R167). -/
theorem qsend_sends (he : s.me.eret ≠ 1) (hr : (s.localRead s.core la n).2.2 = none) :
    let r := s.localRead s.core la n
    let o := (r.1.markTiles s.core la n).sendOnce sc (s.g b) r.2.1
    let i := Instr.qsend sc len1 a b c
    (∀ v, o.2 = some v → o.1.gives (s.sendRead sc len1 a b c la n) a (w64 v))
      ∧ (o.2 = none → 0 < s.here.loc.qbound.toNat →
          s.sendRead sc len1 a b c la n = (o.1.hold i (s.stepOf s.core)).modMe (fun x => { x with payload := r.2.1 }))
      ∧ (o.2 = none → s.here.loc.qbound.toNat = 0 → o.1.gives (s.sendRead sc len1 a b c la n) a 1) := by
  intro r o i
  have hsame : s.SameSender (r.1.markTiles s.core la n) := s.sameSender_read la n
  have heret : o.1.me.eret ≠ 1 := by
    obtain ⟨l, hl⟩ := (r.1.markTiles s.core la n).me_sendOnce sc (s.g b) r.2.1
    rw [hl]
    exact hsame.issuer.eret_ne he
  have hspent : ((r.1.markTiles s.core la n).stepOf (r.1.markTiles s.core la n).core).toNat - (s.stepOf s.core).toNat = 0 := by
    rw [hsame.issuer.core, hsame.step, Nat.sub_self]
  rw [State.sendRead_read hr]
  refine ⟨fun v hv => ?_, fun hv hq => ?_, fun hv hq => ?_⟩
  · rw [State.tryQsend_answered hv]
    exact State.result_gives _ a _ heret
  · rw [State.tryQsend_refused hv, hspent, hsame.bound, if_pos hq]
  · rw [State.tryQsend_refused hv, hspent, hsame.bound, if_neg (by omega)]
    exact State.result_gives _ a _ heret

/-- What the statement says of a QSEND (R167). -/
theorem qsend_spec (he : s.me.eret ≠ 1) (hn : 8 * (len1.toNat + 1) = n) (hla : (s.g c).toNat = la) :
    let r := s.localRead s.core la n
    let o := (r.1.markTiles s.core la n).sendOnce sc (s.g b) r.2.1
    let i := Instr.qsend sc len1 a b c
    (∀ z, s.checkLocal s.core la n 8 false = some z → exec i s = .next (s.raise z))
      ∧ (s.checkLocal s.core la n 8 false = none → s.drained → r.2.2 ≠ none →
          exec i s = .next (r.1.raise { code := 0x0B, addr := s.g c }))
      ∧ (s.checkLocal s.core la n 8 false = none → s.drained → r.2.2 = none →
          (∀ v, o.2 = some v → ∃ t, exec i s = .next t ∧ o.1.gives t a (w64 v))
            ∧ (o.2 = none → 0 < s.here.loc.qbound.toNat →
                exec i s = .next ((o.1.hold i (s.stepOf s.core)).modMe (fun x => { x with payload := r.2.1 })))
            ∧ (o.2 = none → s.here.loc.qbound.toNat = 0 → ∃ t, exec i s = .next t ∧ o.1.gives t a 1))
      ∧ ∃ t, exec (.qpoll a) s = .next t ∧ s.gives t a (w64 s.here.loc.recs) := by
  intro r o i
  have hexec (h : s.checkLocal s.core la n 8 false = none) (hd : s.drained) : exec i s = .next (s.sendRead sc len1 a b c la n) := by
    subst hn hla
    exact exec_qsend_passes h hd
  refine ⟨fun z hz => ?_, fun hz hd hr => ?_, fun hz hd hr => ?_, _, rfl, s.result_gives a _ he⟩
  · subst hn hla
    refine exec_qsend.trans (congrArg Host.Outcome.next ?_)
    rw [hz, State.checked_some]
  · rw [hexec hz hd, State.sendRead_poisoned hr]
  · rw [hexec hz hd]
    obtain ⟨hsent, hwaits, hgives⟩ := qsend_sends (sc := sc) (len1 := len1) (a := a) (b := b) (c := c) he hr
    exact ⟨fun v hv => ⟨_, rfl, hsent v hv⟩, fun hv hq => congrArg _ (hwaits hv hq), fun hv hq => ⟨_, rfl, hgives hv hq⟩⟩

end

/-! ### QRECV (R168) -/

/-- Retirement, also of the second delay slot of an ERET, leaves the registers of the context, and reads lines of code. -/
theorem State.retire_keeps (s : State) : ∃ u y, s.fetchOnly u ∧ s.retire = u.modMe (fun _ => y) ∧ ∀ r, y.reg r = s.me.reg r := by
  by_cases he : s.me.eret = 1
  · obtain ⟨u, q0, q1, q2, f, d, hu, -, ht⟩ := State.retire_returns he
    exact ⟨u, _, hu, ht, fun _ => rfl⟩
  · have hp := s.retire_passed he
    obtain ⟨u, hu, -, ht⟩ := s.retire_passed he
    exact ⟨u, _, hu, ht, hp.g⟩

/-- Completing with a result leaves the ring of the core, also in the second delay slot of an ERET. -/
theorem State.result_keeps (s : State) (a : GReg) (v : Word) : ((s.result a v).here.loc.recs = s.here.loc.recs
    ∧ (s.result a v).here.loc.head = s.here.loc.head) ∧ ∀ r, (s.result a v).g r = if r = a ∧ a ≠ 0 then v else s.g r := by
  obtain ⟨u, y, hu, ht, hy⟩ := (s.setG a v).retire_keeps
  have hloc : (s.result a v).here.loc = (u.coreAt s.core).loc := by
    rw [State.result, ht, State.here_modMe, State.here, hu.core]
    rfl
  refine ⟨?_, fun r => ?_⟩
  · rw [hloc, hu.loc, State.setG, State.modMe, State.modCtx, State.coreAt_modCore_self]
    exact ⟨rfl, rfl⟩
  · rw [State.result, ht, State.g, State.me_modMe, hy]
    exact State.g_setG _ _ _ _

/-- The ring of a core with its oldest record taken, whose data ends at a place (R168). -/
def Local.recordTaken (l : Local) (head : Nat) : Local :=
  { l with head := head, recs := l.recs - 1, recHead := (l.recHead + 1) % 64, recScope := l.recScope.drop 1 }

/-- The record delivered as its data has been copied: the ring moves on, and the acquire has its scope (R168, R246). -/
def State.delivered (s : State) (bs : List Byte) (la head : Nat) : State :=
  let w := s.localWrite s.core la bs s.cid
  let m := w.modLoc w.core (fun l => l.recordTaken head)
  m.acquire m.core (s.here.loc.recScope.headD .pod)

theorem State.delivered_ring (s : State) (bs : List Byte) (la head : Nat) : s.SameIssuer (s.delivered bs la head)
    ∧ (s.delivered bs la head).here.loc.recs = s.here.loc.recs - 1 ∧ (s.delivered bs la head).here.loc.head = head := by
  obtain ⟨w, hw⟩ : ∃ w, s.localWrite s.core la bs s.cid = w := ⟨_, rfl⟩
  have hf : s.fetchOnly w := by
    rw [← hw]
    exact State.localWrite_fetch _ _ _ _ (.refl s)
  unfold State.delivered
  rw [hw]
  dsimp only
  obtain ⟨m, hm⟩ : ∃ m, w.modLoc w.core (fun l => l.recordTaken head) = m := ⟨_, rfl⟩
  have hissuer : s.SameIssuer m := by
    rw [← hm]
    exact (State.SameIssuer.of_fetchOnly hf).trans (State.sameIssuer_modLoc _ _ _)
  have hloc : m.here.loc.recs = s.here.loc.recs - 1 ∧ m.here.loc.head = head := by
    rw [hissuer.here, ← hm, State.coreAt_modLoc, hf.core, if_pos rfl, hf.loc, State.here]
    exact ⟨rfl, rfl⟩
  rw [hm]
  refine ⟨hissuer.trans (m.acquire_sameIssuer _ _), ?_⟩
  rw [(m.acquire_sameIssuer m.core _).here, State.coreAt_acquire m m.core _ m.core Core.loc fun _ _ => rfl]
  exact hloc

/-- The data of the oldest record, which may go round the end of the data area. -/
def State.recordBytes (s : State) (slot : Nat) : List Byte :=
  let v := s.well s.core (bankWell (s.here.bankmap slot))
  let n := s.recordWord slot % 65536
  let at_ := s.recordWord slot / 2 ^ 32 % 65536
  v.data.readN at_ (min n (ringBytes - at_)) ++ v.data.readN 0 (n - min n (ringBytes - at_))

/-- Word 1 of the oldest record: the source. -/
def State.recordSource (s : State) (slot : Nat) : Nat :=
  leNat ((s.well s.core (bankWell (s.here.bankmap slot))).data.readN (0xFC00 + 16 * s.here.loc.recHead + 8) 8)

/-- A QRECV with a record takes it as its destination passes the checks of a store (R168). -/
theorem State.takeRecord_eq (s : State) (a : GReg) (slot la : Nat) : s.takeRecord a slot la =
    s.checked (s.checkLocal s.core la (round8 (s.recordWord slot % 65536)) 8 true) (fun t =>
      (t.delivered (s.recordBytes slot) la ((s.recordWord slot / 2 ^ 32 % 65536 + round8 (s.recordWord slot % 65536)) % ringBytes)).result a
        (w64 (s.recordWord slot % 2 ^ 24 + s.recordSource slot % 2 ^ 40 * 2 ^ 24))) := by
  unfold State.takeRecord
  refine State.checked_congr _ ?_
  rfl

theorem State.takeRecord_fault {a : GReg} {slot la : Nat} {z : Cause}
    (h : s.checkLocal s.core la (round8 (s.recordWord slot % 65536)) 8 true = some z) : s.takeRecord a slot la = s.raise z := by
  rw [State.takeRecord_eq, h, State.checked_some]

theorem State.takeRecord_passes {a : GReg} {slot la : Nat}
    (h : s.checkLocal s.core la (round8 (s.recordWord slot % 65536)) 8 true = none) :
    (s.takeRecord a slot la).here.loc.recs = s.here.loc.recs - 1
      ∧ (s.takeRecord a slot la).here.loc.head = (s.recordWord slot / 2 ^ 32 % 65536 + round8 (s.recordWord slot % 65536)) % ringBytes
      ∧ ∀ r, (s.takeRecord a slot la).g r
        = if r = a ∧ a ≠ 0 then w64 (s.recordWord slot % 2 ^ 24 + s.recordSource slot % 2 ^ 40 * 2 ^ 24) else s.g r := by
  rw [State.takeRecord_eq, h, State.checked_none]
  obtain ⟨hissuer, hrecs, hhead⟩ := s.delivered_ring (s.recordBytes slot) la
    ((s.recordWord slot / 2 ^ 32 % 65536 + round8 (s.recordWord slot % 65536)) % ringBytes)
  obtain ⟨⟨hr, hh⟩, hreg⟩ := State.result_keeps (s.delivered (s.recordBytes slot) la
    ((s.recordWord slot / 2 ^ 32 % 65536 + round8 (s.recordWord slot % 65536)) % ringBytes)) a
    (w64 (s.recordWord slot % 2 ^ 24 + s.recordSource slot % 2 ^ 40 * 2 ^ 24))
  exact ⟨hr.trans hrecs, hh.trans hhead, fun r => (hreg r).trans (by rw [hissuer.g])⟩

theorem exec_qrecv (a d : GReg) : exec (.qrecv a d) s = .next (s.qrecv a d) := rfl

theorem State.qrecv_waits {a d : GReg} (h : s.here.ringSlot = none ∨ s.here.loc.recs = 0) : s.qrecv a d = s.hold (.qrecv a d) 0 := by
  rw [State.qrecv]
  split
  · rfl
  · rename_i heq
    rw [if_pos (h.resolve_left (by rw [heq]; exact nofun))]

theorem State.qrecv_takes {a d : GReg} {slot : Nat} (h : s.here.ringSlot = some slot) (hr : s.here.loc.recs ≠ 0) :
    s.qrecv a d = s.takeRecord a slot (s.g d).toNat := by
  rw [State.qrecv, h]
  exact if_neg hr

theorem exec_qrecvComplete {c k : Nat} {a d : GReg} (h : (s.ctxAt c k).wait = some (.qrecv a d)) :
    exec (.qrecvComplete c k) s = exec (.qrecv a d) (s.at_ c k) := by
  have hw : (s.at_ c k).me.wait = some (.qrecv a d) := h
  change execQrecvComplete c k s = _
  rw [execQrecvComplete]
  dsimp only
  rw [hw]
  rfl

/-- The wait of a QSEND offers again, or gives up (R167). -/
theorem exec_qsendBoundExpiry {c k : Nat} {sc : Scope} {n : BitVec 5} {a b e : GReg}
    (h : (s.ctxAt c k).wait = some (.qsend sc n a b e)) : exec (.qsendBoundExpiry c k) s = .next
      (if (s.stepOf c).toNat - (s.ctxAt c k).aux.toNat < (s.coreAt c).loc.qbound.toNat then
        (s.at_ c k).tryQsend (.qsend sc n a b e) sc (s.ctxAt c k).payload a ((s.at_ c k).g b) (s.ctxAt c k).aux
      else (s.at_ c k).result a 1) := by
  have hw : (s.at_ c k).me.wait = some (.qsend sc n a b e) := h
  change execQsendBoundExpiry c k s = _
  rw [execQsendBoundExpiry]
  dsimp only
  rw [hw]
  rfl

end

/-- Where a destination of this module leads (R167). -/
theorem State.destOf_pkg (s : State) (b : Word) : s.destOf .pkg b = if b.toNat < 30720 then some (some b.toNat) else none := rfl

theorem State.destOf_die (s : State) (b : Word) :
    s.destOf .die b = if b.toNat < 30720 ∧ b.toNat / 1920 = s.core / 1920 then some (some b.toNat) else none := by
  change (if (decide (b.toNat < 30720) && decide (b.toNat / 1920 = s.core / 1920)) = true then some (some b.toNat) else none) = _
  simp only [Bool.and_eq_true, decide_eq_true_eq]

/-- The tail of a ring that has taken a message (R165). -/
theorem State.tail_ringTaken (s : State) (c : Nat) (sc : Scope) (data : List Byte) (l : Local) :
    (s.ringTaken c sc data l).tail = if (s.coreAt c).loc.tail + round8 data.length ≤ 64512
      then ((s.coreAt c).loc.tail + round8 data.length) % 64512 else round8 data.length - (64512 - (s.coreAt c).loc.tail) := by
  rw [State.ringTaken, State.ringWraps]
  by_cases h : (s.coreAt c).loc.tail + round8 data.length ≤ 64512
  · rw [if_pos h, if_neg (by rw [decide_eq_true_eq]; exact Nat.not_lt.2 h)]
    rfl
  · rw [if_neg h, if_pos (by rw [decide_eq_true_eq]; exact Nat.not_le.1 h)]
    rfl

/-- What the statement says of a destination and of the answer to a message (R167). -/
theorem sendOnce_spec (s : State) (sc : Scope) (b : Word) (bs : List Byte) :
    (s.destOf sc b = none → s.sendOnce sc b bs = (s, some 2))
      ∧ ∀ c, s.destOf sc b = some (some c) →
          let o := s.offered c sc bs
          (o.2 = .written → s.sendOnce sc b bs = (o.1, some 0)) ∧ (o.2 = .refused → s.sendOnce sc b bs = (o.1, none))
            ∧ (o.2 = .noRing → s.sendOnce sc b bs = (o.1, some 2)) :=
  ⟨fun h => State.sendOnce_outside h bs, fun _ h => ⟨fun ho => by rw [State.sendOnce_core h, ho]; rfl,
    fun ho => by rw [State.sendOnce_core h, ho]; rfl, fun ho => by rw [State.sendOnce_core h, ho]; rfl⟩⟩

/-- What the statement says of a QRECV (R168). -/
theorem qrecv_spec (s : State) (a d : GReg) (slot : Nat) (hs : s.here.ringSlot = some slot) (hr : s.here.loc.recs ≠ 0) :
    (∀ z, s.checkLocal s.core (s.g d).toNat (round8 (s.recordWord slot % 65536)) 8 true = some z → exec (.qrecv a d) s = .next (s.raise z))
      ∧ (s.checkLocal s.core (s.g d).toNat (round8 (s.recordWord slot % 65536)) 8 true = none →
        ∃ t, exec (.qrecv a d) s = .next t ∧ t.here.loc.recs = s.here.loc.recs - 1
          ∧ t.here.loc.head = (s.recordWord slot / 2 ^ 32 % 65536 + round8 (s.recordWord slot % 65536)) % 64512
          ∧ ∀ r, t.g r = if r = a ∧ a ≠ 0 then w64 (s.recordWord slot % 2 ^ 24 + s.recordSource slot % 2 ^ 40 * 2 ^ 24) else s.g r) := by
  rw [exec_qrecv, State.qrecv_takes hs hr]
  exact ⟨fun z hz => congrArg _ (State.takeRecord_fault hz), fun hz => ⟨_, rfl, State.takeRecord_passes hz⟩⟩

/-- What the statement says of the wait of a QSEND (R167). -/
theorem qsendBoundExpiry_spec (s : State) (a : GReg) (c k : Nat) (sc : Scope) (n : BitVec 5) (b e : GReg)
    (hw : (s.ctxAt c k).wait = some (.qsend sc n a b e)) :
    let o := (s.at_ c k).sendOnce sc ((s.at_ c k).g b) (s.ctxAt c k).payload
    let spent := (s.stepOf c).toNat - (s.ctxAt c k).aux.toNat
    ((s.coreAt c).loc.qbound.toNat ≤ spent → exec (.qsendBoundExpiry c k) s = .next ((s.at_ c k).result a 1))
      ∧ (spent < (s.coreAt c).loc.qbound.toNat →
        (∀ v, o.2 = some v → exec (.qsendBoundExpiry c k) s = .next (o.1.result a (w64 v)))
          ∧ (o.2 = none → ∃ t, exec (.qsendBoundExpiry c k) s = .next t ∧ (t.ctxAt c k).payload = (s.ctxAt c k).payload
              ∧ (t.ctxAt c k).wait = some (.qsend sc n a b e) ∧ (t.ctxAt c k).aux = (s.ctxAt c k).aux)) := by
  intro o spent
  rw [exec_qsendBoundExpiry hw]
  refine ⟨fun hq => ?_, fun hq => ⟨fun v hv => ?_, fun hv => ?_⟩⟩
  · rw [if_neg (Nat.not_lt.2 hq)]
  · rw [if_pos hq, State.tryQsend_answered hv]
  · have hsame := State.sendOnce_refused hv
    have hcore : o.1.core = c := hsame.issuer.core
    have hctx : o.1.ctx = k := hsame.issuer.ctx
    have hheld := (State.tryQsend_refused (i := .qsend sc n a b e) (a := a) (start := (s.ctxAt c k).aux) hv).trans (if_pos hq)
    refine ⟨_, congrArg Host.Outcome.next ((if_pos hq).trans hheld), ?_⟩
    rw [State.hold, State.modMe, State.modMe, State.modCtx_core, State.modCtx_ctx, hcore, hctx, State.ctxAt_modCtx_self,
      State.ctxAt_modCtx_self]
    exact ⟨rfl, rfl, rfl⟩

/-- Settles O33. A QSEND reads its bytes and offers them once; a ring takes a message where it has room; a QRECV takes the oldest
record. -/
theorem messages : Obligations.Messages := by
  unfold Obligations.Messages
  refine ⟨fun s sc len1 a b c he => qsend_spec he rfl rfl, fun s sc b bs => ?_, fun s c eth src data => ?_, fun s a d => ?_⟩
  · obtain ⟨houtside, hcore⟩ := sendOnce_spec s sc b bs
    refine ⟨houtside, hcore, fun hb => ?_, fun hb => ⟨?_, ?_⟩, fun hb => ?_⟩
    · rw [State.destOf_pkg, if_pos hb]
    · rw [State.destOf_pkg, if_neg (Nat.not_lt.2 hb)]
    · rw [State.destOf_die, if_neg fun h => absurd h.1 (Nat.not_lt.2 hb)]
    · rw [State.destOf_die]
      simp only [hb, true_and]
  · refine ⟨fun hs => ?_, fun slot hs hr hn => ?_, fun hr => ?_, fun hn => ?_⟩
    · exact congrArg Host.Outcome.next (congrArg Prod.fst (s.offer_noRing c eth .pod src data hs))
    · obtain ⟨t, ht, hloc, hreg⟩ := messageArrival_spec s c eth src data hs hr hn
      exact ⟨t, ht, by rw [hloc]; rfl, by rw [hloc]; exact s.tail_ringTaken c .pod data _, by rw [hloc]; rfl, hreg⟩
    · exact congrArg Host.Outcome.next (s.offer_full c eth .pod src data (.inl hr))
    · exact congrArg Host.Outcome.next (s.offer_full c eth .pod src data (.inr hn))
  · exact ⟨fun h => congrArg _ (State.qrecv_waits h), qrecv_spec s a d, fun c k => ⟨exec_qrecvComplete, qsendBoundExpiry_spec s a c k⟩⟩

end Sys2Proof.Machine
end

section

/-! PROOFS. The statement on exchange transfers (spec/06 R159 to R163; spec/11 R262 to R268). -/

namespace Sys2Proof.Machine

/-! ### A transfer begun (R159) -/

/-- An instruction holds its context, and no register and no byte of local memory differs. -/
def State.begins (s t : State) (i : Instr) : Prop :=
  t.me.wait = some i ∧ (∀ r, t.g r = s.g r) ∧ ∀ x la, t.localByte x la = s.localByte x la

/-- The issuing core's exchange unit changed, and its context held. -/
def State.enterXch (s : State) (i : Instr) (f : XchUnit → XchUnit) : State := (s.modHere (fun y => { y with xch := f y.xch })).hold i 0

theorem State.marked.begins {s u : State} (h : s.marked u) (i : Instr) (f : XchUnit → XchUnit) :
    s.begins (u.enterXch i f) i ∧ (u.enterXch i f).here.xch = f s.here.xch := by
  obtain ⟨v, hv⟩ : ∃ v, u.modHere (fun y => { y with xch := f y.xch }) = v := ⟨_, rfl⟩
  have hissuer : u.SameIssuer v := by
    rw [← hv]
    exact State.sameIssuer_modHere rfl
  have hcore (x : Nat) : (v.coreAt x).loc = { (s.coreAt x).loc with checked := (u.coreAt x).loc.checked } := by
    have hloc : (v.coreAt x).loc = (u.coreAt x).loc := by
      rw [← hv, State.modHere, State.coreAt_modCore]
      split
      · rename_i hx
        rw [hx]
      · rfl
    rw [hloc, h.2 x]
  have hheld (x : Nat) : ((v.hold i 0).coreAt x).loc = (v.coreAt x).loc := by
    rw [State.hold, State.modMe, State.modCtx, State.coreAt_modCore]
    split
    · rename_i hx
      rw [hx]
      rfl
    · rfl
  have hwell (x w : Nat) : (v.hold i 0).well x w = s.well x w := by
    have hu : u.octets = s.octets := by rw [h.1]
    have hoct : v.octets = s.octets := by
      rw [← hv]
      exact hu
    rw [State.well, State.well, State.oct, State.oct, State.hold, State.modMe_octets, hoct]
  unfold State.enterXch
  rw [hv]
  refine ⟨⟨?_, fun r => ?_, fun x la => ?_⟩, ?_⟩
  · rw [State.hold, State.me_modMe]
  · rw [State.g, State.hold, State.me_modMe, hissuer.me, h.sameIssuer.me]
    rfl
  · rw [State.localByte, State.localByte, Core.bankmap, Core.bankmap, hheld, hcore]
    split
    · rfl
    · exact congrArg (fun w : Well => w.data.read _) (hwell _ _)
  · rw [State.hold, State.here_modMe, ← hv, State.here_modHere]
    exact congrArg f (h.here_eq Core.xch fun _ _ => rfl)

/-- The transfer that an XSEND begins, and the contribution of an XSENDR. -/
def State.xferOf (s : State) (n : BitVec 14) (b c : GReg) : Xfer :=
  { ctx := s.ctx, n := n.toNat, dst := (s.g b).toNat, src := bits (s.g c) 19 0, off := bits (s.g c) 35 20, pair := bits (s.g c) 37 36 }
def State.newContrib (s : State) (op : RedOp) (ty : RedType) (n : BitVec 14) (c : GReg) : Contrib :=
  { ctx := s.ctx, n := n.toNat, op := op, ty := ty, src := bits (s.g c) 19 0, pair := bits (s.g c) 37 36, off := bits (s.g c) 35 20 }

section
variable {s : State} {n : BitVec 14} {b c : GReg} {op : RedOp} {ty : RedType}

theorem exec_xsend : exec (.xsend n b c) s = .next (s.checked (s.sendCheck n.toNat (some (s.g b)) (s.g c)) (fun t =>
    (t.markTiles t.core (bits (s.g c) 19 0) 256).enterXch (.xsend n b c) (fun y => { y with sends := y.sends ++ [s.xferOf n b c] }))) :=
  congrArg Host.Outcome.next (State.checked_congr _ rfl)

theorem exec_xsendr : exec (.xsendr op ty n c) s = .next (s.checked (s.sendCheck n.toNat none (s.g c)) (fun t =>
    (t.markTiles t.core (bits (s.g c) 19 0) 256).enterXch (.xsendr op ty n c)
      (fun y => { y with contrib := y.contrib ++ [s.newContrib op ty n c] }))) :=
  congrArg Host.Outcome.next (State.checked_congr _ rfl)

/-- The checks of an XRECV, in R159's order. -/
def State.recvCheck (s : State) (n : BitVec 14) (b : GReg) : Option Cause :=
  if !s.here.xopen then some s.me.illegal
  else if !(s.xmembers (s.phaseOf s.core)).contains (s.g b).toNat then some { code := 0x0C }
  else if s.here.label n.toNat < (s.stepOf s.core).toNat then some { code := 0x0D }
  else none

theorem exec_xrecv : exec (.xrecv n b) s = .next (s.checked (s.recvCheck n b) (fun t =>
    t.enterXch (.xrecv n b) (fun y => { y with wins := y.wins ++ [{ ctx := s.ctx, n := n.toNat, src := (s.g b).toNat }] }))) :=
  congrArg Host.Outcome.next (State.checked_congr _ rfl)

theorem State.recvCheck_closed (h : s.here.xopen = false) : s.recvCheck n b = some s.me.illegal := by
  rw [State.recvCheck, h]
  rfl

theorem State.recvCheck_outside (h : s.here.xopen = true) (hm : (s.xmembers (s.phaseOf s.core)).contains (s.g b).toNat = false) :
    s.recvCheck n b = some { code := 0x0C } := by
  rw [State.recvCheck, h, hm]
  rfl

theorem State.recvCheck_member (h : s.here.xopen = true) (hm : (s.xmembers (s.phaseOf s.core)).contains (s.g b).toNat = true) :
    s.recvCheck n b = if s.here.label n.toNat < (s.stepOf s.core).toNat then some { code := 0x0D } else none := by
  rw [State.recvCheck, h, hm]
  rfl

theorem State.sendCheck_closed (h : s.here.xopen = false) (m : Nat) (d : Option Word) (v : Word) : s.sendCheck m d v = some s.me.illegal := by
  simp only [State.sendCheck, h, Bool.not_false, if_true]

end

/-- What the statement says of the beginning of a transfer (R159). -/
theorem transfers_begin (s : State) (n : BitVec 14) (b c : GReg) (op : RedOp) (ty : RedType) :
    (s.sendCheck n.toNat (some (s.g b)) (s.g c) = none → ∃ t, (exec (.xsend n b c) s = .next t ∧ s.begins t (.xsend n b c))
        ∧ t.here.xch.sends = s.here.xch.sends ++ [s.xferOf n b c])
      ∧ (s.sendCheck n.toNat none (s.g c) = none → ∃ t, (exec (.xsendr op ty n c) s = .next t ∧ s.begins t (.xsendr op ty n c))
        ∧ t.here.xch.contrib = s.here.xch.contrib ++ [s.newContrib op ty n c])
      ∧ (s.recvCheck n b = none → ∃ t, (exec (.xrecv n b) s = .next t ∧ s.begins t (.xrecv n b))
        ∧ t.here.xch.wins = s.here.xch.wins ++ [{ ctx := s.ctx, n := n.toNat, src := (s.g b).toNat }]) := by
  refine ⟨fun h => ?_, fun h => ?_, fun h => ?_⟩
  · obtain ⟨hb, hx⟩ := (State.markTiles_marked s.core (bits (s.g c) 19 0) 256 (.refl s)).begins (.xsend n b c)
      (fun y => { y with sends := y.sends ++ [s.xferOf n b c] })
    exact ⟨_, ⟨by rw [exec_xsend, h, State.checked_none], hb⟩, by rw [hx]⟩
  · obtain ⟨hb, hx⟩ := (State.markTiles_marked s.core (bits (s.g c) 19 0) 256 (.refl s)).begins (.xsendr op ty n c)
      (fun y => { y with contrib := y.contrib ++ [s.newContrib op ty n c] })
    exact ⟨_, ⟨by rw [exec_xsendr, h, State.checked_none], hb⟩, by rw [hx]⟩
  · obtain ⟨hb, hx⟩ := (State.marked.refl s).begins (.xrecv n b)
      (fun y => { y with wins := y.wins ++ [{ ctx := s.ctx, n := n.toNat, src := (s.g b).toNat }] })
    exact ⟨_, ⟨by rw [exec_xrecv, h, State.checked_none], hb⟩, by rw [hx]⟩

/-! ### Losses (R160, R266) -/

/-- Between two states only the failures that cores have recorded differ, the marks of their sends, and the marks of the windows of
reducing sends. -/
def State.lossOnly (s t : State) : Prop :=
  t = { s with cores := t.cores, occ := t.occ } ∧ ∀ d, t.coreAt d =
    { s.coreAt d with xch := { (s.coreAt d).xch with
        xfail := (t.coreAt d).xch.xfail, firstSrc := (t.coreAt d).xch.firstSrc, sends := (t.coreAt d).xch.sends } }

namespace State.lossOnly

theorem refl (s : State) : s.lossOnly s := ⟨rfl, fun _ => rfl⟩

theorem trans {s t u : State} (h : s.lossOnly t) (k : t.lossOnly u) : s.lossOnly u := by
  refine ⟨?_, fun d => ?_⟩
  · rw [k.1, h.1]
  · rw [k.2, h.2]

theorem modCore {s : State} {c : Nat} {f : Core → Core} (hf : ∀ x : Core, f x = { x with xch := { x.xch with
    xfail := (f x).xch.xfail, firstSrc := (f x).xch.firstSrc, sends := (f x).xch.sends } }) : s.lossOnly (s.modCore c f) := by
  refine ⟨rfl, fun d => ?_⟩
  rw [State.coreAt_modCore]
  split
  · rename_i hd
    rw [hd]
    exact hf _
  · rfl

section
variable {s t : State} (h : s.lossOnly t)
include h

theorem ctxAt (c k : Nat) : t.ctxAt c k = s.ctxAt c k := by
  rw [State.ctxAt, h.2]
  rfl

theorem stepOf (c : Nat) : t.stepOf c = s.stepOf c := by
  rw [h.1]
  rfl

/-- What of a core it leaves. -/
theorem coreAt (c : Nat) {α : Type} (p : Core → α) (hp : ∀ (y : Core) f n l, p { y with xch := { y.xch with xfail := f, firstSrc := n, sends := l } } = p y) :
    p (t.coreAt c) = p (s.coreAt c) := by
  rw [h.2]
  exact hp _ _ _ _

end

end State.lossOnly

theorem State.xfailAt_loss (s : State) (c bit n src : Nat) : s.lossOnly (s.xfailAt c bit n src) := .modCore fun _ => rfl
theorem State.setUnswapped_loss (s : State) (c : Nat) : s.lossOnly (s.setUnswapped c) := .modCore fun _ => rfl
theorem State.modXfer_loss (s : State) (b : Beat) (f : Xfer → Xfer) : s.lossOnly (s.modXfer b f) := .modCore fun _ => rfl

theorem State.beatLost_loss (s : State) (b : Beat) (bit : Nat) : s.lossOnly (s.beatLost b bit) := by
  unfold State.beatLost
  dsimp only
  split
  · exact s.modXfer_loss b _
  · exact (s.modXfer_loss b _).trans (State.xfailAt_loss _ _ _ _ _)

theorem State.unmatched_loss (s : State) (b : Beat) : s.lossOnly (s.unmatched b) := by
  have h : s.lossOnly ((s.beatLost b 1).modXfer b (fun e => { e with unmatched := true })) :=
    (s.beatLost_loss b 1).trans (State.modXfer_loss _ _ _)
  unfold State.unmatched
  dsimp only
  split
  · exact h
  · exact h.trans (State.xfailAt_loss _ _ _ _ _)

theorem State.spoilOcc_loss (s : State) (p : Occ → Bool) : s.lossOnly (s.spoilOcc p) := ⟨rfl, fun _ => rfl⟩

theorem State.beatsLost_loss (s : State) (bs : List Beat) : s.lossOnly (each bs s (fun s b => s.beatLost b 0)) :=
  each_inv (fun t : State => s.lossOnly t) _ _ _ (fun t b h => h.trans (t.beatLost_loss b 0)) (.refl s)

theorem State.occ_beatLost (s : State) (b : Beat) (bit : Nat) : (s.beatLost b bit).occ = s.occ := by
  unfold State.beatLost
  dsimp only
  split
  · rfl
  · rfl

theorem State.occ_beatsLost (s : State) (bs : List Beat) : (each bs s (fun s b => s.beatLost b 0)).occ = s.occ :=
  each_inv (fun t : State => t.occ = s.occ) _ _ _ (fun t b h => (t.occ_beatLost b 0).trans h) rfl

theorem State.occupyPorts_loss (s : State) (c : Nat) (e : Contrib) : s.lossOnly (s.occupyPorts c e) := by
  unfold State.occupyPorts
  dsimp only
  split
  · split
    · exact s.spoilOcc_loss _
    · exact .refl s
  · exact (show s.lossOnly _ from ⟨rfl, fun _ => rfl⟩).trans (State.beatsLost_loss _ _)

/-- What meets a test is what a filter by it contains. -/
theorem map_bad_filter (l : List Occ) (p : Occ → Bool) :
    l.map (fun o => if (l.filter p).contains o then { o with bad := true } else o) = l.map (fun o => if p o then { o with bad := true } else o) := by
  refine List.map_congr_left fun o ho => ?_
  have hc : (l.filter p).contains o = p o := by
    rw [Bool.eq_iff_iff, List.contains_iff_mem, List.mem_filter]
    exact ⟨fun h => h.2, fun h => ⟨ho, h⟩⟩
  rw [hc]

theorem not_isEmpty_filter {α : Type} (l : List α) (p : α → Bool) : (!(l.filter p).isEmpty) = l.any p := by
  rw [Bool.eq_iff_iff, Bool.not_eq_true', List.any_eq_true]
  constructor
  · intro h
    obtain ⟨x, hx⟩ := List.exists_mem_of_ne_nil _ (List.isEmpty_eq_false_iff.1 h)
    exact ⟨x, List.mem_filter.1 hx⟩
  · rintro ⟨x, hx, hp⟩
    exact List.isEmpty_eq_false_iff.2 (List.ne_nil_of_mem (List.mem_filter.2 ⟨hx, hp⟩))

/-- The ports that a reducing send occupies, where its phase has no window for them (R266, R268). -/
theorem State.occ_occupyPorts (s : State) (c : Nat) (e : Contrib) (h : s.occ.any (fun o => o.of (s.phaseOf c) e.n) = false) :
    let lo := (s.coreAt c).label e.n
    let o : Occ := { inst := s.phaseOf c, n := e.n, first := lo, last := lo + combineSpan (s.phaseOf c).scope }
    (s.occupyPorts c e).occ = s.occ.map (fun q => if s.occShare o q = true then { q with bad := true } else q)
      ++ [{ o with bad := s.past.any (fun b => s.occMeets b o) || s.occ.any (s.occShare o) }] := by
  intro lo o
  unfold State.occupyPorts
  dsimp only
  rw [h, if_neg Bool.false_ne_true, State.occ_beatsLost]
  dsimp only [State.spoilOcc]
  rw [map_bad_filter, not_isEmpty_filter, not_isEmpty_filter]

/-! ### Local reads under losses -/

/-- Two runs of the same changes stay related. -/
theorem each_rel {α β γ : Type} {R : β → γ → Prop} {f : β → α → β} {g : γ → α → γ} (hf : ∀ s t x, R s t → R (f s x) (g t x)) (xs : List α) :
    ∀ s t, R s t → R (each xs s f) (each xs t g) := by
  induction xs with
  | nil => exact fun _ _ h => h
  | cons x xs ih => exact fun s t h => ih _ _ (hf s t x h)

theorem Core.countEcc_xch (x : Core) (m : XchUnit) (now corr unc src : Nat) :
    ({ x with xch := m } : Core).countEcc now corr unc src = { x.countEcc now corr unc src with xch := m } := by
  unfold Core.countEcc
  split
  · rfl
  · rfl

/-- A change of a core that takes no part in an exchange. -/
theorem State.lossOnly.modCore_both {s t : State} (h : s.lossOnly t) (c : Nat) {f : Core → Core}
    (hf : ∀ (x : Core) m, f { x with xch := m } = { f x with xch := m }) : (s.modCore c f).lossOnly (t.modCore c f) := by
  have hx (x : Core) : (f x).xch = x.xch := by
    have hself := congrArg Core.xch (hf x x.xch)
    exact hself
  refine ⟨congrArg (fun u : State => { u with cores := (t.modCore c f).cores }) h.1, fun d => ?_⟩
  rw [State.coreAt_modCore, State.coreAt_modCore]
  split
  · rw [hx, hx, h.2 c, hf]
  · exact h.2 d

theorem State.lossOnly.octets {s t : State} (h : s.lossOnly t) : t.octets = s.octets := by rw [h.1]

theorem State.lossOnly.modWell_both {s t : State} (h : s.lossOnly t) (c w : Nat) (f : Well → Well) :
    (s.modWell c w f).lossOnly (t.modWell c w f) := by
  refine ⟨?_, h.2⟩
  rw [State.modWell, State.modWell, State.modOct, State.modOct, h.octets]
  exact congrArg (fun u : State => { u with octets := smod {} s.octets (octOf c) (fun o => o.modWell w f) }) h.1

/-- A core whose failures differ reads the same bytes. -/
theorem State.lossOnly.localRead {s t : State} (h : s.lossOnly t) (c la n : Nat) :
    (s.localRead c la n).1.lossOnly (t.localRead c la n).1 ∧ (t.localRead c la n).2 = (s.localRead c la n).2 := by
  have hbank : (t.coreAt c).bankmap = (s.coreAt c).bankmap := h.coreAt c Core.bankmap fun _ _ _ _ => rfl
  rw [State.localRead, State.localRead, State.localReadBy, State.localReadBy, hbank]
  refine each_rel (R := fun p q : State × List Byte × Option Nat => p.1.lossOnly q.1 ∧ q.2 = p.2) (fun p q x hpq => ?_) _ (s, [], none) (t, [], none)
    ⟨h, rfl⟩
  obtain ⟨u, bs, bad⟩ := p
  obtain ⟨v, bs', bad'⟩ := q
  obtain ⟨a, m⟩ := x
  obtain ⟨huv, heq⟩ := hpq
  cases heq
  change u.lossOnly v at huv
  have hnow : v.now = u.now := by rw [huv.1]
  have hloc : (v.coreAt c).loc = (u.coreAt c).loc := huv.coreAt c Core.loc fun _ _ _ _ => rfl
  have hwell (w : Nat) : v.well c w = u.well c w := by rw [State.well, State.well, State.oct, State.oct, huv.octets]
  dsimp only
  split
  · rw [hloc, hnow]
    refine ⟨?_, rfl⟩
    dsimp only
    refine huv.modCore_both c ?_
    exact fun x m => Core.countEcc_xch { x with loc := _ } m _ _ _ _
  · have hwellNow (w : Nat) (f : Well → Well) : (v.modWell c w f).now = (u.modWell c w f).now := hnow
    rw [hwell, hwellNow]
    refine ⟨?_, rfl⟩
    dsimp only
    refine (huv.modWell_both c _ _).modCore_both c ?_
    exact fun x m => Core.countEcc_xch x m _ _ _ _

/-! ### Beats leave (R159, R262) -/

theorem State.fetchOnly.onTheWay {s t : State} (h : s.fetchOnly t) : t.beats = s.beats ∧ t.occ = s.occ :=
  have heq : t = _ := h.1
  ⟨(congrArg State.beats heq).trans rfl, (congrArg State.occ heq).trans rfl⟩

/-- A local read leaves the exchange unit of a core, and what is on its way. -/
theorem State.localRead_keeps (s : State) (c la n : Nat) : (s.localRead c la n).1.beats = s.beats ∧ (s.localRead c la n).1.occ = s.occ
    ∧ ((s.localRead c la n).1.coreAt c).xch = (s.coreAt c).xch := by
  have hf := State.localRead_fetch c la n (.refl s)
  refine ⟨hf.onTheWay.1, hf.onTheWay.2, ?_⟩
  have hcore : (s.localRead c la n).1.coreAt c = _ := hf.2.1 c
  rw [hcore]

theorem xsendBeats_sends (s : State) (c k : Nat) {e : Xfer} (he : (s.coreAt c).xch.sends.find? (fun (e : Xfer) => e.of k) = some e)
    (hb : e.beat < 4) (hl : (s.coreAt c).label e.n + e.beat ≤ (s.stepOf c).toNat) :
    ∃ t b, exec (.xsendBeats c k) s = .next t ∧ t.beats = s.beats ++ [b] ∧ b.k = e.beat ∧ b.dst = e.dst ∧ b.sender = c
      ∧ b.label = (s.coreAt c).label e.n + e.beat ∧ b.off = e.off ∧ b.pair = e.pair ∧ b.data = (s.localRead c (e.src + 64 * e.beat) 64).2.1 := by
  obtain ⟨hbeats, -, -⟩ := s.localRead_keeps c (e.src + 64 * e.beat) 64
  obtain ⟨⟨r, bs, bad⟩, hr⟩ : ∃ r, s.localRead c (e.src + 64 * e.beat) 64 = r := ⟨_, rfl⟩
  rw [show exec (.xsendBeats c k) s = execXsendBeats c k s from rfl, execXsendBeats]
  extract_lets x now
  split
  · rename_i f hf
    cases hf.symm.trans he
    rw [if_pos (by simp only [hb, decide_true, Bool.true_and, decide_eq_true_eq]; exact hl)]
    rw [hr] at hbeats ⊢
    exact ⟨_, _, rfl, congrArg (· ++ _) hbeats, rfl, rfl, rfl, rfl, rfl, rfl, rfl⟩
  · rename_i hf
    exact absurd (hf.symm.trans he) nofun

/-- A context's retirement leaves what is on its way, and the exchange units. -/
theorem State.retire_keepsXch (s : State) : s.retire.beats = s.beats ∧ s.retire.occ = s.occ
    ∧ ∀ c, (s.retire.coreAt c).xch = (s.coreAt c).xch := by
  obtain ⟨u, y, hf, ht, -⟩ := s.retire_keeps
  rw [ht]
  refine ⟨hf.onTheWay.1, hf.onTheWay.2, fun c => ?_⟩
  have hcore : u.coreAt c = _ := hf.2.1 c
  rw [State.modMe, State.modCtx, State.coreAt_modCore]
  split
  · rename_i hc
    rw [← hc, hcore]
    rfl
  · rw [hcore]

/-- The contribution with the bytes read, and the XSENDR that has read all of its source retired (R161). -/
def State.contribRead (s : State) (c k : Nat) (e : Contrib) (bs : List Byte) : State :=
  let t := s.modCore c (fun y => { y with xch := { y.xch with contrib := y.xch.contrib.map (fun f =>
    if f = e then { e with data := e.data ++ bs } else f) } })
  if (e.data ++ bs).length < 256 then t
  else match (t.at_ c k).me.wait with
    | some (.xsendr ..) => (t.at_ c k).retire
    | _ => t.at_ c k

theorem State.contribRead_keeps (s : State) (c k : Nat) (e : Contrib) (bs : List Byte) : (s.contribRead c k e bs).beats = s.beats
    ∧ (s.contribRead c k e bs).occ = s.occ ∧ ((s.contribRead c k e bs).coreAt c).xch.contrib = (s.coreAt c).xch.contrib.map (fun f =>
      if f = e then { e with data := e.data ++ bs } else f) := by
  obtain ⟨t, ht⟩ : ∃ t, s.modCore c (fun y => { y with xch := { y.xch with contrib := y.xch.contrib.map (fun f =>
    if f = e then { e with data := e.data ++ bs } else f) } }) = t := ⟨_, rfl⟩
  have hbeats : t.beats = s.beats := by rw [← ht]; rfl
  have hocc : t.occ = s.occ := by rw [← ht]; rfl
  have hcontrib : (t.coreAt c).xch.contrib = (s.coreAt c).xch.contrib.map (fun f => if f = e then { e with data := e.data ++ bs } else f) := by
    rw [← ht, State.coreAt_modCore_self]
  rw [State.contribRead, ht]
  split
  · exact ⟨hbeats, hocc, hcontrib⟩
  · split
    · obtain ⟨h1, h2, h3⟩ := (t.at_ c k).retire_keepsXch
      exact ⟨h1.trans hbeats, h2.trans hocc, (congrArg XchUnit.contrib (h3 c)).trans hcontrib⟩
    · exact ⟨hbeats, hocc, hcontrib⟩

theorem exec_xsendBeats_contrib {s : State} {c k : Nat} {e : Contrib} (he : (s.coreAt c).xch.sends.find? (fun (e : Xfer) => e.of k) = none)
    (hc : (s.coreAt c).xch.contrib.find? (fun (e : Contrib) => e.ctx == k && decide (e.data.length < 256)) = some e)
    (hl : (s.coreAt c).label e.n + e.data.length / 64 ≤ (s.stepOf c).toNat) {u r : State} {bs : List Byte} {bad : Option Nat}
    (hu : (if e.data.isEmpty then s.occupyPorts c e else s) = u) (hr : u.localRead c (e.src + e.data.length) 64 = (r, bs, bad)) :
    exec (.xsendBeats c k) s = .next (r.contribRead c k e bs) := by
  rw [show exec (.xsendBeats c k) s = execXsendBeats c k s from rfl, execXsendBeats]
  extract_lets x now
  split
  · rename_i hf
    exact absurd (hf.symm.trans he) nofun
  · split
    · rename_i f hf
      cases hf.symm.trans hc
      rw [if_pos hl, hu]
      extract_lets v
      rw [show v.localRead c (e.src + e.data.length) 64 = (r, bs, bad) from hr]
      rfl
    · rename_i hf
      exact absurd (hf.symm.trans hc) nofun

theorem xsendBeats_reads (s : State) (c k : Nat) {e : Contrib} (he : (s.coreAt c).xch.sends.find? (fun (e : Xfer) => e.of k) = none)
    (hc : (s.coreAt c).xch.contrib.find? (fun (e : Contrib) => e.ctx == k && decide (e.data.length < 256)) = some e)
    (hl : (s.coreAt c).label e.n + e.data.length / 64 ≤ (s.stepOf c).toNat) :
    let u := if e.data = [] then s.occupyPorts c e else s
    ∃ t, exec (.xsendBeats c k) s = .next t ∧ t.beats = s.beats ∧ t.occ = u.occ
      ∧ (t.coreAt c).xch.contrib = (s.coreAt c).xch.contrib.map (fun f =>
          if f = e then { e with data := e.data ++ (s.localRead c (e.src + e.data.length) 64).2.1 } else f) := by
  intro u
  have hu : s.lossOnly u := by
    dsimp only [u]
    split
    · exact s.occupyPorts_loss c e
    · exact .refl s
  have hport : (if e.data.isEmpty then s.occupyPorts c e else s) = u := by simp only [u, List.isEmpty_iff]
  obtain ⟨-, hbytes⟩ := hu.localRead c (e.src + e.data.length) 64
  obtain ⟨hbeats, hocc, hxch⟩ := u.localRead_keeps c (e.src + e.data.length) 64
  obtain ⟨⟨r, bs, bad⟩, hr⟩ : ∃ r, u.localRead c (e.src + e.data.length) 64 = r := ⟨_, rfl⟩
  rw [hr] at hbytes hbeats hocc hxch
  obtain ⟨h1, h2, h3⟩ := r.contribRead_keeps c k e bs
  refine ⟨_, exec_xsendBeats_contrib he hc hl hport hr, h1.trans (hbeats.trans (by rw [hu.1])), h2.trans hocc, h3.trans ?_⟩
  rw [hxch, hu.coreAt c (fun x => x.xch.contrib) fun _ _ _ _ => rfl, ← hbytes]

/-! ### Beats land (R160, R163, R262, R266) -/

/-- Ports, channels and trees do not depend on what the cores do, nor on the beats themselves. -/
theorem State.collide_congr (s : State) (cs : SMap Core) (os : List Occ) (b d : Beat) :
    ({ s with cores := cs, occ := os } : State).collide b d = s.collide b d := rfl

theorem State.collide_comm (s : State) (b d : Beat) : s.collide b d = s.collide d b := by
  have hlabel : (b.label == d.label) = (d.label == b.label) := Bool.beq_comm
  have hsame : (d.sender == b.sender && d.ctx == b.ctx && d.n == b.n) = (b.sender == d.sender && b.ctx == d.ctx && b.n == d.n) := by
    rw [Bool.beq_comm (a := d.sender), Bool.beq_comm (a := d.ctx), Bool.beq_comm (a := d.n)]
  have hports : (s.channels b).any (fun p => (s.channels d).contains p) = (s.channels d).any (fun p => (s.channels b).contains p) := by
    rw [Bool.eq_iff_iff]
    simp only [List.any_eq_true, List.contains_iff_mem]
    exact ⟨fun ⟨p, h1, h2⟩ => ⟨p, h2, h1⟩, fun ⟨p, h1, h2⟩ => ⟨p, h2, h1⟩⟩
  rw [State.collide, State.collide, hlabel, hsame, hports]

/-- A beat does not collide with itself. -/
theorem State.collide_self (s : State) (b : Beat) : s.collide b b = false := by
  rw [State.collide]
  simp only [beq_self_eq_true, Bool.and_self, Bool.not_true, Bool.and_false, Bool.false_and]

/-- A beat that has left meets windows and other beats, or lands. -/
def State.landOne (s : State) (old bs : List Beat) (b : Beat) : State :=
  let red := s.occ.filter (s.occMeets b)
  let s := s.spoilOcc red.contains
  let met := old.filter (s.collide b)
  let s := each met s (fun s d => s.beatLost d 0)
  if !met.isEmpty || bs.any (s.collide b) || !red.isEmpty then s.beatLost b 0 else s.landBeat b

/-- A send whose fourth beat has left completes. -/
def State.sendDone (s : State) (b : Beat) : State :=
  if b.k ≠ 3 then s
  else
    let s := (s.modXfer b (fun e => { e with done := true })).at_ b.sender b.ctx
    match s.me.wait with
    | some (.xsend ..) => s.retire
    | _ => s

theorem exec_exchangePayloadLanding (s : State) : exec .exchangePayloadLanding s =
    .next (each s.beats (each s.beats { s with beats := [], past := s.past ++ s.beats.map (fun b => { b with data := [] }) }
      (fun t b => t.landOne s.past s.beats b)) (fun t b => t.sendDone b)) := rfl

theorem State.spoilOcc_none {s : State} {p : Occ → Bool} (h : ∀ o ∈ s.occ, p o = false) : s.spoilOcc p = s := by
  have hmap : s.occ.map (fun o => if p o then { o with bad := true } else o) = s.occ := by
    refine (List.map_congr_left fun o ho => ?_).trans (List.map_id s.occ)
    rw [h o ho]
    rfl
  rw [State.spoilOcc, hmap]

section
variable {s : State} {bs : List Beat} {b : Beat}

/-- Where no beat has left before, it is for the windows of reducing sends and the beats of the same step to meet it. -/
theorem State.landOne_first (s : State) (bs : List Beat) (b : Beat) : s.landOne [] bs b =
    let t := s.spoilOcc (s.occ.filter (s.occMeets b)).contains
    if bs.any (t.collide b) || !(s.occ.filter (s.occMeets b)).isEmpty then t.beatLost b 0 else t.landBeat b := rfl

theorem State.spoilOcc_free (s : State) : s.spoilOcc ([] : List Occ).contains = s := State.spoilOcc_none fun _ _ => rfl

theorem State.landOne_lands (ho : s.occ.any (s.occMeets b) = false) (hb : bs.any (s.collide b) = false) : s.landOne [] bs b = s.landBeat b := by
  have hred : s.occ.filter (s.occMeets b) = [] := by
    rw [List.filter_eq_nil_iff]
    intro o hoc
    rw [List.any_eq_false] at ho
    exact ho o hoc
  rw [State.landOne_first, hred, State.spoilOcc_free]
  exact if_neg (by rw [hb]; decide)

theorem State.landOne_spoils (ho : s.occ.any (s.occMeets b) = true) : s.landOne [] bs b =
    ({ s with occ := s.occ.map (fun o => if s.occMeets b o = true then { o with bad := true } else o) } : State).beatLost b 0 := by
  rw [State.landOne_first, not_isEmpty_filter, ho, State.spoilOcc, map_bad_filter]
  exact if_pos (Bool.or_true _)

theorem State.landOne_collides (ho : s.occ = []) (hb : bs.any (s.collide b) = true) : s.landOne [] bs b = s.beatLost b 0 := by
  rw [State.landOne_first, ho, List.filter_nil, State.spoilOcc_free]
  exact if_pos (by rw [hb]; rfl)

theorem State.sendDone_earlier (h : b.k ≠ 3) : s.sendDone b = s := if_pos h

/-- What the statement says of a single beat that has left. -/
theorem landing_single (hb : s.beats = [b]) (hp : s.past = []) (hk : b.k ≠ 3) :
    let u : State := { s with beats := [], past := [{ b with data := [] }] }
    (s.occ.any (s.occMeets b) = false → exec .exchangePayloadLanding s = .next (u.landBeat b))
      ∧ (s.occ.any (s.occMeets b) = true → exec .exchangePayloadLanding s =
          .next (({ u with occ := s.occ.map (fun o => if s.occMeets b o = true then { o with bad := true } else o) } :
            State).beatLost b 0)) := by
  intro u
  have hexec : exec .exchangePayloadLanding s = .next (u.landOne [] [b] b) := by
    rw [exec_exchangePayloadLanding, hb, hp]
    exact congrArg Host.Outcome.next (State.sendDone_earlier hk)
  have hself : [b].any (u.collide b) = false := by
    rw [List.any_cons, State.collide_self, List.any_nil]
    rfl
  exact ⟨fun ho => hexec.trans (congrArg _ (State.landOne_lands (by exact ho) hself)),
    fun ho => hexec.trans (congrArg _ (State.landOne_spoils (by exact ho)))⟩

/-- What the statement says of two beats that share a channel (R266). -/
theorem landing_collision {d : Beat} (hb : s.beats = [b, d]) (hp : s.past = []) (hk : b.k ≠ 3) (hd : d.k ≠ 3) (ho : s.occ = [])
    (hc : s.collide b d = true) : exec .exchangePayloadLanding s = .next ((({ s with beats := [], past := [{ b with data := [] },
      { d with data := [] }] } : State).beatLost b 0).beatLost d 0) := by
  obtain ⟨u, hu⟩ : ∃ u : State, { s with beats := [], past := [{ b with data := [] }, { d with data := [] }] } = u := ⟨_, rfl⟩
  have hexec : exec .exchangePayloadLanding s = .next ((u.landOne [] [b, d] b).landOne [] [b, d] d) := by
    rw [exec_exchangePayloadLanding, hb, hp, ← hu]
    refine congrArg Host.Outcome.next ?_
    change State.sendDone (State.sendDone _ b) d = _
    rw [State.sendDone_earlier hk, State.sendDone_earlier hd]
    rfl
  have hcu (x y : Beat) : u.collide x y = s.collide x y := by rw [← hu]; rfl
  have hou : u.occ = [] := by rw [← hu]; exact ho
  have hfirst : u.landOne [] [b, d] b = u.beatLost b 0 := by
    refine State.landOne_collides hou ?_
    rw [List.any_cons, List.any_cons, hcu b d, hc, Bool.true_or, Bool.or_true]
  have hloss := u.beatLost_loss b 0
  have hsecond : (u.beatLost b 0).landOne [] [b, d] d = (u.beatLost b 0).beatLost d 0 := by
    refine State.landOne_collides ((u.occ_beatLost b 0).trans hou) ?_
    have hcv : (u.beatLost b 0).collide d b = true := by
      rw [hloss.1, State.collide_congr, hcu, State.collide_comm, hc]
    rw [List.any_cons, hcv, Bool.true_or]
  rw [hexec, hfirst, hsecond, hu]

end

/-! ### Contexts through a landing -/

/-- A retired context waits no longer. -/
theorem State.wait_retire (s : State) : (s.retire.ctxAt s.core s.ctx).wait = none := by
  by_cases he : s.me.eret = 1
  · obtain ⟨u, q0, q1, q2, f, d, hu, -, ht⟩ := State.retire_returns he
    rw [ht, State.modMe, hu.core, hu.ctx, State.ctxAt_modCtx_self]
    rfl
  · have hp := s.retire_passed he
    rw [hp.ctxAt_self]
    obtain ⟨-, -, hme, -⟩ := hp
    have heq : s.retire.me = _ := hme
    rw [heq]
    rfl

theorem State.ctxAt_backWrite (s : State) (c pair off : Nat) (bs : List Byte) (d k : Nat) : (s.backWrite c pair off bs).ctxAt d k = s.ctxAt d k := rfl
theorem State.ctxAt_backTag (s : State) (c pair tile : Nat) (tag : BitVec 8) (d k : Nat) : (s.backTag c pair tile tag).ctxAt d k = s.ctxAt d k := rfl

/-- The window that a beat has reached. -/
def State.countBeat (s : State) (b : Beat) (w : Window) : State :=
  s.modCore b.dst (fun x => { x with xch := { x.xch with wins := x.xch.wins.map (fun v => if v = w then { v with got := v.got + 1 } else v) } })

theorem State.landBeat_open {s : State} {b : Beat} {w : Window} (hw : (s.coreAt b.dst).openWindow b.label = some w) (hs : w.src = b.sender) :
    s.landBeat b = if !((s.countBeat b w).coreAt b.dst).swappable b.pair then ((s.countBeat b w).beatLost b 4).setUnswapped b.dst
      else
        let t := (s.countBeat b w).backWrite b.dst b.pair (b.off + 64 * b.k) b.data
        if b.k = 3 && !t.spoilt b then t.backTag b.dst b.pair (b.off / 4096) b.tag else t := by
  rw [State.landBeat, hw]
  exact if_pos hs

theorem State.landBeat_unmatched {s : State} {b : Beat} (h : ∀ w, (s.coreAt b.dst).openWindow b.label = some w → w.src ≠ b.sender) :
    s.landBeat b = s.unmatched b := by
  rw [State.landBeat]
  split
  · rename_i w hw
    exact if_neg (h w hw)
  · rfl

theorem State.ctxAt_countBeat (s : State) (b : Beat) (w : Window) (d k : Nat) : (s.countBeat b w).ctxAt d k = s.ctxAt d k :=
  State.ctxAt_modCore_of_ctxs rfl d k

theorem State.ctxAt_landBeat (s : State) (b : Beat) (d k : Nat) : (s.landBeat b).ctxAt d k = s.ctxAt d k := by
  by_cases h : ∀ w, (s.coreAt b.dst).openWindow b.label = some w → w.src ≠ b.sender
  · rw [State.landBeat_unmatched h]
    exact (s.unmatched_loss b).ctxAt d k
  · push Not at h
    obtain ⟨w, hw, hs⟩ := h
    have hcount := s.ctxAt_countBeat b w d k
    rw [State.landBeat_open hw hs]
    split
    · exact (((State.beatLost_loss _ _ _).trans (State.setUnswapped_loss _ _)).ctxAt d k).trans hcount
    · dsimp only
      split
      · exact hcount
      · exact hcount

theorem State.ctxAt_landOne (s : State) (old bs : List Beat) (b : Beat) (d k : Nat) : (s.landOne old bs b).ctxAt d k = s.ctxAt d k := by
  obtain ⟨t, ht⟩ : ∃ t, each (old.filter ((s.spoilOcc (s.occ.filter (s.occMeets b)).contains).collide b))
    (s.spoilOcc (s.occ.filter (s.occMeets b)).contains) (fun s d => s.beatLost d 0) = t := ⟨_, rfl⟩
  have hloss : s.lossOnly t := by
    rw [← ht]
    exact (s.spoilOcc_loss _).trans (State.beatsLost_loss _ _)
  rw [State.landOne, ht]
  split
  · exact (hloss.trans (t.beatLost_loss b 0)).ctxAt d k
  · exact (t.ctxAt_landBeat b d k).trans (hloss.ctxAt d k)

/-- A send whose fourth beat has left completes (R159). -/
theorem landing_completes {s : State} {b : Beat} {n : BitVec 14} {g h : GReg} (hb : s.beats = [b]) (hk : b.k = 3)
    (hw : (s.ctxAt b.sender b.ctx).wait = some (.xsend n g h)) :
    ∃ t, exec .exchangePayloadLanding s = .next t ∧ (t.ctxAt b.sender b.ctx).wait = none := by
  obtain ⟨u, hu⟩ : ∃ u : State, ({ s with beats := [], past := s.past ++ s.beats.map (fun b => { b with data := [] }) } : State).landOne s.past s.beats b = u :=
    ⟨_, rfl⟩
  have hctx : u.ctxAt b.sender b.ctx = s.ctxAt b.sender b.ctx := by
    rw [← hu]
    exact State.ctxAt_landOne _ _ _ _ _ _
  obtain ⟨v, hv⟩ : ∃ v, u.modXfer b (fun e => { e with done := true }) = v := ⟨_, rfl⟩
  have hwait : (v.at_ b.sender b.ctx).me.wait = some (.xsend n g h) := by
    have hvu : v.ctxAt b.sender b.ctx = u.ctxAt b.sender b.ctx := by
      rw [← hv]
      exact (u.modXfer_loss b _).ctxAt _ _
    exact (congrArg Ctx.wait (hvu.trans hctx)).trans hw
  have hdone : u.sendDone b = (v.at_ b.sender b.ctx).retire := by
    rw [State.sendDone, if_neg (not_not.2 hk), hv]
    extract_lets w
    rw [show w.me.wait = some (.xsend n g h) from hwait]
  refine ⟨(v.at_ b.sender b.ctx).retire, ?_, State.wait_retire _⟩
  rw [← hdone, ← hu, exec_exchangePayloadLanding, hb]
  rfl

/-- What the statement says of a beat that lands (R160, R163). -/
theorem landBeat_lands {s : State} {b : Beat} {w : Window} (hw : (s.coreAt b.dst).openWindow b.label = some w) (hs : w.src = b.sender)
    (hp : (s.coreAt b.dst).swappable b.pair = true) :
    let u := (s.countBeat b w).backWrite b.dst b.pair (b.off + 64 * b.k) b.data
    (b.k ≠ 3 → s.landBeat b = u) ∧ (b.k = 3 → s.spoilt b = false → s.landBeat b = u.backTag b.dst b.pair (b.off / 4096) b.tag) := by
  intro u
  have hpair : ((s.countBeat b w).coreAt b.dst).swappable b.pair = true := by
    rw [State.countBeat, State.coreAt_modCore_self]
    exact hp
  have hspoilt : u.spoilt b = s.spoilt b := by
    have hsends : ((s.countBeat b w).coreAt b.sender).xch.sends = (s.coreAt b.sender).xch.sends := by
      rw [State.countBeat, State.coreAt_modCore]
      split
      · rename_i he
        rw [he]
      · rfl
    rw [State.spoilt, State.spoilt, ← hsends]
    rfl
  have hland := State.landBeat_open hw hs
  rw [hpair, Bool.not_true, if_neg Bool.false_ne_true] at hland
  refine ⟨fun hk => hland.trans (if_neg (by simp [hk])), fun hk h => hland.trans (if_pos ?_)⟩
  rw [show State.spoilt _ b = _ from hspoilt, h, hk]
  rfl

/-! ### Failures recorded (R160, R269) -/

/-- A recorded failure sets its bit, and clears none below bit 16. -/
theorem State.xfail_xfailAt (s : State) (c bit n src d j : Nat) (hj : j < 16) :
    ((s.xfailAt c bit n src).coreAt d).xch.xfail.getLsbD j = ((s.coreAt d).xch.xfail.getLsbD j || decide (d = c ∧ j = bit)) := by
  rw [State.xfailAt, State.coreAt_modCore]
  by_cases hd : d = c
  · subst hd
    have hcount (f : Word) (v : Nat) : (setBits f 23 16 v).getLsbD j = f.getLsbD j := by
      rw [getLsbD_setBits _ _ (by omega) (by omega), if_neg (by omega)]
    have hoffset (f : Word) (v : Nat) : (setBits f 45 32 v).getLsbD j = f.getLsbD j := by
      rw [getLsbD_setBits _ _ (by omega) (by omega), if_neg (by omega)]
    have hbit : (1#64 <<< bit).getLsbD j = decide (j = bit) := by
      rw [BitVec.getLsbD_shiftLeft, BitVec.getLsbD_one]
      by_cases hb : j = bit
      · subst hb
        simp [show j < 64 by omega]
      · by_cases hlt : j < bit
        · simp [hlt, hb]
        · simp [hb, show j - bit ≠ 0 by omega]
    rw [if_pos rfl]
    dsimp only
    split
    · rw [hoffset, BitVec.getLsbD_or, hcount, hbit]
      simp
    · rw [BitVec.getLsbD_or, hcount, hbit]
      simp
  · rw [if_neg hd]
    simp [hd]

/-- What the statement says of a payload that meets no window of its own (R160). -/
theorem landBeat_misses {s : State} {b : Beat} (h : ∀ w, (s.coreAt b.dst).openWindow b.label = some w → w.src ≠ b.sender)
    (hs : s.spoilt b = false) (hu : (s.coreAt b.sender).xch.sends.any (fun (e : Xfer) => b.isOf e && e.unmatched) = false) :
    ((s.landBeat b).coreAt b.sender).xch.xfail.getLsbD 1 = true ∧ ((s.landBeat b).coreAt b.dst).xch.xfail.getLsbD 1 = true := by
  obtain ⟨t, ht⟩ : ∃ t, (s.beatLost b 1).modXfer b (fun e => { e with unmatched := true }) = t := ⟨_, rfl⟩
  have hland : s.landBeat b = t.xfailAt b.dst 1 b.n 0 := by
    rw [State.landBeat_unmatched h, State.unmatched, hu, ht]
    rfl
  have hsender : (t.coreAt b.sender).xch.xfail.getLsbD 1 = true := by
    have hlost : s.beatLost b 1 = (s.modXfer b (fun e => { e with bad := true })).xfailAt b.sender 1 b.n b.src := by
      rw [State.beatLost, hs]
      rfl
    rw [← ht, State.modXfer, State.coreAt_modCore_self]
    dsimp only
    rw [hlost, State.xfail_xfailAt _ _ _ _ _ _ _ (by omega), decide_eq_true ⟨rfl, rfl⟩, Bool.or_true]
  rw [hland, State.xfail_xfailAt _ _ _ _ _ _ _ (by omega), State.xfail_xfailAt _ _ _ _ _ _ _ (by omega), hsender]
  exact ⟨Bool.true_or _, by rw [decide_eq_true ⟨rfl, rfl⟩, Bool.or_true]⟩

/-- The end of a window: it is done, and a failure where it has received nothing (R160). -/
theorem exec_xrecvWindow {s : State} {c k : Nat} {n : BitVec 14} {b : GReg} (hw : (s.ctxAt c k).wait = some (.xrecv n b))
    (hl : (s.coreAt c).label n.toNat + 4 ≤ (s.stepOf c).toNat) : ∃ (v : State) (empty : Bool),
      exec (.xrecvWindow c k) s = .next (if empty then v.xfailAt c 2 n.toNat 0 else v).retire
        ∧ v.core = c ∧ v.ctx = k ∧ ((∀ w ∈ (s.coreAt c).xch.wins, w.got = 0) → empty = true) := by
  have hwait : (s.at_ c k).me.wait = some (.xrecv n b) := hw
  rw [show exec (.xrecvWindow c k) s = execXrecvWindow c k s from rfl, execXrecvWindow]
  dsimp only
  rw [hwait]
  dsimp only
  rw [if_neg (show ¬((s.at_ c k).stepOf c).toNat < (s.at_ c k).here.label n.toNat + 4 from Nat.not_lt.2 hl)]
  refine ⟨_, _, rfl, rfl, rfl, fun hgot => ?_⟩
  split
  · rename_i w hfind
    rw [hgot w (List.mem_of_find?_eq_some hfind)]
    rfl
  · rfl

/-- What the statement says of the end of a window (R159, R160). -/
theorem xrecvWindow_closes {s : State} {c k : Nat} {n : BitVec 14} {b : GReg} (hw : (s.ctxAt c k).wait = some (.xrecv n b))
    (hl : (s.coreAt c).label n.toNat + 4 ≤ (s.stepOf c).toNat) : ∃ t, exec (.xrecvWindow c k) s = .next t ∧ (t.ctxAt c k).wait = none
      ∧ ((∀ w ∈ (s.coreAt c).xch.wins, w.got = 0) → (t.coreAt c).xch.xfail.getLsbD 2 = true) := by
  obtain ⟨v, empty, hexec, hcore, hctx, hempty⟩ := exec_xrecvWindow hw hl
  obtain ⟨u, hu⟩ : ∃ u, (if empty then v.xfailAt c 2 n.toNat 0 else v) = u := ⟨_, rfl⟩
  have hissuer : u.core = c ∧ u.ctx = k := by
    rw [← hu]
    split
    · exact ⟨hcore, hctx⟩
    · exact ⟨hcore, hctx⟩
  rw [hu] at hexec
  refine ⟨_, hexec, ?_, fun hgot => ?_⟩
  · have hnone := u.wait_retire
    rwa [hissuer.1, hissuer.2] at hnone
  · rw [(u.retire_keepsXch).2.2 c, ← hu, if_pos (hempty hgot), State.xfail_xfailAt _ _ _ _ _ _ _ (by omega), decide_eq_true ⟨rfl, rfl⟩,
      Bool.or_true]

/-! ### Combinations (R161, R268) -/

/-- A change made once, where each of the others that are made leaves what it needs and what it makes. -/
theorem each_once_mem {α β : Type} [DecidableEq α] {P Q : β → Prop} {f : β → α → β} {c : α} (hc : ∀ t, P t → Q (f t c)) (xs : List α)
    (hP : ∀ t, ∀ x ∈ xs, x ≠ c → P t → P (f t x)) (hQ : ∀ t, ∀ x ∈ xs, x ≠ c → Q t → Q (f t x)) :
    ∀ s, xs.count c = 1 → P s → Q (each xs s f) := by
  obtain ⟨g, hg⟩ : ∃ g : β → α → β, g = fun t x => if x ∈ xs then f t x else t := ⟨_, rfl⟩
  intro s h hs
  have hmem : c ∈ xs := List.count_pos_iff.1 (by omega)
  have hsame : each xs s f = each xs s g := by
    refine List.foldl_ext _ _ _ fun t x hx => ?_
    rw [hg]
    exact (if_pos hx).symm
  rw [hsame]
  refine each_once (fun t x hx ht => ?_) (fun t ht => ?_) (fun t x hx ht => ?_) xs s h hs
  · rw [hg]
    dsimp only
    split
    · rename_i hm
      exact hP t x hm hx ht
    · exact ht
  · rw [hg]
    dsimp only
    rw [if_pos hmem]
    exact hc t ht
  · rw [hg]
    dsimp only
    split
    · rename_i hm
      exact hQ t x hm hx ht
    · exact ht

/-- What a combination writes: the result and the root's tag; or the failure that all members record (R161, R268). -/
structure Combined where
  n : Nat
  lead : Contrib
  bad : Bool
  sum : Option (List Byte)
  tag : BitVec 8

/-- A member as a combination ends. -/
def State.combineAt (s : State) (r : Combined) (c : Nat) : State :=
  let mine := s.contribOf r.n c
  let d := mine.getD r.lead
  let src := match mine with | some x => x.src | none => 0
  if r.bad then s.xfailAt c 0 r.n src
  else
    let s := if mine.isNone then s.xfailAt c 3 r.n 0 else s
    if !(s.coreAt c).swappable d.pair then s.xfailAt c 4 r.n src
    else (s.backWrite c d.pair d.off (r.sum.getD [])).backTag c d.pair (d.off / 4096) r.tag

/-- A core of a phase without its contributions of an offset. -/
def Core.contribDone (x : Core) (here : Bool) (n : Nat) : Core :=
  if here then { x with xch := { x.xch with contrib := x.xch.contrib.filter (fun y => y.n != n) } } else x

/-- The contributions of an offset, as their combination has ended. -/
def State.contribsDone (s : State) (i : Inst) (n : Nat) : State :=
  { s with cores := s.cores.map (fun e => (e.1, e.2.contribDone (s.phaseOf e.1 == i) n)) }

theorem State.xfail_contribsDone (s : State) (i : Inst) (n c : Nat) : ((s.contribsDone i n).coreAt c).xch.xfail = (s.coreAt c).xch.xfail := by
  have hkeeps (x : Core) (here : Bool) : (x.contribDone here n).xch.xfail = x.xch.xfail := by
    cases here with
    | true => rfl
    | false => rfl
  have hreset (here : Bool) : (Core.reset s.now s.boot.doneAt).contribDone here n = Core.reset s.now s.boot.doneAt := by
    cases here with
    | true => rfl
    | false => rfl
  have hcore : (s.contribsDone i n).coreAt c = (s.coreAt c).contribDone (s.phaseOf c == i) n :=
    sget_map (d := Core.reset s.now s.boot.doneAt) (g := fun c x => x.contribDone (s.phaseOf c == i) n) (hreset _) s.cores
  rw [hcore, hkeeps]

theorem State.well_contribsDone (s : State) (i : Inst) (n c w : Nat) : (s.contribsDone i n).well c w = s.well c w := rfl

/-- What every member's end of a combination leaves of another core: its local memory, and of its exchange unit all but its failures. -/
theorem State.combineAt_keeps (s : State) (r : Combined) (x c : Nat) : ((s.combineAt r x).coreAt c).loc = (s.coreAt c).loc
    ∧ (s.combineAt r x).contribOf r.n c = s.contribOf r.n c
    ∧ (octOf c ≠ octOf x → ∀ w, (s.combineAt r x).well c w = s.well c w)
    ∧ ∀ j < 16, (s.coreAt c).xch.xfail.getLsbD j = true → ((s.combineAt r x).coreAt c).xch.xfail.getLsbD j = true := by
  have hfail (t : State) (bit src : Nat) : ((t.xfailAt x bit r.n src).coreAt c).loc = (t.coreAt c).loc
      ∧ (t.xfailAt x bit r.n src).contribOf r.n c = t.contribOf r.n c ∧ (t.xfailAt x bit r.n src).octets = t.octets
      ∧ ∀ j < 16, (t.coreAt c).xch.xfail.getLsbD j = true → ((t.xfailAt x bit r.n src).coreAt c).xch.xfail.getLsbD j = true := by
    have hl := t.xfailAt_loss x bit r.n src
    refine ⟨hl.coreAt c Core.loc fun _ _ _ _ => rfl, hl.coreAt c (fun y => y.xch.contrib.find? (fun e : Contrib => e.n == r.n)) fun _ _ _ _ => rfl, rfl,
      fun j hj h => ?_⟩
    rw [State.xfail_xfailAt _ _ _ _ _ _ _ hj, h, Bool.true_or]
  have hwell (t : State) (ho : t.octets = s.octets) (w : Nat) : t.well c w = s.well c w := by rw [State.well, State.oct, ho]; rfl
  rw [State.combineAt]
  extract_lets u
  split
  · obtain ⟨h1, h2, h3, h4⟩ := hfail s 0 _
    exact ⟨h1, h2, fun _ => hwell _ h3, h4⟩
  · have hu : (u.coreAt c).loc = (s.coreAt c).loc ∧ u.contribOf r.n c = s.contribOf r.n c ∧ u.octets = s.octets
        ∧ ∀ j < 16, (s.coreAt c).xch.xfail.getLsbD j = true → (u.coreAt c).xch.xfail.getLsbD j = true := by
      dsimp only [u]
      split
      · exact hfail s 3 0
      · exact ⟨rfl, rfl, rfl, fun _ _ h => h⟩
    obtain ⟨h1, h2, h3, h4⟩ := hu
    split
    · obtain ⟨k1, k2, k3, k4⟩ := hfail u 4 _
      exact ⟨k1.trans h1, k2.trans h2, fun _ => hwell _ (k3.trans h3), fun j hj h => k4 j hj (h4 j hj h)⟩
    · refine ⟨h1, h2, fun ho w => ?_, h4⟩
      rw [State.backTag, State.well_modWell, if_neg fun h => ho h.1, State.backWrite, State.well_modWell, if_neg fun h => ho h.1]
      exact hwell u h3 w

section
variable {s : State} {r : Combined} {c : Nat}

/-- A member of a combination that is spoilt records it (R268). -/
theorem State.combineAt_spoilt (h : r.bad = true) : ((s.combineAt r c).coreAt c).xch.xfail.getLsbD 0 = true := by
  rw [State.combineAt, if_pos h, State.xfail_xfailAt _ _ _ _ _ _ _ (by omega), decide_eq_true ⟨rfl, rfl⟩, Bool.or_true]

/-- A member without a contribution records that (R161). -/
theorem State.combineAt_absent (h : r.bad = false) (hc : s.contribOf r.n c = none) :
    ((s.combineAt r c).coreAt c).xch.xfail.getLsbD 3 = true := by
  have hset : ((s.xfailAt c 3 r.n 0).coreAt c).xch.xfail.getLsbD 3 = true := by
    rw [State.xfail_xfailAt _ _ _ _ _ _ _ (by omega), decide_eq_true ⟨rfl, rfl⟩, Bool.or_true]
  rw [State.combineAt, hc, if_neg (ne_true_of_eq_false h)]
  extract_lets u
  have hu : (u.coreAt c).xch.xfail.getLsbD 3 = true := hset
  split
  · rw [State.xfail_xfailAt _ _ _ _ _ _ _ (by omega), hu, Bool.true_or]
  · exact hu

/-- A member whose pair can be swapped takes the result and the root's tag (R161). -/
theorem State.combineAt_written (h : r.bad = false) (hp : (s.coreAt c).swappable ((s.contribOf r.n c).getD r.lead).pair = true) :
    ∃ u : State, s.lossOnly u ∧ s.combineAt r c = (u.backWrite c ((s.contribOf r.n c).getD r.lead).pair ((s.contribOf r.n c).getD r.lead).off
      (r.sum.getD [])).backTag c ((s.contribOf r.n c).getD r.lead).pair (((s.contribOf r.n c).getD r.lead).off / 4096) r.tag := by
  rw [State.combineAt, if_neg (ne_true_of_eq_false h)]
  extract_lets u
  have hu : s.lossOnly u := by
    dsimp only [u]
    split
    · exact s.xfailAt_loss _ _ _ _
    · exact .refl s
  have hpair : (u.coreAt c).swappable ((s.contribOf r.n c).getD r.lead).pair = true :=
    (hu.coreAt c (fun y => y.swappable ((s.contribOf r.n c).getD r.lead).pair) fun _ _ _ _ => rfl).trans hp
  refine ⟨u, hu, ?_⟩
  rw [hpair, Bool.not_true, if_neg Bool.false_ne_true]

end

/-- The back well of a pair of a core. -/
def State.backOf (s : State) (c pair : Nat) : Nat := bankWell ((s.coreAt c).bankmap (2 * pair + 1))

theorem State.well_backWrite (s : State) (c pair off : Nat) (bs : List Byte) (w : Nat) : (s.backWrite c pair off bs).well c w =
    if w = s.backOf c pair then { s.well c w with
      data := (eccWrite (s.well c w).data (s.well c w).ecc off bs).mem
      ecc := (eccWrite (s.well c w).data (s.well c w).ecc off bs).ecc } else s.well c w := by
  rw [State.backWrite, State.well_modWell]
  by_cases hw : w = s.backOf c pair
  · rw [if_pos ⟨rfl, hw⟩, if_pos hw, hw]
    rfl
  · rw [if_neg fun h => hw h.2, if_neg hw]
    rfl

theorem State.well_backTag (s : State) (c pair tile : Nat) (tag : BitVec 8) (w : Nat) : (s.backTag c pair tile tag).well c w =
    if w = s.backOf c pair then (s.well c w).setTag tile tag else s.well c w := by
  rw [State.backTag, State.well_modWell]
  by_cases hw : w = s.backOf c pair
  · rw [if_pos ⟨rfl, hw⟩, if_pos hw, hw]
    rfl
  · rw [if_neg fun h => hw h.2, if_neg hw]

/-- The bytes and the tag that reach a back well depend on the core's local memory and on its wells. -/
theorem State.well_written {t u : State} {c : Nat} (hl : (u.coreAt c).loc = (t.coreAt c).loc) (hw : ∀ w, u.well c w = t.well c w)
    (pair off tile : Nat) (bs : List Byte) (tag : BitVec 8) (w : Nat) :
    ((u.backWrite c pair off bs).backTag c pair tile tag).well c w = ((t.backWrite c pair off bs).backTag c pair tile tag).well c w := by
  have hback (v : State) : (v.backWrite c pair off bs).backOf c pair = v.backOf c pair := rfl
  have hsame : u.backOf c pair = t.backOf c pair := by
    rw [State.backOf, State.backOf, Core.bankmap, Core.bankmap, hl]
  rw [State.well_backTag, State.well_backTag, hback, hback, hsame, State.well_backWrite, State.well_backWrite, hsame, hw]

/-- What the statement says of the end of a combination, of the members' ends one after another (R161, R268). -/
theorem combine_members (s : State) (i : Inst) (ms : List Nat) (r : Combined) :
    let t := (each ms s (fun s c => s.combineAt r c)).contribsDone i r.n
    (∀ c ∈ ms, r.bad = true → (t.coreAt c).xch.xfail.getLsbD 0 = true)
      ∧ (∀ c ∈ ms, r.bad = false → s.contribOf r.n c = none → (t.coreAt c).xch.xfail.getLsbD 3 = true)
      ∧ ∀ c, r.bad = false → ms.count c = 1 → (∀ d ∈ ms, octOf d = octOf c → d = c) →
          let d := (s.contribOf r.n c).getD r.lead
          (s.coreAt c).swappable d.pair = true →
          ∀ w, t.well c w = ((s.backWrite c d.pair d.off (r.sum.getD [])).backTag c d.pair (d.off / 4096) r.tag).well c w := by
  intro t
  refine ⟨fun c hc hbad => ?_, fun c hc hbad hnone => ?_, ?_⟩
  · rw [State.xfail_contribsDone]
    exact each_reaches (P := fun _ => True) (Q := fun u : State => (u.coreAt c).xch.xfail.getLsbD 0 = true) (fun _ _ _ _ => trivial)
      (fun u _ => State.combineAt_spoilt hbad) (fun u x hu => (u.combineAt_keeps r x c).2.2.2 0 (by omega) hu) ms s hc trivial
  · rw [State.xfail_contribsDone]
    exact each_reaches (P := fun u : State => u.contribOf r.n c = none) (Q := fun u : State => (u.coreAt c).xch.xfail.getLsbD 3 = true)
      (fun u x _ hu => (u.combineAt_keeps r x c).2.1.trans hu) (fun u hu => State.combineAt_absent hbad hu)
      (fun u x hu => (u.combineAt_keeps r x c).2.2.2 3 (by omega) hu) ms s hc hnone
  · intro c hbad hcount hoct d hp w
    have hother (x : Nat) (hx : x ∈ ms) (hne : x ≠ c) : octOf c ≠ octOf x := fun h => hne (hoct x hx h.symm)
    rw [State.well_contribsDone]
    refine each_once_mem
      (P := fun u : State => (u.coreAt c).loc = (s.coreAt c).loc ∧ u.contribOf r.n c = s.contribOf r.n c ∧ ∀ w, u.well c w = s.well c w)
      (Q := fun u : State => ∀ w, u.well c w = ((s.backWrite c d.pair d.off (r.sum.getD [])).backTag c d.pair (d.off / 4096) r.tag).well c w)
      (c := c) (fun u hu => ?_) ms (fun u x hx hne hu => ?_) (fun u x hx hne hu w => ?_) s hcount ⟨rfl, rfl, fun _ => rfl⟩ w
    · obtain ⟨hloc, hmine, hwell⟩ := hu
      have hpair : (u.coreAt c).swappable ((u.contribOf r.n c).getD r.lead).pair = true := by
        rw [hmine, Core.swappable, Core.bankmap, Core.bankmap, hloc]
        exact hp
      obtain ⟨v, hv, hwritten⟩ := State.combineAt_written hbad hpair
      have hvloc : (v.coreAt c).loc = (s.coreAt c).loc := (hv.coreAt c Core.loc fun _ _ _ _ => rfl).trans hloc
      have hvwell (w : Nat) : v.well c w = s.well c w := by
        rw [← hwell, State.well, State.well, State.oct, State.oct, hv.octets]
      rw [hwritten, hmine]
      exact State.well_written hvloc hvwell d.pair d.off (d.off / 4096) _ _
    · obtain ⟨hloc, hmine, hwell⟩ := hu
      obtain ⟨k1, k2, k3, -⟩ := u.combineAt_keeps r x c
      exact ⟨k1.trans hloc, k2.trans hmine, fun w => (k3 (hother x hx hne) w).trans (hwell w)⟩
    · obtain ⟨-, -, k3, -⟩ := u.combineAt_keeps r x c
      exact (k3 (hother x hx hne) w).trans (hu w)

/-- What XSENDR_COMBINE writes for the contribution whose window has ended (R161). -/
def State.combined (s : State) (i : Inst) (e : Contrib) : Combined :=
  let ms := s.xmembers i
  let root := s.rootMember i ms
  let lead := (s.contribOf e.n root).getD e
  { n := e.n
    lead := lead
    bad := s.occ.any (fun o => o.of i e.n && o.bad)
    sum := s.combine i 0 lead.op lead.ty ms (fun c => (s.contribOf e.n c).map (·.data)) 3 (s.rootOf i 0)
    tag := BitVec.ofNat 8 (bits (s.coreAt root).xch.xtag 7 0) }

theorem exec_xsendrCombine {s : State} {i : Inst} {e : Contrib} (he : s.cores.findSome? (fun (c, x) => x.xch.contrib.find? (fun e =>
    s.phaseOf c == i && decide (x.label e.n + combineSpan i.scope ≤ (s.stepOf c).toNat))) = some e) :
    exec (.xsendrCombine i) s = .next ((each (s.xmembers i) s (fun t c => t.combineAt (s.combined i e) c)).contribsDone i e.n) := by
  rw [show exec (.xsendrCombine i) s = execXsendrCombine i s from rfl, execXsendrCombine]
  extract_lets ms
  rw [he]
  rfl

/-- Settles O32. Transfers are entered at the issuing core's exchange unit; a landing meets windows and other beats, or lands; a
combination is each member's end in turn. -/
theorem exchangeTransfers : Obligations.ExchangeTransfers := by
  unfold Obligations.ExchangeTransfers
  refine ⟨fun s n b c op ty => ?_, fun s c k => ?_, fun s i e => ?_⟩
  · obtain ⟨hsend, hreduce, hrecv⟩ := transfers_begin s n b c op ty
    refine ⟨hsend, hreduce, fun ho hm hl => hrecv ?_, fun z hz => ?_, fun z hz => ?_, fun ho => ⟨?_, ?_, ?_⟩, fun ho hm => ?_, fun ho hm hl => ?_⟩
    · rw [State.recvCheck_member ho hm, if_neg (Nat.not_lt.2 hl)]
    · rw [exec_xsend, hz, State.checked_some]
    · rw [exec_xsendr, hz, State.checked_some]
    · exact State.sendCheck_closed ho _ _ _
    · exact State.sendCheck_closed ho _ _ _
    · rw [exec_xrecv, State.recvCheck_closed ho]
      rfl
    · rw [exec_xrecv, State.recvCheck_outside ho hm, State.checked_some]
    · rw [exec_xrecv, State.recvCheck_member ho hm, if_pos hl, State.checked_some]
  · exact ⟨fun e he hb hl => xsendBeats_sends s c k he hb hl, fun e he hc hl => xsendBeats_reads s c k he hc hl, s.occ_occupyPorts c,
      fun b hb hp hk => landing_single hb hp hk, fun b d hb hp hk hd ho hc => landing_collision hb hp hk hd ho hc,
      fun b n g h hb hk hw => landing_completes hb hk hw, fun b w hw hs hp => landBeat_lands hw hs hp,
      fun b h hs hu => landBeat_misses h hs hu, fun n b hw hl => xrecvWindow_closes hw hl⟩
  · exact fun he => ⟨_, exec_xsendrCombine he, combine_members s i (s.xmembers i) (s.combined i e)⟩

end Sys2Proof.Machine
end

section

/-! PROOFS. The statement on the copy and collective engines (spec/06 R179 to R182; spec/10 R233; spec/11 R272; spec/12 R300;
spec/21 R407). -/

namespace Sys2Proof.Machine

/-! ### Copies (R179, R233) -/

theorem exec_cpyComplete_idle {s : State} {c : Nat} (h : (s.coreAt c).engHead true = none) : exec (.cpyComplete c) s = .next s := by
  change execCpyComplete c s = _
  rw [execCpyComplete, h]

theorem exec_cpyComplete_paged {s : State} {c : Nat} {e : EngCmd} (h : (s.coreAt c).engHead true = some e) (hpage : e.page ≠ none) :
    exec (.cpyComplete c) s = .next s := by
  change execCpyComplete c s = _
  rw [execCpyComplete, h]
  exact congrArg _ (if_pos (Option.isSome_iff_ne_none.2 hpage))

/-- A command that waits for no page and whose lines are flushed moves its bytes. -/
theorem exec_cpyComplete_moves {s f : State} {c : Nat} {e : EngCmd} (h : (s.coreAt c).engHead true = some e) (hpage : e.page = none)
    (hhurt : e.hurt = none) (hflush : s.engFlush c e = (f, .done)) : exec (.cpyComplete c) s = .next (f.cpyMove c e) := by
  change execCpyComplete c s = _
  have hmeet : s.engMeet c e = (s, false) := by rw [State.engMeet, hhurt]
  rw [execCpyComplete, h]
  simp only [hpage, Option.isSome_none, Bool.false_eq_true, ↓reduceIte, hmeet, hflush]

/-- What a copy keeps that goes on later: the bytes it has read, and how many of them it has written. -/
def State.cpyKept (s : State) (c : Nat) (e : EngCmd) (bs : List Byte) (k : Nat) : State :=
  s.modEng c e.id (fun x => { x with data := e.data ++ bs, bad := e.bad, wrote := x.wrote + k })

section
variable {f u w : State} {c k : Nat} {e : EngCmd} {bs : List Byte}

/-- The reading that a copy begins with. -/
def State.cpyRead (f : State) (c : Nat) (e : EngCmd) : State × List Byte × EngRes :=
  f.engReadAll c (f.coreAt c).cid e (e.src + w64 e.data.length) (e.len - e.data.length)

/-- The writing that it ends with, from a state in which these bytes were read. -/
def State.cpyWrite (u : State) (c cid : Nat) (e : EngCmd) (bs : List Byte) : State × EngRes × Nat :=
  u.engWriteAll c cid e (e.dst + w64 e.wrote) ((e.data ++ bs).drop e.wrote)

theorem State.cpyMove_of_done (hbad : e.bad = none) (hread : f.cpyRead c e = (u, bs, .done))
    (hwrite : u.cpyWrite c (f.coreAt c).cid e bs = (w, .done, k)) : f.cpyMove c e = w.dropEng c e.id := by
  rw [State.cpyRead] at hread
  rw [State.cpyWrite] at hwrite
  simp only [State.cpyMove, hbad, hread, hwrite, Option.isSome_none, Bool.false_eq_true, ↓reduceIte, State.cpyEnds]

theorem State.cpyMove_of_write_fail {v : Nat} (hbad : e.bad = none) (hread : f.cpyRead c e = (u, bs, .done))
    (hwrite : u.cpyWrite c (f.coreAt c).cid e bs = (w, .fail v, k)) :
    f.cpyMove c e = (w.dropEng c e.id).modCtx c e.ctx (fun x => x.cpyFailed v e.idx) := by
  rw [State.cpyRead] at hread
  rw [State.cpyWrite] at hwrite
  simp only [State.cpyMove, hbad, hread, hwrite, Option.isSome_none, Bool.false_eq_true, ↓reduceIte, State.cpyEnds]

theorem State.cpyMove_of_read_fail {v : Nat} (hbad : e.bad = none) (hread : f.cpyRead c e = (u, bs, .fail v))
    (hwrite : u.cpyWrite c (f.coreAt c).cid e bs = (w, .done, k)) :
    f.cpyMove c e = (w.dropEng c e.id).modCtx c e.ctx (fun x => x.cpyFailed v e.idx) := by
  rw [State.cpyRead] at hread
  rw [State.cpyWrite] at hwrite
  simp only [State.cpyMove, hbad, hread, hwrite, Option.isSome_none, Bool.false_eq_true, ↓reduceIte, State.cpyEnds]

theorem State.cpyMove_of_read_page {obj pg : Nat} (hbad : e.bad = none) (hread : f.cpyRead c e = (u, bs, .page obj pg)) :
    f.cpyMove c e = (u.cpyKept c e bs 0).engWaits c e.id obj pg := by
  rw [State.cpyRead] at hread
  simp only [State.cpyMove, hbad, hread, Option.isSome_none, Bool.false_eq_true, ↓reduceIte, State.cpyKept]

theorem State.cpyMove_of_write_page {obj pg : Nat} (hbad : e.bad = none) (hread : f.cpyRead c e = (u, bs, .done))
    (hwrite : u.cpyWrite c (f.coreAt c).cid e bs = (w, .page obj pg, k)) :
    f.cpyMove c e = (w.cpyKept c e bs k).engWaits c e.id obj pg := by
  rw [State.cpyRead] at hread
  rw [State.cpyWrite] at hwrite
  simp only [State.cpyMove, hbad, hread, hwrite, Option.isSome_none, Bool.false_eq_true, ↓reduceIte, State.cpyKept]

end

/-! ### The start of a timed command (R180, R272) -/

@[simp] theorem State.unforce_engs (s : State) (c d : Nat) : ((s.unforce c).coreAt d).engs = (s.coreAt d).engs := by
  rw [State.unforce]
  refine iteInduction (motive := fun t : State => (t.coreAt d).engs = (s.coreAt d).engs) (fun _ => rfl) fun _ => ?_
  rw [State.modDuty, State.coreAt_modCore]
  split
  case isTrue h => rw [h]
  case isFalse => rfl

@[simp] theorem State.unforce_ctxAt (s : State) (c d k : Nat) : (s.unforce c).ctxAt d k = s.ctxAt d k := by
  rw [State.unforce]
  exact iteInduction (motive := fun t : State => t.ctxAt d k = s.ctxAt d k) (fun _ => rfl) fun _ => State.ctxAt_modCore_of_ctxs rfl ..

theorem State.dropEng_engs (s : State) (c id : Nat) :
    ((s.dropEng c id).coreAt c).engs = (s.coreAt c).engs.filter (fun e => e.id != id) := by
  rw [State.dropEng, State.unforce_engs, State.modEngs, State.coreAt_modCore_self]

@[simp] theorem State.dropEng_ctxAt (s : State) (c id d k : Nat) : (s.dropEng c id).ctxAt d k = s.ctxAt d k := by
  rw [State.dropEng, State.unforce_ctxAt, State.modEngs]
  exact State.ctxAt_modCore_of_ctxs rfl ..

/-- The draw that a sub-bank conflict takes (R272). -/
def State.timedDraw (s : State) (beside : Bool) : State := if beside then s.tick1 else s

theorem State.timedDraw_coreAt (s : State) (beside : Bool) (c : Nat) : (s.timedDraw beside).coreAt c = s.coreAt c := by
  cases beside <;> rfl

/-- TIMING is noted at a context for the wait of a copy or of a collective (R180). -/
def Ctx.tooLate (y : Ctx) (copy : Bool) (n : Nat) : Ctx :=
  if copy then { y with lateCpy := some (y.lateCpy.getD n) } else { y with lateColl := some (y.lateColl.getD n) }

section
variable {s : State} {c id : Nat} {e : EngCmd} {copy : Bool} {at_ : Word} {closed : Bool}
  (hfind : ((s.coreAt c).engsOf copy).find? (fun e => e.id == id) = some e) (hbegun : e.begun = false) (hstart : e.start = some at_)
  (hclosed : ([e.dst, e.src].filter isLocal).any (fun a => ((s.coreAt c).checkRegion a.toNat e.len).isSome) = closed)
include hfind hbegun hstart hclosed

theorem exec_timedCommandStart {beside : Bool} (hbeside : s.timedBeside c (e.ranges c) (some id) = beside) :
    exec (.timedCommandStart c copy id) s = .next
      (if (((s.coreAt c).engHead copy).isSome || decide (at_.toNat < (s.stepOf c).toNat)) || closed
          || (beside && Config.bankLoss s.fresh % 3 == 2) then
        ((s.timedDraw beside).dropEng c id).modCtx c e.ctx (fun y => y.tooLate copy e.n)
      else ((s.timedDraw beside).modEng c id (fun e => { e with begun := true, since := s.now, bank := (s.coreAt c).loc.bank })).unforce c) := by
  change execTimedCommandStart c copy id s = _
  rw [execTimedCommandStart]
  simp only [hfind, hbegun, hstart, hclosed, hbeside, Option.isNone_some, Bool.or_false, Bool.false_eq_true, ↓reduceIte]
  cases beside <;> rfl

end

/-- What a command that was not ready leaves: it is out of its engine, and its context has the number of its delay. -/
theorem State.late_dropEng (s : State) (beside : Bool) (c id k n : Nat) (copy : Bool) :
    let t := ((s.timedDraw beside).dropEng c id).modCtx c k (fun y => y.tooLate copy n)
    (t.coreAt c).engs = (s.coreAt c).engs.filter (fun e => e.id != id)
      ∧ (copy = true → (t.ctxAt c k).lateCpy = some ((s.ctxAt c k).lateCpy.getD n))
      ∧ (copy = false → (t.ctxAt c k).lateColl = some ((s.ctxAt c k).lateColl.getD n)) := by
  intro t
  have hctx : t.ctxAt c k = (s.ctxAt c k).tooLate copy n := by
    rw [show t.ctxAt c k = _ from State.ctxAt_modCtx_self .., State.dropEng_ctxAt, State.ctxAt, State.timedDraw_coreAt]
    rfl
  have hengs : (t.coreAt c).engs = (((s.timedDraw beside).dropEng c id).coreAt c).engs :=
    (congrArg Core.engs (State.coreAt_modCore_self ..)).trans rfl
  rw [hctx, hengs, State.dropEng_engs, State.timedDraw_coreAt]
  refine ⟨rfl, ?_, ?_⟩
  · rintro rfl
    rfl
  · rintro rfl
    rfl

/-! ### Chunks of a collective (R181, R300, R407) -/

/-- The members of a launch that have a collective of the scope at their engine's head, with its command. -/
def State.collMembers (s : State) (i : Inst) (n : Nat) : List (Nat × EngCmd) :=
  (s.launchMembers i n).filterMap (fun c => (s.collHead i n c).map (fun e => (c, e)))

section
variable {s : State} {i : Inst} {n : Nat}

theorem exec_collChunk (h : s.collNodes i = [n]) : exec (.collChunk i) s = .next (s.collNode i n) := by
  change execCollChunk i s = _
  rw [execCollChunk, h]
  rfl

/-- Whether members' commands agree with one of them in what they ask for. -/
def collSame (ms : List (Nat × EngCmd)) (e : EngCmd) : Bool := ms.all (fun p => p.2.len == e.len && p.2.op == e.op && p.2.ty == e.ty)

/-- Whether a member's command cannot go on yet: it is to start, or waits for a page or for its time. -/
def State.collHeld (s : State) (ms : List (Nat × EngCmd)) : Bool :=
  ms.any (fun p => (p.2.start.isSome && !p.2.begun) || p.2.page.isSome || decide (s.now < p.2.notBefore))

section
variable {d : Nat} {e : EngCmd} (hhead : (s.collMembers i n).head? = some (d, e)) (hhurt : ∀ p ∈ s.collMembers i n, p.2.hurt = none)
include hhead hhurt

/-- The steps of a chunk, in order, where no command's entry is damaged. -/
theorem State.collNode_eq : s.collNode i n =
    (if !(s.crossed i n (s.launchMembers i n) d).isEmpty then
      each (i :: s.crossed i n (s.launchMembers i n) d) s (fun s j => s.collStopAll j n 0xE1)
    else if !collSame (s.collMembers i n) e then s.collStopAll i n 0xE1
    else if (s.collMembers i n).length < (s.launchMembers i n).length then s
    else if s.collHeld (s.collMembers i n) then s
    else if (s.collMembers i n).any (fun p => p.2.wrote != 0) then s.collCommit i n (s.collMembers i n) (s.coreAt d).cid
    else if !e.running then
      (if (s.collMembers i n).any (fun p => (s.coreAt p.1).leaving) then s
      else s.collTry i n (s.collMembers i n) (s.launchMembers i n) (s.coreAt d).cid)
    else if s.now < e.since + 2 * s.roundLen i.scope then s
    else if e.gen = none || s.pathGen i (s.launchMembers i n) ≠ e.gen then s.collRetry i n (s.collMembers i n)
    else if s.foreign i && !Config.podChunk s.fresh then s.tick1
    else s.collCommit i n (s.collMembers i n) (s.coreAt d).cid) := by
  have hsound : (s.collMembers i n).any (fun p => p.2.hurt.isSome) = false := by
    rw [List.any_eq_false]
    intro p hp
    rw [hhurt p hp]
    exact Bool.false_ne_true
  rw [State.collNode]
  unfold State.collMembers at hhead hsound
  simp only [hhead, hsound, Bool.false_eq_true, ↓reduceIte]
  rfl

theorem State.collNode_of_crossed {j : Inst} (hcross : s.crossed i n (s.launchMembers i n) d = [j]) :
    s.collNode i n = (s.collStopAll i n 0xE1).collStopAll j n 0xE1 := by
  rw [State.collNode_eq hhead hhurt, hcross]
  rfl

section
variable (hcross : s.crossed i n (s.launchMembers i n) d = [])
include hcross

theorem State.collNode_of_differ (hsame : collSame (s.collMembers i n) e = false) : s.collNode i n = s.collStopAll i n 0xE1 := by
  rw [State.collNode_eq hhead hhurt, hcross, hsame]
  rfl

section
variable (hsame : collSame (s.collMembers i n) e = true)
include hsame

theorem State.collNode_of_fewer (hlen : (s.collMembers i n).length < (s.launchMembers i n).length) : s.collNode i n = s := by
  rw [State.collNode_eq hhead hhurt, hcross, hsame]
  exact if_pos hlen

section
variable (hlen : (s.collMembers i n).length = (s.launchMembers i n).length) (hheld : s.collHeld (s.collMembers i n) = false)
include hlen hheld

/-- With every member there and ready, a chunk is committed further, tried, or judged. -/
theorem State.collNode_of_ready : s.collNode i n =
    (if (s.collMembers i n).any (fun p => p.2.wrote != 0) then s.collCommit i n (s.collMembers i n) (s.coreAt d).cid
    else if !e.running then
      (if (s.collMembers i n).any (fun p => (s.coreAt p.1).leaving) then s
      else s.collTry i n (s.collMembers i n) (s.launchMembers i n) (s.coreAt d).cid)
    else if s.now < e.since + 2 * s.roundLen i.scope then s
    else if e.gen = none || s.pathGen i (s.launchMembers i n) ≠ e.gen then s.collRetry i n (s.collMembers i n)
    else if s.foreign i && !Config.podChunk s.fresh then s.tick1
    else s.collCommit i n (s.collMembers i n) (s.coreAt d).cid) := by
  rw [State.collNode_eq hhead hhurt, hcross, hsame, hheld]
  exact if_neg hlen.not_lt

theorem State.collNode_of_written (h : ∃ p ∈ s.collMembers i n, p.2.wrote ≠ 0) :
    s.collNode i n = s.collCommit i n (s.collMembers i n) (s.coreAt d).cid := by
  obtain ⟨p, hp, hne⟩ := h
  rw [State.collNode_of_ready hhead hhurt hcross hsame hlen hheld]
  exact if_pos (List.any_eq_true.2 ⟨p, hp, by rw [bne_iff_ne]; exact hne⟩)

section
variable (hfresh : ∀ p ∈ s.collMembers i n, p.2.wrote = 0)
include hfresh

/-- A chunk of which nothing is written yet is tried, or judged. -/
theorem State.collNode_of_unwritten : s.collNode i n =
    (if !e.running then
      (if (s.collMembers i n).any (fun p => (s.coreAt p.1).leaving) then s
      else s.collTry i n (s.collMembers i n) (s.launchMembers i n) (s.coreAt d).cid)
    else if s.now < e.since + 2 * s.roundLen i.scope then s
    else if e.gen = none || s.pathGen i (s.launchMembers i n) ≠ e.gen then s.collRetry i n (s.collMembers i n)
    else if s.foreign i && !Config.podChunk s.fresh then s.tick1
    else s.collCommit i n (s.collMembers i n) (s.coreAt d).cid) := by
  rw [State.collNode_of_ready hhead hhurt hcross hsame hlen hheld]
  refine if_neg ?_
  rw [List.any_eq_true]
  rintro ⟨p, hp, hne⟩
  exact bne_iff_ne.1 hne (hfresh p hp)

theorem State.collNode_of_idle {leaving : Bool} (hrun : e.running = false)
    (hleaving : (s.collMembers i n).any (fun p => (s.coreAt p.1).leaving) = leaving) :
    s.collNode i n = (if leaving then s else s.collTry i n (s.collMembers i n) (s.launchMembers i n) (s.coreAt d).cid) := by
  rw [State.collNode_of_unwritten hhead hhurt hcross hsame hlen hheld hfresh, hrun, hleaving]
  rfl

theorem State.collNode_of_early (hrun : e.running = true) (hearly : s.now < e.since + 2 * s.roundLen i.scope) : s.collNode i n = s := by
  rw [State.collNode_of_unwritten hhead hhurt hcross hsame hlen hheld hfresh, hrun]
  exact if_pos hearly

/-- Two rounds after a try it is judged (R300). -/
theorem State.collNode_of_due (hrun : e.running = true) (hdue : e.since + 2 * s.roundLen i.scope ≤ s.now) :
    s.collNode i n =
      (if e.gen = none || s.pathGen i (s.launchMembers i n) ≠ e.gen then s.collRetry i n (s.collMembers i n)
      else if s.foreign i && !Config.podChunk s.fresh then s.tick1
      else s.collCommit i n (s.collMembers i n) (s.coreAt d).cid) := by
  rw [State.collNode_of_unwritten hhead hhurt hcross hsame hlen hheld hfresh, hrun]
  exact if_neg hdue.not_gt

end
end
end
end
end

/-- One launch's chunk that is overdue is tried again (R407). -/
theorem exec_podChunkTimeout (h : s.collNodes ⟨.pod, 0⟩ = [n])
    (hdue : (s.collMembers ⟨.pod, 0⟩ n).any (fun p => p.2.gen.isSome && decide (p.2.since + 4 * s.roundLen .pod ≤ s.now)) = true) :
    exec .podChunkTimeout s = .next (s.collRetry ⟨.pod, 0⟩ n (s.collMembers ⟨.pod, 0⟩ n)) := by
  change execPodChunkTimeout s = _
  rw [execPodChunkTimeout]
  simp only [h]
  exact congrArg _ (if_pos hdue)

/-- The members of a launch that have joined its collective. -/
def State.collJoined (s : State) (i : Inst) (n : Nat) : List Nat := (s.launchMembers i n).filter (fun c => (s.collHead i n c).isSome)

/-- Whether a member's command has waited for the others beyond the scope timeout (R181). -/
def State.collOverdue (s : State) (i : Inst) (n c : Nat) : Bool :=
  match s.collHead i n c with
  | some e => decide (e.since + s.timeout i ≤ s.now)
  | none => false

theorem exec_collMemberTimeout (h : s.collNodes i = [n]) (hlen : (s.collJoined i n).length < (s.launchMembers i n).length)
    (hdue : (s.collJoined i n).any (s.collOverdue i n) = true) :
    exec (.collMemberTimeout i) s = .next (s.collStopAll i n 0xE2) := by
  change execCollMemberTimeout i s = _
  rw [execCollMemberTimeout]
  simp only [h]
  refine congrArg _ (if_pos ?_)
  obtain ⟨c, hc, hover⟩ := List.any_eq_true.1 hdue
  rw [List.length_filterMap_eq_countP, List.countP_eq_length_filter, List.any_filterMap, Bool.and_eq_true, decide_eq_true_eq]
  refine ⟨hlen, List.any_eq_true.2 ⟨c, List.mem_of_mem_filter hc, ?_⟩⟩
  rw [State.collOverdue] at hover
  split at hover
  next e he =>
    rw [he]
    exact hover
  next => exact absurd hover Bool.false_ne_true

end

/-! ### The obligation -/

/-- The move of a copy from the state its flush leaves (O35). -/
theorem cpyMove_spec {s f : State} {c : Nat} {e : EngCmd} (hexec : exec (.cpyComplete c) s = .next (f.cpyMove c e)) (hbad : e.bad = none)
    {u : State} {bs : List Byte} {r : EngRes} (hread : f.cpyRead c e = (u, bs, r)) {w : State × EngRes × Nat}
    (hw : u.cpyWrite c (f.coreAt c).cid e bs = w) {failed : Nat → State}
    (hfailed : failed = fun v => (w.1.dropEng c e.id).modCtx c e.ctx (fun x => x.cpyFailed v e.idx)) :
    (r = .done → w.2.1 = .done → exec (.cpyComplete c) s = .next (w.1.dropEng c e.id))
      ∧ (∀ v, r = .done → w.2.1 = .fail v → exec (.cpyComplete c) s = .next (failed v))
      ∧ (∀ v, r = .fail v → w.2.1 = .done → exec (.cpyComplete c) s = .next (failed v))
      ∧ (∀ obj pg, r = .page obj pg → exec (.cpyComplete c) s = .next ((u.cpyKept c e bs 0).engWaits c e.id obj pg))
      ∧ (∀ obj pg, r = .done → w.2.1 = .page obj pg →
          exec (.cpyComplete c) s = .next ((w.1.cpyKept c e bs w.2.2).engWaits c e.id obj pg)) := by
  obtain ⟨w, res, k⟩ := w
  subst hfailed
  rw [hexec]
  refine ⟨?_, ?_, ?_, ?_, ?_⟩
  · rintro rfl rfl
    rw [State.cpyMove_of_done hbad hread hw]
  · rintro v rfl rfl
    rw [State.cpyMove_of_write_fail hbad hread hw]
  · rintro v rfl rfl
    rw [State.cpyMove_of_read_fail hbad hread hw]
  · rintro obj pg rfl
    rw [State.cpyMove_of_read_page hbad hread]
  · rintro obj pg rfl rfl
    rw [State.cpyMove_of_write_page hbad hread hw]

/-- Settles O35: each event is the branch of its definition that the hypotheses choose. -/
theorem engineEvents : Obligations.EngineEvents := by
  unfold Obligations.EngineEvents
  intro s c id i
  refine ⟨exec_cpyComplete_idle, fun e h => ⟨exec_cpyComplete_paged h, ?_⟩, ?_, ?_⟩
  · intro hpage hhurt f hflush hbad cid kept u bs r hread
    exact cpyMove_spec (exec_cpyComplete_moves h hpage hhurt hflush) hbad hread rfl rfl
  · intro e copy at_ hfind hbegun hstart beside lost u closed
    have hexec := exec_timedCommandStart hfind hbegun hstart rfl (beside := beside) rfl
    constructor
    · intro hat hidle hclosed hlost
      rw [hexec]
      refine congrArg _ (if_neg ?_)
      have hlost' : (beside && Config.bankLoss s.fresh % 3 == 2) = false := hlost
      have hclosed' : ([e.dst, e.src].filter isLocal).any (fun a => ((s.coreAt c).checkRegion a.toNat e.len).isSome) = false := hclosed
      rw [hlost', hclosed', hidle, hat]
      simp
    · intro hlate
      refine ⟨_, hexec.trans (congrArg _ (if_pos ?_)), State.late_dropEng s beside c id e.ctx e.n copy⟩
      rw [Bool.or_eq_true, Bool.or_eq_true, Bool.or_eq_true, decide_eq_true_eq, Option.isSome_iff_ne_none]
      tauto
  · intro n hnodes all ms goes
    have hexec : exec (.collChunk i) s = .next (s.collNode i n) := exec_collChunk hnodes
    refine ⟨fun d e hhead hhurt => ?_, fun hlen hdue => exec_collMemberTimeout hnodes hlen hdue, ?_⟩
    · have hgoes (t : State) (h : s.collNode i n = t) : goes t := hexec.trans (congrArg _ h)
      intro cid same
      refine ⟨fun j hcross => hgoes _ (State.collNode_of_crossed hhead hhurt hcross), fun hcross => ⟨fun hdiffer =>
        hgoes _ (State.collNode_of_differ hhead hhurt hcross hdiffer), fun hsame hlen =>
        hgoes _ (State.collNode_of_fewer hhead hhurt hcross hsame hlen), fun hsame hlen hheld => ⟨fun hwritten =>
        hgoes _ (State.collNode_of_written hhead hhurt hcross hsame hlen hheld hwritten), fun hfresh => ⟨fun hrun hstay =>
        hgoes _ (State.collNode_of_idle hhead hhurt hcross hsame hlen hheld hfresh hrun hstay), fun hrun hleave =>
        hgoes _ (State.collNode_of_idle hhead hhurt hcross hsame hlen hheld hfresh hrun hleave), fun hrun hearly =>
        hgoes _ (State.collNode_of_early hhead hhurt hcross hsame hlen hheld hfresh hrun hearly), fun hrun hdue => ?_⟩⟩⟩⟩
      have hnode := State.collNode_of_due hhead hhurt hcross hsame hlen hheld hfresh hrun hdue
      refine ⟨fun hmoved => hgoes _ ?_, fun hgen hsteady hhome => hgoes _ ?_⟩
      · rw [hnode]
        refine if_pos ?_
        rw [Bool.or_eq_true, decide_eq_true_eq, decide_eq_true_eq]
        exact hmoved
      · rw [hnode]
        refine (if_neg ?_).trans (if_neg ?_)
        · rw [Bool.or_eq_true, decide_eq_true_eq, decide_eq_true_eq]
          exact fun h => h.elim hgen fun hne => hne hsteady
        · rw [hhome]
          exact Bool.false_ne_true
    · intro hpod hdue
      subst hpod
      exact exec_podChunkTimeout hnodes hdue

end Sys2Proof.Machine
end

section

/-! PROOFS. The statement on lane grants (spec/07 R187 to R190). -/

namespace Sys2Proof.Machine

/-! ### Groups dealt (R189) -/

/-- A sum in which one term has been replaced. -/
theorem sum_map_replace {l : List Nat} (hl : l.Nodup) {c : Nat} (hc : c ∈ l) {f g : Nat → Nat} (h : ∀ q, q ≠ c → g q = f q) :
    (l.map g).sum + f c = (l.map f).sum + g c := by
  have hrest : (l.erase c).map g = (l.erase c).map f :=
    List.map_congr_left fun q hq => h q fun e => hl.not_mem_erase (e ▸ hq)
  have hf := List.sum_map_erase f hc
  have hg := List.sum_map_erase g hc
  rw [hrest] at hg
  omega

/-- One more group for a position is at most one more of the octet. -/
theorem sum_sget_sput_le (l : List Nat) (hl : l.Nodup) (g : SMap Nat) (q : Nat) :
    (l.map (sget 0 (sput g q (sget 0 g q + 1)))).sum ≤ (l.map (sget 0 g)).sum + 1 := by
  have hne (p : Nat) (hp : p ≠ q) : sget 0 (sput g q (sget 0 g q + 1)) p = sget 0 g p := sget_sput_ne _ _ hp _
  by_cases hq : q ∈ l
  · have h := sum_map_replace hl hq hne
    rw [sget_sput_self] at h
    omega
  · rw [List.map_congr_left fun p hp => hne p fun e => hq (e ▸ hp)]
    omega

/-- A pool deals no more groups than it has (R189). -/
theorem sum_dealAll_le (l : List Nat) (hl : l.Nodup) (P : List Nat) (w want : Nat → Nat) (pool : Nat) (g : SMap Nat) :
    (l.map (sget 0 (dealAll P w want pool g))).sum ≤ (l.map (sget 0 g)).sum + pool := by
  induction pool generalizing g with
  | zero => exact Nat.le_refl _
  | succ pool ih =>
    rw [dealAll]
    cases dealOne P w want g with
    | none => exact Nat.le_add_right _ _
    | some q =>
      have hdealt := ih (sput g q (sget 0 g q + 1))
      have hone := sum_sget_sput_le l hl g q
      dsimp only
      omega

/-- A position with its new grant (R189, R190). -/
def Core.regranted (x : Core) (n : Nat) : Core := { x with vec := { x.vec with grant := n, vlen := 8 * n } }

/-- A redealing writes the grants that it has worked out. -/
theorem State.redeal_eq (s : State) (o : Nat) (P : List Nat) : ∃ g : SMap Nat,
    s.redeal o P = each P s (fun s q => s.modCore (8 * o + q) (fun x => x.regranted (sget 0 g q)))
      ∧ ((List.range 8).map (sget 0 g)).sum ≤ 16 := by
  refine ⟨_, rfl, (sum_dealAll_le _ List.nodup_range _ _ _ _ _).trans ?_⟩
  rw [show ((List.range 8).map (sget 0 ([] : SMap Nat))).sum = 0 from rfl]
  omega

/-- Each core of the octet has the grant dealt to its position. -/
theorem State.grant_each_regranted (s : State) (o : Nat) (P : List Nat) (f : Nat → Nat) {q : Nat} (hq : q ∈ P) :
    ((each P s (fun s q => s.modCore (8 * o + q) (fun x => x.regranted (f q)))).coreAt (8 * o + q)).vec.grant = f q := by
  have hstep (t : State) (p : Nat) : ((t.modCore (8 * o + p) (fun x => x.regranted (f p))).coreAt (8 * o + q)).vec.grant
      = if q = p then f p else (t.coreAt (8 * o + q)).vec.grant := by
    rw [State.coreAt_modCore]
    by_cases h : q = p
    · subst h
      rw [if_pos rfl, if_pos rfl]
      rfl
    · rw [if_neg (by omega), if_neg h]
  refine each_reaches (P := fun _ => True) (Q := fun t : State => (t.coreAt (8 * o + q)).vec.grant = f q) (c := q)
    (fun _ _ _ _ => trivial) (fun t _ => (hstep t q).trans (if_pos rfl)) (fun t p ht => (hstep t p).trans ?_) P s hq trivial
  split
  · rename_i h
    rw [h]
  · exact ht

/-- The grants of an octet. -/
def State.dealt (s : State) (o : Nat) : Nat := ((octCores o).map (fun q => (s.coreAt q).vec.grant)).sum

/-- A redealing of the whole octet deals at most its 16 groups (R189). -/
theorem State.dealt_redeal (s : State) (o : Nat) : (s.redeal o (List.range 8)).dealt o ≤ 16 := by
  obtain ⟨g, hg, hsum⟩ := s.redeal_eq o (List.range 8)
  rw [State.dealt, hg, octCores, List.map_map]
  refine le_of_eq_of_le (congrArg List.sum (List.map_congr_left fun q hq => ?_)) hsum
  exact State.grant_each_regranted s o _ _ hq

/-- A redealing changes no context. -/
theorem State.sameIssuer_redeal (s : State) (o : Nat) (P : List Nat) : s.SameIssuer (s.redeal o P) :=
  State.sameIssuer_each (.refl s) (fun _ _ => State.sameIssuer_modCore rfl) _

theorem State.dealt_congr {s t : State} (h : ∀ c, (t.coreAt c).vec.grant = (s.coreAt c).vec.grant) (o : Nat) : t.dealt o = s.dealt o := by
  simp only [State.dealt, h]

/-- Retiring leaves every grant. -/
theorem State.passed.dealt {s t : State} (h : s.passed t) (o : Nat) : t.dealt o = s.dealt o :=
  State.dealt_congr (fun c => h.coreAt_eq c (fun x => x.vec.grant) fun _ _ _ _ _ _ _ => rfl) o

theorem State.gives.dealt {s t : State} {a : GReg} {v : Word} (h : s.gives t a v) (o : Nat) : t.dealt o = s.dealt o :=
  State.dealt_congr (fun c => h.coreAt_eq c (fun x => x.vec.grant) fun _ _ _ _ _ _ _ => rfl) o

/-! ### VCLAIM, VYIELD and VLEN (R188) -/

/-- The issuing core with lanes asked for and granted. -/
def State.claimed (s : State) (want g : Nat) : State :=
  s.modHere (fun x => { x with vec := { x.vec with want := want, grant := g, vlen := 8 * g } })

/-- What a claim takes is free (R188). -/
theorem State.dealt_claimed {s : State} (h : s.dealt (octOf s.core) ≤ 16) (want : Nat) {g : Nat}
    (hg : g ≤ s.here.vec.grant + s.freeGroups s.core) : (s.claimed want g).dealt (octOf s.core) ≤ 16 := by
  have hother (q : Nat) (hq : q ≠ s.core) : ((s.claimed want g).coreAt q).vec.grant = (s.coreAt q).vec.grant := by
    rw [State.claimed, State.modHere, State.coreAt_modCore, if_neg hq]
  have hown : ((s.claimed want g).coreAt s.core).vec.grant = g := by
    rw [State.claimed, State.modHere, State.coreAt_modCore_self]
  have hsum := sum_map_replace (nodup_octCores (octOf s.core)) (mem_octCores s.core) hother
  have hfree : s.freeGroups s.core = 16 - s.dealt (octOf s.core) := rfl
  rw [hown] at hsum
  rw [hfree, State.here] at hg
  unfold State.dealt at h hg ⊢
  generalize octOf s.core = o at *
  omega

section
variable {s : State}

theorem exec_vclaim_of_empty (hk : s.ctx = 0) (hq : s.here.vec.queue = []) (a : GReg) (n8 : BitVec 4) {g : Nat}
    (hg : g = min n8.toNat (s.here.vec.grant + s.freeGroups s.core)) :
    exec (.vclaim a n8) s = .next ((s.claimed n8.toNat g).result a (w64 (8 * g))) := by
  subst hg
  simp [exec, execVclaim, hk, hq, State.claimed]

theorem exec_vyield_of_empty (hk : s.ctx = 0) (hq : s.here.vec.queue = []) :
    exec .vyield s = .next ((s.claimed 0 0).redeal (octOf s.core) (List.range 8)).retire := by
  simp [exec, execVyield, hk, hq, State.claimed]

/-- With an entry in the queue both wait. -/
theorem exec_vclaim_vyield_of_queued (hk : s.ctx = 0) (hq : s.here.vec.queue ≠ []) (a : GReg) (n8 : BitVec 4) :
    exec (.vclaim a n8) s = .next s ∧ exec .vyield s = .next s := by
  simp [exec, execVclaim, execVyield, hk, hq]

theorem exec_lanes_of_helper (hk : s.ctx ≠ 0) (a : GReg) (n8 : BitVec 4) :
    exec (.vclaim a n8) s = .next s.illegal ∧ exec .vyield s = .next s.illegal ∧ exec (.vlen a) s = .next s.illegal := by
  simp [exec, execVclaim, execVyield, execVlen, hk]

theorem exec_vlen_of_ctx (hk : s.ctx = 0) (a : GReg) : exec (.vlen a) s = .next (s.result a (w64 s.here.vec.vlen)) := by
  simp [exec, execVlen, hk]

end

/-- Settles O38: a claim takes at most what is free, a redealing deals at most 16 groups, and a retirement leaves every grant. -/
theorem laneGrants : Obligations.LaneGrants := by
  intro s a n8 g dealt
  have hclaimed (want g : Nat) : s.SameIssuer (s.claimed want g) := State.sameIssuer_modHere rfl
  refine ⟨fun hk => exec_lanes_of_helper hk a n8, fun hk hq => exec_vclaim_vyield_of_queued hk hq a n8, fun hk hq he => ⟨?_, ?_⟩,
    fun hk he => ⟨_, exec_vlen_of_ctx hk a, s.result_gives a _ he⟩⟩
  · have hgives := (s.claimed n8.toNat g).result_gives a (w64 (8 * g)) ((hclaimed _ _).eret_ne he)
    refine ⟨_, exec_vclaim_of_empty hk hq a n8 rfl, hgives, fun h => ?_⟩
    exact (hgives.dealt (octOf s.core)).trans_le (State.dealt_claimed h _ (Nat.min_le_right _ _))
  · have hissuer := (hclaimed 0 0).trans (State.sameIssuer_redeal _ (octOf s.core) (List.range 8))
    have hpassed := hissuer.retire_passed he
    refine ⟨_, exec_vyield_of_empty hk hq, ?_, hpassed, hissuer.retire_g he⟩
    exact (hpassed.dealt (octOf s.core)).trans_le (State.dealt_redeal _ _)

end Sys2Proof.Machine
end

section

/-! PROOFS. The vector queue: what its head's completion leaves of a core (spec/07 R183 to R192). -/

namespace Sys2Proof.Machine

/-! ### Vector, mask and general registers after a write (R14, R15) -/

theorem Core.ve_setVe (x : Core) (a q : VReg) {i j : Nat} (hi : i < 64) (hj : j < 64) (v : BitVec 32) :
    (x.setVe a i v).ve q j = if q = a ∧ j = i then v else x.ve q j := by
  have hkey : 64 * q.toNat + j = 64 * a.toNat + i ↔ q = a ∧ j = i :=
    ⟨fun h => ⟨BitVec.eq_of_toNat_eq (by omega), by omega⟩, fun h => by rw [h.1, h.2]⟩
  rw [Core.ve, Core.setVe]
  simp only [sget_sput, hkey]
  rfl

theorem Core.mreg_setMk (x : Core) (a k : MReg) (v : Word) : (x.setMk a v).mreg k = if k = a then v else x.mreg k := by
  have hkey : k.toNat = a.toNat ↔ k = a := BitVec.toNat_inj
  rw [Core.mreg, Core.setMk]
  simp only [sget_sput, hkey]
  rfl

/-- Two states of a core with one local memory and one vector queue. -/
structure Core.VecSame (x y : Core) : Prop where
  loc : y.loc = x.loc
  queue : y.vec.queue = x.vec.queue

theorem Core.VecSame.refl (x : Core) : x.VecSame x := ⟨rfl, rfl⟩

theorem Core.VecSame.trans {x y z : Core} (h : x.VecSame y) (k : y.VecSame z) : x.VecSame z :=
  ⟨k.loc.trans h.loc, k.queue.trans h.queue⟩

/-! ### Writes of active elements (R191, R192) -/

theorem Core.mapElems_keeps (x : Core) (a : VReg) (is : List Nat) (f : Nat → BitVec 32) :
    x.VecSame (x.mapElems a is f) ∧ (x.mapElems a is f).ctxs = x.ctxs ∧ (x.mapElems a is f).vec.m = x.vec.m :=
  each_inv (fun y : Core => x.VecSame y ∧ y.ctxs = x.ctxs ∧ y.vec.m = x.vec.m) is x _ (fun _ _ h => ⟨⟨h.1.loc, h.1.queue⟩, h.2⟩)
    ⟨.refl x, rfl, rfl⟩

theorem Core.ve_mapElems (x : Core) (a : VReg) {is : List Nat} (his : ∀ i ∈ is, i < 64) (f : Nat → BitVec 32) (q : VReg) {j : Nat}
    (hj : j < 64) : (x.mapElems a is f).ve q j = if q = a ∧ j ∈ is then f j else x.ve q j := by
  induction is generalizing x with
  | nil => simp [Core.mapElems, each]
  | cons i is ih =>
    have hrest := ih (x.setVe a i (f i)) (fun k hk => his k (List.mem_cons_of_mem _ hk))
    rw [Core.mapElems] at hrest ⊢
    rw [each_cons, hrest, x.ve_setVe a q (his i List.mem_cons_self) hj]
    by_cases hji : j = i
    · subst hji
      by_cases hq : q = a
      · simp [hq]
      · simp [hq]
    · simp [hji]

/-- The active elements of a mask. -/
theorem mem_activeOf {vlen : Nat} {mask : Word} {j : Nat} : j ∈ activeOf vlen mask ↔ (decide (j < vlen) && mask.getLsbD j) = true := by
  simp [activeOf]

theorem lt_of_mem_activeOf {vlen : Nat} {mask : Word} {j : Nat} (h : j ∈ activeOf vlen mask) : j < 64 := by
  rw [mem_activeOf, Bool.and_eq_true] at h
  exact BitVec.lt_of_getLsbD h.2

theorem nodup_activeOf (vlen : Nat) (mask : Word) : (activeOf vlen mask).Nodup := List.nodup_range.filter _

/-- Unmasked, the active elements are those below VLEN. -/
theorem getLsbD_gov_zero (x : Core) {j : Nat} (hj : j < 64) : (x.gov 0).getLsbD j = true := by
  rw [Core.gov, if_pos rfl, show w64 (2 ^ 64 - 1) = BitVec.allOnes 64 from rfl, BitVec.getLsbD_allOnes, decide_eq_true hj]

/-! ### Bits of a mask (R197, R205) -/

theorem getLsbD_each_bits (p : Nat → Bool) (is : List Nat) (m : Word) {j : Nat} (hj : j < 64) :
    (each is m (fun m i => if p i then m ||| (1#64 <<< i) else m &&& ~~~(1#64 <<< i))).getLsbD j
      = if j ∈ is then p j else m.getLsbD j := by
  induction is generalizing m with
  | nil => simp [each]
  | cons i is ih =>
    have hbit : (if p i then m ||| (1#64 <<< i) else m &&& ~~~(1#64 <<< i)).getLsbD j = if j = i then p i else m.getLsbD j := by
      have hone : (1#64 <<< i).getLsbD j = decide (j = i) := by
        rw [BitVec.getLsbD_shiftLeft, BitVec.getLsbD_one, decide_eq_true hj, Bool.true_and]
        by_cases h : j = i
        · simp [h]
        · simp [h]; omega
      split
      · rename_i hp
        rw [BitVec.getLsbD_or, hone]
        by_cases h : j = i
        · simp [h, hp]
        · simp [h]
      · rename_i hp
        rw [BitVec.getLsbD_and, BitVec.getLsbD_not, hone, decide_eq_true hj]
        by_cases h : j = i
        · simp [h, hp]
        · simp [h]
    rw [each_cons, ih, hbit]
    by_cases h : j = i
    · subst h
      simp
    · simp [h]

theorem Core.getLsbD_cmpInto (x : Core) (a : MReg) (is : List Nat) (p : Nat → Bool) (k : MReg) {j : Nat} (hj : j < 64) :
    ((x.cmpInto a is p).mreg k).getLsbD j = if k = a ∧ j ∈ is then p j else (x.mreg k).getLsbD j := by
  rw [Core.cmpInto, Core.mreg_setMk]
  by_cases hk : k = a
  · subst hk
    rw [if_pos rfl, getLsbD_each_bits p is _ hj]
    simp
  · rw [if_neg hk, if_neg (fun h => hk h.1)]

/-! ### Sub-elements (R191) -/

/-- The width of a sub-element and its count make an element. -/
theorem subW_mul_n (t : EType) : subW t * t.n = 32 := by cases t with | _ => rfl

/-- The places of a number in base A, above and below place k. -/
theorem digit_add_mul {A k lo : Nat} (hlo : lo < A ^ k) (x i : Nat) :
    (lo + A ^ k * x) / A ^ i % A = if i < k then lo / A ^ i % A else x / A ^ (i - k) % A := by
  have hA : 0 < A ^ i ∨ A = 0 := by
    rcases Nat.eq_zero_or_pos A with h | h
    · exact .inr h
    · exact .inl (Nat.pow_pos h)
  split
  · rename_i hik
    rcases hA with hpos | rfl
    · obtain ⟨d, rfl⟩ : ∃ d, k = i + (d + 1) := ⟨k - i - 1, by omega⟩
      rw [Nat.pow_add, Nat.mul_assoc, Nat.add_mul_div_left _ _ hpos, Nat.pow_succ', Nat.mul_assoc, Nat.add_mul_mod_self_left]
    · rw [Nat.zero_pow (by omega)] at hlo
      omega
  · rename_i hik
    obtain ⟨d, rfl⟩ : ∃ d, i = k + d := ⟨i - k, by omega⟩
    have hpos : 0 < A ^ k := by omega
    rw [Nat.pow_add, ← Nat.div_div_eq_div_mul, Nat.add_mul_div_left _ _ hpos, Nat.div_eq_of_lt hlo, Nat.zero_add, Nat.add_sub_cancel_left]

/-- One place of a number replaced. -/
theorem digit_replace {A : Nat} (hA : 0 < A) (k e v i : Nat) :
    (e - e / A ^ k % A * A ^ k + v % A * A ^ k) / A ^ i % A = if i = k then v % A else e / A ^ i % A := by
  obtain ⟨lo, hlo⟩ : ∃ lo, e % A ^ k = lo := ⟨_, rfl⟩
  obtain ⟨x, hx⟩ : ∃ x, e / A ^ k = x := ⟨_, rfl⟩
  have hlt : lo < A ^ k := hlo ▸ Nat.mod_lt _ (Nat.pow_pos hA)
  have he : e = lo + A ^ k * x := by rw [← hlo, ← hx, Nat.mod_add_div]
  have hle : x % A ≤ x := Nat.mod_le x A
  have hnew : e - x % A * A ^ k + v % A * A ^ k = lo + A ^ k * (x - x % A + v % A) := by
    have hmul : x % A * A ^ k ≤ A ^ k * x := by rw [Nat.mul_comm]; exact Nat.mul_le_mul_left _ hle
    rw [he, Nat.mul_add, Nat.mul_sub, Nat.mul_comm (A ^ k) (x % A), Nat.mul_comm (A ^ k) (v % A)]
    omega
  rw [hx, hnew, digit_add_mul hlt]
  conv_rhs => rw [he, digit_add_mul hlt]
  have hbase : x - x % A + v % A = v % A + A * (x / A) := by
    have := Nat.mod_add_div x A
    omega
  have hv : v % A < A ^ 1 := by rw [Nat.pow_one]; exact Nat.mod_lt _ hA
  have hself : x = x % A + A ^ 1 * (x / A) := by rw [Nat.pow_one, Nat.mod_add_div]
  by_cases hik : i < k
  · rw [if_pos hik, if_pos hik, if_neg (by omega)]
  · rw [if_neg hik, if_neg hik, hbase]
    conv_lhs => rw [← Nat.pow_one A, Nat.pow_one A]
    rw [show v % A + A * (x / A) = v % A + A ^ 1 * (x / A) by rw [Nat.pow_one], digit_add_mul hv]
    by_cases h : i = k
    · rw [if_pos (by omega), if_pos h, show i - k = 0 by omega, Nat.pow_zero, Nat.div_one, Nat.mod_mod]
    · rw [if_neg (by omega), if_neg h]
      conv_rhs => rw [hself, digit_add_mul (show x % A < A ^ 1 by rw [Nat.pow_one]; exact Nat.mod_lt _ hA)]
      rw [if_neg (by omega)]

theorem subW_le (t : EType) {i : Nat} (hi : i < t.n) : subW t * i + subW t ≤ 32 := by
  have h : subW t * (i + 1) ≤ subW t * t.n := Nat.mul_le_mul_left _ hi
  rwa [subW_mul_n, Nat.mul_succ] at h

theorem subAt_lt (t : EType) (e : BitVec 32) (k : Nat) : subAt t e k < 2 ^ subW t := Nat.mod_lt _ (Nat.two_pow_pos _)

/-- A sub-element after one has been replaced. -/
theorem subAt_setSub (t : EType) (e : BitVec 32) (k v : Nat) {i : Nat} (hi : i < t.n) :
    subAt t (setSub t e k v) i = if i = k then v % 2 ^ subW t else subAt t e i := by
  have hle := subW_le t hi
  have hcut (r : Nat) : r % 2 ^ 32 / 2 ^ (subW t * i) % 2 ^ subW t = r / 2 ^ (subW t * i) % 2 ^ subW t := by
    rw [show (32 : Nat) = subW t * i + (32 - subW t * i) by omega, Nat.pow_add, Nat.mod_mul_right_div_self]
    exact Nat.mod_mod_of_dvd _ (Nat.pow_dvd_pow 2 (by omega))
  have hdigit := digit_replace (Nat.two_pow_pos (subW t)) k e.toNat v i
  simp only [← Nat.pow_mul] at hdigit
  rw [subAt, setSub, BitVec.toNat_ofNat, hcut]
  exact hdigit

/-- Replacing sub-elements at other places leaves one as it is. -/
theorem subAt_each_setSub_ne (t : EType) (place val : Nat → Nat) {i : Nat} (hi : i < t.n) {ks : List Nat} (hk : ∀ k ∈ ks, place k ≠ i)
    (e : BitVec 32) : subAt t (each ks e (fun e k => setSub t e (place k) (val k))) i = subAt t e i := by
  induction ks generalizing e with
  | nil => rfl
  | cons k ks ih =>
    rw [each_cons, ih (fun j hj => hk j (List.mem_cons_of_mem _ hj)), subAt_setSub t e _ _ hi,
      if_neg (Ne.symm (hk k List.mem_cons_self))]

/-- The sub-element at the place of one of those replaced, each at its own place. -/
theorem subAt_each_setSub (t : EType) {place : Nat → Nat} (hinj : ∀ j k, place j = place k → j = k) (val : Nat → Nat) {ks : List Nat}
    {k : Nat} (hk : k ∈ ks) (hi : place k < t.n) (e : BitVec 32) :
    subAt t (each ks e (fun e k => setSub t e (place k) (val k))) (place k) = val k % 2 ^ subW t := by
  induction ks generalizing e with
  | nil => cases hk
  | cons j ks ih =>
    rw [each_cons]
    by_cases hks : k ∈ ks
    · exact ih hks _
    · obtain rfl : k = j := (List.mem_cons.1 hk).resolve_right hks
      rw [subAt_each_setSub_ne t place val hi (fun m hm h => hks (hinj _ _ h ▸ hm)), subAt_setSub t e _ _ hi, if_pos rfl]

theorem subAt_packSub (t : EType) (f : Nat → Nat) {i : Nat} (hi : i < t.n) : subAt t (packSub t f) i = f i % 2 ^ subW t :=
  subAt_each_setSub t (place := fun k => k) (fun _ _ h => h) f (List.mem_range.2 hi) hi 0

/-! ### The head of the queue starts and completes (R183, R185, R190) -/

/-- The head of a core's vector queue has run its duration; it waits for no page, and meets no stored error. -/
structure State.VecDue (s : State) (c : Nat) (e : VEntry) (r : List VEntry) : Prop where
  queue : (s.coreAt c).vec.queue = e :: r
  due : ∃ n, e.fin = some n ∧ n ≤ s.now
  page : (s.coreAt c).vec.page = none
  hurt : (s.coreAt c).vec.hurt = []
  tableHurt : (s.coreAt c).vec.tableHurt = none
  entry : e.hurt = none

/-- An instruction with elements takes a step at least. -/
theorem vecDuration_eq_zero_iff (e : VEntry) : vecDuration e = 0 ↔ e.vlen = 0 := by
  unfold vecDuration
  split
  · rename_i h
    exact iff_of_true rfl h
  · rename_i h
    refine iff_of_false ?_ h
    split
    all_goals decide

/-- A core whose head starts. -/
theorem exec_vectorQueueStart_of_head {s : State} {c : Nat} {e : VEntry} {r : List VEntry} (hq : (s.coreAt c).vec.queue = e :: r)
    (hf : e.fin = none) : ∃ t, exec (.vectorQueueStart c) s = .next t
      ∧ (t.coreAt c).vec.queue = { e with fin := some (s.now + vecDuration e) } :: r
      ∧ t.agenda = if e.vlen = 0 then .vectorQueueComplete c :: s.agenda else s.agenda := by
  obtain ⟨u, hu⟩ : ∃ u, s.modCore c (fun x =>
    { x with vec := { x.vec with queue := { e with fin := some (s.now + vecDuration e) } :: r } }) = u := ⟨_, rfl⟩
  have hcore : (u.coreAt c).vec.queue = { e with fin := some (s.now + vecDuration e) } :: r := by
    rw [← hu, State.coreAt_modCore_self]
  have hagenda : u.agenda = s.agenda := hu ▸ rfl
  simp only [exec, execVectorQueueStart, hq, hf, Option.isSome_none, Bool.false_eq_true, if_false, hu, vecDuration_eq_zero_iff]
  split
  · exact ⟨_, rfl, hcore, congrArg _ hagenda⟩
  · exact ⟨_, rfl, hcore, hagenda⟩

theorem exec_vectorQueueStart_of_started {s : State} {c : Nat} {e : VEntry} {r : List VEntry} (hq : (s.coreAt c).vec.queue = e :: r)
    (hf : e.fin ≠ none) : exec (.vectorQueueStart c) s = .next s := by
  simp only [exec, execVectorQueueStart, hq, Option.isSome_iff_ne_none.2 hf, if_true]

/-- A state with other events to come. -/
def State.withAgenda (s : State) (ag : List Event) : State := { s with agenda := ag }

@[simp] theorem State.coreAt_withAgenda (s : State) (ag : List Event) (c : Nat) : (s.withAgenda ag).coreAt c = s.coreAt c := rfl

/-- The event completes the head, and may have the next one start in the same step. -/
theorem exec_vectorQueueComplete (s : State) (c : Nat) :
    ∃ ag, exec (.vectorQueueComplete c) s = .next ((s.vecComplete c).withAgenda ag) := by
  simp only [exec, execVectorQueueComplete]
  split
  · split
    · exact ⟨_, rfl⟩
    · exact ⟨(s.vecComplete c).agenda, rfl⟩
  · exact ⟨(s.vecComplete c).agenda, rfl⟩

/-- No entry starts where the queue is empty, or its head has started. -/
theorem exec_vectorQueueComplete_of_started {s t : State} {c : Nat} (ht : s.vecComplete c = t)
    (h : ∀ f ∈ (t.coreAt c).vec.queue, ∀ l, (t.coreAt c).vec.queue = f :: l → f.fin ≠ none) :
    exec (.vectorQueueComplete c) s = .next t := by
  simp only [exec, execVectorQueueComplete, ht]
  split
  · rename_i f l hq
    have hfin := h f (hq ▸ List.mem_cons_self) l hq
    rw [if_neg]
    simp [hfin]
  · rfl

/-- Before its step the head has no effect. -/
theorem exec_vectorQueueComplete_early {s : State} {c n : Nat} {e : VEntry} {r : List VEntry} (hq : (s.coreAt c).vec.queue = e :: r)
    (hf : e.fin = some n) (hn : s.now < n) : exec (.vectorQueueComplete c) s = .next s := by
  refine exec_vectorQueueComplete_of_started ?_ fun f _ l hl => ?_
  · simp [State.vecComplete, hq, hf, hn]
  · rw [hq] at hl
    cases hl
    simp [hf]

/-- The instructions whose effect is on the registers of their core alone, but for VCVT, which draws. -/
def onRegisters : Instr → Bool
  | .vld .. | .vst .. | .vldl .. | .vstl .. | .vlds .. | .vgath .. | .vscat .. | .ppld _ | .vcvt .. => false
  | _ => true

theorem vmemOf_of_onRegisters {i : Instr} (hi : onRegisters i = true) (x : Core) (ops : List Word) : vmemOf x i ops = none := by
  cases i with
  | vld | vst | vldl | vstl | vlds | vgath | vscat => cases hi
  | _ => rfl

/-- A core whose head leaves the queue. -/
def Core.vecPopped (x : Core) : Core := { x with vec := { x.vec with queue := x.vec.queue.tail } }

theorem State.coreAt_vecPop (s : State) (c d : Nat) :
    (s.vecPop c).coreAt d = if d = c then (s.coreAt c).vecPopped else s.coreAt d := s.coreAt_modCore c d Core.vecPopped

section
variable {s : State} {c : Nat} {e : VEntry} {r : List VEntry} (h : s.VecDue c e r)
include h

theorem State.VecDue.meets : s.vecMeet c e = (s, false) := by
  simp [State.vecMeet, h.hurt, h.tableHurt, h.entry]

/-- A memory instruction performs its remaining elements. -/
theorem State.VecDue.complete_memory {m : VMem} (hm : vmemOf (s.coreAt c) e.instr e.ops = some m) :
    s.vecComplete c = s.vmemRun c (s.coreAt c).cid e m := by
  obtain ⟨n, hn, hle⟩ := h.due
  simp [State.vecComplete, h.queue, hn, h.page, Nat.not_lt.2 hle, h.meets, hm]

theorem State.VecDue.complete_table {b : GReg} (hi : e.instr = .ppld b) : s.vecComplete c = s.ppldRun c e := by
  obtain ⟨n, hn, hle⟩ := h.due
  simp [State.vecComplete, h.queue, hn, h.page, Nat.not_lt.2 hle, h.meets, hi, vmemOf]

theorem State.VecDue.complete_convert {t u : EType} {m : CvtMode} {p : BitVec 3} {a b d : VReg} {k : MReg}
    (hi : e.instr = .vcvt t u m p a b d k) : s.vecComplete c = (s.doVcvt c e t u m p.toNat a b d k).vecPop c := by
  obtain ⟨n, hn, hle⟩ := h.due
  simp [State.vecComplete, h.queue, hn, h.page, Nat.not_lt.2 hle, h.meets, hi, vmemOf]

theorem State.VecDue.complete_registers (hi : onRegisters e.instr = true) :
    s.vecComplete c = s.modCore c (fun x => (x.vecEffect e).vecPopped) := by
  obtain ⟨n, hn, hle⟩ := h.due
  have hpop : s.vecComplete c = (s.modCore c (fun x => x.vecEffect e)).vecPop c := by
    simp only [State.vecComplete, h.queue, hn, h.page, Nat.not_lt.2 hle, h.meets, vmemOf_of_onRegisters hi, decide_false,
      Option.isSome_none, Bool.or_false, Bool.false_eq_true, if_false]
    split
    · rename_i hb
      rw [hb] at hi
      cases hi
    · rename_i hb
      rw [hb] at hi
      cases hi
    · rfl
  rw [hpop]
  exact State.modCore_modCore _ _ _ _

end

/-! ### What a completion leaves (R183) -/

/-- The head of a core's queue completes and leaves it, and of the module only registers of that core have changed. -/
def State.VecRuns (s : State) (c : Nat) (r : List VEntry) (p : Core → Prop) : Prop :=
  ∃ u, (exec (.vectorQueueComplete c) s = .next u ∧ (u.coreAt c).vec.queue = r) ∧ (∀ d, d ≠ c → u.coreAt d = s.coreAt d)
    ∧ (u.coreAt c).loc = (s.coreAt c).loc ∧ u = { s with cores := u.cores, agenda := u.agenda, core := u.core, ctx := u.ctx }
    ∧ p (u.coreAt c)

/-- The general registers of context 0 of a core are as before. -/
def Core.SameG (x y : Core) : Prop := ∀ g, (y.ctxAt 0).reg g = (x.ctxAt 0).reg g
/-- Its vector registers. -/
def Core.SameV (x y : Core) : Prop := ∀ q j, j < 64 → y.ve q j = x.ve q j
/-- Its mask registers. -/
def Core.SameM (x y : Core) : Prop := ∀ k, y.mreg k = x.mreg k

/-- The elements of a vector register that a test picks are set. -/
def Core.ElemsSet (x : Core) (a : VReg) (live : Nat → Bool) (f : Nat → BitVec 32) (y : Core) : Prop :=
  x.SameG y ∧ x.SameM y ∧ ∀ q j, j < 64 → y.ve q j = if q = a ∧ live j = true then f j else x.ve q j
/-- The sub-elements of those elements. -/
def Core.SubsSet (x : Core) (t : EType) (a : VReg) (live : Nat → Bool) (f : Nat → Nat → Nat) (y : Core) : Prop :=
  x.SameG y ∧ x.SameM y ∧ (∀ q j, j < 64 → ¬(q = a ∧ live j = true) → y.ve q j = x.ve q j)
    ∧ ∀ j i, live j = true → i < t.n → subAt t (y.ve a j) i = f j i % 2 ^ subW t
/-- The bits of a mask register that a test picks. -/
def Core.BitsSet (x : Core) (a : MReg) (live f : Nat → Bool) (y : Core) : Prop :=
  x.SameG y ∧ x.SameV y ∧ ∀ k j, j < 64 → (y.mreg k).getLsbD j = if k = a ∧ live j = true then f j else (x.mreg k).getLsbD j
/-- The general registers of context 0, from those before. -/
def Core.RegsSet (x : Core) (f : GReg → Word) (y : Core) : Prop :=
  x.SameV y ∧ x.SameM y ∧ ∀ g, (y.ctxAt 0).reg g = f g

/-- The effect of an entry is that of its instruction with its operands. -/
theorem Core.vecEffect_of_instr {e : VEntry} {i : Instr} (hi : e.instr = i) (x : Core) : x.vecEffect e = x.vecEffect { e with instr := i } := by
  rw [← hi]

section
variable {s : State} {c : Nat} {e : VEntry} {r : List VEntry} (h : s.VecDue c e r) {i : Instr} (hi : e.instr = i)
  (hreg : onRegisters i = true)
include h hi hreg

/-- A register instruction makes its effect on its core. -/
theorem State.VecDue.runs {y : Core} (hy : (s.coreAt c).vecEffect { e with instr := i } = y) (hloc : y.loc = (s.coreAt c).loc)
    (hqueue : y.vec.queue = (s.coreAt c).vec.queue) {p : Core → Prop} (hp : p y.vecPopped) : s.VecRuns c r p := by
  have heff : (s.coreAt c).vecEffect e = y := (Core.vecEffect_of_instr hi _).trans hy
  obtain ⟨ag, hexec⟩ := exec_vectorQueueComplete s c
  rw [h.complete_registers (hi ▸ hreg)] at hexec
  have hcore : ((s.modCore c (fun x => (x.vecEffect e).vecPopped)).withAgenda ag).coreAt c = y.vecPopped := by
    rw [State.coreAt_withAgenda, State.coreAt_modCore_self, heff]
  refine ⟨_, ⟨hexec, ?_⟩, fun d hd => ?_, ?_, rfl, ?_⟩
  · rw [hcore, Core.vecPopped, hqueue, h.queue]
    rfl
  · rw [State.coreAt_withAgenda, State.coreAt_modCore, if_neg hd]
  · rw [hcore]
    exact hloc
  · rwa [hcore]

theorem State.VecDue.elems {a : VReg} {is : List Nat} {f : Nat → BitVec 32} {live : Nat → Bool}
    (hy : (s.coreAt c).vecEffect { e with instr := i } = (s.coreAt c).mapElems a is f) (his : ∀ j ∈ is, j < 64)
    (hlive : ∀ j, j < 64 → (j ∈ is ↔ live j = true)) : s.VecRuns c r ((s.coreAt c).ElemsSet a live f) := by
  obtain ⟨hsame, hctxs, hm⟩ := (s.coreAt c).mapElems_keeps a is f
  refine h.runs hi hreg hy hsame.loc hsame.queue ⟨fun g => ?_, fun k => ?_, fun q j hj => ?_⟩
  · exact congrArg (fun l => (sget (Ctx.reset 0) l 0).reg g) hctxs
  · exact congrArg (fun l => sget 0 l k.toNat) hm
  · refine ((s.coreAt c).ve_mapElems a his f q hj).trans ?_
    simp only [hlive j hj]

/-- The active elements of a masked instruction. -/
theorem State.VecDue.active {a : VReg} {k : MReg} {f : Nat → BitVec 32}
    (hy : (s.coreAt c).vecEffect { e with instr := i } = (s.coreAt c).mapElems a (activeOf e.vlen ((s.coreAt c).gov k)) f) :
    s.VecRuns c r ((s.coreAt c).ElemsSet a (fun j => decide (j < e.vlen) && ((s.coreAt c).gov k).getLsbD j) f) :=
  h.elems hi hreg hy (fun _ hj => lt_of_mem_activeOf hj) fun _ _ => mem_activeOf

end

theorem State.VecRuns.imp {s : State} {c : Nat} {r : List VEntry} {p q : Core → Prop} (h : s.VecRuns c r p) (hpq : ∀ y, p y → q y) :
    s.VecRuns c r q := by
  obtain ⟨u, hends, hcores, hloc, hrest, hp⟩ := h
  exact ⟨u, hends, hcores, hloc, hrest, hpq _ hp⟩

section
variable {s : State} {c : Nat} {e : VEntry} {r : List VEntry} (h : s.VecDue c e r) {i : Instr} (hi : e.instr = i)
  (hreg : onRegisters i = true)
include h hi hreg

/-- The sub-elements of the active elements, each by one rule. -/
theorem State.VecDue.subs {t : EType} {a : VReg} {k : MReg} {g : Nat → Nat → Nat}
    (hy : (s.coreAt c).vecEffect { e with instr := i }
      = (s.coreAt c).mapElems a (activeOf e.vlen ((s.coreAt c).gov k)) (fun j => packSub t (g j)))
    {f : Nat → Nat → Nat} (hf : ∀ j l, g j l % 2 ^ subW t = f j l % 2 ^ subW t) :
    s.VecRuns c r ((s.coreAt c).SubsSet t a (fun j => decide (j < e.vlen) && ((s.coreAt c).gov k).getLsbD j) f) := by
  refine (h.active hi hreg hy).imp fun y hset => ?_
  obtain ⟨hG, hM, hV⟩ := hset
  refine ⟨hG, hM, fun q j hj hn => (hV q j hj).trans (if_neg hn), fun j l hj hl => ?_⟩
  have hlt : j < 64 := lt_of_mem_activeOf (mem_activeOf.2 hj)
  rw [hV a j hlt, if_pos ⟨rfl, hj⟩, subAt_packSub t _ hl, hf]

/-- Bits of a mask register, each by one rule. -/
theorem State.VecDue.bits {a : MReg} {is : List Nat} {f live : Nat → Bool}
    (hy : (s.coreAt c).vecEffect { e with instr := i } = (s.coreAt c).cmpInto a is f) (hlive : ∀ j, j < 64 → (j ∈ is ↔ live j = true)) :
    s.VecRuns c r ((s.coreAt c).BitsSet a live f) := by
  refine h.runs hi hreg hy rfl rfl ⟨fun _ => rfl, fun _ _ _ => rfl, fun k j hj => ?_⟩
  refine ((s.coreAt c).getLsbD_cmpInto a is f k hj).trans ?_
  simp only [hlive j hj]

/-- A whole mask register. -/
theorem State.VecDue.mask {a : MReg} {v : Word} (hy : (s.coreAt c).vecEffect { e with instr := i } = (s.coreAt c).setMk a v) :
    s.VecRuns c r ((s.coreAt c).BitsSet a (fun _ => true) (fun j => v.getLsbD j)) := by
  refine h.runs hi hreg hy rfl rfl ⟨fun _ => rfl, fun _ _ _ => rfl, fun k j hj => ?_⟩
  refine (congrArg (fun w : Word => w.getLsbD j) ((s.coreAt c).mreg_setMk a k v)).trans ?_
  by_cases hk : k = a
  · simp [hk]
  · simp [hk]

/-- General registers of context 0. -/
theorem State.VecDue.regs {f : Ctx → Ctx} (hy : (s.coreAt c).vecEffect { e with instr := i } = (s.coreAt c).modCtx 0 f) :
    s.VecRuns c r ((s.coreAt c).RegsSet (fun g => (f ((s.coreAt c).ctxAt 0)).reg g)) :=
  h.runs hi hreg hy rfl rfl ⟨fun _ _ _ => rfl, fun _ => rfl, fun g => congrArg (fun x : Ctx => x.reg g) (Core.ctxAt_modCtx_self _ _ _)⟩

/-- One general register. -/
theorem State.VecDue.reg {a : GReg} {v w : Word} (hy : (s.coreAt c).vecEffect { e with instr := i } = (s.coreAt c).setG0 a v) (hv : v = w) :
    s.VecRuns c r ((s.coreAt c).RegsSet (fun g => if g = a ∧ a ≠ 0 then w else ((s.coreAt c).ctxAt 0).reg g)) := by
  subst hv
  exact (h.regs hi hreg hy).imp fun y hy => ⟨hy.1, hy.2.1, fun g => (hy.2.2 g).trans (Ctx.reg_setReg _ _ _ _)⟩

end

end Sys2Proof.Machine
end

section

/-! PROOFS. The vector queue: instructions on registers, and the table (spec/07 R193 to R209). -/

namespace Sys2Proof.Machine

/-! ### The rules of the elements (R193 to R198, R205, R209) -/

/-- A sub-element is the wrapped value that it stands for. -/
theorem subWrap_subInt {t : EType} {u : Nat} (hu : u < 2 ^ subW t) : subWrap t (subInt t u) = u := by
  rw [subWrap, subInt, BitVec.ofInt_toInt, BitVec.toNat_ofNat, Nat.mod_eq_of_lt hu]

/-- The smaller and the larger of two integers are those of the values they stand for (R193). -/
theorem vop_min {t : EType} {u v : Nat} (hu : u < 2 ^ subW t) (hv : v < 2 ^ subW t) : vop .min t u v =
    if t.isInt then subWrap t (min (subInt t u) (subInt t v)) else enc (efmt t) (fMin (dec (efmt t) u) (dec (efmt t) v)) .ne := by
  simp only [vop]
  split
  · by_cases h : subInt t v < subInt t u
    · rw [if_pos h, min_eq_right h.le, subWrap_subInt hv]
    · rw [if_neg h, min_eq_left (not_lt.1 h), subWrap_subInt hu]
  · rfl

theorem vop_max {t : EType} {u v : Nat} (hu : u < 2 ^ subW t) (hv : v < 2 ^ subW t) : vop .max t u v =
    if t.isInt then subWrap t (max (subInt t u) (subInt t v)) else enc (efmt t) (fMax (dec (efmt t) u) (dec (efmt t) v)) .ne := by
  simp only [vop]
  split
  · by_cases h : subInt t u < subInt t v
    · rw [if_pos h, max_eq_right h.le, subWrap_subInt hv]
    · rw [if_neg h, max_eq_left (not_lt.1 h), subWrap_subInt hu]
  · rfl

section
variable {s : State} {c : Nat} {e : VEntry} {r : List VEntry} (h : s.VecDue c e r)
include h

/-- Major 0x30 and VFMA: each sub-element by the rule of its instruction (R193, R195). -/
theorem State.VecDue.arithmetic (t : EType) (a b d f : VReg) (k : MReg) :
    let x := s.coreAt c
    let on (j : Nat) : Bool := decide (j < e.vlen) && (x.gov k).getLsbD j
    let sets (g : Nat → Nat → Nat) : Prop := s.VecRuns c r (x.SubsSet t a on g)
    let u (q : VReg) (j i : Nat) : Nat := subAt t (x.ve q j) i
    let arith (int : Int → Int → Int) (fp : FVal → FVal → FVal) : Prop := sets (fun j i =>
      if t.isInt then subWrap t (int (subInt t (u b j i)) (subInt t (u d j i)))
      else enc (efmt t) (fp (dec (efmt t) (u b j i)) (dec (efmt t) (u d j i))) .ne)
    let bitwise (g : Nat → Nat → Nat) : Prop := sets (fun j i => g (u b j i) (u d j i))
    let w (n : Nat) : BitVec (subW t) := BitVec.ofNat (subW t) n
    (e.instr = .vadd t a b d k → arith (· + ·) fAdd)
      ∧ (e.instr = .vsub t a b d k → arith (· - ·) (fun u v => fAdd u v.negate))
      ∧ (e.instr = .vmul t a b d k → arith (· * ·) fMul)
      ∧ (e.instr = .vmin t a b d k → arith min fMin) ∧ (e.instr = .vmax t a b d k → arith max fMax)
      ∧ (e.instr = .vand t a b d k → bitwise (· &&& ·)) ∧ (e.instr = .vor t a b d k → bitwise (· ||| ·))
      ∧ (e.instr = .vxor t a b d k → bitwise (· ^^^ ·))
      ∧ (e.instr = .vshl t a b d k → bitwise (fun u v => (shlW (w u) v).toNat))
      ∧ (e.instr = .vshrl t a b d k → bitwise (fun u v => (shrlW (w u) v).toNat))
      ∧ (e.instr = .vshra t a b d k → bitwise (fun u v => (shraW (w u) v).toNat))
      ∧ (e.instr = .vabs t a b k → sets (fun j i => vsign true t (u b j i)))
      ∧ (e.instr = .vneg t a b k → sets (fun j i => vsign false t (u b j i)))
      ∧ (e.instr = .vfma t a b d f k → sets (fun j i =>
          if t.isInt then subWrap t (subInt t (u b j i) * subInt t (u d j i) + subInt t (u f j i))
          else enc (efmt t) (fAdd (fMul (dec (efmt t) (u b j i)) (dec (efmt t) (u d j i))) (dec (efmt t) (u f j i))) .ne)) := by
  intro x on sets u arith bitwise w
  have hlt (q : VReg) (j i : Nat) : u q j i < 2 ^ subW t := subAt_lt t _ _
  exact ⟨fun he => h.subs he rfl rfl fun _ _ => rfl, fun he => h.subs he rfl rfl fun _ _ => rfl, fun he => h.subs he rfl rfl fun _ _ => rfl,
    fun he => h.subs he rfl rfl fun j i => congrArg (· % 2 ^ subW t) (vop_min (hlt b j i) (hlt d j i)),
    fun he => h.subs he rfl rfl fun j i => congrArg (· % 2 ^ subW t) (vop_max (hlt b j i) (hlt d j i)),
    fun he => h.subs he rfl rfl fun _ _ => rfl, fun he => h.subs he rfl rfl fun _ _ => rfl, fun he => h.subs he rfl rfl fun _ _ => rfl,
    fun he => h.subs he rfl rfl fun _ _ => rfl, fun he => h.subs he rfl rfl fun _ _ => rfl, fun he => h.subs he rfl rfl fun _ _ => rfl,
    fun he => h.subs he rfl rfl fun _ _ => rfl, fun he => h.subs he rfl rfl fun _ _ => rfl, fun he => h.subs he rfl rfl fun _ _ => rfl⟩

/-- Comparisons write the active bits of their mask (R197). -/
theorem State.VecDue.comparisons (t : EType) (a : MReg) (b d : VReg) (k : MReg) :
    let x := s.coreAt c
    let rel (int : Int → Int → Bool) (fp : FVal → FVal → Bool) : Prop :=
      s.VecRuns c r (x.BitsSet a (fun j => decide (j < e.vlen) && (x.gov k).getLsbD j) (fun j =>
        if t.isInt then int (x.ve b j).toInt (x.ve d j).toInt else fp (dec .f32 (x.ve b j).toNat) (dec .f32 (x.ve d j).toNat)))
    (e.instr = .vseq t a b d k → rel (fun u v => decide (u = v)) fEq)
      ∧ (e.instr = .vslt t a b d k → rel (fun u v => decide (u < v)) fLt)
      ∧ (e.instr = .vsle t a b d k → rel (fun u v => decide (u ≤ v)) fLe) :=
  ⟨fun he => h.bits he rfl rfl fun _ _ => mem_activeOf, fun he => h.bits he rfl rfl fun _ _ => mem_activeOf,
    fun he => h.bits he rfl rfl fun _ _ => mem_activeOf⟩

/-- Moves of whole elements, a register broadcast and an element extracted, and the polynomial unit (R198, R209). -/
theorem State.VecDue.moves (t : EType) (ft : FType) (a b d : VReg) (g i : GReg) (f k : MReg) :
    let x := s.coreAt c
    let on (j : Nat) : Bool := decide (j < e.vlen) && (x.gov k).getLsbD j
    let v := opAt e.ops 0
    (e.instr = .vsel a b d f → s.VecRuns c r (x.ElemsSet a (fun j => decide (j < e.vlen)) (fun j =>
        if (x.mreg f).getLsbD j then x.ve b j else x.ve d j)))
      ∧ (e.instr = .vperm a b d k → s.VecRuns c r (x.ElemsSet a on (fun j =>
          if (x.ve d j).toNat < e.vlen then x.ve b (x.ve d j).toNat else 0)))
      ∧ (e.instr = .vbcast t a g k → s.VecRuns c r (x.SubsSet t a on (fun _ _ => v.toNat)))
      ∧ (e.instr = .vext g b i → s.VecRuns c r (x.RegsSet (fun q =>
          if q = g ∧ g ≠ 0 then (if v.toNat < e.vlen then (x.ve b v.toNat).setWidth 64 else 0) else (x.ctxAt 0).reg q)))
      ∧ (e.instr = .ppev ft a b k → s.VecRuns c r (x.SubsSet (etypeOf ft) a on (fun j i =>
          ppev1 x.vec ft (subAt (etypeOf ft) (x.ve b j) i)))) :=
  ⟨fun he => h.elems he rfl rfl (fun _ hj => lt_of_mem_activeOf hj) fun j hj => by
      rw [mem_activeOf, getLsbD_gov_zero _ hj, Bool.and_true],
    fun he => h.active he rfl rfl, fun he => h.subs he rfl rfl fun _ _ => rfl, fun he => h.reg he rfl rfl rfl,
    fun he => h.subs he rfl rfl fun _ _ => rfl⟩

end

/-! ### Reductions (R204) -/

/-- Order in the direction of a reduction. -/
def inOrder (maxDir : Bool) (u v : Int) : Prop := if maxDir then u ≤ v else v ≤ u

theorem inOrder_refl (maxDir : Bool) (u : Int) : inOrder maxDir u u := by cases maxDir with | _ => exact le_refl u

theorem inOrder.trans {maxDir : Bool} {u v w : Int} (h : inOrder maxDir u v) (k : inOrder maxDir v w) : inOrder maxDir u w := by
  cases maxDir with
  | true => exact le_trans h k
  | false => exact le_trans k h

/-- The better of two 32-bit integers is one of them, and behind neither. -/
theorem vop_best (maxDir : Bool) (u v : Nat) : ∃ z, vop (if maxDir then .max else .min) .w u v = z ∧ (z = u ∨ z = v)
    ∧ inOrder maxDir (subInt .w u) (subInt .w z) ∧ inOrder maxDir (subInt .w v) (subInt .w z) := by
  cases maxDir with
  | true =>
    by_cases h : subInt .w u < subInt .w v
    · exact ⟨v, if_pos h, .inr rfl, h.le, le_refl (subInt .w v)⟩
    · exact ⟨u, if_neg h, .inl rfl, le_refl (subInt .w u), not_lt.1 h⟩
  | false =>
    by_cases h : subInt .w v < subInt .w u
    · exact ⟨v, if_pos h, .inr rfl, h.le, le_refl (subInt .w v)⟩
    · exact ⟨u, if_neg h, .inl rfl, le_refl (subInt .w u), not_lt.1 h⟩

/-- The best of 32-bit integers is one of them, and behind none. -/
theorem redBest_spec (maxDir : Bool) {l : List (Nat × Nat)} (hl : l ≠ []) :
    (∃ p ∈ l, redBest .w maxDir l = p.2) ∧ ∀ p ∈ l, inOrder maxDir (subInt .w p.2) (subInt .w (redBest .w maxDir l)) := by
  have key (l : List (Nat × Nat)) (b : Nat) : ∃ z, l.foldl (fun b x => vop (if maxDir then .max else .min) .w b x.2) b = z
      ∧ (z = b ∨ ∃ p ∈ l, z = p.2) ∧ inOrder maxDir (subInt .w b) (subInt .w z) ∧ ∀ p ∈ l, inOrder maxDir (subInt .w p.2) (subInt .w z) := by
    induction l generalizing b with
    | nil => exact ⟨b, rfl, .inl rfl, inOrder_refl _ _, fun p hp => nomatch hp⟩
    | cons q l ih =>
      obtain ⟨y, hy, hmem, hb, hq⟩ := vop_best maxDir b q.2
      obtain ⟨z, hz, hzmem, hyz, hlz⟩ := ih y
      refine ⟨z, by rw [List.foldl_cons, hy, hz], ?_, hb.trans hyz, fun p hp => ?_⟩
      · rcases hzmem with rfl | ⟨p, hp, rfl⟩
        · rcases hmem with rfl | rfl
          · exact .inl rfl
          · exact .inr ⟨q, List.mem_cons_self, rfl⟩
        · exact .inr ⟨p, List.mem_cons_of_mem _ hp, rfl⟩
      · rcases List.mem_cons.1 hp with rfl | hp
        · exact hq.trans hyz
        · exact hlz p hp
  cases l with
  | nil => exact absurd rfl hl
  | cons q l =>
    obtain ⟨y, hy, hmem, hq, -⟩ := vop_best maxDir q.2 q.2
    obtain ⟨z, hz, hzmem, hyz, hlz⟩ := key l y
    have hbest : redBest .w maxDir (q :: l) = z := by rw [← hz, ← hy]; rfl
    obtain rfl : y = q.2 := hmem.elim id id
    rw [hbest]
    refine ⟨?_, fun p hp => ?_⟩
    · rcases hzmem with rfl | ⟨p, hp, rfl⟩
      · exact ⟨q, List.mem_cons_self, rfl⟩
      · exact ⟨p, List.mem_cons_of_mem _ hp, rfl⟩
    · rcases List.mem_cons.1 hp with rfl | hp
      · exact hyz
      · exact hlz p hp

/-- A 32-bit element is its own sub-element. -/
theorem redVals_w (x : Core) (b : VReg) (is : List Nat) : redVals .w x b is = is.map (fun i => (i, (x.ve b i).toNat)) := by
  have hsub (e : BitVec 32) : subAt .w e 0 = e.toNat := by
    show e.toNat / 2 ^ 0 % 2 ^ 32 = e.toNat
    rw [Nat.pow_zero, Nat.div_one, Nat.mod_eq_of_lt e.isLt]
  rw [redVals, List.map_eq_flatMap]
  refine List.flatMap_congr fun i _ => ?_
  show [(i * 1 + 0, subAt .w (x.ve b i) 0)] = _
  rw [hsub, Nat.mul_one, Nat.add_zero]

theorem subInt_w (v : BitVec 32) : subInt .w v.toNat = v.toInt := by
  show (BitVec.ofNat 32 v.toNat).toInt = v.toInt
  rw [BitVec.ofNat_toNat, BitVec.setWidth_eq]

theorem redImage_w (v : BitVec 32) : redImage .w v.toNat = v.signExtend 64 := by
  show (BitVec.ofNat 32 v.toNat).signExtend 64 = _
  rw [BitVec.ofNat_toNat, BitVec.setWidth_eq]

/-- The largest or smallest of 32-bit integer elements, as the register takes it (R204). -/
theorem redImage_redBest (maxDir : Bool) (x : Core) (b : VReg) {is : List Nat} (his : is ≠ []) :
    ∃ v, redImage .w (redBest .w maxDir (redVals .w x b is)) = v ∧ (∃ j ∈ is, v = (x.ve b j).signExtend 64)
      ∧ ∀ j ∈ is, inOrder maxDir (x.ve b j).toInt v.toInt := by
  rw [redVals_w]
  obtain ⟨⟨p, hp, hbest⟩, hall⟩ := redBest_spec maxDir (l := is.map (fun i => (i, (x.ve b i).toNat))) (by simpa using his)
  obtain ⟨j, hj, rfl⟩ := List.mem_map.1 hp
  rw [hbest] at hall ⊢
  refine ⟨_, redImage_w _, ⟨j, hj, rfl⟩, fun i hi => ?_⟩
  have hle := hall _ (List.mem_map_of_mem hi)
  rwa [subInt_w, subInt_w, ← BitVec.toInt_signExtend_of_le (x := x.ve b j) (show 32 ≤ 64 by decide)] at hle

section
variable {s : State} {c : Nat} {e : VEntry} {r : List VEntry} (h : s.VecDue c e r)
include h

/-- The reductions (R204). -/
theorem State.VecDue.reductions (t : EType) (a i : GReg) (b : VReg) (k : MReg) :
    let x := s.coreAt c
    let act := activeOf e.vlen (x.gov k)
    let l := redVals t x b act
    let scalar (v : Word) : Prop := s.VecRuns c r (x.RegsSet (fun g => if g = a ∧ a ≠ 0 then v else (x.ctxAt 0).reg g))
    let both (z : Nat × Word) : Prop := s.VecRuns c r (x.RegsSet (fun g =>
      if g = i ∧ i ≠ 0 then z.2 else if g = a ∧ a ≠ 0 then redImage t z.1 else (x.ctxAt 0).reg g))
    (e.instr = .vredadd t a b k → scalar (redImage t (if t.isInt then subWrap t ((l.map (fun p => subInt t p.2)).sum)
        else enc (efmt t) (fSum (l.map (fun p => dec (efmt t) p.2))) .ne)))
      ∧ (e.instr = .vredmax .w a b k → act ≠ [] → ∃ v, scalar v ∧ (∃ j ∈ act, v = (x.ve b j).signExtend 64)
          ∧ ∀ j ∈ act, (x.ve b j).toInt ≤ v.toInt)
      ∧ (e.instr = .vredmin .w a b k → act ≠ [] → ∃ v, scalar v ∧ (∃ j ∈ act, v = (x.ve b j).signExtend 64)
          ∧ ∀ j ∈ act, v.toInt ≤ (x.ve b j).toInt)
      ∧ (e.instr = .vredmax t a b k → scalar (redImage t (redBest t true l)))
      ∧ (e.instr = .vredmin t a b k → scalar (redImage t (redBest t false l)))
      ∧ (e.instr = .vmaxi t a b i k → both (redMaxIdx t true l)) ∧ (e.instr = .vmini t a b i k → both (redMaxIdx t false l)) := by
  intro x act l scalar both
  have htwo (z : Nat × Word) {y : Core} (hy : y = (x.setG0 a (redImage t z.1)).setG0 i z.2) :
      y = x.modCtx 0 (fun u => (u.setReg a (redImage t z.1)).setReg i z.2) := hy.trans (Core.modCtx_modCtx _ _ _ _)
  have hboth (z : Nat × Word) (y : Core) (hset : x.RegsSet (fun g => (((x.ctxAt 0).setReg a (redImage t z.1)).setReg i z.2).reg g) y) :
      x.RegsSet (fun g => if g = i ∧ i ≠ 0 then z.2 else if g = a ∧ a ≠ 0 then redImage t z.1 else (x.ctxAt 0).reg g) y :=
    ⟨hset.1, hset.2.1, fun g => (hset.2.2 g).trans (by simp only [Ctx.reg_setReg])⟩
  refine ⟨fun he => h.reg he rfl rfl rfl, fun he hact => ?_, fun he hact => ?_, fun he => h.reg he rfl rfl rfl, fun he => h.reg he rfl rfl rfl,
    fun he => (h.regs he rfl (htwo _ rfl)).imp (hboth _), fun he => (h.regs he rfl (htwo _ rfl)).imp (hboth _)⟩
  · obtain ⟨v, hv, hmem, hle⟩ := redImage_redBest true x b hact
    exact ⟨v, h.reg he rfl rfl hv, hmem, hle⟩
  · obtain ⟨v, hv, hmem, hle⟩ := redImage_redBest false x b hact
    exact ⟨v, h.reg he rfl rfl hv, hmem, hle⟩

/-! ### Masks, and the set of the polynomial unit (R205, R208) -/

/-- The bits that a mask operation below VLEN writes. -/
theorem State.VecDue.below {i : Instr} (hi : e.instr = i) (hreg : onRegisters i = true) {a : MReg} {f : Nat → Bool}
    (hy : (s.coreAt c).vecEffect { e with instr := i } = (s.coreAt c).maskBelow a e.vlen f) :
    s.VecRuns c r ((s.coreAt c).BitsSet a (fun j => decide (j < e.vlen)) f) :=
  h.bits hi hreg hy fun j _ => by rw [List.mem_range, decide_eq_true_eq]

end

theorem length_activeOf (vlen : Nat) (mask : Word) : (activeOf vlen mask).length = (List.range vlen).countP (fun j => mask.getLsbD j) :=
  List.countP_eq_length_filter.symm

/-- The first active element has none before it. -/
theorem headD_activeOf_of_first {vlen j : Nat} {mask : Word} (hj : j < vlen) (hb : mask.getLsbD j = true)
    (hf : ∀ i, i < j → mask.getLsbD i = false) (d : Nat) : (activeOf vlen mask).headD d = j := by
  have hfind : (List.range vlen).find? (fun i => mask.getLsbD i) = some j :=
    List.find?_range_eq_some.2 ⟨hb, List.mem_range.2 hj, fun i hi => by simp [hf i hi]⟩
  rw [List.headD_eq_head?_getD, activeOf, List.head?_filter, hfind]
  rfl

theorem activeOf_of_none {vlen : Nat} {mask : Word} (hf : ∀ i, i < vlen → mask.getLsbD i = false) : activeOf vlen mask = [] := by
  rw [activeOf, List.filter_eq_nil_iff]
  intro i hi
  simp [hf i (List.mem_range.1 hi)]

section
variable {s : State} {c : Nat} {e : VEntry} {r : List VEntry} (h : s.VecDue c e r)
include h

/-- The mask operations, and PPSEL (R205, R208). -/
theorem State.VecDue.masks (a b d : MReg) (g : GReg) (n : BitVec 4) :
    let x := s.coreAt c
    let bit (k : MReg) (j : Nat) : Bool := (x.mreg k).getLsbD j
    let below (f : Nat → Bool) : Prop := s.VecRuns c r (x.BitsSet a (fun j => decide (j < e.vlen)) f)
    let all (v : Word) : Prop := s.VecRuns c r (x.BitsSet a (fun _ => true) (fun j => v.getLsbD j))
    let scalar (v : Word) : Prop := s.VecRuns c r (x.RegsSet (fun q => if q = g ∧ g ≠ 0 then v else (x.ctxAt 0).reg q))
    (e.instr = .mand a b d → below (fun j => bit b j && bit d j))
      ∧ (e.instr = .mor a b d → below (fun j => bit b j || bit d j))
      ∧ (e.instr = .mxor a b d → below (fun j => bit b j != bit d j))
      ∧ (e.instr = .mnot a b → below (fun j => !bit b j))
      ∧ (e.instr = .mset a g → all (opAt e.ops 0)) ∧ (e.instr = .mmov a b → all (x.mreg b))
      ∧ (e.instr = .mmovG g b → scalar (x.mreg b))
      ∧ (e.instr = .mpopc g b → scalar (w64 ((List.range e.vlen).countP (bit b))))
      ∧ (e.instr = .mfirst g b → ∀ j, j < e.vlen → bit b j = true → (∀ i, i < j → bit b i = false) → scalar (w64 j))
      ∧ (e.instr = .mfirst g b → (∀ i, i < e.vlen → bit b i = false) → scalar 64)
      ∧ (e.instr = .ppsel n → s.VecRuns c r (fun y => x.SameG y ∧ x.SameV y ∧ x.SameM y ∧ y.vec.set = n.toNat)) :=
  ⟨fun he => h.below he rfl rfl, fun he => h.below he rfl rfl, fun he => h.below he rfl rfl, fun he => h.below he rfl rfl,
    fun he => h.mask he rfl rfl, fun he => h.mask he rfl rfl, fun he => h.reg he rfl rfl rfl,
    fun he => h.reg he rfl rfl (congrArg w64 (length_activeOf _ _)),
    fun he _ hj hb hf => h.reg he rfl rfl (congrArg w64 (headD_activeOf_of_first hj hb hf _)),
    fun he hf => h.reg he rfl rfl (by rw [activeOf_of_none hf]; rfl),
    fun he => h.runs he rfl rfl rfl rfl ⟨fun _ => rfl, fun _ _ _ => rfl, fun _ => rfl, rfl⟩⟩

end

/-! ### VCVT (R196) -/

/-- Two results of a list of changes, worked out side by side. -/
theorem each_pair {α β : Type} (xs : List α) (f : β → α → β) (g : α → Bool) (b : β) (n : Bool) :
    each xs (b, n) (fun p x => (f p.1 x, p.2 || g x)) = (each xs b f, n || xs.any g) := by
  induction xs generalizing b n with
  | nil => simp [each]
  | cons x xs ih => rw [each_cons, each_cons, ih, List.any_cons, Bool.or_assoc]

/-- The source and the place of the k-th value converted in an element (R196). -/
def cvtFrom (t u : EType) (p k : Nat) : Nat := if t.n ≤ u.n then p * t.n + k else k
def cvtPlace (t u : EType) (p k : Nat) : Nat := if t.n ≤ u.n then k else p * u.n + k

/-- Whether a NaN is among the values converted in an element. -/
def cvtNan (t u : EType) (p : Nat) (x : BitVec 32) : Bool :=
  (List.range (cvtCount t u)).any (fun k => (subVal u (subAt u x (cvtFrom t u p k))).isNaN)

theorem vcvtElem_eq (t u : EType) (p : Nat) (old x : BitVec 32) (m : Nat → Rnd) : vcvtElem t u p old x m =
    (each (List.range (cvtCount t u)) old (fun o k =>
      setSub t o (cvtPlace t u p k) (vcvt1 t u (m k) (subAt u x (cvtFrom t u p k)))), cvtNan t u p x) := by
  have hpair := each_pair (List.range (cvtCount t u))
    (fun o k => setSub t o (cvtPlace t u p k) (vcvt1 t u (m k) (subAt u x (cvtFrom t u p k))))
    (fun k => (subVal u (subAt u x (cvtFrom t u p k))).isNaN) old false
  rw [Bool.false_or] at hpair
  exact hpair

theorem cvtPlace_inj (t u : EType) (p : Nat) : ∀ j k, cvtPlace t u p j = cvtPlace t u p k → j = k := by
  intro j k h
  unfold cvtPlace at h
  split at h
  · exact h
  · omega

theorem EType.n_pos (t : EType) : 0 < t.n := by cases t with | _ => decide

/-- The sub-elements of a converted element: those of the part are converted, and the others are as before. -/
theorem subAt_vcvtElem (t u : EType) (p : Nat) (old x : BitVec 32) (m : Nat → Rnd) {i : Nat} (hi : i < t.n) :
    subAt t (vcvtElem t u p old x m).1 i =
      if t.n ≤ u.n then vcvt1 t u (m i) (subAt u x (p * t.n + i)) % 2 ^ subW t
      else if i / u.n = p then vcvt1 t u (m (i % u.n)) (subAt u x (i % u.n)) % 2 ^ subW t
      else subAt t old i := by
  have hu : 0 < u.n := EType.n_pos u
  rw [vcvtElem_eq]
  have hat {k : Nat} (hk : k < cvtCount t u) (hplace : cvtPlace t u p k = i) :=
    subAt_each_setSub t (cvtPlace_inj t u p) (fun k => vcvt1 t u (m k) (subAt u x (cvtFrom t u p k))) (List.mem_range.2 hk)
      (by rw [hplace]; exact hi) old
  by_cases hn : t.n ≤ u.n
  · have hk := hat (k := i) (by unfold cvtCount; omega) (if_pos hn)
    rw [if_pos hn]
    rwa [show cvtPlace t u p i = i from if_pos hn, show cvtFrom t u p i = p * t.n + i from if_pos hn] at hk
  · rw [if_neg hn]
    by_cases hp : i / u.n = p
    · have hplace : cvtPlace t u p (i % u.n) = i := by
        rw [cvtPlace, if_neg hn, ← hp, Nat.mul_comm, Nat.div_add_mod]
      have hk := hat (k := i % u.n) (by have := Nat.mod_lt i hu; unfold cvtCount; omega) hplace
      rw [if_pos hp]
      rwa [hplace, show cvtFrom t u p (i % u.n) = i % u.n from if_neg hn] at hk
    · rw [if_neg hp]
      refine subAt_each_setSub_ne t _ _ hi (fun k hk hplace => hp ?_) old
      have hlt : k < u.n := by
        have := List.mem_range.1 hk
        unfold cvtCount at this
        omega
      rw [← hplace, cvtPlace, if_neg hn, Nat.mul_comm, Nat.mul_add_div hu, Nat.div_eq_of_lt hlt, Nat.add_zero]

/-- The mark of an element into which a NaN went (R196). -/
def nanMark (v : BitVec 32) : BitVec 32 := (v &&& 0xFFFFFF00) ||| 0xFF

/-- One element of a conversion, each from the core as it stood before. -/
def Core.cvtStep (x : Core) (t u : EType) (p : Nat) (a b d : VReg) (m : Nat → Nat → Rnd) (y : Core) (i : Nat) : Core :=
  let z := vcvtElem t u p (x.ve a i) (x.ve b i) (m i)
  let y := y.setVe a i z.1
  if t = .e2 && z.2 then y.setVe d i (nanMark (y.ve d i)) else y

section
variable (x : Core) (t u : EType) (p : Nat) {a b d : VReg} (m : Nat → Nat → Rnd)

theorem Core.cvtStep_keeps (y : Core) (i : Nat) : y.VecSame (x.cvtStep t u p a b d m y i) ∧ (x.cvtStep t u p a b d m y i).ctxs = y.ctxs
    ∧ (x.cvtStep t u p a b d m y i).vec.m = y.vec.m := by
  unfold Core.cvtStep
  dsimp only
  split
  · exact ⟨⟨rfl, rfl⟩, rfl, rfl⟩
  · exact ⟨⟨rfl, rfl⟩, rfl, rfl⟩

/-- An element after its conversion. -/
def Core.cvtVe (a b d : VReg) (y : Core) (q : VReg) (j : Nat) : BitVec 32 :=
  if q = a then (vcvtElem t u p (x.ve a j) (x.ve b j) (m j)).1
  else if q = d ∧ (t == .e2 && cvtNan t u p (x.ve b j)) = true then nanMark (y.ve d j)
  else y.ve q j

theorem Core.ve_cvtStep (hd : d ≠ a) (y : Core) (q : VReg) {i j : Nat} (hi : i < 64) (hj : j < 64) :
    (x.cvtStep t u p a b d m y i).ve q j = if j = i then x.cvtVe t u p m a b d y q j else y.ve q j := by
  have hnan : (vcvtElem t u p (x.ve a i) (x.ve b i) (m i)).2 = cvtNan t u p (x.ve b i) := by rw [vcvtElem_eq]
  have hd' : (y.setVe a i (vcvtElem t u p (x.ve a i) (x.ve b i) (m i)).1).ve d i = y.ve d i := by
    rw [y.ve_setVe a d hi hi, if_neg fun h => hd h.1]
  have htest : (decide (t = .e2) && cvtNan t u p (x.ve b i)) = (t == .e2 && cvtNan t u p (x.ve b i)) := by
    rw [beq_eq_decide]
  unfold Core.cvtStep
  dsimp only
  rw [hnan, hd', htest]
  by_cases hji : j = i
  · subst hji
    rw [if_pos rfl, Core.cvtVe]
    by_cases hq : q = a
    · rw [if_pos hq]
      have hqd : q ≠ d := fun h => hd (h ▸ hq)
      split
      · rw [Core.ve_setVe _ d q hi hi, if_neg fun h => hqd h.1, y.ve_setVe a q hi hi, if_pos ⟨hq, rfl⟩]
      · rw [y.ve_setVe a q hi hi, if_pos ⟨hq, rfl⟩]
    · rw [if_neg hq]
      split
      · rename_i hn
        rw [Core.ve_setVe _ d q hi hi, y.ve_setVe a q hi hi]
        simp only [and_true, hn, hq, if_false]
      · rename_i hn
        rw [y.ve_setVe a q hi hi, if_neg fun h => hq h.1, if_neg fun h => hn h.2]
  · rw [if_neg hji]
    split
    · rw [Core.ve_setVe _ d q hi hj, if_neg fun h => hji h.2, y.ve_setVe a q hi hj, if_neg fun h => hji h.2]
    · rw [y.ve_setVe a q hi hj, if_neg fun h => hji h.2]

theorem Core.each_cvtStep_keeps (is : List Nat) : x.VecSame (each is x (x.cvtStep t u p a b d m)) ∧ (each is x (x.cvtStep t u p a b d m)).ctxs = x.ctxs
    ∧ (each is x (x.cvtStep t u p a b d m)).vec.m = x.vec.m :=
  each_inv (fun y : Core => x.VecSame y ∧ y.ctxs = x.ctxs ∧ y.vec.m = x.vec.m) is x _ (fun y i h => by
    obtain ⟨hsame, hctxs, hm⟩ := x.cvtStep_keeps t u p (a := a) (b := b) (d := d) m y i
    exact ⟨h.1.trans hsame, hctxs.trans h.2.1, hm.trans h.2.2⟩) ⟨.refl x, rfl, rfl⟩

/-- Each of the elements is converted once. -/
theorem Core.ve_each_cvtStep (hd : d ≠ a) {is : List Nat} (his : ∀ i ∈ is, i < 64) (hnodup : is.Nodup) (y : Core) (q : VReg) {j : Nat}
    (hj : j < 64) : (each is y (x.cvtStep t u p a b d m)).ve q j = if j ∈ is then x.cvtVe t u p m a b d y q j else y.ve q j := by
  induction is generalizing y with
  | nil => simp [each]
  | cons i is ih =>
    obtain ⟨hi, hrest⟩ := List.nodup_cons.1 hnodup
    have hstep (q : VReg) := x.ve_cvtStep t u p (b := b) m hd y q (his i List.mem_cons_self) hj
    rw [each_cons, ih (fun k hk => his k (List.mem_cons_of_mem _ hk)) hrest]
    by_cases hji : j = i
    · subst hji
      rw [if_neg hi, if_pos List.mem_cons_self, hstep, if_pos rfl]
    · have hsame : x.cvtVe t u p m a b d (x.cvtStep t u p a b d m y i) q j = x.cvtVe t u p m a b d y q j := by
        simp only [Core.cvtVe, hstep, if_neg hji]
      simp only [List.mem_cons, hji, false_or, hstep, if_false, hsame]

end

/-! ### The draws of a stochastic conversion (R43, R44) -/

/-- Between two states only the generators of a context 0 have moved, and which context issues. -/
def State.DrawnAt (s : State) (c : Nat) (t : State) : Prop :=
  (t.coreAt c).loc = (s.coreAt c).loc ∧ (t.coreAt c).vec = (s.coreAt c).vec ∧ (s.coreAt c).SameG (t.coreAt c)

theorem State.drawnAt_srDraw {s t : State} {c : Nat} (h : s.DrawnAt c t) (i : Nat) : s.DrawnAt c ((t.at_ c 0).srDraw i).1 := by
  obtain ⟨hloc, hvec, hG⟩ := h
  obtain ⟨f, hf, hg⟩ : ∃ f : Ctx → Ctx, ((t.at_ c 0).srDraw i).1.coreAt c = (t.coreAt c).modCtx 0 f ∧ ∀ y g, (f y).reg g = y.reg g :=
    ⟨_, State.coreAt_modCore_self (t.at_ c 0) c _, fun _ _ => rfl⟩
  rw [State.DrawnAt, hf]
  exact ⟨hloc, hvec, fun g => by rw [Core.ctxAt_modCtx_self, hg, hG]⟩

theorem State.drawnAt_vecDraws (s : State) (c vlen n : Nat) : s.DrawnAt c (s.vecDraws c vlen n).1 :=
  each_inv (fun q : State × SMap (BitVec 32) => s.DrawnAt c q.1) _ _ _
    (fun _ i hq => each_inv (fun q : State × SMap (BitVec 32) => s.DrawnAt c q.1) _ _ _ (fun _ _ hz => State.drawnAt_srDraw hz i) hq)
    ⟨rfl, rfl, fun _ => rfl⟩

/-- The rounding of the i-th value converted in an element (R42, R43). -/
def State.cvtRnd (s : State) (c : Nat) (e : VEntry) (t u : EType) (m : CvtMode) (j i : Nat) : Rnd :=
  match m with
  | .ne => .ne
  | .rz => .rz
  | .sr => .sr (sget 0 (s.vecDraws c e.vlen (cvtCount t u)).2 (8 * j + i))

/-- A conversion draws where it is stochastic, and then converts the active elements of its core. -/
theorem State.doVcvt_eq (s : State) (c : Nat) (e : VEntry) (t u : EType) (m : CvtMode) (p : Nat) (a b d : VReg) (k : MReg) :
    ∃ v, s.DrawnAt c v ∧ s.doVcvt c e t u m p a b d k = v.modCore c (fun x =>
      each (activeOf e.vlen (x.gov k)) x (x.cvtStep t u p a b d (s.cvtRnd c e t u m))) := by
  cases m with
  | ne => exact ⟨s, ⟨rfl, rfl, fun _ => rfl⟩, rfl⟩
  | rz => exact ⟨s, ⟨rfl, rfl, fun _ => rfl⟩, rfl⟩
  | sr => exact ⟨_, s.drawnAt_vecDraws c e.vlen (cvtCount t u), rfl⟩

section
variable {s : State} {c : Nat} {e : VEntry} {r : List VEntry} (h : s.VecDue c e r)
include h

/-- VCVT converts the part of each active element, and marks in d those into which a NaN went (R196). -/
theorem State.VecDue.converts {t src : EType} {m : CvtMode} {p : BitVec 3} {a b d : VReg} {k : MReg} (hi : e.instr = .vcvt t src m p a b d k)
    (hd : d ≠ a) :
    let x := s.coreAt c
    let on (j : Nat) : Bool := decide (j < e.vlen) && (x.gov k).getLsbD j
    let rnd := s.cvtRnd c e t src m
    let from_ (j i : Nat) : Nat := subAt src (x.ve b j) (if t.n ≤ src.n then p.toNat * t.n + i else i)
    let nan (j : Nat) : Bool := t == .e2 && (List.range (cvtCount t src)).any (fun i => (subVal src (from_ j i)).isNaN)
    ∃ u, (exec (.vectorQueueComplete c) s = .next u ∧ (u.coreAt c).vec.queue = r) ∧ x.SameG (u.coreAt c) ∧ x.SameM (u.coreAt c)
      ∧ (u.coreAt c).loc = x.loc
      ∧ (∀ q j, j < 64 → ¬(q = a ∧ on j = true) → ¬(q = d ∧ on j = true ∧ nan j = true) → (u.coreAt c).ve q j = x.ve q j)
      ∧ (∀ j, on j = true → nan j = true → (u.coreAt c).ve d j = (x.ve d j &&& 0xFFFFFF00) ||| 0xFF)
      ∧ ∀ j i, on j = true → i < t.n → subAt t ((u.coreAt c).ve a j) i =
          if t.n ≤ src.n then vcvt1 t src (rnd j i) (from_ j i) % 2 ^ subW t
          else if i / src.n = p.toNat then vcvt1 t src (rnd j (i % src.n)) (from_ j (i % src.n)) % 2 ^ subW t
          else subAt t (x.ve a j) i := by
  intro x on rnd from_ nan
  obtain ⟨v, ⟨hloc, hvec, hG⟩, hv⟩ := s.doVcvt_eq c e t src m p.toNat a b d k
  obtain ⟨ag, hexec⟩ := exec_vectorQueueComplete s c
  obtain ⟨z, hz⟩ : ∃ z, each (activeOf e.vlen (x.gov k)) (v.coreAt c) ((v.coreAt c).cvtStep t src p.toNat a b d rnd) = z := ⟨_, rfl⟩
  have hgov : (v.coreAt c).gov k = x.gov k := by simp only [Core.gov, Core.mreg, hvec]; rfl
  have hve (q : VReg) (j : Nat) : (v.coreAt c).ve q j = x.ve q j := by rw [Core.ve, hvec]; rfl
  have hcore : ((((s.doVcvt c e t src m p.toNat a b d k).vecPop c).withAgenda ag).coreAt c) = z.vecPopped := by
    rw [State.coreAt_withAgenda, State.coreAt_vecPop, if_pos rfl, hv, State.coreAt_modCore_self, hgov, hz]
  obtain ⟨hsame, hctxs, hm⟩ := hz ▸ (v.coreAt c).each_cvtStep_keeps t src p.toNat (a := a) (b := b) (d := d) rnd (activeOf e.vlen (x.gov k))
  have helem (q : VReg) {j : Nat} (hj : j < 64) : z.vecPopped.ve q j =
      if on j = true then (v.coreAt c).cvtVe t src p.toNat rnd a b d (v.coreAt c) q j else x.ve q j := by
    have he := (v.coreAt c).ve_each_cvtStep t src p.toNat rnd (b := b) hd (fun _ hi => lt_of_mem_activeOf hi)
      (nodup_activeOf e.vlen (x.gov k)) (v.coreAt c) q hj
    rw [hz, hve q j] at he
    simp only [mem_activeOf] at he
    exact he
  have hon {j : Nat} (hj : on j = true) : j < 64 := lt_of_mem_activeOf (mem_activeOf.2 hj)
  have hfrom (j i : Nat) : subAt src (x.ve b j) (cvtFrom t src p.toNat i) = from_ j i := rfl
  have hnan (j : Nat) : (t == .e2 && cvtNan t src p.toNat ((v.coreAt c).ve b j)) = nan j := by rw [hve]; rfl
  rw [h.complete_convert hi] at hexec
  refine ⟨_, ⟨hexec, ?_⟩, ?_, ?_, ?_, fun q j hj ha hd' => ?_, fun j hj hn => ?_, fun j i hj hi' => ?_⟩
  · rw [hcore, Core.vecPopped, hsame.queue, hvec, h.queue]
    rfl
  · intro g
    rw [hcore, ← hG g]
    exact congrArg (fun l => (sget (Ctx.reset 0) l 0).reg g) hctxs
  · intro l
    rw [hcore]
    exact congrArg (fun l' => sget 0 l' l.toNat) (hm.trans (congrArg VecUnit.m hvec))
  · rw [hcore]
    exact hsame.loc.trans hloc
  · rw [hcore, helem q hj]
    split
    · rename_i hj'
      rw [Core.cvtVe, if_neg fun hq => ha ⟨hq, hj'⟩, if_neg fun hq => hd' ⟨hq.1, hj', (hnan j).symm.trans hq.2⟩, hve]
    · rfl
  · rw [hcore, helem d (hon hj), if_pos hj, Core.cvtVe, if_neg hd, if_pos ⟨rfl, (hnan j).trans hn⟩, hve]
    rfl
  · rw [hcore, helem a (hon hj), if_pos hj, Core.cvtVe, if_pos rfl, subAt_vcvtElem t src p.toNat _ _ _ hi', hve, hve]
    by_cases ht : t.n ≤ src.n
    · simp only [if_pos ht, from_]
    · simp only [if_neg ht, from_]

end

/-! ### The table of the polynomial unit (R207) -/

theorem sget_map_range {α : Type} (d : α) (f : Nat → α) (n j : Nat) (hj : j < n) :
    sget d ((List.range n).map (fun i => (i, f i))) j = f j := by
  have key (m k : Nat) (hk : k ≤ j) (hm : j < k + m) : sget d ((List.range' k m).map (fun i => (i, f i))) j = f j := by
    induction m generalizing k with
    | zero => omega
    | succ m ih =>
      rw [List.range'_succ, List.map_cons, sget]
      split
      · rename_i h
        rw [h]
      · exact ih (k + 1) (by omega) (by omega)
  rw [List.range_eq_range']
  exact key n 0 (Nat.zero_le j) (by omega)

/-- The table of an image, and its words (R207). -/
theorem tableOf_spec (bs : List Byte) :
    (1 ≤ leNat (bs.take 4) → leNat (bs.take 4) ≤ 64 → (tableOf bs).1 = leNat (bs.take 4) ∧ ∀ j, j < 5 * leNat (bs.take 4) →
        sget 0 (tableOf bs).2 j = BitVec.ofNat 32 (leNat ((bs.drop (16 + 4 * j)).take 4)))
      ∧ (leNat (bs.take 4) = 0 ∨ 64 < leNat (bs.take 4) → (tableOf bs).1 = 0) := by
  unfold tableOf
  refine ⟨fun h1 h2 => ?_, fun h => ?_⟩
  · rw [if_neg (by omega)]
    exact ⟨rfl, fun j hj => sget_map_range 0 (fun j => BitVec.ofNat 32 (leNat ((bs.drop (16 + 4 * j)).take 4))) _ j hj⟩
  · rw [if_pos h]

/-- An event that leaves the queue empty, as a queue fault does (R185). -/
theorem exec_vectorQueueComplete_of_fault {s v : State} {c code sub : Nat} {a pc : Word} (h : s.vecComplete c = v.vecFault c code sub a pc) :
    exec (.vectorQueueComplete c) s = .next (v.vecFault c code sub a pc) := by
  refine exec_vectorQueueComplete_of_started h fun f _ l hl => ?_
  rw [State.vecFault, State.coreAt_modCore_self] at hl
  cases hl

section
variable {s v : State} {c : Nat} {e : VEntry} {bs : List Byte} (hl : e.vlen ≠ 0)
include hl

theorem State.ppldRun_of_read (hread : s.localRead c (opAt e.ops 0).toNat 1296 = (v, bs, none)) : s.ppldRun c e =
    (v.modCore c (fun x => { x with vec := { x.vec with segs := (tableOf bs).1, table := (tableOf bs).2 } })).vecPop c := by
  unfold State.ppldRun
  rw [if_neg hl, hread]

theorem State.ppldRun_of_bad {w : Nat} (hread : s.localRead c (opAt e.ops 0).toNat 1296 = (v, bs, some w)) :
    s.ppldRun c e = v.vecFault c 0x0B 4 (w64 w) e.pc := by
  unfold State.ppldRun
  rw [if_neg hl, hread]

end

section
variable {s : State} {c : Nat} {e : VEntry} {r : List VEntry} (h : s.VecDue c e r)
include h

/-- PPLD replaces the table, or is a queue fault where it meets an uncorrectable word (R185, R207). -/
theorem State.VecDue.table {b : GReg} {v : State} {bs : List Byte} {bad : Option Nat} (hi : e.instr = .ppld b) (hl : e.vlen ≠ 0)
    (hread : s.localRead c (opAt e.ops 0).toNat 1296 = (v, bs, bad)) :
    let x := s.coreAt c
    let n := leNat (bs.take 4)
    (bad = none → ∃ u, (exec (.vectorQueueComplete c) s = .next u ∧ (u.coreAt c).vec.queue = r) ∧ x.SameG (u.coreAt c)
        ∧ x.SameV (u.coreAt c) ∧ x.SameM (u.coreAt c)
        ∧ (1 ≤ n → n ≤ 64 → (u.coreAt c).vec.segs = n ∧ ∀ j, j < 5 * n →
            sget 0 (u.coreAt c).vec.table j = BitVec.ofNat 32 (leNat ((bs.drop (16 + 4 * j)).take 4)))
        ∧ (n = 0 ∨ 64 < n → (u.coreAt c).vec.segs = 0))
      ∧ ∀ w, bad = some w → exec (.vectorQueueComplete c) s = .next (v.vecFault c 0x0B 4 (w64 w) e.pc) := by
  intro x n
  have hv : s.fetchOnly v := by
    have hf := State.localRead_fetch c (opAt e.ops 0).toNat 1296 (.refl s)
    rwa [hread] at hf
  have hvec : (v.coreAt c).vec = x.vec := hv.coreAt_eq c Core.vec fun _ _ _ _ _ _ => rfl
  have hctxs : (v.coreAt c).ctxs = x.ctxs := hv.coreAt_eq c Core.ctxs fun _ _ _ _ _ _ => rfl
  obtain ⟨hsome, hnone⟩ := tableOf_spec bs
  refine ⟨fun hb => ?_, fun w hw => ?_⟩
  · subst hb
    have hrun := (h.complete_table hi).trans (State.ppldRun_of_read hl hread)
    obtain ⟨ag, hexec⟩ := exec_vectorQueueComplete s c
    obtain ⟨u, hu⟩ : ∃ u, (s.vecComplete c).withAgenda ag = u := ⟨_, rfl⟩
    have hcore : u.coreAt c = { v.coreAt c with vec := { x.vec with segs := (tableOf bs).1, table := (tableOf bs).2, queue := r } } := by
      rw [← hu, hrun, State.coreAt_withAgenda, State.coreAt_vecPop, if_pos rfl, State.coreAt_modCore_self, Core.vecPopped, hvec, h.queue]
      rfl
    rw [hu] at hexec
    refine ⟨u, ⟨hexec, by rw [hcore]⟩, fun g => ?_, fun q j _ => by rw [hcore]; rfl, fun k => by rw [hcore]; rfl, fun h1 h2 => ?_, fun hn => ?_⟩
    · rw [hcore]
      exact congrArg (fun l => (sget (Ctx.reset 0) l 0).reg g) hctxs
    · rw [hcore]
      exact hsome h1 h2
    · rw [hcore]
      exact hnone hn
  · subst hw
    exact exec_vectorQueueComplete_of_fault ((h.complete_table hi).trans (State.ppldRun_of_bad hl hread))

end

end Sys2Proof.Machine
end

section

/-! PROOFS. The vector queue: memory instructions, and the statement on the queue (spec/07 R183, R185, R200 to R202). -/

namespace Sys2Proof.Machine

/-! ### One element of a memory instruction (R200, R201) -/

section
variable {s v : State} {c cid : Nat} {e : VEntry} {m : VMem} {j : Nat}

theorem State.vmemStep_done (h : s.vmemElem c cid m j = (v, .done)) :
    State.vmemStep c cid m (s, e, .done) j = (v, { e with did := e.did ||| (1#64 <<< j) }, .done) := by
  simp only [State.vmemStep, h]

theorem State.vmemStep_got {w : BitVec 32} (h : s.vmemElem c cid m j = (v, .got w)) :
    State.vmemStep c cid m (s, e, .done) j = (v, { e with did := e.did ||| (1#64 <<< j), buf := sput e.buf j w }, .done) := by
  simp only [State.vmemStep, h]

theorem State.vmemStep_fault {code sub : Nat} {a : Word} (h : s.vmemElem c cid m j = (v, .fault code sub a)) :
    State.vmemStep c cid m (s, e, .done) j = (v, e, .fault code sub a) := by
  simp only [State.vmemStep, h]

theorem State.vmemStep_page {obj pg : Nat} (h : s.vmemElem c cid m j = (v, .page obj pg)) :
    State.vmemStep c cid m (s, e, .done) j = (v, e, .page obj pg) := by
  simp only [State.vmemStep, h]

end

/-! ### Bytes of TCM (R19, R139) -/

theorem Memory.readN_add (m : Memory) (a k n : Nat) : m.readN a (k + n) = m.readN a k ++ m.readN (a + k) n := by
  induction k generalizing a with
  | zero => rw [Nat.zero_add, Nat.add_zero]; rfl
  | succ k ih => rw [Nat.succ_add, Memory.readN, Memory.readN, ih, List.cons_append, Nat.add_assoc, Nat.add_comm 1 k]

theorem Memory.writeN_append (m : Memory) (a : Nat) (bs ds : List Byte) :
    m.writeN a (bs ++ ds) = (m.writeN a bs).writeN (a + bs.length) ds := by
  induction bs generalizing m a with
  | nil => rfl
  | cons b bs ih => rw [List.cons_append, Memory.writeN, Memory.writeN, ih, List.length_cons, Nat.add_assoc, Nat.add_comm 1 bs.length]

/-- Bytes that cross one boundary of 64 KiB are two pieces. -/
theorem localPieces_double {la k n : Nat} (hk : la % 0x10000 + k = 0x10000) (hn : 0 < n) (hle : n ≤ 0x10000) :
    localPieces la (k + n) = [(la, k), (la + k, n)] := by
  have h1 : (la + (k + n) + 0xFFFF) / 0x10000 - la / 0x10000 = 2 := by omega
  have h2 : max la (la / 0x10000 * 0x10000) = la := by omega
  have h3 : min (la + (k + n)) ((la / 0x10000 + 1) * 0x10000) - la = k := by omega
  have hb : (la / 0x10000 + 1) * 0x10000 = la + k := by omega
  have hb' : (la / 0x10000 + 1 + 1) * 0x10000 = la + k + 0x10000 := by rw [Nat.add_mul, hb, Nat.one_mul]
  have h4 : max la ((la / 0x10000 + 1) * 0x10000) = la + k := by rw [hb, Nat.max_eq_right (Nat.le_add_right _ _)]
  have h5 : min (la + (k + n)) ((la / 0x10000 + 1 + 1) * 0x10000) - (la + k) = n := by
    rw [hb', Nat.min_eq_left (by omega), ← Nat.add_assoc, Nat.add_sub_cancel_left]
  unfold localPieces
  rw [h1]
  simp [List.range_succ, h2, h3, h4, h5]

/-- A core with other bytes in its TCM. -/
def Core.withTcm (x : Core) (mem : Memory) : Core := { x with loc := { x.loc with tcm := mem } }

/-- Between two states only the TCM of a core differs, which holds given bytes. -/
def State.TcmAs (s : State) (c : Nat) (mem : Memory) (t : State) : Prop :=
  t = { s with cores := t.cores } ∧ ∀ d, t.coreAt d = if d = c then (s.coreAt c).withTcm mem else s.coreAt d

theorem State.tcmAs_refl (s : State) (c : Nat) : s.TcmAs c (s.coreAt c).loc.tcm s := by
  refine ⟨rfl, fun d => ?_⟩
  split
  · rename_i hd
    rw [hd]
    rfl
  · rfl

section
variable {s t : State} {c la : Nat} {mem : Memory} (ht : s.TcmAs c mem t)
include ht

theorem State.TcmAs.self : t.coreAt c = (s.coreAt c).withTcm mem := (ht.2 c).trans (if_pos rfl)

/-- The TCM once more changed. -/
theorem State.TcmAs.modCore {mem' : Memory} {f : Core → Core} (hf : f ((s.coreAt c).withTcm mem) = (s.coreAt c).withTcm mem') :
    s.TcmAs c mem' (t.modCore c f) := by
  refine ⟨?_, fun d => ?_⟩
  · have h1 := ht.1
    rw [State.modCore, h1]
  · rw [State.coreAt_modCore, ht.self, hf, ht.2]
    split
    · rfl
    · rfl

variable (he : (s.coreAt c).loc.ecc = {})
include he

/-- Bytes of TCM where no error stands are read as they are (R375). -/
theorem State.TcmAs.read {n : Nat} (hn : 0 < n) (hle : n ≤ 0x10000) (h : la + n ≤ 0x30000) :
    ∃ u, t.localRead c la n = (u, mem.readN la n, none) ∧ s.TcmAs c mem u := by
  have hloc : (t.coreAt c).loc.tcm = mem ∧ (t.coreAt c).loc.ecc = {} := by
    rw [ht.self]
    exact ⟨rfl, he⟩
  obtain ⟨htcm, hecc⟩ := hloc
  have hid : ({ (s.coreAt c).withTcm mem with loc := { ((s.coreAt c).withTcm mem).loc with tcm := mem, ecc := {} } } : Core)
      = (s.coreAt c).withTcm mem := by rw [← he]; rfl
  by_cases hone : la % 0x10000 + n ≤ 0x10000
  · have hp := localPieces_single hn hone
    refine ⟨_, ?_, ht.modCore (f := fun x => { x with loc := { x.loc with tcm := mem, ecc := {} } }) hid⟩
    simp only [State.localRead, State.localReadBy, hp, each, List.foldl_cons, List.foldl_nil, show la < 0x30000 by omega, if_true, htcm, hecc,
      eccRead_clean, Core.countEcc_zero, List.nil_append]
    rfl
  · obtain ⟨k, hk⟩ : ∃ k, la % 0x10000 + k = 0x10000 := ⟨0x10000 - la % 0x10000, by omega⟩
    obtain ⟨l, rfl⟩ : ∃ l, n = k + l := ⟨n - k, by omega⟩
    have hp := localPieces_double (la := la) (n := l) hk (by omega) (by omega)
    refine ⟨_, ?_, (ht.modCore (f := fun x => { x with loc := { x.loc with tcm := mem, ecc := {} } }) hid).modCore
      (f := fun x => { x with loc := { x.loc with tcm := mem, ecc := {} } }) hid⟩
    simp only [State.localRead, State.localReadBy, hp, each, List.foldl_cons, List.foldl_nil, show la < 0x30000 by omega,
      show la + k < 0x30000 by omega, if_true, htcm, hecc, eccRead_clean, Core.countEcc_zero, List.nil_append, State.coreAt_modCore_self]
    rw [Memory.readN_add]
    rfl

/-- A write of TCM where no error stands replaces its bytes (R376). -/
theorem State.TcmAs.write {bs : List Byte} (cid : Nat) (hn : 0 < bs.length) (hle : bs.length ≤ 0x10000) (h : la + bs.length ≤ 0x30000) :
    s.TcmAs c (mem.writeN la bs) (t.localWrite c la bs cid) := by
  have hloc : (t.coreAt c).loc.tcm = mem ∧ (t.coreAt c).loc.ecc = {} := by
    rw [ht.self]
    exact ⟨rfl, he⟩
  obtain ⟨htcm, hecc⟩ := hloc
  have hset (m m' : Memory) : ({ (s.coreAt c).withTcm m with loc := { ((s.coreAt c).withTcm m).loc with tcm := m', ecc := {} } } : Core)
      = (s.coreAt c).withTcm m' := by rw [← he]; rfl
  by_cases hone : la % 0x10000 + bs.length ≤ 0x10000
  · have hp := localPieces_single hn hone
    simp only [State.localWrite, State.localWriteBy, hp, each, List.foldl_cons, List.foldl_nil, show la < 0x30000 by omega, if_true, htcm, hecc,
      Nat.sub_self, List.drop_zero, List.take_length, eccWrite_clean, Core.countEcc_zero, State.storeLost]
    exact ht.modCore (hset _ _)
  · obtain ⟨k, hk⟩ : ∃ k, la % 0x10000 + k = 0x10000 := ⟨0x10000 - la % 0x10000, by omega⟩
    obtain ⟨l, hl⟩ : ∃ l, bs.length = k + l := ⟨bs.length - k, by omega⟩
    have hp := localPieces_double (la := la) (n := l) hk (by omega) (by omega)
    have hlen : (bs.take k).length = k := by rw [List.length_take]; omega
    have hsplit : mem.writeN la bs = (mem.writeN la (bs.take k)).writeN (la + k) (bs.drop k) := by
      conv_lhs => rw [← List.take_append_drop k bs, Memory.writeN_append, hlen]
    have hrest : (bs.drop k).take l = bs.drop k := List.take_of_length_le (by rw [List.length_drop]; omega)
    rw [hsplit]
    simp only [State.localWrite, State.localWriteBy, hl, hp, each, List.foldl_cons, List.foldl_nil, show la < 0x30000 by omega,
      show la + k < 0x30000 by omega, if_true, htcm, hecc, Nat.sub_self, List.drop_zero, eccWrite_clean, Core.countEcc_zero, State.storeLost,
      State.coreAt_modCore_self, Nat.add_sub_cancel_left, hrest]
    exact (ht.modCore (f := fun x => { x with loc := { x.loc with tcm := mem.writeN la (bs.take k), ecc := {} } }) (hset _ _)).modCore (hset _ _)

end

/-! ### The elements of a local form (R200) -/

/-- Bytes of words written one after the other, each at a place of its own. -/
theorem read_each_writeN_ne {at_ : Nat → Nat} {data : Nat → List Byte} {y : Nat} {js : List Nat}
    (hy : ∀ j ∈ js, y < at_ j ∨ at_ j + (data j).length ≤ y) (mem : Memory) :
    (each js mem (fun mem j => mem.writeN (at_ j) (data j))).read y = mem.read y := by
  induction js generalizing mem with
  | nil => rfl
  | cons j js ih =>
    rw [each_cons, ih fun k hk => hy k (List.mem_cons_of_mem _ hk), Memory.read_writeN_ne _ _ _ _ (hy j List.mem_cons_self)]

theorem read_each_writeN {at_ : Nat → Nat} {data : Nat → List Byte} {js : List Nat} (hnodup : js.Nodup)
    (hsep : ∀ j ∈ js, ∀ k ∈ js, j ≠ k → at_ j + (data j).length ≤ at_ k ∨ at_ k + (data k).length ≤ at_ j) (mem : Memory) {j i : Nat}
    (hj : j ∈ js) (hi : i < (data j).length) :
    (each js mem (fun mem j => mem.writeN (at_ j) (data j))).read (at_ j + i) = (data j)[i] := by
  induction js generalizing mem with
  | nil => cases hj
  | cons k js ih =>
    obtain ⟨hk, hrest⟩ := List.nodup_cons.1 hnodup
    rw [each_cons]
    rcases List.mem_cons.1 hj with rfl | hj'
    · rw [read_each_writeN_ne (fun l hl => ?_), Memory.read_writeN _ _ _ _ hi]
      have hne : j ≠ l := fun h => hk (h ▸ hl)
      have := hsep j List.mem_cons_self l (List.mem_cons_of_mem _ hl) hne
      omega
    · exact ih hrest (fun a ha b hb => hsep a (List.mem_cons_of_mem _ ha) b (List.mem_cons_of_mem _ hb)) _ hj'

/-- The elements of a local form are words behind each other. -/
theorem vmemOf_local {x : Core} {i : Instr} {ops : List Word} {m : VMem} (h : vmemOf x i ops = some m) (hl : m.local_ = true) :
    m.z = 4 ∧ ∃ b : Word, ∀ j, m.addr j = b + w64 (4 * j) := by
  have haddr (b : Word) (imm : BitVec 19) (j : Nat) : w64 (elemLA b imm j) = b + imm.signExtend 64 + w64 (4 * j) := by
    rw [elemLA, w64, BitVec.ofNat_toNat, BitVec.setWidth_eq]
  cases i with
  | vldl | vstl =>
    cases h
    exact ⟨rfl, _, fun j => haddr _ _ j⟩
  | vld | vst | vlds | vgath | vscat =>
    cases h
    cases hl
  | _ => cases h

/-- Words behind each other do not overlap. -/
theorem words_apart (b : Word) {j k : Nat} (hj : j < 64) (hk : k < 64) (h : j ≠ k) :
    (b + w64 (4 * j)).toNat + 4 ≤ (b + w64 (4 * k)).toNat ∨ (b + w64 (4 * k)).toNat + 4 ≤ (b + w64 (4 * j)).toNat := by
  have hb := b.isLt
  simp only [BitVec.toNat_add, w64, BitVec.toNat_ofNat]
  omega

/-- The elements that a load has read, in its register. -/
theorem Core.putElems_keeps (x : Core) (a : VReg) (buf : SMap (BitVec 32)) :
    x.VecSame (x.putElems a buf) ∧ (x.putElems a buf).ctxs = x.ctxs ∧ (x.putElems a buf).vec.m = x.vec.m :=
  each_inv (fun y : Core => x.VecSame y ∧ y.ctxs = x.ctxs ∧ y.vec.m = x.vec.m) buf x (fun x p => x.setVe a p.1 p.2)
    (fun _ _ h => ⟨⟨h.1.loc, h.1.queue⟩, h.2⟩) ⟨.refl x, rfl, rfl⟩

theorem sget_of_rising {α : Type} (d : α) {m : SMap α} {lo j : Nat} (h : risingFrom lo m = true) (hj : j < lo) : sget d m j = d := by
  induction m generalizing lo with
  | nil => rfl
  | cons p m ih =>
    simp only [risingFrom, Bool.and_eq_true, decide_eq_true_eq] at h
    rw [sget, if_neg (by omega), ih h.2 (by omega)]

theorem Core.ve_putElems (x : Core) (a : VReg) {buf : SMap (BitVec 32)} {lo : Nat} (hr : risingFrom lo buf = true)
    (hk : buf.all (fun p => decide (p.1 < 64)) = true) (q : VReg) {j : Nat} (hj : j < 64) :
    (x.putElems a buf).ve q j = if q = a then sget (x.ve a j) buf j else x.ve q j := by
  induction buf generalizing x lo with
  | nil =>
    show x.ve q j = if q = a then x.ve a j else x.ve q j
    split
    · rename_i hq
      rw [hq]
    · rfl
  | cons p buf ih =>
    simp only [risingFrom, Bool.and_eq_true, decide_eq_true_eq] at hr
    simp only [List.all_cons, Bool.and_eq_true, decide_eq_true_eq] at hk
    have hstep (q : VReg) := x.ve_setVe a q hk.1 hj p.2
    show ((x.setVe a p.1 p.2).putElems a buf).ve q j = _
    rw [ih (x.setVe a p.1 p.2) hr.2 hk.2, hstep, hstep]
    by_cases hq : q = a
    · rw [if_pos hq, if_pos hq, sget]
      by_cases hjp : j = p.1
      · rw [if_pos ⟨rfl, hjp⟩, if_pos hjp, sget_of_rising _ hr.2 (by omega)]
      · rw [if_neg fun h => hjp h.2, if_neg hjp]
    · rw [if_neg hq, if_neg hq, if_neg fun h => hq h.1]

/-- Values kept under the numbers of their elements. -/
def keepElems (val : Nat → BitVec 32) (js : List Nat) (buf : SMap (BitVec 32)) : SMap (BitVec 32) :=
  each js buf (fun buf j => sput buf j (val j))

theorem keepElems_rising (val : Nat → BitVec 32) (js : List Nat) : risingFrom 0 (keepElems val js []) = true :=
  each_inv (fun buf : SMap (BitVec 32) => risingFrom 0 buf = true) _ _ _ (fun _ _ h => risingFrom_sput _ h (Nat.zero_le _)) rfl

theorem keepElems_all (val : Nat → BitVec 32) {js : List Nat} (hjs : ∀ j ∈ js, j < 64) (buf : SMap (BitVec 32))
    (hb : buf.all (fun p => decide (p.1 < 64)) = true) : (keepElems val js buf).all (fun p => decide (p.1 < 64)) = true := by
  induction js generalizing buf with
  | nil => exact hb
  | cons j js ih =>
    exact ih (fun k hk => hjs k (List.mem_cons_of_mem _ hk)) _
      (all_sput (fun p => decide (p.1 < 64)) hb (decide_eq_true (hjs j List.mem_cons_self)))

theorem sget_keepElems (d : BitVec 32) (val : Nat → BitVec 32) (js : List Nat) (buf : SMap (BitVec 32)) (j : Nat) :
    sget d (keepElems val js buf) j = if j ∈ js then val j else sget d buf j := by
  induction js generalizing buf with
  | nil => simp [keepElems, each]
  | cons k js ih =>
    have hrest := ih (sput buf k (val k))
    rw [sget_sput] at hrest
    show sget d (keepElems val js (sput buf k (val k))) j = _
    rw [hrest]
    by_cases hjk : j = k
    · subst hjk
      simp
    · simp [hjk]

/-! ### A memory instruction run to its end (R200 to R202) -/

section
variable {s t : State} {c cid : Nat} {e e' : VEntry} {m : VMem}

/-- The elements of an entry that are left. -/
def VEntry.left (e : VEntry) : List Nat := activeOf e.vlen (e.mask &&& ~~~e.did)

theorem State.vmemRun_of_done (h : each e.left (s, e, VRes.done) (State.vmemStep c cid m) = (t, e', .done)) :
    s.vmemRun c cid e m = t.modCore c (fun x => (x.putElems m.reg e'.buf).vecPopped) := by
  have hrun : s.vmemRun c cid e m = (t.modCore c (fun x => x.putElems m.reg e'.buf)).vecPop c := by
    unfold State.vmemRun
    rw [show activeOf e.vlen (e.mask &&& ~~~e.did) = e.left from rfl, h]
  rw [hrun]
  exact State.modCore_modCore _ _ _ _

theorem State.vmemRun_of_fault {code sub : Nat} {a : Word}
    (h : each e.left (s, e, VRes.done) (State.vmemStep c cid m) = (t, e', .fault code sub a)) :
    s.vmemRun c cid e m = t.vecFault c code sub a e'.pc := by
  unfold State.vmemRun
  rw [show activeOf e.vlen (e.mask &&& ~~~e.did) = e.left from rfl, h]

theorem State.vmemRun_of_page {obj pg : Nat}
    (h : each e.left (s, e, VRes.done) (State.vmemStep c cid m) = (t, e', .page obj pg)) :
    s.vmemRun c cid e m = ((t.vecKeep c e').modCore c (fun x => { x with vec := { x.vec with page := some (obj, pg) } })).joinPage obj pg (.vec c) := by
  unfold State.vmemRun
  rw [show activeOf e.vlen (e.mask &&& ~~~e.did) = e.left from rfl, h]

end

/-! ### Local forms (R200) -/

section
variable {s t : State} {c cid : Nat} {mem : Memory} {m : VMem} (ht : s.TcmAs c mem t) (he : (s.coreAt c).loc.ecc = {})
  (hl : m.local_ = true) (hz : m.z = 4)
include ht he hl hz

/-- The word of an element. -/
def VMem.word (m : VMem) (mem : Memory) (j : Nat) : BitVec 32 := BitVec.ofNat 32 (leNat (mem.readN (m.addr j).toNat 4))

/-- The bytes of an element that a store writes. -/
def VMem.bytes (m : VMem) (x : Core) (j : Nat) : List Byte := leBytes 4 ((x.ve m.reg j).toNat % 2 ^ 32)

theorem State.TcmAs.load {j : Nat} (hst : m.store = false) (ha : (m.addr j).toNat + 4 ≤ 0x30000) :
    ∃ u, t.vmemElem c cid m j = (u, .got (m.word mem j)) ∧ s.TcmAs c mem u := by
  obtain ⟨u, hu, hs⟩ := ht.read he (n := 4) (by decide) (by decide) ha
  refine ⟨u, ?_, hs⟩
  simp only [State.vmemElem, hl, hst, hz, if_true, Bool.false_eq_true, if_false, hu, VMem.word]

theorem State.TcmAs.store {j : Nat} (hst : m.store = true) (ha : (m.addr j).toNat + 4 ≤ 0x30000) :
    ∃ u, t.vmemElem c cid m j = (u, .done) ∧ s.TcmAs c (mem.writeN (m.addr j).toNat (m.bytes (s.coreAt c) j)) u := by
  have hve : (t.coreAt c).ve m.reg j = (s.coreAt c).ve m.reg j := by rw [ht.self]; rfl
  have hlen : (m.bytes (s.coreAt c) j).length = 4 := length_leBytes _ _
  have hw := ht.write he (la := (m.addr j).toNat) (bs := m.bytes (s.coreAt c) j) cid (by rw [hlen]; decide) (by rw [hlen]; decide)
    (by rw [hlen]; exact ha)
  refine ⟨_, ?_, hw⟩
  simp only [State.vmemElem, hl, hst, hz, if_true, hve]
  rfl

/-- The elements of a load, one after the other. -/
theorem State.TcmAs.loads (hst : m.store = false) {js : List Nat} (ha : ∀ j ∈ js, (m.addr j).toNat + 4 ≤ 0x30000) (e : VEntry) :
    ∃ u e', each js (t, e, VRes.done) (State.vmemStep c cid m) = (u, e', .done) ∧ s.TcmAs c mem u
      ∧ e'.buf = keepElems (m.word mem) js e.buf := by
  induction js generalizing t e with
  | nil => exact ⟨t, e, rfl, ht, rfl⟩
  | cons j js ih =>
    obtain ⟨v, hv, hs⟩ := ht.load (cid := cid) he hl hz hst (ha j List.mem_cons_self)
    obtain ⟨u, e', hu, hs', hb⟩ := ih hs (fun k hk => ha k (List.mem_cons_of_mem _ hk))
      { e with did := e.did ||| (1#64 <<< j), buf := sput e.buf j (m.word mem j) }
    exact ⟨u, e', by rw [each_cons, State.vmemStep_got hv, hu], hs', hb⟩

/-- The elements of a store. -/
theorem State.TcmAs.stores (hst : m.store = true) {js : List Nat} (ha : ∀ j ∈ js, (m.addr j).toNat + 4 ≤ 0x30000) (e : VEntry) :
    ∃ u e', each js (t, e, VRes.done) (State.vmemStep c cid m) = (u, e', .done)
      ∧ s.TcmAs c (each js mem (fun mem j => mem.writeN (m.addr j).toNat (m.bytes (s.coreAt c) j))) u ∧ e'.buf = e.buf := by
  induction js generalizing t e mem with
  | nil => exact ⟨t, e, rfl, ht, rfl⟩
  | cons j js ih =>
    obtain ⟨v, hv, hs⟩ := ht.store (cid := cid) he hl hz hst (ha j List.mem_cons_self)
    obtain ⟨u, e', hu, hs', hb⟩ := ih hs (fun k hk => ha k (List.mem_cons_of_mem _ hk)) { e with did := e.did ||| (1#64 <<< j) }
    exact ⟨u, e', by rw [each_cons, State.vmemStep_done hv, hu], hs', hb⟩

end

section
variable {s t : State} {c : Nat} {mem : Memory} (ht : s.TcmAs c mem t)
include ht

theorem State.TcmAs.globalByte (y : Word) : t.globalByte y = s.globalByte y := by
  have hsame := State.sameHomes_of_eq (s := s) (t := t) (by rw [ht.1]) (by rw [ht.1]) (by rw [ht.1]) (by rw [ht.1])
  exact hsame.1.globalByte_of_lines hsame.2 y

/-- The bytes of local memory: those of the TCM that differs, and all others as before. -/
theorem State.TcmAs.localByte (d y : Nat) : t.localByte d y = if d = c ∧ y < 0x30000 then mem.read y else s.localByte d y := by
  have hoct : t.octets = s.octets := by rw [ht.1]
  simp only [State.localByte, State.well, State.oct, hoct, ht.2]
  by_cases hd : d = c
  · subst hd
    by_cases hy : y < 0x30000
    · simp only [hy, if_true, and_self]
      rfl
    · simp only [hy, if_false, and_false, if_true]
      rfl
  · simp only [hd, if_false, false_and]

end

/-- A change of a core that leaves its local memory changes no byte, nor does what is to come. -/
theorem State.localByte_modCore_withAgenda {t : State} {c : Nat} {f : Core → Core} (hf : (f (t.coreAt c)).loc = (t.coreAt c).loc) (ag : List Event)
    (d y : Nat) : ((t.modCore c f).withAgenda ag).localByte d y = t.localByte d y := by
  refine State.localByte_congr (s := t) (t := (t.modCore c f).withAgenda ag) (fun d => ?_) rfl d y
  rw [State.coreAt_withAgenda, State.coreAt_modCore]
  split
  · rename_i hd
    rw [hd, hf]
  · rfl

theorem State.globalByte_modCore_withAgenda (t : State) (c : Nat) (f : Core → Core) (ag : List Event) (y : Word) :
    ((t.modCore c f).withAgenda ag).globalByte y = t.globalByte y := by
  have hsame := State.sameHomes_of_eq (s := t) (t := (t.modCore c f).withAgenda ag) rfl rfl rfl rfl
  exact hsame.1.globalByte_of_lines hsame.2 y

/-- The registers of a core after a memory instruction that has run to its end. -/
theorem Core.vecDone (x : Core) (a : VReg) (buf : SMap (BitVec 32)) :
    x.SameG (x.putElems a buf).vecPopped ∧ x.SameM (x.putElems a buf).vecPopped ∧ (x.putElems a buf).vecPopped.loc = x.loc
      ∧ (x.putElems a buf).vecPopped.vec.queue = x.vec.queue.tail := by
  obtain ⟨hsame, hctxs, hm⟩ := x.putElems_keeps a buf
  exact ⟨fun g => congrArg (fun l => (sget (Ctx.reset 0) l 0).reg g) hctxs, fun k => congrArg (fun l => sget 0 l k.toNat) hm,
    hsame.loc, congrArg List.tail hsame.queue⟩

/-- The event whose elements have all been performed: their values are in the register, and the entry has left the queue. -/
theorem State.VecDue.ends_of_done {s t : State} {c : Nat} {e e' : VEntry} {r : List VEntry} {m : VMem} (h : s.VecDue c e r)
    (hm : vmemOf (s.coreAt c) e.instr e.ops = some m)
    (hrun : each e.left (s, e, VRes.done) (State.vmemStep c (s.coreAt c).cid m) = (t, e', .done))
    (hq : (t.coreAt c).vec.queue = e :: r) : ∃ u, (exec (.vectorQueueComplete c) s = .next u ∧ (u.coreAt c).vec.queue = r)
      ∧ u.coreAt c = ((t.coreAt c).putElems m.reg e'.buf).vecPopped ∧ (∀ y, u.globalByte y = t.globalByte y)
      ∧ ∀ d y, u.localByte d y = t.localByte d y := by
  obtain ⟨ag, hexec⟩ := exec_vectorQueueComplete s c
  rw [h.complete_memory hm, State.vmemRun_of_done hrun] at hexec
  obtain ⟨-, -, hloc, hqueue⟩ := (t.coreAt c).vecDone m.reg e'.buf
  have hcore : ((t.modCore c (fun x => (x.putElems m.reg e'.buf).vecPopped)).withAgenda ag).coreAt c
      = ((t.coreAt c).putElems m.reg e'.buf).vecPopped := by rw [State.coreAt_withAgenda, State.coreAt_modCore_self]
  refine ⟨_, ⟨hexec, ?_⟩, hcore, fun y => State.globalByte_modCore_withAgenda _ _ _ _ _, fun d y =>
    State.localByte_modCore_withAgenda hloc _ _ _⟩
  rw [hcore, hqueue, hq]
  rfl

section
variable {s : State} {c : Nat} {e : VEntry} {r : List VEntry} (h : s.VecDue c e r) {m : VMem}
  (hm : vmemOf (s.coreAt c) e.instr e.ops = some m)
include h hm

/-- The elements of a local form in TCM where no error stands (R200). -/
theorem State.VecDue.local_ (hl : m.local_ = true) (ha : ∀ j ∈ e.left, (m.addr j).toNat + 4 ≤ 0x30000) (hecc : (s.coreAt c).loc.ecc = {})
    (hb : e.buf = []) :
    let x := s.coreAt c
    let at_ (j : Nat) : Nat := (m.addr j).toNat
    ∃ u, (exec (.vectorQueueComplete c) s = .next u ∧ (u.coreAt c).vec.queue = r)
      ∧ (∀ y, u.globalByte y = s.globalByte y) ∧ x.SameG (u.coreAt c) ∧ x.SameM (u.coreAt c)
      ∧ (m.store = false → (∀ d y, u.localByte d y = s.localByte d y) ∧ ∀ q j, j < 64 → (u.coreAt c).ve q j =
          if q = m.reg ∧ j ∈ e.left then BitVec.ofNat 32 (leNat (x.loc.tcm.readN (at_ j) 4)) else x.ve q j)
      ∧ (m.store = true → x.SameV (u.coreAt c)
        ∧ (∀ j ∈ e.left, ∀ i, i < 4 → u.localByte c (at_ j + i) = (x.ve m.reg j).extractLsb' (8 * i) 8)
        ∧ ∀ d y, ¬(d = c ∧ ∃ j ∈ e.left, at_ j ≤ y ∧ y < at_ j + 4) → u.localByte d y = s.localByte d y) := by
  intro x at_
  obtain ⟨hz, b, hb'⟩ := vmemOf_local hm hl
  have hlt (j : Nat) (hj : j ∈ e.left) : j < 64 := lt_of_mem_activeOf hj
  have hstart := s.tcmAs_refl c
  have hqueue {t : State} {mem : Memory} (ht : s.TcmAs c mem t) : (t.coreAt c).vec.queue = e :: r := by
    rw [ht.self]
    exact h.queue
  cases hst : m.store with
  | false =>
    obtain ⟨t, e', hrun, ht, hbuf⟩ := hstart.loads (cid := x.cid) hecc hl hz hst ha e
    rw [hb] at hbuf
    obtain ⟨u, hends, hcore, hglobal, hlocal⟩ := h.ends_of_done hm hrun (hqueue ht)
    have hself : t.coreAt c = x := ht.self
    obtain ⟨hG, hM, -, -⟩ := x.vecDone m.reg e'.buf
    rw [hself] at hcore
    refine ⟨u, hends, fun y => (hglobal y).trans (ht.globalByte y), by rw [hcore]; exact hG, by rw [hcore]; exact hM, fun _ =>
      ⟨fun d y => ?_, fun q j hj => ?_⟩, fun hn => nomatch hn⟩
    · rw [hlocal, ht.localByte]
      split
      · rename_i hd
        rw [hd.1, State.localByte, if_pos hd.2]
      · rfl
    · have hput := x.ve_putElems m.reg (hbuf ▸ keepElems_rising (m.word x.loc.tcm) e.left)
        (hbuf ▸ keepElems_all (m.word x.loc.tcm) hlt [] rfl) q hj
      rw [hcore]
      refine hput.trans ?_
      rw [hbuf, sget_keepElems]
      by_cases hq : q = m.reg
      · subst hq
        simp only [if_true, true_and]
        rfl
      · simp only [hq, if_false, false_and]
  | true =>
    obtain ⟨t, e', hrun, ht, hbuf⟩ := hstart.stores (cid := x.cid) hecc hl hz hst ha e
    rw [hb] at hbuf
    obtain ⟨u, hends, hcore, hglobal, hlocal⟩ := h.ends_of_done hm hrun (hqueue ht)
    rw [hbuf, ht.self] at hcore
    have hlen (j : Nat) : (m.bytes x j).length = 4 := length_leBytes _ _
    refine ⟨u, hends, fun y => (hglobal y).trans (ht.globalByte y), by rw [hcore]; exact fun _ => rfl, by rw [hcore]; exact fun _ => rfl,
      fun hn => (nomatch hn), fun _ => ⟨by rw [hcore]; exact fun _ _ _ => rfl, fun j hj i hi => ?_, fun d y hy => ?_⟩⟩
    · have hin : (m.addr j).toNat + i < 0x30000 := by
        have := ha j hj
        omega
      have hread := read_each_writeN (at_ := at_) (data := m.bytes x) (nodup_activeOf _ _) (fun j hj k hk hne => by
        rw [hlen, hlen]
        simp only [at_, hb']
        exact words_apart b (hlt j hj) (hlt k hk) hne) x.loc.tcm hj (i := i) (by rw [hlen]; exact hi)
      rw [hlocal, ht.localByte, if_pos ⟨rfl, hin⟩]
      refine hread.trans ?_
      have hmod : (x.ve m.reg j).toNat % 2 ^ 32 = (x.ve m.reg j).toNat := Nat.mod_eq_of_lt (x.ve m.reg j).isLt
      simp only [VMem.bytes, getElem_leBytes, hmod]
      exact BitVec.eq_of_toNat_eq (by simp [Nat.shiftRight_eq_div_pow])
    · rw [hlocal, ht.localByte]
      split
      · rename_i hd
        obtain ⟨rfl, hlow⟩ := hd
        rw [State.localByte, if_pos hlow]
        refine read_each_writeN_ne (fun j hj => ?_) _
        rw [hlen]
        by_contra hcon
        exact hy ⟨rfl, j, hj, by simp only [at_]; omega, by simp only [at_]; omega⟩
      · rfl

end

/-! ### What an access of a core leaves (R232 to R237) -/

/-- A core differs at most in its cache and in the count of the errors it met. -/
def Core.cacheOnly (x y : Core) : Prop := y = { x with cache := y.cache, eccstat := y.eccstat, eccAt := y.eccAt }

/-- Between two states only what requests at homes change differs, and of the cores what an access changes. -/
def State.cacheOnly (s t : State) : Prop := ({ s with cores := t.cores } : State).memOnly t ∧ ∀ c, (s.coreAt c).cacheOnly (t.coreAt c)

namespace State.cacheOnly
variable {s t u : State}

theorem refl (s : State) : s.cacheOnly s := ⟨rfl, fun _ => rfl⟩

theorem trans (h : s.cacheOnly t) (k : t.cacheOnly u) : s.cacheOnly u := by
  obtain ⟨h1, h2⟩ := h
  obtain ⟨k1, k2⟩ := k
  refine ⟨?_, fun c => ?_⟩
  · refine State.memOnly.trans (t := { t with cores := u.cores }) ?_ k1
    rw [State.memOnly] at h1 ⊢
    rw [h1]
  · have hx := h2 c
    have hy := k2 c
    rw [Core.cacheOnly] at hx hy ⊢
    rw [hy, hx]

theorem of_memOnly (h : s.memOnly t) : s.cacheOnly t := by
  have hcore (c : Nat) : t.coreAt c = s.coreAt c := by rw [State.coreAt, h, State.coreAt]
  refine ⟨?_, fun c => by rw [hcore]; rfl⟩
  have hcores : t.cores = s.cores := by rw [h]
  rw [State.memOnly] at h ⊢
  rw [hcores]
  exact h

theorem of_modCore {c : Nat} {f : Core → Core} (hf : (s.coreAt c).cacheOnly (f (s.coreAt c))) : s.cacheOnly (s.modCore c f) := by
  refine ⟨rfl, fun d => ?_⟩
  rw [State.coreAt_modCore]
  split
  · rename_i hd
    rw [hd]
    exact hf
  · rfl

theorem mem (h : s.cacheOnly t) (k : t.memOnly u) : s.cacheOnly u := h.trans (.of_memOnly k)

theorem modCache (h : s.cacheOnly t) (c : Nat) (f : Cache → Cache) : s.cacheOnly (t.modCache c f) :=
  h.trans (of_modCore (f := fun x => { x with cache := f x.cache }) rfl)

theorem countEcc (h : s.cacheOnly t) (c now corr unc src : Nat) : s.cacheOnly (t.modCore c (fun x => x.countEcc now corr unc src)) := by
  refine h.trans (of_modCore ?_)
  unfold Core.countEcc
  split
  · rfl
  · rfl

theorem l1Drop (h : s.cacheOnly t) (c sector : Nat) : s.cacheOnly (t.l1Drop c sector) := h.modCache c _

theorem of_obbOnly (h : s.obbOnly t) : s.cacheOnly t := by
  obtain ⟨hrest, hcores⟩ := h
  refine ⟨?_, fun d => ?_⟩
  · generalize t.cores = cs, t.agenda = ag at hrest
    subst hrest
    rfl
  · have hd := hcores d
    generalize (t.coreAt d).cache.obb = o at hd
    rw [hd]
    rfl

theorem obbUse (h : s.cacheOnly t) (c id : Nat) : s.cacheOnly (t.obbUse c id) := h.trans (.of_obbOnly (t.obbUse_obbOnly c id))

theorem each {α : Type} {f : State → α → State} (h : s.cacheOnly t) (hf : ∀ v x, s.cacheOnly v → s.cacheOnly (f v x)) (xs : List α) :
    s.cacheOnly (each xs t f) := each_inv (fun v : State => s.cacheOnly v) xs t f hf h

/-- The state after an answer. -/
theorem fst {α : Type} {x : State × α} {r : α} (h : s.cacheOnly x.1) (e : x = (t, r)) : s.cacheOnly t := by rwa [e] at h

theorem ite {α : Type} {p : Prop} [Decidable p] {x y : State × α} (h : p → s.cacheOnly x.1) (k : ¬p → s.cacheOnly y.1) :
    s.cacheOnly (if p then x else y).1 := by
  split
  · rename_i hp
    exact h hp
  · rename_i hp
    exact k hp

theorem dieRead (h : s.cacheOnly t) (w id off n cid : Nat) : s.cacheOnly (t.dieRead w id off n cid).1 :=
  h.mem (State.dieRead_mem t w id off n cid (.refl t))

theorem dieWrite (h : s.cacheOnly t) (w id off : Nat) (rs : List (Nat × List Byte)) (cid : Nat) :
    s.cacheOnly (t.dieWrite w id off rs cid).1 := h.mem (State.dieWrite_mem t w id off rs cid (.refl t))

theorem poisonAt (h : s.cacheOnly t) (a : Word) : s.cacheOnly (t.poisonAt a) := h.mem (State.poisonAt_mem t a (.refl t))

theorem l1Read (h : s.cacheOnly t) (c : Nat) (l : L1Line) (a n : Nat) : s.cacheOnly (t.l1Read c l a n).1 := by
  unfold State.l1Read
  split
  · exact h
  · exact (h.modCache c _).countEcc c _ _ _ _

theorem l1WriteBack (h : s.cacheOnly t) (c : Nat) (l : L1Line) : s.cacheOnly (t.l1WriteBack c l).1 := by
  unfold State.l1WriteBack
  split
  · exact h
  · have hread := h.l1Read c l 0 32
    dsimp only
    split
    · rename_i hw
      exact (((hread.dieWrite _ _ _ _ _).fst hw).each (fun v x hv => hv.poisonAt _) _).modCache c _
    · exact hread.dieWrite _ _ _ _ _

theorem l1Tags (h : s.cacheOnly t) (c sector : Nat) : s.cacheOnly (t.l1Tags c sector) := by
  refine h.each (fun v l hv => ?_) _
  have hmet := (hv.modCache c (fun x => { x with lines := x.lines.map (fun y => if y.addr = l.addr then { y with tagHurt := none } else y) })).countEcc
    c v.now (!(l.tagHurt == some true)).toNat (l.tagHurt == some true).toNat 3
  dsimp only
  split
  · exact hmet
  · split
    · exact hmet.l1Drop c _
    · exact ((hmet.l1WriteBack c l).l1Drop c _).each (fun _ _ hu => hu.poisonAt _) _

theorem l1Put (h : s.cacheOnly t) (c : Nat) (l : L1Line) : s.cacheOnly (t.l1Put c l).1 := by
  have hdrop := h.l1Drop c l.addr
  unfold State.l1Put
  dsimp only
  split
  · exact hdrop.modCache c _
  · split
    · exact hdrop
    · rename_i v _
      have hback := (hdrop.mem (State.tick1_mem _ (.refl _))).l1WriteBack c v
      split
      · rename_i hw
        exact ((hback.fst hw).l1Drop c _).modCache c _
      · rename_i hw
        exact ((hback.fst hw).l1Drop c _).modCache c _
      · rename_i hw
        exact hback.fst hw

theorem lostEntry (h : s.cacheOnly t) (c : Nat) (e : CbEntry) : s.cacheOnly (t.lostEntry c e) :=
  h.each (fun v _ hv => hv.mem (State.storeLost_mem v _ _ _ _ (.refl v))) _

theorem bufDrain (h : s.cacheOnly t) (c : Nat) (e : CbEntry) : s.cacheOnly (t.bufDrain c e).1 := by
  have hdrop {v : State} (hv : s.cacheOnly v) : s.cacheOnly (v.bufDrop c e) := hv.modCache c _
  have hheld {v : State} (hv : s.cacheOnly v) : s.cacheOnly (v.bufHold c e) := hv.modCache c _
  unfold State.bufDrain
  dsimp only
  refine ite (fun _ => ?_) (fun _ => ?_)
  · exact (hdrop h).mem (State.failCid_mem _ _ _ _ _ (.refl _))
  · have hwrite := h.dieWrite (asker c e.ctx) (e.sector / 2 ^ 35) (e.sector % 2 ^ 35 * 32)
      ((runsOf e.bytes).map (fun r => (e.sector % 2 ^ 35 * 32 + r.1, r.2))) e.cid
    split
    all_goals rename_i hw; have ht := hwrite.fst hw
    · exact (hdrop ht).modCache c _
    · exact hheld ht
    · exact ht
    · exact (hdrop ht).lostEntry c e
    · exact (hheld ht).mem (State.joinPage_mem _ _ _ _ (.refl _))
    · exact hheld ht

theorem bufDrainCtx (h : s.cacheOnly t) (c k : Nat) : s.cacheOnly (t.bufDrainCtx c k).1 :=
  each_inv (fun p : State × Bool => s.cacheOnly p.1) _ _ _ (fun _ e hp => bufDrain hp c e) h

theorem bufStore (h : s.cacheOnly t) (c k sector off : Nat) (bs : List Byte) (wcomb : Bool) (cid : Nat) :
    s.cacheOnly (t.bufStore c k sector off bs wcomb cid).1 := by
  have henter {v : State} (hv : s.cacheOnly v) (f : Cache → Cache) : s.cacheOnly (v.tick1.modCache c f) :=
    (hv.mem (State.tick1_mem v (.refl v))).modCache c f
  unfold State.bufStore
  dsimp only
  split
  · exact h.modCache c _
  · split
    · exact henter h _
    · split
      · exact h
      · rename_i e _
        split
        · rename_i hw
          exact henter ((h.bufDrain c e).fst hw) _
        · rename_i hw
          exact (h.bufDrain c e).fst hw

/-- A load fills the cache and asks the home (R135, R233 to R237). -/
theorem gLoad (h : s.cacheOnly t) (c k : Nat) (a : Word) (n cid : Nat) : s.cacheOnly (t.gLoad c k a n cid).1 := by
  have hstart := (h.obbUse c (idOf a)).l1Tags c (a.toNat / 32)
  unfold State.gLoad
  dsimp only
  generalize (t.obbUse c (idOf a)).l1Tags c (a.toNat / 32) = w at hstart ⊢
  split
  · have hdrain := hstart.bufDrainCtx c k
    split
    · rename_i hw
      exact hdrain.fst hw
    · rename_i hw
      exact (hdrain.fst hw).dieRead _ _ _ _ _
  · split
    · rename_i l _
      have hread := hstart.l1Read c l (offOf a % 32) n
      split
      · rename_i hw
        exact hread.fst hw
      · rename_i hw
        exact hread.fst hw
    · have hread := hstart.dieRead c (idOf a) (offOf a / 32 * 32) 32 cid
      split
      · rename_i hw
        exact (hread.fst hw).l1Put c _
      · rename_i hw
        have hagain := (hread.fst hw).dieRead c (idOf a) (offOf a) n cid
        split
        · rename_i hu
          exact hagain.fst hu
        · exact hread.fst hw
        · exact hagain
      · exact hread

/-- A store enters the cache or the buffer, or asks the home (R135, R233 to R237). -/
theorem gStore (h : s.cacheOnly t) (c k : Nat) (a : Word) (bs : List Byte) (cid : Nat) : s.cacheOnly (t.gStore c k a bs cid).1 := by
  have hstart := (h.obbUse c (idOf a)).l1Tags c (a.toNat / 32)
  unfold State.gStore
  dsimp only
  generalize (t.obbUse c (idOf a)).l1Tags c (a.toNat / 32) = w at hstart ⊢
  split
  · have hdrain := hstart.bufDrainCtx c k
    split
    · rename_i hw
      exact hdrain.fst hw
    · rename_i hw
      exact (hdrain.fst hw).dieWrite _ _ _ _ _
  · split
    · split
      · rename_i l _
        refine State.cacheOnly.modCache ?_ c _
        split
        · exact hstart
        · exact hstart.l1Read c l _ _
      · have hread := hstart.dieRead c (idOf a) (offOf a / 32 * 32) 32 cid
        split
        · rename_i hw
          exact (hread.fst hw).l1Put c _
        · rename_i hw
          exact (hread.fst hw).dieWrite _ _ _ _ _
        · exact hread
    · exact hstart.bufStore c k _ _ _ _ _

end State.cacheOnly

section
variable {s t : State} (h : s.cacheOnly t)
include h

theorem State.cacheOnly.vec (c : Nat) : (t.coreAt c).vec = (s.coreAt c).vec := by
  have hc : t.coreAt c = _ := h.2 c
  rw [hc]

theorem State.cacheOnly.localByte (d y : Nat) : t.localByte d y = s.localByte d y := by
  refine State.localByte_congr (fun c => ?_) (by rw [h.1]) d y
  have hc : t.coreAt c = _ := h.2 c
  rw [hc]

end

/-! ### The element at which the queue waits (R201) -/

/-- An element changes neither the queue nor a register of its core. -/
theorem State.vec_vmemElem (s : State) (c cid : Nat) (m : VMem) (j : Nat) :
    ((s.vmemElem c cid m j).1.coreAt c).vec = (s.coreAt c).vec := by
  have hcode {v : State} (hv : s.fetchOnly v) : (v.coreAt c).vec = (s.coreAt c).vec := hv.coreAt_eq c Core.vec fun _ _ _ _ _ _ => rfl
  have hwrite (d la : Nat) (bs : List Byte) := hcode (State.localWrite_fetch d la bs cid (.refl s))
  have hread (d la n : Nat) := hcode (State.localRead_fetch d la n (.refl s))
  unfold State.vmemElem
  dsimp only
  split
  · split
    · exact hwrite c _ _
    · split
      · exact hread c _ _
      · exact hread c _ _
  · split
    · split
      · rfl
      · split
        · exact hwrite _ _ _
        · split
          · exact hread _ _ _
          · exact hread _ _ _
    · split
      · split
        · rename_i h _
          exact hcode (State.openFault_mem s h (.refl s)).fetchOnly
        · exact ((State.cacheOnly.refl s).gStore c 0 _ _ cid).vec c
      · have hload := (State.cacheOnly.refl s).gLoad c 0 (m.addr j) m.z cid
        split
        · rename_i hg
          exact (hload.fst hg).vec c
        · rename_i hg
          exact (hload.fst hg).vec c

theorem each_of_single {α β : Type} {xs : List α} {j : α} (h : xs = [j]) (z : β) (f : β → α → β) : each xs z f = f z j := by
  subst h
  rfl

section
variable {s v : State} {c : Nat} {e : VEntry} {r : List VEntry} (h : s.VecDue c e r) {m : VMem}
  (hm : vmemOf (s.coreAt c) e.instr e.ops = some m) {j : Nat} (hleft : e.left = [j])
include h hm hleft

/-- An element that fails empties the queue (R185). -/
theorem State.VecDue.element_fault {code sub : Nat} {a : Word} (hf : s.vmemElem c (s.coreAt c).cid m j = (v, .fault code sub a)) :
    exec (.vectorQueueComplete c) s = .next (v.vecFault c code sub a e.pc) := by
  have hrun := (each_of_single hleft _ _).trans (State.vmemStep_fault (e := e) hf)
  exact exec_vectorQueueComplete_of_fault ((h.complete_memory hm).trans (State.vmemRun_of_fault hrun))

/-- An element whose page has no frame holds the queue (R201). -/
theorem State.VecDue.element_page {obj pg : Nat} (hp : s.vmemElem c (s.coreAt c).cid m j = (v, .page obj pg)) :
    ∃ u, exec (.vectorQueueComplete c) s = .next u ∧ (u.coreAt c).vec.page = some (obj, pg) ∧ (u.coreAt c).vec.queue = e :: r := by
  have hvec : (v.coreAt c).vec = (s.coreAt c).vec := by
    have hkept := s.vec_vmemElem c (s.coreAt c).cid m j
    rwa [hp] at hkept
  have hstep := (each_of_single hleft _ _).trans (State.vmemStep_page (e := e) hp)
  have hrun := (h.complete_memory hm).trans (State.vmemRun_of_page hstep)
  obtain ⟨ag, hexec⟩ := exec_vectorQueueComplete s c
  obtain ⟨u, hu⟩ : ∃ u, s.vecComplete c = u := ⟨_, rfl⟩
  have hcore : (u.coreAt c).vec = { (s.coreAt c).vec with queue := e :: r, page := some (obj, pg) } := by
    rw [← hu, hrun, (State.joinPage_mem _ _ _ _ (.refl _)).fetchOnly.coreAt_eq c Core.vec fun _ _ _ _ _ _ => rfl,
      State.coreAt_modCore_self, State.vecKeep, State.coreAt_modCore_self, hvec, h.queue]
    rfl
  rw [hu] at hexec
  exact ⟨_, hexec, by rw [State.coreAt_withAgenda, hcore], by rw [State.coreAt_withAgenda, hcore]⟩

end

/-! ### An element in a STRONG page whose home holds its sector (R200, R237) -/

/-- An access of a core to a STRONG page whose sector its home holds, with nothing in the buffer and no error in the tags. -/
structure State.AtHomeStrong (s : State) (c : Nat) (p : Word) (h : Home) (l : SliceLine) : Prop where
  strong : (s.pageType (idOf p) (offOf p)).1 = .strong
  home : s.atHome p h l
  drained : (s.coreAt c).cache.cbuf = []
  tags : ∀ y ∈ (s.coreAt c).cache.lines, y.tagHurt = none

theorem State.globalByte_obbUse (s : State) (c id : Nat) (y : Word) : (s.obbUse c id).globalByte y = s.globalByte y :=
  (s.obbUse_obbOnly c id).same.1.globalByte_of_lines (s.obbUse_obbOnly c id).same.2 y

section
variable {s : State} {c : Nat} {p : Word} {h : Home} {l : SliceLine} (ha : s.AtHomeStrong c p h l)
include ha

theorem State.AtHomeStrong.obbUse : (s.obbUse c (idOf p)).AtHomeStrong c p h l := by
  have hobb := s.obbUse_obbOnly c (idOf p)
  have hcore := hobb.2 c
  have hobjs : (s.obbUse c (idOf p)).objs = s.objs := by rw [hobb.1]
  exact ⟨by rw [State.pageType_congr hobjs, ha.strong], State.atHome_congr hobb.same ha.home,
    by rw [hcore]; exact ha.drained, by rw [hcore]; exact ha.tags⟩

theorem State.AtHomeStrong.load {n : Nat} (hn : offOf p % 32 + n ≤ 32) (k cid : Nat) :
    ∃ u, s.gLoad c k p n cid = (u, .ok (l.data.readN (offOf p % 256) n)) ∧ ∀ y, u.globalByte y = s.globalByte y := by
  have hw := ha.obbUse
  obtain ⟨u, hu, hrel⟩ := State.homeRead_atHome hw.home (asker c k) n cid hn
  refine ⟨u, ?_, fun y => (hrel.globalByte_self hw.home y).trans (s.globalByte_obbUse c _ y)⟩
  rw [State.gLoad_strong (State.l1Tags_of_clean hw.tags _) hw.strong hw.drained, State.dieRead_uncached hw.home.1 hw.strong, hu]

theorem State.AtHomeStrong.store {bs : List Byte} (hn : offOf p % 32 + bs.length ≤ 32) (k cid : Nat) :
    ∃ u, s.gStore c k p bs cid = (u, .ok []) ∧ s.stored u p bs := by
  have hw := ha.obbUse
  obtain ⟨u, hu, hrel⟩ := State.rawWrite_atHome hw.home (asker c k) cid bs
  obtain ⟨hin, hout⟩ := hrel.stored hw.home hn
  exact ⟨u, by rw [State.gStore_strong (State.l1Tags_of_clean hw.tags _) hw.strong hw.drained, hu], hin,
    fun y hy => (hout y hy).trans (s.globalByte_obbUse c _ y)⟩

/-- A sector that its home holds is stored without waiting for its page. -/
theorem State.AtHomeStrong.no_wait : (s.homeOf (idOf p) (offOf p)).filter (s.storeWaits c p) = none := by
  obtain ⟨hhome, -, -, hty, -, hfind, hvalid, -⟩ := ha.home
  simp [hhome, State.storeWaits, hty, hfind, hvalid]

variable {m : VMem} {j : Nat} (hl : m.local_ = false) (hp : m.addr j = p) (hal : idOf p ≠ aliasId) (hn : offOf p % 32 + m.z ≤ 32)
include hl hp hal hn

theorem State.AtHomeStrong.vmemElem_load (hst : m.store = false) (cid : Nat) : ∃ u, s.vmemElem c cid m j
      = (u, .got (BitVec.ofNat 32 (leNat (l.data.readN (offOf p % 256) m.z)))) ∧ s.cacheOnly u ∧ ∀ y, u.globalByte y = s.globalByte y := by
  obtain ⟨u, hu, hbytes⟩ := ha.load hn 0 cid
  refine ⟨u, ?_, ((State.cacheOnly.refl s).gLoad c 0 p m.z cid).fst hu, hbytes⟩
  simp only [State.vmemElem, hl, hp, hal, hst, hu, Bool.false_eq_true, if_false]

theorem State.AtHomeStrong.vmemElem_store (hst : m.store = true) (cid : Nat) : ∃ u, s.vmemElem c cid m j = (u, .done) ∧ s.cacheOnly u
      ∧ s.stored u p (leBytes m.z (((s.coreAt c).ve m.reg j).toNat % 2 ^ (8 * m.z))) := by
  obtain ⟨u, hu, hbytes⟩ := ha.store (bs := leBytes m.z (((s.coreAt c).ve m.reg j).toNat % 2 ^ (8 * m.z)))
    (by rw [length_leBytes]; exact hn) 0 cid
  refine ⟨u, ?_, ((State.cacheOnly.refl s).gStore c 0 p _ cid).fst hu, hbytes⟩
  simp only [State.vmemElem, hl, hp, hal, hst, hu, ha.no_wait, Bool.false_eq_true, if_false, if_true]
  rfl

end

/-- The bytes of an element are those of a size field (R135). -/
theorem vmemOf_size {x : Core} {i : Instr} {ops : List Word} {m : VMem} (h : vmemOf x i ops = some m) : ∃ z : Size, m.z = sizeBytes z := by
  cases i with
  | vld | vst | vldl | vstl =>
    cases h
    exact ⟨.w, rfl⟩
  | vlds z | vgath z | vscat z =>
    cases h
    exact ⟨z, rfl⟩
  | _ => cases h

theorem mem_left_lt {e : VEntry} {j : Nat} (hleft : e.left = [j]) : j < 64 :=
  lt_of_mem_activeOf (vlen := e.vlen) (mask := e.mask &&& ~~~e.did) (by rw [show activeOf _ _ = _ from hleft]; exact List.mem_singleton.2 rfl)

section
variable {s : State} {c : Nat} {e : VEntry} {r : List VEntry} (hdue : s.VecDue c e r) {m : VMem}
  (hm : vmemOf (s.coreAt c) e.instr e.ops = some m)
include hdue hm

/-- The last element of a memory instruction in a STRONG page, here of one whose sector its home holds. -/
theorem State.VecDue.strong {j : Nat} (hleft : e.left = [j]) {h : Home} {l : SliceLine} (hl : m.local_ = false) (hbuf : e.buf = [])
    (hal : idOf (m.addr j) ≠ aliasId) (hz : (m.addr j).toNat % m.z = 0) (ha : s.AtHomeStrong c (m.addr j) h l) :
    let x := s.coreAt c
    ∃ u, (exec (.vectorQueueComplete c) s = .next u ∧ (u.coreAt c).vec.queue = r) ∧ (∀ d y, u.localByte d y = s.localByte d y)
      ∧ (m.store = true → x.SameV (u.coreAt c) ∧ s.stored u (m.addr j) (leBytes m.z ((x.ve m.reg j).toNat % 2 ^ (8 * m.z))))
      ∧ (m.store = false → (∀ y, u.globalByte y = s.globalByte y) ∧ ∀ q i, i < 64 → (u.coreAt c).ve q i =
          if q = m.reg ∧ i = j then BitVec.ofNat 32 (leNat (l.data.readN (offOf (m.addr j) % 256) m.z)) else x.ve q i) := by
  intro x
  obtain ⟨z, hsize⟩ := vmemOf_size hm
  have hn : offOf (m.addr j) % 32 + m.z ≤ 32 := hsize ▸ sector_of_aligned (hsize ▸ hz)
  have hve {t : State} (ht : s.cacheOnly t) (q : VReg) (i : Nat) : (t.coreAt c).ve q i = x.ve q i := by
    rw [Core.ve, ht.vec c]
    rfl
  have hqueue {t : State} (ht : s.cacheOnly t) : (t.coreAt c).vec.queue = e :: r := by rw [ht.vec c, hdue.queue]
  cases hst : m.store with
  | false =>
    obtain ⟨t, helem, ht, hbytes⟩ := ha.vmemElem_load hl rfl hal hn hst x.cid
    obtain ⟨w, hw⟩ : ∃ w, BitVec.ofNat 32 (leNat (l.data.readN (offOf (m.addr j) % 256) m.z)) = w := ⟨_, rfl⟩
    rw [hw] at helem ⊢
    have hrun := (each_of_single hleft (s, e, VRes.done) (State.vmemStep c x.cid m)).trans (State.vmemStep_got helem)
    obtain ⟨u, hends, hcore, hglobal, hlocal⟩ := hdue.ends_of_done hm hrun (hqueue ht)
    refine ⟨u, hends, fun d y => (hlocal d y).trans (ht.localByte d y), fun hn => (nomatch hn),
      fun _ => ⟨fun y => (hglobal y).trans (hbytes y), fun q i hi => ?_⟩⟩
    have hput := (t.coreAt c).ve_putElems m.reg (keepElems_rising (fun _ => w) [j])
      (keepElems_all (fun _ => w) (fun k hk => by rw [List.mem_singleton.1 hk]; exact mem_left_lt hleft) [] rfl) q hi
    simp only [hbuf] at hcore
    rw [hcore]
    refine hput.trans ?_
    rw [sget_keepElems, hve ht, hve ht]
    by_cases hq : q = m.reg
    · simp [hq, sget]
    · simp [hq]
  | true =>
    obtain ⟨t, helem, ht, hin, hout⟩ := ha.vmemElem_store hl rfl hal hn hst x.cid
    have hrun := (each_of_single hleft (s, e, VRes.done) (State.vmemStep c x.cid m)).trans (State.vmemStep_done helem)
    obtain ⟨u, hends, hcore, hglobal, hlocal⟩ := hdue.ends_of_done hm hrun (hqueue ht)
    simp only [hbuf] at hcore
    refine ⟨u, hends, fun d y => (hlocal d y).trans (ht.localByte d y), fun _ => ⟨fun q i _ => ?_, fun i hi => ?_, fun y hy => ?_⟩,
      fun hn => nomatch hn⟩
    · rw [hcore]
      exact hve ht q i
    · rw [hglobal, hin i hi]
    · rw [hglobal, hout y hy]

end

/-- Settles O39: the queue's head starts and completes by the laws of its events, and the effect of each family of instructions is
its own lemma about a head that is due. -/
theorem vectorQueueRuns : Obligations.VectorQueueRuns := by
  intro s c e r hq x starts
  refine ⟨fun hf hv => ?_, fun hf hv => ?_, exec_vectorQueueStart_of_started hq, fun n hf hn => exec_vectorQueueComplete_early hq hf hn, ?_⟩
  · obtain ⟨t, hexec, hqueue, hagenda⟩ := exec_vectorQueueStart_of_head hq hf
    exact ⟨t, ⟨hexec, hqueue⟩, by rw [hagenda, if_neg hv]⟩
  · obtain ⟨t, hexec, hqueue, hagenda⟩ := exec_vectorQueueStart_of_head hq hf
    exact ⟨t, ⟨hexec, hqueue⟩, by rw [hagenda, if_pos hv]⟩
  · intro n hf hn hp hh ht he act on below ends runs sameG sameV sameM elems subs marks scalar
    have hdue : s.VecDue c e r := ⟨hq, ⟨n, hf, hn⟩, hp, hh, ht, he⟩
    refine ⟨hdue.arithmetic, fun _ _ _ _ _ _ _ _ hi hd => hdue.converts hi hd, hdue.comparisons, hdue.moves, hdue.reductions, hdue.masks,
      fun _ _ _ _ hi hl hread => hdue.table hi hl hread, ?_⟩
    intro m hm left at_
    refine ⟨hdue.local_ hm, fun j hleft => ⟨?_, fun _ _ _ _ => hdue.element_fault hm hleft, fun _ _ _ => hdue.element_page hm hleft⟩⟩
    exact fun h l hl hb hal hz hty hhome hbuf hlines =>
      hdue.strong hm hleft hl hb hal hz ⟨hty, hhome, hbuf, fun y hy => (hlines y hy).1⟩

end Sys2Proof.Machine
end
